-- ==== Sys2Proof/Word.lean ====
section
/-! DEFINITION. The word types of the PX-1296 and their plainest arithmetic: bytes, 12-bit words, 32-bit words,
little-endian lists (R13), and the two places where a natural number is read as a signed one (R4). -/

namespace Sys2Proof

/-- One byte of host memory, of an object, or of a message. -/
abbrev Byte := BitVec 8

/-- The device's native 12-bit word: a mantissa, a header, a drive word, a link word. -/
abbrev W12 := BitVec 12

/-- A 32-bit register word or descriptor word. -/
abbrev Word := BitVec 32

/-- A host bus address. -/
abbrev Addr := BitVec 64

/-- The bit field `[hi:lo]` of a number, as a number. -/
def fieldOf (x hi lo : Nat) : Nat := (x >>> lo) % 2 ^ (hi + 1 - lo)

/-- Two's complement reading of the low `w` bits (R4). -/
def signedOf (w x : Nat) : Int :=
  if x % 2 ^ w < 2 ^ (w - 1) then (x % 2 ^ w : Nat) else (x % 2 ^ w : Nat) - (2 ^ w : Nat)

/-- The low `w` bits of an integer, two's complement (R4). -/
def unsignedOf (w : Nat) (x : Int) : Nat := (x % (2 ^ w : Nat)).toNat

/-- Little-endian bytes of a number, `n` of them (R13). -/
def leBytes : Nat → Nat → List Byte
  | 0, _ => []
  | n + 1, x => BitVec.ofNat 8 x :: leBytes n (x / 256)

/-- The number that a list of bytes spells, lowest byte first (R13). -/
def leNat : List Byte → Nat
  | [] => 0
  | b :: bs => b.toNat + 256 * leNat bs

/-- `n` bytes of a list from an offset; bytes beyond its end read as 0. -/
def bytesAt (bs : List Byte) (off n : Nat) : List Byte :=
  (List.range n).map fun i => bs.getD (off + i) 0

/-- The little-endian number of `n` bytes at an offset. -/
def leAt (bs : List Byte) (off n : Nat) : Nat := leNat (bytesAt bs off n)

/-- Numerical saturation to a range. -/
def satNat (x hi : Nat) : Nat := if hi < x then hi else x

/-- Saturation of an integer to a closed range. -/
def satInt (x lo hi : Int) : Int := if x < lo then lo else if hi < x then hi else x

/-- Ceiling division. -/
def ceilDiv (a b : Nat) : Nat := (a + b - 1) / b

end Sys2Proof
end

