-- ==== Sys2Proof/Syntax.lean ====
section
/-! DEFINITION. The commands of the PX-1296: one constructor per row of spec/opcode_table.json, with the operands the
row's rule gives it. What another party delivers (the data of a host read, a message's bytes, a sensor's reading, a pin's
level) is an operand; everything else is found in the State. -/

namespace Sys2Proof

/-- How a host read fails (R114): the code is the reason in the detail field. -/
inductive ReadFail where
  | completionTimeout | unsupportedRequest | completerAbort | poisoned
deriving DecidableEq, Repr

/-- The R114 reason code of a failed host read. -/
def ReadFail.code : ReadFail → Nat
  | .completionTimeout => 1
  | .unsupportedRequest => 2
  | .completerAbort => 3
  | .poisoned => 4

/-- What host memory answered to the read a step makes: the bytes below the lowest failed address, and the failure of
that address if there was one (R600). -/
structure HostRead where
  bytes : List Byte
  fail  : Option ReadFail
deriving DecidableEq, Repr

/-- What a doorbell read answered: a tail, or a failure (R86, R87). -/
inductive DoorbellRead where
  | tail (t : Word)
  | failed (f : ReadFail)
deriving DecidableEq, Repr

/-- What the boot ROM finds when it looks at one firmware image (R561): its header fields, and whether the Ed25519
signature verifies under the Elaeta key. -/
structure BootImage where
  magic         : Word
  version       : Word
  length        : Word
  commitVersion : Bool
  signatureOk   : Bool
deriving DecidableEq, Repr

/-- One channel's averages of one calibration measurement, in sixteenths of an LSB (u12.4). Electrical (R495): the
zero, middle and full references. Photometric (R498): black, grey, and nothing. -/
structure CalReading where
  chan : Fin 16
  a    : Nat
  b    : Nat
  c    : Nat
deriving DecidableEq, Repr

/-- How a flash write of the calibration store ends (R504, R505). -/
inductive StoreOutcome where
  | verified | failedTwice | leftWindow
deriving DecidableEq, Repr

/-- Where a tile lives (R128). -/
inductive Place where
  | chandlery
  | dram (ch : Fin 16)
deriving DecidableEq, Repr

/-- The units that throttling slows with ebb slots (R488). -/
inductive EbbUnit where
  | sawyer | decoders | scalers | causeway
deriving DecidableEq, Repr

/-- How the link ECC of one DRAM read turned out (R452). -/
inductive DramResult where
  | clean | corrected | uncorrectable
deriving DecidableEq, Repr

/-- The commands, in the order of the table. -/
inductive Instr where
  | railDrop
  | powerOnResetRelease (rolePref : Bool) (bootMode : Fin 4)
  | pwrResetNAssert
  | pwrResetNRelease (rolePref : Bool) (bootMode : Fin 4)
  | perstNAssert
  | perstNRelease
  | pfFunctionLevelReset
  | vfFunctionLevelReset (f : Fin 16)
  | bootImageVerified (directoryOk : Bool) (a b : BootImage)
  | bootConfigRead (record : List Byte)
  | bootPlateDecoded (stream : List Byte)
  | dramTrainingDone (working : BitVec 16)
  | storeReadDone
  | jtagUnlock (signatureOk : Bool)
  | watchdogExpiry
  | purserRestartDone
  | registerWrite (f : Fin 16) (off size : Nat) (value : Word)
  | wideRegisterRead (f : Fin 16) (off size : Nat)
  | gctlLock
  | ringEnable (r : Fin 128)
  | ringDisable (r : Fin 128)
  | doorbellEnableReadReturn (r : Fin 128) (res : DoorbellRead)
  | pollRound
  | pollReadReturn (r : Fin 128) (res : DoorbellRead)
  | descriptorFetch (r : Fin 128)
  | fetchReturn (r : Fin 128) (data : HostRead)
  | descriptorStart (id : Nat)
  | nop (r : Fin 128)
  | objAlloc (r : Fin 128)
  | objFree (r : Fin 128)
  | objWrite (r : Fin 128)
  | objWriteDone (id : Nat) (data : HostRead)
  | objRead (r : Fin 128)
  | objReadDone (id : Nat) (poisonedRead : Bool)
  | plateLoad (r : Fin 128)
  | plateLoadStart (id : Nat)
  | plateLoadDone (id : Nat) (data : HostRead)
  | streamDecode (r : Fin 128)
  | streamContinue (r : Fin 128)
  | streamDescStart (id : Nat)
  | streamDescEnd (id : Nat) (data : HostRead)
  | strdKill (index : Fin 32)
  | sceneCommit (r : Fin 128) (table : HostRead)
  | toneCurvePin (id : Nat)
  | modeSet (r : Fin 128)
  | modeSetStop (r : Fin 128)
  | shepherdUpdate (r : Fin 128) (table : HostRead)
  | signatureExpect (r : Fin 128) (table : HostRead)
  | sawyerList (r : Fin 128) (list : HostRead)
  | sawyerListStart (id : Nat) (list : HostRead)
  | fill (id k : Nat)
  | copy (id k : Nat)
  | convert (id k : Nat)
  | blend (id k : Nat)
  | maskFill (id k : Nat)
  | waitScan (id k : Nat)
  | sawyerRowDone (id k : Nat)
  | sawyerCommandDone (id k : Nat)
  | tallyJob (r : Fin 128)
  | tallyJobStart (id : Nat)
  | tallyJobDone (id : Nat) (data : HostRead) (poisonedRead : Bool)
  | tallyUnitRead (k : Fin 8)
  | calLoad (r : Fin 128)
  | calLoadStart (id : Nat)
  | calLoadReady (id : Nat)
  | calMeasureElectrical (r : Fin 128)
  | calMeasurePhotometric (r : Fin 128)
  | calMeasureRepeat (id : Nat) (first : List CalReading)
  | calMeasureDone (id : Nat) (second : List CalReading)
  | calStore (r : Fin 128)
  | calStoreDone (outcome : StoreOutcome)
  | tideProgramOut (r : Fin 128) (block : HostRead)
  | tideProgramCap (r : Fin 128) (block : HostRead)
  | tideStepArm (r : Fin 128)
  | fence (r : Fin 128)
  | waitTime (r : Fin 128)
  | waitTimeExpiry (id : Nat)
  | harbTileMove (tile : Nat) (dest : Place) (unreadable : Bool)
  | relocationEnd (ch : Fin 16)
  | harbClearPeaks
  | lineSendSlot (p : Fin 4)
  | segmentSendSlot (p : Fin 4)
  | captureFrameDone (p : Fin 4) (dropped : List Nat)
  | weaveTileStart (shuttle : Fin 128)
  | weaveSegmentDone (shuttle : Fin 128)
  | witnessTileDone (p : Fin 4)
  | throttleEbbTimer (u : EbbUnit)
  | rmapSignatureCheck (p : Fin 4) (upset : Word)
  | almanacScrub (p : Fin 4) (damage : Fin 3 × Word)
  | rmapSigRead (p : Fin 4)
  | shepStatRead (p : Fin 4)
  | safeStateNEdge (level : Bool)
  | safeStateApply
  | safeStateCease
  | watchNop (mosi : List Byte)
  | watchRead (mosi : List Byte)
  | watchWrite (mosi : List Byte)
  | wpActivate (p : Fin 4)
  | wpRmsigRead (p : Fin 4)
  | wpRegionSignatureRead (p : Fin 4) (region : Fin 32)
  | scanClearUnder (p : Fin 4)
  | modeRetransmit (p : Fin 4)
  | modeStartTimeout (p : Fin 4)
  | modeAckTimeout (p : Fin 4)
  | stopHoldEnd (p : Fin 4)
  | grossMarker (p : Fin 4)
  | caps (p : Fin 4) (msg : List Byte)
  | status (p : Fin 4) (msg : List Byte)
  | laneLoss (p : Fin 4) (msg : List Byte)
  | modeAck (p : Fin 4) (msg : List Byte)
  | train (p : Fin 4) (msg : List Byte)
  | tally (p : Fin 4) (msg : List Byte)
  | leaseEvent (p : Fin 4) (msg : List Byte)
  | backChannelSilent (p : Fin 4)
  | backChannelLockTimeout (p : Fin 4)
  | trainingTimeout (p : Fin 4)
  | trainingRetry (p : Fin 4)
  | retrainAttemptTimeout (p : Fin 4) (lane : Fin 12)
  | retrainPauseEnd (p : Fin 4) (lane : Fin 12)
  | laneWakeDone (p : Fin 4)
  | linkLoopStart (p : Fin 4)
  | loopbackEnd (p : Fin 4) (errors : List Nat)
  | dramRequestArrive (ch : Fin 16) (port : Fin 8) (bank : Fin 16) (row : Nat) (col : Fin 32) (write : Option (List Byte))
  | dramRequestDone (ch : Fin 16) (res : DramResult)
  | mr4Poll (ch : Fin 16) (mr4 : Byte)
  | perBankRefresh (ch bank : Fin 16)
  | refreshWindowEnd (ch bank : Fin 16)
  | disturbanceHoldEnd (ch bank : Fin 16) (port : Fin 8)
  | selfRefreshEntry (ch : Fin 16)
  | selfRefreshExitDone (ch : Fin 16)
  | periodicRetrainSlice (ch : Fin 16) (temp : Int) (marginLow : Bool)
  | recoveryRetrainDone (ch : Fin 16) (temp : Int) (found : Bool)
  | dramClearStats
  | ptmDialogueStart
  | ptmResponse (master : Nat) (turnaround : Nat)
  | ptmTimeout
  | tideResume
  | tideNowRead
  | tideOutPulseStart (n : Fin 8)
  | tideOutPulseEnd (n : Fin 8)
  | tideCapEdge (n : Fin 4) (rising : Bool)
  | dieSensorSample (k : Fin 24) (reading : Int)
  | analogueTrip
  | remoteDiodeSample (n : Fin 8) (dv : Nat)
  | boardSensorSample (dv : Nat)
  | ainSample (n : Fin 8) (raw : BitVec 12)
  | peerOkToggle
  | peerOkInEdge
  | heartbeatLost
  | causewayDown
  | pairHelloTimeout
  | powerOnTransmitTest
  | idleRecord (record : List Byte)
  | causewayIdleTimer
  | descRecord (record : List Byte)
  | dataRecord (record : List Byte)
  | doneRecord (record : List Byte)
  | applyRecord (record : List Byte)
  | regRecord (record : List Byte)
  | snapobjRecord (record : List Byte)
  | snapRecord (record : List Byte)
  | snapstateRecord (record : List Byte)
  | breakRecord (record : List Byte)
  | faultRecord (record : List Byte)
  | resignRecord (record : List Byte)
  | ackRecord (record : List Byte)
  | ackTimer
  | helloRecord (record : List Byte)
  | helloTimer
  | trainRecord (record : List Byte)
  | leaseRenew
  | leaseClaim (p : Fin 4)
  | claimRefusedTimeout (p : Fin 4)
  | resignWaitTimeout
  | cwayResign
  | cwayRejoin
  | cwayPromote
  | fltAck (seq : Word)
  | fltPinRelease
  | fltFirstRead
  | pcieLinkUp
  | causewayLaneLost (receive : Bool) (lane : Fin 2)
  | internalConsistencyFailure (unit : Byte)
  | watchBadOpcodeFrame (mosi : List Byte)
deriving DecidableEq, Repr

end Sys2Proof
end

