-- ==== Sys2Proof/Decode.lean ====
section
/-! DEFINITION. The PX-1296 is a block that takes commands; spec/opcode_table.json gives no row any bits (each row's
`fields` is empty and no row has `fixed`), so no word spells a command. -/

namespace Sys2Proof

/-- The command that a word spells by the table's bits: none, since no row of the table gives bits. -/
def decodeTableWord (_nbits _w : Nat) : Option Instr := none

end Sys2Proof
end

