-- ==== Sys2Proof/Machine/State.lean ====
section
/-! DEFINITION. The state of the PX-1296 as plain data: every register, buffer, queue, counter, mode and pin the spec
gives the device, the queue of waiting commands, and State.reset. A register whose bits the manual numbers and nothing
else of the State holds lives in `regs` (PF BAR0 words) or `wregs` (Watch-port words), as the words that differ from
their reset values; a register whose value is some unit's state is that unit's state, and its word is computed when it is
read (Machine/Regs.lean, Machine/Flags.lean). Times are CLK_CORE ticks (R5); a timer is the tick it is due at, or none. -/

namespace Sys2Proof.Machine

/-- Sparse data by key, in one canonical form: keys strictly rising, and (for tables that have a default) no entry equal
to the default. -/
abbrev Tab (α : Type) := List (Nat × α)

/-- A timer: the tick at which it is due, or none when it is not running. -/
abbrev Timer := Option Nat

/-! ### Rings, descriptors, ledger (03_host_rings.md) -/

/-- RING_CTRL state (R81). -/
inductive RingState where
  | disabled | running | stopped | draining
deriving DecidableEq, Repr

/-- A descriptor as read from its ring: its ring, the consumed count at which it sits, and its 16 words (R93). -/
structure Desc where
  ring  : Nat
  count : Nat
  words : List Nat
deriving DecidableEq, Repr

/-- One ring: its register set (R81) and what the ring engine holds for it (R86 to R92). -/
structure Ring where
  base       : Nat
  cpl        : Nat
  db         : Nat
  nextSeq    : Nat
  prio       : Nat
  vector     : Nat
  sizeLog    : Nat
  enable     : Bool
  state      : RingState
  /-- The one-time doorbell read of R86 is outstanding. -/
  enableRead : Bool
  /-- A write of 0 to enable came while that read was outstanding (R86). -/
  enableDrop : Bool
  /-- The consumed count C (R86, R88). -/
  consumed   : Nat
  /-- The last tail a poll returned (R88). -/
  tail       : Nat
  /-- A doorbell poll read is outstanding; `pollDrop` when its result is to be discarded (R117). -/
  polling    : Bool
  pollDrop   : Bool
  /-- Failures of poll reads since the last record, and the tick of that record (R87). -/
  pollFails  : Nat
  pollRecAt  : Timer
  /-- The fetch read outstanding: its first count and how many slots (R91). -/
  fetching   : Option (Nat × Nat)
  /-- Descriptors read and not yet compared (R91). -/
  buf        : List Desc
  /-- The compared descriptor whose acceptance is in progress (R96). -/
  cur        : Option Desc
  /-- Acceptances left in the present weighted round (R92). -/
  allowance  : Nat
  /-- The next enable is the first after a takeover (R534). -/
  afterTakeover : Bool
deriving DecidableEq, Repr

/-- One entry of a scene table, resolved (R155): kind-0 entries only. Numbers are the encodings of R155. -/
structure SceneEntry where
  plate    : Nat
  version  : Nat
  edge     : Bool
  fade     : Nat
  mask     : Nat
  maskVer  : Nat
  disp     : Int
  a00      : Int
  a01      : Int
  t0       : Int
  a10      : Int
  a11      : Int
  t1       : Int
  /-- The entry's index in its table, for the detail field of R160. -/
  index    : Nat
deriving DecidableEq, Repr

/-- The pinned copy of a commit's tone curve (R163, R172). -/
inductive TonePin where
  | notNamed | waiting | pinned (bytes : List Byte) | failedCheck | noRoom | lost (reason : Nat)
deriving DecidableEq, Repr

/-- A pending commit (R163). -/
structure Commit where
  id       : Nat
  fn       : Nat
  ring     : Nat
  /-- Target in ns since Tide 0, or none for an immediate commit (R168). -/
  target   : Option Nat
  entries  : List SceneEntry
  protGen  : Option Nat
  tone     : Nat
  pin      : TonePin
  /-- The tick at which the commit became ready (R163, R166). -/
  readyAt  : Option Nat
  /-- A named version's writer failed: the status and detail that R172 gives the commit. -/
  fail     : Option (Nat × Nat)
deriving DecidableEq, Repr

/-- The parameters of a mode (R103, R317). -/
structure Mode where
  hActive   : Nat
  vActive   : Nat
  vBlank    : Nat
  subframes : Nat
  raceLead  : Nat
  ticksFrac : Nat
  ticksInt  : Nat
deriving DecidableEq, Repr

/-- One command of a Sawyer list (R407) with its run state (R413 to R420). -/
inductive SawyerPhase where
  | waiting | running | done | failed
deriving DecidableEq, Repr

structure SawyerCmd where
  words  : List Nat
  phase  : SawyerPhase
  /-- Rows finished, in processing order (R415). -/
  mark   : Nat
  signalled : Bool
  /-- Failing status and detail reason when the command failed. -/
  fail   : Option (Nat × Nat)
  /-- Rows are processed bottom to top (R414). -/
  upward : Bool
deriving DecidableEq, Repr

/-- One eye of an eye table in the encodings of R269. -/
structure Eye where
  ex : Int
  ey : Int
  ez : Int
  vx : Int
  vy : Int
  vz : Int
  /-- Timestamp, ns since Tide 0. -/
  at_ : Nat
  coneU : Nat
  coneV : Nat
deriving DecidableEq, Repr

/-- What an accepted descriptor's job holds while it runs. -/
inductive Job where
  | plain
  /-- OBJ_WRITE: the object and the version being written (0 when not a plate). -/
  | write (handle version : Nat)
  /-- OBJ_READ: the data as they stood at the start (R101). -/
  | read (data : List Byte)
  /-- PLATE_LOAD: number of strips, strips on scalers (scaler numbers), strips still waiting. -/
  | load (strips : Nat) (scalers : List Nat) (waiting : Nat)
  /-- A decode descriptor: its context, the destination it writes, the STREAM_DECODE that opened the context, and the descriptor of the
  stream that named the destination with its dst_offset. -/
  | stream (ctx dst opener namer off : Nat)
  /-- SAWYER_LIST: its commands, as read at acceptance and again at the start. -/
  | sawyer (cmds : List SawyerCmd)
  /-- TALLY_JOB on a unit. -/
  | tally (unit : Nat)
  /-- CAL_LOAD: started with its pinned copy; ready once the sensitivities are computed (R244). -/
  | calLoad (bytes : List Byte) (handle : Nat)
  /-- CAL_MEASURE: readings of the first and second measurement, due time of the repeat, measuring frames presented. -/
  | calMeasure (first : List CalReading) (repeatAt : Timer) (frames : Nat) (firstFrame : Nat) (safeHit : Bool)
  /-- TIDE_PROGRAM: the parameter block read at acceptance (R466). -/
  | tide (block : List Byte)
  /-- CAL_STORE: the flash write has begun. -/
  | calStore
  /-- SCENE_COMMIT: the objects its table and its tone field name (R106). -/
  | commit (handles : List Nat)
  /-- SHEPHERD_UPDATE: the eye table read at acceptance (R270, R271). -/
  | eyes (table : List Eye)
deriving DecidableEq, Repr

/-- A ledger slot: one accepted descriptor (R96) until its completion record is written. -/
structure Entry where
  id       : Nat
  fn       : Nat
  desc     : Desc
  /-- It has started (R106, R117). -/
  started  : Bool
  /-- Tick at which it became ready or started. -/
  readyAt  : Option Nat
  /-- Version numbers given at acceptance: (surface handle, number) (R129). -/
  versions : List (Nat × Nat)
  job      : Job
  /-- Storage tiles reserved at the start: (surface handle, plate tile, storage tile) (R134). -/
  tiles    : List (Nat × Nat × Nat)
  /-- Content of the version being written, by surface handle (SAWYER_LIST). -/
  work     : List (Nat × Tab Byte)
  /-- No completion record or message is written for it any more (R119, R558). -/
  muted    : Bool
  /-- Replayed from the Causeway log (R515): writes no record of its own. -/
  mirrored : Bool
  /-- Runs of aligned 32-bit words, as (handle, first word, count): those this descriptor has written, and those that descriptors of
  other rings have written since it was accepted (R109). -/
  wrote    : List (Nat × Nat × Nat)
  shared   : List (Nat × Nat × Nat)
deriving DecidableEq, Repr

/-- Whose read a read request is: a ring's doorbell or descriptors (R34), the payload of a ledger entry, or what a ring's
descriptor has read once at its acceptance or start (R600). -/
inductive ReadFor where
  | doorbell (ring : Nat)
  | fetch (ring : Nat)
  | job (id : Nat)
  | table (ring : Nat)
deriving DecidableEq, Repr

/-- What the device issues towards the host, in order (R110). -/
inductive Egress where
  /-- A completion or error record: a posted write with the Requester ID of a function (R25). -/
  | write (fn : Nat) (addr : Nat) (data : List Byte)
  /-- A data DMA write (R33): OBJ_READ data or any other payload; `record` is the address of the completion record that follows
  it (R110), 0 for none. -/
  | data (fn : Nat) (addr : Nat) (bytes : List Byte) (record : Nat)
  /-- An MSI-X message: function and entry (R77, R116, R546). -/
  | msix (fn : Nat) (entry : Nat)
  /-- Data returned for a register read. -/
  | readReturn (fn : Nat) (off : Nat) (data : List Byte)
  /-- A host read the device makes: Requester ID, address, length, and whose read it is. -/
  | readRequest (fn : Nat) (addr : Nat) (len : Nat) (who : ReadFor)
deriving DecidableEq, Repr

/-! ### PCIe (R33, R34, R73 to R77) -/

/-- One packet on PCIe: a posted write, `relaxed` when Relaxed Ordering is set on it (R73); a non-posted read; the data of a
register read. -/
inductive Tlp where
  | memWrite (fn : Nat) (addr : Nat) (bytes : List Byte) (relaxed : Bool)
  | memRead (fn : Nat) (addr : Nat) (len : Nat) (who : ReadFor)
  | readData (fn : Nat) (off : Nat) (bytes : List Byte)
deriving DecidableEq, Repr

/-- A posted packet that waits for credits (R33): the address of the record it is part of or goes ahead of (R110), 0 for
none. An MSI-X message stands as the entry it signals until it goes (R77). -/
structure Posted where
  fn     : Nat
  record : Nat
  tlp    : Tlp
  entry  : Option Nat
deriving DecidableEq, Repr

/-- The PCIe side: the values of R1, R73, R75 and R80 that the configuration space of the PF holds, the packets that wait and
those that have gone. -/
structure Pcie where
  vendor   : Nat
  device   : Nat
  totalVfs : Nat
  firstVf  : Nat
  vfStride : Nat
  vfDevice : Nat
  /-- Advanced Error Reporting of the PF: uncorrectable and correctable error status. -/
  aerUncor : Nat
  aerCor   : Nat
  /-- Max_Payload_Size and Max_Read_Request_Size in bytes (R73). -/
  mps      : Nat
  mrrs     : Nat
  /-- The link was up at the last tick. -/
  up       : Bool
  /-- Posted header and data credits that the root port has left (R33). -/
  creditH  : Nat
  creditD  : Nat
  /-- How many of `egress` have been taken into the queues below. -/
  taken    : Nat
  records  : List Posted
  dataQ    : List Posted
  readQ    : List Tlp
  /-- Non-posted reads outstanding (R34). -/
  tags     : List ReadFor
  wire     : List Tlp
  /-- The MSI-X tables in BAR2 (R75): words by 4096 × function + offset; entries pending in the PBAs. -/
  table    : Tab Word
  pba      : List (Nat × Nat)
deriving DecidableEq, Repr

/-! ### Objects (04_placement.md) -/

/-- What an unlisted byte of an object's host layout reads as: zero bytes, zero blocks of a class (R598), or the
unspecified content of an allocation (R126). -/
inductive Fill where
  | zeros | blocks (cls : Nat) | unspecified (seed : Nat)
deriving DecidableEq, Repr

/-- One version of a plate surface (R129), or the single content of another object: the bytes of its host layout that
differ from the fill, the storage tiles it holds, and the plate tiles never written (R126). -/
structure Version where
  num       : Nat
  valid     : Bool
  bytes     : Tab Byte
  tiles     : List Nat
  unwritten : List Nat
  /-- Opacity map (R153): one class per 64 × 64 square, 0 transparent, 1 opaque, 2 mixed. -/
  opacity   : List Nat
deriving DecidableEq, Repr

/-- An allocated object (R100, R121 to R135). -/
structure Obj where
  handle   : Nat
  cls      : Nat
  hint     : Nat
  format   : Nat
  width    : Nat
  height   : Nat
  size     : Nat
  fill     : Fill
  versions : List Version
  /-- The highest version number given so far (R129). -/
  given    : Nat
  /-- The mark of R400. -/
  invalid  : Bool
  /-- Lost with a retired channel (R145): reason 1 or 2. -/
  lost     : Option Nat
  /-- An OBJ_FREE naming the handle has been accepted; the id of that descriptor (R101). -/
  freeing  : Option Nat
  /-- Freed; storage kept because a port still displays it (R101). -/
  released : Bool
deriving DecidableEq, Repr

/-! ### Strand and Deflate contexts (13_strand_decompression.md) -/

/-- The decoder state of a context (R382 to R399). The Strand dictionary is a list of (prefix entry, last word) pairs
standing for entries 4,352 upwards; strings are read back through the prefixes. -/
structure Ctx where
  open_    : Bool
  running  : Bool
  fn       : Nat
  streamId : Nat
  /-- The accepted STREAM_DECODE that opened it. -/
  opener   : Nat
  deflate  : Bool
  dst      : Nat
  /-- Byte offset of the current destination where word or byte 0 goes. -/
  dstOff   : Nat
  /-- The descriptor that named the current destination, and the accepted one that named a destination last, with what it named (R129). -/
  dstBy    : Nat
  nameBy   : Nat
  name     : Nat
  nameOff  : Nat
  /-- Position in the destination: words (with stride skips) or bytes written so far. -/
  pos      : Nat
  /-- Input bits held back from the last byte consumed, and bytes of the stream taken so far but not decoded. -/
  inBits   : List Bool
  /-- Input bytes consumed since the start of the stream. -/
  consumed : Nat
  headerOk : Bool
  wmax     : Nat
  dict     : List (List W12)
  prev     : List W12
  frozen   : Bool
  stride   : Nat
  lineCnt  : Nat
  ended    : Bool
  /-- Output decoded and not yet written (R398). -/
  held     : List Nat
  /-- Running CRC-32C of the emitted words, an odd word left over (Strand), or Adler-32 (Deflate). -/
  crc      : Nat
  oddWord  : Option W12
  /-- The window of Deflate: bytes produced, newest first, at most 32,768 (R395). -/
  window   : List Byte
  /-- Where the Deflate decoder stands. -/
  inflPhase : Nat
  inflLast  : Bool
  inflLeft  : Nat
  litLens   : List Nat
  distLens  : List Nat
deriving DecidableEq, Repr

/-! ### Ports: timing, scene, ray map, monitoring, link -/

/-- SCAN_STATE state (R338). -/
inductive PortPhase where
  | stopped | starting | running | reforming
deriving DecidableEq, Repr

/-- An almanac pinned to a port (R243), with what R244 computed: the pair sensitivities in sixteenths of a cu and, per
set, the residual maxima |ru|, |rv| in sixteenths of a cu. -/
structure Almanac where
  bytes    : List Byte
  handle   : Nat
  sens     : List Nat
  maxRu    : List Nat
  maxRv    : List Nat
  /-- Temperature coordinate a + w in units of 2^-16 (R247). -/
  tau      : Nat
  scrubBad : Bool
deriving DecidableEq, Repr

/-- The ray-map state of a port (R247), with its crossfade (R257). -/
structure RayMap where
  new      : Option Almanac
  old      : Option Almanac
  /-- An almanac that a CAL_LOAD of the stopped port brings in force with its first frame (R245). -/
  next     : Option Almanac
  /-- Fade frame f and length F; both 0 when no fade is in progress. -/
  fadeF    : Nat
  fadeLen  : Nat
  /-- The CAL_LOAD that completes when the fade ends, and the frame at which its fade began. -/
  fadeId   : Option Nat
  fadeFrom : Nat
  /-- θ_lens, s8.8 (R249, R250), and RMAP_DIODE and RMAP_TFIX as sampled at the last latch instant (R265). -/
  theta    : Int
  weights  : Nat
  tfix     : Int
  held     : Option Int
  /-- θ_lens when hold_temp was set (R250). -/
  asked    : Option Int
  diodeLost : Bool
deriving DecidableEq, Repr

/-- An installed eye update waiting for its first release (R271, R272). -/
structure EyeUpdate where
  id   : Nat
  eyes : List Eye
  at_  : Nat
deriving DecidableEq, Repr

/-- An eye extrapolated to a subframe's presentation time (R274): position in mm, cone half-widths in sixteenths of a cu (R277). -/
structure EyeAt where
  x : Rat
  y : Rat
  z : Rat
  cu : Nat
  cv : Nat
deriving DecidableEq, Repr

/-- The eye state fixed for a subframe (R273 to R277), with SHEP_GEOMn and SHEP_PITCHn as sampled then (R284); `shepherd` is false
when every ray is full (R283). -/
structure EyeFix where
  shepherd : Bool
  eyes     : List EyeAt
  geom     : Nat
  pitch    : Nat
deriving DecidableEq, Repr

/-- A pending protected activation: the tick at which it became pending, and the size, placement and E0 taken then
(R301). -/
structure ProtPend where
  at_ : Nat
  wq : Nat
  hq : Nat
  px : Nat
  py : Nat
  e0 : Nat
deriving DecidableEq, Repr

/-- The protected store of a port and what is in force of it (R298 to R302). -/
structure Prot where
  bank0  : Tab Byte
  bank1  : Tab Byte
  active : Bool
  gen    : Nat
  wq : Nat
  hq : Nat
  px : Nat
  py : Nat
  e0 : Nat
  pending : Option ProtPend
  lastResult : Nat
  sig    : Nat
  result : Nat
  frame  : Nat
deriving DecidableEq, Repr

/-- What the Weave uses of a frame, fixed at its latch instant (R218), and the eye state of each subframe once its row 0
is released. -/
structure FrameState where
  frame  : Nat
  mode   : Mode
  gang   : Nat
  scene  : List SceneEntry
  /-- Bytes of the current tone curve; none for identity (R189). -/
  tone   : Option (List Byte)
  /-- Entries gated at the latch instant (R193, R216, R229, R232), and those whose fade or mask leaves nothing of them (R190). -/
  gated  : List Bool
  dark   : List Bool
  /-- WEAVE_CTRLn as sampled (R234). -/
  ctrl   : Nat
  atlasGated : Bool
  subframes : Nat
  safe   : Bool
  /-- Every output word is this code in a measuring frame (R498). -/
  grey   : Option Nat
  new    : Option Almanac
  old    : Option Almanac
  fadeF  : Nat
  fadeLen : Nat
  eu     : Nat
  ev     : Nat
  fixes  : Tab EyeFix
  /-- The protected plate in force for the frame (R301, R302). -/
  prot   : Prot
  /-- Objects named in a record of R57 for this frame. -/
  reported : List Nat
  /-- Plate tiles skipped in the frame (R203). -/
  skipped : Nat
deriving DecidableEq, Repr

/-- A released weave tile row (R221): columns from `next` on have not been started; `lead` is the port whose frame it belongs to (R321). -/
structure TileRow where
  lead     : Nat
  frame    : Nat
  sub      : Nat
  row      : Nat
  next     : Nat
  /-- The tick of its release, and its deadline. -/
  at_      : Nat
  deadline : Nat
  /-- SAFE_STATE_N applied when the row was released (R304). -/
  safe     : Bool
  /-- Tiles of the row not yet finished or abandoned (R234). -/
  left     : Nat
deriving DecidableEq, Repr

/-- A shuttle's tile (R223), or witness tile `col` of region `row` (R224); it works from tick `from_` on (R489). -/
structure Shuttle where
  port  : Nat
  lead  : Nat
  frame : Nat
  sub   : Nat
  row   : Nat
  col   : Nat
  line  : Nat
  safe  : Bool
  witness : Bool
  from_ : Nat
deriving DecidableEq, Repr

/-- A plate block as a till tags it (R206): surface, version and plate tile, with its line and place in the line. -/
structure TillBlock where
  handle  : Nat
  version : Nat
  tile    : Nat
  line    : Nat
  block   : Nat
deriving DecidableEq, Repr

/-- A shuttle's till (R206): the blocks that it need not fill again, and the entries of the scene that its tile has reached (R228). -/
structure Till where
  held    : List TillBlock
  reached : List Nat
deriving DecidableEq, Repr

/-- A monitored region's settings in force and its results (R291, R297). -/
structure Region where
  enable : Bool
  x : Nat
  y : Nat
  w : Nat
  h : Nat
  e0 : Nat
  sig   : Nat
  result : Nat
  frame : Nat
  missRun : Nat
deriving DecidableEq, Repr

/-- One entry of a signature table (R293). -/
structure SigEntry where
  region : Nat
  enable : Bool
  x : Nat
  y : Nat
  w : Nat
  h : Nat
  e0 : Nat
deriving DecidableEq, Repr

/-- An accepted signature table (R295) and the tick of its acceptance. `boundTo` is the commit it is bound to, once one has
been accepted; `taken` once that commit has taken effect or been superseded. -/
structure SigTable where
  id      : Nat
  ring    : Nat
  at_     : Nat
  bind    : Bool
  frame   : Nat
  entries : List SigEntry
  boundTo : Option Nat
  taken   : Bool
  superseded : Bool
deriving DecidableEq, Repr

/-- A MODE packet not yet answered by the glass (R330): its id, use, first sending, next retransmission. -/
inductive ModeUse where
  | start | change | reform
deriving DecidableEq, Repr

structure ModeWait where
  modeId : Nat
  use    : ModeUse
  since  : Nat
  resend : Nat
deriving DecidableEq, Repr

/-- A packet as it leaves on the link: header, payload and trailer words (R354 to R358), and how it is placed. -/
structure Packet where
  words      : List W12
  replicated : Bool
  tick       : Nat
  /-- The word position of its SOP (R347, R359). -/
  pos        : Nat
  /-- The formation that a striped packet is sent in: nd, keel, lane map (R349). -/
  form       : Nat × Bool × List Nat
deriving DecidableEq, Repr

/-- What else a port puts on its lanes. -/
inductive LinkTx where
  | packet (p : Packet)
  /-- A gross marker: the lanes that send it and the marker count (R348). -/
  | marker (lanes : Nat) (count : Nat)
  /-- A TRAIN or TEST block on a lane (R364, R377). -/
  | trainBlock (lane : Nat)
  | testBlocks (lane : Nat)
  /-- KC6: a lane leaves data service (R352). -/
  | leave (lane : Nat)
  /-- KC5 with its target word (R373). -/
  | power (target : Nat)
deriving DecidableEq, Repr

/-- What a forward lane does: nothing, data service, TRAIN blocks or TEST blocks (R347, R352, R364, R377). -/
inductive LaneUse where
  | quiet | serve | train | test
deriving DecidableEq, Repr

/-- The transmitter of a forward lane (R340 to R344, R378). -/
structure LaneTx where
  use     : LaneUse
  /-- Positions since its first TRAIN or TEST block began, and the pattern register (R364, R377, R378). -/
  place   : Nat
  pattern : Nat
  /-- The level sent last, y of R341. -/
  prev    : Nat
  /-- The last two levels sent without a pause, the newest first (R342). -/
  recent  : List Nat
  /-- What has left, symbol by symbol: the level and the equaliser's output (R341, R342, log 80). -/
  out     : List (Nat × Int)
deriving DecidableEq, Repr

/-- The sending side of a port's lanes, position by position (R347 to R352). -/
structure Coder where
  /-- When the next position begins, in twentieths of a tick. -/
  at20  : Nat
  /-- Packets placed and not begun, and the one being sent with its next stage: 0 for SOP. -/
  queue : List Packet
  cur   : Option (Packet × Nat)
  /-- What the lanes do from these times on, in twentieths of a tick. -/
  uses  : List (Nat × List LaneUse)
  lanes : List LaneTx
deriving DecidableEq, Repr

/-- LINK_STATE state (R381). -/
inductive LinkPhase where
  | down | training | up | retraining | reforming | loopback
deriving DecidableEq, Repr

/-- Lane power states (R372). -/
inductive LanePower where
  | l0 | l1 | l2
deriving DecidableEq, Repr

/-- Retraining of one lane (R367): attempts made, and the timer of the attempt or of the pause. -/
structure Retrain where
  lane    : Nat
  attempt : Nat
  attemptEnd : Timer
  pauseEnd   : Timer
  locked     : Bool
deriving DecidableEq, Repr

/-- The panel link of a port (R339 to R381). -/
structure Link where
  phase    : LinkPhase
  power    : LanePower
  trained  : Bool
  nd       : Nat
  keel     : Bool
  glass    : Bool
  precode  : Bool
  rate     : Nat
  /-- Bit masks of physical lanes. -/
  service  : Nat
  lost     : Nat
  retired  : Nat
  /-- Lanes the glass has reported with all three locks while training. -/
  locks    : Tab Nat
  map      : List Nat
  /-- Gross markers sent, and the tick at which position 0 began (R347, R348). -/
  pos      : Nat
  posAt    : Nat
  modeCount : Nat
  /-- Sequence byte expected; messages of the back channel. -/
  bcHeard  : Timer
  caps     : List Byte
  status   : List Byte
  bcLockBy : Timer
  trainEnd : Timer
  retryAt  : Timer
  wakeEnd  : Timer
  wakeTo   : Option LanePower
  retrains : List Retrain
  /-- A new formation, in force from the next line slot: nd, keel, lane map (R370); its MODE packet not yet answered. -/
  reform   : Option (Nat × Bool × List Nat)
  reformWait : Option ModeWait
  /-- The end of the HOLD period after a stop (R374). -/
  holdEnd  : Timer
  /-- Loopback in progress: mode and lanes; results of TALLY messages (R376). -/
  loop     : Option (Nat × Nat)
  tallies  : Tab Nat
  /-- The phase that a loopback interrupted (R376). -/
  loopFrom : LinkPhase
  /-- LINK_CTRL as sampled at the last start of training, re-forming or power-state entry (R381). -/
  ctrl     : Nat
  /-- Precoding asked for, until the next KC0 position of all lanes (R364). -/
  precodeNext : Option Bool
  /-- The position after the last packet placed (R359); packets that wait for room between line slots. -/
  busyTo   : Nat
  later    : List Packet
  coder    : Coder
  tx       : List LinkTx
  /-- Lease: epoch held (0 none), a claim in progress with its epoch, and when it was first refused (R525, R526). -/
  holds    : Bool
  claim    : Option Nat
  refusedSince : Timer
  nextLease : Timer
  /-- Rebuilt erasures reported by the glass (R381 publishes them in units of 1,024). -/
  erasures : Nat
deriving DecidableEq, Repr

/-- A record to be written after the first line of the frame has left (R171, R246, R329). -/
structure PendRec where
  id     : Nat
  status : Nat
  detail : Nat
  /-- Frame number reported, and what else result1 carries above it. -/
  frame  : Nat
  extra  : Nat
deriving DecidableEq, Repr

/-- A capture frame in progress (R197). -/
structure Capture where
  frame  : Nat
  /-- The count of its record (R201). -/
  count  : Nat
  handle : Nat
  /-- The surface's height (R195). -/
  height : Nat
  second : Bool
  safe   : Bool
  transfer : Nat
  tone   : Bool
  white  : Nat
  recAddr : Nat
deriving DecidableEq, Repr

/-- A witness tile of a frame (R224): region 0 to 31, or 32 for the protected witness; tile `idx` holds its rays from
3,072 × idx on. -/
structure WitTile where
  region : Nat
  idx    : Nat
  frame  : Nat
  deadline : Nat
  /-- SAFE_STATE_N applied when it was released (R216). -/
  safe   : Bool
deriving DecidableEq, Repr

/-- Counters of the frame being rendered, published by R235. -/
structure WeaveCount where
  clocks : Nat
  witness : Nat
  full   : Nat
  coarse : Nat
  late   : Nat
  slack  : Nat
  maxPlates : Nat
  deep   : Nat
  /-- Blocks filled into tills from DRAM and from the Chandlery (R234). -/
  fillDram : Nat
  fillChn  : Nat
deriving DecidableEq, Repr

/-- The line a port is sending (R316, R332): its slot count, next segment, words sent so far, underrun so far. -/
structure LineOpen where
  slot  : Int
  /-- The position of its LINE packet's SOP (R359). -/
  pos   : Nat
  seg   : Nat
  words : List W12
  under : Bool
deriving DecidableEq, Repr

/-- One output port with its gang role, schedule, scene, ray map, monitoring and link. -/
structure Port where
  phase    : PortPhase
  stopReason : Nat
  /-- The mask of the gang the port belongs to, 0 for a port alone (R320). -/
  gang     : Nat
  mode     : Mode
  everStarted : Bool
  /-- Tick of the origin (R314) and line ticks in 2^-33 (LINE_TICKS, or LINE_TICKS_eff of R476, exact). -/
  t0       : Nat
  lineTicks : Nat
  /-- Next line slot, counted from the origin; negative in the lead-in. -/
  next     : Int
  /-- The slot of line 0 of the current frame. -/
  frameAt  : Int
  frame    : Nat
  /-- The number the frame latched last has or will have (R334, R475, R478). -/
  nextNo   : Nat
  /-- The latest frames latched, newest first: number and predicted start in sixths of 2^-32 ns (R167, R171). -/
  starts   : List (Nat × Int)
  subEff   : Nat
  subEffNext : Nat
  modeQueue : List Nat
  modeWait : Option ModeWait
  /-- The glass of this port has accepted the mode of a start under way (R324). -/
  acked    : Bool
  /-- The stop_reason of a stop due at the next frame boundary. -/
  stopNext : Option Nat
  /-- A mode that a start or a change brings in force with its next frame, and its gang mask. -/
  modeNext : Option (Mode × Nat)
  /-- A commit takes effect at the frame latched last (R336). -/
  flips    : Bool
  /-- The MODE packet of a change is still to be sent, in a blanking line (R325). -/
  changeDue : Bool
  startBy  : Timer
  startId  : Option Nat
  /-- Ticks of the latch instants at which a re-forming glass held back the MODE_SET queue (R323, R329). -/
  modeHeld : List Nat
  outOfStep : Bool
  commits  : List Commit
  scene    : List SceneEntry
  toneHandle : Nat
  tone     : Option (List Byte)
  lastCommitRing : Option Nat
  lastTableRing  : Option Nat
  frames   : List FrameState
  records  : List PendRec
  ray      : RayMap
  calLoads : List Nat
  eyes     : List Eye
  eyesEmpty : Bool
  eyeUpdates : List EyeUpdate
  regions  : Tab Region
  sigTables : List SigTable
  /-- Watch-port region writes waiting for the latch: offset, value, tick (R296). -/
  wpWrites : List (Nat × Nat × Nat)
  prot     : Prot
  /-- Witness tiles not started; tiles unfinished by region (32 the protected witness); whether SAFE_STATE_N has applied since
  the frame's latch instant (R224, R297). -/
  witTiles : List WitTile
  witLeft  : Tab Nat
  safeSince : Bool
  rows     : List TileRow
  lead     : Tab (List W12)
  line     : Option LineOpen
  lastTriple : List W12
  /-- Fewest complete lines held ahead of a line start of the current frame (R338). -/
  leadMin  : Nat
  counts   : Tab WeaveCount
  capFrom  : Option Nat
  capCount : Nat
  capture  : Option Capture
  /-- A capture frame that has ended before its first line has left: its status and the lines dropped (R201). -/
  capDone  : Option (Capture × Nat × Nat)
  safeLatch : Bool
  measure  : Option Nat
  bootPlate : Bool
  link     : Link
deriving DecidableEq, Repr

/-! ### DRAM (16_dram.md) -/

/-- DRAM_CHSTAT state (R454). -/
inductive ChanPhase where
  | absent | active | selfRefresh | recovery | retiring | retired
deriving DecidableEq, Repr

/-- A 64-byte request (R435). -/
structure DramReq where
  port  : Nat
  bank  : Nat
  row   : Nat
  col   : Nat
  write : Option (List Byte)
  at_   : Nat
  target : Nat
  /-- It holds one of the 16 entries reserved for RAY (R31). -/
  reserved : Bool
  /-- Repeats of a read that link ECC could not correct (R452); row hits that have passed it (R439). -/
  repeats : Nat
  passed : Nat
  /-- The end of the disturbance ebb slot before its activation, once one has begun (R444). -/
  ebbEnd : Timer
deriving DecidableEq, Repr

/-- One DRAM channel. -/
structure Chan where
  phase  : ChanPhase
  queue  : List DramReq
  held   : List DramReq
  openRows : Tab Nat
  /-- Bytes by address that differ from what the training left (log 10), and the seed of that. -/
  mem    : Tab Byte
  seed   : Nat
  /-- The data of the last read, and whether they are poisoned (R452). -/
  lastRead : List Byte
  lastPoison : Bool
  /-- Bursts whose last read came back poisoned (R452): address, and the storage tile and 64-byte unit that it holds. -/
  poisoned : List (Nat × Nat × Nat)
  idleAt : Timer
  srSince : Option Nat
  srTemp : Int
  /-- The tick from which the exit sequence runs, and whether a retraining slice completes it (R447). -/
  exitFrom : Timer
  exitSlice : Bool
  refreshDouble : Bool
  mr4At  : Timer
  refresh : Tab Nat
  windows : Tab Nat
  /-- Activations of (bank, row, port) in the window, keyed ((bank × 2^18 + row) × 8 + port). -/
  acts   : Tab Nat
  /-- Disturbance holds: ((bank × 8) + port) to the tick the hold ends. -/
  holds  : Tab Nat
  trainTemp : Int
  trainAt : Timer
  /-- Tick of the last retraining slice (R450). -/
  sliceAt : Timer
  recoveries : Nat
  recoveredAt : Timer
  /-- Ticks of recent uncorrectable reads (R451). -/
  badReads : List Nat
  correctedRecAt : Timer
  correctedAt : List Nat
  /-- Disturbance ebb slots imposed (R454 publishes them in units of 256). -/
  ebbs   : Nat
deriving DecidableEq, Repr

/-! ### Tide (17_tide_time.md) -/

/-- The discipline states of R459. -/
inductive TidePhase where
  | free | acquire | track | holdover | discont
deriving DecidableEq, Repr

/-- A PTM sample (R458): the master time in ns; the local time at that instant and the offset, exact, in 2^-33 ns. -/
structure PtmSample where
  master : Nat
  local_ : Int
  offset : Int
deriving DecidableEq, Repr

structure Tide where
  sec    : Nat
  ns     : Nat
  frac   : Nat
  rateAdj : Int
  /-- A written or servo rate waiting for the next CLK_TIME edge (R456). -/
  rateNext : Int
  phase  : TidePhase
  valid  : Nat
  bad    : Nat
  /-- The previous valid sample (R463), and up to 16 of the last ones, newest first (R460, R461). -/
  base   : Option PtmSample
  recent : List PtmSample
  armed  : Bool
  rateLimited : Bool
  /-- A step in ns that the next CLK_TIME edge adds (R461); 0 when there is none. -/
  stepNext : Int
  /-- The dialogue outstanding: the tick at which the request left, and the Tide time then in 2^-32 ns. -/
  dialogue : Option (Nat × Nat)
  dialogueAt : Timer
deriving DecidableEq, Repr

/-- A TIDE_OUT programme in the fields of R467. -/
structure OutProg where
  mode : Nat
  low  : Bool
  port : Nat
  phases : Nat
  width : Nat
  start : Nat
  period : Nat
  frac : Nat
  count : Nat
deriving DecidableEq, Repr

structure TideOut where
  prog   : OutProg
  /-- Programmes that wait for the present pulse to end (R470), each with its descriptor. -/
  waiting : List (Nat × OutProg)
  active : Bool
  /-- The Tide time, in 2^-32 ns, at which the present pulse ends. -/
  ends   : Option Nat
  /-- Index of the next pulse of the series (R468); the tick of the last pulse, or of the installation; pulses since
  installation. -/
  next   : Nat
  lastAt : Nat
  pulses : Nat
deriving DecidableEq, Repr

structure TideCap where
  edge   : Nat
  filter : Nat
  sizeLog : Nat
  addr   : Nat
  seq    : Nat
  droppedSince : Nat
  dropped : Nat
  lastEdge : Timer
  /-- Records buffered and not yet written, with their addresses (R473). -/
  buffered : List (Nat × List Byte)
deriving DecidableEq, Repr

/-! ### Sensing and store (18_sensing_store.md) -/

/-- A die sensor (R482 to R484). Temperatures are s8.8. -/
structure Die where
  value  : Int
  failed : Bool
  period : Nat
  sampled : Bool
  same   : Nat
  sameFrom : List (Option Int)
  disagree : Nat
  hot    : Nat
  goodSince : Timer
deriving DecidableEq, Repr

/-- A remote diode or the board sensor (R481, R486): published value, mean ΔV in quarter LSB. -/
structure Diode where
  value  : Int
  dv     : Nat
  failed : Bool
  sampled : Bool
  goodSince : Timer
  period : Nat
deriving DecidableEq, Repr

/-- An Assayer channel's reading and alarm state (R494, R499). -/
structure Ain where
  code : Nat
  rel  : Nat
  out  : Nat
  alarm : Bool
deriving DecidableEq, Repr

/-- A calibration set (R502): measured temperature s8.8, valid, and (c0, c1, c2) of channels 0 to 15. -/
structure CalSet where
  temp  : Int
  valid : Bool
  coefs : List (Int × Int × Int)
deriving DecidableEq, Repr

/-- A photometric set of one photodiode (R499, R502). -/
structure PhotSet where
  port  : Nat
  valid : Bool
  grey  : Nat
  b     : Nat
  s     : Nat
  temp  : Int
deriving DecidableEq, Repr

/-- One entry of record 0 (R502). -/
structure AlmId where
  ident : Nat
  size  : Nat
  width : Nat
  height : Nat
  np    : Nat
deriving DecidableEq, Repr

/-- The content of a store image (R501, R502). -/
structure StoreData where
  alms : List AlmId
  cal  : List CalSet
  phot : List PhotSet
deriving DecidableEq, Repr

structure Sense where
  level  : Nat
  changed : Timer
  forced : Bool
  hottest : Int
  substituted : Bool
  dies   : Tab Die
  diodes : Tab Diode
  board  : Diode
  ains   : Tab Ain
  tripped : Bool
  /-- Slowed units now in an ebb slot, and each unit's timer (R488). -/
  ebbs   : List (EbbUnit × Bool × Timer)
  /-- The sets and identities in force; the content, generation and slot of the store in force, generation 0 for none (R506). -/
  data   : StoreData
  stored : StoreData
  gen    : Nat
  slot   : Bool
  deferred : Bool
  pending : Option StoreData
  boardRun : Nat
  /-- A flash write in progress: its CAL_STORE (none for the pending store), content, slot, deadline. -/
  writing : Option (Option Nat × StoreData × Bool)
  /-- Flash: the bytes of slots A and B, as (offset, byte) pairs that are not 0xFF. -/
  flashA : Tab Byte
  flashB : Tab Byte
deriving DecidableEq, Repr

/-! ### Redundant pair (19_redundant_pair.md) -/

/-- CWAY_ROLE role (R511). -/
inductive Role where
  | solo | active | mirrored | catchup | stale | failed
deriving DecidableEq, Repr

/-- A logged descriptor on the standby (R515, R523). -/
structure Replay where
  ring  : Nat
  dseq  : Nat
  slot  : Nat
  words : List Nat
  data  : List Byte
  dataDone : Bool
  /-- Status of the standby's own replay, once run. -/
  result : Option Nat
  /-- Its completion record, once the DONE record has come (R523). -/
  done  : Option (List Byte)
  /-- What a takeover undoes (R530): versions produced, a handle allocated, an object freed with the places of its tiles, a stream
  context before the replay. -/
  versions : List (Nat × Nat)
  made  : Option Nat
  freed : Option (Obj × List (Nat × Place))
  ctx   : Option (Nat × Ctx)
deriving DecidableEq, Repr

/-- A change that an APPLY record names (R518, R522). -/
structure ApplyItem where
  port  : Nat
  kind  : Nat
  frame : Nat
  ring  : Nat
  dseq  : Nat
deriving DecidableEq, Repr

structure Cway where
  role   : Role
  helloBy : Timer
  helloDone : Bool
  testDone : Bool
  testAt : Timer
  peerRole : Nat
  peerPref : Bool
  peerTest : Nat
  /-- The role in the peer's last ACK (R522). -/
  ackRole : Nat
  /-- Lanes of each direction in lock: bits 0, 1. -/
  txLanes : Nat
  rxLanes : Nat
  linkPhase : Nat
  heard  : Timer
  heartbeat : Bool
  peerEdge : Timer
  /-- The last edge itself, and the edge that counted before it (R510). -/
  peerRaw  : Timer
  peerPrev : Timer
  okOut  : Bool
  okNext : Timer
  idleAt : Timer
  ackAt  : Timer
  helloAt : Timer
  leaseAt : Timer
  /-- Records sent and not yet acknowledged: (seq, bytes) (R520). -/
  log    : List (Nat × List Byte)
  sendSeq : Nat
  recvSeq : Option Nat
  applied : Nat
  acked  : Nat
  logging : Bool
  breakDue : Bool
  tx     : List (List Byte)
  /-- The sending lanes (R509, R521), how many of the records of `tx` they have been given, and the taps of the two lanes (R364). -/
  wire   : Link
  placed : Nat
  taps   : List (Nat × Nat)
  replays : List Replay
  points : Tab Nat
  /-- The last completion records of fully applied descriptors: (ring, slot, bytes) (R534). -/
  recents : List (Nat × Nat × List Byte)
  applyQ : List ApplyItem
  snapObjs : List Nat
  snapDone : Bool
  finalStates : Nat
  resign : Timer
  resigning : Bool
  /-- The power-on transmit test has begun (R513); ports whose loopback is still to end; records are discarded until the
  Causeway retrains (R523). -/
  testing : Bool
  posts  : List Nat
  discarding : Bool
deriving DecidableEq, Repr

/-! ### Faults (20_faults.md), power and boot (21), pins -/

/-- What a unit reports (R537, R539); severities 0 INFO, 1 CORRECTED, 2 DEGRADED, 3 FATAL. -/
structure ErrRec where
  sev    : Nat
  source : Nat
  code   : Nat
  inst   : Nat
  fn     : Nat
  i0     : Nat
  i1     : Nat
  i2     : Nat
deriving DecidableEq, Repr

/-- A record raised in the present CLK_FAB cycle (R538): its time, and whether it asserts FAULT_N whatever the policy (R531). -/
structure Raised where
  what  : ErrRec
  ns    : Nat
  force : Bool
deriving DecidableEq, Repr

structure Flt where
  /-- Records of the present CLK_FAB cycle, which take their numbers when it ends (R538). -/
  raised : List Raised
  seq    : Nat
  first  : Option (List Nat)
  written : Nat
  /-- Records in the ring between RD and WR that are FATAL, by position (R545). -/
  fatalPos : List Nat
  pin    : Bool
  fatalHold : Bool
  wdogAt : Timer
  restarting : Bool
  expiries : Nat
  /-- Per-second limits: (source × 2^16 + code × 2^8 + instance) to tick of the last record (R452, R87). -/
  lastAt : Tab Nat
deriving DecidableEq, Repr

/-- Where the boot stands. -/
inductive BootPhase where
  | inReset | rom | firmware | configured | held | failed
deriving DecidableEq, Repr

structure Power where
  railsLow : Bool
  pwrLow   : Bool
  perstLow : Bool
  linkUp   : Bool
  boot     : BootPhase
  bootMode : Nat
  rolePref : Bool
  imageB   : Bool
  fallback : Bool
  failure  : Nat
  fwVersion : Nat
  commitVersion : Bool
  fuseMin  : Nat
  bootReady : Bool
  dramDone : Bool
  storeDone : Bool
  bootState : Bool
  bootPorts : Nat
  bootConfig : List Byte
  /-- The tick of the reset release; the boot-plate stream has been dealt with; the boot ports have been started (R566). -/
  releasedAt : Nat
  plateTried : Bool
  bootStarted : Bool
  unlocked : Bool
  setupLock : Bool
  thermTrip : Bool
  /-- SAFE_STATE_N: its level, the CLK_PERI edge that first samples it, and the first sample of the level before while that one
  has not been reached (R304). -/
  safeLevel : Bool
  safeEdge  : Timer
  safePrev  : Timer
  safeApplied : Bool
  purserUp  : Bool
deriving DecidableEq, Repr

/-- A retirement relocation and the placement of tiles (R143 to R148). -/
structure Harb where
  places   : Tab Place
  /-- Storage tiles that cannot be read any more (R145, R147). -/
  unreadable : List Nat
  nextTile : Nat
  /-- Channels whose relocation is in progress (R143). -/
  relocating : List Nat
  retired  : Nat
  lostCount : Nat
  capacity : Nat
  peakChn  : Nat
  peakDram : Nat
deriving DecidableEq, Repr

/-- A Tally unit (R429, R432). -/
structure TallyUnit where
  busy : Bool
  fn   : Nat
  poly : Nat
  run  : Nat
deriving DecidableEq, Repr

/-! ### The whole state -/

structure State where
  pending : List Instr
  /-- CLK_CORE ticks since the common edge of R601. -/
  now     : Nat
  /-- The model's own counter of free values drawn (log 2). -/
  fresh   : Nat
  /-- PF BAR0 words that differ from their reset value. -/
  regs    : Tab Word
  /-- Captured words by PF BAR0 offset (R10, R12). -/
  capts   : Tab Word
  wregs   : Tab Word
  wcapts  : Tab Word
  /-- WP_SEQ and the last response of the Watch port (R308, R309). -/
  wpSeq   : Nat
  miso    : List Byte
  power   : Power
  rings   : Tab Ring
  /-- Start of the last periodic poll round (R87). -/
  pollAt  : Timer
  /-- The ring whose turn it was last in the present weighted round (R92). -/
  turnAt  : Nat
  ledger  : List Entry
  nextId  : Nat
  ledgerPeak : Nat
  objs    : Tab Obj
  gens    : Tab Nat
  harb    : Harb
  ctxs    : Tab Ctx
  units   : Tab TallyUnit
  shuttles : Tab Shuttle
  /-- The tills by shuttle (R206). -/
  tills   : Tab Till
  ports   : Tab Port
  chans   : Tab Chan
  dramReady : Bool
  /-- Codes decoded and destination pixels written (R403, R421 publish them in units of 65,536). -/
  strdCodes : Nat
  sawyPixels : Nat
  tide    : Tide
  outs    : Tab TideOut
  tcaps   : Tab TideCap
  sense   : Sense
  cway    : Cway
  flt     : Flt
  egress  : List Egress
  pcie    : Pcie
deriving DecidableEq, Repr

/-- Reasons the device could stop with: none is used, since no command of the PX-1296 leaves it without a next state
(every failure is a completion status, an error record or a flag). -/
inductive Fault where
  /-- Raised by nobody; safe. -/
  | none
deriving DecidableEq, Repr

/-- Commands without a meaning. -/
inductive Refusal where
  /-- Raised by exec's arms for a command not modelled yet; safe. -/
  | notModelled (mnemonic : String)
deriving DecidableEq, Repr

/-! ### Reset (R556): every field at the value the spec states for reset -/

def Ring.reset : Ring :=
  { base := 0, cpl := 0, db := 0, nextSeq := 0, prio := 0, vector := 0, sizeLog := 0, enable := false
    state := .disabled, enableRead := false, enableDrop := false, consumed := 0, tail := 0, polling := false
    pollDrop := false, pollFails := 0, pollRecAt := none, fetching := none, buf := [], cur := none, allowance := 0
    afterTakeover := false }

def Mode.none : Mode :=
  { hActive := 0, vActive := 0, vBlank := 0, subframes := 0, raceLead := 0, ticksFrac := 0, ticksInt := 0 }

/-- θ_lens is 25.0 °C at reset (RMAP_TEMPn, R265). -/
def RayMap.reset : RayMap :=
  { new := none, old := none, next := none, fadeF := 0, fadeLen := 0, fadeId := none, fadeFrom := 0, theta := 0x1900, weights := 0
    tfix := 0x1900, held := none, asked := none
    diodeLost := false }

/-- Results read 3, not checked (R312). -/
def Region.reset : Region :=
  { enable := false, x := 0, y := 0, w := 0, h := 0, e0 := 0, sig := 0, result := 3, frame := 0
    missRun := 0 }

/-- Generation 0 and the empty plate (R302). -/
def Prot.reset : Prot :=
  { bank0 := [], bank1 := [], active := false, gen := 0, wq := 0, hq := 0, px := 0, py := 0, e0 := 0, pending := none
    lastResult := 0, sig := 0, result := 3, frame := 0 }

def LaneTx.reset : LaneTx := { use := .quiet, place := 0, pattern := 0, prev := 0, recent := [], out := [] }

def Coder.reset : Coder := { at20 := 0, queue := [], cur := none, uses := [], lanes := List.replicate 12 LaneTx.reset }

/-- Down, in L2, map entries 0xF (R381). -/
def Link.reset : Link :=
  { phase := .down, power := .l2, trained := false, nd := 0, keel := false, glass := false, precode := false, rate := 0
    service := 0, lost := 0, retired := 0, locks := [], map := [], pos := 0, posAt := 0, modeCount := 0, bcHeard := none
    caps := [], status := [], bcLockBy := none, trainEnd := none, retryAt := none, wakeEnd := none, wakeTo := none
    retrains := [], reform := none, reformWait := none, holdEnd := none, loop := none, tallies := [], loopFrom := .down, ctrl := 0x82E0
    precodeNext := none, busyTo := 0, later := [], coder := Coder.reset, tx := [], holds := false, claim := none
    refusedSince := none, nextLease := none, erasures := 0 }

def Till.reset : Till := { held := [], reached := [] }

def WeaveCount.zero : WeaveCount :=
  { clocks := 0, witness := 0, full := 0, coarse := 0, late := 0, slack := 255, maxPlates := 0, deep := 0, fillDram := 0
    fillChn := 0 }

def Port.reset : Port :=
  { phase := .stopped, stopReason := 0, gang := 0, mode := Mode.none, everStarted := false, t0 := 0
    lineTicks := 0, next := 0, frameAt := 0, frame := 0, nextNo := 0, starts := [], subEff := 0, subEffNext := 0, modeQueue := [], modeWait := none
    acked := false, stopNext := none, modeNext := none, flips := false, changeDue := false, startBy := none, startId := none, modeHeld := []
    outOfStep := false, commits := [], scene := [], toneHandle := 0, tone := none, lastCommitRing := none
    lastTableRing := none, frames := [], records := [], ray := RayMap.reset, calLoads := [], eyes := []
    eyesEmpty := true, eyeUpdates := [], regions := [], sigTables := [], wpWrites := [], prot := Prot.reset
    witTiles := [], witLeft := [], safeSince := false, rows := [], lead := [], line := none, lastTriple := [0, 0, 0]
    leadMin := 255, counts := [], capFrom := none, capCount := 0, capture := none, capDone := none, safeLatch := false
    measure := none, bootPlate := false, link := Link.reset }

def Chan.reset : Chan :=
  { phase := .absent, queue := [], held := [], openRows := [], mem := [], seed := 0, lastRead := [], lastPoison := false, poisoned := []
    idleAt := none, srSince := none, srTemp := 0, exitFrom := none, exitSlice := false, refreshDouble := false, mr4At := none, refresh := []
    windows := [], acts := [], holds := [], trainTemp := 0, trainAt := none, sliceAt := none, recoveries := 0
    recoveredAt := none, badReads := [], correctedRecAt := none, correctedAt := [], ebbs := 0 }

/-- The counter reads 0 s and rate_adj is 0 (R455); the discipline is FREE (R459). -/
def Tide.reset : Tide :=
  { sec := 0, ns := 0, frac := 0, rateAdj := 0, rateNext := 0, phase := .free, valid := 0, bad := 0, base := none
    recent := [], armed := false, rateLimited := false, stepNext := 0, dialogue := none
    dialogueAt := none }

def OutProg.off : OutProg :=
  { mode := 0, low := false, port := 0, phases := 0, width := 0, start := 0, period := 0, frac := 0, count := 0 }

def TideOut.reset : TideOut :=
  { prog := OutProg.off, waiting := [], active := false, ends := none, next := 0, lastAt := 0, pulses := 0 }

def TideCap.reset : TideCap :=
  { edge := 0, filter := 0, sizeLog := 0, addr := 0, seq := 0, droppedSince := 0, dropped := 0, lastEdge := none
    buffered := [] }

def Die.reset : Die :=
  { value := 0, failed := false, period := 0, sampled := false, same := 0, sameFrom := [], disagree := 0, hot := 0
    goodSince := none }

def Diode.reset : Diode := { value := 0, dv := 0, failed := false, sampled := false, goodSince := none, period := 0 }

def Ain.reset : Ain := { code := 0, rel := 0, out := 0, alarm := false }

def PhotSet.reset : PhotSet := { port := 0, valid := false, grey := 0, b := 0, s := 0, temp := 0 }

/-- The factory sets read back through SENSE_CALTEMP as −40, 25 and 105 °C (R507); their coefficients are the factory
trim (R506), which `Assayer` reads from Config while a set's list is empty. -/
def StoreData.reset : StoreData :=
  { alms := [],
    cal := [{ temp := -40 * 256, valid := false, coefs := [] }, { temp := 25 * 256, valid := false, coefs := [] },
            { temp := 105 * 256, valid := false, coefs := [] }],
    phot := [PhotSet.reset, PhotSet.reset, PhotSet.reset, PhotSet.reset] }

def Sense.reset : Sense :=
  { level := 0, changed := none, forced := false, hottest := 0, substituted := false, dies := [], diodes := []
    board := Diode.reset, ains := [], tripped := false, ebbs := [], data := StoreData.reset, stored := StoreData.reset, gen := 0, slot := false
    deferred := false, pending := none, boardRun := 0, writing := none, flashA := [], flashB := [] }

def Cway.reset : Cway :=
  { role := .solo, helloBy := none, helloDone := false, testDone := false, testAt := none, peerRole := 0
    peerPref := false, peerTest := 0, ackRole := 0, txLanes := 0, rxLanes := 0, linkPhase := 0, heard := none, heartbeat := false
    peerEdge := none, peerRaw := none, peerPrev := none, okOut := false, okNext := none, idleAt := none, ackAt := none, helloAt := none, leaseAt := none
    log := [], sendSeq := 0, recvSeq := none, applied := 0, acked := 0, logging := false, breakDue := false, tx := []
    wire := Link.reset, placed := 0, taps := [(4, 8), (4, 8)], replays := [], points := [], recents := [], applyQ := [], snapObjs := [], snapDone := false, finalStates := 0
    resign := none, resigning := false, testing := false, posts := [], discarding := false }

def Flt.reset : Flt :=
  { raised := [], seq := 0, first := none, written := 0, fatalPos := [], pin := false, fatalHold := false, wdogAt := none
    restarting := false, expiries := 0, lastAt := [] }

/-- The power-on reset is asserted: a rail is low (R553). -/
def Power.reset : Power :=
  { railsLow := true, pwrLow := false, perstLow := false, linkUp := false, boot := .inReset, bootMode := 0
    rolePref := false, imageB := false, fallback := false, failure := 0, fwVersion := 0, commitVersion := false
    fuseMin := 0, bootReady := false, dramDone := false, storeDone := false, bootState := false, bootPorts := 0
    bootConfig := [], releasedAt := 0, plateTried := false, bootStarted := false, unlocked := false, setupLock := false, thermTrip := false, safeLevel := true, safeEdge := none, safePrev := none
    safeApplied := false, purserUp := false }

def Harb.reset : Harb :=
  { places := [], unreadable := [], nextTile := 0, relocating := [], retired := 0, lostCount := 0, capacity := 0, peakChn := 0
    peakDram := 0 }

def TallyUnit.reset : TallyUnit := { busy := false, fn := 0, poly := 0, run := 0 }

def Ctx.reset : Ctx :=
  { open_ := false, running := false, fn := 0, streamId := 0, opener := 0, deflate := false, dst := 0, dstOff := 0, dstBy := 0, nameBy := 0, name := 0, nameOff := 0, pos := 0
    inBits := [], consumed := 0, headerOk := false, wmax := 0, dict := [], prev := [], frozen := false, stride := 0
    lineCnt := 0, ended := false, held := [], crc := 0, oddWord := none, window := [], inflPhase := 0
    inflLast := false, inflLeft := 0, litLens := [], distLens := [] }

/-- VID_ELAETA and the device ID (R1), the SR-IOV values (R73, R80); Max_Payload_Size 128 and Max_Read_Request_Size 512 (log 62). -/
def Pcie.reset : Pcie :=
  { vendor := 0xE1A7, device := 0x1296, totalVfs := 15, firstVf := 1, vfStride := 1, vfDevice := 0x1296, aerUncor := 0, aerCor := 0
    mps := 128, mrrs := 512, up := false, creditH := 0, creditD := 0, taken := 0, records := [], dataQ := [], readQ := [], tags := []
    wire := [], table := [], pba := [] }

/-- The device in a power-on reset: every field at its reset value (R556). -/
def State.reset : State :=
  { pending := [], now := 0, fresh := 0, regs := [], capts := [], wregs := [], wcapts := [], wpSeq := 0, miso := []
    power := Power.reset, rings := [], pollAt := none, turnAt := 0, ledger := [], nextId := 0, ledgerPeak := 0
    objs := [], gens := [], harb := Harb.reset, ctxs := [], units := [], shuttles := [], tills := [], ports := [], chans := []
    dramReady := false, strdCodes := 0, sawyPixels := 0, tide := Tide.reset, outs := [], tcaps := []
    sense := Sense.reset, cway := Cway.reset, flt := Flt.reset, egress := [], pcie := Pcie.reset }

end Sys2Proof.Machine
end

