-- ==== Sys2Proof/Config.lean ====
section
/-! DEFINITION. What an implementation fixes and the spec leaves open: opaque constants with no body, so that nothing
can be proved of their values. Each is named in the assumption log. -/

namespace Sys2Proof.Config

/-- FREE VALUE (log 3): which of the free indices a new object takes, as a number the allocator reduces modulo the count
of free indices (R122: the choice is open). Applied to the State's counter `fresh`. -/
opaque freeIndex : Nat → Nat

/-- FREE VALUE (log 4): the content of byte `off` of an object that was allocated without the zero flag, for the
allocation numbered `seed` (R126: unspecified). -/
opaque freeByte (seed off : Nat) : Byte

/-- FREE VALUE (log 6): the choice between two neighbouring codes that R196 and R411 leave open within 0.1 of a midpoint.
Applied to the exact value inside the rounding. -/
opaque codeChoice : Rat → Bool

/-- FREE VALUE (log 6): the colour code written when the white level W is 0, which R196 and R411 divide by; applied to the
light value and the channel's width. -/
opaque zeroWhiteCode : Rat → Nat → Nat

/-- FREE VALUE (log 7): whether a ray within 1/8 cu outside an eye's exact cone is full (R69, R276). Applied to the eye, the screen point
in mm and the direction in cu (R282). -/
opaque coneChoice (e : Machine.EyeAt) (mx my u v : Rat) : Bool

/-- FREE VALUE (log 14): the error of a component of an extrapolated eye, in mm, limited by the model to the 2^-12 mm of R274;
applied to the eye, the presentation time and the component: the same inputs give the same error (R69). -/
opaque eyeError (e : Machine.Eye) (t : Int) (comp : Nat) : Rat

/-- FREE VALUE (log 15): whether the device skips a plate tile that R192 permits it to skip; applied to the frame, the
entry's place and the tile. -/
opaque cullSkips (frame entry tile : Nat) : Bool

/-- FREE VALUE (log 16): whether a till keeps a block that R228 lets it fill again, and how many times more a witness tile fills a block
than once; applied to the State's counter `fresh` and the block. -/
opaque tillKeeps (seed : Nat) (b : Machine.TillBlock) : Bool
opaque refills (seed : Nat) (b : Machine.TillBlock) : Nat

/-- FREE VALUE (log 8): the rate change the Purser's servo asks for after a valid sample, from the offset in ns and the
present rate_adj (R460 gives only its limits). -/
opaque servo : Int → Int → Int

/-- FREE VALUE (log 9): the factory trim of an Assayer channel in set 0 cold, 1 mid or 2 hot, coefficient 0, 1 or 2 in the
encoding of R502 (R506 names it and gives no value). -/
opaque factoryTrim (set chan coef : Nat) : Int

/-- FREE VALUE (log 10): byte `addr` of a DRAM channel that nothing has written since its training, for the training numbered
`seed` (no rule gives them). -/
opaque dramByte (seed chan addr : Nat) : Byte

/-- FREE VALUE (log 83): which of the storage tiles on a channel a burst belongs to, as a number reduced modulo their count, and which of the
tile's 1,024 units of 64 bytes it holds; and the unit that holds a block of a plate tile, by the block's line and number (no rule says how
a tile lies in its channel). -/
opaque burstTile (chan addr : Nat) : Nat
opaque burstUnit (chan addr : Nat) : Nat
opaque blockUnit (line block : Nat) : Nat

/-- FREE VALUE (log 17): which die sensor, modulo 24, lies at a channel's PHY (R447 and R450 name it; no rule says which). -/
opaque phySensor : Nat → Nat

/-- FREE VALUE (log 11): the bytes that the 52 bits of ψ as s20.32 take in what word 9 of the state record covers (R261 gives the width
and no packing). -/
opaque psiBytes : Nat → List Byte

/-- FREE VALUE (log 12): the state bytes a SNAPSTATE record carries, private to the device (R522); applied to the
record's sequence number. -/
opaque snapState : Nat → List Byte

/-- FREE VALUE (log 12): what the state bytes of a SNAPSTATE record say of a port, of a stream context and of a ring's next sequence
number, and the descriptors in flight (R522 names the content and keeps it private). -/
opaque snapPort (state : List Byte) (port : Nat) : Option Machine.Port
opaque snapCtx (state : List Byte) (ctx : Nat) : Option Machine.Ctx
opaque snapNext (state : List Byte) (ring : Nat) : Nat
opaque snapEntries (state : List Byte) : List Machine.Entry

/-- FREE VALUE (log 62): the posted header and data credits that the root port advertises when the link comes up, and those it gives
back at a tick (R33); applied to the tick. -/
opaque creditInit : Nat → Nat × Nat
opaque creditBack : Nat → Nat × Nat

/-- FREE VALUE (log 64): whether an aligned 32-bit word that two descriptors of different rings wrote keeps the earlier value (R109); applied to
the State's counter `fresh` and the word's index. -/
opaque wordChoice (seed word : Nat) : Bool

/-- FREE VALUE (log 18): the gap that CWAY_TKINFO reports of a takeover, in units of 10 µs, by the takeover's number (R536; no rule
says how the unit measures it). -/
opaque takeoverGap : Nat → Nat

end Sys2Proof.Config
end

