-- ==== Sys2Proof/Machine/Crc.lean ====
section
/-! DEFINITION. The Tally's check values (R422 to R424), the packing of 12-bit words into bytes that they and the link
share (R288), and Adler-32 (R396). -/

namespace Sys2Proof.Machine

/-- One bit of a reflected CRC register (R423). -/
def crcBitR (poly r : Nat) : Nat := if r % 2 = 1 then (r / 2) ^^^ poly else r / 2

/-- One bit of an unreflected CRC register of width `w`. -/
def crcBitU (w poly r : Nat) : Nat :=
  if 2 ^ (w - 1) ≤ r then ((r * 2) % 2 ^ w) ^^^ poly else (r * 2) % 2 ^ w

/-- Apply a step `n` times. -/
def times (f : Nat → Nat) : Nat → Nat → Nat
  | 0, r => r
  | n + 1, r => times f n (f r)

/-- Width of the CRC numbered `poly` (R422). -/
def crcWidth (poly : Nat) : Nat := match poly with
  | 0 => 32
  | 1 => 32
  | 2 => 16
  | _ => 8

/-- Init of the CRC numbered `poly` (R422). -/
def crcInit (poly : Nat) : Nat := match poly with
  | 0 => 0xFFFFFFFF
  | 1 => 0xFFFFFFFF
  | 2 => 0xFFFF
  | _ => 0xFF

/-- Xorout of the CRC numbered `poly` (R422). -/
def crcXorout (poly : Nat) : Nat := match poly with
  | 0 => 0xFFFFFFFF
  | 1 => 0xFFFFFFFF
  | 2 => 0
  | _ => 0xFF

/-- One byte into the running value (R423); 0x82F63B78 and 0xEDB88320 are the polynomials 0x1EDC6F41 and 0x04C11DB7 in
reflected form. -/
def crcByte (poly r : Nat) (b : Byte) : Nat := match poly with
  | 0 => times (crcBitR 0x82F63B78) 8 (r ^^^ b.toNat)
  | 1 => times (crcBitR 0xEDB88320) 8 (r ^^^ b.toNat)
  | 2 => times (crcBitU 16 0x1021) 8 (r ^^^ (b.toNat * 256))
  | _ => times (crcBitU 8 0x1D) 8 (r ^^^ b.toNat)

/-- Bytes into the running value, in increasing address order (R425). -/
def crcRun (poly : Nat) : Nat → List Byte → Nat
  | r, [] => r
  | r, b :: bs => crcRun poly (crcByte poly r b) bs

/-- The running value after Init and the fold (R424). -/
def crcFold (poly fold : Nat) : Nat := crcRun poly (crcInit poly) (leBytes 4 fold)

/-- The finished CRC of a folded message (R424). -/
def crcOf (poly fold : Nat) (bs : List Byte) : Nat := crcRun poly (crcFold poly fold) bs ^^^ crcXorout poly

/-- CRC-32C with a fold: the device's usual check value. -/
def crc32c (fold : Nat) (bs : List Byte) : Nat := crcOf 0 fold bs

/-- Two 12-bit words take three bytes, the first in the low bits; an odd last word is followed by four zero bits (R288). -/
def pack12 : List W12 → List Byte
  | [] => []
  | [a] => leBytes 2 a.toNat
  | a :: b :: ws => leBytes 3 (a.toNat + 4096 * b.toNat) ++ pack12 ws

/-- Three bytes give two 12-bit words; the inverse of `pack12` on whole triples. -/
def unpack12 : List Byte → List W12
  | a :: b :: c :: bs =>
    let x := leNat [a, b, c]
    BitVec.ofNat 12 (x % 4096) :: BitVec.ofNat 12 (x / 4096) :: unpack12 bs
  | _ => []

/-- Adler-32 of more bytes, from a value (RFC 1950, R396). -/
def adlerRun : Nat → List Byte → Nat
  | r, [] => r
  | r, b :: bs =>
    let a := (r % 65536 + b.toNat) % 65521
    adlerRun (((r / 65536 + a) % 65521) * 65536 + a) bs

end Sys2Proof.Machine
end

