-- ==== Sys2Proof/Machine/Packet.lean ====
section
/-! DEFINITION. Panel-link packets (R354 to R358), back-channel messages (R361) and Causeway records (R521) as words and
bytes, and the 7Q12 code (R340 to R344). -/

namespace Sys2Proof.Machine

/-- The header fields of a packet (R354). -/
structure PktHead where
  type   : Nat
  port   : Nat
  member : Nat
  phase  : Nat
  under  : Bool
  last   : Bool
  line   : Nat
deriving DecidableEq, Repr

/-- A bit as a number. -/
def bit (b : Bool) : Nat := if b then 1 else 0

/-- The three header words (R354). -/
def headWords (h : PktHead) (length : Nat) : List W12 :=
  [ BitVec.ofNat 12 (h.type % 8 * 512 + h.port % 4 * 128 + h.member % 4 * 32 + h.phase % 4 * 8 + bit h.under * 4 +
      bit h.last * 2),
    BitVec.ofNat 12 (h.line / 4), BitVec.ofNat 12 (h.line % 4 * 1024 + length % 512) ]

/-- The prefix word of a packet's trailer (R356). -/
def packetFold (h : PktHead) : Nat :=
  h.port % 4 * 2 ^ 30 + h.phase % 4 * 2 ^ 28 + h.line % 16384 * 2 ^ 14 + h.member % 4 * 2 ^ 12 + h.type % 8 * 512

/-- The trailer words of a CRC (R356). -/
def trailerWords (crc : Nat) : List W12 :=
  [BitVec.ofNat 12 crc, BitVec.ofNat 12 (crc / 4096), BitVec.ofNat 12 (crc / 2 ^ 24 % 256)]

/-- All words of a packet: header, payload, trailer (R354, R356). `length` is H_ACTIVE / 96 for LINE, else the payload's
word count. -/
def packetWords (h : PktHead) (payload : List W12) : List W12 :=
  let length := if h.type = 1 then payload.length / 96 else payload.length
  let body := headWords h length ++ payload
  body ++ trailerWords (crc32c (packetFold h) (pack12 body))

/-- A packet as it leaves: IDLE and LINE are striped, the others replicated (R355). Its position is given when it goes out
on a port's lanes. -/
def mkPacket (h : PktHead) (payload : List W12) (tick : Nat) : LinkTx :=
  .packet { words := packetWords h payload, replicated := decide (2 ≤ h.type), tick := tick, pos := 0, form := (0, false, []) }

/-- The position itself, or the first after the marker it lies in (R348). -/
def skipMarker (x : Nat) : Nat := if x % 1728 < 2 then x + (2 - x % 1728) else x

/-- The first position free of markers that begins at or after a tick (R347, R348, R359); a position lasts 7/20 of a tick
at 30 GBd, twice and four times that at the lower rates. -/
def Link.firstPos (l : Link) (tick : Nat) : Nat :=
  skipMarker ((20 * (tick - l.posAt) + (7 * 2 ^ l.rate - 1)) / (7 * 2 ^ l.rate))

/-- Where a packet's SOP goes: at its tick or after the packet placed before it (R359, log 79). -/
def Link.freePos (l : Link) (tick : Nat) : Nat := max (l.firstPos tick) (skipMarker l.busyTo)

/-- The position after `n` further positions that carry words, those of markers skipped, from a SOP at `pos` (R348). -/
def posAfter (pos n : Nat) : Nat :=
  let u := pos % 1728 - 2 + n
  (pos / 1728 + u / 1726) * 1728 + 2 + u % 1726 + 1

/-- Positions that `n` words take after the SOP: one each on every lane, or nd of them a position (R349, R350). -/
def wordPositions (replicated : Bool) (nd n : Nat) : Nat := if replicated then n else ceilDiv n nd

/-- A packet goes out at a position, in the formation in force; those placed later on the line stand after it. -/
def Link.sendAt (l : Link) (k : Packet) (pos : Nat) : Link :=
  let k := { k with pos := pos, form := (l.nd, l.keel, l.map) }
  let before := fun (x : Packet) => decide (x.pos < pos)
  { l with
    tx := l.tx ++ [.packet k]
    busyTo := max l.busyTo (posAfter pos (wordPositions k.replicated l.nd k.words.length))
    coder := { l.coder with queue := l.coder.queue.filter before ++ [k] ++ l.coder.queue.filter fun x => !(before x) } }

/-- Something goes out: a packet at the first position it may take. -/
def Link.send (l : Link) : LinkTx → Link
  | .packet k => l.sendAt k (l.freePos k.tick)
  | x => { l with tx := l.tx ++ [x] }

/-- The LEASE payload (R358): act 0 claim, 1 renew, 2 resign. -/
def leasePayload (epoch act unit : Nat) : List W12 :=
  [BitVec.ofNat 12 epoch, BitVec.ofNat 12 (epoch / 4096), BitVec.ofNat 12 (act * 1024), BitVec.ofNat 12 unit]

/-- The Gray level of a bit pair (R340). -/
def grayLevel (pair : Nat) : Nat := match pair % 4 with
  | 0 => 0
  | 1 => 1
  | 2 => 3
  | _ => 2

/-- The seven levels of a word's data septet (R343). -/
def septet (w : W12) : List Nat :=
  let ls := [10, 8, 6, 4, 2, 0].map fun i => grayLevel (w.toNat / 2 ^ i)
  (if ls.sum ≤ 9 then 2 else 1) :: ls

/-- The seven levels of control septet KC0 to KC7 (R344). -/
def controlSeptet (k : Nat) : List Nat :=
  if k = 0 then [0, 3, 3, 3, 3, 3, 3]
  else [0, 3, 0, 3 * (k / 4 % 2), 3 * (k / 2 % 2), 3 * (k % 2), 2]

/-- Precoding of one level (R341). -/
def precodeLevel (prev l : Nat) : Nat := (l + 4 - prev % 4) % 4

/-- A back-channel message's check (R361): sixteen bytes whose last two are the CRC-16 of the first fourteen. -/
def bcOk (msg : List Byte) : Bool :=
  decide (msg.length = 16) && decide (leAt msg 14 2 = crcRun 2 0xFFFF (msg.take 14))

/-- A Causeway record's header (R521). -/
structure RecHead where
  seq  : Nat
  type : Nat
  last : Bool
  ring : Nat
  dseq : Nat
deriving DecidableEq, Repr

/-- Zero bytes up to a multiple of four. -/
def padTo4 (bs : List Byte) : List Byte := bs ++ List.replicate ((4 - bs.length % 4) % 4) 0

/-- A whole Causeway record: header, body, CRC-32C with the sequence number folded in (R521). -/
def recordBytes (h : RecHead) (body : List Byte) : List Byte :=
  let b := padTo4 body
  let hb := leBytes 4 h.seq ++ leBytes 1 h.type ++ leBytes 1 (bit h.last) ++ leBytes 2 (b.length / 4) ++
    leBytes 1 h.ring ++ leBytes 3 0 ++ leBytes 4 h.dseq
  hb ++ b ++ leBytes 4 (crc32c h.seq (hb ++ b))

/-- A received record is intact (R521, R523): its length field agrees and its CRC passes. -/
def recordOk (bs : List Byte) : Bool :=
  decide (20 ≤ bs.length) && decide (bs.length = 20 + 4 * leAt bs 6 2) &&
    decide (leAt bs (bs.length - 4) 4 = crc32c (leAt bs 0 4) (bs.take (bs.length - 4)))

/-- The body of a record. -/
def recordBody (bs : List Byte) : List Byte := (bs.drop 16).take (bs.length - 20)

end Sys2Proof.Machine
end

