-- ==== Sys2Proof/Machine/RegMap.lean ====
section
/-! DEFINITION. The register map of PF BAR0 (R76 and the register rules of each chapter) and of the Watch port (R312):
for every register its offset, its reset value and the bits that a write of each access type (R7) may change. Bits in none
of the masks are read-only or reserved: the plain write ignores them. Write-only bits have actions of their own
(Machine/Regs.lean). -/

namespace Sys2Proof.Machine

/-- A row of the register map: `count` registers from `base` in steps of `stride`. -/
structure RegRow where
  base   : Nat
  stride : Nat
  count  : Nat
  reset  : Nat
  rw     : Nat
  rwl    : Nat
  w1c    : Nat
deriving DecidableEq, Repr

/-- Registers that software can only read, reset value `v`. -/
def roRow (base stride count v : Nat) : RegRow :=
  { base := base, stride := stride, count := count, reset := v, rw := 0, rwl := 0, w1c := 0 }

/-- Registers with RW bits. -/
def rwRow (base stride count v rw : Nat) : RegRow :=
  { base := base, stride := stride, count := count, reset := v, rw := rw, rwl := 0, w1c := 0 }

/-- The register at an offset belongs to the row. -/
def RegRow.has (r : RegRow) (off : Nat) : Bool :=
  decide (r.base ≤ off) && decide (off < r.base + r.stride * r.count) && decide ((off - r.base) % r.stride = 0)

/-- GCTL (R78, R572), without the registers whose value is unit state. -/
def gctlRows : List RegRow :=
  [ roRow 0x000 4 1 0x1296E1A7, roRow 0x004 4 1 0xB0, roRow 0x008 4 1 0, roRow 0x00C 4 1 0, roRow 0x010 4 1 0,
    { base := 0x014, stride := 4, count := 1, reset := 0, rw := 0, rwl := 0, w1c := 0x1F }, roRow 0x018 4 1 0,
    rwRow 0x040 4 1 0x7D0 0xFFFFF,
    { base := 0x044, stride := 4, count := 1, reset := 0, rw := 0, rwl := 0xFFFF, w1c := 0 },
    roRow 0x048 4 1 0,
    { base := 0x080, stride := 4, count := 16, reset := 0x1000, rw := 0, rwl := 0x1FFF, w1c := 0 } ]

/-- The ring register sets (R81); a ring's registers are the ring's own state. -/
def ringRows : List RegRow := [ roRow 0x1000 4 1024 0 ]

/-- HARB (R142). -/
def harbRows : List RegRow :=
  [ roRow 0x2000 4 1 0x400, roRow 0x2004 4 7 0,
    { base := 0x2080, stride := 4, count := 16, reset := 0xFFFFF, rw := 0, rwl := 0xFFFFF, w1c := 0 },
    roRow 0x2040 4 16 0 ]

/-- COMP (R203). -/
def compRows : List RegRow :=
  [ roRow 0x3000 4 1 0, roRow 0x3100 0x40 4 0, rwRow 0x3104 0x40 4 0 0x80000000, roRow 0x3108 0x40 4 0,
    rwRow 0x310C 0x40 4 0x100 0xFF0F, rwRow 0x3110 0x40 4 0 0xFFFFFFFF, rwRow 0x3114 0x40 4 0 0xFFFFFFFF,
    rwRow 0x3118 0x40 4 0 0xFFFFFE00, rwRow 0x311C 0x40 4 0 0xFFFFFFFF, rwRow 0x3120 0x40 4 0x10000 0xFFFFFFFF,
    { base := 0x3124, stride := 0x40, count := 4, reset := 0, rw := 0, rwl := 0, w1c := 0x6 } ]

/-- WEAVE (R234), with the ray-map (R265) and shepherd (R284) registers. -/
def weaveRows : List RegRow :=
  [ roRow 0x4000 4 1 0, rwRow 0x4100 0x40 4 0 0x17, roRow 0x4104 0x40 4 0, roRow 0x4108 0x40 4 0,
    roRow 0x410C 0x40 4 0, roRow 0x4110 0x40 4 0, roRow 0x4114 0x40 4 0, roRow 0x4118 0x40 4 0, roRow 0x411C 0x40 4 0,
    roRow 0x4120 0x40 4 0,
    rwRow 0x4400 0x80 4 0x3000 0xFF01, rwRow 0x4404 0x80 4 0x40 0xFFF, rwRow 0x4408 0x80 4 0 0xFFFFFFFF,
    rwRow 0x440C 0x80 4 0x1900 0xFFFF, roRow 0x4410 0x80 4 0x1900, roRow 0x4414 0x80 4 0, roRow 0x4418 0x80 4 0,
    roRow 0x441C 0x80 4 0, roRow 0x4420 0x80 4 0, roRow 0x4424 0x80 4 0, roRow 0x4428 0x80 4 0,
    { base := 0x442C, stride := 0x80, count := 4, reset := 0, rw := 0, rwl := 0, w1c := 0x1F },
    rwRow 0x4600 0x40 4 0xC000 0xFF01, rwRow 0x4604 0x40 4 0x80000800 0xFFFFFFFF, rwRow 0x4608 0x40 4 0 0xFFFFFFFF,
    rwRow 0x460C 0x40 4 0 0xFFFFFFFF, rwRow 0x4610 0x40 4 0x32 0xFF, roRow 0x4614 0x40 4 0x10,
    roRow 0x4618 0x40 4 0xFFFFFFFF ]

/-- SCAN (R338). -/
def scanRows : List RegRow :=
  [ roRow 0x5000 0x400 4 0, roRow 0x5004 0x400 4 0, roRow 0x5008 0x400 4 0, roRow 0x500C 0x400 4 0,
    { base := 0x5010, stride := 0x400, count := 4, reset := 0, rw := 0, rwl := 0, w1c := 0x100000 },
    roRow 0x5014 0x400 4 0, roRow 0x5018 0x400 4 0, roRow 0x501C 0x400 4 0, roRow 0x5020 0x400 4 0,
    roRow 0x5024 0x400 4 0, roRow 0x5028 0x400 4 0, roRow 0x5030 0x400 4 0, roRow 0x5034 0x400 4 0,
    roRow 0x5038 0x400 4 0, roRow 0x503C 0x400 4 0, roRow 0x5040 0x400 4 0, roRow 0x5044 0x400 4 0,
    roRow 0x5048 0x400 4 0, roRow 0x504C 0x400 4 0 ]

/-- The rows of one 12-register array of LINK, for the four ports. -/
def linkLaneRows (base v rw : Nat) : List RegRow :=
  [ rwRow base 4 12 v rw, rwRow (base + 0x400) 4 12 v rw, rwRow (base + 0x800) 4 12 v rw, rwRow (base + 0xC00) 4 12 v rw ]

/-- LINK (R381). -/
def linkRows : List RegRow :=
  [ rwRow 0x6000 0x400 4 0x82E0 0xF3EC, roRow 0x6004 0x400 4 0x80, roRow 0x6008 0x400 4 0, roRow 0x600C 0x400 4 0,
    roRow 0x6010 0x400 4 0xFFFFFFFF, roRow 0x6014 0x400 4 0xFFFF, roRow 0x6018 0x400 4 0, roRow 0x601C 0x400 4 0,
    { base := 0x6020, stride := 0x400, count := 4, reset := 0, rw := 0, rwl := 0, w1c := 0x10 },
    roRow 0x6024 0x400 4 0, roRow 0x6028 0x400 4 0, rwRow 0x6080 0x400 4 0 0x0FFF0007, roRow 0x6084 0x400 4 0 ] ++
  linkLaneRows 0x6040 0x804 0x1001F1F ++ linkLaneRows 0x60C0 0 0

/-- CWAY (R536). CWAY_ID resets by the strap (`cwayIdReset`). -/
def cwayRows : List RegRow :=
  [ { base := 0x7000, stride := 4, count := 1, reset := 0, rw := 0x2, rwl := 0x1, w1c := 0 },
    { base := 0x7004, stride := 4, count := 1, reset := 0, rw := 0, rwl := 0, w1c := 0x70 },
    roRow 0x7008 4 8 0,
    { base := 0x7028, stride := 4, count := 1, reset := 0x002, rw := 0, rwl := 0xFFF, w1c := 0 },
    roRow 0x7040 4 4 0, roRow 0x7200 4 128 0 ]

/-- TIDE (R479). -/
def tideRows : List RegRow :=
  [ roRow 0x8000 4 4 0, rwRow 0x8010 4 1 0x00C80802 0x0FFFFF03, rwRow 0x8014 4 1 0x64 0xFFFF,
    { base := 0x8018, stride := 4, count := 1, reset := 0, rw := 0, rwl := 0, w1c := 0x700 },
    roRow 0x801C 4 5 0,
    { base := 0x8040, stride := 4, count := 8, reset := 0, rw := 0, rwl := 0, w1c := 0x100 }, roRow 0x8060 4 4 0,
    rwRow 0x8080 4 1 0 0x3FFFFFF, rwRow 0x8084 4 1 0 0x3FFFFFFF, rwRow 0x8088 4 5 0 0xFFFFFFFF, roRow 0x80A0 4 4 0 ]

/-- SENSE (R507). -/
def senseRows : List RegRow :=
  [ roRow 0x9000 4 1 0,
    { base := 0x9004, stride := 4, count := 1, reset := 0x7A767069, rw := 0, rwl := 0xFFFFFFFF, w1c := 0 },
    rwRow 0x9008 4 1 0x60100602 0xFFFFFFFF, rwRow 0x900C 4 1 0x800100 0xFFFFFF,
    { base := 0x9010, stride := 4, count := 1, reset := 0, rw := 0, rwl := 0, w1c := 0x1F },
    roRow 0x9014 4 2 0, rwRow 0x9020 4 1 0 0x7777, roRow 0x9024 4 1 0x6919D8, roRow 0x9040 4 24 0, roRow 0x90A0 4 8 0,
    rwRow 0x90C0 4 8 0x4083 0xFFFF, roRow 0x90E0 4 1 0, roRow 0x9100 4 8 0, rwRow 0x9120 4 4 0xFFF00000 0xFFFFFFFF,
    roRow 0x9140 4 8 0 ]

/-- DRAM (R454). -/
def dramRows : List RegRow :=
  [ roRow 0xA000 4 2 0, rwRow 0xA008 4 1 0x12020800 0xFFFFFFFF, rwRow 0xA00C 4 1 0x8000000A 0x8000FFFF,
    rwRow 0xA010 4 1 0x100064 0xFFFFFF, rwRow 0xA020 4 1 0x320 0xFFFFF, rwRow 0xA024 4 1 0xFA0 0xFFFFF,
    rwRow 0xA028 4 1 0x2710 0xFFFFF, rwRow 0xA02C 4 1 0x4E20 0xFFFFF, rwRow 0xA030 4 1 0x2710 0xFFFFF,
    rwRow 0xA034 4 1 0x1770 0xFFFFF, rwRow 0xA038 4 1 0x4E20 0xFFFFF, rwRow 0xA03C 4 1 0xC350 0xFFFFF,
    roRow 0xA100 4 64 0 ]

/-- TALLY (R432), STRD (R403) and SAWY (R421). -/
def engineRows : List RegRow :=
  [ roRow 0xB000 4 3 0, roRow 0xB040 4 16 0, roRow 0xC000 4 3 0,
    { base := 0xC00C, stride := 4, count := 1, reset := 0, rw := 0, rwl := 0, w1c := 0x40000000 },
    roRow 0xC040 4 20 0, roRow 0xD000 4 4 0 ]

/-- FLT (R550). -/
def fltRows : List RegRow :=
  [ rwRow 0xE000 4 1 0 0xFFFFF000, rwRow 0xE004 4 1 0 0xFFFFFFFF, rwRow 0xE008 4 1 0 0x71, roRow 0xE00C 4 1 0,
    rwRow 0xE010 4 1 0 0xFFFFFFFF, roRow 0xE014 4 4 0,
    { base := 0xE024, stride := 4, count := 1, reset := 0, rw := 0, rwl := 0, w1c := 0x8 },
    { base := 0xE028, stride := 4, count := 1, reset := 0x10030, rw := 0x30000, rwl := 0xFFFF, w1c := 0 },
    roRow 0xE02C 4 2 0, roRow 0xE040 4 8 0 ]

/-- SAFE (R313). -/
def safeRows : List RegRow := [ roRow 0xF000 4 16 0 ]

/-- The whole map of PF BAR0 (R76). Every other offset is unassigned (R9). -/
def pfRows : List RegRow :=
  gctlRows ++ ringRows ++ harbRows ++ compRows ++ weaveRows ++ scanRows ++ linkRows ++ cwayRows ++ tideRows ++
  senseRows ++ dramRows ++ engineRows ++ fltRows ++ safeRows

/-- The global rows of the Watch port (R312). -/
def watchGlobalRows : List RegRow :=
  [ roRow 0x000 4 1 0x1296B001, roRow 0x004 4 2 0,
    { base := 0x00C, stride := 4, count := 1, reset := 0, rw := 0, rwl := 0, w1c := 0x1FFFF },
    rwRow 0x010 4 1 0 0x1FFFF, roRow 0x014 4 1 0 ]

/-- The rows of one port of the Watch port (R312), at 0x1000 + 0x800 × n (R311). -/
def watchPortRows : List RegRow :=
  [ rwRow 0x000 4 4 0 0xFFFFFFFF, roRow 0x010 4 3 0, roRow 0x01C 4 1 0xC0000000, rwRow 0x020 4 1 0 0xFFFFFFFF,
    roRow 0x024 4 1 0, rwRow 0x028 4 1 0x03 0xFF, roRow 0x030 4 4 0,
    { base := 0x040, stride := 4, count := 2, reset := 0, rw := 0, rwl := 0, w1c := 0xFFFFFFFF },
    rwRow 0x100 0x20 32 0 0xFFFFFFFF, rwRow 0x104 0x20 32 0 0xFFFFFFFF, rwRow 0x108 0x20 32 0 0xFFFFFFFF,
    rwRow 0x10C 0x20 32 0 0x1, roRow 0x110 0x20 32 0, roRow 0x114 0x20 32 0xC0000000 ]

/-- The row of an offset, none where the offset is unassigned (R9). -/
def findRow (rows : List RegRow) (off : Nat) : Option RegRow := rows.find? fun r => r.has off

/-- The block a PF BAR0 offset lies in (R76). -/
def pfBlock (off : Nat) : List RegRow :=
  match off / 0x1000 with
  | 0 => gctlRows
  | 1 => ringRows
  | 2 => harbRows
  | 3 => compRows
  | 4 => weaveRows
  | 5 => scanRows
  | 6 => linkRows
  | 7 => cwayRows
  | 8 => tideRows
  | 9 => senseRows
  | 10 => dramRows
  | 11 => engineRows
  | 12 => engineRows
  | 13 => engineRows
  | 14 => fltRows
  | 15 => safeRows
  | _ => []

/-- The row of a PF BAR0 offset. -/
def pfRow (off : Nat) : Option RegRow := findRow (pfBlock off) off

/-- The row of a Watch register, none where the address is outside the map (R311). -/
def watchRow (addr : Nat) : Option RegRow :=
  if addr < 0x1000 then findRow watchGlobalRows addr
  else if addr < 0x3000 then findRow watchPortRows ((addr - 0x1000) % 0x800)
  else none

/-- The reset value of a Watch register. -/
def watchReset (addr : Nat) : Word :=
  match watchRow addr with
  | some r => BitVec.ofNat 32 r.reset
  | none => 0

/-- The reset value of the word at a PF BAR0 offset; unassigned offsets read 0 (R9). -/
def resetWord (off : Nat) : Word :=
  match pfRow off with
  | some r => BitVec.ofNat 32 r.reset
  | none => 0

end Sys2Proof.Machine
end

