-- ==== Sys2Proof/Machine/Ops.lean ====
section
/-! DEFINITION. The named operations that the meanings share: sparse tables, registers, rings, ports and channels, Tide
time (R457), what leaves the device, Causeway records, error records with the first-fault latch, the error ring, the
interrupts and FAULT_N (R537 to R547), and the fatal state (R549). -/

namespace Sys2Proof.Machine

/-! ### Tables in canonical form -/

/-- The entry of a key. -/
def tabFind {α : Type} : Tab α → Nat → Option α
  | [], _ => none
  | (a, v) :: t, k => if a = k then some v else tabFind t k

/-- The entry of a key, or the default. -/
def tabGet {α : Type} (d : α) (t : Tab α) (k : Nat) : α := (tabFind t k).getD d

/-- Put an entry, keys rising. -/
def tabPut {α : Type} : Tab α → Nat → α → Tab α
  | [], k, v => [(k, v)]
  | (a, w) :: t, k, v =>
    if k < a then (k, v) :: (a, w) :: t else if k = a then (k, v) :: t else (a, w) :: tabPut t k v

/-- Remove an entry. -/
def tabErase {α : Type} : Tab α → Nat → Tab α
  | [], _ => []
  | (a, w) :: t, k => if a = k then t else (a, w) :: tabErase t k

/-- Set an entry of a table with a default: writing the default removes the entry. -/
def tabSet {α : Type} [DecidableEq α] (d : α) (t : Tab α) (k : Nat) (v : α) : Tab α :=
  if v = d then tabErase t k else tabPut t k v

/-- Apply a function to every entry. -/
def tabMap {α : Type} (f : Nat → α → α) : Tab α → Tab α
  | [] => []
  | (a, v) :: t => (a, f a v) :: tabMap f t

/-- Do something for each number below `n`, in rising order. -/
def forN {σ : Type} (n : Nat) (f : Nat → σ → σ) (s : σ) : σ := (List.range n).foldl (fun s i => f i s) s

/-! ### Registers -/

/-- The number in a PF BAR0 word. -/
def State.reg (s : State) (off : Nat) : Nat := (tabGet (resetWord off) s.regs off).toNat

/-- Set a PF BAR0 word. -/
def State.setReg (s : State) (off v : Nat) : State :=
  { s with regs := tabSet (resetWord off) s.regs off (BitVec.ofNat 32 v) }

/-- The bit field `[hi:lo]` of a PF BAR0 word. -/
def State.field (s : State) (off hi lo : Nat) : Nat := fieldOf (s.reg off) hi lo

/-- Replace the bit field `[hi:lo]` of a number. -/
def putField (x hi lo v : Nat) : Nat :=
  x / 2 ^ (hi + 1) * 2 ^ (hi + 1) + v % 2 ^ (hi + 1 - lo) * 2 ^ lo + x % 2 ^ lo

/-- Set the bit field `[hi:lo]` of a PF BAR0 word. -/
def State.setField (s : State) (off hi lo v : Nat) : State := s.setReg off (putField (s.reg off) hi lo v)

/-- Set one bit of a PF BAR0 word. -/
def State.setBit (s : State) (off b : Nat) : State := s.setField off b b 1

/-- Add to a saturating counter field `[hi:lo]`. -/
def State.count (s : State) (off hi lo n : Nat) : State :=
  s.setField off hi lo (satNat (s.field off hi lo + n) (2 ^ (hi + 1 - lo) - 1))

/-- The PF BAR0 words of the block window `w` (R76) return to their reset values, captures too (R10). -/
def State.resetBlock (s : State) (w : Nat) : State :=
  { s with regs := s.regs.filter fun e => e.1 / 0x1000 ≠ w, capts := s.capts.filter fun e => e.1 / 0x1000 ≠ w }

/-- The number in a Watch register. -/
def State.wreg (s : State) (addr : Nat) : Nat := (tabGet (watchReset addr) s.wregs addr).toNat

/-- Set a Watch register. -/
def State.setWreg (s : State) (addr v : Nat) : State :=
  { s with wregs := tabSet (watchReset addr) s.wregs addr (BitVec.ofNat 32 v) }

/-- Set one bit of a Watch register. -/
def State.setWbit (s : State) (addr b : Nat) : State := s.setWreg addr (putField (s.wreg addr) b b 1)

/-- The Watch registers of a port (R311). -/
def wpBase (p : Nat) : Nat := 0x1000 + 0x800 * p

/-! ### Rings, ports, channels and other units -/

def State.ring (s : State) (r : Nat) : Ring := tabGet Ring.reset s.rings r
def State.setRing (s : State) (r : Nat) (x : Ring) : State := { s with rings := tabPut s.rings r x }
def State.modRing (s : State) (r : Nat) (f : Ring → Ring) : State := s.setRing r (f (s.ring r))
def State.port (s : State) (p : Nat) : Port := tabGet Port.reset s.ports p
def State.setPort (s : State) (p : Nat) (x : Port) : State := { s with ports := tabPut s.ports p x }
def State.modPort (s : State) (p : Nat) (f : Port → Port) : State := s.setPort p (f (s.port p))
def State.modLink (s : State) (p : Nat) (f : Link → Link) : State :=
  s.modPort p fun q => { q with link := f q.link }
def State.chan (s : State) (c : Nat) : Chan := tabGet Chan.reset s.chans c
def State.setChan (s : State) (c : Nat) (x : Chan) : State := { s with chans := tabPut s.chans c x }
def State.modChan (s : State) (c : Nat) (f : Chan → Chan) : State := s.setChan c (f (s.chan c))
def State.ctx (s : State) (m : Nat) : Ctx := tabGet Ctx.reset s.ctxs m
def State.setCtx (s : State) (m : Nat) (x : Ctx) : State := { s with ctxs := tabPut s.ctxs m x }
def State.unit (s : State) (k : Nat) : TallyUnit := tabGet TallyUnit.reset s.units k
def State.setUnit (s : State) (k : Nat) (x : TallyUnit) : State := { s with units := tabPut s.units k x }
def State.out (s : State) (n : Nat) : TideOut := tabGet TideOut.reset s.outs n
def State.setOut (s : State) (n : Nat) (x : TideOut) : State := { s with outs := tabPut s.outs n x }
def State.cap (s : State) (n : Nat) : TideCap := tabGet TideCap.reset s.tcaps n
def State.setCap (s : State) (n : Nat) (x : TideCap) : State := { s with tcaps := tabPut s.tcaps n x }

/-- A timer that is running and has reached its tick. -/
def due (t : Timer) (now : Nat) : Bool := match t with
  | some d => decide (d ≤ now)
  | none => false

/-- Ticks of a time in microseconds (R5). -/
def usTicks (n : Nat) : Nat := 1500 * n

/-- Ticks of a time in milliseconds (R5). -/
def msTicks (n : Nat) : Nat := 1500000 * n

/-- The smallest tick count that is at least a time in nanoseconds (R5). -/
def nsTicks (n : Nat) : Nat := ceilDiv (3 * n) 2

/-! ### Tide time (R455 to R457) -/

/-- TIDE_INC in units of 2^-32 ns (R456). -/
def tideInc (rateAdj : Int) : Nat := (4 * 2 ^ 32 + rateAdj).toNat

/-- The counter as one number, in units of 2^-32 ns since Tide 0. -/
def Tide.units (t : Tide) : Nat := (t.sec * 1000000000 + t.ns) * 2 ^ 32 + t.frac

/-- The counter that a number of units spells (R455). -/
def Tide.ofUnits (t : Tide) (u : Nat) : Tide :=
  { t with sec := u / 2 ^ 32 / 1000000000, ns := u / 2 ^ 32 % 1000000000, frac := u % 2 ^ 32 }

/-- Six times the Tide time of a tick at or after the last CLK_TIME edge, in 2^-32 ns, at the present TIDE_INC: exact
(R457, R465). -/
def State.tideAt6 (s : State) (tick : Nat) : Int :=
  6 * (s.tide.units : Int) + ((tick : Int) - (s.now - s.now % 6 : Nat)) * (tideInc s.tide.rateAdj : Nat)

/-- The Tide time of a tick in whole nanoseconds, the fraction dropped (R457). -/
def State.tideNsAt (s : State) (tick : Nat) : Nat := (s.tideAt6 tick / (6 * 2 ^ 32)).toNat

/-- The Tide time now, in whole nanoseconds since Tide 0 (R457). -/
def State.tideNs (s : State) : Nat := s.tideNsAt s.now

/-- The first tick at or after now whose Tide time, predicted at the present TIDE_INC, is at or after `t` (given in
2^-32 ns): R465, R469. -/
def State.tickOf (s : State) (t : Nat) : Nat :=
  let inc := tideInc s.tide.rateAdj
  let base : Int := (s.now - s.now % 6 : Nat)
  let d : Int := 6 * ((t : Int) - s.tide.units)
  let k := if d ≤ 0 then base else base + (d + inc - 1) / inc
  max s.now k.toNat

/-- A timestamp: seconds in eight bytes, nanoseconds in four (R111, R537). -/
def timeBytes (ns : Nat) : List Byte := leBytes 8 (ns / 1000000000) ++ leBytes 4 (ns % 1000000000)

/-! ### What leaves the device -/

/-- Something goes out towards the host, after everything already on its way (R110). -/
def State.emit (s : State) (e : Egress) : State := { s with egress := s.egress ++ [e] }

/-! ### The panel link -/

/-- The tick at which the send slot of line `j` begins (R314): the floor of the exact product. -/
def Port.slotTick (q : Port) (j : Int) : Nat := ((q.t0 : Int) + j * (q.lineTicks : Int) / (2 ^ 33 : Nat)).toNat

/-- The port counts line slots: it runs, or is in its lead-in (R314, R324). -/
def Port.slots (q : Port) : Bool :=
  decide (q.phase = .running) || decide (q.phase = .reforming) || (decide (q.phase = .starting) && q.startBy.isNone && q.modeNext.isNone)

/-- V_TOTAL (R315). -/
def Mode.vTotal (m : Mode) : Nat := m.vActive + m.vBlank

/-- Lines of a frame (R315). -/
def Mode.frameLines (m : Mode) : Nat := m.subframes * m.vTotal

/-- Subframe and line of a slot of a mode's frame; lines before the frame count back (R315, R324). -/
def Port.placeOf (q : Port) (j : Int) : Nat × Nat :=
  let n := q.mode.frameLines
  let i := if n = 0 then 0 else ((j - q.frameAt) % (n : Int)).toNat
  (i / max 1 q.mode.vTotal, i % max 1 q.mode.vTotal)

/-- Tick, times 20, at which a port's next marker position begins (R347). -/
def Link.markerDue (l : Link) : Nat := 20 * l.posAt + l.pos * 1728 * 7 * 2 ^ l.rate

/-- A packet, marker or block goes out on a port's lanes. -/
def State.transmit (s : State) (p : Nat) (x : LinkTx) : State := s.modLink p fun l => l.send x

/-- The lowest-numbered port of a port's gang, the port itself when it is in none (R320). -/
def State.lead (s : State) (p : Nat) : Nat :=
  let g := (s.port p).gang
  if g = 0 then p else ((List.range 4).find? fun q => g / 2 ^ q % 2 = 1).getD p

/-- The start of a port's next line slot, while it counts them (R314, R374). -/
def State.nextSlotTick (s : State) (p : Nat) : Option Nat :=
  let q := s.port (s.lead p)
  if q.slots || (s.port p).link.holdEnd.isSome then some (q.slotTick q.next) else none

/-- A replicated packet goes where it ends before the next line slot's packet starts; until there is room it waits (R359). -/
def State.sendFree (s : State) (p : Nat) (x : LinkTx) : State := match x with
  | .packet k =>
    let l := (s.port p).link
    let fits := match s.nextSlotTick p with
      | some t => decide (posAfter (l.freePos k.tick) (wordPositions k.replicated l.nd k.words.length) ≤ l.firstPos (t + 300))
      | none => true
    if fits && l.later.isEmpty then s.transmit p x else s.modLink p fun l => { l with later := l.later ++ [k] }
  | _ => s.transmit p x

/-- Packets that waited for room are tried again. -/
def State.sendLater (s : State) (p : Nat) : State :=
  let ks := (s.port p).link.later
  ks.foldl (fun s k => s.sendFree p (.packet k)) (s.modLink p fun l => { l with later := [] })

/-- The unit is one of a pair (R512, R520): pair_enable of CWAY_CTRL. -/
def State.paired (s : State) : Bool := decide (s.field 0x7000 0 0 = 1)

/-- The Causeway carries records: it is up on one lane or two (R509). -/
def State.cwayUp (s : State) : Bool := decide (2 ≤ s.cway.linkPhase)

/-- Send a Causeway record (R521): it takes the next sequence number and restarts the idle timer (R522). Nothing is sent
while the Causeway is down (log 30). -/
def State.cwaySend (s : State) (type : Nat) (last : Bool) (ring dseq : Nat) (body : List Byte) : State :=
  if s.cwayUp then
    let bs := recordBytes { seq := s.cway.sendSeq, type := type, last := last, ring := ring, dseq := dseq } body
    { s with cway := { s.cway with
        tx := s.cway.tx ++ [bs], sendSeq := (s.cway.sendSeq + 1) % 2 ^ 32, idleAt := some (s.now + usTicks 100) } }
  else s

/-! ### Roles (R511) -/

/-- The code of a role (R511). -/
def Role.code : Role → Nat
  | .solo => 0
  | .active => 1
  | .mirrored => 2
  | .catchup => 3
  | .stale => 4
  | .failed => 5

/-- A unit in a STANDBY role (R511). -/
def Role.standby : Role → Bool
  | .mirrored => true
  | .catchup => true
  | .stale => true
  | _ => false

/-- SOLO and ACTIVE drive the glass and have usable rings (R511). -/
def Role.drives : Role → Bool
  | .solo => true
  | .active => true
  | _ => false

/-! ### Error records (R537 to R547) -/

/-- A device-wide report. -/
def err (sev source code inst i0 i1 i2 : Nat) : ErrRec :=
  { sev := sev, source := source, code := code, inst := inst, fn := 0, i0 := i0, i1 := i1, i2 := i2 }

/-- Word 1 of a record (R537). -/
def ErrRec.word1 (e : ErrRec) (nested pin : Bool) : Nat :=
  e.sev % 4 + bit nested * 4 + bit pin * 8 + e.fn % 16 * 16 + e.source % 256 * 2 ^ 8 + e.code % 256 * 2 ^ 16 +
    e.inst % 256 * 2 ^ 24

/-- The eight words of a record (R537). -/
def ErrRec.words (e : ErrRec) (seq ns : Nat) (nested pin : Bool) : List Nat :=
  [ seq % 2 ^ 32, e.word1 nested pin, ns / 1000000000 % 2 ^ 32, ns / 1000000000 / 2 ^ 32 % 2 ^ 32, ns % 1000000000,
    e.i0 % 2 ^ 32, e.i1 % 2 ^ 32, e.i2 % 2 ^ 32 ]

/-- The little-endian bytes of words. -/
def wordBytes (ws : List Nat) : List Byte := ws.flatMap (leBytes 4)

/-- The severity of the record FLT_FIRST holds, none while it is not valid (R541). -/
def Flt.heldSev (f : Flt) : Option Nat := f.first.map fun ws => ws.getD 1 0 % 4

/-- The record is nested: CORRECTED or higher while FLT_FIRST holds one of equal or higher severity (R542). -/
def Flt.nests (f : Flt) (sev : Nat) : Bool := match f.heldSev with
  | some h => decide (1 ≤ sev) && decide (sev ≤ h)
  | none => false

/-- The record asserts FAULT_N (R547): FATAL, or DEGRADED with its source in degraded_mask. -/
def State.pins (s : State) (e : ErrRec) : Bool :=
  decide (e.sev = 3) || (decide (e.sev = 2) && decide (s.reg 0xE028 / 2 ^ e.source % 2 = 1))

/-- Slots of the error ring (R544). -/
def State.fltSize (s : State) : Nat := 2 ^ (s.field 0xE008 6 4 + 4)

/-- The ring is full, or RD is outside its span (R545). -/
def State.fltFull (s : State) : Bool :=
  decide (s.fltSize ≤ (s.flt.written + 2 ^ 32 - s.reg 0xE010) % 2 ^ 32)

/-- The address of the slot of a position of the error ring (R544). -/
def State.fltSlot (s : State) (pos : Nat) : Nat :=
  s.reg 0xE004 * 2 ^ 32 + s.reg 0xE000 + 32 * (pos % s.fltSize)

/-- The newest non-fatal position among the `n` before `pos`, none if all are FATAL (R545). -/
def newestNonFatal (fatals : List Nat) : Nat → Nat → Option Nat
  | 0, _ => none
  | n + 1, pos =>
    let q := (pos + 2 ^ 32 - 1) % 2 ^ 32
    if fatals.contains q then newestNonFatal fatals n q else some q

/-- A record is dropped and counted (R545). -/
def State.fltDrop (s : State) : State := s.count 0xE014 31 16 1

/-- Place a record in the error ring (R544, R545). -/
def State.fltStore (s : State) (sev : Nat) (bytes : List Byte) : State :=
  if s.field 0xE008 0 0 = 0 then s.fltDrop
  else if s.fltFull then
    let n := (s.flt.written + 2 ^ 32 - s.reg 0xE010) % 2 ^ 32
    match (if sev = 3 ∧ n ≤ s.fltSize then newestNonFatal s.flt.fatalPos n s.flt.written else none) with
    | none => s.fltDrop
    | some pos =>
      let s := s.emit (.write 0 (s.fltSlot pos) bytes)
      let s := { s with flt := { s.flt with fatalPos := s.flt.fatalPos ++ [pos] } }
      s.fltDrop
  else
    let pos := s.flt.written
    let s := s.emit (.write 0 (s.fltSlot pos) bytes)
    { s with flt := { s.flt with
        written := (pos + 1) % 2 ^ 32
        fatalPos := if sev = 3 then s.flt.fatalPos ++ [pos] else s.flt.fatalPos.filter fun q => q ≠ pos } }

/-- The PF MSI-X entries a record signals (R546). -/
def State.fltVectors (s : State) (e : ErrRec) : List Nat :=
  (if s.field 0xE028 17 16 ≤ e.sev then [8] else []) ++ (if e.sev = 3 then [9] else []) ++
  (match e.source with
   | 0x0C => [10]
   | 0x0E => [11]
   | 0x09 => [12]
   | 0x06 => [13]
   | 0x07 => [13]
   | 0x0A => [14]
   | 0x02 => [14]
   | 0x03 => [15]
   | 0x04 => [15]
   | 0x05 => [15]
   | _ => [])

/-- The bits of FLT_SEVCOUNT that count a severity (R550). -/
def sevField (sev : Nat) : Nat := 8 * (sev % 4)

/-- Make the record of something raised, without what a FATAL record does to the device: number it, latch it, count it, write or
drop it, signal it, assert FAULT_N, and tell the peer (R537 to R547). -/
def State.makeRecord (s : State) (r : Raised) : State :=
  let e := r.what
  let nested := s.flt.nests e.sev
  let pin := r.force || s.pins e
  let ws := e.words s.flt.seq r.ns nested pin
  let bytes := wordBytes ws
  let latch := decide (1 ≤ e.sev) && !nested
  let s := { s with flt := { s.flt with
    seq := (s.flt.seq + 1) % 2 ^ 32, first := if latch then some ws else s.flt.first, pin := s.flt.pin || pin } }
  let s := if nested then s.count 0xE014 15 0 1 else s
  let s := s.count 0xE018 (sevField e.sev + 7) (sevField e.sev) 1
  let s := s.fltStore e.sev bytes
  let s := (s.fltVectors e).foldl (fun s v => s.emit (.msix 0 v)) s
  if s.paired && decide (2 ≤ e.sev) then s.cwaySend 0x0A false 0xFF 0 (leBytes 1 e.sev ++ bytes) else s

/-- Raise a record in the present CLK_FAB cycle (R538). `force` asserts FAULT_N whatever the policy (R531). -/
def State.raiseCore (s : State) (force : Bool) (e : ErrRec) : State :=
  { s with flt := { s.flt with raised := s.flt.raised ++ [{ what := e, ns := s.tideNs, force := force }] } }

/-- Source, code and instance as one number (R538). -/
def ErrRec.rank (e : ErrRec) : Nat := e.source * 65536 + e.code * 256 + e.inst

/-- Put a record behind those that do not rank above it. -/
def putRaised (r : Raised) : List Raised → List Raised
  | [] => [r]
  | x :: xs => if r.what.rank < x.what.rank then r :: x :: xs else x :: putRaised r xs

/-- The records of a cycle in increasing order of source, then code, then instance; equal ones as they were raised (R538). -/
def cycleOrder (rs : List Raised) : List Raised := rs.foldl (fun l r => putRaised r l) []

/-- The CLK_FAB cycle ends: what was raised in it becomes records (R538). -/
def State.endCycle (s : State) : State :=
  (cycleOrder s.flt.raised).foldl State.makeRecord { s with flt := { s.flt with raised := [] } }

/-- A ring is disabled at once (R119, R120). -/
def Ring.disabled (x : Ring) : Ring :=
  { x with
    enable := false, state := .disabled, enableRead := false, enableDrop := false, polling := false, pollDrop := false, fetching := none
    buf := [], cur := none }

/-- Take a role and report the change (R512, CWAY 0x01); in a role that drives no glass every ring is DISABLED (R120, R511). -/
def State.takeRole (s : State) (r : Role) : State :=
  let old := s.cway.role
  let off := fun (_ : Nat) (x : Ring) => x.disabled
  let s := { s with cway := { s.cway with role := r }, rings := if r.drives then s.rings else tabMap off s.rings }
  let bad := decide (r = .stale) || decide (r = .failed)
  if old = r then s else s.raiseCore false (err (if bad then 2 else 0) 0x0E 0x01 0 old.code r.code 0)

/-- The position of a port in its gang in R320 order, 0 for a port alone. -/
def gangMember (gang p : Nat) : Nat := if gang = 0 then 0 else ((List.range p).filter fun q => gang / 2 ^ q % 2 = 1).length

/-- The subframe and the line of the line slot now in progress; zeros while no slots are counted (R354, log 79). -/
def State.slotPlace (s : State) (p : Nat) : Nat × Nat :=
  let q := s.port (s.lead p)
  if q.slots || (s.port p).link.holdEnd.isSome then q.placeOf (q.next - 1) else (0, 0)

/-- A header without flags; its phase and line are those of the line slot (R354). -/
def State.headAt (_ : State) (p type member : Nat) (at_ : Nat × Nat) : PktHead :=
  { type := type, port := p, member := member, phase := at_.1, under := false, last := false, line := at_.2 }

/-- Words 0 to 3 of a LEASE packet of a port, sent now (R358, R525); act 0 claim, 1 renew, 2 resign. -/
def State.sendLease (s : State) (p act epoch : Nat) : State :=
  s.sendFree p (mkPacket (s.headAt p 4 (gangMember (s.port p).gang p) (s.slotPlace p)) (leasePayload epoch act (s.reg 0x7028)) s.now)

/-- Give up the lease of a port that holds one (R528, R529). -/
def State.resignLease (s : State) (p : Nat) : State :=
  if (s.port p).link.holds then
    (s.sendLease p 2 (s.reg (0x7040 + 4 * p))).modLink p fun l => { l with holds := false, nextLease := none, claim := none }
  else s

/-- Enter FAILED (R512, R528): stop PEER_OK_OUT and resign every lease held. The FATAL record itself has gone to the
peer as a FAULT record. -/
def State.enterFailed (s : State) : State :=
  let s := s.takeRole .failed
  let s := { s with cway := { s.cway with okNext := none } }
  forN 4 (fun p s => s.resignLease p) s

/-- A working channel goes into self-refresh, its queue left as it stands (R549). -/
def Chan.toSelfRefresh (c : Chan) (now : Nat) : Chan := match c.phase with
  | .active => { c with phase := .selfRefresh, openRows := [], srSince := some now, idleAt := none }
  | .recovery => { c with phase := .selfRefresh, openRows := [], srSince := some now, idleAt := none }
  | .retiring => { c with phase := .selfRefresh, openRows := [], srSince := some now, idleAt := none }
  | _ => c

/-- The fatal state (R549): fatal_hold and FAULT_N, DRAM in self-refresh, FAILED in a pair. What it stops is tested
where it is done. -/
def State.enterFatal (s : State) : State :=
  if s.flt.fatalHold then s
  else
    let s := { s with flt := { s.flt with fatalHold := true, pin := true }
                      chans := tabMap (fun _ c => c.toSelfRefresh s.now) s.chans }
    if s.paired then s.enterFailed else s

/-- Raise an error record; a FATAL one puts the device in the fatal state (R537 to R549). -/
def State.raise (s : State) (e : ErrRec) : State :=
  let s := s.raiseCore false e
  if e.sev = 3 then s.enterFatal else s

/-- At most one record a second for a condition (R87, R452): the tick of the last one is kept by key. -/
def State.limited (s : State) (key : Nat) : Bool := match tabFind s.flt.lastAt key with
  | some t => decide (s.now < t + 1500000000)
  | none => false

/-- The device draws a free value: the next seed. -/
def State.draw (s : State) : State := { s with fresh := s.fresh + 1 }

/-! ### Functions, owners and port gangs -/

/-- The function that owns a port (R78). -/
def State.owner (s : State) (p : Nat) : Nat := s.field 0x44 (4 * p + 3) (4 * p)

/-- The instance byte of a record about a port, and about a region or a phase in the bits below (R539). -/
def instP (p low : Nat) : Nat := 64 * (p % 4) + low

/-- The ports of a mask, rising. -/
def maskPorts (m : Nat) : List Nat := (List.range 4).filter fun q => m / 2 ^ q % 2 = 1

/-- The member ports that act together with a port, in rising order. A member that has left its gang leaves the others in their places
(DESIGN CHOICE, log 76). -/
def State.members (s : State) (p : Nat) : List Nat :=
  let g := (s.port p).gang
  if g = 0 then [p] else (maskPorts g).filter fun q => decide ((s.port q).gang = g)

/-- The port is a gang member other than the lowest-numbered one (R203, R234, R265, R284, R338). -/
def State.follower (s : State) (p : Nat) : Bool := decide (s.lead p ≠ p)

/-- A unit that throttling slows is in an ebb slot: it starts no operation (R488). -/
def State.inEbb (s : State) (u : EbbUnit) : Bool := s.sense.ebbs.any fun e => decide (e.1 = u) && e.2.1

/-- The device is in the boot-plate state (R567). -/
def State.inBootState (s : State) : Bool := s.power.bootState

/-- The unit's role is decided: it is not a unit of a pair that still waits for its peer's HELLO (R512). -/
def State.formed (s : State) : Bool := s.cway.helloBy.isNone

/-- The device runs: no reset holds it. -/
def State.running (s : State) : Bool := decide (s.power.boot ≠ .inReset)

end Sys2Proof.Machine
end

