-- ==== Sys2Proof/Machine/Lanes.lean ====
section
/-! DEFINITION. The forward lanes of the panel link, position by position (12_panel_link.md, R340 to R352, R359, R364, R372, R373,
R377, R378): what each lane sends, its levels with precoding and equalisation, and where packets go between line slots; with them the
sending lanes of the Causeway (R509, R521). -/

namespace Sys2Proof.Machine

/-! ### The pattern (R378) -/

/-- The next bit of the 2^23 − 1 sequence and the register after it (R378, ITU-T O.150: stages 18 and 23). -/
def prbsStep (r : Nat) : Nat × Nat := (r / 2 ^ 22 % 2, r * 2 % 2 ^ 23 + (r / 2 ^ 22 + r / 2 ^ 17) % 2)

/-- `n` further bits of the sequence appended to `acc`, the first in the highest place. -/
def prbsBits : Nat → Nat → Nat → Nat × Nat
  | 0, acc, r => (acc, r)
  | n + 1, acc, r => prbsBits n (acc * 2 + (prbsStep r).1) (prbsStep r).2

/-- The register's value at the first TRAIN or TEST block of a lane. -/
def patternSeed (lane : Nat) : Nat := 0x7FFFF0 + lane

/-! ### One lane -/

/-- What a lane is given at a position: a word or a control septet (R343, R344). -/
inductive Septet where
  | data (w : W12)
  | ctrl (k : Nat)
deriving DecidableEq, Repr

/-- Its seven levels, before precoding. -/
def Septet.levels : Septet → List Nat
  | .data w => septet w
  | .ctrl k => controlSeptet k

/-- Seven levels are a data septet exactly when the first is what R343 gives for the others. -/
def dataLevels (ls : List Nat) : Bool :=
  decide (ls.length = 7) && decide (ls.head? = some (if (ls.drop 1).sum ≤ 9 then 2 else 1))

/-- A lane's equaliser setting: its taps in 64ths and the swing in mV (R342, R381). -/
structure Ffe where
  pre   : Nat
  post  : Nat
  swing : Nat
deriving DecidableEq, Repr

/-- Three times the value x of a level, −3 to 3; a lane that sends nothing gives 0 (R342, log 80). -/
def tapValue : Option Nat → Int
  | some y => 2 * (y : Int) - 3
  | none => 0

/-- The equaliser's output for the symbol `cur` between its neighbours (R342), in 384ths of a mV: the swing is peak to peak (log 80). -/
def Ffe.output (f : Ffe) (next : Option Nat) (cur : Nat) (last : Option Nat) : Int :=
  (f.swing : Int) * ((64 - (f.pre : Int) - f.post) * tapValue (some cur) - f.pre * tapValue next - f.post * tapValue last)

/-- The symbol before the next one has all it needs for the equaliser: it leaves (R342). -/
def LaneTx.leave (f : Ffe) (next : Option Nat) (x : LaneTx) : List (Nat × Int) := match x.recent with
  | [] => []
  | y :: before => [(y, f.output next y before.head?)]

/-- One level goes to the lane: precoded where precoding is in force (R341), then equalised. -/
def LaneTx.symbol (precode : Bool) (f : Ffe) (x : LaneTx) (l : Nat) : LaneTx :=
  let y := if precode then precodeLevel x.prev l else l
  { x with prev := y, recent := (y :: x.recent).take 2, out := x.out ++ x.leave f (some y) }

/-- A position's septet, or nothing. -/
def LaneTx.put (precode : Bool) (f : Ffe) (x : LaneTx) : Option Septet → LaneTx
  | some y => y.levels.foldl (LaneTx.symbol precode f) x
  | none => { x with recent := [], out := x.out ++ x.leave f none }

/-- The next position of a TRAIN or TEST block: KC0, KC4 or KC7, then 62 words of the pattern (R364, R377). -/
def LaneTx.block (x : LaneTx) (second : Nat) : Septet × LaneTx :=
  let y := { x with place := x.place + 1 }
  match x.place % 64 with
  | 0 => (.ctrl 0, y)
  | 1 => (.ctrl second, y)
  | _ =>
    let a := prbsBits 12 0 x.pattern
    (.data (BitVec.ofNat 12 a.1), { y with pattern := a.2 })

/-- What a lane sends at a position, `served` being its share of the data service. A lane that leaves the service to be retrained sends
KC6 first (R352); a test is 4,096 blocks (R376). -/
def LaneTx.next (lane : Nat) (served : Septet) (x : LaneTx) (use : LaneUse) : Option Septet × LaneTx :=
  let fresh := { x with use := use, place := 0, pattern := patternSeed lane }
  let go := fun (second : Nat) => let r := (if x.use = use then x else fresh).block second
    (some r.1, r.2)
  match use with
  | .quiet => (none, { x with use := use })
  | .serve => (some served, { x with use := use })
  | .train => if x.use = .serve then (some (.ctrl 6), fresh) else go 4
  | .test => if x.use = use ∧ 64 * 4096 ≤ x.place then (none, x) else go 7

/-! ### What the data service carries (R347 to R351) -/

/-- Length of a position in twentieths of a tick (R347). -/
def Link.step20 (l : Link) : Nat := 7 * 2 ^ l.rate

/-- The number of the next position. -/
def Link.lanePos (l : Link) : Nat := (l.coder.at20 - 20 * l.posAt) / l.step20

/-- A lane's marker word (R348). -/
def markerWord (lane port x : Nat) : W12 := BitVec.ofNat 12 (lane * 256 + port * 64 + x / 1728 % 64)

/-- A packet's word on a lane at the `i`-th position after its SOP: replicated, or striped with the keel carrying the XOR (R349, R350). -/
def Packet.wordAt (k : Packet) (i lane : Nat) : W12 :=
  if k.replicated then k.words.getD i 0
  else
    let ws := (k.words.drop (i * k.form.1)).take k.form.1
    match k.form.2.2.findIdx? fun x => decide (x = lane) with
    | some j => if j < k.form.1 then ws.getD j 0 else ws.foldl (· ^^^ ·) 0
    | none => 0

/-- Positions after the SOP. -/
def Packet.positions (k : Packet) : Nat := wordPositions k.replicated k.form.1 k.words.length

/-- The packet that a position belongs to: the one being sent, or the first placed one that may begin there (R359). -/
def Coder.current (c : Coder) (x : Nat) : Option (Packet × Nat) := match c.cur with
  | some k => some k
  | none => match c.queue with
    | k :: _ => if k.pos ≤ x then some (k, 0) else none
    | [] => none

/-- A lane's share of the data service at position `x`: marker, packet or fill (R348 to R351). -/
def servedAt (port x : Nat) (cur : Option (Packet × Nat)) (lane : Nat) : Septet :=
  if x % 1728 = 0 then .ctrl 1
  else if x % 1728 = 1 then .data (markerWord lane port x)
  else match cur with
    | some (_, 0) => .ctrl 2
    | some (k, i + 1) => .data (k.wordAt i lane)
    | none => .ctrl 3

/-- After a position free of markers: the packet's next stage, or its end. -/
def Coder.advance (c : Coder) (x : Nat) : Coder :=
  if x % 1728 < 2 then c
  else match c.current x with
    | none => c
    | some (k, i) =>
      { c with
        queue := if c.cur.isSome then c.queue else c.queue.drop 1
        cur := if k.positions ≤ i then none else some (k, i + 1) }

/-! ### What the lanes do (R347, R352, R364, R368, R372, R376) -/

/-- The power state of a lane: a retired one is in L2 (R368, R372). -/
def Link.lanePower (l : Link) (lane : Nat) : LanePower := if l.retired / 2 ^ lane % 2 = 1 then .l2 else l.power

/-- The lanes carry markers and packets: a formation is in force and the port is in L0 (R347, R364). -/
def Link.serving (l : Link) : Bool :=
  decide (l.power = .l0) && decide (l.map ≠ []) && decide (l.phase ≠ .down)

/-- What a lane does now. -/
def Link.useOf (l : Link) (lane : Nat) : LaneUse :=
  let tested := match l.loop with
    | some (_, lanes) => decide (lanes / 2 ^ lane % 2 = 1)
    | none => false
  if tested then (if (l.loop.map (·.1)) = some 3 then .test else .quiet)
  else if l.wakeTo.isSome then (if l.retired / 2 ^ lane % 2 = 1 then .quiet else .train)
  else if l.lanePower lane ≠ .l0 then .quiet
  else if l.map = [] then (if l.phase = .training then .train else .quiet)
  else if !l.serving then .quiet
  else if l.service / 2 ^ lane % 2 = 1 then .serve
  else if l.lost / 2 ^ lane % 2 = 1 then .train
  else .quiet

def Link.uses (l : Link) : List LaneUse := (List.range 12).map l.useOf

/-- All lanes quiet. -/
def allQuiet : List LaneUse := List.replicate 12 .quiet

/-- What the lanes do changes at a time, in twentieths of a tick, never before an earlier change. -/
def Link.noteUses (l : Link) (at20 : Nat) : Link :=
  let c := l.coder
  let last := (c.uses.getLast?.map (·.2)).getD allQuiet
  if l.uses = last then l
  else { l with coder := { c with uses := c.uses ++ [(max at20 ((c.uses.getLast?.map (·.1)).getD 0), l.uses)] } }

/-- The changes from the one in force at a time on. -/
def usesFrom (t : Nat) : List (Nat × List LaneUse) → List (Nat × List LaneUse)
  | a :: b :: r => if b.1 ≤ t then usesFrom t (b :: r) else a :: b :: r
  | r => r

/-- What the lanes do at a time. -/
def usesAt (t : Nat) (us : List (Nat × List LaneUse)) : List LaneUse := match usesFrom t us with
  | (u, x) :: _ => if u ≤ t then x else allQuiet
  | [] => allQuiet

/-! ### One position -/

/-- Every lane that is being trained is at the KC0 of a block (R364 step 5). -/
def allAtComma (us : List LaneUse) (lanes : List LaneTx) : Bool :=
  (List.range 12).all fun i =>
    let x := lanes.getD i LaneTx.reset
    match us.getD i .quiet with
    | .train => decide (x.use = .quiet) || (decide (x.use = .train) && decide (x.place % 64 = 0))
    | .quiet => true
    | _ => false

/-- Precoding asked for comes in force at the KC0 position of all lanes (R364 step 5). -/
def Link.takePrecode (l : Link) (us : List LaneUse) : Link := match l.precodeNext with
  | some b => if allAtComma us l.coder.lanes then { l with precode := b, precodeNext := none } else l
  | none => l

/-- All lanes advance by one word position (R347); `forced` stands for the data service's share where it is given (R373). -/
def Link.position (port : Nat) (ffe : Nat → Ffe) (forced : Option Septet) (l : Link) : Link :=
  let us := usesAt l.coder.at20 l.coder.uses
  let l := l.takePrecode us
  let c := l.coder
  let x := l.lanePos
  let cur := c.current x
  let lanes := (List.range 12).map fun i =>
    let y := LaneTx.next i (forced.getD (servedAt port x cur i)) (c.lanes.getD i LaneTx.reset) (us.getD i .quiet)
    y.2.put l.precode (ffe i) y.1
  { l with coder := { c.advance x with at20 := c.at20 + l.step20, uses := usesFrom c.at20 c.uses, lanes := lanes } }

/-- Positions that begin before a time, in twentieths of a tick. -/
def Link.positionsTo (port : Nat) (ffe : Nat → Ffe) (limit : Nat) : Nat → Link → Link
  | 0, l => l
  | n + 1, l => if l.coder.at20 < limit then Link.positionsTo port ffe limit n (l.position port ffe none) else l

/-! ### A port's lanes in time -/

/-- LINK registers of a port (R381). -/
def linkBase (p : Nat) : Nat := 0x6000 + 0x400 * p

/-- A lane's equaliser: the taps of LINK_FFE within their limits, the swing of LINK_CTRL as sampled (R342, R381). -/
def State.ffeOf (s : State) (p lane : Nat) : Ffe :=
  let r := linkBase p + 0x40 + 4 * lane
  { pre := min 16 (s.field r 4 0), post := min 24 (s.field r 12 8), swing := 400 + 50 * min 12 (fieldOf (s.port p).link.ctrl 15 12) }

/-- Up to when it is known what the lanes carry: the end of this tick, but not past an open line's packet, the next line slot's, nor a
marker still to come (log 81). -/
def State.laneLimit (s : State) (p : Nat) : Nat :=
  let l := (s.port p).link
  let slot := match s.nextSlotTick p with
    | some t => min (20 * (s.now + 1)) (20 * (t + 300))
    | none => 20 * (s.now + 1)
  let slot := match (s.port p).line with
    | some o => min slot (20 * l.posAt + o.pos * l.step20)
    | none => slot
  if l.serving then min slot l.markerDue else slot

/-- The next position begins at or after a time: positions go on in their grid (R347, R372). -/
def Link.resumeAt (l : Link) (t : Nat) : Link :=
  { l with coder := { l.coder with at20 := 20 * l.posAt + ceilDiv (20 * t - 20 * l.posAt) l.step20 * l.step20 } }

/-- The lanes of a port through this tick (R347). Silent lanes only keep their place. -/
def State.laneTick (s : State) (p : Nat) : State :=
  let l := (s.port p).link
  let idle := decide ((l.coder.uses.getLast?.map (·.2)).getD allQuiet = allQuiet) && l.coder.lanes.all fun x => decide (x.use = .quiet)
  if idle ∧ l.uses = allQuiet then s
  else
    let s := s.modLink p fun l => (if idle then l.resumeAt s.now else l).noteUses (20 * s.now)
    let limit := s.laneLimit p
    s.modLink p fun l => l.positionsTo p (s.ffeOf p) limit ((limit - l.coder.at20) / l.step20 + 1)

/-! ### The Causeway's sending lanes (R509, R521) -/

/-- Bytes with zeros appended up to a multiple of 3 (R521). -/
def padTo3 (bs : List Byte) : List Byte := bs ++ List.replicate ((3 - bs.length % 3) % 3) 0

/-- A record as a packet: striped, without a keel (R509, R521). -/
def recordPacket (bs : List Byte) (now : Nat) : Packet :=
  { words := unpack12 (padTo3 bs), replicated := false, tick := now, pos := 0, form := (0, false, []) }

/-- The lanes of the sending direction in lock. -/
def Cway.lanes (c : Cway) : List Nat := (List.range 2).filter fun i => c.txLanes / 2 ^ i % 2 = 1

/-- Data service on the lanes in lock: records not begun follow at once; a lost lane is retrained (log 84). -/
def Cway.serve (c : Cway) (w : Link) : Link :=
  let form := (c.lanes.length, false, c.lanes)
  { w with
    phase := .up, power := .l0, nd := c.lanes.length, map := c.lanes, service := c.txLanes % 4, lost := 3 - c.txLanes % 4
    coder := { w.coder with queue := w.coder.queue.map fun k => { k with form := form } } }

/-- A fresh count of positions from a tick. -/
def Link.countFrom (w : Link) (now : Nat) : Link :=
  { w with posAt := now, busyTo := 0, coder := { w.coder with at20 := 20 * now, queue := [], cur := none } }

/-- What the lanes do now: data service while the Causeway is up, else TRAIN blocks of a unit that pairs (R364, R509). -/
def State.wireNow (s : State) : Link :=
  let c := s.cway
  let w := c.wire
  if s.cwayUp then
    (if w.phase = .up then (if w.map = c.lanes then w else c.serve w) else c.serve (w.countFrom s.now))
  else if s.running && s.paired && decide (s.power.boot = .configured) then
    (if w.phase = .training then w
     else { Link.reset with phase := .training, power := .l0, retired := 0xFFC, coder := { Coder.reset with at20 := 20 * s.now } })
  else Link.reset

/-- A record of the snapshot (R522): its type is 6 or 7. -/
def bulkRecord (bs : List Byte) : Bool := decide (leAt bs 4 1 = 6) || decide (leAt bs 4 1 = 7)

/-- The next record goes to the lanes once none waits there; a bulk copy not in an ebb slot (R488, R524). -/
def State.placeRecord (s : State) : State :=
  if s.cwayUp && s.cway.wire.coder.queue.isEmpty then
    match s.cway.tx[s.cway.placed]? with
    | some bs =>
      if bulkRecord bs && s.inEbb .causeway then s
      else { s with cway := { s.cway with placed := s.cway.placed + 1, wire := s.cway.wire.send (.packet (recordPacket bs s.now)) } }
    | none => s
  else s

/-- A lane's equaliser: its taps, and the swing of LINK_CTRL at reset (log 84). -/
def Cway.ffe (c : Cway) (lane : Nat) : Ffe :=
  let t := c.taps.getD lane (4, 8)
  { pre := t.1, post := t.2, swing := 800 }

/-- The Causeway's sending lanes through this tick (R347, R509). -/
def State.wireTick (s : State) : State :=
  let w := s.wireNow
  if w.phase = .down then { s with cway := { s.cway with wire := w, placed := s.cway.tx.length } }
  else
    let s := { s with cway := { s.cway with wire := w.noteUses (20 * s.now) } }.placeRecord
    let limit := 20 * (s.now + 1)
    { s with cway := { s.cway with
        wire := s.cway.wire.positionsTo 0 s.cway.ffe limit ((limit - s.cway.wire.coder.at20) / s.cway.wire.step20 + 1) } }

/-! ### Leaving L0 (R373) -/

/-- Positions until nothing placed is left to send and two positions free of markers follow. -/
def Link.drainLanes (port : Nat) (ffe : Nat → Ffe) : Nat → Link → Link
  | 0, l => l
  | n + 1, l =>
    let x := l.lanePos % 1728
    if l.coder.cur.isNone && l.coder.queue.isEmpty && decide (2 ≤ x) && decide (x < 1727) then l
    else Link.drainLanes port ffe n (l.position port ffe none)

/-- Every lane in data service sends KC5 and the target word, after what is placed already (R373). -/
def State.powerSeptets (s : State) (p target : Nat) : State :=
  let f := s.ffeOf p
  let s := s.modLink p fun l => l.noteUses (20 * s.now)
  s.modLink p fun l =>
    let l := Link.drainLanes p f (l.busyTo - l.lanePos + 1730) l
    (l.position p f (some (.ctrl 5))).position p f (some (.data (BitVec.ofNat 12 target)))

end Sys2Proof.Machine
end

