-- ==== Sys2Proof/Machine/Pcie.lean ====
section
/-! DEFINITION. The PCIe side (R33, R34, R73, R75, R110): what has been issued towards the host leaves packet by packet, posted writes under
the credits of the root port, non-posted reads under the tags; the MSI-X tables and their pending bits. -/

namespace Sys2Proof.Machine

/-! ### MSI-X tables (R75, R77) -/

/-- An entry at reset: masked, and 0 (log 63). -/
def entryReset (off : Nat) : Word := if off % 16 = 12 then 1 else 0

/-- A word of a function's MSI-X table in BAR2, by its offset there. -/
def Pcie.entryWord (x : Pcie) (fn off : Nat) : Nat := (tabGet (entryReset off) x.table (4096 * fn + off)).toNat

/-- Entries of a function's table: 16 for the PF, 8 for a VF (R75). -/
def msixEntries (fn : Nat) : Nat := if fn = 0 then 16 else 8

/-- The entry is masked: bit 0 of its fourth word (log 63). -/
def Pcie.masked (x : Pcie) (fn v : Nat) : Bool := decide (x.entryWord fn (16 * v + 12) % 2 = 1)

/-- The message of an entry: its data word, written to its address (R25: with the function's Requester ID). -/
def Pcie.message (x : Pcie) (fn v : Nat) : Tlp :=
  .memWrite fn (x.entryWord fn (16 * v) + 2 ^ 32 * x.entryWord fn (16 * v + 4)) (leBytes 4 (x.entryWord fn (16 * v + 8))) false

/-- A word of a function's BAR2: the table, then at 0x800 the pending bits (R75). -/
def Pcie.bar2 (x : Pcie) (fn off : Nat) : Nat :=
  if off < 16 * msixEntries fn then x.entryWord fn off
  else if off = 0x800 then ((x.pba.filter fun e => decide (e.1 = fn)).map fun e => 2 ^ e.2).sum
  else 0

/-- A write of a word of BAR2: the table alone can be written; of the fourth word of an entry bit 0. An entry unmasked while its bit is
pending sends its message (log 63). -/
def Pcie.setBar2 (x : Pcie) (fn off v : Nat) : Pcie :=
  if off < 16 * msixEntries fn then
    let v := if off % 16 = 12 then v % 2 else v
    let x := { x with table := tabSet (entryReset off) x.table (4096 * fn + off) (BitVec.ofNat 32 v) }
    let k := off / 16
    if x.pba.contains (fn, k) && !(x.masked fn k) then
      { x with
        pba := x.pba.filter fun e => decide (e ≠ (fn, k))
        records := x.records ++ [{ fn := fn, record := 0, tlp := x.message fn k, entry := some k }] }
    else x
  else x

/-! ### From what is issued to packets (R33, R73) -/

/-- The pieces of `bytes` that packets of at most `size` bytes carry, none across a multiple of it: fuel is the bytes' count. -/
def pieces (size : Nat) : Nat → Nat → List Byte → List (Nat × List Byte)
  | 0, _, _ => []
  | n + 1, addr, bytes =>
    if bytes.isEmpty then []
    else
      let k := max 1 (size - addr % size)
      (addr, bytes.take k) :: pieces size n (addr + k) (bytes.drop k)

/-- The same for a read: address and length of each request (R73). -/
def readPieces (size : Nat) : Nat → Nat → Nat → List (Nat × Nat)
  | 0, _, _ => []
  | n + 1, addr, len =>
    if len = 0 then []
    else
      let k := max 1 (size - addr % size)
      (addr, min k len) :: readPieces size n (addr + k) (len - k)

/-- One issued thing enters the queues. -/
def Pcie.take (x : Pcie) : Egress → Pcie
  | .write fn addr bytes => { x with
      records := x.records ++ (pieces x.mps bytes.length addr bytes).map fun y =>
        { fn := fn, record := addr, tlp := .memWrite fn y.1 y.2 false, entry := none } }
  | .data fn addr bytes record => { x with
      dataQ := x.dataQ ++ (pieces x.mps bytes.length addr bytes).map fun y =>
        { fn := fn, record := record, tlp := .memWrite fn y.1 y.2 true, entry := none } }
  | .msix fn v => { x with records := x.records ++ [{ fn := fn, record := 0, tlp := x.message fn v, entry := some v }] }
  | .readReturn fn off bytes => { x with wire := x.wire ++ [.readData fn off bytes] }
  | .readRequest fn addr len who => { x with
      readQ := x.readQ ++ (readPieces (min 4096 x.mrrs) len addr len).map fun y => .memRead fn y.1 y.2 who }

/-- Everything issued since the last tick enters the queues, in its order. -/
def State.takeIssued (s : State) : Pcie :=
  { (s.egress.drop s.pcie.taken).foldl Pcie.take s.pcie with taken := s.egress.length }

/-! ### Posted credits (R33) -/

/-- Data credits of a packet: one for every 16 bytes (log 62). -/
def Tlp.credits : Tlp → Nat
  | .memWrite _ _ bytes _ => ceilDiv bytes.length 16
  | _ => 0

/-- Credits for a packet, leaving a reserve. -/
def Pcie.affords (x : Pcie) (y : Posted) (headers units : Nat) : Bool :=
  decide (1 + headers ≤ x.creditH) && decide (y.tlp.credits + units ≤ x.creditD)

/-- The packet goes and uses up its credits. -/
def Pcie.post (x : Pcie) (y : Posted) : Pcie :=
  { x with creditH := x.creditH - 1, creditD := x.creditD - y.tlp.credits, wire := x.wire ++ [y.tlp] }

/-- A record waits for the data that go ahead of it, a message for the records of its function before it (R110). -/
def Pcie.heldBack (x : Pcie) (before : List Posted) (y : Posted) : Bool :=
  if y.entry.isSome then before.any fun z => decide (z.fn = y.fn)
  else (x.dataQ.any fun z => decide (z.fn = y.fn) && decide (z.record = y.record)) ||
    before.any fun z => decide (z.fn = y.fn) && decide (z.record = y.record)

/-- The first record or message that nothing holds back, with those before and after it. -/
def Pcie.nextRecord (x : Pcie) (before : List Posted) : List Posted → Option (List Posted × Posted × List Posted)
  | [] => none
  | y :: ys => if x.heldBack before y then x.nextRecord (before ++ [y]) ys else some (before, y, ys)

/-- A message whose entry is masked stays pending in the PBA instead (R75, log 63). -/
def Pcie.sendRecord (x : Pcie) (y : Posted) : Pcie := match y.entry with
  | some v =>
    if x.masked y.fn v then { x with pba := (x.pba.filter fun e => decide (e ≠ (y.fn, v))) ++ [(y.fn, v)] }
    else x.post { y with tlp := x.message y.fn v }
  | none => x.post y

/-- Records and messages go first; data DMA leaves the last 4 header and 8 data credits alone (R33). The flag says that something went. -/
def Pcie.postOne (x : Pcie) : Pcie × Bool :=
  match x.nextRecord [] x.records with
  | some (a, y, b) => if x.affords y 0 0 then ({ x with records := a ++ b }.sendRecord y, true) else (x, false)
  | none => match x.dataQ with
    | y :: ys => if x.affords y 4 8 then ({ x with dataQ := ys }.post y, true) else (x, false)
    | [] => (x, false)

/-! ### Tags (R34) -/

/-- The read is a doorbell poll or a descriptor fetch, which 32 of the tags are kept for. -/
def ReadFor.reserved : ReadFor → Bool
  | .doorbell _ => true
  | .fetch _ => true
  | _ => false

/-- A tag is free for the read: at most 512 reads are outstanding, and others than polls and fetches never take the last 32 tags. -/
def Pcie.tagFree (x : Pcie) (who : ReadFor) : Bool :=
  if who.reserved then decide (x.tags.length < 512)
  else decide ((x.tags.filter fun t => !t.reserved).length < 480) && decide (x.tags.length < 512)

/-- Whether what the read is for still waits for it. -/
def State.awaits (s : State) : ReadFor → Bool
  | .doorbell r => (s.ring r).polling || (s.ring r).enableRead
  | .fetch r => (s.ring r).fetching.isSome
  | .job id => s.ledger.any fun e => decide (e.id = id)
  | .table _ => false

/-- The first read with a tag free goes (R34). A table's read has been answered within its command (log 62). -/
def Pcie.readOne (x : Pcie) : List Tlp → List Tlp → Pcie
  | _, [] => x
  | before, y :: ys => match y with
    | .memRead _ _ _ who =>
      if x.tagFree who then { x with readQ := before ++ ys, tags := x.tags ++ [who], wire := x.wire ++ [y] }
      else x.readOne (before ++ [y]) ys
    | _ => x.readOne (before ++ [y]) ys

/-! ### A tick -/

/-- The root port's credits: those it advertises when the link comes up, and at a tick those it gives back (R33, log 62). -/
def State.credits (s : State) (x : Pcie) : Pcie :=
  if s.power.linkUp then
    let c := if x.up then Config.creditBack s.now else Config.creditInit s.now
    { x with up := true, creditH := x.creditH + c.1, creditD := x.creditD + c.2 }
  else { x with up := false, creditH := 0, creditD := 0 }

/-- One tick of the PCIe side: what was issued is queued, answered reads give their tags back, and while the link is up one posted
packet goes, else one read (log 62). -/
def State.pcieTick (s : State) : State :=
  let x := s.credits s.takeIssued
  let x := { x with tags := x.tags.filter s.awaits }
  if x.up then
    let y := x.postOne
    { s with pcie := if y.2 then y.1 else y.1.readOne [] y.1.readQ }
  else { s with pcie := x }

/-- The read is another function's. -/
def Tlp.notOf (fn : Nat) : Tlp → Bool
  | .memRead f _ _ _ => decide (f ≠ fn)
  | _ => true

/-- A reset of a function: nothing of it that waits goes any more (R119). -/
def State.dropFunction (s : State) (fn : Nat) : State :=
  let x := s.takeIssued
  { s with pcie := { x with
      records := x.records.filter fun y => decide (y.fn ≠ fn), dataQ := x.dataQ.filter fun y => decide (y.fn ≠ fn), readQ := x.readQ.filter (Tlp.notOf fn)
      table := x.table.filter fun e => decide (e.1 / 4096 ≠ fn), pba := x.pba.filter fun e => decide (e.1 ≠ fn) } }

/-- The endpoint and the configuration space of every function return to their reset values (R556); with the link kept up its credits
stay. -/
def State.resetPcie (s : State) (keepLink : Bool) : State :=
  let x := { Pcie.reset with taken := s.egress.length, wire := s.pcie.wire }
  { s with pcie := if keepLink then { x with up := s.pcie.up, creditH := s.pcie.creditH, creditD := s.pcie.creditD } else x }

end Sys2Proof.Machine
end

