-- ==== Sys2Proof/Machine/Clock.lean ====
section
/-! DEFINITION. The passing of one tick of CLK_CORE (R5), with the Tide counter that advances on every sixth (R456,
R601). -/

namespace Sys2Proof.Machine

/-- One CLK_TIME edge: a rate that reached the block before it takes effect, the counter adds TIDE_INC (R455, R456), and a step
that is due is added (R461). -/
def Tide.edge (t : Tide) : Tide :=
  let t := { t with rateAdj := t.rateNext }
  let u : Int := t.units + tideInc t.rateAdj + t.stepNext * 2 ^ 32
  { t.ofUnits (u.toNat % (2 ^ 64 * 1000000000 * 2 ^ 32)) with stepNext := 0 }

/-- One tick of CLK_CORE passes (log 1): a CLK_FAB cycle ends at every even tick (R538, R601), the Tide advances at every sixth and stands
at 0 s while a full reset holds the device (R556), PCIe takes up to one packet (log 62), and the panel links' lanes send the positions that
begin in the tick, as do the Causeway's (R347, R509). -/
def State.tick (s : State) : State :=
  let s := (forN 4 (fun p s => s.laneTick p) s).wireTick
  let s := { s with now := s.now + 1 }
  let s := if s.now % 2 = 0 then s.endCycle else s
  let s := if s.now % 6 = 0 ∧ s.running then { s with tide := s.tide.edge } else s
  s.pcieTick

end Sys2Proof.Machine
end

