-- ==== Sys2Proof/Machine/Num.lean ====
section
/-! DEFINITION. The baker's-dozen number format and the exact arithmetic under it (02_bakers_dozen_arithmetic.md): rounding
(R51), long light, blocks and their normalisation (R42 to R55), their place in memory (R59, R60), packed pixels and their
conversion (R62 to R66). Values are exact rationals until a rule rounds them. -/

namespace Sys2Proof.Machine

/-! ### Rounding -/

/-- round_half_even (R51). -/
def rhe (x : Rat) : Int :=
  let f := x.floor
  let d := x - f
  if d < 1 / 2 then f else if 1 / 2 < d then f + 1 else if f % 2 = 0 then f else f + 1

/-- round_half_even to a natural number, limited to `hi` (R54). -/
def rheSat (x : Rat) (hi : Nat) : Nat := (satInt (rhe x) 0 hi).toNat

/-- A power of two with any exponent. -/
def pow2 (e : Int) : Rat := if 0 ≤ e then ((2 ^ e.toNat : Nat) : Rat) else 1 / ((2 ^ (-e).toNat : Nat) : Rat)

/-- The exponent `e` with 2^(n-1) ≤ x / 2^e < 2^n, for x above 0. -/
def sigExp (n : Nat) (x : Rat) : Int :=
  let k : Int := (Nat.log2 x.num.toNat : Int) - (Nat.log2 x.den : Int) - (n - 1 : Nat)
  if x < pow2 (k + (n - 1 : Nat)) then k - 1 else k

/-- Rounded by round_half_even to `n` significant bits; 0 stays 0 (R64). -/
def sigRound (n : Nat) (x : Rat) : Rat :=
  if x ≤ 0 then 0 else
    let e := sigExp n x
    (rhe (x / pow2 e) : Rat) * pow2 e

/-- A light value carried as long light: 16 significant bits (R67). -/
def longLight (x : Rat) : Rat := sigRound 16 x

/-- A value carried as u0.16 (R67 stages 6 and 7), 1 included. -/
def u016 (x : Rat) : Rat := (rheSat (x * 65536) 65536 : Nat) / 65536

/-- The integer part of the `k`-th root of `y`, below 2^n, by its bits. -/
def rootFloor (k : Nat) (y : Rat) : Nat → Nat → Nat
  | 0, a => a
  | n + 1, a =>
    let b := a + 2 ^ n
    rootFloor k y n (if ((b ^ k : Nat) : Rat) ≤ y then b else a)

/-- The integer nearest to the `k`-th root of `y`, ties to even: decided exactly by powers of integers. -/
def rootRhe (k : Nat) (y : Rat) (bits : Nat) : Nat :=
  let a := rootFloor k y bits 0
  let mid := (((2 * a + 1) ^ k : Nat) : Rat)
  let t := y * ((2 ^ k : Nat) : Rat)
  if t < mid then a else if mid < t then a + 1 else if a % 2 = 0 then a else a + 1

/-- The least `j` from `j0` with y·2^(kj) at least 2^(23k): the place of the leading bit of a root. -/
def rootShift (k : Nat) (y : Rat) : Nat → Nat → Nat
  | 0, j => j
  | n + 1, j => if (((2 ^ (23 * k) : Nat)) : Rat) ≤ y * ((2 ^ (k * j) : Nat) : Rat) then j else rootShift k y n (j + 1)

/-- y^(1/k) rounded to 24 significant bits, for y in (0, 1] (R64). -/
def rootSig24 (k : Nat) (y : Rat) : Rat :=
  let j := rootShift k y 64 23
  (rootRhe k (y * ((2 ^ (k * j) : Nat) : Rat)) 25 : Nat) / ((2 ^ j : Nat) : Rat)

/-! ### Blocks -/

/-- A block: the header's fields and the twelve mantissa patterns (R42, R43). -/
structure Block where
  e     : Nat
  sat   : Bool
  cls   : Nat
  check : Nat
  m     : List Nat
deriving DecidableEq, Repr

/-- Sum of the mantissa patterns modulo 16 (R43). -/
def checkOf (m : List Nat) : Nat := m.sum % 16

/-- The zero block of a class (R598). -/
def zeroBlock (cls : Nat) : Block :=
  { e := if cls = 1 ∨ cls = 2 then 15 else 0, sat := false, cls := cls, check := 0, m := List.replicate 12 0 }

/-- The thirteen words of a block (R42, R43). -/
def Block.words (b : Block) : List Nat := (b.e % 32 * 128 + (if b.sat then 64 else 0) + b.cls % 4 * 16 + b.check % 16) :: b.m

/-- The block that thirteen words spell. -/
def Block.ofWords (ws : List Nat) : Block :=
  let h := ws.getD 0 0
  { e := fieldOf h 11 7, sat := decide (fieldOf h 6 6 = 1), cls := fieldOf h 5 4, check := fieldOf h 3 0
    m := (List.range 12).map fun i => ws.getD (i + 1) 0 }

/-- The header check (R55). -/
def Block.ok (b : Block) (cls : Nat) : Bool := decide (b.check = checkOf b.m) && decide (b.cls = cls)

/-- A light mantissa's value (R44). -/
def lightVal (e m : Nat) : Rat := (m : Rat) / 4096 * pow2 ((e : Int) - 15)

/-- An alpha mantissa's value (R44). -/
def alphaVal (m : Nat) : Rat := if m = 4095 then 1 else (m : Rat) / 4096

/-- A signed mantissa's value (R44). -/
def signedVal (e m : Nat) : Rat := (signedOf 12 m : Rat) / 2048 * pow2 ((e : Int) - 15)

/-- An alpha value as a mantissa (R54). -/
def alphaMant (v : Rat) : Nat := rheSat (4096 * v) 4095

/-- A lane of a BDB-RGBA block before normalisation: exact light, or an alpha mantissa (R48, R49). -/
inductive Lane where
  | light (x : Rat) | alpha (m : Nat)
deriving DecidableEq, Repr

/-- A light lane's rounded mantissa at an exponent (R52); negative light is 0. -/
def lightQ (x : Rat) (e : Nat) : Int := rhe (max x 0 * 4096 * pow2 (15 - (e : Int)))

/-- The mantissa of a lane at an exponent, limited. -/
def Lane.mant (e : Nat) : Lane → Nat
  | .light x => (satInt (lightQ x e) 0 4095).toNat
  | .alpha m => m

/-- The lane fits at the exponent (R52). -/
def Lane.fits (e : Nat) : Lane → Bool
  | .light x => decide (lightQ x e ≤ 4095)
  | .alpha _ => true

/-- The least exponent from `e` to 31 at which a test holds, 31 if none. -/
def leastExp (ok : Nat → Bool) : Nat → Nat → Nat
  | 0, e => e
  | n + 1, e => if ok e then e else leastExp ok n (e + 1)

/-- A BDB-RGBA block from its twelve lanes (R52); `satIn` is the flag of any contributing input block (R47). -/
def normRgba (lanes : List Lane) (satIn : Bool) : Block :=
  let e := leastExp (fun e => lanes.all (·.fits e)) 31 0
  let m := lanes.map (·.mant e)
  { e := e, sat := satIn || !(lanes.all (·.fits e)), cls := 0, check := checkOf m, m := m }

/-- A signed block from twelve exact values (R52). -/
def normSigned (xs : List Rat) (satIn : Bool) : Block :=
  let q := fun (x : Rat) (e : Nat) => rhe (x * 2048 * pow2 (15 - (e : Int)))
  let fits := fun e => xs.all fun x => decide (q x e ≤ 2047) && decide (-2048 ≤ q x e)
  let e := leastExp fits 31 0
  let m := xs.map fun x => unsignedOf 12 (satInt (q x e) (-2048) 2047)
  { e := e, sat := satIn || !(fits e), cls := 3, check := checkOf m, m := m }

/-- An alpha block from twelve mantissas (R45, R54). -/
def alphaBlock (m : List Nat) (satIn : Bool) : Block := { e := 15, sat := satIn, cls := 1, check := checkOf m, m := m }

/-! ### Formats and their host layout -/

/-- The formats of R100 by their codes. -/
def fmtRgba : Nat := 0x10
def fmtY : Nat := 0x11
def fmtDrive : Nat := 0x12
def fmtSigned : Nat := 0x13

/-- A BDB format. -/
def isBdb (fmt : Nat) : Bool := decide (0x10 ≤ fmt) && decide (fmt ≤ 0x13)

/-- A packed format. -/
def isPacked (fmt : Nat) : Bool := decide (1 ≤ fmt) && decide (fmt ≤ 5)

/-- The class of a BDB format's blocks (R48). -/
def fmtClass (fmt : Nat) : Nat := fmt - 0x10

/-- Bytes per pixel of a packed format (R62). -/
def pixBytes (fmt : Nat) : Nat := match fmt with
  | 1 => 2
  | 2 => 2
  | 3 => 3
  | _ => 4

/-- Pixels or samples per block: three for BDB-RGBA, twelve for the others (R60). -/
def perBlock (fmt : Nat) : Nat := if fmt = fmtRgba then 3 else 12

/-- Blocks of a line (R60). -/
def lineBlocks (fmt w : Nat) : Nat := ceilDiv w (perBlock fmt)

/-- The line stride of a format in its host layout, in bytes (R60, R599). -/
def lineStride (fmt w : Nat) : Nat :=
  if isBdb fmt then ceilDiv (lineBlocks fmt w) 3 * 60 else ceilDiv (w * pixBytes fmt) 4 * 4

/-- The size of an image's host layout (R60, R599). -/
def imageSize (fmt w h : Nat) : Nat := lineStride fmt w * h

/-- Word `k` (0 to 38) of the group that starts at a byte offset (R59). -/
def groupWord (get : Nat → Byte) (base k : Nat) : Nat :=
  let o := base + 12 * k / 8
  let x := (get o).toNat + 256 * (get (o + 1)).toNat
  if k % 2 = 0 then x % 4096 else x / 16

/-- Block `n` of the line that starts at a byte offset (R59, R60). -/
def readBlock (get : Nat → Byte) (lineBase n : Nat) : Block :=
  Block.ofWords ((List.range 13).map fun w => groupWord get (lineBase + n / 3 * 60) (n % 3 * 13 + w))

/-- The sixty bytes of a group of three blocks (R59). -/
def groupBytes (bs : List Block) : List Byte :=
  let ws := (List.range 3).flatMap fun i => ((bs.getD i (zeroBlock 0)).words)
  leBytes 60 (ws.foldr (fun w acc => w % 4096 + 4096 * acc) 0)

/-- The bytes of a line of blocks; blocks that fill out the last group are zero blocks (R60, R61). -/
def lineBytes (cls : Nat) (bs : List Block) : List Byte :=
  (List.range (ceilDiv bs.length 3)).flatMap fun g =>
    groupBytes ((List.range 3).map fun i => bs.getD (3 * g + i) (zeroBlock cls))

/-! ### Packed pixels -/

/-- A packed pixel's channels: alpha code and its bits (0 bits for none), and R, G, B codes with their bits (R62). -/
structure Pixel where
  a : Nat
  aBits : Nat
  r : Nat
  g : Nat
  b : Nat
  rBits : Nat
  gBits : Nat
  bBits : Nat
deriving DecidableEq, Repr

/-- The pixel that a unit of a packed format spells (R62). -/
def unpackPixel (fmt x : Nat) : Pixel := match fmt with
  | 1 => { a := 0, aBits := 0, r := fieldOf x 15 11, g := fieldOf x 10 5, b := fieldOf x 4 0, rBits := 5, gBits := 6, bBits := 5 }
  | 2 => { a := fieldOf x 15 15, aBits := 1, r := fieldOf x 14 10, g := fieldOf x 9 5, b := fieldOf x 4 0, rBits := 5, gBits := 5, bBits := 5 }
  | 3 => { a := 0, aBits := 0, r := fieldOf x 23 16, g := fieldOf x 15 8, b := fieldOf x 7 0, rBits := 8, gBits := 8, bBits := 8 }
  | 4 => { a := fieldOf x 31 24, aBits := 8, r := fieldOf x 23 16, g := fieldOf x 15 8, b := fieldOf x 7 0, rBits := 8, gBits := 8, bBits := 8 }
  | _ => { a := fieldOf x 31 30, aBits := 2, r := fieldOf x 29 20, g := fieldOf x 19 10, b := fieldOf x 9 0, rBits := 10, gBits := 10, bBits := 10 }

/-- Channel widths (A, R, G, B) of a packed format (R62). -/
def packBits (fmt : Nat) : Nat × Nat × Nat × Nat := match fmt with
  | 1 => (0, 5, 6, 5)
  | 2 => (1, 5, 5, 5)
  | 3 => (0, 8, 8, 8)
  | 4 => (8, 8, 8, 8)
  | _ => (2, 10, 10, 10)

/-- The unit of a packed format from channel codes (R62). -/
def packPixel (fmt a r g b : Nat) : Nat :=
  let (_, _, gb, bb) := packBits fmt
  let rb := (packBits fmt).2.1
  a * 2 ^ (rb + gb + bb) + r * 2 ^ (gb + bb) + g * 2 ^ bb + b

/-- The alpha mantissa of a pixel (R63, R65). -/
def Pixel.alpha (p : Pixel) : Nat :=
  if p.aBits = 0 then 4095 else alphaMant ((p.a : Rat) / (2 ^ p.aBits - 1 : Nat))

/-- The exact base of the sRGB power for a code value (R63). -/
def srgbBase (v : Rat) : Rat := (v + 55 / 1000) / (1055 / 1000)

/-- v^(1/m2) of SMPTE ST 2084, m2 = 2523/32, truncated to 64 bits after the point. -/
def pqRoot (v : Rat) : Rat := (rootFloor 2523 (v ^ 32 * ((2 ^ (64 * 2523) : Nat) : Rat)) 65 0 : Rat) / ((2 ^ 64 : Nat) : Rat)

/-- The base of the outer power of the ST 2084 EOTF, with c1 = 107/128, c2 = 2413/128, c3 = 2392/128. PRESUMED (log 5): R63 names
the standard and the spec does not restate it. -/
def pqBase (v : Rat) : Rat :=
  let e := pqRoot v
  if 128 * e ≤ 107 then 0 else (128 * e - 107) / (2413 - 2392 * e)

/-- 100 × EOTF of ST 2084, whose outer power is 1/m1 = 8192/1305, rounded to 24 significant bits (R63, R64). -/
def pqEntry (v : Rat) : Rat :=
  let b := pqBase v
  if b ≤ 0 then 0 else 128 * rootSig24 1305 (b ^ 8192 * (100 / 128) ^ 1305)

/-- The converter's table entry for code `k` of an `n`-bit channel (R64): transfer 0 linear, 1 sRGB, 2 PQ. -/
def tableEntry (transfer n k : Nat) : Rat :=
  let v : Rat := (k : Rat) / (2 ^ n - 1 : Nat)
  match transfer with
  | 0 => sigRound 24 v
  | 1 => if v ≤ 4045 / 100000 then sigRound 24 (v / (1292 / 100)) else rootSig24 5 (srgbBase v ^ 12)
  | _ => pqEntry v

/-- The exact colour value of a channel code before premultiplication (R64); PQ ignores W. -/
def colourVal (transfer : Nat) (white : Rat) (n k : Nat) : Rat :=
  if transfer = 2 then tableEntry 2 n k else tableEntry transfer n k * white

/-- One pixel's linear light, premultiplied, and its alpha mantissa (R63, R64). -/
def Pixel.light (p : Pixel) (transfer : Nat) (white : Rat) : Rat × Rat × Rat × Nat :=
  let a := p.alpha
  let f := fun n k => colourVal transfer white n k * alphaVal a
  (f p.rBits p.r, f p.gBits p.g, f p.bBits p.b, a)

end Sys2Proof.Machine
end

