-- ==== Sys2Proof/Machine/Codes.lean ====
section
/-! DEFINITION. Light back into colour codes: the inverse transfers of R196 at a white level, and the rounding of R196 and
R411, whose choice within 0.1 of a midpoint is open. -/

namespace Sys2Proof.Machine

/-- The inverse transfer of light `l` at white `w` is at least `q` (R196): for PQ, the EOTF of `q` is at most the light. -/
def inverseGe (transfer : Nat) (w l q : Rat) : Bool :=
  if transfer = 2 then decide (q ≤ 0 ∨ pqBase q ^ 8192 ≤ (l / 100) ^ 1305)
  else if transfer = 1 then
    let y := l / w
    if q ≤ 4045 / 100000 then decide (q / (1292 / 100) ≤ y) else decide (srgbBase q ^ 12 ≤ y ^ 5)
  else decide (q ≤ l / w)

/-- The greatest code below 2^n, by its bits, whose test holds; 0 when none does. -/
def greatestCode (ok : Nat → Bool) : Nat → Nat → Nat
  | 0, a => a
  | n + 1, a => greatestCode ok n (if ok (a + 2 ^ n) then a + 2 ^ n else a)

/-- A code of `n` bits from a value known by its comparisons with rationals: correctly rounded, and either neighbour within
0.1 of a midpoint (R196, R411; `seed` feeds the open choice, log 6). -/
def roundedCode (n : Nat) (ge : Rat → Bool) (seed : Rat) : Nat :=
  let m : Rat := ((2 ^ n - 1 : Nat) : Rat)
  let lo := greatestCode (fun c => ge (((c : Rat) - 4 / 10) / m)) n 0
  let hi := greatestCode (fun c => ge (((c : Rat) - 6 / 10) / m)) n 0
  if lo = hi then lo else if Config.codeChoice seed then hi else lo

/-- The colour code of light `l` (R196). -/
def lightCode (transfer : Nat) (w l : Rat) (n : Nat) : Nat :=
  if transfer ≠ 2 ∧ w = 0 then Config.zeroWhiteCode l n % 2 ^ n
  else roundedCode n (inverseGe transfer w l) l

/-- The code of a plain value between 0 and 1. -/
def valueCode (n : Nat) (x : Rat) : Nat := roundedCode n (fun q => decide (q ≤ x)) x

/-- A packed pixel from premultiplied light and an alpha mantissa (R411): ARGB8888 or ARGB2101010. -/
def packLight (fmt transfer : Nat) (w r g b : Rat) (a : Nat) : Nat :=
  let av := alphaVal a
  let n := (packBits fmt).2.1
  let code := fun x => if a = 0 then 0 else lightCode transfer w (x / av) n
  packPixel fmt (valueCode (packBits fmt).1 av) (code r) (code g) (code b)

end Sys2Proof.Machine
end

