-- ==== Sys2Proof/Machine/Operands.lean ====
section
/-! DEFINITION. The operands of descriptors (R93, R100 to R104): their fields, the reserved bits, the handles they name,
what they read and write (R106), and the part of the acceptance checks of R96 that needs no object. -/

namespace Sys2Proof.Machine

/-! ### Fields -/

/-- Word `i` of a descriptor (R93). -/
def Desc.w (d : Desc) (i : Nat) : Nat := d.words.getD i 0

/-- The bit field `[hi:lo]` of word `i`. -/
def Desc.f (d : Desc) (i hi lo : Nat) : Nat := fieldOf (d.w i) hi lo

/-- A host address in words `i` and `i + 1`, low word first. -/
def Desc.addr (d : Desc) (i : Nat) : Nat := d.w i + 2 ^ 32 * d.w (i + 1)

def Desc.opcode (d : Desc) : Nat := d.f 0 31 24
def Desc.irq (d : Desc) : Bool := decide (d.f 0 23 23 = 1)
def Desc.order (d : Desc) : Bool := decide (d.f 0 22 22 = 1)
def Desc.seq (d : Desc) : Nat := d.w 1
/-- Opflag bit 21: zero, more, function. -/
def Desc.flag21 (d : Desc) : Bool := decide (d.f 0 21 21 = 1)
/-- Opflag bit 20: codec. -/
def Desc.flag20 (d : Desc) : Bool := decide (d.f 0 20 20 = 1)

/-- The descriptor that 64 bytes spell, at a consumed count of a ring (R93). -/
def Desc.ofBytes (ring count : Nat) (bs : List Byte) : Desc :=
  { ring := ring, count := count, words := (List.range 16).map fun i => leAt bs (4 * i) 4 }

/-- The function that owns a ring (R79). -/
def ringFn (r : Nat) : Nat := r / 8

/-- The function of a descriptor. -/
def Desc.fn (d : Desc) : Nat := ringFn d.ring

/-! ### Opcodes (R100 to R104) -/

def opNop : Nat := 0x00
def opObjAlloc : Nat := 0x01
def opObjFree : Nat := 0x02
def opObjWrite : Nat := 0x03
def opObjRead : Nat := 0x04
def opPlateLoad : Nat := 0x10
def opStreamDecode : Nat := 0x11
def opStreamContinue : Nat := 0x12
def opSceneCommit : Nat := 0x20
def opModeSet : Nat := 0x21
def opShepherdUpdate : Nat := 0x22
def opSignatureExpect : Nat := 0x23
def opSawyerList : Nat := 0x30
def opTallyJob : Nat := 0x31
def opCalLoad : Nat := 0x40
def opCalMeasure : Nat := 0x41
def opCalStore : Nat := 0x42
def opTideProgram : Nat := 0x50
def opFence : Nat := 0x60
def opWaitTime : Nat := 0x61

/-- The opcodes of the layout tables; every other value is unknown (R96). -/
def knownOpcodes : List Nat :=
  [0x00, 0x01, 0x02, 0x03, 0x04, 0x10, 0x11, 0x12, 0x20, 0x21, 0x22, 0x23, 0x30, 0x31, 0x40, 0x41, 0x42, 0x50, 0x60, 0x61]

/-! ### Status codes (R115) and details (R114) -/

def stOk : Nat := 0x000
def stOkLate : Nat := 0x001
def stBadDesc : Nat := 0x010
def stBadHandle : Nat := 0x011
def stPermission : Nat := 0x012
def stNoSpace : Nat := 0x020
def stLinebufLimit : Nat := 0x021
def stLinkBudget : Nat := 0x022
def stStreamCorrupt : Nat := 0x030
def stCheckMismatch : Nat := 0x031
def stTruncated : Nat := 0x032
def stCalReject : Nat := 0x040
def stThermalDefer : Nat := 0x041
def stDataLost : Nat := 0x050
def stResubmit : Nat := 0x051
def stAborted : Nat := 0x060
def stTimeout : Nat := 0x061

/-- Reason in detail bits [19:16], word index in [3:0] (R114). -/
def det (reason word : Nat) : Nat := reason % 16 * 65536 + word % 16

/-- A failed check: status and detail. -/
abbrev Fail := Nat × Nat

def badDesc (reason word : Nat) : Fail := (stBadDesc, det reason word)
def permission (reason word : Nat) : Fail := (stPermission, det reason word)

/-- The failure of a host read (R114, R600). -/
def timeoutOf (f : ReadFail) : Fail := (stTimeout, det f.code 0)

/-- The first of several checks that fails. -/
def firstFail (xs : List (Option Fail)) : Option Fail := xs.findSome? id

/-- A check: the failure when the condition holds. -/
def failIf (c : Bool) (f : Fail) : Option Fail := if c then some f else none

/-! ### Reserved fields (R14, R96 steps 1 and 3) -/

/-- The bits of each word that an opcode's layout uses, word 0 with opcode, irq and order (R100 to R104, R602). Words not
listed use none. `cls` tells the two layouts of OBJ_ALLOC apart. -/
def usedBits (op : Nat) (image : Bool) : List Nat :=
  let h := 0xFFC00FFF   -- opcode, irq, order; [11:0] is step 1's
  let all := 0xFFFFFFFF
  if op = 0x01 then
    if image then [h + 0x200000, all, 0xFFFF, all] else [h + 0x200000, all, 0xFF, 0, all]
  else if op = 0x02 then [h, all, all]
  else if op = 0x03 ∨ op = 0x04 then [h, all, all, all, all, all, all]
  else if op = 0x10 then [h, all, all, all, all, all, all, all, 0x3FF, all, all, all, all]
  else if op = 0x11 then [h + 0x300000, all, all, all, all, all, all, 0xFFFF]
  else if op = 0x12 then [h + 0x200000, all, 0xFFFF, all, all, all, all, all]
  else if op = 0x20 then [h, all, 0x3, all, all, 0x1F, all, all, 0x3FFFFFFF, all]
  else if op = 0x21 then [h, all, 0x10F03, all, 0xFF03FFFF, 0xFFFFFF, 0xFFFFFF]
  else if op = 0x22 then [h, all, 0xF03, all, all]
  else if op = 0x23 then [h + 0x200000, all, 0x3F03, all, all, all, 0xFFFF]
  else if op = 0x30 then [h, all, all, all, all, 0x1FFFF, 0xFFFF]
  else if op = 0x31 then [h, all, 0x303, all, all, all, all, all, all, all]
  else if op = 0x40 then [h, all, all, 0xFF03]
  else if op = 0x41 then [h, all, 0x3F, 0xFFFF]
  else if op = 0x42 then [h, all, 0xF, all]
  else if op = 0x50 then [h, all, 0xF, all, all]
  else if op = 0x60 then [h + 0x200000, all]
  else if op = 0x61 then [h, all, all, all, 0x3FFFFFFF]
  else [h, all]

/-- OBJ_ALLOC of an image class (R602). -/
def Desc.allocImage (d : Desc) : Bool :=
  decide (d.f 2 3 0 = 0) || decide (d.f 2 3 0 = 1) || decide (d.f 2 3 0 = 7)

/-- MODE_SET with stop set: words 3 to 6 are ignored (R103). -/
def Desc.stops (d : Desc) : Bool := decide (d.opcode = opModeSet) && decide (d.f 2 16 16 = 1)

/-- The first word with a non-zero reserved bit (R96 step 3). -/
def Desc.reservedWord (d : Desc) : Option Nat :=
  let used := usedBits d.opcode d.allocImage
  (List.range 16).find? fun i =>
    !(d.stops && decide (3 ≤ i) && decide (i ≤ 6)) && decide (d.w i &&& (0xFFFFFFFF ^^^ used.getD i 0) ≠ 0)

/-- Steps 1 to 3 of R96. -/
def Desc.formFail (d : Desc) : Option Fail :=
  firstFail
    [ failIf (decide (d.f 0 11 0 ≠ 0)) (badDesc 2 0),
      failIf (!(knownOpcodes.contains d.opcode)) (badDesc 1 0),
      d.reservedWord.map fun i => badDesc 2 i ]

/-! ### Ranges and alignment (R96 step 4) -/

/-- A value that is not a multiple of 4 at a word: BAD_DESC reason 6 (R100 to R104). -/
def misaligned (v word : Nat) : Option Fail := failIf (decide (v % 4 ≠ 0)) (badDesc 6 word)

/-- A value out of range at a word: BAD_DESC reason 3. -/
def outOfRange (c : Bool) (word : Nat) : Option Fail := failIf c (badDesc 3 word)

/-- The format table (R100). -/
def knownFormats : List Nat := [0x01, 0x02, 0x03, 0x04, 0x05, 0x10, 0x11, 0x12, 0x13]

/-- The formats a class permits (R100). -/
def classFormats (cls : Nat) : List Nat :=
  if cls = 0 then [0x10, 0x11]
  else if cls = 1 then [0x01, 0x02, 0x03, 0x04, 0x05, 0x10, 0x11]
  else if cls = 7 then [0x05, 0x10]
  else []

/-- The size limits of an image class (R100). -/
def classLimits (cls : Nat) : Nat × Nat :=
  if cls = 0 then (8192, 8192) else if cls = 1 then (16384, 16384) else (4096, 2048)

/-- OBJ_ALLOC's own checks (R602). -/
def Desc.allocFail (d : Desc) : Option Fail :=
  let cls := d.f 2 3 0
  let fmt := d.f 2 15 8
  let lim := classLimits cls
  let img := d.allocImage
  firstFail
    [ outOfRange (decide (9 ≤ cls) || decide (4 ≤ d.f 2 7 4)) 2,
      outOfRange (img && !(knownFormats.contains fmt)) 2,
      failIf (img && !((classFormats cls).contains fmt)) (badDesc 4 2),
      outOfRange (img && (decide (d.f 3 15 0 = 0) || decide (lim.1 < d.f 3 15 0) || decide (d.f 3 31 16 = 0) ||
        decide (lim.2 < d.f 3 31 16))) 3,
      outOfRange (!img && decide (d.w 4 < 4)) 4,
      if img then none else misaligned (d.w 4) 4 ]

/-- OBJ_WRITE and OBJ_READ (R602). -/
def Desc.moveFail (d : Desc) : Option Fail :=
  firstFail [misaligned (d.w 3) 3, misaligned (d.w 4) 4, outOfRange (decide (d.w 6 < 4)) 6, misaligned (d.w 6) 6]

/-- Steps 4 of R96 for the opcodes whose ranges need no object and no mode. PLATE_LOAD's, MODE_SET's and the table readers'
stand with their meanings. -/
def Desc.rangeFail (d : Desc) : Option Fail :=
  let op := d.opcode
  if op = 0x01 then d.allocFail
  else if op = 0x03 ∨ op = 0x04 then d.moveFail
  else if op = 0x11 then misaligned (d.w 3) 3
  else if op = 0x12 then (if d.w 3 = 0 then none else misaligned (d.w 4) 4)
  else if op = 0x20 then
    firstFail [misaligned (d.w 3) 3, outOfRange (decide (d.f 5 4 0 = 0) || decide (17 < d.f 5 4 0)) 5,
      outOfRange (decide (1000000000 ≤ d.f 8 29 0)) 8]
  else if op = 0x22 then firstFail [outOfRange (decide (8 < d.f 2 11 8)) 2, misaligned (d.w 3) 3]
  else if op = 0x23 then
    firstFail [outOfRange (decide (d.f 2 13 8 = 0) || decide (32 < d.f 2 13 8)) 2, misaligned (d.w 3) 3]
  else if op = 0x30 then
    firstFail [if d.w 2 = 0 then misaligned (d.w 3) 3 else none, outOfRange (decide (d.f 5 16 0 = 0) || decide (65536 < d.f 5 16 0)) 5,
      outOfRange (decide (65536 < d.f 6 15 0 + d.f 5 16 0)) 5]
  else if op = 0x31 then firstFail [misaligned (d.w 5) 5, misaligned (d.w 7) 7]
  else if op = 0x41 then outOfRange (decide (2 ≤ d.f 2 3 0)) 2
  else if op = 0x42 then firstFail [outOfRange (decide (3 ≤ d.f 2 3 0)) 2, outOfRange (decide (d.f 2 3 0 ≠ 0) && decide (d.w 3 ≠ 0)) 3]
  else if op = 0x50 then
    firstFail [outOfRange (decide (13 ≤ d.f 2 3 0)) 2,
      if d.f 2 3 0 = 12 then outOfRange (decide (d.addr 3 ≠ 0)) 3 else misaligned (d.w 3) 3]
  else if op = 0x61 then outOfRange (decide (1000000000 ≤ d.f 4 29 0)) 4
  else none

/-! ### Handles named (R99) -/

/-- The words of a descriptor that hold handles, and whether 0 stands for none (R100 to R104). -/
def handleWords (op : Nat) : List (Nat × Bool) :=
  if op = 0x02 ∨ op = 0x03 ∨ op = 0x04 then [(2, false)]
  else if op = 0x10 then [(2, false), (3, true), (12, true)]
  else if op = 0x11 then [(2, false)]
  else if op = 0x12 then [(3, true)]
  else if op = 0x20 then [(9, true)]
  else if op = 0x30 then [(2, true)]
  else if op = 0x31 then [(4, true)]
  else if op = 0x40 then [(2, false)]
  else []

/-- The handles a descriptor names, with their words. CAL_STORE names an almanac for record 0 only (R104, R503). -/
def Desc.handles (d : Desc) : List (Nat × Nat) :=
  if d.opcode = 0x42 then (if d.f 2 3 0 = 0 then [(3, d.w 3)] else [])
  else ((handleWords d.opcode).filter fun x => !(x.2 && decide (d.w x.1 = 0))).map fun x => (x.1, d.w x.1)

/-! ### Permission (R98) -/

/-- The opcodes that only the PF may submit (R98). -/
def pfOnly (op : Nat) : Bool := [0x21, 0x40, 0x41, 0x42, 0x50].contains op

/-- The opcodes that the named port's owner may submit (R98). -/
def ownerOnly (op : Nat) : Bool := [0x20, 0x22, 0x23].contains op

/-! ### What a descriptor reads and writes (R106) -/

/-- The objects a descriptor writes, by handle. A decode that names no destination writes its stream's. -/
def Entry.writes (e : Entry) : List Nat :=
  let op := e.desc.opcode
  e.versions.map (·.1) ++
  (if op = 0x02 ∨ op = 0x03 ∨ op = 0x10 ∨ op = 0x11 then [e.desc.w 2]
   else match e.job with
     | .stream _ h _ _ _ => [h]
     | .sawyer cmds => (cmds.filter fun c => fieldOf (c.words.getD 0 0) 31 28 ≠ 6).map fun c => c.words.getD 2 0
     | _ => [])

/-- The objects a descriptor reads, by handle. A commit reads the plates it names (R106); its table's handles are given by
the caller. -/
def Entry.reads (e : Entry) : List Nat :=
  let op := e.desc.opcode
  (if op = 0x04 then [e.desc.w 2]
   else if op = 0x10 then [e.desc.w 3, e.desc.w 12]
   else if op = 0x30 then [e.desc.w 2]
   else if op = 0x31 then [e.desc.w 4]
   else if op = 0x40 then [e.desc.w 2]
   else if op = 0x42 then [e.desc.w 3]
   else []) ++
  (match e.job with
   | .sawyer cmds => cmds.map fun c => c.words.getD 5 0
   | .commit hs => hs
   | _ => [])

end Sys2Proof.Machine
end

