-- ==== Sys2Proof/Machine/Objects.lean ====
section
/-! DEFINITION. Objects, their storage and their versions (04_placement.md): handles (R121, R122), sizes and tiles (R124),
host-layout content (R126), the version rules of plate surfaces (R129 to R135), opacity maps (R153), quotas and
occupancy (R125, R142). -/

namespace Sys2Proof.Machine

/-! ### Handles (R121) -/

def handleFn (h : Nat) : Nat := fieldOf h 31 28
def handleIndex (h : Nat) : Nat := fieldOf h 27 8
def handleGen (h : Nat) : Nat := fieldOf h 7 0
def mkHandle (fn idx gen : Nat) : Nat := fn % 16 * 2 ^ 28 + idx % 2 ^ 20 * 256 + gen % 256

/-- The object of a handle, whether or not it is still valid for new descriptors. -/
def State.objOf (s : State) (h : Nat) : Option Obj :=
  match tabFind s.objs (handleIndex h) with
  | some o => if o.handle = h then some o else none
  | none => none

/-- The handle is valid for a descriptor accepted now (R99, R101): allocated, its generation matches, no OBJ_FREE of it
has been accepted. -/
def State.objValid (s : State) (h : Nat) : Option Obj :=
  match s.objOf h with
  | some o => if o.freeing.isSome || o.released then none else some o
  | none => none

/-- The object of a handle that the descriptor with an id may name: no OBJ_FREE of it was accepted before that descriptor (R99, R101). -/
def State.objFor (s : State) (id h : Nat) : Option Obj :=
  match s.objOf h with
  | some o => match o.freeing with
    | some f => if id < f then some o else none
    | none => if o.released then none else some o
  | none => none

def State.setObj (s : State) (o : Obj) : State := { s with objs := tabPut s.objs (handleIndex o.handle) o }

def State.modObj (s : State) (h : Nat) (f : Obj → Obj) : State :=
  match s.objOf h with
  | some o => s.setObj (f o)
  | none => s

/-! ### Classes and sizes -/

/-- Plate surface, source image, capture surface: the image classes (R602). -/
def imageClass (cls : Nat) : Bool := decide (cls = 0) || decide (cls = 1) || decide (cls = 7)

/-- The size of an object's host layout (R60, R124, R599). -/
def Obj.layout (o : Obj) : Nat := if imageClass o.cls then imageSize o.format o.width o.height else o.size

/-- Plate tiles across and down (R124). -/
def tilesX (w : Nat) : Nat := ceilDiv w 128
def tilesY (h : Nat) : Nat := ceilDiv h 64

/-- Tiles of storage an object takes (R124). -/
def tileCount (cls fmt w h size : Nat) : Nat :=
  if cls = 0 then tilesX w * tilesY h
  else ceilDiv (if imageClass cls then imageSize fmt w h else size) 65536

def Obj.tileCount (o : Obj) : Nat := Machine.tileCount o.cls o.format o.width o.height o.size

/-- The plate tile of a pixel. -/
def Obj.tileAt (o : Obj) (x y : Nat) : Nat := y / 64 * tilesX o.width + x / 128

/-! ### Content -/

/-- What an unlisted byte of the host layout reads as (R126, R598). -/
def Fill.byte (f : Fill) (off : Nat) : Byte := match f with
  | .zeros => 0
  | .blocks cls => (groupBytes [zeroBlock cls, zeroBlock cls, zeroBlock cls]).getD (off % 60) 0
  | .unspecified seed => Config.freeByte seed off

/-- A byte of a content. -/
def contentByte (fill : Fill) (bytes : Tab Byte) (off : Nat) : Byte := tabGet (fill.byte off) bytes off

/-- Write bytes to a content from an offset. -/
def writeBytes (fill : Fill) : Tab Byte → Nat → List Byte → Tab Byte
  | t, _, [] => t
  | t, off, b :: bs => writeBytes fill (tabSet (fill.byte off) t off b) (off + 1) bs

/-- The version of a number. -/
def Obj.version (o : Obj) (n : Nat) : Option Version := o.versions.find? fun v => v.num = n

/-- The newest valid version (R131). -/
def Obj.newest (o : Obj) : Option Version :=
  o.versions.foldl (fun acc v => match acc with
    | some a => if v.valid && decide (a.num < v.num) then some v else some a
    | none => if v.valid then some v else none) none

/-- The version whose content a reader of the object takes: the newest valid one of a plate surface, the single content
of another object. -/
def Obj.content (o : Obj) : Tab Byte := match o.newest with
  | some v => v.bytes
  | none => []

/-- A byte between the end of a packed line's pixels and the next line (R599). -/
def Obj.padding (o : Obj) (off : Nat) : Bool :=
  imageClass o.cls && isPacked o.format && decide (o.width * pixBytes o.format ≤ off % lineStride o.format o.width)

/-- A byte of an object's host layout as a reader sees it; padding reads as zero, whatever was written there (R599). -/
def Obj.byte (o : Obj) (off : Nat) : Byte := if o.padding off then 0 else contentByte o.fill o.content off

/-- Bytes of an object's host layout, up to its end. -/
def Obj.read (o : Obj) (off len : Nat) : List Byte :=
  (List.range (min len (o.layout - off))).map fun i => o.byte (off + i)

/-! ### Which plate tiles a byte range or a rectangle may touch (R134) -/

/-- The first and last pixel columns whose block has bits in byte `b` of a line, for a BDB plate format. -/
def byteColumns (fmt b : Nat) : Nat × Nat :=
  let k := b % 60 * 8 / 12
  let k' := (b % 60 * 8 + 7) / 12
  let blk := fun k => b / 60 * 3 + min (k / 13) 2
  (blk k * perBlock fmt, blk k' * perBlock fmt + perBlock fmt - 1)

/-- The plate tiles of the pixel rectangle [x0, x1] × [y0, y1], clipped to the plate. -/
def Obj.rectTiles (o : Obj) (x0 y0 x1 y1 : Nat) : List Nat :=
  let xs := (List.range (tilesX o.width)).filter fun i => decide (x0 / 128 ≤ i) && decide (i ≤ x1 / 128)
  let ys := (List.range (tilesY o.height)).filter fun j => decide (y0 / 64 ≤ j) && decide (j ≤ y1 / 64)
  ys.flatMap fun j => xs.map fun i => j * tilesX o.width + i

/-- The plate tiles that bytes [off, off + len) of the host layout may touch. -/
def Obj.byteTiles (o : Obj) (off len : Nat) : List Nat :=
  let stride := lineStride o.format o.width
  let fin := min (off + len) o.layout
  if len = 0 ∨ stride = 0 ∨ fin ≤ off then []
  else
    let y0 := off / stride
    let y1 := (fin - 1) / stride
    if y0 = y1 then o.rectTiles (byteColumns o.format (off % stride)).1 y0 (byteColumns o.format ((fin - 1) % stride)).2 y1
    else
      (List.range (o.tileCount)).filter fun t =>
        (o.rectTiles (byteColumns o.format (off % stride)).1 y0 o.width y0).contains t ||
        (o.rectTiles 0 y1 (byteColumns o.format ((fin - 1) % stride)).2 y1).contains t ||
        (decide (y0 + 1 < y1) && (o.rectTiles 0 (y0 + 1) o.width (y1 - 1)).contains t)

/-! ### Blocks with their header check -/

/-- Block `n` of line `y` of a version's content. -/
def Obj.rawBlock (o : Obj) (bytes : Tab Byte) (y n : Nat) : Block :=
  readBlock (contentByte o.fill bytes) (y * lineStride o.format o.width) n

/-- A block as a unit reads it for computation: none when its header check fails (R55), which the blocks of plate tiles
never written do (R126). -/
def Obj.block (o : Obj) (v : Version) (y n : Nat) : Option Block :=
  let x := n * perBlock o.format
  if v.unwritten.contains (o.tileAt x y) || v.unwritten.contains (o.tileAt (min (x + perBlock o.format - 1) (o.width - 1)) y)
  then none
  else
    let b := o.rawBlock v.bytes y n
    if b.ok (fmtClass o.format) then some b else none

/-! ### Storage tiles: where they live, quotas (R123 to R128, R142) -/

/-- The storage tiles an object holds, each once. -/
def Obj.tilesHeld (o : Obj) : List Nat := (o.versions.flatMap (·.tiles)).eraseDups

/-- Tiles reserved for descriptors in flight. -/
def State.reservedTiles (s : State) (fn : Nat) : Nat :=
  ((s.ledger.filter fun e => e.fn = fn).map fun e => e.tiles.length).sum

/-- Tiles held by a function (HARB_FN_USE), kept versions and reservations included. -/
def State.fnUse (s : State) (fn : Nat) : Nat :=
  ((s.objs.filter fun e => handleFn e.2.handle = fn).map fun e => e.2.tilesHeld.length).sum + s.reservedTiles fn

/-- Tiles held by the pinned copies of the ports: almanacs and tone curves (R136, R142). -/
def pinTiles (n : Nat) : Nat := ceilDiv n 65536

def optTiles (b : Option (List Byte)) : Nat := match b with
  | some bs => pinTiles bs.length
  | none => 0

def TonePin.tiles : TonePin → Nat
  | .pinned bs => pinTiles bs.length
  | _ => 0

/-- Chandlery tiles of a CAL_LOAD's pinned copy while its job runs (R243). -/
def Job.pinned : Job → Nat
  | .calLoad bs _ => pinTiles bs.length
  | _ => 0

/-- The Chandlery tiles that pinned copies hold. -/
def State.pinnedTiles (s : State) : Nat :=
  (s.ports.map fun e =>
    optTiles (e.2.ray.new.map (·.bytes)) + optTiles (e.2.ray.old.map (·.bytes)) + optTiles (e.2.ray.next.map (·.bytes)) +
    optTiles e.2.tone +
    (e.2.commits.map fun c => c.pin.tiles).sum).sum +
  (s.ledger.map fun e => e.job.pinned).sum

/-- Chandlery tiles available to objects (HARB_CHN capacity). -/
def State.chnCapacity (s : State) : Nat := 1024 - s.pinnedTiles

/-- Chandlery tiles holding objects. -/
def State.chnUse (s : State) : Nat := (s.harb.places.filter fun e => e.2 = .chandlery).length

/-- DRAM tiles holding objects. -/
def State.dramUse (s : State) : Nat := s.harb.places.length - s.chnUse

/-- Tiles holding objects on one channel. -/
def State.chanUse (s : State) (c : Nat) : Nat :=
  (s.harb.places.filter fun e => e.2 = .dram (BitVec.ofNat 4 c).toFin).length

/-- Tiles of one channel (R433): 512 MB, 1 GB or 2 GB. -/
def State.chanTiles (s : State) : Nat := 8192 * 2 ^ s.field 0xA000 17 16

/-- DRAM tiles available on working channels (HARB_DRAM_CAP): the log buffer of 64 MB is left out while pair_enable is
set (R520). -/
def State.dramCapacity (s : State) : Nat := s.harb.capacity - (if s.paired then 1024 else 0)

/-- A channel that takes new tiles. -/
def State.chanWorks (s : State) (c : Nat) : Bool := match (s.chan c).phase with
  | .active => true
  | .selfRefresh => true
  | .recovery => true
  | _ => false

/-- Tiles holding objects on the channels that take new tiles; those on a retiring channel need room of their own. -/
def State.workingUse (s : State) : Nat := (((List.range 16).filter fun c => s.chanWorks c).map fun c => s.chanUse c).sum

/-- Free tiles of the device's storage. -/
def State.freeTiles (s : State) : Nat := (s.chnCapacity - s.chnUse) + (s.dramCapacity - s.workingUse)

/-- The places with room for one more tile. -/
def State.roomy (s : State) : List Place :=
  (if s.chnUse < s.chnCapacity then [Place.chandlery] else []) ++
  (if s.workingUse < s.dramCapacity then
    ((List.range 16).filter fun c => s.chanWorks c && decide (s.chanUse c < s.chanTiles)).map fun c =>
      Place.dram (BitVec.ofNat 4 c).toFin
   else [])

/-- Take `n` fresh storage tiles: each goes to a place with room, which one is the device's choice (R23, log 3). The
caller has checked that there is room. -/
def State.takeTiles : Nat → State → List Nat × State
  | 0, s => ([], s)
  | n + 1, s =>
    let room := s.roomy
    let place := room.getD (Config.freeIndex s.fresh % max room.length 1) .chandlery
    let t := s.harb.nextTile
    let s' : State := { s with fresh := s.fresh + 1
                               harb := { s.harb with nextTile := t + 1, places := tabPut s.harb.places t place } }
    let r := State.takeTiles n s'
    (t :: r.1, r.2)

/-- A write to a tile on a channel that is being retired goes to a new tile on a working channel or in the Chandlery, where there is one
(R143). -/
def State.rehome (s : State) (t : Nat) : State := match tabFind s.harb.places t with
  | some (.dram c) =>
    let room := s.roomy
    if (s.chan c).phase = .retiring ∧ ¬ s.harb.unreadable.contains t ∧ room ≠ [] then
      { s with fresh := s.fresh + 1
               harb := { s.harb with
                 places := tabPut s.harb.places t (room.getD (Config.freeIndex s.fresh % room.length) .chandlery) } }
    else s
  | _ => s

/-- The storage tiles of an object that is no plate surface, for `len` bytes of its host layout from `off` (R124). -/
def Obj.storageOf (o : Obj) (off len : Nat) : List Nat :=
  if len = 0 then []
  else ((List.range (o.tileCount)).filter fun i => decide (off / 65536 ≤ i) && decide (i ≤ (off + len - 1) / 65536)).map fun i =>
    (((o.versions.head?).map (·.tiles)).getD []).getD i 0

/-! ### Poisoned reads (R452) -/

/-- The last read of a 64-byte unit of a storage tile came back poisoned. -/
def State.unitPoisoned (s : State) (tile unit : Nat) : Bool := match tabFind s.harb.places tile with
  | some (.dram c) => (s.chan c).poisoned.any fun x => decide (x.2 = (tile, unit))
  | _ => false

/-- Some unit that holds `len` bytes from `off` of the host layout of an object that is no plate surface. -/
def State.bytesPoisoned (s : State) (o : Obj) (off len : Nat) : Bool :=
  let ts := ((o.versions.head?).map (·.tiles)).getD []
  (List.range ((off + len + 63) / 64 - off / 64)).any fun i => s.unitPoisoned (ts.getD ((off / 64 + i) / 1024) 0) ((off / 64 + i) % 1024)

/-- A unit that holds block `n` of line `y` of a version (R452: the block counts as failing its header check). -/
def State.blockPoisoned (s : State) (o : Obj) (v : Version) (y n : Nat) : Bool :=
  let x := n * perBlock o.format
  if o.cls = 0 then
    [o.tileAt x y, o.tileAt (min (x + perBlock o.format - 1) (o.width - 1)) y].any fun t =>
      s.unitPoisoned (v.tiles.getD t 0) (Config.blockUnit y n % 1024)
  else s.bytesPoisoned o (y * lineStride o.format o.width + n / 3 * 60 + n % 3 * 156 / 8) 21

/-- Some unit that holds columns [x, x + w) of line `y` of a version of an image. -/
def State.rowPoisoned (s : State) (o : Obj) (v : Version) (y x w : Nat) : Bool :=
  if isBdb o.format then (List.range (w + perBlock o.format)).any fun i => decide (x / perBlock o.format + i ≤ (x + w - 1) / perBlock o.format) &&
    s.blockPoisoned o v y (x / perBlock o.format + i)
  else s.bytesPoisoned o (y * lineStride o.format o.width + x * pixBytes o.format) (w * pixBytes o.format)

/-- The occupancy peaks follow the occupancy (R142). -/
def State.peaks (s : State) : State :=
  { s with harb := { s.harb with peakChn := max s.harb.peakChn s.chnUse, peakDram := max s.harb.peakDram s.dramUse } }

/-- Release storage tiles that no object and no descriptor in flight holds any more. -/
def State.sweepTiles (s : State) : State :=
  let held := s.objs.flatMap (fun e => e.2.versions.flatMap (·.tiles)) ++ s.ledger.flatMap (fun e => e.tiles.map (·.2.2))
  { s with harb := { s.harb with places := s.harb.places.filter fun e => held.contains e.1 } }

/-! ### Which versions are kept (R133) -/

/-- The (surface, version) pairs a scene names. -/
def sceneNames (sc : List SceneEntry) : List (Nat × Nat) :=
  sc.flatMap fun e => (e.plate, e.version) :: (if e.mask = 0 then [] else [(e.mask, e.maskVer)])

/-- What a port presents: its current scene and the scenes of frames still rendered or sent. -/
def Port.presents (p : Port) : List (Nat × Nat) :=
  sceneNames p.scene ++ p.frames.flatMap fun f => sceneNames f.scene

/-- What a port's pending commits name. -/
def Port.pendingNames (p : Port) : List (Nat × Nat) := p.commits.flatMap fun c => sceneNames c.entries

/-- All (surface, version) pairs in use by the ports. -/
def State.usedVersions (s : State) : List (Nat × Nat) :=
  s.ports.flatMap fun e => e.2.presents ++ e.2.pendingNames

/-- The handles that descriptors in flight still name: they complete normally although the object has been freed
(R101). -/
def State.namedHandles (s : State) : List Nat :=
  s.ledger.flatMap (fun e => if e.desc.opcode = 0x02 then [] else e.reads ++ e.writes) ++
  s.ctxs.flatMap (fun e => if e.2.running then [e.2.dst] else [])

/-- Release the versions of a plate surface that R133 does not keep; the newest valid one of a freed surface stays while
descriptors accepted earlier still name it. -/
def Obj.prune (o : Obj) (used : List (Nat × Nat)) (named : List Nat) : Obj :=
  if o.cls = 0 then
    let n := (o.newest.map (·.num)).getD 0
    { o with versions := o.versions.filter fun v =>
        ((!o.released || named.contains o.handle) && v.valid && decide (v.num = n)) || used.contains (o.handle, v.num) }
  else o

/-- Release what is no longer kept: versions (R133), then freed objects whose storage no port displays (R101, R119), then
storage tiles. -/
def State.sweep (s : State) : State :=
  let used := s.usedVersions
  let named := s.namedHandles
  let objs := tabMap (fun _ o => o.prune used named) s.objs
  State.sweepTiles { s with objs := objs.filter fun e =>
    !(e.2.released && (e.2.versions.isEmpty || (decide (e.2.cls ≠ 0) && !named.contains e.2.handle))) }

/-! ### Allocation (R100, R122 to R126) -/

/-- The `k`-th free index, counting from 0, of indices 1 upwards, given the used ones in rising order. -/
def nthFree : List Nat → Nat → Nat
  | [], i => i
  | u :: us, i => if u ≤ i then nthFree us (i + 1) else i

/-- Why an allocation of `n` tiles by a function cannot be made (R125, reasons 2 and 3). -/
def State.noRoom (s : State) (fn n : Nat) : Option Nat :=
  if s.reg (0x2080 + 4 * fn) < s.fnUse fn + n then some 2
  else if s.freeTiles < n then some 3
  else none

/-- The reason an OBJ_ALLOC cannot be satisfied (R125, R602: the lowest-numbered). -/
def State.allocFails (s : State) (fn n : Nat) : Option Nat :=
  if 65536 ≤ s.objs.length then some 1 else s.noRoom fn n

/-- The content an object starts with (R100, R126). -/
def initialFill (zero : Bool) (cls fmt seed : Nat) : Fill :=
  if zero then (if imageClass cls && isBdb fmt then .blocks (fmtClass fmt) else .zeros) else .unspecified seed

/-- Create an object at an index (R100, R122, R129): a plate surface with version 1, any other object with its content. -/
def State.createAt (s : State) (fn idx cls hint fmt w h size : Nat) (zero : Bool) : Nat × State :=
  let gen := tabGet 1 s.gens idx
  let handle := mkHandle fn idx gen
  let n := tileCount cls fmt w h size
  let seed := s.fresh
  let r := State.takeTiles n s.draw
  let v : Version :=
    { num := if cls = 0 then 1 else 0, valid := true, bytes := [], tiles := r.1
      unwritten := if cls = 0 ∧ ¬ zero then List.range n else []
      opacity := if cls = 0 then List.replicate (ceilDiv w 64 * ceilDiv h 64) (if zero then 0 else 2) else [] }
  let o : Obj :=
    { handle := handle, cls := cls, hint := hint, format := fmt, width := w, height := h, size := size
      fill := initialFill zero cls fmt seed, versions := [v], given := 1, invalid := false, lost := none
      freeing := none, released := false }
  (handle, (r.2.setObj o).peaks)

/-- Create an object at a free index of the device's choice (R122, log 3). -/
def State.create (s : State) (fn cls hint fmt w h size : Nat) (zero : Bool) : Nat × State :=
  let used := s.objs.map (·.1)
  let idx := nthFree used (1 + Config.freeIndex s.fresh % (1048575 - used.length))
  s.draw.createAt fn idx cls hint fmt w h size zero

/-- Release a handle (R101, R122): the generation of its index advances; storage goes unless a port displays it. -/
def State.releaseObj (s : State) (h : Nat) : State :=
  let i := handleIndex h
  let g := tabGet 1 s.gens i
  let s := { s with gens := tabPut s.gens i (if g = 255 then 1 else g + 1) }
  (s.modObj h fun o => { o with released := true }).sweep

/-! ### Opacity maps (R153) -/

/-- The lanes of block `n` of a line that are alphas of pixels inside [x0, x1): mantissas of the plate or mask. -/
def blockAlphas (fmt : Nat) (b : Block) (n x0 x1 : Nat) : List Nat :=
  if fmt = fmtRgba then
    ((List.range 3).filter fun i => decide (x0 ≤ 3 * n + i) && decide (3 * n + i < x1)).map fun i => b.m.getD (4 * i + 3) 0
  else
    ((List.range 12).filter fun i => decide (x0 ≤ 12 * n + i) && decide (12 * n + i < x1)).map fun i => b.m.getD i 0

/-- The class of one 64 × 64 square: 0 transparent, 1 opaque, 2 mixed (R153). -/
def Obj.squareClass (o : Obj) (v : Version) (sx sy : Nat) : Nat :=
  let x0 := 64 * sx
  let x1 := min (x0 + 64) o.width
  let pb := perBlock o.format
  let ns := (List.range (ceilDiv x1 pb - x0 / pb)).map fun i => x0 / pb + i
  let ys := (List.range (min 64 (o.height - 64 * sy))).map fun j => 64 * sy + j
  let blocks := ys.flatMap fun y => ns.map fun n => (n, o.block v y n)
  if blocks.any fun b => b.2.isNone then 2
  else
    let as := blocks.flatMap fun b => match b.2 with
      | some k => blockAlphas o.format k b.1 x0 x1
      | none => []
    if as.all fun a => decide (a = 0) then 0 else if as.all fun a => decide (a = 4095) then 1 else 2

/-- The opacity map of a version (R153). -/
def Obj.opacityMap (o : Obj) (v : Version) : List Nat :=
  (List.range (ceilDiv o.height 64)).flatMap fun sy => (List.range (ceilDiv o.width 64)).map fun sx => o.squareClass v sx sy

/-! ### New versions (R129 to R135) -/

/-- Distinct tiles held by all versions of the surface, and the fresh ones asked for, stay within three times the plate's
tile count; quota; room (R134): the reason a reservation fails. -/
def State.reserveFails (s : State) (o : Obj) (n : Nat) : Option Nat :=
  if 3 * o.tileCount < o.tilesHeld.length + n then some 4 else s.noRoom (handleFn o.handle) n

/-- Reserve fresh storage for plate tiles that a writer may write: each is shared with the newest valid version, which is
kept (R134). -/
def State.reserve (s : State) (o : Obj) (ts : List Nat) : List (Nat × Nat × Nat) × State :=
  let r := State.takeTiles ts.length s
  ((ts.zip r.1).map fun p => (o.handle, p.1, p.2), r.2.peaks)

/-- The version a writer produces: built from the newest valid version, with fresh tiles where it wrote (R129, R134,
R135). -/
def Obj.newVersion (o : Obj) (num : Nat) (valid : Bool) (bytes : Tab Byte) (written : List Nat)
    (fresh : List (Nat × Nat × Nat)) : Version :=
  let base := o.newest.getD { num := 0, valid := true, bytes := [], tiles := [], unwritten := [], opacity := [] }
  let tiles := (List.range o.tileCount).map fun i =>
    match fresh.find? fun f => f.1 = o.handle ∧ f.2.1 = i with
    | some f => if written.contains i then f.2.2 else base.tiles.getD i 0
    | none => base.tiles.getD i 0
  let v : Version := { num := num, valid := valid, bytes := bytes, tiles := tiles
                       unwritten := base.unwritten.filter fun t => !(written.contains t), opacity := [] }
  { v with opacity := if valid then o.opacityMap v else [] }

/-- Add a produced version to its surface (R129). -/
def Obj.addVersion (o : Obj) (v : Version) : Obj := { o with versions := o.versions ++ [v] }

/-- Replace the single content of an object that is no plate surface (R138). -/
def Obj.setContent (o : Obj) (bytes : Tab Byte) : Obj :=
  { o with versions := o.versions.map fun v => { v with bytes := bytes } }

end Sys2Proof.Machine
end

