-- ==== Sys2Proof/Machine/Ledger.lean ====
section
/-! DEFINITION. The ledger: acceptance (R96, R97, R129), what an accepted descriptor waits for (R105 to R108, R130, R384,
R242, R495), the Causeway log of the active unit (R515, R520), completion records (R110 to R117), and what a completion
does to pending commits (R163, R172), to a draining ring (R117) and to storage (R133). -/

namespace Sys2Proof.Machine

/-! ### Slots (R78, R96, R97) -/

/-- Ledger slots held by a function. -/
def State.held (s : State) (fn : Nat) : Nat := (s.ledger.filter fun e => e.fn = fn).length

/-- The function has a ring that is not DISABLED (R97). -/
def State.hasRing (s : State) (fn : Nat) : Bool :=
  (List.range 8).any fun i => decide ((s.ring (8 * fn + i)).state ≠ .disabled)

/-- Slots reserved for a function. -/
def State.reservedSlots (s : State) (fn : Nat) : Nat := if s.hasRing fn then 64 else 0

/-- Shared slots in use. -/
def State.sharedUsed (s : State) : Nat := ((List.range 16).map fun f => s.held f - s.reservedSlots f).sum

/-- Shared slots there are. -/
def State.sharedSlots (s : State) : Nat := 4096 - ((List.range 16).map fun f => s.reservedSlots f).sum

/-- Most slots a function may hold: values below 64 act as 64 (R78). -/
def State.maxSlots (s : State) (fn : Nat) : Nat := max 64 (s.field (0x80 + 4 * fn) 12 0)

/-- The function has a slot available (R97). -/
def State.slotFree (s : State) (fn : Nat) : Bool :=
  decide (s.held fn < s.reservedSlots fn) ||
  (decide (s.held fn < s.maxSlots fn) && decide (s.sharedUsed < s.sharedSlots))

/-! ### Entries -/

def State.entry (s : State) (id : Nat) : Option Entry := s.ledger.find? fun e => e.id = id

def State.modEntry (s : State) (id : Nat) (f : Entry → Entry) : State :=
  { s with ledger := s.ledger.map fun e => if e.id = id then f e else e }

def State.dropEntry (s : State) (id : Nat) : State := { s with ledger := s.ledger.filter fun e => e.id ≠ id }

/-- The entries accepted before one. -/
def State.before (s : State) (e : Entry) : List Entry := s.ledger.filter fun x => x.id < e.id

/-! ### The Causeway log of the active unit (R515, R520) -/

/-- Bytes in the log buffer. -/
def State.logFill (s : State) : Nat := (s.cway.log.map fun e => e.2.length).sum

/-- The mirror breaks on the active unit (R519, R520): no logging until a rejoin; BREAK is owed. -/
def State.breakLog (s : State) : State :=
  if s.cway.logging then
    ({ s with cway := { s.cway with logging := false, breakDue := true } }).count 0x701C 31 16 1
  else s

/-- Log a record: it stays in the buffer of 64 MB until an ACK; one that does not fit breaks the mirror (R520). -/
def State.logRecord (s : State) (type : Nat) (last : Bool) (ring dseq : Nat) (body : List Byte) : State :=
  if s.cway.role = .active ∧ s.cway.logging then
    if 67108864 < s.logFill + 20 + (padTo4 body).length then s.breakLog
    else
      let seq := s.cway.sendSeq
      let bs := recordBytes { seq := seq, type := type, last := last, ring := ring, dseq := dseq } body
      let s := s.cwaySend type last ring dseq body
      let s := { s with cway := { s.cway with log := s.cway.log ++ [(seq, bs)] } }
      let kb := satNat (ceilDiv s.logFill 1024) 65535
      s.setReg 0x7008 (max kb (s.field 0x7008 31 16) * 65536 + kb)
  else s

/-- The most bytes of an item that one DATA or SNAP record carries: a record's body is at most 65,532 bytes (R521). -/
def logChunk : Nat := 65520

/-- Host data fetched for a descriptor go into the log as DATA records, the last of them marked (R521, R522). -/
def State.logData (s : State) (d : Desc) (off : Nat) (data : List Byte) : State :=
  let n := max 1 (ceilDiv data.length logChunk)
  forN n (fun i s => s.logRecord 0x02 (decide (i + 1 = n)) d.ring d.seq
    (leBytes 4 (off + logChunk * i) ++ bytesAt data (logChunk * i) (min logChunk (data.length - logChunk * i)))) s

/-- APPLY: a change took effect at a frame (R518, R522). -/
def State.logApply (s : State) (d : Desc) (port kind frame : Nat) : State :=
  s.logRecord 0x04 false d.ring d.seq (leBytes 1 port ++ leBytes 1 kind ++ leBytes 2 0 ++ leBytes 8 frame)

/-! ### Acceptance (R96, R129) -/

/-- Take one ledger slot for a descriptor: its surfaces get their version numbers (R129), and the descriptor enters the
log (R515). `mirrored` marks a replay on the standby. A surface's numbers count on without bound, and a record carries their low 32 bits:
which number follows 2^32 − 1 is the model's choice (DESIGN CHOICE, log 67). -/
def State.accept (s : State) (d : Desc) (job : Job) (surfaces : List Nat) (mirrored : Bool) : State :=
  let plates := (surfaces.filter fun h => ((s.objOf h).map fun o => decide (o.cls = 0)).getD false).eraseDups
  let vs := plates.map fun h => (h, ((s.objOf h).map (·.given)).getD 0 + 1)
  let e : Entry := { id := s.nextId, fn := d.fn, desc := d, started := false, readyAt := none, versions := vs, job := job
                     tiles := [], work := [], muted := false, mirrored := mirrored
                     wrote := [], shared := [] }
  let s := vs.foldl (fun s v => s.modObj v.1 fun o => { o with given := v.2 }) s
  let s := { s with ledger := s.ledger ++ [e], nextId := s.nextId + 1, ledgerPeak := max s.ledgerPeak (s.ledger.length + 1) }
  let s := if mirrored then s else s.modRing d.ring fun r => { r with cur := none }
  s.logRecord 0x01 false d.ring d.seq (wordBytes d.words ++ leBytes 4 (d.count % 2 ^ ((s.ring d.ring).sizeLog + 6)))

/-! ### Waits -/

/-- Two lists of handles share one that is not 0. -/
def meets (a b : List Nat) : Bool := a.any fun h => decide (h ≠ 0) && b.contains h

/-- The stream that a decode descriptor belongs to: function and stream_id (R382). -/
def Desc.stream (d : Desc) : Option (Nat × Nat) :=
  if d.opcode = opStreamDecode then some (d.fn, d.f 7 15 0)
  else if d.opcode = opStreamContinue then some (d.fn, d.f 2 15 0)
  else none

/-- FENCE's scope covers a descriptor of function `fn` in ring `r` (R107). -/
def Desc.fences (f : Desc) (fn r : Nat) : Bool :=
  decide (f.opcode = opFence) && (decide (f.ring = r) || (f.flag21 && decide (f.fn = fn)))

/-- `e` waits for the earlier `x`: same ring and order, objects or WAIT_TIME (R93, R106, R108); a FENCE in either role
(R107); writers of one plate surface (R130); one stream (R384); CAL_LOADs of one port (R242); CAL_MEASUREs (R495);
CAL_STOREs (R503). -/
def Entry.waitsFor (e x : Entry) : Bool :=
  (decide (x.desc.ring = e.desc.ring) &&
    (e.desc.order || meets x.writes (e.reads ++ e.writes) || meets x.reads e.writes ||
     decide (x.desc.opcode = opWaitTime))) ||
  x.desc.fences e.fn e.desc.ring || e.desc.fences x.fn x.desc.ring ||
  meets (x.versions.map (·.1)) (e.versions.map (·.1)) ||
  (decide (e.desc.stream ≠ none) && decide (x.desc.stream = e.desc.stream)) ||
  (decide (e.desc.opcode = opCalLoad) && decide (x.desc.opcode = opCalLoad) && decide (x.desc.f 3 1 0 = e.desc.f 3 1 0)) ||
  (decide (e.desc.opcode = opCalMeasure) && decide (x.desc.opcode = opCalMeasure)) ||
  (decide (e.desc.opcode = opCalStore) && decide (x.desc.opcode = opCalStore))

/-- Nothing that the descriptor waits for is left (R105 to R108). -/
def State.noWait (s : State) (e : Entry) : Bool := (s.before e).all fun x => !e.waitsFor x

/-! ### Pending commits (R163, R172) -/

/-- Something in the ledger will still produce this version. -/
def State.writerOf (s : State) (v : Nat × Nat) : Option Entry := s.ledger.find? fun e => e.versions.contains v

/-- A commit's entries, with their positions, that name a version: words 1 and 4 of the entry hold plate and mask
version. -/
def Commit.position (c : Commit) (v : Nat × Nat) : Option Nat :=
  c.entries.findSome? fun e =>
    if (e.plate, e.version) = v then some (0x200 + 16 * e.index + 1)
    else if e.mask ≠ 0 ∧ (e.mask, e.maskVer) = v then some (0x200 + 16 * e.index + 4)
    else none

/-- The conditions of R163 hold. -/
def State.commitReady (s : State) (c : Commit) : Bool :=
  ((s.entry c.id).map fun e => s.noWait e).getD false &&
  ((sceneNames c.entries).all fun v =>
    decide (s.writerOf v = none) &&
    ((s.objOf v.1).bind fun o => (o.version v.2).map fun x => x.valid).getD false) &&
  (match c.pin with
   | .notNamed => true
   | .pinned _ => true
   | _ => false)

/-- A commit that has become ready keeps the tick (R163, R166). -/
def State.refreshCommit (s : State) (c : Commit) : Commit :=
  if c.readyAt.isNone && s.commitReady c then { c with readyAt := some s.now } else c

/-- Every pending commit is looked at again. -/
def State.refreshCommits (s : State) : State :=
  { s with ports := tabMap (fun _ p => { p with commits := p.commits.map fun c => s.refreshCommit c }) s.ports }

/-- What R172 gives a commit when a named version's writer fails. -/
def writerFailure (status pos : Nat) : Fail :=
  if status = stCheckMismatch ∨ status = stStreamCorrupt ∨ status = stTimeout then (stCheckMismatch, pos)
  else (stBadDesc, 3 * 65536 + pos)

/-- A writer has completed: commits that name what it did not produce will fail at the next latch instant (R172). -/
def Commit.onWriter (c : Commit) (vs : List (Nat × Nat)) (status : Nat) : Commit :=
  if status = stOk ∨ status = stTruncated ∨ c.fail.isSome then c
  else match vs.findSome? fun v => c.position v with
    | some pos => { c with fail := some (writerFailure status pos) }
    | none => c

/-! ### Completion records (R110 to R116) -/

/-- The 32 bytes of a completion record (R111). -/
def cplBytes (d : Desc) (status detail ns r0 r1 : Nat) : List Byte :=
  leBytes 4 d.seq ++ leBytes 4 (status % 4096 + detail % 2 ^ 20 * 4096) ++ timeBytes ns ++ leBytes 4 r0 ++ leBytes 4 r1 ++
    leBytes 4 (d.opcode + d.ring * 256)

/-- Entries of a ring (R81). -/
def Ring.entries (r : Ring) : Nat := 2 ^ (r.sizeLog + 6)

/-- The slot of a descriptor in its ring (R86). -/
def State.slotOf (s : State) (d : Desc) : Nat := d.count % (s.ring d.ring).entries

/-- The address of a descriptor's completion record (R86, R111). -/
def State.cplAddr (s : State) (d : Desc) : Nat := (s.ring d.ring).cpl + 32 * s.slotOf d

/-- The MSI-X entry of a ring's vector field; bit 15 is ignored for a VF (R81, R116). -/
def State.ringVector (s : State) (r : Nat) : Nat :=
  if ringFn r = 0 then (s.ring r).vector else (s.ring r).vector % 8

/-- Write a descriptor's completion record, then the ring's message when irq is set or `signal` asks for it (R110, R111,
R116); nothing in the fatal state (R549). -/
def State.writeCpl (s : State) (d : Desc) (signal : Bool) (status detail ns r0 r1 : Nat) : State :=
  if s.flt.fatalHold then s
  else
    let s := s.emit (.write d.fn (s.cplAddr d) (cplBytes d status detail ns r0 r1))
    if d.irq || signal then s.emit (.msix d.fn (s.ringVector d.ring)) else s

/-- A descriptor that was never accepted completes (R94, R96): the engine goes on with the next one. -/
def State.reject (s : State) (d : Desc) (f : Fail) : State :=
  (s.modRing d.ring fun r => { r with cur := none }).writeCpl d false f.1 f.2 s.tideNs 0 0

/-- A draining ring with no descriptor left is DISABLED (R117). -/
def State.drained (s : State) (r : Nat) : State :=
  if (s.ring r).state = .draining ∧ ¬ (s.ledger.any fun e => decide (e.desc.ring = r)) then
    s.modRing r fun x => { x with state := .disabled }
  else s

/-- The standby keeps the outcome of its own replay (R515, R519). -/
def State.noteReplay (s : State) (d : Desc) (status : Nat) : State :=
  { s with cway := { s.cway with replays := s.cway.replays.map fun x =>
      if x.ring = d.ring ∧ x.dseq = d.seq then { x with result := some status } else x } }

/-- The status consumes a writer's version number without a usable version (R131). -/
def spoils (status : Nat) : Bool :=
  decide (status = stCheckMismatch) || decide (status = stStreamCorrupt) || decide (status = stTimeout)

/-- A writer that ends with such a status and has produced no version of one of its surfaces produces an invalid one under its number,
with the content it was to be built on (R129, R131). -/
def State.spoilVersions (s : State) (e : Entry) (status : Nat) : State :=
  if spoils status then
    e.versions.foldl (fun s v => s.modObj v.1 fun o =>
      if (o.version v.2).isSome then o else o.addVersion (o.newVersion v.2 false o.content [] [])) s
  else s

/-- The descriptor of an entry completes at time `ns`: its record and message, the DONE record of the log, the version a failing writer
consumes, the slot given back, pending commits and the draining ring looked at, storage released. -/
def State.finishAt (s : State) (id ns : Nat) (signal : Bool) (f : Fail) (r0 r1 : Nat) : State :=
  match s.entry id with
  | none => s
  | some e =>
    let s := if e.mirrored then s.noteReplay e.desc f.1
      else if e.muted then s
      else (s.writeCpl e.desc signal f.1 f.2 ns r0 r1).logRecord 0x03 false e.desc.ring e.desc.seq
        (cplBytes e.desc f.1 f.2 ns r0 r1)
    let s := (s.spoilVersions e f.1).dropEntry id
    let s := { s with ports := tabMap (fun _ (p : Port) => { p with commits := p.commits.map fun c => Commit.onWriter c e.versions f.1 }) s.ports }
    (s.refreshCommits.drained e.desc.ring).sweep

/-- The descriptor of an entry completes now (R112). -/
def State.finish (s : State) (id : Nat) (f : Fail) (r0 r1 : Nat) : State := s.finishAt id s.tideNs false f r0 r1

/-- The entry has started (R106, R117). -/
def State.start (s : State) (id : Nat) (job : Job) : State :=
  s.modEntry id fun e => { e with started := true, readyAt := some s.now, job := job }

/-! ### Objects lost or invalid at the start (R146, R400) -/

/-- The first handle of a descriptor whose object is lost (R146): DATA_LOST with the loss's reason and the handle's word. -/
def State.lostFail (s : State) (d : Desc) : Option Fail :=
  if d.opcode = opObjFree then none
  else d.handles.findSome? fun h => ((s.objOf h.2).bind (·.lost)).map fun r => (stDataLost, det r h.1)

/-! ### Acceptance checks on handles (R96 steps 5 and 6, R98, R99) -/

/-- Permission: the opcode, the port's ownership, then the function in every handle (R96 step 5, log 31). -/
def State.permFail (s : State) (d : Desc) : Option Fail :=
  firstFail
    [ failIf (pfOnly d.opcode && decide (d.fn ≠ 0)) (permission 1 0),
      failIf (ownerOnly d.opcode && decide (s.owner (d.f 2 1 0) ≠ d.fn)) (permission 3 2),
      d.handles.findSome? fun h => failIf (decide (handleFn h.2 ≠ d.fn)) (permission 2 h.1) ]

/-- Handles: allocated, generation matching (R96 step 6, R99), then not lost (R146). -/
def State.handleFail (s : State) (d : Desc) : Option Fail :=
  firstFail
    [ d.handles.findSome? fun h => failIf (s.objValid h.2).isNone (stBadHandle, det 0 h.1),
      s.lostFail d ]

end Sys2Proof.Machine
end

