-- ==== Sys2Proof/Machine/Rings.lean ====
section
/-! DEFINITION. The ring engine (03_host_rings.md): doorbell reads and poll rounds (R85 to R90), fetching (R91, R97), the
weighted rounds of R92, the sequence check (R94), the acceptance checks that a fetch return makes (R96), and how an
opcode's acceptance takes the compared descriptor. -/

namespace Sys2Proof.Machine

/-! ### Doorbells -/

/-- Ask host memory for the tail of a ring's doorbell record (R85, R25). -/
def State.askTail (s : State) (r : Nat) : State := s.emit (.readRequest (ringFn r) (s.ring r).db 4 (.doorbell r))

/-- An error record of the ring engine (R539): RING, the ring as instance, its function. -/
def ringErr (code r i0 i1 : Nat) : ErrRec := { err 0 0x01 code r i0 i1 0 with fn := ringFn r }

/-- The poll interval in ticks (R78): 250 to 1,000,000 ns, rounded up to a multiple of 4 ns. -/
def State.pollTicks (s : State) : Nat :=
  nsTicks (ceilDiv (max 250 (min 1000000 (s.field 0x40 19 0))) 4 * 4)

/-- A poll round reads the doorbell of every RUNNING ring once (R87); one that falls due while a round is in progress is
merged into it. Of records that lie close enough to be read together each is read alone (DESIGN CHOICE, log 65). -/
def State.startRound (s : State) : State :=
  if (List.range 128).any fun r => (s.ring r).polling then s
  else forN 128 (fun r s =>
    if (s.ring r).state = .running then (s.modRing r fun x => { x with polling := true, pollDrop := false }).askTail r
    else s) s

/-- Poll rounds are made: the device runs and boot_ready is set (R87, R569). -/
def State.polls (s : State) : Bool := s.running && s.power.bootReady

/-- The extra round at a frame start (R87). -/
def State.extraRound (s : State) : State := if s.polls then s.startRound else s

/-- The periodic round is due (R87). -/
def State.roundDue (s : State) : Bool := match s.pollAt with
  | none => true
  | some t => decide (t + s.pollTicks ≤ s.now)

/-! ### The state of a ring -/

/-- The ring stops (R88, R91, R94): what was read and not compared is discarded. -/
def State.stopRing (s : State) (r : Nat) : State := s.modRing r fun x => { x with state := .stopped, buf := [] }

/-- The size of a ring, modulo the count's width. -/
def Ring.pendingWork (x : Ring) : Nat := (x.tail + 2 ^ 32 - x.consumed % 2 ^ 32) % 2 ^ 32

/-- A descriptor of the ring whose completion record has not been written sits at this count (R91). -/
def State.owed (s : State) (r count : Nat) : Bool :=
  (s.ledger.any fun e => decide (e.desc.ring = r) && decide (e.desc.count = count) && !e.mirrored) ||
  (match (s.ring r).cur with
   | some d => decide (d.count = count)
   | none => false)

/-- How many slots a fetch read takes from count `c`: at most eight, not past the end of the ring, only published
descriptors, and only slots whose previous completion record has been written (R91). The model takes as many as it may (DESIGN CHOICE,
log 66). -/
def State.fetchRun (s : State) (r c : Nat) : Nat → Nat
  | 0 => 0
  | n + 1 =>
    let k := 8 - (n + 1)
    let x := s.ring r
    let q := (c + k) % 2 ^ 32
    if k < x.pendingWork ∧ (k = 0 ∨ q % x.entries ≠ 0) ∧ ¬ s.owed r ((q + 2 ^ 32 - x.entries) % 2 ^ 32)
    then 1 + s.fetchRun r c n
    else 0

/-- The slots the engine may fetch now: the ring is RUNNING with nothing read and waiting, and its function has ledger
room (R91, R97); none in the fatal state (R549) or while a resignation waits (R529). -/
def State.fetchable (s : State) (r : Nat) : Nat :=
  let x := s.ring r
  if s.running ∧ x.state = .running ∧ x.fetching = none ∧ x.buf = [] ∧ s.slotFree (ringFn r) ∧ ¬ s.flt.fatalHold ∧
     ¬ s.cway.resigning
  then s.fetchRun r x.consumed 8 else 0

/-! ### Comparison and checks (R94, R96) -/

/-- Opcodes whose step 4 of R96 goes on with checks of their own chapter before permission and handles. -/
def lateRange (op : Nat) : Bool :=
  decide (op = opPlateLoad) || decide (op = opModeSet) || decide (op = opSceneCommit)

/-- The acceptance checks a fetch return makes (R96). -/
def State.staticFail (s : State) (d : Desc) : Option Fail :=
  firstFail [d.formFail, d.rangeFail, if lateRange d.opcode then none else firstFail [s.permFail d, s.handleFail d]]

/-- Compare a ring's next descriptor with RING_SEQ (R94); one that goes on and passes the checks is taken up for its
opcode's acceptance, one that fails completes. -/
def State.compare (s : State) (r : Nat) (d : Desc) : State :=
  let x := s.ring r
  let s := s.modRing r fun y => { y with buf := y.buf.drop 1, consumed := (y.consumed + 1) % 2 ^ 32 }
  let diff := (x.nextSeq + 2 ^ 32 - d.seq) % 2 ^ 32
  if diff = 0 then
    let s := s.modRing r fun y => { y with nextSeq := (y.nextSeq + 1) % 2 ^ 32 }
    match s.staticFail d with
    | some f => s.reject d f
    | none => s.modRing r fun y => { y with cur := some d }
  else if diff ≤ 2 ^ 31 then s.reject d (stOk, 0x80000)
  else (s.reject d (badDesc 5 1)).stopRing r

/-- The ring has work to take and its function has room: descriptors read, being read or to be read (R92, R97); none in the fatal
state (R549). -/
def State.hasWork (s : State) (r : Nat) : Bool :=
  let x := s.ring r
  decide (x.state = .running) && s.slotFree (ringFn r) && !s.flt.fatalHold &&
    (!x.buf.isEmpty || x.fetching.isSome || decide (0 < s.fetchable r))

/-- A ring that keeps the round from ending: work and room, and allowance left (R92). -/
def State.holdsRound (s : State) (r : Nat) : Bool := decide (0 < (s.ring r).allowance) && s.hasWork r

/-- The engine has taken a descriptor whose acceptance is in progress: it goes on with no other until that is over. -/
def State.accepting (s : State) : Bool :=
  s.rings.any fun e => e.2.cur.isSome && decide (e.2.state = .running) && s.slotFree (ringFn e.1)

/-- The next round begins with every allowance restored, at the lowest ring (R92). -/
def State.restoreAllowances (s : State) : State :=
  { s with turnAt := 0, rings := tabMap (fun _ (x : Ring) => { x with allowance := 2 ^ x.prio }) s.rings }

/-- The lowest-numbered ring with a property. -/
def lowestRing (f : Nat → Bool) : Option Nat := (List.range 128).find? f

/-- Whose turn it is in the present round: the rings in increasing number, each while it has allowance and work; a ring passed over that
has got work since comes after the higher ones (R92, log 19). -/
def State.turn (s : State) : Option Nat := match lowestRing fun r => decide (s.turnAt ≤ r) && s.holdsRound r with
  | some r => some r
  | none => lowestRing s.holdsRound

/-- Take the heads of the ring whose turn it is, and wait for the read of that ring's next slots; when the round is over and a ring without
allowance has work, begin the next (R92). -/
def State.engage : Nat → State → State
  | 0, s => s
  | n + 1, s =>
    if s.accepting then s
    else match s.turn with
      | some r =>
        match (s.ring r).buf with
        | d :: _ => State.engage n (({ s with turnAt := r } : State).compare r d)
        | [] => { s with turnAt := r }
      | none => if (List.range 128).any s.hasWork then State.engage n s.restoreAllowances else s

/-- Enough turns of the engine for every descriptor read. -/
def State.run (s : State) : State :=
  State.engage (2 * (s.rings.map fun e => e.2.buf.length).sum + 2) s

/-! ### Acceptance by an opcode -/

/-- The ring's compared descriptor is taken through its opcode's acceptance, when it has that opcode, its ring is RUNNING (R118) and the
function has a ledger slot (R97). What the checks of R96 read may have changed since the comparison, so they are made here again. Then the
engine goes on. -/
def State.withCur (s : State) (r op : Nat) (f : Desc → State → State) : State :=
  match (s.ring r).cur with
  | some d =>
    if d.opcode = op ∧ (s.ring r).state = .running ∧ s.slotFree d.fn then
      match s.staticFail d with
      | some fl => (s.reject d fl).run
      | none => (f d s).run
    else s
  | none => s

/-- Accept the compared descriptor of a ring: it uses up one of the ring's allowance (R92). -/
def State.admitNew (s : State) (d : Desc) (job : Job) (surfaces : List Nat) : State :=
  (s.modRing d.ring fun x => { x with allowance := x.allowance - 1 }).accept d job surfaces false

/-- The id the next accepted descriptor takes, looked up in the state before acceptance. -/
def State.admitted (s : State) (id : Nat) (f : Entry → State → State) : State := match s.entry id with
  | some e => f e s
  | none => s

/-! ### The commands -/

/-- POLL_ROUND (R87): the periodic round begins. -/
def execPollRound (s : State) : Host.Outcome State Fault Refusal :=
  .next (if s.polls && s.roundDue then { s.startRound with pollAt := some s.now } else s)

/-- A poll read that failed (R87): at most one record per ring and second, which counts every failure. -/
def State.pollFailed (s : State) (r : Nat) (f : ReadFail) : State :=
  let x := s.ring r
  if due (x.pollRecAt.map (· + 1500000000)) s.now || x.pollRecAt.isNone then
    (s.modRing r fun y => { y with pollFails := 0, pollRecAt := some s.now }).raise (ringErr 0x03 r f.code (x.pollFails + 1))
  else s.modRing r fun y => { y with pollFails := y.pollFails + 1 }

/-- The tail a poll returned (R88). -/
def State.pollTail (s : State) (r t : Nat) : State :=
  let s := s.modRing r fun y => { y with tail := t }
  let x := s.ring r
  if x.entries < x.pendingWork then
    ((s.stopRing r).raise (ringErr 0x01 r t x.consumed)).emit (.msix (ringFn r) (s.ringVector r))
  else s

/-- POLL_READ_RETURN (R87, R88). -/
def execPollReadReturn (r : Fin 128) (res : DoorbellRead) (s : State) : Host.Outcome State Fault Refusal :=
  let x := s.ring r
  if x.polling then
    let s := s.modRing r fun y => { y with polling := false, pollDrop := false }
    if x.pollDrop ∨ x.state ≠ .running then .next s
    else match res with
      | .tail t => .next (s.pollTail r t.toNat)
      | .failed f => .next (s.pollFailed r f)
  else .next s

/-- DESCRIPTOR_FETCH (R91, R92): the engine goes on with what it has read, then makes one read of up to eight consecutive
slots. -/
def execDescriptorFetch (r : Fin 128) (s : State) : Host.Outcome State Fault Refusal :=
  let s := s.run
  let n := s.fetchable r
  let x := s.ring r
  if 0 < n then
    .next ((s.modRing r fun y => { y with fetching := some (y.consumed, n) }).emit
      (.readRequest (ringFn r) (x.base + 64 * (x.consumed % x.entries)) (64 * n) (.fetch r)))
  else .next s

/-- The descriptors that a fetch read returned. -/
def fetched (r c n : Nat) (bs : List Byte) : List Desc :=
  (List.range (min n (bs.length / 64))).map fun i => Desc.ofBytes r ((c + i) % 2 ^ 32) (bytesAt bs (64 * i) 64)

/-- FETCH_RETURN (R91, R94, R96). -/
def execFetchReturn (r : Fin 128) (data : HostRead) (s : State) : Host.Outcome State Fault Refusal :=
  match (s.ring r).fetching with
  | none => .next s
  | some (c, n) =>
    let s := s.modRing r fun y => { y with fetching := none }
    if (s.ring r).state ≠ .running then .next s
    else match data.fail with
      | some f => .next ((s.stopRing r).raise (ringErr 0x04 r f.code (s.ring r).consumed))
      | none => .next (s.modRing r fun y => { y with buf := fetched r c n data.bytes }).run

end Sys2Proof.Machine
end

