-- ==== Sys2Proof/Machine/ObjOps.lean ====
section
/-! DEFINITION. Starting an accepted descriptor (R106, R146, R400) and the meanings of NOP, the object descriptors, FENCE and
WAIT_TIME (R100, R101, R104, R107, R108, R125, R129 to R135). -/

namespace Sys2Proof.Machine

/-! ### Starting -/

/-- A descriptor that reads an object marked invalid completes CHECK_MISMATCH; OBJ_READ is the exception (R400). -/
def State.invalidFail (s : State) (e : Entry) : Option Fail :=
  if e.desc.opcode = opObjRead then none
  else if e.reads.any fun h => ((s.objOf h).map (·.invalid)).getD false then some (stCheckMismatch, 0)
  else none

/-- What can end a descriptor at its start before its own effect: an object lost (R146) or marked invalid (R400). -/
def State.startFail (s : State) (e : Entry) : Option Fail := firstFail [s.lostFail e.desc, s.invalidFail e]

/-- The version number the entry was given for a surface (R129). -/
def Entry.versionOf (e : Entry) (h : Nat) : Nat :=
  match e.versions.find? fun v => v.1 = h with
  | some v => v.2
  | none => 0

/-- Start an accepted descriptor that has nothing left to wait for (R105 to R108); a PLATE_LOAD that fails with its version consumed
reports it (R132). -/
def State.startIf (s : State) (id : Nat) (f : Entry → State → State) : State :=
  match s.entry id with
  | none => s
  | some e =>
    if e.started || !(s.noWait e) then s
    else match s.startFail e with
      | some fl => s.finish id fl (if e.desc.opcode = opPlateLoad ∧ spoils fl.1 then e.versionOf (e.desc.w 2) else 0) 0
      | none => f e s

/-- Accept a descriptor, do what its acceptance brings, and start it at once when nothing holds it back. -/
def State.admitStart (s : State) (d : Desc) (job : Job) (surfaces : List Nat) (prep : State → State)
    (f : Entry → State → State) : State :=
  (prep (s.admitNew d job surfaces)).startIf s.nextId f

/-- NO_SPACE with its reason (R125). -/
def noSpace (reason : Nat) : Fail := (stNoSpace, det reason 0)

/-- A TIMEOUT or OK style status turned into the mark of R400 on an object that is no plate surface: set by a failure,
cleared by OK. -/
def markAfter (status : Nat) (old : Bool) : Bool :=
  if status = stOk then false
  else if status = stCheckMismatch ∨ status = stStreamCorrupt ∨ status = stTimeout then true
  else old

/-! ### NOP, FENCE, WAIT_TIME -/

/-- A NOP or a FENCE completes as it starts (R104, R107). -/
def startPlain (e : Entry) (s : State) : State := s.finish e.id (stOk, 0) 0 0

/-- NOP (R104). -/
def execNop (r : Fin 128) (s : State) : Host.Outcome State Fault Refusal :=
  .next (s.withCur r opNop fun d s => s.admitStart d .plain [] id startPlain)

/-- FENCE (R107). -/
def execFence (r : Fin 128) (s : State) : Host.Outcome State Fault Refusal :=
  .next (s.withCur r opFence fun d s => s.admitStart d .plain [] id startPlain)

/-- The target of a WAIT_TIME in ns since Tide 0 (R104, R108). -/
def Desc.until (d : Desc) : Nat := d.addr 2 * 1000000000 + d.f 4 29 0

/-- A WAIT_TIME whose target is past completes at once; another goes on waiting, and counts as not started (R108). -/
def startWait (e : Entry) (s : State) : State :=
  if e.desc.until ≤ s.tideNs then s.finish e.id (stOk, 0) 0 0
  else s.modEntry e.id fun x => { x with readyAt := some s.now }

/-- WAIT_TIME (R108). -/
def execWaitTime (r : Fin 128) (s : State) : Host.Outcome State Fault Refusal :=
  .next (s.withCur r opWaitTime fun d s => s.admitStart d .plain [] id startWait)

/-- WAIT_TIME_EXPIRY (R108): at a CLK_TIME edge at or after the target. -/
def execWaitTimeExpiry (id : Nat) (s : State) : Host.Outcome State Fault Refusal :=
  match s.entry id with
  | none => .next s
  | some e =>
    if e.desc.opcode = opWaitTime ∧ e.readyAt.isSome ∧ s.now % 6 = 0 ∧ e.desc.until ≤ s.tideNs
    then .next (s.finish id (stOk, 0) 0 0)
    else .next s

/-! ### OBJ_ALLOC -/

/-- The tiles an OBJ_ALLOC asks for (R124). -/
def Desc.allocTiles (d : Desc) : Nat := tileCount (d.f 2 3 0) (d.f 2 15 8) (d.f 3 15 0) (d.f 3 31 16) (d.w 4)

/-- OBJ_ALLOC at its start (R100, R101, R125, R126). -/
def startAlloc (e : Entry) (s : State) : State :=
  let d := e.desc
  match s.allocFails d.fn d.allocTiles with
  | some reason => s.finish e.id (noSpace reason) 0 0
  | none =>
    let r := s.create d.fn (d.f 2 3 0) (d.f 2 7 4) (d.f 2 15 8) (d.f 3 15 0) (d.f 3 31 16) (d.w 4) d.flag21
    r.2.finish e.id (stOk, 0) r.1 0

/-- OBJ_ALLOC (R100, R101). -/
def execObjAlloc (r : Fin 128) (s : State) : Host.Outcome State Fault Refusal :=
  .next (s.withCur r opObjAlloc fun d s => s.admitStart d .plain [] id startAlloc)

/-! ### OBJ_FREE -/

/-- A displayed scene still uses the object (R101). -/
def State.displayed (s : State) (h : Nat) : Bool := s.ports.any fun e => e.2.presents.any fun v => decide (v.1 = h)

/-- OBJ_FREE at its start (R101, R122). -/
def startFree (e : Entry) (s : State) : State :=
  let h := e.desc.w 2
  let deferred := s.displayed h
  (s.releaseObj h).finish e.id (stOk, bit deferred) 0 0

/-- OBJ_FREE (R101): the handle is invalid for every descriptor accepted after it. -/
def execObjFree (r : Fin 128) (s : State) : Host.Outcome State Fault Refusal :=
  .next (s.withCur r opObjFree fun d s =>
    s.admitStart d .plain [] (fun t => t.modObj (d.w 2) fun o => { o with freeing := some s.nextId }) startFree)

/-! ### OBJ_WRITE -/

/-- The bytes an OBJ_WRITE or OBJ_READ moves: up to the end of the object (R101). -/
def moveLength (o : Obj) (d : Desc) : Nat := min (d.w 6) (o.layout - d.w 3)

/-- Tiles reserved for the entry's writes of one surface (R134). -/
def Entry.tilesOf (e : Entry) (h : Nat) : List (Nat × Nat × Nat) := e.tiles.filter fun t => t.1 = h

/-- OBJ_WRITE at its start: a plate surface gets its fresh tiles (R134), then the source is read. -/
def startWrite (e : Entry) (s : State) : State :=
  let d := e.desc
  match s.objOf (d.w 2) with
  | none => s.finish e.id (stBadHandle, det 0 2) 0 0
  | some o =>
    let n := moveLength o d
    let ts := if o.cls = 0 then o.byteTiles (d.w 3) n else []
    match (if o.cls = 0 then s.reserveFails o ts.length else none) with
    | some reason => s.finish e.id (noSpace reason) 0 0
    | none =>
      let r := if o.cls = 0 then s.reserve o ts else ([], s)
      let s := (r.2.start e.id (.write o.handle (e.versionOf o.handle))).modEntry e.id fun x => { x with tiles := r.1 }
      if n = 0 ∨ e.mirrored then s else s.emit (.readRequest d.fn (d.addr 4) n (.job e.id))

/-- OBJ_WRITE (R101): it names its surface, which gets a version number (R129). -/
def execObjWrite (r : Fin 128) (s : State) : Host.Outcome State Fault Refusal :=
  .next (s.withCur r opObjWrite fun d s => s.admitStart d .plain [d.w 2] id startWrite)

/-- No FENCE that covers both stands between two accepted descriptors (R107). -/
def State.unfenced (s : State) (x e : Entry) : Bool :=
  !(s.ledger.any fun f => decide (min x.id e.id < f.id) && decide (f.id < max x.id e.id) && f.desc.fences x.fn x.desc.ring &&
    f.desc.fences e.fn e.desc.ring)

/-- The descriptors in flight that write or read the object and that no rule orders with `e`: those of other rings, no FENCE between
(R109, R429). -/
def State.rivals (s : State) (e : Entry) (h : Nat) : List Entry :=
  s.ledger.filter fun x => decide (x.desc.ring ≠ e.desc.ring) && (x.writes ++ x.reads).contains h && s.unfenced x e

/-- A run of words holds a word of an object. -/
def spansHold (xs : List (Nat × Nat × Nat)) (h w : Nat) : Bool :=
  xs.any fun x => decide (x.1 = h) && decide (x.2.1 ≤ w) && decide (w < x.2.1 + x.2.2)

/-- Of the words an entry writes, those that a rival has written too (R109). -/
def State.contested (s : State) (e : Entry) (h : Nat) (spans : List (Nat × Nat)) : List Nat :=
  let rs := s.rivals e h
  let own := ((s.entry e.id).map (·.shared)).getD []
  (spans.flatMap fun x => (List.range x.2).map fun i => x.1 + i).filter fun w =>
    spansHold own h w || rs.any fun x => spansHold x.wrote h w

/-- Of contested words, those that keep the value they have: each by a choice of its own (R109, log 64). -/
def Obj.keepWords (o : Obj) (seed : Nat) (bytes : Tab Byte) (ws : List Nat) : Tab Byte :=
  ws.foldl (fun t w =>
    if Config.wordChoice seed w then
      writeBytes o.fill t (4 * w) ((List.range 4).map fun i => contentByte o.fill o.content (4 * w + i))
    else t) bytes

/-- Put new content into an object that is no plate surface; the entry has written the given runs of words, as (first word, count)
(R109, R138, R143). -/
def State.putWords (s : State) (e : Entry) (o : Obj) (bytes : Tab Byte) (spans : List (Nat × Nat)) : State :=
  let h := o.handle
  let ids := (s.rivals e h).map (·.id)
  let bytes := o.keepWords s.fresh bytes (s.contested e h spans)
  let runs := spans.map fun x => (h, x.1, x.2)
  let s := { s with
    fresh := s.fresh + 1
    ledger := s.ledger.map fun (x : Entry) =>
      if x.id = e.id then { x with wrote := x.wrote ++ runs }
      else if ids.contains x.id then { x with shared := x.shared ++ runs } else x }
  let s := s.modObj h fun y => y.setContent bytes
  ((spans.flatMap fun x => o.storageOf (4 * x.1) (4 * x.2)).eraseDups).foldl State.rehome s

/-- The words that bytes [off, off + len) of a host layout lie in. -/
def wordSpan (off len : Nat) : Nat × Nat := (off / 4, if len = 0 then 0 else (off + len - 1) / 4 + 1 - off / 4)

/-- Put the outcome of a write into its object: the version of a plate surface (R129, R131), or the content in place and
the mark of R400. `written` are the plate tiles written, `spans` the words. -/
def State.settle (s : State) (e : Entry) (o : Obj) (status : Nat) (bytes : Tab Byte) (written : List Nat)
    (spans : List (Nat × Nat)) : State :=
  if o.cls = 0 then
    let valid := decide (status = stOk) || decide (status = stTruncated)
    s.setObj (o.addVersion (o.newVersion (e.versionOf o.handle) valid bytes written (e.tilesOf o.handle)))
  else (s.putWords e o bytes spans).modObj o.handle fun y => { y with invalid := markAfter status y.invalid }

/-- Status of a move: a failed read, the object's end, or OK (R101, R600). -/
def moveStatus (n asked : Nat) (fail : Option ReadFail) : Fail := match fail with
  | some f => timeoutOf f
  | none => if n < asked then (stTruncated, 0) else (stOk, 0)

/-- The object a running writer names has been lost since its start: it takes no further content (R131, R146). -/
def Obj.lostAt (o : Obj) (word : Nat) : Option Fail := o.lost.map fun r => (stDataLost, det r word)

/-- An OBJ_WRITE finishes with what host memory returned (R101, R132, R600). -/
def State.writeDone (s : State) (e : Entry) (data : HostRead) : State :=
  let d := e.desc
  match s.objOf (d.w 2) with
  | none => s.finish e.id (stBadHandle, det 0 2) 0 0
  | some o => match o.lostAt 2 with
    | some f => s.finish e.id f 0 0
    | none =>
      let n := moveLength o d
      let bs := data.bytes.take n
      let f := moveStatus n (d.w 6) data.fail
      let s := s.logData d 0 bs
      let s := s.settle e o f.1 (writeBytes o.fill o.content (d.w 3) bs) (o.byteTiles (d.w 3) bs.length)
        [wordSpan (d.w 3) bs.length]
      s.finish e.id f bs.length (if o.cls = 0 then e.versionOf o.handle else 0)

/-- OBJ_WRITE_DONE (R101, R132). -/
def execObjWriteDone (id : Nat) (data : HostRead) (s : State) : Host.Outcome State Fault Refusal :=
  match s.entry id with
  | none => .next s
  | some e => if e.desc.opcode = opObjWrite ∧ e.started then .next (s.writeDone e data) else .next s

/-! ### OBJ_READ -/

/-- The bytes of an object from `off` that a running reader took at its start, each word that a descriptor of another ring has written since
being as it was before that write or as it is now (R109, R429, log 64). -/
def State.seen (s : State) (e : Entry) (o : Obj) (off : Nat) (bs : List Byte) : List Byte :=
  if o.cls = 0 then bs
  else bs.mapIdx fun i b =>
    let w := (off + i) / 4
    if spansHold e.shared o.handle w && Config.wordChoice s.fresh w then o.byte (off + i) else b

/-- OBJ_READ at its start: the data as the object stands now (R101). -/
def startRead (e : Entry) (s : State) : State :=
  match s.objOf (e.desc.w 2) with
  | none => s.finish e.id (stBadHandle, det 0 2) 0 0
  | some o => s.start e.id (.read (o.read (e.desc.w 3) (moveLength o e.desc)))

/-- OBJ_READ (R101). -/
def execObjRead (r : Fin 128) (s : State) : Host.Outcome State Fault Refusal :=
  .next (s.withCur r opObjRead fun d s => s.admitStart d .plain [] id startRead)

/-! ### Lost objects (R145) -/

/-- The object that holds a tile, or for which a descriptor in flight has reserved it. -/
def State.tileOwner (s : State) (t : Nat) : Option Obj :=
  match s.objs.find? fun e => e.2.tilesHeld.contains t with
  | some e => some e.2
  | none => (s.ledger.flatMap (·.tiles)).findSome? fun x => if x.2.2 = t then s.objOf x.1 else none

/-- An object is lost (R145): reason 1 an unreadable tile, 2 no room; counted and reported once. -/
def State.loseObj (s : State) (c reason : Nat) (o : Obj) : State :=
  if o.lost.isSome then s
  else
    let s := s.setObj { o with lost := some reason }
    let s := { s with harb := { s.harb with lostCount := satNat (s.harb.lostCount + 1) 255 } }
    s.raise (err 2 0x02 0x01 c o.handle reason 0)

/-- A tile of a channel cannot be read any more (R143). -/
def State.loseTile (s : State) (c reason t : Nat) : State :=
  let s := { s with harb := { s.harb with unreadable := s.harb.unreadable ++ [t] } }
  match s.tileOwner t with
  | some o => s.loseObj c reason o
  | none => s

/-- A read of an object met an uncorrectable error: of the tiles it read on a channel that is being retired, one is unreadable from now
on, which one being the device's (R143, R145, log 3). -/
def State.noteUnreadable (s : State) (ts : List Nat) : State :=
  let on := ts.filter fun t => match tabFind s.harb.places t with
    | some (.dram c) => decide ((s.chan c).phase = .retiring) && !(s.harb.unreadable.contains t)
    | _ => false
  if on.isEmpty then s
  else
    let t := on.getD (Config.freeIndex s.fresh % on.length) 0
    let c := match tabFind s.harb.places t with
      | some (.dram c) => c.val
      | _ => 0
    { s with fresh := s.fresh + 1 }.loseTile c 1 t

/-- The storage tiles an OBJ_READ reads. -/
def State.readTiles (s : State) (d : Desc) : List Nat := match s.objOf (d.w 2) with
  | none => []
  | some o =>
    if o.cls = 0 then (o.byteTiles (d.w 3) (d.w 6)).map fun i => (((o.newest).map (·.tiles)).getD []).getD i 0
    else o.storageOf (d.w 3) (moveLength o d)

/-- An OBJ_READ finishes: its data are written to host memory before its completion record (R101, R110); data read
poisoned are delivered as read, with CHECK_MISMATCH (R452). -/
def State.readDone (s : State) (e : Entry) (bs : List Byte) (poisonedRead : Bool) : State :=
  let d := e.desc
  let bs := match s.objOf (d.w 2) with
    | some o => s.seen e o (d.w 3) bs
    | none => bs
  let s := if poisonedRead then s.draw.noteUnreadable (s.draw.readTiles d) else s.draw
  let s := if bs.isEmpty || s.flt.fatalHold then s
    else s.emit (.data d.fn (d.addr 4) bs (s.cplAddr d))
  let f : Fail := if poisonedRead then (stCheckMismatch, det 8 0)
    else if bs.length < d.w 6 then (stTruncated, 0) else (stOk, 0)
  s.finish e.id f bs.length 0

/-- OBJ_READ_DONE (R101, R110, R111, R116). -/
def execObjReadDone (id : Nat) (poisonedRead : Bool) (s : State) : Host.Outcome State Fault Refusal :=
  match s.entry id with
  | none => .next s
  | some e => match e.job with
    | .read bs => .next (s.readDone e bs poisonedRead)
    | _ => .next s

end Sys2Proof.Machine
end

