-- ==== Sys2Proof/Machine/Scaler.lean ====
section
/-! DEFINITION. PLATE_LOAD: its checks (R176, R179, R604, R66), strips and line buffers (R139, R184), coefficient sets
(R181 to R183), filtering (R177, R178), the re-encoding of destination blocks (R412, R603), and the eight scalers
(R175). -/

namespace Sys2Proof.Machine

/-! ### Destination blocks (R412, R603) -/

/-- Write block `n` of a line that starts at `base`; the blocks that fill out the line's last group are zero blocks
(R59, R61). -/
def putBlock (fill : Fill) (cls lineCount : Nat) (bytes : Tab Byte) (base n : Nat) (b : Block) : Tab Byte :=
  let g := n / 3 * 3
  let old := fun i => readBlock (contentByte fill bytes) base (g + i)
  let pick := fun i => if g + i = n then b else if lineCount ≤ g + i then zeroBlock cls else old i
  writeBytes fill bytes (base + n / 3 * 60) (groupBytes [pick 0, pick 1, pick 2])

/-- The lanes of a BDB-RGBA destination block: pixel `i` of it is written by `px` or keeps its lanes from the old block;
lanes of a failing block and lanes beyond the image width are 0 (R603, R61). -/
def rgbaLanes (width n : Nat) (old : Option Block) (px : Nat → Option (Rat × Rat × Rat × Nat)) : List Lane :=
  (List.range 3).flatMap fun i =>
    let x := 3 * n + i
    match (if x < width then px x else none) with
    | some (r, g, b, a) => [.light r, .light g, .light b, .alpha a]
    | none => match (if x < width then old else none) with
      | some k => [.light (lightVal k.e (k.m.getD (4 * i) 0)), .light (lightVal k.e (k.m.getD (4 * i + 1) 0)),
                   .light (lightVal k.e (k.m.getD (4 * i + 2) 0)), .alpha (k.m.getD (4 * i + 3) 0)]
      | none => [.light 0, .light 0, .light 0, .alpha 0]

/-- The lanes of a BDB-Y destination block. -/
def maskLanes (width n : Nat) (old : Option Block) (px : Nat → Option Nat) : List Nat :=
  (List.range 12).map fun i =>
    let x := 12 * n + i
    match (if x < width then px x else none) with
    | some a => a
    | none => match (if x < width then old else none) with
      | some k => k.m.getD i 0
      | none => 0

/-- The old block keeps a lane: some pixel of the block inside the image is not written (R47). -/
def keepsLane (fmt width n : Nat) (written : Nat → Bool) : Bool :=
  (List.range (perBlock fmt)).any fun i =>
    decide (perBlock fmt * n + i < width) && !written (perBlock fmt * n + i)

/-! ### A job's numbers -/

def Desc.srcW (d : Desc) : Nat := d.f 6 15 0
def Desc.srcH (d : Desc) : Nat := d.f 6 31 16
def Desc.srcFormat (d : Desc) : Nat := d.f 8 7 0
def Desc.transfer (d : Desc) : Nat := d.f 8 9 8
def Desc.dstX (d : Desc) : Nat := d.f 10 15 0
def Desc.dstY (d : Desc) : Nat := d.f 10 31 16
def Desc.dstW (d : Desc) : Nat := d.f 11 15 0
def Desc.dstH (d : Desc) : Nat := d.f 11 31 16

/-- Bits of source read per pixel (R141). -/
def pixelBits (fmt : Nat) : Nat := if fmt = fmtRgba then 52 else if isBdb fmt then 12 else 8 * pixBytes fmt

/-- The pairs of R179. -/
def paired179 (dst src : Nat) : Bool :=
  (decide (dst = fmtRgba) && (isPacked src || decide (src = fmtRgba))) ||
  (decide (dst = fmtY) && (decide (src = 2) || decide (src = 4) || decide (src = 5) || decide (src = fmtY)))

/-- The word that a ratio outside [1/64, 8] names: 6 above 8, 11 below 1/64; rx is judged before ry (R176). -/
def Desc.ratioWord (d : Desc) : Option Nat :=
  if 8 * d.dstW < d.srcW then some 6
  else if 64 * d.srcW < d.dstW then some 11
  else if 8 * d.dstH < d.srcH then some 6
  else if 64 * d.srcH < d.dstH then some 11
  else none

/-- The checks of PLATE_LOAD that need no handle, in word order (R176, R604, R66, R96 step 4). -/
def Desc.loadRange (d : Desc) : Option Fail :=
  let host := decide (d.w 3 = 0)
  let known := knownFormats.contains d.srcFormat
  let zero := decide (d.dstW = 0) || decide (d.dstH = 0)
  firstFail
    [ if host then misaligned (d.w 4) 4 else none,
      outOfRange (!zero && d.ratioWord = some 6) 6,
      outOfRange (host && known && decide (d.w 7 < lineStride d.srcFormat d.srcW)) 7,
      if host then misaligned (d.w 7) 7 else none,
      outOfRange (decide (d.transfer = 3) || !known) 8,
      failIf (decide (d.srcFormat = fmtRgba) && decide (d.transfer ≠ 0)) (badDesc 4 8),
      outOfRange (zero || d.ratioWord = some 11) 11 ]

/-- The checks on the named objects, then the pairing (R604, R176, R179). -/
def State.loadObjects (s : State) (d : Desc) : Option Fail :=
  let plate := s.objOf (d.w 2)
  let src := if d.w 3 = 0 then none else s.objOf (d.w 3)
  let pw := (plate.map (·.width)).getD 0
  let ph := (plate.map (·.height)).getD 0
  firstFail
    [ failIf (decide (plate.map (·.cls) ≠ some 0)) (badDesc 4 2),
      failIf (decide (d.w 3 ≠ 0) && decide (src.map (·.cls) ≠ some 1)) (badDesc 4 3),
      outOfRange ((src.map fun o => decide (o.width < d.srcW) || decide (o.height < d.srcH)).getD false) 6,
      outOfRange (decide (pw ≤ d.dstX) || decide (ph ≤ d.dstY)) 10,
      outOfRange (decide (pw < d.dstX + d.dstW) || decide (ph < d.dstY + d.dstH)) 11,
      failIf (((src.map fun o => decide (o.format ≠ d.srcFormat)).getD false) ||
        !paired179 ((plate.map (·.format)).getD 0) d.srcFormat) (badDesc 4 8) ]

/-! ### Strips and line buffers (R139, R184) -/

/-- Source columns of a strip whose output columns are `a` to `b - 1` (R139). -/
def stripSpan (sw dw a b : Nat) : Nat :=
  let lo := a * sw / dw - (if a = 0 then 0 else 4)
  let hi := min sw (ceilDiv (b * sw) dw + (if b = dw then 0 else 4))
  hi - lo

/-- The first output column of strip `k` of `n` (R139). -/
def stripStart (dw n k : Nat) : Nat := k * (dw / n) + min k (dw % n)

/-- Source spans of the `n` strips. -/
def stripSpans (sw dw n : Nat) : List Nat :=
  (List.range n).map fun k => stripSpan sw dw (stripStart dw n k) (stripStart dw n (k + 1))

/-- The least strip count from `n` whose spans all fit in 8,192 samples (R139). -/
def stripCount (sw dw : Nat) : Nat → Nat → Nat
  | 0, n => n
  | k + 1, n => if (stripSpans sw dw n).all fun sp => decide (sp ≤ 8192) then n else stripCount sw dw k (n + 1)

def Desc.strips (d : Desc) : Nat := stripCount d.srcW d.dstW 64 1

/-- Resident lines a job needs (R184). -/
def Desc.linesNeeded (d : Desc) : Nat := 5 + max 1 (ceilDiv d.srcH d.dstH)

/-- Lines the line buffer holds for the widest strip (R184). -/
def Desc.linesHeld (d : Desc) : Nat := 49152 / ((stripSpans d.srcW d.dstW d.strips).foldl max 1)

/-- LINEBUF_LIMIT (R184). -/
def Desc.linebufFail (d : Desc) : Option Fail :=
  failIf (decide (d.linesHeld < d.linesNeeded))
    (stLinebufLimit, d.linesNeeded * 65536 + d.linesHeld % 16 * 4096 + d.strips * 16)

/-! ### Coefficient sets (R181 to R183) -/

/-- The taps of a load: horizontal taps of each phase and vertical taps of each phase. -/
structure Taps where
  h : List (List Rat)
  v : List (List Rat)

/-- The built-in linear set (R183). -/
def builtinTaps : Taps :=
  let f := fun (n i : Nat) => (List.range 64).map fun (p : Nat) => (List.range n).map fun (k : Nat) =>
    if k = i then 1 - (p : Rat) / 64 else if k = i + 1 then (p : Rat) / 64 else (0 : Rat)
  { h := f 8 3, v := f 6 2 }

/-- Lanes of a signed block. -/
def signedLanes (b : Block) (from_ n : Nat) : List Rat :=
  (List.range n).map fun k => signedVal b.e (b.m.getD (from_ + k) 0)

/-- The taps of a coefficient set (R181). -/
def setTaps (get : Nat → Byte) : Taps :=
  { h := (List.range 64).map fun p => signedLanes (readBlock get 64 p) 0 8
    v := (List.range 64).map fun p => signedLanes (readBlock get 1384 (p / 2)) (6 * (p % 2)) 6 }

/-- What is wrong with a coefficient set (R182, R58, R452). -/
def State.coefFail (s : State) (o : Obj) : Option Fail :=
  let get := o.byte
  if o.cls ≠ 4 ∨ o.size < 2044 ∨ leNat (o.read 0 4) ≠ 0x50C0EF01 ∨ leNat (o.read 4 4) ≠ 1 then some (badDesc 4 12)
  else if !(s.bytesPoisoned o 0 2044) && ((List.range 64).all fun p => (readBlock get 64 p).ok 3) && ((List.range 32).all fun p => (readBlock get 1384 p).ok 3)
  then none else some (stCheckMismatch, 0)

/-! ### Filtering (R177, R178) -/

/-- A source pixel: three premultiplied light lanes, its alpha value, and its block's saturation flag. -/
structure Texel where
  r : Rat
  g : Rat
  b : Rat
  a : Rat
  sat : Bool

/-- The converter's block for the three packed pixels of a line of `width` that hold column `x` (R63); lanes beyond the line are 0 (R61). -/
def packedBlock (get : Nat → Byte) (stride fmt transfer : Nat) (white : Rat) (width x y : Nat) : Block :=
  let n := pixBytes fmt
  normRgba ((List.range 3).flatMap fun i =>
    let x := x / 3 * 3 + i
    if x < width then
      let p := (unpackPixel fmt (leNat ((List.range n).map fun k => get (y * stride + x * n + k)))).light transfer white
      [.light p.1, .light p.2.1, .light p.2.2.1, .alpha p.2.2.2]
    else [.light 0, .light 0, .light 0, .alpha 0]) false

/-- A pixel of a block, by its column (R44, R48, R49). -/
def Block.texel (b : Block) (fmt x : Nat) : Texel :=
  if fmt = fmtRgba then
    let i := x % 3 * 4
    { r := lightVal b.e (b.m.getD i 0), g := lightVal b.e (b.m.getD (i + 1) 0), b := lightVal b.e (b.m.getD (i + 2) 0)
      a := alphaVal (b.m.getD (i + 3) 0), sat := b.sat }
  else { r := 0, g := 0, b := 0, a := alphaVal (b.m.getD (x % 12) 0), sat := b.sat }

/-- A source pixel of a packed image, after stage 1 of R67: converted and normalised with its block (R62 to R65). -/
def packedTexel (get : Nat → Byte) (stride fmt transfer : Nat) (white : Rat) (width x y : Nat) : Texel :=
  (packedBlock get stride fmt transfer white width x y).texel fmtRgba x

/-- A source pixel of a BDB image (R44, R48, R49). -/
def bdbTexel (get : Nat → Byte) (stride fmt x y : Nat) : Texel :=
  (readBlock get (y * stride) (x / perBlock fmt)).texel fmt x

/-- The position of an output coordinate in the source: first tap's centre index and phase (R177). -/
def tapAt (o src dst : Nat) : Int × Nat :=
  let x : Rat := (((2 * o + 1) * src : Nat) - (dst : Nat) : Rat) / ((2 * dst : Nat) : Rat)
  let t := rhe (64 * x)
  (t / 64, (t % 64).toNat)

/-- The nearest source index (R177). -/
def clampIdx (i : Int) (n : Nat) : Nat := (satInt i 0 (n - 1)).toNat

/-- The taps of one direction: source index and weight. -/
def tapList (o src dst before : Nat) (coef : List (List Rat)) : List (Nat × Rat) :=
  let p := tapAt o src dst
  ((coef.getD p.2 []).mapIdx fun k w => (clampIdx (p.1 - before + k) src, w))

/-- An output pixel: the exact sum over the taps (R178); taps of weight 0 contribute nothing. Whether the saturation flag of a block of the
coefficient set counts as that of an input block of R47 is the model's choice: it does not (DESIGN CHOICE, log 68). -/
def filterAt (px : Nat → Nat → Texel) (hs vs : List (Nat × Rat)) : Texel :=
  (vs.filter fun v => v.2 ≠ 0).foldl (fun acc v =>
    (hs.filter fun h => h.2 ≠ 0).foldl (fun acc h =>
      let t := px h.1 v.1
      let w := h.2 * v.2
      { r := acc.r + w * t.r, g := acc.g + w * t.g, b := acc.b + w * t.b, a := acc.a + w * t.a, sat := acc.sat || t.sat })
      acc) { r := 0, g := 0, b := 0, a := 0, sat := false }

/-- Some block that holds a texel addressed by a tap of the first `rows` output lines fails its header check (R178, R55). -/
def sourceBad (get : Nat → Byte) (stride : Nat) (d : Desc) (rows : Nat) : Bool :=
  let fmt := d.srcFormat
  let idx := fun (n src dst before taps : Nat) =>
    ((List.range n).flatMap fun o => (List.range taps).map fun (k : Nat) => clampIdx ((tapAt o src dst).1 - before + k) src).eraseDups
  let xs := ((idx d.dstW d.srcW d.dstW 3 8).map fun x => x / perBlock fmt).eraseDups
  let ys := idx rows d.srcH d.dstH 2 6
  isBdb fmt && ys.any fun y => xs.any fun n => !((readBlock get (y * stride) n).ok (fmtClass fmt))

/-- The output lines, from the first, whose source lines lie wholly in the first `len` bytes of the source (R600). -/
def Desc.rowsWithin (d : Desc) (stride len : Nat) : Nat :=
  (List.range d.dstH).findIdx fun yo => (List.range 6).any fun (j : Nat) =>
    decide (len < clampIdx ((tapAt yo d.srcH d.dstH).1 - 2 + j) d.srcH * stride + lineStride d.srcFormat d.srcW)

/-- The plate content a PLATE_LOAD writes in its first `rows` lines, line by line and block by block (R178, R603). -/
def loadContent (o : Obj) (base : Version) (d : Desc) (rows : Nat) (px : Nat → Nat → Texel) (taps : Taps) : Tab Byte :=
  let fmt := o.format
  let pb := perBlock fmt
  let inside := fun x => decide (d.dstX ≤ x) && decide (x < d.dstX + d.dstW)
  let n0 := d.dstX / pb
  let n1 := (d.dstX + d.dstW - 1) / pb
  (List.range rows).foldl (fun bytes yo =>
    let y := d.dstY + yo
    let vs := tapList yo d.srcH d.dstH 2 taps.v
    let at_ := fun x => filterAt px (tapList (x - d.dstX) d.srcW d.dstW 3 taps.h) vs
    (List.range (n1 + 1 - n0)).foldl (fun bytes k =>
      let n := n0 + k
      let old := o.block base y n
      let xs := ((List.range pb).map fun i => pb * n + i).filter fun x => inside x && decide (x < o.width)
      let sat := (xs.any fun x => (at_ x).sat) || (keepsLane fmt o.width n inside && ((old.map (·.sat)).getD false))
      let blk := if fmt = fmtRgba
        then normRgba (rgbaLanes o.width n old fun x =>
          if inside x then (let t := at_ x; some (t.r, t.g, t.b, alphaMant t.a)) else none) sat
        else alphaBlock (maskLanes o.width n old fun x => if inside x then some (alphaMant (at_ x).a) else none) sat
      putBlock o.fill (fmtClass fmt) (lineBlocks fmt o.width) bytes (y * lineStride fmt o.width) n blk) bytes) base.bytes

/-! ### The scalers (R175) -/

/-- Scalers in use. -/
def State.busyScalers (s : State) : List Nat := s.ledger.flatMap fun e => match e.job with
  | .load _ scalers _ => scalers
  | _ => []

/-- A PLATE_LOAD or strip still waits for a scaler. -/
def Entry.wantsScaler (e : Entry) : Bool := decide (e.desc.opcode = opPlateLoad) && (match e.job with
  | .load _ _ waiting => decide (0 < waiting)
  | _ => !e.started)

/-- Take a scaler for one strip of a started load: a free one, or the one an earlier strip of this load has ended on. -/
def State.nextStrip (s : State) (e : Entry) : State := match e.job with
  | .load n scalers waiting =>
    if waiting = 0 then s
    else match (List.range 8).find? fun k => !(s.busyScalers.contains k) with
      | some k => s.modEntry e.id fun x => { x with job := .load n (scalers ++ [k]) (waiting - 1) }
      | none =>
        if scalers.isEmpty then s else s.modEntry e.id fun x => { x with job := .load n scalers (waiting - 1) }
  | _ => s

/-- PLATE_LOAD at its start: line buffers (R184), fresh tiles (R134), coefficients (R182), then the first strip. -/
def startLoad (e : Entry) (s : State) : State :=
  let d := e.desc
  match s.objOf (d.w 2) with
  | none => s.finish e.id (stBadHandle, det 0 2) 0 0
  | some o =>
    match d.linebufFail with
    | some f => s.finish e.id f 0 0
    | none =>
      let ts := o.rectTiles d.dstX d.dstY (d.dstX + d.dstW - 1) (d.dstY + d.dstH - 1)
      match s.reserveFails o ts.length with
      | some reason => s.finish e.id (noSpace reason) 0 0
      | none =>
        let coef := if d.w 12 = 0 then none else s.objOf (d.w 12)
        match coef.bind s.coefFail with
        | some f => s.finish e.id f (if spoils f.1 then e.versionOf o.handle else 0) 0
        | none =>
          let r := s.reserve o ts
          let s := r.2.start e.id (.load d.strips [] d.strips)
          let s := s.modEntry e.id fun x => { x with
            tiles := r.1, work := (coef.map fun c => [(c.handle, writeBytes .zeros [] 0 (c.read 0 2044))]).getD [] }
          let s := match s.entry e.id with
            | some x => s.nextStrip x
            | none => s
          if d.w 3 = 0 ∧ ¬ e.mirrored then s.emit (.readRequest d.fn (d.addr 4) (d.w 7 * (d.srcH - 1) + lineStride d.srcFormat d.srcW) (.job e.id))
          else s

/-- PLATE_LOAD (R176, R179, R604, R66): the checks of its chapter, then acceptance. -/
def execPlateLoad (r : Fin 128) (s : State) : Host.Outcome State Fault Refusal :=
  .next (s.withCur r opPlateLoad fun d s =>
    match firstFail [d.loadRange, s.permFail d, s.handleFail d, s.loadObjects d] with
    | some f => s.reject d f
    | none => s.admitNew d .plain [d.w 2])

/-- A load or a strip of it takes a scaler (R175), jobs in ledger acceptance order. -/
def State.takeScaler (s : State) (e : Entry) : State :=
  if (s.before e).any fun x => x.wantsScaler && s.noWait x then s
  else if e.started then s.nextStrip e
  else if s.busyScalers.length < 8 then s.startIf e.id startLoad
  else s

/-- PLATE_LOAD_START (R175, R134, R184). -/
def execPlateLoadStart (id : Nat) (s : State) : Host.Outcome State Fault Refusal :=
  match s.entry id with
  | none => .next s
  | some e => if e.desc.opcode = opPlateLoad ∧ !(s.inEbb .scalers) then .next (s.takeScaler e) else .next s

/-- Where a load's source bytes are: host memory's answer, or the source image (R604). -/
def State.loadSource (s : State) (d : Desc) (data : HostRead) : (Nat → Byte) × Nat :=
  if d.w 3 = 0 then (fun i => data.bytes.getD i 0, d.w 7)
  else match s.objOf (d.w 3) with
    | some o => (o.byte, lineStride o.format o.width)
    | none => (fun _ => 0, 0)

/-- A line of the source image that the first `rows` output lines read met a poisoned read (R452). -/
def State.sourcePoisoned (s : State) (d : Desc) (rows : Nat) : Bool :=
  match (if d.w 3 = 0 then none else s.objOf (d.w 3)) with
  | none => false
  | some o => (List.range rows).any fun yo => (List.range 6).any fun (j : Nat) =>
      s.rowPoisoned o (o.newest.getD { num := 0, valid := true, bytes := [], tiles := [], unwritten := [], opacity := [] })
        (clampIdx ((tapAt yo d.srcH d.dstH).1 - 2 + j) d.srcH) 0 d.srcW

/-- The load's taps: the set read at its start, or the built-in one (R137, R183). -/
def Entry.taps (e : Entry) : Taps := match e.work with
  | (_, bs) :: _ => setTaps fun i => tabGet 0 bs i
  | [] => builtinTaps

/-- A PLATE_LOAD finishes (R58, R102, R131, R132, R141). When its host read has failed, the output lines whose source lies wholly below the
failed address are processed, and it completes TIMEOUT (R600, log 69). -/
def State.loadDone (s : State) (e : Entry) (n : Nat) (data : HostRead) : State :=
  let d := e.desc
  match s.objOf (d.w 2) with
  | none => s.finish e.id (stBadHandle, det 0 2) 0 0
  | some o => match o.lostAt 2 with
    | some f => s.finish e.id f 0 0
    | none =>
      let s := if d.w 3 = 0 then s.logData d 0 data.bytes else s
      let src := s.loadSource d data
      let fail := if d.w 3 = 0 then data.fail else none
      let rows := if fail.isSome then d.rowsWithin src.2 data.bytes.length else d.dstH
      let num := e.versionOf o.handle
      if sourceBad src.1 src.2 d rows || s.sourcePoisoned d rows then s.finish e.id (stCheckMismatch, 0) num 0
      else
        let px := if isBdb d.srcFormat then bdbTexel src.1 src.2 d.srcFormat
          else packedTexel src.1 src.2 d.srcFormat d.transfer ((d.w 9 : Rat) / 65536) d.srcW
        let base := o.newest.getD { num := 0, valid := true, bytes := [], tiles := [], unwritten := [], opacity := [] }
        let bytes := loadContent o base d rows px e.taps
        let written := if rows = 0 then [] else o.rectTiles d.dstX d.dstY (d.dstX + d.dstW - 1) (d.dstY + rows - 1)
        match fail with
        | some f => (s.settle e o stTimeout bytes written []).finish e.id (timeoutOf f) num 0
        | none =>
          (s.settle e o stOk bytes written []).finish e.id (stOk, n * 256) num ((n - 1) * d.srcH * pixelBits d.srcFormat)

/-- PLATE_LOAD_DONE (R141): every strip has had its scaler. -/
def execPlateLoadDone (id : Nat) (data : HostRead) (s : State) : Host.Outcome State Fault Refusal :=
  match s.entry id with
  | none => .next s
  | some e => match e.job with
    | .load n _ 0 => .next (s.loadDone e n data)
    | _ => .next s

end Sys2Proof.Machine
end

