-- ==== Sys2Proof/Machine/Sawyer.lean ====
section
/-! DEFINITION. The Sawyer (14_sawyer.md): checks of a list (R404 to R409), the operations on rows (R410 to R412), order,
overlap and trailing (R413 to R416), signals and WAIT_SCAN (R417, R418), and completion (R419, R420). -/

namespace Sys2Proof.Machine

/-! ### Fields of a command (R407, R408) -/

def SawyerCmd.w (c : SawyerCmd) (i : Nat) : Nat := c.words.getD i 0
def SawyerCmd.f (c : SawyerCmd) (i hi lo : Nat) : Nat := fieldOf (c.w i) hi lo
def SawyerCmd.op (c : SawyerCmd) : Nat := c.f 0 31 28
def SawyerCmd.signal (c : SawyerCmd) : Bool := decide (c.f 0 27 27 = 1)
def SawyerCmd.waitOn (c : SawyerCmd) : Nat := c.f 0 23 16
def SawyerCmd.lead (c : SawyerCmd) : Nat := c.f 1 14 0
def SawyerCmd.dst (c : SawyerCmd) : Nat := c.w 2
def SawyerCmd.dstX (c : SawyerCmd) : Nat := c.f 3 15 0
def SawyerCmd.dstY (c : SawyerCmd) : Nat := c.f 3 31 16
def SawyerCmd.width (c : SawyerCmd) : Nat := c.f 4 15 0
def SawyerCmd.height (c : SawyerCmd) : Nat := c.f 4 31 16
def SawyerCmd.src (c : SawyerCmd) : Nat := c.w 5
def SawyerCmd.srcX (c : SawyerCmd) : Nat := c.f 6 15 0
def SawyerCmd.srcY (c : SawyerCmd) : Nat := c.f 6 31 16

def sawFill : Nat := 1
def sawCopy : Nat := 2
def sawConvert : Nat := 3
def sawBlend : Nat := 4
def sawMask : Nat := 5
def sawWait : Nat := 6

/-- The op draws into an object. -/
def SawyerCmd.draws (c : SawyerCmd) : Bool := decide (1 ≤ c.op) && decide (c.op ≤ 5)

/-- The op has a source or mask. -/
def SawyerCmd.hasSrc (c : SawyerCmd) : Bool := decide (2 ≤ c.op) && decide (c.op ≤ 5)

/-- The command that sixteen words spell, not started. -/
def SawyerCmd.ofWords (ws : List Nat) : SawyerCmd :=
  { words := ws, phase := .waiting, mark := 0, signalled := false, fail := none, upward := false }

/-- The commands that a list's bytes spell, `n` of them. -/
def sawyerCmds (bs : List Byte) (n : Nat) : List SawyerCmd :=
  (List.range n).map fun i => SawyerCmd.ofWords ((List.range 16).map fun j => leAt bs (64 * i + 4 * j) 4)

/-! ### Checks (R405, R407 to R410) -/

/-- A failed check of a command: status, reason, command word. -/
abbrev CmdFail := Nat × Nat × Nat

/-- The used bits of each word (R407, R408). -/
def SawyerCmd.used (c : SawyerCmd) : List Nat :=
  let all := 0xFFFFFFFF
  let sig := [0, 0x7FFF, 0, all, all]
  let op := c.op
  if op = 6 then [0xF8FFFFFF, 0x7FFF, 0x33, all, 0, 0, 0, 0, 0, 0, 0] ++ sig
  else if op = 1 then [0xF8FFFFFF, 0x7FFF, all, all, all, 0, 0, all, all, all, 0xFFF] ++ sig
  else if op = 2 then [0xF8FFFFFF, 0x7FFF, all, all, all, all, all, 0, 0, 0, 0] ++ sig
  else if op = 3 then [0xF8FFFFFF, 0x7FFF, all, all, all, all, all, 3, all, 0, 0] ++ sig
  else if op = 4 then [0xF8FFFFFF, 0x7FFF, all, all, all, all, all, 0, 0, 0, 0xFFF] ++ sig
  else [0xF8FFFFFF, 0x7FFF, all, all, all, all, all, all, all, all, 0xFFF] ++ sig

/-- The first word with a non-zero reserved bit. -/
def SawyerCmd.reservedWord (c : SawyerCmd) : Option Nat :=
  (List.range 16).find? fun i => decide (c.w i &&& (0xFFFFFFFF ^^^ c.used.getD i 0) ≠ 0)

/-- The pairings of R410. -/
def sawPaired (op dst src : Nat) : Bool :=
  if op = 2 then decide (dst = src)
  else if op = 3 then
    (decide (dst = fmtRgba) && isPacked src) ||
    (decide (dst = fmtY) && (decide (src = 2) || decide (src = 4) || decide (src = 5))) ||
    ((decide (dst = 4) || decide (dst = 5)) && decide (src = fmtRgba))
  else if op = 4 then decide (dst = src) && isBdb dst
  else if op = 5 then decide (src = fmtY) && (decide (dst = fmtRgba) || decide (dst = fmtY))
  else true

/-- A named object of the list with an id: owned by the function, allocated, not freed before the list was accepted, not lost, of an image
class (R99, R101, R146, R409). -/
def State.imageFail (s : State) (id fn h word : Nat) : Option CmdFail :=
  if handleFn h ≠ fn then some (stPermission, 2, word)
  else match s.objFor id h with
    | none => some (stBadHandle, 0, word)
    | some o => match o.lost with
      | some r => some (stDataLost, r, word)
      | none => if imageClass o.cls then none else some (stBadDesc, 4, word)

/-- The first of several checks of a command that fails. -/
def firstCmdFail (xs : List (Option CmdFail)) : Option CmdFail := xs.findSome? id

def cmdFailIf (c : Bool) (f : CmdFail) : Option CmdFail := if c then some f else none

/-- Checks of a command's own words. -/
def SawyerCmd.wordFail (c : SawyerCmd) : Option CmdFail :=
  let bad := fun (b : Bool) (w : Nat) => cmdFailIf b (stBadDesc, 3, w)
  let rect := fun n => decide (n = 0) || decide (16384 < n)
  firstCmdFail
    [ cmdFailIf (decide (c.op = 0) || decide (7 ≤ c.op)) (stBadDesc, 1, 0),
      c.reservedWord.map fun w => (stBadDesc, 2, w),
      bad (decide (c.waitOn ≠ 0) && decide (16384 < c.lead)) 1,
      bad (decide (c.op = 6) && decide (8192 ≤ c.w 3)) 3,
      bad (c.draws && (rect c.width || rect c.height)) 4,
      bad (decide (c.op = 3) && decide (c.f 7 1 0 = 3)) 7,
      bad (c.signal && (decide (c.f 12 14 0 = 0) || decide (c.height < c.f 12 14 0))) 12,
      cmdFailIf (c.signal && decide (c.w 14 % 16 ≠ 0)) (stBadDesc, 6, 14) ]

/-- Checks of a command's objects and rectangles (R405, R409, R410). `given` are the surfaces with a version number. -/
def State.cmdObjects (s : State) (e fn : Nat) (given : List Nat) (c : SawyerCmd) : Option CmdFail :=
  let d := s.objOf c.dst
  let r := s.objOf c.src
  let dw := (d.map (·.width)).getD 0
  let dh := (d.map (·.height)).getD 0
  let sw := (r.map (·.width)).getD 0
  let sh := (r.map (·.height)).getD 0
  let df := (d.map (·.format)).getD 0
  let sf := (r.map (·.format)).getD 0
  if !c.draws then none
  else firstCmdFail
    [ s.imageFail e fn c.dst 2,
      cmdFailIf (decide (d.map (·.cls) = some 0) && !given.contains c.dst) (stBadDesc, 4, 2),
      if c.hasSrc then s.imageFail e fn c.src 5 else none,
      cmdFailIf (decide (dw ≤ c.dstX) || decide (dh ≤ c.dstY)) (stBadDesc, 3, 3),
      cmdFailIf (decide (dw < c.dstX + c.width) || decide (dh < c.dstY + c.height)) (stBadDesc, 3, 4),
      cmdFailIf (c.hasSrc && (decide (sw < c.srcX + c.width) || decide (sh < c.srcY + c.height))) (stBadDesc, 3, 6),
      cmdFailIf (c.hasSrc && !sawPaired c.op df sf) (stBadDesc, 4, 5),
      cmdFailIf (decide (c.op = 1) && isPacked df && decide (2 ^ (8 * pixBytes df) ≤ c.w 7)) (stBadDesc, 2, 7) ]

/-- wait_on names an earlier command of the list that is no WAIT_SCAN (R415). -/
def trailFail (cmds : List SawyerCmd) (i : Nat) (c : SawyerCmd) : Option CmdFail :=
  if c.waitOn = 0 then none
  else cmdFailIf (decide (i < c.waitOn) || decide ((cmds.getD (i - c.waitOn) c).op = 6)) (stBadDesc, 4, 0)

/-- The first failing command: its index in the run and its failure (R405). -/
def State.listFail (s : State) (e fn : Nat) (given : List Nat) (cmds : List SawyerCmd) : Option (Nat × CmdFail) :=
  (cmds.mapIdx fun i c => (firstCmdFail [c.wordFail, s.cmdObjects e fn given c, trailFail cmds i c]).map fun f => (i, f)).findSome? id

/-! ### Acceptance (R404, R129) -/

def Desc.listCount (d : Desc) : Nat := d.f 5 16 0
def Desc.listFirst (d : Desc) : Nat := d.f 6 15 0

/-- The checks on a list object (R404). -/
def State.listObject (s : State) (d : Desc) : Option Fail :=
  if d.w 2 = 0 then none
  else match s.objOf (d.w 2) with
    | none => none
    | some o => firstFail [failIf (decide (o.cls ≠ 6)) (badDesc 4 2),
        failIf (decide (o.size < 64 * (d.listFirst + d.listCount))) (badDesc 3 6)]

/-- The commands of a list as it stands: in its object, or as host memory answered (R404, R405). -/
def State.listCmds (s : State) (d : Desc) (list : HostRead) : List SawyerCmd :=
  let bs := if d.w 2 = 0 then list.bytes else match s.objOf (d.w 2) with
    | some o => o.read (64 * d.listFirst) (64 * d.listCount)
    | none => []
  sawyerCmds bs d.listCount

/-- A list in host memory is read (R24, R25, R404). -/
def State.askList (s : State) (d : Desc) : State :=
  if d.w 2 = 0 then s.emit (.readRequest d.fn (d.addr 3 + 64 * d.listFirst) (64 * d.listCount) (.table d.ring)) else s

/-- The surfaces a list writes: the dst of its drawing commands that are the function's own objects (R129). -/
def listSurfaces (fn : Nat) (cmds : List SawyerCmd) : List Nat :=
  ((cmds.filter fun c => c.draws && decide (handleFn c.dst = fn)).map fun c => c.dst).eraseDups

/-- SAWYER_LIST (R404, R129): the list's op and dst words are read at acceptance. -/
def execSawyerList (r : Fin 128) (list : HostRead) (s : State) : Host.Outcome State Fault Refusal :=
  .next (s.withCur r opSawyerList fun d s =>
    match s.listObject d, (if d.w 2 = 0 then list.fail else none) with
    | some f, _ => s.reject d f
    | none, some f => (s.askList d).reject d (timeoutOf f)
    | none, none =>
      let s := s.askList d
      let cmds := s.listCmds d list
      let s := s.admitNew d (.sawyer cmds) (listSurfaces d.fn cmds)
      if d.w 2 = 0 then s.logData d 0 list.bytes else s)

/-! ### The start (R405, R134) -/

/-- Plate tiles of a command's destination rectangle. -/
def SawyerCmd.tiles (o : Obj) (c : SawyerCmd) : List Nat :=
  o.rectTiles c.dstX c.dstY (c.dstX + c.width - 1) (c.dstY + c.height - 1)

/-- The union of a surface's destination rectangles in a list (R134). -/
def listTiles (o : Obj) (cmds : List SawyerCmd) : List Nat :=
  ((cmds.filter fun c => c.draws && decide (c.dst = o.handle)).flatMap (SawyerCmd.tiles o)).eraseDups

/-- Reserve fresh tiles for each surface in turn, each beside those of the surfaces before it; the reason if one fails (R134). -/
def reserveAll (id : Nat) (cmds : List SawyerCmd) : List Nat → State → Except Nat State
  | [], s => .ok s
  | h :: hs, s => match s.objOf h with
    | none => reserveAll id cmds hs s
    | some o =>
      let ts := listTiles o cmds
      match s.reserveFails o ts.length with
      | some reason => .error reason
      | none =>
        let r := s.reserve o ts
        reserveAll id cmds hs (r.2.modEntry id fun x => { x with tiles := x.tiles ++ r.1 }).peaks

/-- The contents a list works on: every plate it names as it stands at the start (R416). -/
def State.listWork (s : State) (cmds : List SawyerCmd) : List (Nat × Tab Byte) :=
  let hs := (cmds.flatMap fun c => (if c.draws then [c.dst] else []) ++ (if c.hasSrc then [c.src] else [])).eraseDups
  hs.filterMap fun h => match s.objOf h with
    | some o => if o.cls = 0 then some (h, o.content) else none
    | none => none

/-- A source marked invalid ends the list with CHECK_MISMATCH (R400). -/
def State.listInvalid (s : State) (cmds : List SawyerCmd) : Bool :=
  cmds.any fun c => c.hasSrc && ((s.objOf c.src).map (·.invalid)).getD false

/-- A SAWYER_LIST starts (R405, R131, R134). -/
def startSawyer (list : HostRead) (e : Entry) (s : State) : State :=
  let d := e.desc
  let s := if e.mirrored then s else s.askList d
  match (if d.w 2 = 0 then list.fail else none) with
  | some f => s.finish e.id (timeoutOf f) 0 0
  | none =>
    let cmds := s.listCmds d list
    let s := if d.w 2 = 0 then s.logData d 0 list.bytes else s
    match s.listFail e.id d.fn (e.versions.map (·.1)) cmds with
    | some (i, f) =>
      (s.count 0xD00C 15 0 1).finish e.id (f.1, f.2.1 * 65536 + 4096 + f.2.2) 0 (d.listFirst + i)
    | none =>
      if s.listInvalid cmds then s.finish e.id (stCheckMismatch, 0) 0 0
      else match reserveAll e.id cmds (e.versions.map (·.1)) s with
        | .error reason => s.finish e.id (noSpace reason) 0 0
        | .ok t => (t.start e.id (.sawyer cmds)).modEntry e.id fun x => { x with work := t.listWork cmds }

/-- SAWYER_LIST_START (R405). -/
def execSawyerListStart (id : Nat) (list : HostRead) (s : State) : Host.Outcome State Fault Refusal :=
  match s.entry id with
  | none => .next s
  | some e => if e.desc.opcode = opSawyerList ∧ !(s.inEbb .sawyer) then .next (s.startIf id (startSawyer list)) else .next s

/-! ### Starting a command (R413, R415, R419) -/

/-- Two rectangles of one object meet. -/
def rectMeets (h x y w k h' x' y' w' k' : Nat) : Bool :=
  decide (h = h') && decide (x < x' + w') && decide (x' < x + w) && decide (y < y' + k') && decide (y' < y + k)

/-- The destination of one meets a destination, source or mask rectangle of the other (R413). -/
def SawyerCmd.overlaps (a b : SawyerCmd) : Bool :=
  a.draws && b.draws &&
  (rectMeets a.dst a.dstX a.dstY a.width a.height b.dst b.dstX b.dstY b.width b.height ||
   (b.hasSrc && rectMeets a.dst a.dstX a.dstY a.width a.height b.src b.srcX b.srcY b.width b.height) ||
   (a.hasSrc && rectMeets a.src a.srcX a.srcY a.width a.height b.dst b.dstX b.dstY b.width b.height))

def SawyerCmd.finished (c : SawyerCmd) : Bool := decide (c.phase = .done)

/-- Rows of `a` that `b`, trailing it, needs before its row `r` (R415). -/
def SawyerCmd.trailOk (a b : SawyerCmd) (r : Nat) : Bool :=
  if b.lead = 0 then a.finished else a.finished || decide (min a.height (r + b.lead) ≤ a.mark)

/-- Command `k` of a list may start: every earlier command has started, every earlier one that overlaps it has completed
but the one it trails, no WAIT_SCAN is left before it, and none has failed (R413, R415, R418, R420). -/
def mayStart (cmds : List SawyerCmd) (k : Nat) : Bool :=
  match cmds[k]? with
  | none => false
  | some b =>
    let earlier := (cmds.take k).mapIdx fun i a => (i, a)
    decide (b.phase = .waiting) && !(cmds.any fun c => decide (c.phase = .failed)) &&
    earlier.all fun x =>
      decide (x.2.phase ≠ .waiting) && (decide (x.2.op ≠ 6) || x.2.finished) &&
      (if b.waitOn ≠ 0 ∧ x.1 + b.waitOn = k then x.2.trailOk b 0
       else !(x.2.overlaps b) || x.2.finished)

/-- Commands of an entry that run. -/
def Entry.sawRunning (e : Entry) : Nat := match e.job with
  | .sawyer cmds => if e.started then (cmds.filter fun c => decide (c.phase = .running)).length else 0
  | _ => 0

/-- Places in use (R419). -/
def State.sawBusy (s : State) : Nat := (s.ledger.map Entry.sawRunning).sum

/-- An entry has a command that may start. -/
def Entry.sawReady (e : Entry) : Bool := match e.job with
  | .sawyer cmds => e.started && (List.range cmds.length).any (mayStart cmds)
  | _ => false

/-- The commands of an entry. -/
def Entry.cmds (e : Entry) : List SawyerCmd := match e.job with
  | .sawyer cmds => cmds
  | _ => []

/-- Replace one command of an entry. -/
def State.modCmd (s : State) (id k : Nat) (f : SawyerCmd → SawyerCmd) : State :=
  s.modEntry id fun e => { e with job := .sawyer (e.cmds.mapIdx fun i c => if i = k then f c else c) }

/-- Rows go bottom to top when source and destination meet and dy > 0 (R414). -/
def SawyerCmd.upwardNow (c : SawyerCmd) : Bool :=
  (decide (c.op = 2) || decide (c.op = 3) || decide (c.op = 4)) && decide (c.srcY < c.dstY) &&
  rectMeets c.dst c.dstX c.dstY c.width c.height c.src c.srcX c.srcY c.width c.height

/-- Command `k` of list `id` takes one of the four places (R419). -/
def State.sawTake (s : State) (id k op : Nat) : State :=
  match s.entry id with
  | none => s
  | some e =>
    if e.started ∧ !(s.inEbb .sawyer) ∧ s.sawBusy < 4 ∧ mayStart e.cmds k ∧ (e.cmds[k]?.map (·.op)) = some op ∧
       ¬ ((s.before e).any Entry.sawReady)
    then s.modCmd id k fun c => { c with phase := .running, upward := c.upwardNow }
    else s

/-- FILL starts (R410). -/
def execFill (id k : Nat) (s : State) : Host.Outcome State Fault Refusal := .next (s.sawTake id k sawFill)
/-- COPY starts (R410, R414). -/
def execCopy (id k : Nat) (s : State) : Host.Outcome State Fault Refusal := .next (s.sawTake id k sawCopy)
/-- CONVERT starts (R410, R411). -/
def execConvert (id k : Nat) (s : State) : Host.Outcome State Fault Refusal := .next (s.sawTake id k sawConvert)
/-- BLEND starts (R410). -/
def execBlend (id k : Nat) (s : State) : Host.Outcome State Fault Refusal := .next (s.sawTake id k sawBlend)
/-- MASK_FILL starts (R410). -/
def execMaskFill (id k : Nat) (s : State) : Host.Outcome State Fault Refusal := .next (s.sawTake id k sawMask)

/-! ### One row (R410 to R412, R414) -/

/-- An image as a list sees it: a plate's working content with the tiles still never written, or an object in place. -/
structure Img where
  obj : Obj
  v   : Version
  /-- Blocks that read as failing their header check, by line and number, and rows whose read was poisoned, by line, column and width (R452). -/
  bad    : Nat → Nat → Bool
  badRow : Nat → Nat → Nat → Bool

/-- The image behind a handle while the entry runs (R416). -/
def State.img (s : State) (e : Entry) (h : Nat) : Option Img := match s.objOf h with
  | none => none
  | some o =>
    let v := o.newest.getD { num := 0, valid := true, bytes := [], tiles := [], unwritten := [], opacity := [] }
    if o.cls = 0 then
      let bytes := match e.work.find? fun x => x.1 = h with
        | some x => x.2
        | none => v.bytes
      let touched := (e.cmds.filter fun c => c.draws && decide (c.dst = h) && decide (0 < c.mark)).flatMap (SawyerCmd.tiles o)
      some { obj := o, v := { v with bytes := bytes, unwritten := v.unwritten.filter fun t => !(touched.contains t) }
             bad := s.blockPoisoned o v, badRow := s.rowPoisoned o v }
    else some { obj := o, v := { v with unwritten := [] }, bad := s.blockPoisoned o v, badRow := s.rowPoisoned o v }

/-- A byte of an image. -/
def Img.byte (i : Img) (off : Nat) : Byte := contentByte i.obj.fill i.v.bytes off

/-- A block of an image, none when its header check fails or its read was poisoned (R55, R452). -/
def Img.block (i : Img) (y n : Nat) : Option Block := if i.bad y n then none else i.obj.block i.v y n

/-- A block of an image without its header check (R56). -/
def Img.rawBlock (i : Img) (y n : Nat) : Block := i.obj.rawBlock i.v.bytes y n

def Img.stride (i : Img) : Nat := lineStride i.obj.format i.obj.width

/-- The block that holds a pixel of a BDB image. -/
def Img.blockAt (i : Img) (x y : Nat) : Option Block := i.block y (x / perBlock i.obj.format)

/-- Light and alpha mantissa of a pixel of a BDB-RGBA block. -/
def rgbaOf (b : Block) (x : Nat) : Rat × Rat × Rat × Nat :=
  let i := x % 3 * 4
  (lightVal b.e (b.m.getD i 0), lightVal b.e (b.m.getD (i + 1) 0), lightVal b.e (b.m.getD (i + 2) 0), b.m.getD (i + 3) 0)

/-- The mask lane of a pixel of a BDB-Y block. -/
def maskOf (b : Block) (x : Nat) : Nat := b.m.getD (x % 12) 0

/-- A packed pixel's bits. -/
def Img.packed (i : Img) (x y : Nat) : Nat :=
  let n := pixBytes i.obj.format
  leNat ((List.range n).map fun k => i.byte (y * i.stride + x * n + k))

/-- Premultiplied constant colour of FILL and MASK_FILL (R408). -/
def SawyerCmd.colour (c : SawyerCmd) : Rat × Rat × Rat :=
  ((c.w 7 : Rat) / 65536, (c.w 8 : Rat) / 65536, (c.w 9 : Rat) / 65536)

/-- A row at work: the command, its destination and source, and the rows in both. -/
structure RowJob where
  cmd : SawyerCmd
  dst : Img
  src : Option Img
  y   : Nat
  sy  : Nat

/-- The source column of a destination column. -/
def RowJob.sx (r : RowJob) (x : Nat) : Nat := r.cmd.srcX + (x - r.cmd.dstX)

/-- The source block of a destination column. -/
def RowJob.srcBlock (r : RowJob) (x : Nat) : Option Block := r.src.bind fun i => i.blockAt (r.sx x) r.sy

/-- Source-over of one lane: s + (1 − k) d (R410). -/
def sourceOver (s k d : Rat) : Rat := s + (1 - k) * d

/-- The BDB-RGBA pixel a row writes at column `x`, given the destination pixel (R410). -/
def RowJob.rgba (r : RowJob) (x : Nat) (old : Rat × Rat × Rat × Nat) : Option (Rat × Rat × Rat × Nat) :=
  let c := r.cmd
  let col := c.colour
  if c.op = 1 then some (col.1, col.2.1, col.2.2, c.f 10 11 0)
  else if c.op = 2 then (r.srcBlock x).map fun b => rgbaOf b (r.sx x)
  else if c.op = 3 then r.src.map fun i =>
    (unpackPixel i.obj.format (i.packed (r.sx x) r.sy)).light (c.f 7 1 0) ((c.w 8 : Rat) / 65536)
  else if c.op = 4 then (r.srcBlock x).map fun b =>
    let p := rgbaOf b (r.sx x)
    let f := alphaVal (c.f 10 11 0)
    let k := f * alphaVal p.2.2.2
    (sourceOver (f * p.1) k old.1, sourceOver (f * p.2.1) k old.2.1, sourceOver (f * p.2.2.1) k old.2.2.1, alphaMant (sourceOver k k (alphaVal old.2.2.2)))
  else (r.srcBlock x).map fun b =>
    let m := alphaVal (maskOf b (r.sx x))
    let k := m * alphaVal (c.f 10 11 0)
    (sourceOver (m * col.1) k old.1, sourceOver (m * col.2.1) k old.2.1, sourceOver (m * col.2.2) k old.2.2.1, alphaMant (sourceOver k k (alphaVal old.2.2.2)))

/-- The BDB-Y pixel a row writes at column `x`, given the destination mask (R410). -/
def RowJob.mask (r : RowJob) (x old : Nat) : Option Nat :=
  let c := r.cmd
  if c.op = 1 then some (c.f 10 11 0)
  else if c.op = 2 then (r.srcBlock x).map fun b => maskOf b (r.sx x)
  else if c.op = 3 then r.src.map fun i => (unpackPixel i.obj.format (i.packed (r.sx x) r.sy)).alpha
  else (r.srcBlock x).map fun b =>
    let a := alphaVal (maskOf b (r.sx x))
    let f := alphaVal (c.f 10 11 0)
    alphaMant (sourceOver (f * a) (f * a) (alphaVal old))

/-- The op reads destination lanes inside the rectangle (R603). -/
def SawyerCmd.readsDst (c : SawyerCmd) : Bool := decide (c.op = 4) || decide (c.op = 5)

/-- Columns of block `n` that the rectangle writes. -/
def RowJob.cols (r : RowJob) (n : Nat) : List Nat :=
  let pb := perBlock r.dst.obj.format
  ((List.range pb).map fun i => pb * n + i).filter fun x =>
    decide (r.cmd.dstX ≤ x) && decide (x < r.cmd.dstX + r.cmd.width) && decide (x < r.dst.obj.width)

/-- Saturation flag of the source blocks that contribute (R47). -/
def RowJob.srcSat (r : RowJob) (xs : List Nat) : Bool := match r.src with
  | some i => isBdb i.obj.format && xs.any fun x => ((r.srcBlock x).map (·.sat)).getD false
  | none => false

/-- The new block `n` of the row, none when a header check fails (R412, R603, R58). -/
def RowJob.block (r : RowJob) (n : Nat) : Option Block :=
  let o := r.dst.obj
  let old := r.dst.block r.y n
  let xs := r.cols n
  let inside := fun x => xs.contains x
  let sat := r.srcSat xs || ((r.cmd.readsDst || keepsLane o.format o.width n inside) && ((old.map (·.sat)).getD false))
  if r.cmd.readsDst ∧ old.isNone then none
  else if o.format = fmtRgba then
    let px := xs.map fun x => (x, r.rgba x ((old.map fun b => rgbaOf b x).getD (0, 0, 0, 0)))
    if px.any fun p => p.2.isNone then none
    else some (normRgba (rgbaLanes o.width n old fun x => (px.find? fun p => p.1 = x).bind (·.2)) sat)
  else
    let px := xs.map fun x => (x, r.mask x ((old.map fun b => maskOf b x).getD 0))
    if px.any fun p => p.2.isNone then none
    else some (alphaBlock (maskLanes o.width n old fun x => (px.find? fun p => p.1 = x).bind (·.2)) sat)

/-- A COPY that moves blocks bit for bit, without header checks: block-aligned in both images, its last block whole or, in both, the partly
used last block of their lines (R412, R56). -/
def RowJob.moves (r : RowJob) : Bool :=
  let pb := perBlock r.dst.obj.format
  let toEnd := decide (r.cmd.dstX + r.cmd.width = r.dst.obj.width) &&
    ((r.src.map fun i => decide (r.cmd.srcX + r.cmd.width = i.obj.width)).getD false)
  decide (r.cmd.op = 2) && isBdb r.dst.obj.format && decide (r.cmd.dstX % pb = 0) && decide (r.cmd.srcX % pb = 0) &&
    (decide (r.cmd.width % pb = 0) || toEnd)

/-- The packed pixel a row writes at column `x` (R410, R411), none when a header check fails. -/
def RowJob.pixel (r : RowJob) (x : Nat) : Option Nat :=
  let c := r.cmd
  if c.op = 1 then some (c.w 7)
  else if c.op = 2 then r.src.map fun i => i.packed (r.sx x) r.sy
  else (r.srcBlock x).map fun b =>
    let p := rgbaOf b (r.sx x)
    packLight r.dst.obj.format (c.f 7 1 0) ((c.w 8 : Rat) / 65536) p.1 p.2.1 p.2.2.1 p.2.2.2

/-- The destination's content after the row, none when a header check fails or a source read was poisoned (R58, R452). The row's source is read whole before anything
of it is written (R414). -/
def RowJob.run (r : RowJob) : Option (Tab Byte) :=
  let o := r.dst.obj
  let c := r.cmd
  let base := r.y * r.dst.stride
  if (r.src.map fun i => i.badRow r.sy c.srcX c.width).getD false then none
  else if isBdb o.format then
    let pb := perBlock o.format
    let ns := (List.range ((c.dstX + c.width - 1) / pb + 1 - c.dstX / pb)).map fun i => c.dstX / pb + i
    let bs := ns.map fun n =>
      (n, if r.moves then r.src.map fun i => i.rawBlock r.sy (n - c.dstX / pb + c.srcX / pb) else r.block n)
    if bs.any fun b => b.2.isNone then none
    else some (bs.foldl (fun bytes b => match b.2 with
      | some blk => putBlock o.fill (fmtClass o.format) (lineBlocks o.format o.width) bytes base b.1 blk
      | none => bytes) r.dst.v.bytes)
  else
    let n := pixBytes o.format
    let ps := (List.range c.width).map fun i => r.pixel (c.dstX + i)
    if ps.any Option.isNone then none
    else some (writeBytes o.fill r.dst.v.bytes (base + c.dstX * n) (ps.flatMap fun p => leBytes n (p.getD 0)))

/-! ### Rows, signals and watermarks (R415, R417) -/

/-- The signal record (R417). -/
def signalBytes (tag mark ns : Nat) : List Byte :=
  leBytes 4 tag ++ leBytes 4 mark ++ leBytes 4 (ns % 1000000000) ++ leBytes 4 (ns / 1000000000)

/-- Write the signal record of a command whose watermark has reached signal_rows, once. -/
def State.signalCmd (s : State) (e : Entry) (k : Nat) : State :=
  match (s.entry e.id).bind fun x => x.cmds[k]? with
  | none => s
  | some c =>
    if c.signal ∧ ¬ c.signalled ∧ c.f 12 14 0 ≤ c.mark then
      let s := s.modCmd e.id k fun x => { x with signalled := true }
      if s.flt.fatalHold ∨ e.mirrored then s
      else s.emit (.data e.fn (c.w 14 + 2 ^ 32 * c.w 15) (signalBytes (c.f 0 15 0) c.mark s.tideNs) (s.cplAddr e.desc))
    else s

/-- A command fails at run time: its status and detail without the index (R420). -/
def State.failCmd (s : State) (id k : Nat) (f : Fail) : State := s.modCmd id k fun c => { c with phase := .failed, fail := some f }

/-- The words of a row that a command writes: those its pixels' bytes or its blocks' bits lie in (R109). -/
def RowJob.span (r : RowJob) : Nat × Nat :=
  let o := r.dst.obj
  let c := r.cmd
  let base := r.y * r.dst.stride
  if isBdb o.format then
    let n0 := c.dstX / perBlock o.format
    let n1 := (c.dstX + c.width - 1) / perBlock o.format
    let lo := (8 * base + n0 / 3 * 480 + n0 % 3 * 156) / 32
    (lo, (8 * base + n1 / 3 * 480 + n1 % 3 * 156 + 155) / 32 + 1 - lo)
  else wordSpan (base + c.dstX * pixBytes o.format) (c.width * pixBytes o.format)

/-- Put a row's content into the surface being built, or into the object in place. -/
def State.putRow (s : State) (e : Entry) (r : RowJob) (bytes : Tab Byte) : State :=
  let o := r.dst.obj
  if o.cls = 0 then
    s.modEntry e.id fun x => { x with work := x.work.map fun w => if w.1 = o.handle then (w.1, bytes) else w }
  else s.putWords e o bytes [r.span]

/-- Destination pixels written (R421). -/
def State.countPixels (s : State) (n : Nat) : State :=
  let s := { s with sawyPixels := s.sawyPixels + n }
  s.setReg 0xD004 (s.sawyPixels / 65536 % 2 ^ 32)

/-- A named object is lost while the list runs (R420, R146). -/
def State.cmdLost (s : State) (c : SawyerCmd) : Option Fail :=
  firstFail
    [ ((s.objOf c.dst).bind (·.lost)).map fun r => (stDataLost, det r 2),
      if c.hasSrc then ((s.objOf c.src).bind (·.lost)).map fun r => (stDataLost, det r 5) else none ]

/-- Command `k` finishes its next row (R410 to R417). -/
def State.sawRow (s : State) (id k : Nat) : State :=
  match s.entry id with
  | none => s
  | some e => match e.cmds[k]? with
    | none => s
    | some c =>
      let ready := c.waitOn = 0 ∨ ((e.cmds[k - c.waitOn]?.map fun a => a.trailOk c c.mark).getD true)
      if ¬ e.started ∨ c.phase ≠ .running ∨ c.op = 6 ∨ c.height ≤ c.mark ∨ ¬ ready then s
      else match s.cmdLost c with
        | some f => s.failCmd id k f
        | none =>
          let row := if c.upward then c.height - 1 - c.mark else c.mark
          match s.img e c.dst with
          | none => s.failCmd id k (stBadHandle, det 0 2)
          | some d =>
            let job : RowJob := { cmd := c, dst := d, src := if c.hasSrc then s.img e c.src else none, y := c.dstY + row
                                  sy := c.srcY + row }
            match job.run with
            | none => s.failCmd id k (stCheckMismatch, 0)
            | some bytes =>
              let s := (s.putRow e job bytes).modCmd id k fun x => { x with mark := x.mark + 1 }
              (s.countPixels c.width).signalCmd e k

/-- SAWYER_ROW_DONE (R415, R417). -/
def execSawyerRowDone (id k : Nat) (s : State) : Host.Outcome State Fault Refusal := .next (s.sawRow id k)

/-! ### Completion (R420) -/

/-- Tiles that a list's commands wrote on a surface. -/
def listWritten (o : Obj) (cmds : List SawyerCmd) : List Nat :=
  ((cmds.filter fun c => c.draws && decide (c.dst = o.handle) && decide (0 < c.mark)).flatMap (SawyerCmd.tiles o)).eraseDups

/-- Settle every object a list wrote (R131, R400, R416, R420). -/
def State.settleList (s : State) (e : Entry) (status : Nat) : State :=
  let hs := ((e.cmds.filter SawyerCmd.draws).map SawyerCmd.dst).eraseDups
  hs.foldl (fun s h => match s.objOf h with
    | none => s
    | some o =>
      if o.cls = 0 then
        if status = stDataLost then s
        else
          let bytes := match e.work.find? fun x => x.1 = h with
            | some x => x.2
            | none => o.content
          s.settle e o status bytes (listWritten o e.cmds) []
      else s.setObj { o with invalid := markAfter status o.invalid }) s

/-- The list completes when its last command is done, or when one has failed and none runs (R420). -/
def State.sawFinish (s : State) (id : Nat) : State :=
  match s.entry id with
  | none => s
  | some e =>
    let cmds := e.cmds
    if !e.started then s
    else if cmds.all SawyerCmd.finished then (s.settleList e stOk).finish id (stOk, 0) cmds.length 0
    else if cmds.any fun c => decide (c.phase = .running) then s
    else match (cmds.mapIdx fun i c => c.fail.map fun f => (i, f)).findSome? id' with
      | some (i, f) =>
        ((s.settleList e f.1).count 0xD00C 31 16 1).finish id (f.1, f.2 ||| 4096) (cmds.filter SawyerCmd.finished).length
          (e.desc.listFirst + i)
      | none => s
where
  id' (x : Option (Nat × Fail)) : Option (Nat × Fail) := x

/-- The rows a command has left, as far as trailing lets it go. -/
def State.sawRows (id k : Nat) : Nat → State → State
  | 0, s => s
  | n + 1, s => State.sawRows id k n (s.sawRow id k)

/-- A running command that has finished all its rows is done; its place is free (R419). -/
def State.sawDone (s : State) (id k : Nat) : State :=
  s.modCmd id k fun c => if c.phase = .running ∧ c.op ≠ 6 ∧ c.mark = c.height then { c with phase := .done } else c

/-- SAWYER_COMMAND_DONE (R420): the rows still left are finished, the command is done or has failed, and the list
completes when it can. -/
def execSawyerCommandDone (id k : Nat) (s : State) : Host.Outcome State Fault Refusal :=
  match (s.entry id).bind fun e => e.cmds[k]? with
  | none => .next s
  | some c => .next (((State.sawRows id k (c.height - c.mark) s).sawDone id k).sawFinish id)

/-! ### WAIT_SCAN (R418) -/

/-- The WAIT_SCAN completes at once: port stopped, subframe not rendered in this frame, or no such line. Of a port that starts, the mode
that it starts counts. -/
def State.scanPasses (s : State) (c : SawyerCmd) : Bool :=
  let p := s.port (s.lead (c.f 2 1 0))
  let m := if p.phase = .starting then (p.modeNext.map (·.1)).getD p.mode else p.mode
  decide (p.phase = .stopped) || decide ((if p.phase = .starting then m.subframes else p.subEff) ≤ c.f 2 5 4) || decide (m.vTotal ≤ c.w 3)

/-- WAIT_SCAN starts: it takes a place and waits, or completes at once (R418). -/
def execWaitScan (id k : Nat) (s : State) : Host.Outcome State Fault Refusal :=
  let s' := s.sawTake id k sawWait
  match (s'.entry id).bind fun e => e.cmds[k]? with
  | none => .next s'
  | some c =>
    if c.op = 6 ∧ c.phase = .running ∧ s.scanPasses c then
      .next (((s'.modCmd id k fun x => { x with phase := .done }).count 0xD008 31 16 1).sawFinish id)
    else .next s'

/-- The send slot of a line has begun: the WAIT_SCANs that wait for it complete (R418). -/
def State.scanReached (s : State) (p sub line : Nat) : State :=
  s.ledger.foldl (fun s e =>
    let hits := fun c : SawyerCmd => decide (c.op = 6) && decide (c.phase = .running) && decide (s.lead (c.f 2 1 0) = p) &&
      decide (c.f 2 5 4 = sub) && decide (c.w 3 = line)
    let n := (e.cmds.filter hits).length
    if n = 0 ∨ ¬ e.started then s
    else
      let s := s.modEntry e.id fun x => { x with job := .sawyer (x.cmds.map fun c => if hits c then { c with phase := .done } else c) }
      (s.count 0xD008 15 0 n).sawFinish e.id) s

/-- Running WAIT_SCANs of a port that can no longer be met complete as those on a stopped port (R418): all of them when it has stopped,
else those whose line a changed mode does not have. -/
def State.scanStopped (s : State) (p : Nat) : State :=
  s.ledger.foldl (fun s e =>
    let hits := fun c : SawyerCmd => decide (c.op = 6) && decide (c.phase = .running) && decide (s.lead (c.f 2 1 0) = p) &&
      (decide ((s.port p).phase = .stopped) || decide ((s.port p).mode.vTotal ≤ c.w 3))
    let n := (e.cmds.filter hits).length
    if n = 0 ∨ ¬ e.started then s
    else
      let s := s.modEntry e.id fun x => { x with job := .sawyer (x.cmds.map fun c => if hits c then { c with phase := .done } else c) }
      (s.count 0xD008 31 16 n).sawFinish e.id) s

end Sys2Proof.Machine
end

