-- ==== Sys2Proof/Machine/Scene.lean ====
section
/-! DEFINITION. Scenes and commits (05_scene_plates.md): the scene table and its checks (R155 to R162), the pinned copy of a
tone curve (R136, R163, R186, R187), what completes a pending commit at a latch instant (R172), the run that takes effect
(R166 to R170), its outcomes (R171), and the end of the boot-plate state (R462, R567). -/

namespace Sys2Proof.Machine

/-! ### Tables in host memory -/

/-- A table of `n` entries of `size` bytes, as words. -/
def tableWords (bs : List Byte) (size n : Nat) : List (List Nat) :=
  (List.range n).map fun i => (List.range (size / 4)).map fun j => leAt bs (size * i + 4 * j) 4

/-- The entries with their index. -/
def indexed {α : Type} (xs : List α) : List (Nat × α) := (List.range xs.length).zip xs

/-- Word `j` of a table entry. -/
def ew (e : Nat × List Nat) (j : Nat) : Nat := e.2.getD j 0

/-! ### The scene table (R155 to R157) -/

/-- A table position in detail bits [9:4] and [3:0] (R160). -/
def tablePos (i j : Nat) : Nat := 0x200 + 16 * i + j

/-- The bits a kind-0 entry uses (R155). Word 12, which R155 lists as "Kind 1 only", counts as reserved in it (DESIGN CHOICE, log 70). -/
def plateBits : List Nat :=
  let all := 0xFFFFFFFF
  [all, all, 0x0FFF0013, all, all, 0xFFFFFF, all, all, all, all, all, all]

def entryKind (e : Nat × List Nat) : Nat := ew e 2 % 4

/-- The bits an entry may use: a kind-1 entry word 2 [1:0] and word 12 (R156), an empty one nothing (R157). -/
def sceneBits (e : Nat × List Nat) : List Nat :=
  if entryKind e = 1 then [0, 0, 0x3, 0, 0, 0, 0, 0, 0, 0, 0, 0, 0xFFFF]
  else if entryKind e = 0 ∧ ew e 0 = 0 then []
  else plateBits

/-- The first failure of one entry's own words (R155 to R157, R160): reserved bits and kinds in increasing word index. -/
def sceneEntryFail (e : Nat × List Nat) : Option Fail :=
  (List.range 16).findSome? fun j =>
    if j = 2 ∧ 2 ≤ entryKind e then
      (if ew e 2 &&& (0xFFFFFFFF ^^^ 0x0FFF0013) ≠ 0 then some (stBadDesc, 2 * 65536 + tablePos e.1 2)
       else some (stBadDesc, 3 * 65536 + tablePos e.1 2))
    else if ew e j &&& (0xFFFFFFFF ^^^ (sceneBits e).getD j 0) ≠ 0 then some (stBadDesc, 2 * 65536 + tablePos e.1 j)
    else none

/-- A non-empty kind-0 entry. -/
def isPlate (e : Nat × List Nat) : Bool := decide (entryKind e = 0) && decide (ew e 0 ≠ 0)

/-- The entry from which a table has more than it may (R159, R160). Which of its words the position names is the model's choice: word 0 of an
excess kind-0 entry, word 2 of a second kind-1 entry (DESIGN CHOICE, log 70). -/
def sceneCountFail (es : List (Nat × List Nat)) : Option Fail :=
  es.findSome? fun e =>
    let upto := es.take (e.1 + 1)
    if isPlate e ∧ 16 < (upto.filter isPlate).length then some (stBadDesc, 4 * 65536 + tablePos e.1 0)
    else if entryKind e = 1 ∧ 1 < (upto.filter fun x => decide (entryKind x = 1)).length then
      some (stBadDesc, 4 * 65536 + tablePos e.1 2)
    else none

/-- The surfaces an entry names: handle, word, version field, and the word of the version. -/
def entryNames (e : Nat × List Nat) : List (Nat × Nat × Nat × Nat) :=
  (ew e 0, 0, ew e 1, 1) :: (if ew e 3 = 0 then [] else [(ew e 3, 3, ew e 4, 4)])

/-- Everything a table names, with positions: handle, its position, version field, the version's position. That a failure about a version names
the version's word, 1 or 4, and not the handle's is the model's choice (DESIGN CHOICE, log 70). -/
def sceneRefs (es : List (Nat × List Nat)) : List (Nat × Nat × Nat × Nat) :=
  (es.filter isPlate).flatMap fun e => (entryNames e).map fun n => (n.1, tablePos e.1 n.2.1, n.2.2.1, tablePos e.1 n.2.2.2)

/-- A version named as 0 is the newest valid one (R162). -/
def State.versionNamed (s : State) (h v : Nat) : Nat :=
  if v = 0 then (((s.objOf h).bind (·.newest)).map (·.num)).getD 0 else v

/-- The version is assigned to an accepted writer, or kept (R133, R160). -/
def State.versionKnown (s : State) (h v : Nat) : Bool :=
  (s.writerOf (h, v)).isSome || ((s.objOf h).bind fun o => o.version v).isSome

/-- Plate and mask of an entry have class and format that R149 asks for (R160). -/
def State.plateFail (s : State) (e : Nat × List Nat) : Option Fail :=
  match s.objOf (ew e 0) with
  | none => none
  | some p =>
    firstFail
      [ failIf (!(decide (p.cls = 0) && decide (p.format = fmtRgba))) (stBadDesc, 4 * 65536 + tablePos e.1 0),
        if ew e 3 = 0 then none
        else match s.objOf (ew e 3) with
          | some m =>
            failIf (!(decide (m.cls = 0) && decide (m.format = fmtY) && decide (m.width = p.width) &&
              decide (m.height = p.height))) (stBadDesc, 4 * 65536 + tablePos e.1 3)
          | none => none ]

/-- Two versions of one surface in the table: the position of the second (R159, R160). -/
def State.twoVersions (s : State) (refs : List (Nat × Nat × Nat × Nat)) : Option Fail :=
  (indexed refs).findSome? fun x =>
    let r := x.2
    if (refs.take x.1).any fun q => decide (q.1 = r.1) && decide (s.versionNamed q.1 q.2.2.1 ≠ s.versionNamed r.1 r.2.2.1)
    then some (stBadDesc, 4 * 65536 + r.2.2.2)
    else none

/-- Distinct surfaces named by any port's current scene or any pending commit (R159). -/
def State.sceneSurfaces (s : State) : List Nat :=
  (s.ports.flatMap fun e => (sceneNames e.2.scene).map (·.1) ++ e.2.pendingNames.map (·.1)).eraseDups

/-- The table checks of R160, in its order, after the descriptor's own fields. Within a row that both a table handle and the tone handle fail,
the table's failure is reported: the model's choice (DESIGN CHOICE, log 70). -/
def State.sceneFail (s : State) (d : Desc) (table : HostRead) : Option Fail :=
  let p := d.f 2 1 0
  let tone := d.w 9
  let es := indexed (tableWords table.bytes 64 (d.f 5 4 0))
  let refs := sceneRefs es
  match table.fail with
  | some f => some (timeoutOf f)
  | none =>
    firstFail
      [ es.findSome? sceneEntryFail,
        sceneCountFail es,
        failIf (decide (s.owner p ≠ d.fn)) (permission 3 2),
        failIf (s.follower p) (badDesc 4 2),
        refs.findSome? fun r => failIf (decide (handleFn r.1 ≠ d.fn)) (stPermission, 2 * 65536 + r.2.1),
        failIf (decide (tone ≠ 0) && decide (handleFn tone ≠ d.fn)) (permission 2 9),
        refs.findSome? fun r => failIf (s.objValid r.1).isNone (stBadHandle, r.2.1),
        failIf (decide (tone ≠ 0) && (s.objValid tone).isNone) (stBadHandle, det 0 9),
        (es.filter isPlate).findSome? s.plateFail,
        failIf (decide (tone ≠ 0) && decide (((s.objOf tone).map (·.cls)).getD 5 ≠ 5)) (badDesc 4 9),
        refs.findSome? fun r =>
          failIf (!(s.versionKnown r.1 (s.versionNamed r.1 r.2.2.1))) (stBadDesc, 3 * 65536 + r.2.2.2),
        s.twoVersions refs,
        refs.findSome? fun r => ((s.objOf r.1).bind (·.lost)).map fun x => (stDataLost, x * 65536 + r.2.1),
        if tone = 0 then none else ((s.objOf tone).bind (·.lost)).map fun x => (stDataLost, det x 9),
        failIf (decide (64 < (s.sceneSurfaces ++ refs.map (·.1)).eraseDups.length)) (noSpace 5),
        failIf (decide (32 ≤ (s.port p).commits.length)) (noSpace 6) ]

/-- A signed field of a table word. -/
def sw (e : Nat × List Nat) (j : Nat) : Int := signedOf 32 (ew e j)

/-- A kind-0 entry resolved (R155, R162). -/
def State.sceneEntry (s : State) (e : Nat × List Nat) : SceneEntry :=
  { plate := ew e 0, version := s.versionNamed (ew e 0) (ew e 1), edge := decide (fieldOf (ew e 2) 4 4 = 1)
    fade := fieldOf (ew e 2) 27 16, mask := ew e 3
    maskVer := if ew e 3 = 0 then 0 else s.versionNamed (ew e 3) (ew e 4)
    disp := signedOf 24 (ew e 5), a00 := sw e 6, a01 := sw e 7, t0 := sw e 8, a10 := sw e 9, a11 := sw e 10
    t1 := sw e 11, index := e.1 }

/-- The commit that a checked descriptor makes pending (R163, R168). -/
def State.newCommit (s : State) (d : Desc) (table : HostRead) : Commit :=
  let es := indexed (tableWords table.bytes 64 (d.f 5 4 0))
  let target := d.addr 6 * 1000000000 + d.f 8 29 0
  { id := s.nextId, fn := d.fn, ring := d.ring, target := if d.addr 6 = 0 ∧ d.f 8 29 0 = 0 then none else some target
    entries := (es.filter isPlate).map s.sceneEntry
    protGen := (es.find? fun e => decide (entryKind e = 1)).map fun e => ew e 12 % 65536
    tone := d.w 9, pin := if d.w 9 = 0 then .notNamed else .waiting, readyAt := none, fail := none }

/-! ### The end of the boot-plate state (R462, R567) -/

/-- An armed Tide step is cancelled (R462, TIDE 0x03). -/
def State.cancelStep (s : State) : State :=
  if s.tide.armed then
    (({ s with tide := { s.tide with armed := false } }).setBit 0x8018 10).raise (err 0 0x09 0x03 0 0 0 0)
  else s

/-- Host software has had a SCENE_COMMIT or MODE_SET accepted: the boot-plate state ends (R567). -/
def State.hostScene (s : State) : State :=
  if s.power.bootState then ({ s with power := { s.power with bootState := false } }).cancelStep else s

/-! ### Tables bound to commits (R295) -/

/-- The tables of a ring that wait for the ring's next commit are bound to it. -/
def bindTables (ring id : Nat) (ts : List SigTable) : List SigTable :=
  ts.map fun t => if t.bind ∧ t.boundTo = none ∧ t.ring = ring then { t with boundTo := some id } else t

/-! ### SCENE_COMMIT -/

/-- A checked commit joins its port's queue (R163, R164). -/
def State.queueCommit (s : State) (p : Nat) (c : Commit) : State :=
  (s.modPort p fun q => { q with commits := q.commits ++ [c], sigTables := bindTables c.ring c.id q.sigTables }).refreshCommits

/-- Accept a commit that passes R160. -/
def State.acceptCommit (s : State) (d : Desc) (table : HostRead) (mirrored : Bool) : State :=
  let c := s.newCommit d table
  let hs := (sceneNames c.entries).map (·.1) ++ (if c.tone = 0 then [] else [c.tone])
  let s := if mirrored then s.accept d (.commit hs) [] true else (s.admitNew d (.commit hs) []).hostScene
  (s.logData d 0 table.bytes).queueCommit (d.f 2 1 0) c

/-- SCENE_COMMIT (R96, R160 to R164). -/
def execSceneCommit (r : Fin 128) (table : HostRead) (s : State) : Host.Outcome State Fault Refusal :=
  .next (s.withCur r opSceneCommit fun d s =>
    let s := s.emit (.readRequest d.fn (d.addr 3) (64 * d.f 5 4 0) (.table d.ring))
    match s.sceneFail d table with
    | some f => s.reject d f
    | none => s.acceptCommit d table false)

/-! ### The tone curve (R136, R163, R186, R187) -/

/-- The identifier and the size of a tone curve (R186, R187). -/
def toneIdent : Nat := 0x5070EC01
def toneSize : Nat := 1804

/-- Block `n` of a tone curve's points. -/
def toneBlock (bs : List Byte) (n : Nat) : Block := readBlock (fun i => bs.getD (64 + i) 0) 0 n

/-- The curve keeps R186. -/
def toneOk (bs : List Byte) : Bool :=
  decide (toneSize ≤ bs.length) && decide (leAt bs 0 4 = toneIdent) &&
    decide (-27 ≤ signedOf 8 (leAt bs 4 1)) && decide (signedOf 8 (leAt bs 4 1) ≤ -16) &&
    ((bytesAt bs 5 59).all fun b => decide (b = 0)) && ((List.range 86).all fun n => (toneBlock bs n).ok 0)

/-- What the pinning of a curve gives at this moment (R163, R172, R452). -/
def State.pinTone (s : State) (h : Nat) : TonePin :=
  match s.objOf h with
  | none => .failedCheck
  | some o =>
    match o.lost with
    | some r => .lost r
    | none =>
      let bs := o.read 0 toneSize
      if s.chnCapacity ≤ s.chnUse then .noRoom
      else if o.invalid || s.bytesPoisoned o 0 toneSize || !(toneOk bs) then .failedCheck
      else .pinned bs

/-- Replace the pin of one commit. -/
def State.setPin (s : State) (id : Nat) (pin : TonePin) : State :=
  let f := fun (c : Commit) => if c.id = id then { c with pin := pin } else c
  { s with ports := tabMap (fun _ (p : Port) => { p with commits := p.commits.map f }) s.ports }

/-- TONE_CURVE_PIN (R163): made once, when the commit has no wait left under R106. -/
def State.tonePin (s : State) (id : Nat) : State :=
  match (s.ports.flatMap fun e => e.2.commits).find? fun c => c.id = id with
  | none => s
  | some c =>
    match c.pin with
    | .waiting =>
      if ((s.entry id).map fun e => s.noWait e).getD false then (s.setPin id (s.pinTone c.tone)).refreshCommits else s
    | _ => s

/-- TONE_CURVE_PIN. -/
def execToneCurvePin (id : Nat) (s : State) : Host.Outcome State Fault Refusal := .next (s.tonePin id)

/-! ### Pending commits at a latch instant -/

/-- A named surface is lost (R172): the table position of the first. -/
def State.commitLost (s : State) (c : Commit) : Option Fail :=
  c.entries.findSome? fun e =>
    firstFail
      [ ((s.objOf e.plate).bind (·.lost)).map fun r => (stDataLost, r * 65536 + tablePos e.index 0),
        if e.mask = 0 then none
        else ((s.objOf e.mask).bind (·.lost)).map fun r => (stDataLost, r * 65536 + tablePos e.index 3) ]

/-- What the tone curve brings about (R172). -/
def State.commitTone (s : State) (c : Commit) : Option Fail := match c.pin with
  | .lost r => some (stDataLost, det r 9)
  | .failedCheck => some (stCheckMismatch, det 0 9)
  | .noRoom => some (stNoSpace, det 3 9)
  | .waiting => ((s.objOf c.tone).bind (·.lost)).map fun r => (stDataLost, det r 9)
  | _ => none

/-- The condition of R172 that has arisen for a commit of port `p`. When several hold at one latch instant, a failed writer goes before a lost
surface, then the tone curve, the owner and the gang: the model's choice (DESIGN CHOICE, log 71). -/
def State.commitFail (s : State) (p : Nat) (c : Commit) : Option Fail :=
  firstFail
    [ c.fail, s.commitLost c, s.commitTone c, failIf (decide (s.owner p ≠ c.fn)) (permission 3 2),
      failIf (s.follower p) (badDesc 4 2) ]

/-- A commit leaves its queue. -/
def State.dropCommit (s : State) (p id : Nat) : State :=
  s.modPort p fun q => { q with commits := q.commits.filter fun c => c.id ≠ id }

/-- A table bound to a failed commit is never applied (R295). -/
def State.failBound (s : State) (p id : Nat) : State :=
  let hit := fun (t : SigTable) => decide (t.boundTo = some id)
  let ids := ((s.port p).sigTables.filter hit).map (·.id)
  let s := s.modPort p fun q => { q with sigTables := q.sigTables.filter fun t => !(hit t) }
  ids.foldl (fun s i => s.finish i (stResubmit, 0) 0 0) s

/-- The commits of a port for which a condition of R172 has arisen complete, in queue order (R172). -/
def State.failCommits (s : State) (p : Nat) : State :=
  (s.port p).commits.foldl (fun s c =>
    match s.commitFail p c with
    | some f => ((s.dropCommit p c.id).failBound p c.id).finish c.id f 0 0
    | none => s) s

/-- The commit is due at a frame whose predicted start is `start` sixths of 2^-32 ns (R167, R168). -/
def Commit.due (c : Commit) (start : Int) : Bool := match c.target with
  | none => true
  | some t => decide ((6 * 2 ^ 32 * t : Nat) ≤ start)

/-- The commit became ready on a tick earlier than the latch instant's (R166). -/
def readyBefore (readyAt : Option Nat) (latch : Nat) : Bool := match readyAt with
  | some t => decide (t < latch)
  | none => false

/-- The standby applies what APPLY records name (R518): the last item of a kind for a port whose frame has come. -/
def State.applied (s : State) (p kind frame : Nat) : Option ApplyItem :=
  (s.cway.applyQ.filter fun a => decide (a.port = p) && decide (a.kind = kind) && decide (a.frame ≤ frame)).getLast?

/-- The descriptor of an item is this entry's. -/
def State.names (s : State) (a : ApplyItem) (id : Nat) : Bool :=
  ((s.entry id).map fun e => decide (e.desc.ring = a.ring) && decide (e.desc.seq = a.dseq)).getD false

/-- The run from the head of the queue that R169 takes; on a standby, up to the commit an APPLY record names (R518). -/
def State.commitRun (s : State) (p frame latch : Nat) (start : Int) : List Commit :=
  let cs := (s.port p).commits
  if s.cway.role.standby then
    match s.applied p 0 frame with
    | some a => cs.take (((indexed cs).find? fun x => s.names a x.2.id).map (fun x => x.1 + 1) |>.getD 0)
    | none => []
  else cs.takeWhile fun c => readyBefore c.readyAt latch && c.due start

/-- Frames since the first whose start is at or after the target (R171), by the port's own history of starts. -/
def lateFrames (starts : List (Nat × Int)) (frame : Nat) (target : Option Nat) : Nat := match target with
  | none => 0
  | some t =>
    let seen := starts.takeWhile fun x => decide (((6 * 2 ^ 32 * t : Nat) : Int) ≤ x.2)
    satNat (frame - ((seen.getLast?.map (·.1)).getD frame)) 255

/-- Bits [3] and [2] of the detail (R156, R171). -/
def State.commitFlags (s : State) (p : Nat) (c : Commit) : Nat :=
  let q := s.port p
  (match c.protGen with
   | some g => if g = q.prot.gen then 0 else 8
   | none => 0) + (if q.safeLatch then 4 else 0)

/-- An entry counts as started (R117): nothing aborts it any more. -/
def State.begun (s : State) (id : Nat) : State := s.modEntry id fun e => { e with started := true }

/-- Queue a record that is written after the first line of the frame has left the port (R171, R246, R329). -/
def State.later (s : State) (p id status detail frame extra : Nat) : State :=
  (s.modPort p fun q => { q with records := q.records ++
    [{ id := id, status := status, detail := detail, frame := frame, extra := extra }] }).begun id

/-- Send an APPLY record for a change of an entry (R518, R522); the active unit only. -/
def State.applyRecord (s : State) (p kind frame id : Nat) : State := match s.entry id with
  | some e => s.logRecord 0x04 false e.desc.ring e.desc.seq (leBytes 1 p ++ leBytes 1 kind ++ leBytes 2 0 ++ leBytes 8 frame)
  | none => s

/-- The commit takes effect at a frame (R170): scene and tone switch together; the old pinned curve goes. -/
def Port.take (q : Port) (c : Commit) : Port :=
  let q := { q with scene := c.entries, lastCommitRing := some c.ring, bootPlate := false }
  match c.pin with
  | .pinned bs => { q with tone := some bs, toneHandle := c.tone }
  | _ => q

/-- The run takes effect (R169 to R171); the flags use the generation in force for the frame (R302). -/
def State.takeCommits (s : State) (p frame latch : Nat) (start : Int) : State :=
  let run := s.commitRun p frame latch start
  match run.getLast? with
  | none => s
  | some c =>
    let flags := s.commitFlags p c
    let late := lateFrames (s.port p).starts frame c.target
    let s := s.modPort p fun q => { (q.take c) with commits := q.commits.drop run.length }
    let s := run.dropLast.foldl (fun s x => s.later p x.id stOk (flags + 2) frame 0) s
    let s := s.later p c.id (if late = 0 then stOk else stOkLate) (flags + 256 * late) frame 0
    (s.applyRecord p 0 frame c.id).sweep

end Sys2Proof.Machine
end

