-- ==== Sys2Proof/Machine/RayMap.lean ====
section
/-! DEFINITION. Almanacs and the ray map (08_ray_map.md): the almanac's layout (R236 to R240), CAL_LOAD and its checks
(R241 to R246), the ray-map state with its temperature coordinate, slew and crossfade (R247 to R259), what the Weave
computes from it (R252, R253), excursion bounds (R260), the state record and its signature (R261 to R263) and the scrub
(R264). -/

namespace Sys2Proof.Machine

/-! ### The almanac (R236 to R240) -/

/-- A signed 32-bit field of an almanac. -/
def s32At (bs : List Byte) (off : Nat) : Int := signedOf 32 (leAt bs off 4)

def almSize (bs : List Byte) : Nat := leAt bs 8 4
def almIdent (bs : List Byte) : Nat := leAt bs 12 4
def almWidth (bs : List Byte) : Nat := leAt bs 16 2
def almHeight (bs : List Byte) : Nat := leAt bs 18 2
def almSets (bs : List Byte) : Nat := leAt bs 20 1 % 8
def almPhases (bs : List Byte) : Nat := leAt bs 20 1 / 16 % 4
def almNx (bs : List Byte) : Nat := leAt bs 24 2
def almNy (bs : List Byte) : Nat := leAt bs 26 2
def almLo (bs : List Byte) : Int := signedOf 8 (leAt bs 28 1)

/-- The scalar lens parameters as exact values (R236). -/
def almSigma (bs : List Byte) : Rat := (s32At bs 32 : Rat) / 2 ^ 28
def almDc (bs : List Byte) (c : Nat) : Rat := (s32At bs (36 + 4 * c) : Rat) / 2 ^ 24
def almKu (bs : List Byte) : Rat := (s32At bs 48 : Rat) / 2 ^ 16
def almGu (bs : List Byte) : Rat := (s32At bs 52 : Rat) / 2 ^ 24
def almXc (bs : List Byte) : Rat := (s32At bs 56 : Rat) / 2 ^ 12
def almGv (bs : List Byte) : Rat := (s32At bs 60 : Rat) / 2 ^ 24
def almYc (bs : List Byte) : Rat := (s32At bs 64 : Rat) / 2 ^ 12

/-- The phase whose parameters a phase uses: phases from P on use phase 0's (R259). -/
def almPhase (bs : List Byte) (k : Nat) : Nat := if k < almPhases bs then k else 0

def almDk (bs : List Byte) (k : Nat) : Rat := (s32At bs (68 + 12 * almPhase bs k) : Rat) / 2 ^ 24
def almOu (bs : List Byte) (k : Nat) : Rat := (s32At bs (72 + 12 * almPhase bs k) : Rat) / 2 ^ 16
def almOv (bs : List Byte) (k : Nat) : Rat := (s32At bs (76 + 12 * almPhase bs k) : Rat) / 2 ^ 16

/-- Set `a`: lens temperature s8.8, pitch and origin (R237). -/
def setTheta (bs : List Byte) (a : Nat) : Int := signedOf 16 (leAt bs (128 + 16 * a) 2)
def setPitch (bs : List Byte) (a : Nat) : Rat := (leAt bs (132 + 16 * a) 4 : Rat) / 2 ^ 24
def setX0 (bs : List Byte) (a : Nat) : Rat := (s32At bs (136 + 16 * a) : Rat) / 2 ^ 12

/-- Point `i` of colour `c`'s transfer table, u12.4 (R239). -/
def almPoint (bs : List Byte) (c i : Nat) : Rat := (leAt bs (256 + 2050 * c + 2 * i) 2 : Rat) / 16

/-- Word `w` of node (i, j) of set `a` (R240). -/
def nodeWord (bs : List Byte) (a i j w : Nat) : Nat :=
  let base := 8192 + 12 * almNx bs * almNy bs * a + 12 * (j * almNx bs + i)
  let x := leAt bs (base + 3 * w / 2) 2
  if w % 2 = 0 then x % 4096 else x / 16

/-- A node word as a number: signed for residuals and offsets (R240). -/
def nodeVal (bs : List Byte) (a i j w : Nat) : Int :=
  if w < 2 ∨ 5 ≤ w then signedOf 12 (nodeWord bs a i j w) else (nodeWord bs a i j w : Nat)

/-! ### The checks of CAL_LOAD (R242) -/

/-- The first failing item of a row, by byte offset. -/
def firstItem (xs : List (Nat × Bool)) : Option Nat :=
  xs.findSome? fun x => if x.2 then some x.1 else none

/-- BAD_DESC about an item of the almanac: the first form of the detail for the header and set table, the second
elsewhere (R242). -/
def almFail (reason off : Nat) : Fail :=
  (stBadDesc, if off < 256 then reason * 65536 + 4096 + off / 4 * 16 + 2 else det reason 2)

/-- A non-zero byte. -/
def nonZero (bs : List Byte) (off : Nat) : Nat × Bool := (off, decide (leAt bs off 1 ≠ 0))

/-- A signed field whose magnitude exceeds a limit. -/
def beyond (bs : List Byte) (off : Nat) (lim : Int) : Nat × Bool :=
  (off, decide (s32At bs off < -lim) || decide (lim < s32At bs off))

/-- A signed field outside 0 to a limit given times three. -/
def outside3 (bs : List Byte) (off : Nat) (lim3 : Nat) : Nat × Bool :=
  (off, decide (s32At bs off < 0) || decide ((lim3 : Int) < 3 * s32At bs off))

/-- The items of a phase (R236): zero from phase P on. -/
def phaseItems (bs : List Byte) (k : Nat) : List (Nat × Bool) :=
  let o := 68 + 12 * k
  if k < almPhases bs then [beyond bs o (2 ^ 30 - 1), beyond bs (o + 4) (2 ^ 27), beyond bs (o + 8) (2 ^ 27)]
  else (List.range 3).map fun i => (o + 4 * i, decide (leAt bs (o + 4 * i) 4 ≠ 0))

/-- The items of an entry of the set table (R237, R238). -/
def setItems (bs : List Byte) (s : Nat) : List (Nat × Bool) :=
  let o := 128 + 16 * s
  if s < almSets bs then
    [ (o, decide (setTheta bs s < -40 * 256) || decide (125 * 256 < setTheta bs s) ||
        (decide (0 < s) && decide (setTheta bs s - setTheta bs (s - 1) < 256))),
      nonZero bs (o + 2), nonZero bs (o + 3),
      (o + 4, decide (leAt bs (o + 4) 4 < 2 ^ 24) || decide (255 * 2 ^ 24 < leAt bs (o + 4) 4)),
      (o + 8, decide ((almWidth bs * 4096 : Nat) ≤ 3 * (s32At bs (o + 8)).natAbs)) ] ++
      (List.range 4).map fun i => nonZero bs (o + 12 + i)
  else (List.range 16).map fun i => nonZero bs (o + i)

/-- Reserved bytes and ranges, in increasing byte offset (R236 to R239). -/
def rangeItems (bs : List Byte) : List (Nat × Bool) :=
  let n := almSets bs
  let p := almPhases bs
  let b20 := leAt bs 20 1
  [ (20, decide (n < 1) || decide (6 < n) || decide (p < 1) || decide (b20 / 8 % 2 ≠ 0) || decide (64 ≤ b20)),
    nonZero bs 21, nonZero bs 22, nonZero bs 23,
    (28, decide (almLo bs < -24) || decide (-4 < almLo bs)), nonZero bs 29, nonZero bs 30, nonZero bs 31,
    beyond bs 32 (2 ^ 30), beyond bs 36 (2 ^ 30 - 1), beyond bs 40 (2 ^ 30 - 1), beyond bs 44 (2 ^ 30 - 1),
    beyond bs 48 (2 ^ 28), beyond bs 52 (2 ^ 24), outside3 bs 56 (almWidth bs * 4096), beyond bs 60 (2 ^ 24),
    outside3 bs 64 (3 * (almHeight bs * 4096)) ] ++
  ((List.range 3).flatMap fun k => phaseItems bs k) ++
  ((List.range 24).map fun i => nonZero bs (104 + i)) ++
  ((List.range 6).flatMap fun s => setItems bs s) ++
  ((List.range 1786).map fun i => nonZero bs (6406 + i))

/-- magic, version and size (R236). -/
def shapeItems (bs : List Byte) (have_ : Nat) : List (Nat × Bool) :=
  [ (0, decide (leAt bs 0 4 ≠ 0x50A1AC01)), (4, decide (leAt bs 4 4 ≠ 1)),
    (8, decide (have_ < almSize bs) || decide (almSize bs ≠ 8192 + 12 * almNx bs * almNy bs * almSets bs)) ]

/-- nx and ny (R236). -/
def nodeItems (bs : List Byte) : List (Nat × Bool) :=
  [ (24, decide (almNx bs ≠ ceilDiv (almWidth bs) 32 + 1)), (26, decide (almNy bs ≠ ceilDiv (almHeight bs) 32 + 1)) ]

/-- The panel in subpixel columns and lines that a mode gives a port or a gang (R209, R320). -/
def panelOf (gang : Nat) (m : Mode) : Nat × Nat :=
  (if gang = 0 then m.hActive else 2 * m.hActive, if gang = 15 then 2 * m.vActive else m.vActive)

/-- Dimensions and phases against a mode (R242). -/
def dimItems (bs : List Byte) (gang : Nat) (m : Mode) : List (Nat × Bool) :=
  [ (16, decide (almWidth bs ≠ (panelOf gang m).1)), (18, decide (almHeight bs ≠ (panelOf gang m).2)),
    (20, decide (almPhases bs < m.subframes)) ]

/-- The identity that the device computes over a pinned copy (R236). -/
def almCrc (bs : List Byte) : Nat := crc32c (almSize bs) (bytesAt bs 16 (almSize bs - 16))

/-- The checks of R242 on the almanac's content, in its order; `bs` is the object's content. -/
def State.almChecks (s : State) (p : Nat) (bs : List Byte) : Option Fail :=
  let q := s.port p
  firstFail
    [ (firstItem (shapeItems bs bs.length)).map (almFail 4),
      (firstItem (rangeItems bs)).map (almFail 3),
      (firstItem (nodeItems bs)).map (almFail 4),
      if q.everStarted then (firstItem (dimItems bs q.gang q.mode)).map (almFail 4) else none,
      failIf (decide (s.chnCapacity < s.chnUse + pinTiles (almSize bs))) (noSpace 3),
      failIf (decide (almCrc bs ≠ almIdent bs)) (stCheckMismatch, 0) ]

/-! ### CAL_LOAD (R241 to R245) -/

def Desc.calPort (d : Desc) : Nat := d.f 3 1 0

/-- CAL_LOAD (R104, R241): acceptance. -/
def execCalLoad (r : Fin 128) (s : State) : Host.Outcome State Fault Refusal :=
  .next (s.withCur r opCalLoad fun d s => s.admitNew d .plain [])

/-- What stands against a CAL_LOAD at its start, in the order of R242. -/
def State.calFail (s : State) (d : Desc) (o : Obj) : Option Fail :=
  let p := d.calPort
  firstFail
    [ failIf (s.follower p) (badDesc 4 3),
      failIf (decide (o.cls ≠ 3) || decide (o.size < 8192)) (badDesc 4 2),
      o.lost.map fun r => (stDataLost, det r 2),
      failIf o.invalid (stCheckMismatch, 0),
      s.almChecks p (o.read 0 o.layout) ]

/-- A CAL_LOAD starts with its pinned copy (R242, R243). -/
def startCal (e : Entry) (s : State) : State :=
  match s.objOf (e.desc.w 2) with
  | none => s.finish e.id (stBadHandle, det 0 2) 0 0
  | some o =>
    match s.calFail e.desc o with
    | some f => s.finish e.id f 0 0
    | none =>
      let bs := o.read 0 o.layout
      s.start e.id (.calLoad (bs.take (almSize bs)) o.handle)

/-- CAL_LOAD_START (R241 to R243). -/
def execCalLoadStart (id : Nat) (s : State) : Host.Outcome State Fault Refusal :=
  match s.entry id with
  | none => .next s
  | some e => if e.desc.opcode = opCalLoad ∧ !e.started ∧ s.noWait e then .next (startCal e s) else .next s

/-! ### Pair sensitivities and residual maxima (R244, R254) -/

/-- Rounded up to a multiple of 1/16, in sixteenths. -/
def ceil16 (x : Rat) : Nat := (x * 16).ceil.toNat

/-- The largest of a list of naturals. -/
def maxOf (xs : List Nat) : Nat := xs.foldl max 0

/-- Reciprocal pitch and origin at coordinate a + w (R252). -/
def almRho (bs : List Byte) (a : Nat) (w : Rat) : Rat :=
  (1 - w) / setPitch bs a + (if w = 0 then 0 else w / setPitch bs (a + 1))

def almPsi (bs : List Byte) (a : Nat) (w : Rat) : Rat :=
  (1 - w) * setX0 bs a / setPitch bs a + (if w = 0 then 0 else w * setX0 bs (a + 1) / setPitch bs (a + 1))

/-- q of R252. -/
def almQ (bs : List Byte) (a : Nat) (w xs ys : Rat) (c k : Nat) : Rat :=
  almRho bs a w * (xs - almSigma bs * ys - almDc bs c - almDk bs k) - almPsi bs a w

/-- Absolute value. -/
def absRat (x : Rat) : Rat := if x < 0 then -x else x

/-- The larger of two values. -/
def maxRat (x y : Rat) : Rat := if x < y then y else x

/-- Every node of the grid. -/
def almNodes (bs : List Byte) : List (Nat × Nat) :=
  (List.range (almNy bs)).flatMap fun j => (List.range (almNx bs)).map fun i => (i, j)

/-- The largest |residual| of word `w` over a set, in sixteenths of a cu. -/
def maxResidual (bs : List Byte) (a w : Nat) : Nat :=
  maxOf ((almNodes bs).map fun n => (nodeVal bs a n.1 n.2 w).natAbs)

/-- The largest change of a residual between neighbouring sets, in sixteenths. -/
def maxStep (bs : List Byte) (a : Nat) : Nat :=
  maxOf ((almNodes bs).map fun n =>
    max (nodeVal bs (a + 1) n.1 n.2 0 - nodeVal bs a n.1 n.2 0).natAbs
      (nodeVal bs (a + 1) n.1 n.2 1 - nodeVal bs a n.1 n.2 1).natAbs)

/-- The largest |q_(a+1) − q_a| over the corners, colours and phases (R254). -/
def maxTurn (bs : List Byte) (a : Nat) : Rat :=
  let xs : List Rat := [1 / 6, ((almWidth bs : Rat) - 1 / 2) / 3]
  let ys : List Rat := [1 / 2, (almHeight bs : Rat) - 1 / 2]
  let all := xs.flatMap fun x => ys.flatMap fun y => (List.range 3).flatMap fun c =>
    (List.range (almPhases bs)).map fun k => absRat (almQ bs (a + 1) 0 x y c k - almQ bs a 0 x y c k)
  all.foldl maxRat 0

/-- D_a in sixteenths of a cu (R254). -/
def pairSens (bs : List Byte) (a : Nat) : Nat :=
  ceil16 ((maxStep bs a : Rat) / 16 + absRat (almKu bs) * maxTurn bs a)

/-- The target coordinate τ* in units of 2^-16 (R251). -/
def tauTarget (bs : List Byte) (theta : Int) : Nat :=
  let n := almSets bs
  if n = 1 ∨ theta ≤ setTheta bs 0 then 0
  else if setTheta bs (n - 1) ≤ theta then (n - 1) * 65536
  else
    let a := (((List.range n).filter fun s => decide (setTheta bs s ≤ theta)).getLast?).getD 0
    a * 65536 + (rhe (65536 * ((theta - setTheta bs a : Int) : Rat) / ((setTheta bs (a + 1) - setTheta bs a : Int) : Rat))).toNat

/-- An almanac taken up at a lens temperature (R244, R255). -/
def almanacOf (bs : List Byte) (handle : Nat) (theta : Int) : Almanac :=
  { bytes := bs, handle := handle, sens := (List.range (almSets bs - 1)).map (pairSens bs)
    maxRu := (List.range (almSets bs)).map fun a => maxResidual bs a 0
    maxRv := (List.range (almSets bs)).map fun a => maxResidual bs a 1
    tau := tauTarget bs theta, scrubBad := false }

/-- A CAL_LOAD that is ready completes at once on a stopped port, whose first frame its almanac is in force from (R245, R246); otherwise it
waits for a latch instant. -/
def State.calReady (s : State) (e : Entry) (bs : List Byte) (h : Nat) : State :=
  let p := e.desc.calPort
  if (s.port p).phase = .stopped then
    (s.modPort p fun q => { q with ray := { q.ray with next := some (almanacOf bs h q.ray.theta) } }).finish e.id (stOk, 0) 0 0
  else (s.modEntry e.id fun x => { x with readyAt := some s.now }).modPort p fun q => { q with calLoads := q.calLoads ++ [e.id] }

/-- CAL_LOAD_READY (R244, R245). -/
def execCalLoadReady (id : Nat) (s : State) : Host.Outcome State Fault Refusal :=
  match s.entry id with
  | none => .next s
  | some e => match e.job with
    | .calLoad bs h =>
      if (s.port e.desc.calPort).calLoads.contains id ∨ (s.port e.desc.calPort).ray.fadeId = some id then .next s
      else .next (s.calReady e bs h)
    | _ => .next s

/-! ### The ray map at a latch instant -/

/-- One frame's slew within pairs, with at most `n` pairs crossed; the budget is in sixteenths of a cu (R255). -/
def slew (sens : List Nat) : Nat → Nat → Nat → Rat → Nat
  | 0, tau, _, _ => tau
  | n + 1, tau, target, budget =>
    if tau = target ∨ budget ≤ 0 then tau
    else
      let up := decide (tau < target)
      let a := if up then tau / 65536 else (tau - 1) / 65536
      let reach := if up then min target ((a + 1) * 65536) else max target (a * 65536)
      let dist := if up then reach - tau else tau - reach
      let d := sens.getD a 0
      let step := if d = 0 then dist else min dist ((65536 * budget / (d : Rat)).floor.toNat)
      let tau' := if up then tau + step else tau - step
      if step < dist then tau' else slew sens n tau' target (budget - (step : Rat) * (d : Rat) / 65536)

/-- MAX_SLEW in sixteenths of a cu (R255, R265): u4.8, 0 acts as 1. -/
def State.maxSlew (s : State) (p : Nat) : Rat := ((max 1 (s.field (0x4404 + 0x80 * p) 11 0) : Nat) : Rat) / 16

/-- An almanac follows the lens temperature for one frame (R255). -/
def Almanac.follow (a : Almanac) (theta : Int) (budget : Rat) : Almanac :=
  { a with tau := slew a.sens (a.sens.length + 1) a.tau (tauTarget a.bytes theta) budget }

/-- The lens-temperature settings as sampled at this latch instant (R250, R265). -/
def State.lensSettings (s : State) (p : Nat) : State :=
  let hold := decide (s.field (0x4400 + 0x80 * p) 0 0 = 1)
  let w := s.reg (0x4408 + 0x80 * p)
  let fix := signedOf 16 (s.field (0x440C + 0x80 * p) 15 0)
  s.modPort p fun q =>
    let r := q.ray
    let held := if hold then some (r.held.getD (r.asked.getD r.theta)) else none
    { q with ray := { r with
        weights := w, tfix := fix, held := held
        theta := match held with
          | some t => t
          | none => if w = 0 then fix else r.theta } }

/-- An almanac is dropped because its dimensions differ from the new mode's (R259). -/
def State.dropAlmanac (s : State) (p : Nat) (a : Almanac) : State :=
  (s.setBit (0x442C + 0x80 * p) 3).raise (err 0 0x04 0x05 (instP p 0) (almIdent a.bytes) 0 0)

/-- The almanac does not fit the panel. -/
def Almanac.misfits (a : Almanac) (gang : Nat) (m : Mode) : Bool :=
  decide ((almWidth a.bytes, almHeight a.bytes) ≠ panelOf gang m)

/-- Phases of an almanac are filled from phase 0 (R259). -/
def State.fillPhases (s : State) (p : Nat) (m : Mode) (a : Option Almanac) : State := match a with
  | some a =>
    if almPhases a.bytes < m.subframes then
      (s.setBit (0x442C + 0x80 * p) 4).raise (err 0 0x04 0x06 (instP p 0) (almIdent a.bytes) m.subframes 0)
    else s
  | none => s

/-- The results of a CAL_LOAD (R246): the frame its fade began, and F in result1 [23:16]. -/
def State.calDone (s : State) (p id frame faded : Nat) : State := s.later p id stOk 0 frame (faded * 65536)

/-- The comparison at a frame at which a MODE_SET takes effect, or at the first start (R259). -/
def State.rayMode (s : State) (p g : Nat) (m : Mode) : State :=
  let q := s.port p
  let r := q.ray
  let bad := fun (a : Option Almanac) => (a.map fun x => x.misfits g m).getD false
  let s := if bad r.new then (match r.new with
    | some a => s.dropAlmanac p a
    | none => s) else s
  let s := if bad r.old then (match r.old with
    | some a => s.dropAlmanac p a
    | none => s) else s
  let new := if bad r.new then none else r.new
  let old := if bad r.old then none else r.old
  let cut := decide (r.fadeLen ≠ 0) && (bad r.new || bad r.old)
  let s := if cut then (match r.fadeId with
    | some id => s.calDone p id r.fadeFrom r.fadeF
    | none => s) else s
  let ray := if cut then { r with new := if new.isSome then new else old, old := none, fadeF := 0, fadeLen := 0, fadeId := none }
    else { r with new := new, old := old }
  let s := s.modPort p fun x => { x with ray := ray }
  (s.fillPhases p m ray.new).fillPhases p m ray.old

/-- A fade in progress goes on by one frame; at fade frame F the old almanac leaves (R257, R246). -/
def State.fadeStep (s : State) (p : Nat) : State :=
  let r := (s.port p).ray
  if r.fadeLen = 0 then s
  else if r.fadeF + 1 < r.fadeLen then s.modPort p fun q => { q with ray := { r with fadeF := r.fadeF + 1 } }
  else
    let s := s.modPort p fun q => { q with ray := { r with old := none, fadeF := 0, fadeLen := 0, fadeId := none } }
    match r.fadeId with
    | some id => s.calDone p id r.fadeFrom r.fadeLen
    | none => s

/-- The fade length of a CAL_LOAD (R245, R265): FADE_FRAMES when its field is 0. -/
def State.fadeLength (s : State) (p : Nat) (d : Desc) : Nat :=
  if d.f 3 15 8 = 0 then max 1 (s.field (0x4400 + 0x80 * p) 15 8) else d.f 3 15 8

/-- The pinned copy belongs to the port from now on, no longer to the CAL_LOAD's own entry (R243). -/
def State.handPin (s : State) (id : Nat) : State := s.modEntry id fun e => { e with job := .plain }

/-- A ready CAL_LOAD takes effect at frame `frame`, its fade counted from frame `from_` (R245, R246, R518). -/
def State.takeCal (s : State) (p id frame from_ : Nat) (bs : List Byte) (h : Nat) (d : Desc) : State :=
  let r := (s.port p).ray
  let a := almanacOf bs h r.theta
  let n := s.fadeLength p d
  let f := frame - from_ + 1
  let s := (s.modPort p fun q => { q with calLoads := q.calLoads.filter (· ≠ id) }).handPin id
  let s := s.applyRecord p 2 frame id
  if r.new.isNone then (s.modPort p fun q => { q with ray := { r with new := some a } }).calDone p id from_ 0
  else if n ≤ f then (s.modPort p fun q => { q with ray := { r with new := some a, old := none } }).calDone p id from_ n
  else (s.modPort p fun q => { q with ray := { r with
          new := some a, old := r.new, fadeF := f, fadeLen := n, fadeId := some id, fadeFrom := from_ } }).begun id

/-- The CAL_LOAD that this latch instant samples ready (R166, R245), or that an APPLY record names on a standby (R518),
with the frame from which its fade counts. -/
def State.readyCal (s : State) (p frame latch : Nat) : Option (Nat × Nat) :=
  let ids := (s.port p).calLoads
  if s.cway.role.standby then
    match s.applied p 2 frame with
    | some a => (ids.find? fun id => s.names a id).map fun id => (id, a.frame)
    | none => none
  else (ids.find? fun id => readyBefore ((s.entry id).bind (·.readyAt)) latch).map fun id => (id, frame)

/-- A ready CAL_LOAD at a latch instant, its dimension checks made again against the frame's mode (R245). -/
def State.latchCal (s : State) (p frame latch g : Nat) (m : Mode) : State :=
  match s.readyCal p frame latch with
  | none => s
  | some (id, from_) =>
    match s.entry id with
    | none => s
    | some e => match e.job with
      | .calLoad bs h =>
        match firstItem (dimItems bs g m) with
        | some off => (s.modPort p fun q => { q with calLoads := q.calLoads.filter (· ≠ id) }).finish id (almFail 4 off) 0 0
        | none => s.takeCal p id frame from_ bs h e.desc
      | _ => s

/-- At the first frame after a start the almanac that was loaded meanwhile comes in force, at the target of its temperature coordinate
(R245, R255). -/
def RayMap.begin (r : RayMap) : RayMap := match r.next with
  | some a => { r with new := some { a with tau := tauTarget a.bytes r.theta }, old := none, next := none, fadeF := 0, fadeLen := 0 }
  | none => r

/-- One frame of slew for both almanacs (R255, R257). -/
def RayMap.follow (r : RayMap) (budget : Rat) : RayMap :=
  { r with new := r.new.map fun a => a.follow r.theta budget, old := r.old.map fun a => a.follow r.theta budget }

/-- The ray map of a port at the latch instant of a frame, whose gang is `g` and mode `m`, new when `changed`: the comparison with a new mode
comes before the fade's step, so that a fade it cuts short reports the frames it has faded (R247, R255, R257, R259). -/
def State.latchRay (s : State) (p frame latch g : Nat) (m : Mode) (changed : Bool) : State :=
  let s := s.lensSettings p
  let s := s.modPort p fun q => { q with ray := q.ray.follow (s.maxSlew p) }
  let s := s.modPort p fun q => { q with ray := q.ray.begin }
  let s := if changed then s.rayMode p g m else s
  let s := s.fadeStep p
  s.latchCal p frame latch g m

/-! ### Excursion bounds (R260) -/

/-- Set a of an almanac's coordinate, its weight, and set b (R252). -/
def Almanac.setA (a : Almanac) : Nat := a.tau / 65536
def Almanac.w (a : Almanac) : Rat := ((a.tau % 65536 : Nat) : Rat) / 65536
def Almanac.setB (a : Almanac) : Nat := if a.setA + 1 < almSets a.bytes then a.setA + 1 else a.setA

/-- The largest of some values over the phases in use. -/
def overPhases (n : Nat) (f : Nat → Rat) : Rat := (List.range n).foldl (fun m k => maxRat m (absRat (f k))) 0

/-- E_u and E_v of one almanac with `n` phases in use (R260). -/
def Almanac.excursion (a : Almanac) (n : Nat) : Rat × Rat :=
  let bs := a.bytes
  let ru := max (a.maxRu.getD a.setA 0) (a.maxRu.getD a.setB 0)
  let rv := max (a.maxRv.getD a.setA 0) (a.maxRv.getD a.setB 0)
  ( absRat (almKu bs) / 2 + absRat (almGu bs) * maxRat (almXc bs) ((almWidth bs : Rat) / 3 - almXc bs) +
      overPhases n (almOu bs) + (ru : Rat) / 16,
    absRat (almGv bs) * maxRat (almYc bs) ((almHeight bs : Rat) - almYc bs) + overPhases n (almOv bs) + (rv : Rat) / 16 )

/-- The almanacs of a ray map that carry weight, with their weights (R252). -/
def weighted (new old : Option Almanac) (f n : Nat) : List (Rat × Almanac) :=
  let beta : Rat := if n = 0 then 1 else (f : Rat) / (n : Rat)
  (match old with
   | some a => if n = 0 then [] else [(1 - beta, a)]
   | none => []) ++
  (match new with
   | some a => [(beta, a)]
   | none => [])

/-- E_u and E_v of a frame in sixteenths of a cu, at most 2,048 cu (R260). -/
def RayMap.bounds (r : RayMap) (phases : Nat) : Nat × Nat :=
  let es := (weighted r.new r.old r.fadeF r.fadeLen).map fun a => a.2.excursion phases
  (min 32768 (ceil16 (es.foldl (fun m e => maxRat m e.1) 0)), min 32768 (ceil16 (es.foldl (fun m e => maxRat m e.2) 0)))

/-! ### What the Weave computes from the state (R252, R253) -/

/-- The weighted almanacs of a frame. -/
def FrameState.terms (f : FrameState) : List (Rat × Almanac) := weighted f.new f.old f.fadeF f.fadeLen

/-- A sum of a quantity over the weighted almanacs. -/
def blend (ts : List (Rat × Almanac)) (g : Almanac → Rat) : Rat := (ts.map fun t => t.1 * g t.2).sum

/-- The base direction (R211, R248, R252). -/
def FrameState.lensBase (f : FrameState) (xs ys : Rat) (c k : Nat) : Rat × Rat :=
  let ts := f.terms
  if ts.isEmpty then (0, 0)
  else
    let q := blend ts fun a => almQ a.bytes a.setA a.w xs ys c k
    let phi := q - (q.floor : Rat)
    ( blend ts (fun a => almKu a.bytes) * (phi - 1 / 2) +
        blend ts (fun a => almGu a.bytes * (xs - almXc a.bytes) + almOu a.bytes k),
      blend ts (fun a => almGv a.bytes * (ys - almYc a.bytes) + almOv a.bytes k) )

/-- A grid value of word `w` at a subpixel within one set: bilinear between nodes (R252). -/
def gridSet (bs : List Byte) (set w xsub y : Nat) : Rat :=
  let gx : Rat := ((2 * xsub + 1 : Nat) : Rat) / 64
  let gy : Rat := ((2 * y + 1 : Nat) : Rat) / 64
  let i := gx.floor.toNat
  let j := gy.floor.toNat
  let tx := gx - (i : Rat)
  let ty := gy - (j : Rat)
  let v := fun di dj => (nodeVal bs set (i + di) (j + dj) w : Rat)
  (1 - tx) * (1 - ty) * v 0 0 + tx * (1 - ty) * v 1 0 + (1 - tx) * ty * v 0 1 + tx * ty * v 1 1

/-- A grid value of an almanac at its coordinate (R252). -/
def Almanac.grid (a : Almanac) (w xsub y : Nat) : Rat :=
  (1 - a.w) * gridSet a.bytes a.setA w xsub y + (if a.w = 0 then 0 else a.w * gridSet a.bytes a.setB w xsub y)

/-- The residual in cu (R252). -/
def FrameState.residual (f : FrameState) (xsub y : Nat) : Rat × Rat :=
  (blend f.terms (fun a => a.grid 0 xsub y) / 16, blend f.terms (fun a => a.grid 1 xsub y) / 16)

/-- A value rounded to a multiple of 2^-n by R51. -/
def roundTo (n : Nat) (x : Rat) : Rat := (rhe (x * 2 ^ n) : Rat) / 2 ^ n

/-- Uniformity gain and offset of a colour (R248, R252). -/
def FrameState.uniformity (f : FrameState) (xsub y c : Nat) : Rat × Rat :=
  if f.terms.isEmpty then (1, 0)
  else (roundTo 15 (1 - blend f.terms (fun a => a.grid (2 + c) xsub y) / 8192),
    roundTo 4 (blend f.terms (fun a => a.grid (5 + c) xsub y) / 8))

/-- Light at point `i` of a transfer table (R253). -/
def pointLight (lo : Int) (i : Nat) : Rat :=
  if i = 1024 then pow2 (lo + 16) else pow2 (lo + (i / 64 : Nat)) * (1 + ((i % 64 : Nat) : Rat) / 64)

/-- The largest index of a point at or below a light. -/
def pointIndex (lo : Int) (l : Rat) : Nat → Nat → Nat
  | 0, a => a
  | n + 1, a => pointIndex lo l n (if a + 2 ^ n ≤ 1023 ∧ pointLight lo (a + 2 ^ n) ≤ l then a + 2 ^ n else a)

/-- A transfer table read at a light (R253). -/
def transferAt (lo : Int) (pt : Nat → Rat) (l : Rat) : Rat :=
  if l < pointLight lo 0 then pt 0 * l / pointLight lo 0
  else if pointLight lo 1024 ≤ l then pt 1024
  else
    let i := pointIndex lo l 10 0
    pt i + (l - pointLight lo i) / (pointLight lo (i + 1) - pointLight lo i) * (pt (i + 1) - pt i)

/-- Point `i` of the built-in transfer, u12.4 (R248): 4,095 × x^(1/2.2), the 11th root of x^5. -/
def builtinPoint (i : Nat) : Rat :=
  let x := pointLight (-12) i
  if 1 ≤ x then 4095 else ((rootRhe 11 ((4095 * 16) ^ 11 * x ^ 5) 17 : Nat) : Rat) / 16

/-- The built-in transfer, limited as stage 9 (R248, R253). -/
def builtinTransfer (l : Rat) : Rat := min (max (roundTo 4 (transferAt (-12) builtinPoint l)) 0) (65535 / 16)

/-- transfer of R212 (R253). -/
def FrameState.transfer (f : FrameState) (l : Rat) (c : Nat) : Rat :=
  if f.terms.isEmpty then builtinTransfer l
  else min (max (roundTo 4 (blend f.terms fun a => transferAt (almLo a.bytes) (almPoint a.bytes c) l)) 0) (65535 / 16)

/-! ### The state record and its signature (R261, R262) -/

/-- ρ as u0.32, rounded by R51 and limited, in four bytes (R13), then ψ as s20.32 (R261). -/
def pitchBytes (rho psi : Rat) : List Byte :=
  leBytes 4 (rheSat (rho * 2 ^ 32) (2 ^ 32 - 1)) ++
    Config.psiBytes (unsignedOf 52 (satInt (rhe (psi * 2 ^ 32)) (-(2 ^ 51)) (2 ^ 51 - 1)))

/-- The effective lens parameters of one almanac in phase `k` (R261). -/
def lensWords (a : Almanac) (k : Nat) : List Byte :=
  let bs := a.bytes
  let ph := almPhase bs k
  pitchBytes (almRho bs a.setA a.w) (almPsi bs a.setA a.w) ++ bytesAt bs 32 16 ++ bytesAt bs (68 + 12 * ph) 4 ++
    bytesAt bs 48 20 ++ bytesAt bs (72 + 12 * ph) 8

/-- CRC-32C without a fold (R423, R424). -/
def crcPlain (bs : List Byte) : Nat := crcRun 0 (crcInit 0) bs ^^^ crcXorout 0

/-- Words 4 and 6 of the state record. -/
def setWord (a : Option Almanac) : Nat := match a with
  | some a => a.setA % 8 + a.setB % 8 * 8 + a.tau % 65536 * 65536
  | none => 0

def identOf (a : Option Almanac) : Nat := (a.map fun x => almIdent x.bytes).getD 0

/-- The 40-byte state record of subframe `k` (R261); the scrub flag is the port's as it stands (R264). -/
def State.rayRecord (s : State) (p k : Nat) (f : FrameState) : List Byte :=
  let r := (s.port p).ray
  let scrub := (r.new.map (·.scrubBad)).getD false || (r.old.map (·.scrubBad)).getD false
  let lens := (match f.new with
    | some a => lensWords a k
    | none => []) ++
    (match f.old with
     | some a => lensWords a k
     | none => [])
  wordBytes
    [ p + 4 * k + bit f.new.isNone * 16 + bit (decide (f.fadeLen ≠ 0)) * 32 + bit r.held.isSome * 64 + bit r.diodeLost * 128 +
        bit scrub * 256,
      f.frame % 2 ^ 32, f.frame / 2 ^ 32 % 65536, identOf f.new, setWord f.new, identOf f.old, setWord f.old,
      f.fadeF + f.fadeLen * 256, f.eu % 65536 + f.ev % 65536 * 65536, crcPlain lens ]

/-- The intended ray-map signature (R262). -/
def State.raySig (s : State) (p k : Nat) (f : FrameState) : Nat :=
  crc32c (p * 2 ^ 30 + k * 2 ^ 28 + f.frame % 2 ^ 28) (s.rayRecord p k f)

/-- The subframe fixed last: its frame's state and its number. -/
def Port.lastFixed (q : Port) : Option (FrameState × Nat) :=
  match q.frames.getLast? with
  | some f => f.fixes.getLast?.map fun x => (f, x.1)
  | none => none

/-- The MSI-X message of a ring (R263, R306), to its owner. -/
def State.signalRing (s : State) (r : Option Nat) : State := match r with
  | some r => s.emit (.msix (ringFn r) (s.ringVector r))
  | none => s

/-- A mismatch of the two signatures (R263, R306). -/
def State.rayMismatch (s : State) (p k frame intended delivered : Nat) : State :=
  let s := (s.setBit (0x442C + 0x80 * p) 0).count (0x442C + 0x80 * p) 31 16 1
  let s := s.raise (err 2 0x04 0x02 (instP p (16 * k)) frame intended delivered)
  (s.signalRing (s.port p).lastCommitRing).setWbit 0x00C (12 + p)

/-- RMAP_SIGNATURE_CHECK (R262, R263, R266): `upset` is the difference between what the sequencer fixed and what the
shuttles received, 0 when nothing is wrong. -/
def execRmapSignatureCheck (p : Fin 4) (upset : Word) (s : State) : Host.Outcome State Fault Refusal :=
  match (s.port p).lastFixed with
  | none => .next s
  | some (f, k) =>
    let want := s.raySig p k f
    let got := want ^^^ upset.toNat
    let s := (s.setReg (0x4424 + 0x80 * p) got).setReg (0x4428 + 0x80 * p) (k * 2 ^ 30 + f.frame % 2 ^ 30)
    .next (if got = want then s else s.rayMismatch p k f.frame want got)

/-- The pinned copies of a port: 0 that of new, 1 that of old, 2 that of an almanac waiting for the first frame. -/
def RayMap.copy (r : RayMap) (which : Nat) : Option Almanac := if which = 0 then r.new else if which = 1 then r.old else r.next

/-- The identity of a pinned copy, computed again, differs from the header's (R264). -/
def RayMap.scrubFailed (r : RayMap) (which : Nat) : RayMap :=
  let bad := fun (a : Almanac) => { a with scrubBad := true }
  if which = 0 then { r with new := r.new.map bad } else if which = 1 then { r with old := r.old.map bad } else { r with next := r.next.map bad }

/-- ALMANAC_SCRUB (R264): `damage` is the pinned copy that is read again and what its identity computed again differs by, 0 when it is
sound. -/
def execAlmanacScrub (p : Fin 4) (damage : Fin 3 × Word) (s : State) : Host.Outcome State Fault Refusal :=
  match (s.port p).ray.copy damage.1 with
  | none => .next s
  | some a =>
    if damage.2 = 0 then .next s
    else
      let s := s.modPort p fun q => { q with ray := q.ray.scrubFailed damage.1 }
      .next ((s.setBit (0x442C + 0x80 * p) 1).raise
        (err 2 0x04 0x03 (instP p 0) (almIdent a.bytes) (almIdent a.bytes ^^^ damage.2.toNat) 0))

end Sys2Proof.Machine
end

