-- ==== Sys2Proof/Machine/Shepherd.lean ====
section
/-! DEFINITION. View shepherding (09_shepherd.md): SHEPHERD_UPDATE and the eye table (R269 to R272), the eye state of a
subframe (R273 to R275, R277, R283, R285), and which rays are full (R268, R276). -/

namespace Sys2Proof.Machine

/-! ### The eye table (R269, R270) -/

def Desc.eyeCount (d : Desc) : Nat := d.f 2 11 8

/-- The position of a failing eye: [12] set, the eye index in [11:8], word index 3 (R270). -/
def eyePos (reason i : Nat) : Fail := (stBadDesc, reason * 65536 + 4096 + i * 256 + 3)

/-- A non-zero reserved byte of an eye entry: bytes 40 to 47 and the top bits of t_ns (R14, R269). -/
def eyeReserved (e : Nat × List Nat) : Option Fail :=
  failIf (decide (ew e 10 ≠ 0) || decide (ew e 11 ≠ 0) || decide (2 ^ 30 ≤ ew e 8)) (eyePos 2 e.1)

/-- A velocity outside its range (R269). -/
def fastEye (e : Nat × List Nat) (j : Nat) : Bool :=
  decide (sw e j < -10000 * 65536) || decide (10000 * 65536 < sw e j)

/-- ez, velocities and t_ns (R269). -/
def eyeRange (e : Nat × List Nat) : Option Fail :=
  failIf (decide (sw e 2 < 50 * 65536) || decide (5000 * 65536 < sw e 2) || fastEye e 3 || fastEye e 4 || fastEye e 5 ||
    decide (1000000000 ≤ fieldOf (ew e 8) 29 0)) (eyePos 3 e.1)

/-- An eye in the encodings of R269. -/
def eyeOf (e : Nat × List Nat) : Eye :=
  { ex := sw e 0, ey := sw e 1, ez := sw e 2, vx := sw e 3, vy := sw e 4, vz := sw e 5
    at_ := (ew e 6 + 2 ^ 32 * ew e 7) * 1000000000 + fieldOf (ew e 8) 29 0, coneU := fieldOf (ew e 9) 15 0
    coneV := fieldOf (ew e 9) 31 16 }

/-- The checks of R270 that follow permission. -/
def State.eyeFail (s : State) (d : Desc) (table : HostRead) : Option Fail :=
  let es := indexed (tableWords table.bytes 48 d.eyeCount)
  firstFail
    [ failIf (s.follower (d.f 2 1 0)) (badDesc 4 2),
      table.fail.map timeoutOf,
      es.findSome? eyeReserved,
      es.findSome? eyeRange ]

/-! ### SHEPHERD_UPDATE (R271, R272) -/

/-- Install an update on its port (R271): a stopped port uses it from its first subframe, it completes at once, and updates that waited when
the port stopped are replaced by it (R272). -/
def State.installEyes (s : State) (p id : Nat) (eyes : List Eye) : State :=
  let us := (s.port p).eyeUpdates
  if (s.port p).phase = .stopped then
    let s := s.modPort p fun q => { q with eyes := eyes, eyesEmpty := eyes.isEmpty, eyeUpdates := [] }
    (us.foldl (fun s u => s.finish u.id (stOk, 2) 0 0) s).finish id (stOk, 0) 0 0
  else
    (s.modPort p fun q => { q with eyeUpdates := us ++ [{ id := id, eyes := eyes, at_ := s.now }] }).begun id

/-- An earlier update of the port has not been installed (R271). -/
def State.eyesHeld (s : State) (e : Entry) : Bool :=
  (s.before e).any fun x => decide (x.desc.opcode = opShepherdUpdate) && decide (x.desc.f 2 1 0 = e.desc.f 2 1 0) && !x.started

/-- Start an update: it is installed in the order of acceptance among its port's (R271). -/
def startEyes (e : Entry) (s : State) : State := match e.job with
  | .eyes eyes => if s.eyesHeld e then s else s.installEyes (e.desc.f 2 1 0) e.id eyes
  | _ => s

/-- Accept an update that passes R270; it starts once nothing that it waits for is left (R93, R107, R108), a replay at once (R515). -/
def State.acceptEyes (s : State) (d : Desc) (table : HostRead) (mirrored : Bool) : State :=
  let job := Job.eyes ((indexed (tableWords table.bytes 48 d.eyeCount)).map eyeOf)
  let id := s.nextId
  if mirrored then ((s.accept d job [] true).logData d 0 table.bytes).admitted id startEyes
  else ((s.admitNew d job []).logData d 0 table.bytes).startIf id startEyes

/-- Ask for the eye table, read once at acceptance (R24, R25, R270). -/
def State.askEyes (s : State) (d : Desc) : State :=
  if s.follower (d.f 2 1 0) ∨ d.eyeCount = 0 then s
  else s.emit (.readRequest d.fn (d.addr 3) (48 * d.eyeCount) (.table d.ring))

/-- SHEPHERD_UPDATE (R270 to R272). -/
def execShepherdUpdate (r : Fin 128) (table : HostRead) (s : State) : Host.Outcome State Fault Refusal :=
  .next (s.withCur r opShepherdUpdate fun d s =>
    let s := s.askEyes d
    match s.eyeFail d table with
    | some f => s.reject d f
    | none => s.acceptEyes d table false)

/-! ### The eye state of a subframe -/

/-- The updates that a release at tick `tick` takes up: installed earlier (R272); on a standby, those up to the one that an
APPLY record names (R518). -/
def State.eyesTaken (s : State) (p frame tick : Nat) : List EyeUpdate :=
  let us := (s.port p).eyeUpdates
  if s.cway.role.standby then
    match s.applied p 3 frame with
    | some a => us.take (((indexed us).find? fun x => s.names a x.2.id).map (fun x => x.1 + 1) |>.getD 0)
    | none => []
  else us.takeWhile fun u => decide (u.at_ < tick)

/-- Take up installed updates at a release of row 0 of subframe `k` of frame `frame` (R272). -/
def State.takeEyes (s : State) (p frame k tick : Nat) : State :=
  let us := s.eyesTaken p frame tick
  match us.getLast? with
  | none => s
  | some u =>
    let s := s.modPort p fun q =>
      { q with eyes := u.eyes, eyesEmpty := u.eyes.isEmpty, eyeUpdates := q.eyeUpdates.drop us.length }
    let s := s.applyRecord p 3 frame u.id
    let r1 := frame / 2 ^ 32 % 65536 + k * 65536
    let s := us.dropLast.foldl (fun s x => s.finish x.id (stOk, 2) (frame % 2 ^ 32) r1) s
    s.finish u.id (stOk, 0) (frame % 2 ^ 32) r1

/-- The settings of a port's shepherd (R284). -/
def State.shepEnable (s : State) (p : Nat) : Bool := decide (s.field (0x4600 + 0x40 * p) 0 0 = 1)
def State.shepNarrow (s : State) (p : Nat) : Nat := max 1 (s.field (0x4600 + 0x40 * p) 15 8)
def State.staleMs (s : State) (p : Nat) : Nat := max 1 (min 50 (s.field (0x4610 + 0x40 * p) 7 0))

/-- The age of an eye at a presentation time, in ns; `t` in sixths of 2^-32 ns (R274). -/
def Eye.age (e : Eye) (t : Int) : Rat := (t : Rat) / (6 * 2 ^ 32) - (e.at_ : Rat)

/-- One coordinate in mm after `dt` seconds (R274). -/
def moved (x v : Int) (dt : Rat) : Rat := (x : Rat) / 65536 + (v : Rat) / 65536 * dt

/-- Seconds of extrapolation (R274). -/
def Eye.dt (e : Eye) (t : Int) : Rat := maxRat (e.age t) 0 / 1000000000

/-- A cone width in sixteenths of a cu: the eye's own or the port's default, narrowed at T3 and above (R276, R277). -/
def State.cone (s : State) (p own dflt : Nat) (narrow : Bool) : Nat :=
  let c := if own = 0 then dflt else own
  if narrow then c * s.shepNarrow p / 256 else c

/-- The error of a component, at most 2^-12 mm either way (R274, log 14). -/
def eyeOff (e : Eye) (t : Int) (comp : Nat) : Rat := max (-1 / 4096) (min (1 / 4096) (Config.eyeError e t comp))

/-- The eye extrapolated and fixed for the subframe (R274, R277). -/
def State.eyeAt (s : State) (p : Nat) (t : Int) (narrow : Bool) (e : Eye) : EyeAt :=
  let dt := e.dt t
  let r := 0x4604 + 0x40 * p
  { x := moved e.ex e.vx dt + eyeOff e t 0, y := moved e.ey e.vy dt + eyeOff e t 1, z := moved e.ez e.vz dt + eyeOff e t 2
    cu := s.cone p e.coneU (s.field r 15 0) narrow, cv := s.cone p e.coneV (s.field r 31 16) narrow }

/-- The lowest reason of R283 that holds, 0 when shepherding applies; `at_` are the extrapolated eyes. -/
def State.shepReason (s : State) (p : Nat) (t : Int) (at_ : List EyeAt) : Nat :=
  let q := s.port p
  let lim : Rat := (s.staleMs p : Rat) * 1000000
  let pitch := s.reg (0x460C + 0x40 * p)
  let tan := s.reg (0x4608 + 0x40 * p)
  if !(s.shepEnable p) then 1
  else if q.eyesEmpty then 2
  else if q.eyes.any fun e => decide (lim < e.age t) || decide (e.age t < -lim) then 3
  else if fieldOf pitch 15 0 = 0 ∨ fieldOf pitch 31 16 = 0 ∨ fieldOf tan 15 0 = 0 ∨ fieldOf tan 31 16 = 0 then 4
  else if at_.any fun e => decide (e.z < 50) then 5
  else 0

/-- The largest eye age in µs for SHEP_AGE (R284). -/
def State.shepAge (s : State) (p : Nat) (t : Int) : Nat :=
  let q := s.port p
  if q.eyesEmpty then 0xFFFFFFFF
  else satNat (maxOf (q.eyes.map fun e => (maxRat (e.age t) 0 / 1000).floor.toNat)) 0xFFFFFFFF

/-- Fix the eye state of a subframe whose presentation time is `t` (R273 to R277, R283 to R285). -/
def State.fixEyes (s : State) (p : Nat) (t : Int) : EyeFix × State :=
  let q := s.port p
  let narrow := decide (3 ≤ s.sense.level)
  let stat := 0x4614 + 0x40 * p
  let eyes := q.eyes.map fun e => s.eyeAt p t narrow e
  let reason := s.shepReason p t eyes
  let fix : EyeFix :=
    { shepherd := decide (reason = 0), eyes := if reason = 0 then eyes else [], geom := s.reg (0x4608 + 0x40 * p)
      pitch := s.reg (0x460C + 0x40 * p) }
  let s := s.setReg (0x4618 + 0x40 * p) (s.shepAge p t)
  let s := if reason = 3 then s.count stat 31 16 1 else s
  (fix, ((s.setField stat 8 8 (bit narrow)).setField stat 6 4 reason).setField stat 3 0 q.eyes.length)

/-! ### Which rays are full (R268, R276) -/

/-- A point or direction in cone units seen from an eye (R268): `m` and `e` in mm. -/
def eyeDir (m e z tan : Rat) : Rat := 2048 * (m - e) / (z * tan)

/-- A tangent of SHEP_GEOM, u2.14, and a pitch of SHEP_PITCH, u12.4 µm, in mm, as sampled with the eye state (R267, R284). -/
def EyeFix.tan (x : EyeFix) (hi lo : Nat) : Rat := (fieldOf x.geom hi lo : Rat) / 2 ^ 14
def EyeFix.pitchMm (x : EyeFix) (hi lo : Nat) : Rat := (fieldOf x.pitch hi lo : Rat) / 16000

/-- A distance from the cone's centre lies within the cone: certain up to the exact cone, certain not 1/8 cu beyond it, and
`open_` between (R268, R276, log 7). -/
def withinCone (du dv : Rat) (cu cv : Nat) (open_ : Bool) : Bool :=
  let u := absRat du - (cu : Rat) / 16
  let v := absRat dv - (cv : Rat) / 16
  if u ≤ 0 ∧ v ≤ 0 then true
  else if 1 / 8 < u ∨ 1 / 8 < v then false
  else open_

/-- The eye sees the ray (R276). -/
def EyeFix.sees (f : EyeFix) (xs ys u v : Rat) (e : EyeAt) : Bool :=
  let mx := xs * f.pitchMm 15 0
  let my := ys * f.pitchMm 31 16
  withinCone (u - eyeDir mx e.x e.z (f.tan 15 0)) (v - eyeDir my e.y e.z (f.tan 31 16)) e.cu e.cv (Config.coneChoice e mx my u v)

/-- The ray is full (R276, R282, R283). -/
def EyeFix.full (f : EyeFix) (xs ys u v : Rat) : Bool := !f.shepherd || f.eyes.any (f.sees xs ys u v)

/-- Every ray is full (R283). -/
def EyeFix.all : EyeFix := { shepherd := false, eyes := [], geom := 0, pitch := 0 }

end Sys2Proof.Machine
end

