-- ==== Sys2Proof/Machine/Weave.lean ====
section
/-! DEFINITION. The Weave (07_weave.md): a port's schedule in ticks (R314 to R316), culling and gating (R154, R191 to R193),
one ray (R208 to R215, R280), atlas mode (R229 to R233), tone (R188), tile rows, tiles and segments (R220 to R224), their
cost and counters (R225, R234, R235, R489), and the witness words (R286, R287). -/

namespace Sys2Proof.Machine

/-! ### The schedule (R314 to R316, R320) -/

/-- Ticks from the start of a line slot to segment `k`'s slot (R316): 96 words at r × nd words a tick, r = 20 / (7 × 2^rate). -/
def Link.segTicks (l : Link) (k : Nat) : Nat := 96 * k * 7 * 2 ^ l.rate / (20 * l.nd)

/-- Segments of a line (R316). -/
def Mode.segments (m : Mode) : Nat := m.hActive / 96

/-- Tile rows of a subframe (R220). -/
def Mode.tileRows (m : Mode) : Nat := ceilDiv m.vActive 32

/-- Where a member's lines and columns lie in the panel (R320, R321). -/
def memberOff (gang member : Nat) (m : Mode) : Nat × Nat :=
  if gang = 15 then (member % 2 * m.hActive, member / 2 * m.vActive)
  else if gang = 0 then (0, 0) else (member * m.hActive, 0)

/-! ### Tone (R186, R188) -/

/-- 2^a is at most l^131072, that is, a / 131,072 is at most log2 l. -/
def logAtLeast (l : Rat) (a : Int) : Bool := decide (pow2 a ≤ l ^ 131072)

/-- The greatest index below 2^bits from `a`, by its bits, whose lower rounding edge is at or below log2 l (R188). -/
def toneIndex (l : Rat) (lo : Int) : Nat → Nat → Nat
  | 0, a => a
  | n + 1, a =>
    let b := a + 2 ^ n
    toneIndex l lo n (if logAtLeast l (2 * (b : Int) - 1 + 131072 * lo) then b else a)

/-- Point `i` of a tone curve (R186). -/
def tonePoint (bs : List Byte) (i : Nat) : Rat :=
  let b := toneBlock bs (i / 12)
  lightVal b.e (b.m.getD (i % 12) 0)

/-- tone of R212 (R188): identity when no curve is current (R189). -/
def toneMap (tone : Option (List Byte)) (l : Rat) : Rat := match tone with
  | none => l
  | some bs =>
    let lo := signedOf 8 (leAt bs 4 1)
    if l < pow2 lo then tonePoint bs 0
    else if pow2 (lo + 32) ≤ l then tonePoint bs 1024
    else
      let f := toneIndex l lo 22 0
      if 1024 * 2048 ≤ f then tonePoint bs 1024
      else
        let i := f / 2048
        let t : Rat := ((f % 2048 : Nat) : Rat) / 2048
        longLight (tonePoint bs i + t * (tonePoint bs (i + 1) - tonePoint bs i))

/-! ### The protected sampler (R298, R299) -/

/-- The active bank. -/
def Prot.bank (p : Prot) : Tab Byte := if p.active then p.bank1 else p.bank0

/-- The texel (i, j) of the protected image: lanes and alpha of its block, a zero block when its check fails (R57, R299). -/
def Prot.texel (p : Prot) (i j : Nat) : Block :=
  let b := readBlock (fun o => tabGet 0 p.bank o) (j * lineStride fmtRgba p.wq) (i / 3)
  if b.ok 0 then b else zeroBlock 0

/-- Inside the mask (R298). -/
def Prot.masked (p : Prot) (i j : Nat) : Bool := decide ((p.texel i j).m.getD (4 * (i % 3) + 3) 0 = 4095)

/-- Lp and ap of R212 (R299). -/
def Prot.sample (p : Prot) (xs ys : Rat) (c : Nat) : Rat × Rat :=
  let i := xs.floor - p.px
  let j := ys.floor - p.py
  if 0 ≤ i ∧ i < p.wq ∧ 0 ≤ j ∧ j < p.hq ∧ p.masked i.toNat j.toNat then
    let b := p.texel i.toNat j.toNat
    (lightVal b.e (b.m.getD (4 * (i.toNat % 3) + c) 0), 1)
  else (0, 0)

/-! ### Texels and taps (R213, R214) -/

/-- A plate or mask at a version. -/
structure Sheet where
  obj : Obj
  v   : Version
deriving DecidableEq, Repr

def State.sheet (s : State) (h n : Nat) : Option Sheet := match s.objOf h with
  | some o => (o.version n).map fun v => { obj := o, v := v }
  | none => none

/-- A plate tile of the sheet cannot be read any more (R147). -/
def State.gone (s : State) (x : Sheet) (t : Nat) : Bool := s.harb.unreadable.contains (x.v.tiles.getD t 0)

/-- The block that holds pixel `i` of line `j`, as a till tags it (R206). -/
def Sheet.tag (x : Sheet) (i j : Nat) : TillBlock :=
  let n := i / perBlock x.obj.format
  { handle := x.obj.handle, version := x.v.num, tile := x.obj.tileAt (n * perBlock x.obj.format) j, line := j, block := n }

/-- The block of a sheet that holds pixel `i` of line `j`, and whether its header check failed (R57, R147, R206, R452). A zero block in place of
an unreadable tile's is no failed check, so it is not reported (DESIGN CHOICE, log 72). -/
def State.sheetBlock (s : State) (x : Sheet) (i j : Nat) : Block × Bool :=
  let o := x.obj
  let z := zeroBlock (fmtClass o.format)
  let n := i / perBlock o.format
  let first := n * perBlock o.format
  if s.gone x (o.tileAt first j) || s.gone x (o.tileAt (min (first + perBlock o.format - 1) (o.width - 1)) j) then (z, false)
  else if s.blockPoisoned o x.v j n then (z, true)
  else match o.block x.v j n with
    | some b => (b, false)
    | none => (z, true)

/-- The pixels a tap may use: origin and size (R214, R231). -/
structure Window where
  x : Nat
  y : Nat
  w : Nat
  h : Nat
deriving DecidableEq, Repr

/-- The index that an edge rule gives within [lo, lo + n); none when the texel counts as transparent (R214). -/
def edgeIndex (clamp : Bool) (lo n : Nat) (i : Int) : Option Nat :=
  if (lo : Int) ≤ i ∧ i < lo + n then some i.toNat
  else if clamp ∧ 0 < n then some (if i < lo then lo else lo + n - 1) else none

/-- What one texel gives: colour, alpha, mask, the handles whose blocks failed their check, and the blocks used (R206, R213). -/
structure RayTexel where
  col : Rat
  a   : Rat
  m   : Rat
  bad : List Nat
  use : List TillBlock
deriving DecidableEq, Repr

/-- A plate of the scene as the Weave uses it. -/
structure Plate where
  e    : SceneEntry
  body : Sheet
  mask : Option Sheet
deriving DecidableEq, Repr

/-- texel() and mask() of R213. -/
def State.texel (s : State) (p : Plate) (win : Window) (i j : Int) (c : Nat) : RayTexel :=
  match edgeIndex p.e.edge win.x win.w i, edgeIndex p.e.edge win.y win.h j with
  | some x, some y =>
    let b := s.sheetBlock p.body x y
    let k := match p.mask with
      | some m => s.sheetBlock m x y
      | none => (zeroBlock 1, false)
    { col := lightVal b.1.e (b.1.m.getD (4 * (x % 3) + c) 0), a := alphaVal (b.1.m.getD (4 * (x % 3) + 3) 0)
      m := if p.mask.isSome then alphaVal (k.1.m.getD (x % 12) 0) else 1
      bad := (if b.2 then [p.e.plate] else []) ++ (if k.2 then [p.e.mask] else [])
      use := p.body.tag x y :: (p.mask.map fun m => m.tag x y).toList }
  | _, _ => { col := 0, a := 0, m := 1, bad := [], use := [] }

/-- A tap: colour as long light, alpha as u0.16, failing handles and blocks used. -/
structure Tap where
  c   : Rat
  a   : Rat
  bad : List Nat
  use : List TillBlock
deriving DecidableEq, Repr

/-- Texels summed with their weights, the fade applied, and rounded (R213). -/
def tapOf (fade : Nat) (ts : List (Rat × RayTexel)) : Tap :=
  let f := alphaVal fade
  { c := longLight ((ts.map fun t => t.1 * t.2.col * t.2.m).sum * f), a := u016 ((ts.map fun t => t.1 * t.2.a * t.2.m).sum * f)
    bad := ts.flatMap fun t => t.2.bad, use := ts.flatMap fun t => t.2.use }

/-- The bilinear tap of R213. -/
def State.tap (s : State) (p : Plate) (win : Window) (xp yp : Rat) (c : Nat) : Tap :=
  let fx := xp - 1 / 2
  let fy := yp - 1 / 2
  let i := fx.floor
  let j := fy.floor
  let wx := fx - (i : Rat)
  let wy := fy - (j : Rat)
  tapOf p.e.fade
    [ ((1 - wx) * (1 - wy), s.texel p win i j c), ((1 - wx) * wy, s.texel p win i (j + 1) c),
      (wx * (1 - wy), s.texel p win (i + 1) j c), (wx * wy, s.texel p win (i + 1) (j + 1) c) ]

/-- The nearest-texel tap of a coarse ray (R280). -/
def State.nearTap (s : State) (p : Plate) (win : Window) (xp yp : Rat) (c : Nat) : Tap :=
  tapOf p.e.fade [(1, s.texel p win xp.floor yp.floor c)]

/-! ### One ray (R212) -/

/-- round12 of R212. -/
def round12 (x : Rat) : Rat := roundTo 12 x

/-- The limit of stage 4. -/
def limitDir (x : Rat) : Rat := min (max x (-2048 + 1 / 4096)) (2048 - 1 / 4096)

/-- The s16.12 range of stage 5 (R214). -/
def limitPos (x : Rat) : Rat := min (max x (-32768)) (32768 - 1 / 4096)

/-- Placement entries as exact values (R155). -/
def SceneEntry.coef (x : Int) : Rat := (x : Rat) / 2 ^ 24
def SceneEntry.shift (x : Int) : Rat := (x : Rat) / 2 ^ 12
def SceneEntry.d (e : SceneEntry) : Rat := (e.disp : Rat) / 2 ^ 12

/-- The point sampled on a plate (R151), before rounding. -/
def SceneEntry.point (e : SceneEntry) (xs ys u v : Rat) : Rat × Rat :=
  ( SceneEntry.coef e.a00 * xs + SceneEntry.coef e.a01 * ys + SceneEntry.shift e.t0 + e.d * u / 2048,
    SceneEntry.coef e.a10 * xs + SceneEntry.coef e.a11 * ys + SceneEntry.shift e.t1 + e.d * v / 2048 )

/-- What gating means for a plate of a frame (R193, R215): `out`, it takes no part in the picture; `gated`, it is not counted in n; `dark`,
its fade or mask leaves nothing of it, so a coarse ray does not count it (R280). -/
structure Gate where
  out   : Bool
  gated : Bool
  dark  : Bool
deriving DecidableEq, Repr

/-- Composited light, transmittance in steps of 2^-16, plates composited, plates that count for a coarse ray, the objects whose blocks
failed, the blocks used and the entries reached. -/
structure Ray where
  l   : Rat
  t   : Nat
  n   : Nat
  k   : Nat
  bad : List Nat
  use : List TillBlock
  hit : List Nat
deriving DecidableEq, Repr

/-- One more plate behind what has been composited (R212 stage 7). -/
def Ray.add (r : Ray) (g : Gate) (entry : Nat) (t : Tap) : Ray :=
  { l := longLight (r.l + (r.t : Rat) / 65536 * t.c), t := rheSat ((r.t : Rat) * (1 - t.a)) 65536, n := r.n + bit (!g.gated)
    k := r.k + bit (!g.dark), bad := r.bad ++ t.bad, use := r.use ++ t.use, hit := r.hit ++ [entry] }

/-- What a frame's rays need of the scene: plates front to back with their gating (R152, R215). -/
structure RayScene where
  plates : List (Plate × Gate)
  atlas  : Bool
  hflip  : Bool
  vflip  : Bool
  prot   : Prot
deriving DecidableEq, Repr

/-- The cell of an atlas that a direction chooses (R230). -/
def atlasCell (o : Obj) (hflip vflip : Bool) (u v : Rat) : Window :=
  let cw := o.width / 12
  let ch := o.height / 12
  let col := ((2048 - u) * 12 / 4096).floor.toNat
  let row := ((2048 - v) * 12 / 4096).floor.toNat
  { x := (if hflip then 11 - col else col) * cw, y := (if vflip then 11 - row else row) * ch, w := cw, h := ch }

/-- The tap a ray takes on a plate: the point of R151 or R231, bilinear or nearest. -/
def State.plateTap (s : State) (sc : RayScene) (p : Plate) (coarse : Bool) (xs ys u v : Rat) (c : Nat) : Tap :=
  let win := if sc.atlas then atlasCell p.body.obj sc.hflip sc.vflip u v
    else { x := 0, y := 0, w := p.body.obj.width, h := p.body.obj.height }
  let pt := if sc.atlas then p.e.point xs ys 0 0 else p.e.point xs ys u v
  let xp := if sc.atlas then (win.x : Rat) + round12 pt.1 else limitPos (round12 pt.1)
  let yp := if sc.atlas then (win.y : Rat) + round12 pt.2 else limitPos (round12 pt.2)
  if coarse then s.nearTap p win xp yp c else s.tap p win xp yp c

/-- The composite of one ray from screen point (xs, ys), the plates sampled from (xc, yc) (R212, R215, R280). A plate gated because all of
its tiles are skipped is composited all the same, since skipping changes no word (R190); a coarse ray counts it, and never one that its fade
or mask leaves nothing of, whether culling is on or off (DEDUCED, log 73). -/
def State.composite (s : State) (sc : RayScene) (coarse : Bool) (xs ys xc yc u v : Rat) (c : Nat) : Ray :=
  let pr := sc.prot.sample xs ys c
  let start : Ray := { l := longLight pr.1, t := rheSat (65536 * (1 - pr.2)) 65536, n := 0, k := 0, bad := [], use := [], hit := [] }
  sc.plates.foldl (fun r p =>
    if r.t ≤ 512 ∨ p.2.out ∨ (coarse ∧ 2 ≤ r.k) then r
    else r.add p.2 p.1.e.index (s.plateTap sc p.1 coarse xc yc u v c)) start

/-- The colour of a subpixel column (R208). -/
def colourOf (bgr : Bool) (xsub : Nat) : Nat := if bgr then 2 - xsub % 3 else xsub % 3

/-- The screen point of a subpixel (R208). -/
def screenX (xsub : Nat) : Rat := ((xsub : Rat) + 1 / 2) / 3
def screenY (y : Nat) : Rat := (y : Rat) + 1 / 2

/-- The plates of a scene with their gating; `safe` gates all (R216), atlas mode all but the first, and one too small (R229, R232). -/
def State.rayScene (s : State) (f : FrameState) (safe : Bool) : RayScene :=
  let atlas := decide (f.ctrl % 2 = 1)
  let ps := (indexed f.scene).filterMap fun x =>
    (s.sheet x.2.plate x.2.version).map fun b =>
      ( ({ e := x.2, body := b, mask := if x.2.mask = 0 then none else s.sheet x.2.mask x.2.maskVer } : Plate),
        { out := safe || (atlas && (decide (x.1 ≠ 0) || f.atlasGated)) || (f.dark.getD x.1 false && f.gated.getD x.1 false)
          gated := f.gated.getD x.1 false, dark := f.dark.getD x.1 false } )
  { plates := ps, atlas := atlas, hflip := decide (f.ctrl / 2 % 2 = 1), vflip := decide (f.ctrl / 4 % 2 = 1), prot := f.prot }

/-- The subpixel order of the frame (R208, R218). -/
def FrameState.bgr (f : FrameState) : Bool := decide (f.ctrl / 16 % 2 = 1)

/-- The result of an output ray: its drive word, whether it was full, and its composite. -/
structure Drive where
  word : W12
  full : Bool
  ray  : Ray
deriving DecidableEq, Repr

/-- Stages 8 to 10 of an output ray (R212). -/
def FrameState.driveWord (f : FrameState) (l : Rat) (xsub y c : Nat) : W12 :=
  let d := f.transfer (toneMap f.tone l) c
  let g := f.uniformity xsub y c
  BitVec.ofNat 12 (rheSat (g.1 * d + g.2) 4095)

/-- The screen point a coarse ray samples from: the cell's (R279); `y0` is the panel line of the tile row's top, `rows` the
lines the row has. -/
def cellPoint (xsub y y0 rows : Nat) : Rat × Rat :=
  let g := (y - y0) / 3 * 3
  let k := min 3 (rows - g)
  (((xsub / 3 : Nat) : Rat) + 1 / 2, ((y0 + g : Nat) : Rat) + (k : Rat) / 2)

/-- One output ray of subframe `k` at panel subpixel column and line (R212, R276, R280). In a measuring frame the protected plate stays in
front of the grey (R498). -/
def State.outputRay (s : State) (f : FrameState) (sc : RayScene) (k xsub y y0 rows : Nat) : Drive :=
  let xs := screenX xsub
  let ys := screenY y
  let c := colourOf f.bgr xsub
  let base := f.lensBase xs ys c k
  let r := f.residual xsub y
  let u := limitDir (round12 (base.1 + r.1))
  let v := limitDir (round12 (base.2 + r.2))
  let full := (tabGet EyeFix.all f.fixes k).full xs ys u v
  let at_ := if full then (xs, ys) else cellPoint xsub y y0 rows
  let ray := s.composite sc (!full) xs ys at_.1 at_.2 u v c
  { word := match f.grey with
      | some g => if (sc.prot.sample xs ys c).2 = 1 then f.driveWord ray.l xsub y c else BitVec.ofNat 12 g
      | none => f.driveWord ray.l xsub y c
    full := full, ray := ray }

/-- The cost of an output ray in quarters of a shuttle clock (R225, R233). -/
def Drive.cost (d : Drive) (atlas : Bool) : Nat := if !d.full then 1 else if atlas then 4 else 4 * max 1 (ceilDiv d.ray.n 4)

/-! ### Witness rays (R286, R287) -/

/-- A witness ray's word; alone over black for the protected witness (R286, R303). -/
def State.witnessRay (s : State) (f : FrameState) (sc : RayScene) (alone : Bool) (xsub y : Nat) : W12 × Ray :=
  let xs := screenX xsub
  let ys := screenY y
  let c := colourOf f.bgr xsub
  let sc := if alone then { sc with plates := [] } else sc
  let ray := s.composite sc false xs ys xs ys 0 0 c
  let l := if alone then ray.l else toneMap f.tone ray.l
  (BitVec.ofNat 12 (rheSat (builtinTransfer l) 4095), ray)

/-- The witness rays of a region, line by line (R287); `safe` gates every ordinary plate (R216, R305). -/
def State.witnessRays (s : State) (f : FrameState) (safe alone : Bool) (x y w h : Nat) : List (W12 × Ray) :=
  let sc := s.rayScene f safe
  (List.range h).flatMap fun j => (List.range (3 * w)).map fun i => s.witnessRay f sc alone (3 * x + i) (y + j)

/-! ### Culling and gating (R154, R192, R193, R300) -/

/-- The class of square (x, y) of a sheet: 0 transparent, 1 opaque, 2 mixed (R153). -/
def Sheet.square (x : Sheet) (sx sy : Nat) : Nat := x.v.opacity.getD (sy * ceilDiv x.obj.width 64 + sx) 2

/-- The effective class of a square of an entry (R154). -/
def Plate.effective (p : Plate) (sx sy : Nat) : Nat :=
  let own := p.body.square sx sy
  let m := match p.mask with
    | some k => k.square sx sy
    | none => 1
  if own = 0 ∨ m = 0 then 0 else if own = 1 ∧ p.e.fade = 4095 ∧ m = 1 then 1 else 2

/-- The squares a window meets, all of a class. -/
def windowAll (x0 x1 y0 y1 : Rat) (f : Nat → Nat → Bool) : Bool :=
  let sx0 := (x0 / 64).floor.toNat
  let sx1 := (x1 / 64).ceil.toNat
  let sy0 := (y0 / 64).floor.toNat
  let sy1 := (y1 / 64).ceil.toNat
  (List.range (sy1 - sy0)).all fun j => (List.range (sx1 - sx0)).all fun i => f (sx0 + i) (sy0 + j)

/-- A nearer plate as R192 uses it: placement, disparity, size, and which squares are opaque. -/
structure Cover where
  a00 : Int
  a01 : Int
  a10 : Int
  a11 : Int
  t0 : Rat
  t1 : Rat
  d : Rat
  w : Nat
  h : Nat

/-- The protected plate's squares of protected texels (R300). -/
def Prot.squareOpaque (p : Prot) (sx sy : Nat) : Bool :=
  (List.range (min 64 (p.hq - 64 * sy))).all fun j => (List.range (min 64 (p.wq - 64 * sx))).all fun i =>
    p.masked (64 * sx + i) (64 * sy + j)

/-- Plate tile `t` of `p` is hidden by the cover (R192); `eu`, `ev` in cu. -/
def hiddenBy (p : Plate) (t : Nat) (q : Cover) (isOpaque : Nat → Nat → Bool) (eu ev : Rat) : Bool :=
  let o := p.body.obj
  let x0 : Rat := (t % tilesX o.width * 128 : Nat)
  let y0 : Rat := (t / tilesX o.width * 64 : Nat)
  let x1 : Rat := (min (t % tilesX o.width * 128 + 128) o.width : Nat)
  let y1 : Rat := (min (t / tilesX o.width * 64 + 64) o.height : Nat)
  let dx := q.t0 - SceneEntry.shift p.e.t0
  let dy := q.t1 - SceneEntry.shift p.e.t1
  let dd := absRat (q.d - p.e.d)
  let mx := dd * eu / 2048
  let my := dd * ev / 2048
  let wx0 := x0 + dx - mx - 2
  let wx1 := x1 + dx + mx + 2
  let wy0 := y0 + dy - my - 2
  let wy1 := y1 + dy + my + 2
  decide (q.a00 = p.e.a00) && decide (q.a01 = p.e.a01) && decide (q.a10 = p.e.a10) && decide (q.a11 = p.e.a11) &&
    decide (0 ≤ wx0) && decide (wx1 ≤ q.w) && decide (0 ≤ wy0) && decide (wy1 ≤ q.h) &&
    windowAll wx0 wx1 wy0 wy1 isOpaque

def Plate.cover (p : Plate) : Cover :=
  { a00 := p.e.a00, a01 := p.e.a01, a10 := p.e.a10, a11 := p.e.a11, t0 := SceneEntry.shift p.e.t0, t1 := SceneEntry.shift p.e.t1
    d := p.e.d, w := p.body.obj.width, h := p.body.obj.height }

def Prot.cover (p : Prot) : Cover :=
  { a00 := 2 ^ 24, a01 := 0, a10 := 0, a11 := 2 ^ 24, t0 := -(p.px : Rat), t1 := -(p.py : Rat), d := 0, w := p.wq, h := p.hq }

/-- R192 permits tile `t` of a plate behind `front` to be skipped. -/
def maySkip (p : Plate) (t : Nat) (front : List Plate) (prot : Prot) (eu ev : Rat) : Bool :=
  (decide (0 < prot.wq) && hiddenBy p t prot.cover prot.squareOpaque eu ev) ||
  front.any fun q => hiddenBy p t q.cover (fun x y => decide (q.effective x y = 1)) eu ev

/-- Tile `t` lies wholly under squares whose mask square is transparent (R193): a tile spans two squares across. -/
def Plate.maskedOut (p : Plate) (t : Nat) : Bool := match p.mask with
  | none => false
  | some m =>
    let o := p.body.obj
    let sx := 2 * (t % tilesX o.width)
    let sy := t / tilesX o.width
    decide (m.square sx sy = 0) && (decide (o.width ≤ 64 * (sx + 1)) || decide (m.square (sx + 1) sy = 0))

/-- Gating of one entry of a frame, whether nothing is left of it by its fade or mask, and the tiles skipped (R192, R193); `off` when it is
gated for another reason (R216, R229, R232), `on` when culling is on, `skip` when R192 applies. -/
def gateOf (frame k : Nat) (p : Plate) (front : List Plate) (prot : Prot) (eu ev : Rat) (off on skip : Bool) : Bool × Bool × Nat :=
  let n := p.body.obj.tileCount
  let skips := fun t => on && skip && maySkip p t front prot eu ev && Config.cullSkips frame k t
  let gone := ((List.range n).filter skips).length
  let masked := (List.range n).all p.maskedOut
  let gated := off || decide (p.e.fade = 0) || (on && (decide (gone = n) || masked))
  (gated, decide (p.e.fade = 0) || masked, if gated then n else gone)

/-- Gating of every entry of a frame's scene. -/
def State.gateScene (s : State) (frame : Nat) (scene : List SceneEntry) (prot : Prot) (eu ev : Nat) (on atlas small safe : Bool) :
    List (Bool × Bool × Nat) :=
  let ps := scene.map fun e => (s.sheet e.plate e.version).map fun b =>
    ({ e := e, body := b, mask := if e.mask = 0 then none else s.sheet e.mask e.maskVer } : Plate)
  (indexed ps).map fun x => match x.2 with
    | some p => gateOf frame x.1 p ((ps.take x.1).filterMap id) prot ((eu : Rat) / 16) ((ev : Rat) / 16)
        (safe || (atlas && (decide (x.1 ≠ 0) || small))) on (!atlas)
    | none => (true, true, 0)

/-- The atlas plate is smaller than 12 × 12 (R232). -/
def State.atlasSmall (s : State) (scene : List SceneEntry) : Bool := match scene with
  | e :: _ => ((s.sheet e.plate e.version).map fun x => decide (x.obj.width < 12) || decide (x.obj.height < 12)).getD false
  | [] => false

/-! ### Tile rows and tiles (R220 to R223, R489) -/

/-- The frame state of a number on a port. -/
def Port.frameOf (q : Port) (n : Nat) : Option FrameState := q.frames.find? fun f => f.frame = n

/-- Counts of a frame. -/
def Port.count (q : Port) (n : Nat) : WeaveCount := tabGet WeaveCount.zero q.counts n

def State.modCount (s : State) (p n : Nat) (f : WeaveCount → WeaveCount) : State :=
  s.modPort p fun q => { q with counts := tabPut q.counts n (f (q.count n)) }

/-- A tile row is released on a port (R221). -/
def State.releaseRow (s : State) (p : Nat) (row : TileRow) : State := s.modPort p fun q => { q with rows := q.rows ++ [row] }

/-- The key of a segment in the lead buffer. -/
def segKey (frame sub line seg : Nat) : Nat := (frame * 4 + sub) * 2 ^ 24 + line * 512 + seg

/-- The send slot of a segment that member `p` sends of a frame of port `l` has begun by now: the frame is over, or under way and its tick
reached. -/
def State.segBegun (s : State) (p l frame sub line seg : Nat) : Bool :=
  let q := s.port l
  if frame < q.frame then true
  else if frame = q.frame ∧ q.phase ≠ .stopped then
    decide (q.slotTick (q.frameAt + (sub * q.mode.vTotal + line : Nat)) + (s.port p).link.segTicks seg ≤ s.now)
  else false

/-- Lines of a tile row (R220). -/
def rowLines (m : Mode) (row : Nat) : Nat := min 32 (m.vActive - 32 * row)

/-- Tiles of a released row of port `p` that have not been started and are not abandoned: the send slots of not all of their lines have
begun (R222, R223). -/
def State.unstartedTiles (s : State) (p : Nat) (r : TileRow) : Nat := match (s.port r.lead).frameOf r.frame with
  | some f =>
    if r.at_ ≤ s.now ∧ s.segBegun p r.lead r.frame r.sub (32 * r.row + rowLines f.mode r.row - 1) 0 = false then f.mode.segments - r.next
    else 0
  | none => 0

/-- Tiles released and not started (R222, R234): those of rows released by now, and witness tiles. -/
def State.waitingTiles (s : State) (p : Nat) : Nat :=
  ((s.port p).rows.map fun r => s.unstartedTiles p r).sum + (s.port p).witTiles.length

/-- Candidates to start: the deadline, the port, and the row's frame, subframe and number, or none for a witness tile. -/
def State.candidates (s : State) : List (Nat × Nat × Option TileRow) :=
  (List.range 4).flatMap fun p =>
    let q := s.port p
    (q.rows.filter fun r => decide (0 < s.unstartedTiles p r)).map (fun r => (r.deadline, p, some r)) ++
    q.witTiles.map fun w => (w.deadline, p, none)

/-- The tiles of a row that were abandoned before they were started (R223): their segments are late, and the row has missed its deadline
(R234). -/
def State.abandonRow (s : State) (p : Nat) (r : TileRow) : State := match (s.port r.lead).frameOf r.frame with
  | none => s
  | some f =>
    let n := f.mode.segments - r.next
    if n = 0 ∨ s.segBegun p r.lead r.frame r.sub (32 * r.row + rowLines f.mode r.row - 1) 0 = false then s
    else
      let hit := fun (x : TileRow) => decide (x.lead = r.lead) && decide (x.frame = r.frame) && decide (x.sub = r.sub) && decide (x.row = r.row)
      let s := s.modPort p fun q => { q with rows := (q.rows.map fun x =>
        if hit x then { x with next := f.mode.segments, left := x.left - n } else x).filter fun x => !(hit x && decide (x.left = 0)) }
      s.modCount r.lead r.frame fun c => { c with late := c.late + n * rowLines f.mode r.row, slack := 0 }

/-- Every row of a port is looked at for tiles to abandon. -/
def State.abandonRows (s : State) (p : Nat) : State := (s.port p).rows.foldl (fun s r => s.abandonRow p r) s

/-- The one with the earliest deadline (R222); of equal ones the first of the list (log 33). -/
def earliest : List (Nat × Nat × Option TileRow) → Option (Nat × Nat × Option TileRow)
  | [] => none
  | x :: xs => match earliest xs with
    | some y => if y.1 < x.1 then some y else some x
    | none => some x

/-- An ebb slot comes before a tile: T3 or T4, and the deadline at least guard line times ahead (R489, SENSE_EBB). -/
def State.weaveEbb (s : State) (p deadline : Nat) : Nat :=
  let guardLines := s.field 0x9008 23 16
  if 3 ≤ s.sense.level ∧ s.now + guardLines * (s.port p).lineTicks / 2 ^ 33 ≤ deadline then
    8 * max 1 (s.field 0x9008 31 24)
  else 0

/-- The Weave works: not in the fatal state (R549), not tripped (R491), and the unit drives glass (R511). -/
def State.weaves (s : State) : Bool :=
  s.running && !s.flt.fatalHold && !s.sense.tripped && s.cway.role.drives

/-- A row whose tile has been started. -/
def Port.startTile (q : Port) (r : TileRow) : Port :=
  { q with rows := q.rows.map fun x =>
      if x.lead = r.lead ∧ x.frame = r.frame ∧ x.sub = r.sub ∧ x.row = r.row then { x with next := x.next + 1 } else x }

/-- The till of a shuttle. -/
def State.till (s : State) (k : Nat) : Till := tabGet Till.reset s.tills k

/-- Blocks of 156 bits that 16 KB hold (R206). -/
def tillRoom : Nat := 840

/-- What a till keeps where it is free to drop blocks (R206, R228, log 16). -/
def Till.trim (t : Till) (seed : Nat) : Till := { t with held := (t.held.filter (Config.tillKeeps seed)).take tillRoom }

/-- Shuttle `k` takes up a tile: nothing of the scene has been reached in it yet. -/
def State.takeTile (s : State) (k : Nat) (sh : Shuttle) : State :=
  { s.draw with shuttles := tabPut s.shuttles k sh, tills := tabPut s.tills k { (s.till k).trim s.fresh with reached := [] } }

/-- A free shuttle starts the released tile with the earliest deadline; tiles whose lines have all begun are abandoned (R222, R223, R489). -/
def State.tileStart (s : State) (k : Nat) : State :=
  if (tabFind s.shuttles k).isSome || !s.weaves then s
  else
    let s := forN 4 (fun p s => s.abandonRows p) s
    match earliest s.candidates with
    | none => s
    | some (dl, p, some r) =>
      (s.modPort p fun q => q.startTile r).takeTile k
        { port := p, lead := r.lead, frame := r.frame, sub := r.sub, row := r.row, col := r.next, line := 32 * r.row
          safe := r.safe, witness := false, from_ := s.now + s.weaveEbb r.lead dl }
    | some (dl, p, none) =>
      match (s.port p).witTiles with
      | [] => s
      | w :: ws =>
        (s.modPort p fun q => { q with witTiles := ws }).takeTile k
          { port := p, lead := p, frame := w.frame, sub := 0, row := w.region, col := w.idx, line := 0, safe := w.safe
            witness := true, from_ := s.now + s.weaveEbb p dl }

/-- WEAVE_TILE_START (R222, R489). -/
def execWeaveTileStart (shuttle : Fin 128) (s : State) : Host.Outcome State Fault Refusal := .next (s.tileStart shuttle)

/-! ### Segments (R223) -/

/-- Put a finished segment's counts into its frame (R234). -/
def countRays (ds : List Drive) (atlas : Bool) (c : WeaveCount) : WeaveCount :=
  { c with
    clocks := c.clocks + (ds.map fun d => d.cost atlas).sum
    full := c.full + (ds.filter (·.full)).length
    coarse := c.coarse + (ds.filter fun d => !d.full).length
    maxPlates := max c.maxPlates (maxOf (ds.map (·.ray.n)))
    deep := c.deep + (ds.filter fun d => decide (4 < d.ray.n)).length }

/-- Records of R57 for objects not yet named for the frame (R539 WEAVE 0x01). -/
def State.reportBlocks (s : State) (p frame : Nat) (bad : List Nat) : State :=
  let known := ((s.port p).frameOf frame).map (·.reported) |>.getD []
  let new := bad.eraseDups.filter fun h => !(known.contains h)
  let s := s.modPort p fun q => { q with frames := q.frames.map fun f =>
    if f.frame = frame then { f with reported := f.reported ++ new } else f }
  new.foldl (fun s h => s.raise (err 1 0x04 0x01 (instP p 0) h frame 0)) s

/-! ### Till fills (R206, R228, R234) -/

/-- A scene entry's part of a tile's working set in bytes (R228); `eu` and `ev` in cu. -/
def SceneEntry.workingSet (e : SceneEntry) (atlas : Bool) (eu ev : Rat) : Rat :=
  let d := if atlas then 0 else absRat e.d
  let sx := absRat (SceneEntry.coef e.a00) + absRat (SceneEntry.coef e.a01)
  let sy := absRat (SceneEntry.coef e.a10) + absRat (SceneEntry.coef e.a11)
  let mx := d * eu / 2048
  let my := d * ev / 2048
  13 / 2 * (32 * sx + 2 * mx + 3) * (sy + 2 * my + 3)

/-- The working set of a tile that reaches these entries fits into the till (R228). -/
def FrameState.fits (f : FrameState) (reached : List Nat) : Bool :=
  let es := f.scene.filter fun e => reached.contains e.index
  decide ((es.map fun e => e.workingSet (decide (f.ctrl % 2 = 1)) ((f.eu : Rat) / 16) ((f.ev : Rat) / 16)).sum ≤ 16384)

/-- Where a block lies: its plate tile's place, none when nothing is stored there. -/
def State.blockPlace (s : State) (b : TillBlock) : Option Place :=
  (((s.objOf b.handle).bind fun o => o.version b.version).bind fun v => v.tiles[b.tile]?).bind fun t => tabFind s.harb.places t

/-- Fills of blocks, each with how often, counted in their frame (R234). -/
def State.countFills (s : State) (l frame : Nat) (bs : List (TillBlock × Nat)) : State :=
  let from_ := fun (chn : Bool) => (bs.map fun b => match s.blockPlace b.1 with
    | some p => if decide (p = .chandlery) = chn then b.2 else 0
    | none => 0).sum
  s.modCount l frame fun c => { c with fillDram := c.fillDram + from_ false, fillChn := c.fillChn + from_ true }

/-- A shuttle's rays have used blocks and reached entries: it fills those that its till does not hold. While the working set of what the tile
has reached fits, none is filled twice for the tile; else what it filled for one line it may fill again for the next (R228). A witness tile
fills a block as often as it likes. -/
def State.fillTill (s : State) (k : Nat) (sh : Shuttle) (f : FrameState) (use : List TillBlock) (hit : List Nat) : State :=
  let t := s.till k
  let new := (use.filter fun b => !(t.held.contains b)).eraseDups
  let t : Till := { held := new ++ t.held, reached := (t.reached ++ hit).eraseDups }
  let t := if !sh.witness && f.fits t.reached then t else t.trim s.fresh
  let s := s.countFills sh.lead sh.frame (new.map fun b => (b, if sh.witness then 1 + Config.refills s.fresh b else 1))
  { s.draw with tills := tabPut s.tills k t }

/-! ### Segments (R223) -/

/-- The words of a shuttle's next segment. -/
def State.segment (s : State) (sh : Shuttle) (f : FrameState) : List Drive :=
  let off := memberOff f.gang (gangMember f.gang sh.port) f.mode
  let sc := s.rayScene f sh.safe
  (List.range 96).map fun i =>
    s.outputRay f sc sh.sub (off.1 + 96 * sh.col + i) (off.2 + sh.line) (off.2 + 32 * sh.row) (rowLines f.mode sh.row)

/-- The first line of a tile from `line` on whose send slot has not begun, and how many were skipped (R223). -/
def State.nextLine (s : State) (sh : Shuttle) (last : Nat) : Nat → Nat → Nat
  | 0, line => line
  | n + 1, line =>
    if line ≤ last ∧ s.segBegun sh.port sh.lead sh.frame sh.sub line 0 then s.nextLine sh last n (line + 1) else line

/-- A tile of a row is finished or abandoned: when it is the row's last, the row's slack is noted (R234). -/
def State.tileDone (s : State) (sh : Shuttle) : State :=
  let hit := fun (r : TileRow) =>
    decide (r.lead = sh.lead) && decide (r.frame = sh.frame) && decide (r.sub = sh.sub) && decide (r.row = sh.row)
  match (s.port sh.port).rows.find? hit with
  | none => s
  | some r =>
    if r.left ≤ 1 then
      let t := (s.port sh.lead).lineTicks
      let slack := if r.deadline < s.now ∨ t = 0 then 0 else satNat ((r.deadline - s.now) * 2 ^ 33 / t) 255
      (s.modPort sh.port fun q => { q with rows := q.rows.filter fun x => !(hit x) }).modCount sh.lead sh.frame fun c =>
        { c with slack := min c.slack slack }
    else s.modPort sh.port fun q => { q with rows := q.rows.map fun x => if hit x then { x with left := x.left - 1 } else x }

/-- The shuttle goes on with its next line, or its tile ends (R223). -/
def State.shuttleNext (s : State) (k : Nat) (sh : Shuttle) (f : FrameState) : State :=
  let last := min (32 * sh.row + 31) (f.mode.vActive - 1)
  let line := if s.segBegun sh.port sh.lead sh.frame sh.sub (sh.line + 1) 0 then s.nextLine sh last 32 (sh.line + 1) else sh.line + 1
  let skipped := min line (last + 1) - (sh.line + 1)
  let s := s.modCount sh.lead sh.frame fun c => { c with late := c.late + skipped }
  if line ≤ last then { s with shuttles := tabPut s.shuttles k { sh with line := line } }
  else { s with shuttles := tabErase s.shuttles k }.tileDone sh

/-- Segments the lead buffer of a port holds at most: 3,145,728 words (R17, R319). -/
def leadRoom : Nat := 32768

/-- A shuttle finishes a segment: it goes to the lead buffer, or is discarded when its send slot has begun (R223). -/
def State.segmentDone (s : State) (k : Nat) (sh : Shuttle) (f : FrameState) : State :=
  let ds := s.segment sh f
  let s := s.modCount sh.lead sh.frame (countRays ds (decide (f.ctrl % 2 = 1)))
  let s := s.fillTill k sh f (ds.flatMap (·.ray.use)) (ds.flatMap (·.ray.hit))
  let s := s.reportBlocks sh.lead sh.frame (ds.flatMap (·.ray.bad))
  let s :=
    if s.segBegun sh.port sh.lead sh.frame sh.sub sh.line sh.col then s.modCount sh.lead sh.frame fun c => { c with late := c.late + 1 }
    else s.modPort sh.port fun q =>
      { q with lead := tabPut q.lead (segKey sh.frame sh.sub sh.line sh.col) (ds.map (·.word)) }
  s.shuttleNext k sh f

/-- WEAVE_SEGMENT_DONE (R212, R223): the shuttle waits while the lead buffer has no room (R30, R325). -/
def execWeaveSegmentDone (shuttle : Fin 128) (s : State) : Host.Outcome State Fault Refusal :=
  match tabFind s.shuttles shuttle with
  | none => .next s
  | some sh =>
    if sh.witness ∨ s.now < sh.from_ ∨ leadRoom ≤ (s.port sh.port).lead.length ∨ !s.weaves then .next s
    else match (s.port sh.lead).frameOf sh.frame with
      | some f => .next (s.segmentDone shuttle sh f)
      | none => .next { s with shuttles := tabErase s.shuttles shuttle }

/-! ### Publication (R203, R235) -/

/-- Segments that a shuttle has not finished of a frame whose last line has been sent: the rest of its tile (R223). -/
def Shuttle.unfinished (sh : Shuttle) (f : FrameState) : Nat :=
  if sh.witness then 0 else 32 * sh.row + rowLines f.mode sh.row - sh.line

/-- What a frame of port `p` has not finished when its last line has been sent is late (R223, R234): tiles not started, and
what shuttles still work on. -/
def State.closeRows (s : State) (p : Nat) (f : FrameState) : State :=
  let s := forN 4 (fun m s => s.abandonRows m) s
  let mine := s.shuttles.filter fun x => decide (x.2.lead = p) && decide (x.2.frame = f.frame) && !x.2.witness
  let n := (mine.map fun x => x.2.unfinished f).sum
  s.modCount p f.frame fun c => { c with late := c.late + n, slack := if n = 0 then c.slack else 0 }

/-- The counters of a completed frame are published together (R203, R235). Shuttle clocks that are no whole number are rounded down, and so are
fills of 156 bits in units of 64 bytes (DESIGN CHOICE, log 74). -/
def State.publishFrame (s : State) (p : Nat) (f : FrameState) : State :=
  let s := s.closeRows p f
  let c := (s.port p).count f.frame
  let b := 0x4100 + 0x40 * p
  let sat := fun n => satNat n 0xFFFFFFFF
  let s := (((s.setReg (b + 0x04) (sat (c.clocks / 4))).setReg (b + 0x08) (sat (c.witness / 4))).setReg (b + 0x0C) (sat c.full)).setReg
    (b + 0x10) (sat c.coarse)
  let s := s.setReg (b + 0x14) (satNat c.late 65535 * 65536 + c.slack)
  let s := (s.setReg (b + 0x18) (sat (c.fillDram * 156 / 512))).setReg (b + 0x1C) (sat (c.fillChn * 156 / 512))
  let s := s.setReg (b + 0x20) (c.maxPlates * 65536 + satNat (c.deep / 4096) 65535)
  let s := s.setField (0x3104 + 0x40 * p) 15 0 (((indexed f.gated).map fun x => if x.2 then 2 ^ x.1 else 0).sum % 65536)
  let s := s.setField (0x3108 + 0x40 * p) 23 0 (satNat f.skipped 0xFFFFFF)
  s.modPort p fun q => { q with counts := tabErase q.counts f.frame }

end Sys2Proof.Machine
end

