-- ==== Sys2Proof/Machine/Monitor.lean ====
section
/-! DEFINITION. Monitored and protected content (10_safety_content.md): SIGNATURE_EXPECT and its tables (R293 to R295), the
region settings (R291, R292, R296), signatures and E(n) (R287 to R290), witness tiles and results (R224, R297, R303),
protected activations (R298, R301, R302), SAFE_STATE_N (R304, R305) and the reactions (R306). -/

namespace Sys2Proof.Machine

/-! ### Regions (R291) -/

/-- A region of a port. -/
def Port.region (q : Port) (r : Nat) : Region := tabGet Region.reset q.regions r

def Port.setRegion (q : Port) (r : Nat) (x : Region) : Port := { q with regions := tabPut q.regions r x }

/-- Witness rays of the enabled regions of a port, per frame (R291). -/
def budgetOf (rs : List Region) : Nat := ((rs.filter (·.enable)).map fun r => 3 * r.w * r.h).sum

/-- The witness budget (R291). -/
def witnessBudget : Nat := 1048576

/-- The regions a port's settings give. -/
def Port.allRegions (q : Port) : List Region := (List.range 32).map q.region

/-! ### The source of a region and the Watch port's writes (R292, R296) -/

/-- Region `r` of port `p` is Watch-sourced. -/
def State.watchSourced (s : State) (p r : Nat) : Bool := decide (s.wreg (wpBase p + 0x20) / 2 ^ r % 2 = 1)

/-- A region with one of its four setting words replaced (R312). -/
def Region.put (x : Region) (sub v : Nat) : Region :=
  if sub = 0 then { x with x := fieldOf v 15 0, y := fieldOf v 31 16 }
  else if sub = 4 then { x with w := fieldOf v 15 0, h := fieldOf v 31 16 }
  else if sub = 8 then { x with e0 := v % 2 ^ 32 }
  else if sub = 0xC then { x with enable := decide (v % 2 = 1) }
  else x

/-- The region that a setting's offset lies in, and the word within it. -/
def regionOf (off : Nat) : Nat := (off - 0x100) / 0x20
def regionWord (off : Nat) : Nat := (off - 0x100) % 0x20

/-- A waiting write applies: its region is the Watch port's, or it only disables the region, as a change of source does. -/
def State.writeApplies (s : State) (p : Nat) (w : Nat × Nat × Nat) : Bool :=
  s.watchSourced p (regionOf w.1) || (decide (regionWord w.1 = 0xC) && decide (w.2.1 % 2 = 0))

/-- One waiting write taken up. -/
def State.takeWrite (s : State) (p : Nat) (w : Nat × Nat × Nat) : State :=
  if s.writeApplies p w then s.modPort p fun q => q.setRegion (regionOf w.1) ((q.region (regionOf w.1)).put (regionWord w.1) w.2.1)
  else s

/-- The Watch port's region writes accepted before the latch tick take effect together (R292, R296). -/
def State.latchWrites (s : State) (p latch : Nat) : State :=
  let ws := (s.port p).wpWrites.takeWhile fun w => decide (w.2.2 < latch)
  let s := ws.foldl (fun s w => s.takeWrite p w) s
  s.modPort p fun q => { q with wpWrites := q.wpWrites.drop ws.length }

/-! ### SIGNATURE_EXPECT (R293, R294) -/

/-- A position in a signature table (R294). -/
def sigPos (reason i j : Nat) : Nat := reason * 65536 + 0x1000 + 16 * i + j

/-- Reserved bits of an entry (R293): word 0 uses [4:0] and [8], words 4 to 7 nothing. -/
def sigReserved (e : Nat × List Nat) : Option Fail :=
  (List.range 8).findSome? fun j =>
    let used := if j = 0 then 0x11F else if j ≤ 3 then 0xFFFFFFFF else 0
    failIf (decide (ew e j &&& (0xFFFFFFFF ^^^ used) ≠ 0)) (stBadDesc, sigPos 2 e.1 j)

def sigRegion (e : Nat × List Nat) : Nat := ew e 0 % 32

/-- Two entries for one region: the position of the second. -/
def sigTwice (es : List (Nat × List Nat)) : Option Fail :=
  es.findSome? fun e =>
    failIf ((es.take e.1).any fun x => decide (sigRegion x = sigRegion e)) (stBadDesc, sigPos 4 e.1 0)

def Desc.sigCount (d : Desc) : Nat := d.f 2 13 8

/-- The checks of R294 that follow permission. -/
def State.sigFail (s : State) (d : Desc) (table : HostRead) : Option Fail :=
  let p := d.f 2 1 0
  let es := indexed (tableWords table.bytes 32 d.sigCount)
  firstFail
    [ failIf (s.follower p) (badDesc 4 2),
      table.fail.map timeoutOf,
      es.findSome? sigReserved,
      sigTwice es,
      es.findSome? fun e => failIf (s.watchSourced p (sigRegion e)) (stPermission, sigPos 3 e.1 0),
      failIf (decide (8 ≤ (s.port p).sigTables.length)) (noSpace 8) ]

/-- An entry in the encodings of R293. -/
def sigEntry (e : Nat × List Nat) : SigEntry :=
  { region := sigRegion e, enable := decide (fieldOf (ew e 0) 8 8 = 1), x := fieldOf (ew e 1) 15 0, y := fieldOf (ew e 1) 31 16
    w := fieldOf (ew e 2) 15 0, h := fieldOf (ew e 2) 31 16, e0 := ew e 3 }

/-- Accept a table that passes R294: it waits behind the port's others (R295). -/
def State.acceptSig (s : State) (d : Desc) (table : HostRead) (mirrored : Bool) : State :=
  let t : SigTable :=
    { id := s.nextId, ring := d.ring, at_ := s.now, bind := d.flag21, frame := d.w 5 + 2 ^ 32 * d.f 6 15 0
      entries := (indexed (tableWords table.bytes 32 d.sigCount)).map sigEntry, boundTo := none, taken := false, superseded := false }
  let s := if mirrored then s.accept d .plain [] true else s.admitNew d .plain []
  (s.logData d 0 table.bytes).modPort (d.f 2 1 0) fun q => { q with sigTables := q.sigTables ++ [t] }

/-- Ask for the signature table, read once at acceptance (R24, R25, R294). -/
def State.askSig (s : State) (d : Desc) : State :=
  if s.follower (d.f 2 1 0) ∨ d.sigCount = 0 then s
  else s.emit (.readRequest d.fn (d.addr 3) (32 * d.sigCount) (.table d.ring))

/-- SIGNATURE_EXPECT (R293 to R295). -/
def execSignatureExpect (r : Fin 128) (table : HostRead) (s : State) : Host.Outcome State Fault Refusal :=
  .next (s.withCur r opSignatureExpect fun d s =>
    let s := s.askSig d
    match s.sigFail d table with
    | some f => s.reject d f
    | none => s.acceptSig d table false)

/-! ### Tables at a latch instant (R295) -/

/-- The commits of a run have taken effect or been superseded: their tables go with them (R295). -/
def markBound (run : List Nat) (ts : List SigTable) : List SigTable :=
  let last := run.getLast?
  let rival := ts.any fun t => decide (t.boundTo = last) && last.isSome
  ts.map fun t =>
    match t.boundTo with
    | some c =>
      if run.contains c then { t with taken := true, superseded := decide (last ≠ some c) && rival } else t
    | none => t

/-- A table at the head applies at this latch instant (R295); on a standby, when an APPLY record names it (R518). -/
def State.tableDue (s : State) (p frame latch : Nat) (t : SigTable) : Bool :=
  if s.cway.role.standby then
    s.cway.applyQ.any fun a => decide (a.port = p) && decide (a.kind = 4) && decide (a.frame ≤ frame) && s.names a t.id
  else if t.bind then t.taken
  else decide (t.at_ < latch) && decide (t.frame ≤ frame) && ((s.entry t.id).map fun e => s.noWait e).getD false

/-- One entry's settings (R293): a disabling entry's words 1 to 3 are ignored. -/
def SigEntry.apply (e : SigEntry) (x : Region) : Region :=
  if e.enable then { x with enable := true, x := e.x, y := e.y, w := e.w, h := e.h, e0 := e.e0 } else { x with enable := false }

/-- A port with the entries applied. -/
def Port.withEntries (q : Port) (es : List SigEntry) : Port :=
  es.foldl (fun q e => q.setRegion e.region (e.apply (q.region e.region))) q

/-- A table's turn (R295): applied for the frame, superseded, or over the budget. -/
def State.applyTable (s : State) (p frame : Nat) (t : SigTable) : State :=
  let r1 := frame / 2 ^ 32 % 65536
  let lo := frame % 2 ^ 32
  if t.superseded then s.finish t.id (stOk, 2) lo r1
  else
    let es := t.entries.filter fun e => !(s.watchSourced p e.region)
    let skipped := if es.length < t.entries.length then 4 else 0
    let q := (s.port p).withEntries es
    if witnessBudget < budgetOf q.allRegions then s.finish t.id (noSpace 7) 0 0
    else
      let late := if t.bind ∨ t.frame = 0 then 0 else satNat (frame - t.frame) 255
      let s := (s.setPort p { q with lastTableRing := some t.ring }).applyRecord p 4 frame t.id
      s.finish t.id (if late = 0 then stOk else stOkLate, late * 256 + skipped) lo r1

/-- Tables in acceptance order, until one that does not apply yet holds back those behind it (R295). -/
def State.runTables (p frame latch : Nat) : List SigTable → State → State
  | [], s => s
  | t :: ts, s =>
    if s.tableDue p frame latch t then
      State.runTables p frame latch ts
        ((s.modPort p fun q => { q with sigTables := q.sigTables.filter fun x => x.id ≠ t.id }).applyTable p frame t)
    else s

/-- The region settings for a frame: the Watch port's writes first, host tables second (R296); `run` is the run of commits
that this latch instant took. -/
def State.latchRegions (s : State) (p frame latch : Nat) (run : List Nat) : State :=
  let s := s.latchWrites p latch
  let s := s.modPort p fun q => { q with sigTables := markBound run q.sigTables }
  State.runTables p frame latch (s.port p).sigTables s

/-! ### Signatures (R288 to R290) -/

/-- Z(x, L) of R290. -/
def sigShift (x len : Nat) : Nat := crcRun 0 0 (leBytes 4 x ++ List.replicate len 0)

/-- Bytes of N witness words (R288). -/
def sigLength (n : Nat) : Nat := ceilDiv (12 * n) 8

/-- The prefix word (R289). -/
def sigPrefix (p : Nat) (prot : Bool) (region frame : Nat) : Nat :=
  p % 4 * 2 ^ 30 + bit prot * 2 ^ 29 + region % 32 * 2 ^ 24 + frame % 2 ^ 24

/-- The signature of witness words (R288, R289). -/
def signatureOf (p : Nat) (prot : Bool) (region frame : Nat) (ws : List W12) : Nat :=
  crc32c (sigPrefix p prot region frame) (pack12 ws)

/-- E(n) (R290). -/
def expectedSig (e0 frame n : Nat) : Nat := e0 ^^^ sigShift (frame % 2 ^ 24) (sigLength n)

/-! ### Witness tiles (R224, R287, R303) -/

/-- The screen in pixels and lines (R209, R320). -/
def screenOf (gang : Nat) (m : Mode) : Nat × Nat := ((panelOf gang m).1 / 3, (panelOf gang m).2)

/-- The region is checked in a frame of this screen (R291). -/
def Region.checked (r : Region) (scr : Nat × Nat) : Bool :=
  r.enable && decide (1 ≤ r.w) && decide (1 ≤ r.h) && decide (r.x + r.w ≤ scr.1) && decide (r.y + r.h ≤ scr.2)

/-- The protected plate's footprint clipped to the screen: origin and size (R303). -/
def Prot.footprint (p : Prot) (scr : Nat × Nat) : Nat × Nat × Nat × Nat :=
  (p.px, p.py, min (p.px + p.wq) scr.1 - p.px, min (p.py + p.hq) scr.2 - p.py)

/-- The rectangle that the witness of a region covers; region 32 is the protected witness. -/
def Port.witRect (q : Port) (f : FrameState) (r : Nat) : Nat × Nat × Nat × Nat :=
  if r = 32 then f.prot.footprint (screenOf f.gang f.mode)
  else ((q.region r).x, (q.region r).y, (q.region r).w, (q.region r).h)

/-- Rays of a rectangle. -/
def rectRays (x : Nat × Nat × Nat × Nat) : Nat := 3 * x.2.2.1 * x.2.2.2

/-- The witness rays of a region of a frame (R287, R303); `safe` when SAFE_STATE_N applied at their release (R305). -/
def State.regionRays (s : State) (p r : Nat) (f : FrameState) (safe : Bool) : List (W12 × Ray) :=
  let x := (s.port p).witRect f r
  s.witnessRays f safe (decide (r = 32)) x.1 x.2.1 x.2.2.1 x.2.2.2

/-- The regions, and 32 for the protected witness, that a frame checks (R291, R303). -/
def Port.witnessed (q : Port) (f : FrameState) : List Nat :=
  ((List.range 32).filter fun r => (q.region r).checked (screenOf f.gang f.mode)) ++
  (if f.prot.wq ≠ 0 ∧ 0 < rectRays (q.witRect f 32) then [32] else [])

/-- Publish a region's result (R297, R313): a checked one also in SAFE_MISMn. -/
def State.setResult (s : State) (p r frame code : Nat) (sig : Option Nat) : State :=
  let s := s.modPort p fun q =>
    let x := q.region r
    q.setRegion r { x with sig := sig.getD x.sig, result := code, frame := frame % 2 ^ 24 }
  if code = 3 then s else s.setField (0xF008 + 0x10 * p) r r (bit (decide (code = 1)))

/-- Publish the protected witness's result (R297, R303, R313). -/
def State.setProtResult (s : State) (p frame code : Nat) (sig : Option Nat) : State :=
  let s := s.modPort p fun q => { q with prot := { q.prot with
    sig := sig.getD q.prot.sig, result := code, frame := frame % 2 ^ 24 } }
  if code = 3 then s else s.setField (0xF000 + 0x10 * p) 17 17 (bit (decide (code = 1)))

/-- The witness tiles of a frame are released at its start; their deadline is the next latch instant (R224). Regions that
are not checked get result 3, and so does the protected plate when it is empty or off the screen (R297, R303). -/
def State.releaseWitness (s : State) (p deadline : Nat) (f : FrameState) : State :=
  let q := s.port p
  let rs := q.witnessed f
  let tiles := rs.flatMap fun r => (List.range (ceilDiv (rectRays (q.witRect f r)) 3072)).map fun i =>
    ({ region := r, idx := i, frame := f.frame, deadline := deadline, safe := f.safe || q.safeSince } : WitTile)
  let left := rs.map fun r => (r, ceilDiv (rectRays (q.witRect f r)) 3072)
  let s := s.modPort p fun q => { q with witTiles := tiles, witLeft := left }
  let s := if rs.contains 32 then s else s.setProtResult p f.frame 3 none
  forN 32 (fun r s => if rs.contains r then s else s.setResult p r f.frame 3 none) s

/-! ### Results and reactions (R297, R306) -/

/-- A signature that differs (R306). -/
def State.sigMismatch (s : State) (p r frame got want : Nat) : State :=
  let s := s.count (0xF00C + 0x10 * p) 31 16 1
  if r = 32 then (s.raise (err 2 0x05 0x02 (instP p 0) frame got want)).setWbit 0x00C p
  else
    let s := s.setWbit (wpBase p + 0x40) r
    let s := s.raise (err 2 0x05 0x01 (instP p r) frame got want)
    (s.signalRing (s.port p).lastTableRing).setWbit 0x00C p

/-- miss_limit (R312): 0 acts as 1. -/
def State.missLimit (s : State) (p : Nat) : Nat := max 1 (s.wreg (wpBase p + 0x28) % 256)

/-- A region's witness was unfinished (R297, R306): at the limit its run of misses begins again. -/
def State.regionMissed (s : State) (p r frame : Nat) : State :=
  let s := (s.setWbit (wpBase p + 0x44) r).count (0xF00C + 0x10 * p) 15 0 1
  let n := ((s.port p).region r).missRun + 1
  let lim := s.missLimit p
  let run := fun (k : Nat) (s : State) => s.modPort p fun q => q.setRegion r { q.region r with missRun := k }
  if n < lim then run n s
  else
    let s := (run 0 s).raise (err 2 0x05 0x03 (instP p r) frame lim 0)
    (s.signalRing (s.port p).lastTableRing).setWbit 0x00C (4 + p)

/-- A region's words are complete: compare (R290, R297). -/
def State.compareRegion (s : State) (p r : Nat) (f : FrameState) (ws : List W12) : State :=
  let prot := decide (r = 32)
  if !prot ∧ (s.port p).safeSince then s.setResult p r f.frame 3 none
  else
    let e0 := if prot then f.prot.e0 else ((s.port p).region r).e0
    let got := signatureOf p prot (if prot then 0 else r) f.frame ws
    let want := expectedSig e0 f.frame ws.length
    let code := if got = want then 0 else 1
    let s := if prot then s.setProtResult p f.frame code (some got)
      else (s.setResult p r f.frame code (some got)).modPort p fun q => q.setRegion r { q.region r with missRun := 0 }
    if code = 0 then s else s.sigMismatch p r f.frame got want

/-- A witness tile finishes: its rays are counted (R225, R234), its bad blocks reported (R57), and a region without another
unfinished tile is compared (R297). -/
def State.witnessDone (s : State) (k : Nat) (sh : Shuttle) (f : FrameState) : State :=
  let p := sh.port
  let all := s.regionRays p sh.row f sh.safe
  let mine := (all.drop (3072 * sh.col)).take 3072
  let atlas := decide (f.ctrl % 2 = 1)
  let cost := (mine.map fun x => if atlas then 4 else 4 * max 1 (ceilDiv x.2.n 4)).sum
  let s := ({ s with shuttles := tabErase s.shuttles k }).modCount p f.frame fun c => { c with witness := c.witness + cost }
  let s := s.fillTill k sh f (mine.flatMap fun x => x.2.use) (mine.flatMap fun x => x.2.hit)
  let s := s.reportBlocks p f.frame (mine.flatMap fun x => x.2.bad)
  let left : Nat := tabGet 1 (s.port p).witLeft sh.row - 1
  let s := s.modPort p fun q => { q with witLeft := if left = 0 then tabErase q.witLeft sh.row else tabPut q.witLeft sh.row left }
  if left = 0 then s.compareRegion p sh.row f (all.map (·.1)) else s

/-- WITNESS_TILE_DONE (R224, R297): the tile of the lowest-numbered shuttle that works on a witness tile of the port. -/
def execWitnessTileDone (p : Fin 4) (s : State) : Host.Outcome State Fault Refusal :=
  match s.shuttles.find? fun x => x.2.witness && decide (x.2.port = p.val) && decide (x.2.from_ ≤ s.now) with
  | none => .next s
  | some (k, sh) =>
    if !s.weaves then .next s
    else match (s.port p).frameOf sh.frame with
      | some f => .next (s.witnessDone k sh f)
      | none => .next { s with shuttles := tabErase s.shuttles k }

/-- The latch instant ends the witness tiles of the frame before: what is unfinished was missed, or is not checked when
SAFE_STATE_N applied (R224, R297). -/
def State.closeWitness (s : State) (p frame : Nat) : State :=
  let left := (s.port p).witLeft
  let safe := (s.port p).safeSince
  let s := { s with shuttles := s.shuttles.filter fun x => !(x.2.witness && decide (x.2.port = p)) }
  let s := s.modPort p fun q => { q with witTiles := [], witLeft := [] }
  left.foldl (fun s e =>
    if e.1 = 32 then (s.setProtResult p frame 2 none).count (0xF00C + 0x10 * p) 15 0 1
    else if safe then s.setResult p e.1 frame 3 none
    else (s.setResult p e.1 frame 2 none).regionMissed p e.1 frame) s

/-! ### Protected activations (R298, R301, R302) -/

/-- The next generation (R302). -/
def Prot.nextGen (p : Prot) : Nat := if p.gen = 65535 then 1 else p.gen + 1

/-- The staging bank. -/
def Prot.staging (p : Prot) : Tab Byte := if p.active then p.bank0 else p.bank1

/-- The staged size (R312) keeps the limits of R298. -/
def protSizeOk (wq hq : Nat) : Bool :=
  decide (wq ≤ 4096) && decide (hq ≤ 2048) && decide (wq * hq ≤ 262144) && decide (lineStride fmtRgba wq * hq ≤ 2097152)

/-- The check of a staging bank (R301). -/
def Prot.stagingCrc (p : Prot) (wq hq : Nat) : Nat :=
  crc32c p.nextGen ((List.range (lineStride fmtRgba wq * hq)).map fun i => tabGet 0 p.staging i)

/-- Apply a pending activation (R301, R302, R306). -/
def State.activate (s : State) (p : Nat) : State := match (s.port p).prot.pending with
  | none => s
  | some a =>
    (s.modPort p fun q => { q with prot := { q.prot with
      active := !q.prot.active, gen := q.prot.nextGen, wq := a.wq, hq := a.hq, px := a.px, py := a.py, e0 := a.e0
      pending := none } }).setWbit 0x00C (8 + p)

/-- The activation that a latch instant samples applies (R301, R166). -/
def State.latchProt (s : State) (p latch : Nat) : State :=
  if readyBefore ((s.port p).prot.pending.map (·.at_)) latch then s.activate p else s

/-- The result of the checks of R301: 1 accepted, 2 check failed, 3 bad size, 4 already pending. -/
def State.activationResult (s : State) (p : Nat) : Nat :=
  let q := (s.port p).prot
  let size := s.wreg (wpBase p)
  let wq := fieldOf size 15 0
  let hq := fieldOf size 31 16
  if !(protSizeOk wq hq) then 3
  else if q.pending.isSome then 4
  else if q.stagingCrc wq hq = s.wreg (wpBase p + 8) then 1 else 2

/-- Writing 1 to activate (R301). -/
def State.startActivation (s : State) (p : Nat) : State :=
  let r := s.activationResult p
  let size := s.wreg (wpBase p)
  let place := s.wreg (wpBase p + 4)
  let a : ProtPend :=
    { at_ := s.now, wq := fieldOf size 15 0, hq := fieldOf size 31 16, px := fieldOf place 15 0, py := fieldOf place 31 16
      e0 := s.wreg (wpBase p + 0xC) }
  let s := s.modPort p fun q => { q with prot := { q.prot with lastResult := r } }
  if r = 1 then
    let s := s.modPort p fun q => { q with prot := { q.prot with pending := some a } }
    if (s.port p).phase = .stopped then s.activate p else s
  else (s.raise (err 0 0x05 0x04 (instP p 0) r 0 0)).setWbit 0x00C (8 + p)

/-- WP_ACTIVATE (R301, R306). -/
def execWpActivate (p : Fin 4) (s : State) : Host.Outcome State Fault Refusal := .next (s.startActivation p)

/-! ### SAFE_STATE_N (R304, R305) -/

/-- The first CLK_PERI edge at a tick or after it (R601): one every 4 ticks. -/
def periEdge (t : Nat) : Nat := ceilDiv t 4 * 4

/-- SAFE_STATE_N has taken a new level: the next CLK_PERI edge samples it first. A level that returns before any edge has sampled the other
one has not been seen to change (R304). -/
def Power.pinSafe (w : Power) (level : Bool) (now : Nat) : Power :=
  if level = w.safeLevel then w
  else match w.safeEdge with
    | some e =>
      if now ≤ e then { w with safeLevel := level, safeEdge := w.safePrev, safePrev := none }
      else { w with safeLevel := level, safeEdge := some (periEdge now), safePrev := w.safeEdge }
    | none => { w with safeLevel := level, safeEdge := some (periEdge now), safePrev := none }

/-- SAFE_STATE_N_EDGE (R304): the level reaches the sampler; none samples while a full reset holds the device (R556). -/
def execSafeStateNEdge (level : Bool) (s : State) : Host.Outcome State Fault Refusal :=
  .next { s with power := if s.running then s.power.pinSafe level s.now else { s.power with safeLevel := level } }

/-- 375 CLK_PERI periods of samples of the pin's level have passed since the first (R304). -/
def State.safeDue (s : State) : Bool := due (s.power.safeEdge.map (· + 1500)) s.now

/-- Rows released after this tick are gated, and the frame's regions are Not checked (R297, R304). -/
def Port.applySafe (q : Port) (now : Nat) : Port :=
  { q with safeSince := true, rows := q.rows.map fun r => if now < r.at_ then { r with safe := true } else r }

/-- SAFE_STATE_APPLY (R304, R305). -/
def execSafeStateApply (s : State) : Host.Outcome State Fault Refusal :=
  if s.safeDue && !s.power.safeLevel && !s.power.safeApplied then
    .next { s with power := { s.power with safeApplied := true }
                   ports := tabMap (fun _ q => q.applySafe s.now) s.ports }
  else .next s

/-- SAFE_STATE_CEASE (R304): the scene returns at each port's next latch instant. -/
def execSafeStateCease (s : State) : Host.Outcome State Fault Refusal :=
  if s.safeDue && s.power.safeLevel && s.power.safeApplied then
    .next { s with power := { s.power with safeApplied := false } }
  else .next s

/-- SAFE_STATE_N as a latch instant finds it (R171, R200, R304). -/
def State.latchSafe (s : State) (p : Nat) : State :=
  s.modPort p fun q => { q with safeLatch := s.power.safeApplied, safeSince := s.power.safeApplied }

end Sys2Proof.Machine
end

