-- ==== Sys2Proof/Machine/Capture.lean ====
section
/-! DEFINITION. Flat capture (06_composition.md, R194 to R204): the start of a capture frame at a latch instant, what it
writes, and its completion record. -/

namespace Sys2Proof.Machine

/-- The COMP registers of a port (R203). -/
def compBase (p : Nat) : Nat := 0x3100 + 0x40 * p

/-! ### The start of a capture frame (R197, R202, R204) -/

/-- A handle is an allocated capture surface of the port's owner (R202). -/
def State.captureSurface (s : State) (p h : Nat) : Bool := match s.objValid h with
  | some o => decide (o.cls = 7) && decide (handleFn h = s.owner p)
  | none => false

/-- The record array's address (R203). -/
def State.captureArray (s : State) (p : Nat) : Nat := s.reg (compBase p + 0x1C) * 2 ^ 32 + s.reg (compBase p + 0x18)

/-- The configuration fails R202. -/
def State.captureBad (s : State) (p : Nat) : Bool :=
  let b := s.reg (compBase p + 0x14)
  !(s.captureSurface p (s.reg (compBase p + 0x10))) || (decide (b ≠ 0) && !(s.captureSurface p b)) ||
    decide (s.field (compBase p + 0xC) 3 2 = 3) || decide (s.captureArray p = 0)

/-- The settings of a capture frame, sampled at its start (R199, R204). -/
def State.captureOf (s : State) (p frame : Nat) : Capture :=
  let n := (s.port p).capCount
  let b := s.reg (compBase p + 0x14)
  let second := decide (b ≠ 0) && decide (n % 2 = 1)
  let h := if second then b else s.reg (compBase p + 0x10)
  { frame := frame, count := n, handle := h, height := ((s.objOf h).map (·.height)).getD 0, second := second
    safe := (s.port p).safeLatch, transfer := s.field (compBase p + 0xC) 3 2, tone := decide (s.field (compBase p + 0xC) 1 1 = 1)
    white := s.reg (compBase p + 0x20), recAddr := s.captureArray p }

/-- A capture frame is due at a latch instant (R197). -/
def State.captureDue (s : State) (p frame : Nat) : Bool := match (s.port p).capFrom with
  | some n0 => decide ((frame - n0) % max 1 (s.field (compBase p + 0xC) 15 8) = 0)
  | none => false

/-- A latch instant's part in capture: cap_enable is sampled, and a frame that is due begins, or is skipped when its
configuration is bad (R197, R202). -/
def State.latchCapture (s : State) (p frame : Nat) : State :=
  if s.field (compBase p + 0xC) 0 0 = 0 then s.modPort p fun q => { q with capFrom := none, capCount := 0 }
  else
    let s := if (s.port p).capFrom.isSome then s else s.modPort p fun q => { q with capFrom := some frame, capCount := 0 }
    if !(s.captureDue p frame) then s
    else if s.captureBad p then (s.setBit (compBase p + 0x24) 1).raise (err 0 0x03 0x01 (instP p 0) frame 0 0)
    else
      let c := s.captureOf p frame
      s.modPort p fun q => { q with capture := some c, capCount := (q.capCount + 1) % 2 ^ 32 }

/-! ### What is written (R194 to R196, R200) -/

/-- The composite at zero direction of one capture pixel: three lights, the transmittance, and failing objects (R194). -/
def State.capturePixel (s : State) (sc : RayScene) (f : FrameState) (tone : Bool) (xs ys : Rat) : List Rat × Nat × List Nat :=
  let rs := (List.range 3).map fun c => s.composite sc false xs ys xs ys 0 0 c
  (rs.map fun r => if tone then toneMap f.tone r.l else r.l, ((rs.map (·.t)).head?).getD 65536, rs.flatMap (·.bad))

/-- The bytes of one line of pixels in the surface's format (R196). -/
def captureLine (o : Obj) (c : Capture) (px : List (List Rat × Nat)) : List Byte :=
  if o.format = fmtRgba then
    lineBytes 0 ((List.range (lineBlocks fmtRgba o.width)).map fun n =>
      normRgba (rgbaLanes o.width n none fun i =>
        (px[i]?).map fun x =>
          (x.1.getD 0 0, x.1.getD 1 0, x.1.getD 2 0, alphaMant (1 - (x.2 : Rat) / 65536))) false)
  else px.flatMap fun x =>
    let code := fun i => lightCode c.transfer ((c.white : Rat) / 65536) (x.1.getD i 0) 10
    leBytes 4 (packPixel o.format 3 (code 0) (code 1) (code 2))

/-- A black line under R200: all-zero lanes, alpha 3 for ARGB2101010. -/
def blackLine (o : Obj) : List Byte :=
  if o.format = fmtRgba then lineBytes 0 (List.replicate (lineBlocks fmtRgba o.width) (zeroBlock 0))
  else (List.range o.width).flatMap fun _ => leBytes 4 (packPixel o.format 3 0 0 0)

/-- Line `j` of a capture, and the objects whose blocks failed their check (R57). -/
def State.captureRow (s : State) (f : FrameState) (c : Capture) (o : Obj) (j : Nat) : List Byte × List Nat :=
  if c.safe then (blackLine o, [])
  else
    let sc := { s.rayScene f false with prot := Prot.reset }
    let scr := screenOf f.gang f.mode
    let px := (List.range o.width).map fun (i : Nat) =>
      s.capturePixel sc f c.tone (((i : Rat) + 1 / 2) * (scr.1 : Rat) / (o.width : Rat))
        (((j : Rat) + 1 / 2) * (scr.2 : Rat) / (o.height : Rat))
    (captureLine o c (px.map fun x => (x.1, x.2.1)), px.flatMap fun x => x.2.2)

/-- The content after a capture that dropped some lines (R197). -/
def State.captureContent (s : State) (f : FrameState) (c : Capture) (o : Obj) (dropped : List Nat) :
    Tab Byte × List Nat :=
  (List.range o.height).foldl (fun acc j =>
    if dropped.contains j then acc
    else
      let r := s.captureRow f c o j
      (writeBytes o.fill acc.1 (j * lineStride o.format o.width) r.1, acc.2 ++ r.2)) (o.content, [])

/-! ### The end and the record (R197, R201) -/

/-- The 32-byte record (R201); `ns` is when the frame's first line left. -/
def captureBytes (c : Capture) (status dropped ns : Nat) : List Byte :=
  leBytes 4 c.count ++
    leBytes 4 (status % 4096 + dropped % 4096 * 4096 + bit c.second * 2 ^ 24 + bit c.safe * 2 ^ 25) ++
    timeBytes ns ++ leBytes 4 c.frame ++ leBytes 4 (c.frame / 2 ^ 32 % 65536) ++ leBytes 4 c.handle

/-- The time at which the first line of a port's current frame left (R112, R334), from SCAN_FSTARTn. -/
def State.frameStartNs (s : State) (p : Nat) : Nat :=
  let b := 0x5000 + 0x400 * p
  (s.reg (b + 0x24) + 2 ^ 32 * s.reg (b + 0x28)) * 1000000000 + s.reg (b + 0x20)

/-- Write the record of a capture frame that has ended, with its status and the lines dropped (R25, R201). -/
def State.captureRecord (s : State) (p : Nat) (c : Capture) (status dropped : Nat) : State :=
  (s.emit (.data 0 (c.recAddr + 32 * (c.count % 16)) (captureBytes c status (satNat dropped 2048) (s.frameStartNs p)) 0)).modPort p
    fun q => { q with capDone := none }

/-- The first line of frame `n` has left the port. -/
def Port.firstLineLeft (q : Port) (n : Nat) : Bool :=
  decide (n < q.frame) || (decide (n = q.frame) && decide (q.frameAt + 1 < q.next))

/-- What becomes of a capture frame that ends: what was not dropped is written. A surface that is lost by then or freed has nothing written,
and all its lines count as dropped (R197, R201, DEDUCED, log 75). -/
def State.writeCapture (s : State) (p : Nat) (c : Capture) (dropped : List Nat) : Nat × Nat × State :=
  match (s.objOf c.handle).bind fun o => ((s.port p).frameOf c.frame).map fun f => (o, f) with
  | some (o, f) =>
    if o.lost.isSome then (stDataLost, o.height, s)
    else
      let lines := dropped.eraseDups.filter fun j => decide (j < o.height)
      let x := s.captureContent f c o lines
      (if lines.isEmpty then stOk else stTruncated, lines.length, (s.setObj (o.setContent x.1)).reportBlocks p c.frame x.2)
  | none => (stTruncated, c.height, s)

/-- A capture frame ends: `truncated` is set when lines were dropped, and the record is written now or when the frame's first line has left
the port (R201). -/
def State.endCapture (s : State) (p : Nat) (dropped : List Nat) : State :=
  match (s.port p).capture with
  | none => s
  | some c =>
    let r := (s.modPort p fun q => { q with capture := none }).writeCapture p c dropped
    let s := if r.2.1 = 0 then r.2.2 else r.2.2.setBit (compBase p + 0x24) 2
    if (s.port p).firstLineLeft c.frame then s.captureRecord p c r.1 r.2.1
    else s.modPort p fun q => { q with capDone := some (c, r.1, r.2.1) }

/-- A capture frame still in progress at the next latch instant ends there: lines not written by then are dropped (R197). -/
def State.cutCapture (s : State) (p : Nat) : State := match (s.port p).capture with
  | some c => s.endCapture p (List.range c.height)
  | none => s

/-- The record that waited for the frame's first line (R201). -/
def State.lateRecord (s : State) (p : Nat) : State := match (s.port p).capDone with
  | some (c, status, dropped) => s.captureRecord p c status dropped
  | none => s

/-- CAPTURE_FRAME_DONE (R197, R201): `dropped` are the lines dropped for lack of memory acceptance or of time (R38). -/
def execCaptureFrameDone (p : Fin 4) (dropped : List Nat) (s : State) : Host.Outcome State Fault Refusal :=
  .next (s.endCapture p dropped)

end Sys2Proof.Machine
end

