-- ==== Sys2Proof/Machine/Formation.lean ====
section
/-! DEFINITION. The panel link's formation and packets (12_panel_link.md): the link budget (R318), formations (R365, R369),
power states (R372, R373), the packets a port sends (R354 to R358) and the MODE packets that wait for an answer (R330). -/

namespace Sys2Proof.Machine

/-! ### The link budget (R318, R319) -/

/-- LINE_TICKS in 2^-24 (R314). -/
def Mode.lt24 (m : Mode) : Nat := m.ticksInt * 2 ^ 24 + m.ticksFrac

/-- LINE_TICKS in the units of `Port.lineTicks`, 2^-33. -/
def Mode.lt33 (m : Mode) : Nat := m.lt24 * 512

/-- B of R318 for `lt33` line ticks in 2^-33. -/
def wordBudget (nd rate lt33 : Nat) : Nat := 20 * nd * lt33 * 63 / (7 * 2 ^ rate * 2 ^ 33 * 64)

/-- RL_max (R319). -/
def Mode.rlMax (m : Mode) : Nat := min 255 (min (3145728 / m.hActive - 32) (m.vTotal - 1))

/-- The mode fits the link with these line ticks (R318). -/
def Link.fitsIn (l : Link) (m : Mode) (lt33 : Nat) : Bool := decide (m.hActive + 6 ≤ wordBudget l.nd l.rate lt33)

/-! ### LINK registers (R381) -/

/-- LINK_CTRLn is sampled: at the start of training, at a re-forming and at power-state entry (R381). -/
def State.sampleCtrl (s : State) (p : Nat) : State := s.modLink p fun l => { l with ctrl := s.reg (linkBase p) }

/-- The fields as sampled: the highest rate, rate_fallback, reform_keel, precode_allow, stop_state. -/
def Link.topRate (l : Link) : Nat := fieldOf l.ctrl 3 2 % 3
def Link.fallback (l : Link) : Bool := decide (fieldOf l.ctrl 7 7 = 1)
def Link.reformKeel (l : Link) : Bool := decide (fieldOf l.ctrl 6 6 = 1)
def Link.precodeAllow (l : Link) : Bool := decide (fieldOf l.ctrl 5 5 = 1)
/-- stop_state at the entry, which samples it. -/
def State.stopTarget (s : State) (p : Nat) : LanePower := if s.field (linkBase p) 9 8 = 1 then .l1 else .l2

/-- Lanes of a mask, rising. -/
def lanesOf (mask : Nat) : List Nat := (List.range 12).filter fun l => mask / 2 ^ l % 2 = 1

def laneMask (ls : List Nat) : Nat := (ls.map fun l => 2 ^ l).sum

/-! ### Formations -/

/-- nd, keel and lane map, the keel last (R349, R357). -/
abbrev Formation := Nat × Bool × List Nat

/-- The re-forming rule of R369 over the working lanes. -/
def reformed (working : List Nat) (wantKeel : Bool) : Formation :=
  if wantKeel then
    (working.length - 1, decide (working ≠ []), working)
  else (working.length, false, working)

/-- The formation that training gives (R365). -/
def trainedFormation (working : List Nat) (wantKeel : Bool) : Formation :=
  if working.length = 12 then (11, true, List.range 12)
  else if working.length = 11 then (if working.contains 11 then (11, true, List.range 12) else (11, false, List.range 11))
  else reformed working wantKeel

def Link.form (l : Link) (f : Formation) : Link := { l with nd := f.1, keel := f.2.1, map := f.2.2 }

/-! ### Sending -/

/-- The lanes of the port are in L0 and carry data. -/
def State.lanesUp (s : State) (p : Nat) : Bool :=
  let l := (s.port p).link
  decide (l.power = .l0) && (decide (l.phase = .up) || decide (l.phase = .retraining) || decide (l.phase = .reforming)) && s.running

/-- They do, and the unit drives glass (R372, R511). -/
def State.sends (s : State) (p : Nat) : Bool := s.lanesUp p && (s.cway.role.drives || decide (s.cway.role = .failed))

/-- Send the packet of a line slot that begins at `slot` (R359): 300 ticks later, at the first free position. -/
def State.sendPacket (s : State) (p : Nat) (h : PktHead) (payload : List W12) (slot : Nat) : State :=
  if s.sends p then s.transmit p (mkPacket h payload (slot + 300)) else s

/-- A header without flags. -/
def State.head (s : State) (p type phase line : Nat) : PktHead := s.headAt p type (gangMember (s.port p).gang p) (phase, line)

/-- HOLD and IDLE (R355). -/
def State.sendHold (s : State) (p phase line slot : Nat) : State := s.sendPacket p (s.head p 3 phase line) [] slot
def State.sendIdle (s : State) (p phase line slot : Nat) : State := s.sendPacket p (s.head p 0 phase line) [] slot

/-- The IDLE packet after a gross marker that begins at tick `tick` (R355, R364). -/
def State.idleAfterMarker (s : State) (p tick : Nat) : State := s.transmit p (mkPacket (s.head p 0 0 0) [] tick)

/-- Words 10 to 13 of a MODE payload: the lane map, unused entries 0xF (R357). -/
def mapWords (map : List Nat) : List W12 :=
  (List.range 4).map fun i => BitVec.ofNat 12 (((List.range 3).map fun j => map.getD (3 * i + j) 15 * 16 ^ j).sum)

/-- The MODE payload (R357): kind 0 set, 1 stop, 2 re-form. -/
def modePayload (id kind gang member : Nat) (m : Mode) (l : Link) : List W12 :=
  let body : List Nat := if kind = 1 then List.replicate 7 0
    else [m.hActive / 96, m.vActive - 1, m.vBlank, m.ticksInt % 4096, m.ticksInt / 4096, m.ticksFrac % 4096, m.ticksFrac / 4096]
  ([id, kind * 1024 + gang * 64 + member * 16 + m.subframes * 4] ++ body ++
    [l.nd * 256 + bit l.keel * 128 + l.rate * 32 + bit l.precode * 16]).map (BitVec.ofNat 12) ++ mapWords l.map ++ [0, 0]

/-- A MODE packet as it leaves, at `place` of the frame and not before a tick (R354, R357). -/
def State.modePacket (s : State) (p kind gang : Nat) (m : Mode) (id : Nat) (place : Nat × Nat) (tick : Nat) : LinkTx :=
  mkPacket (s.headAt p 2 (gangMember gang p) place) (modePayload id kind gang (gangMember gang p) m (s.port p).link) tick

/-- Send a MODE packet with an id (R330: a retransmission repeats it): as the packet of a line slot that begins at `slot`. -/
def State.sendMode (s : State) (p kind gang : Nat) (m : Mode) (id : Nat) (place : Nat × Nat) (slot : Nat) : State :=
  if s.sends p then s.transmit p (s.modePacket p kind gang m id place (slot + 300)) else s

/-- Send one beside the line slots' packets, where there is room (R359). -/
def State.sendModeFree (s : State) (p kind gang : Nat) (m : Mode) (id : Nat) : State :=
  if s.sends p then s.sendFree p (s.modePacket p kind gang m id (s.slotPlace p) s.now) else s

/-- The id of a port's next MODE packet (R357). -/
def State.takeModeId (s : State) (p : Nat) : Nat × State :=
  let n := ((s.port p).link.modeCount + 1) % 4096
  (n, s.modLink p fun l => { l with modeCount := n })

/-- Resending interval and limit of MODE packets (R330). -/
def modeWaitOf (id : Nat) (use : ModeUse) (now : Nat) : ModeWait :=
  { modeId := id, use := use, since := now, resend := now + msTicks 10 }

/-- The port whose mode a port's MODE packets announce: one whose start or change takes it in, else the lead of its gang (R325). -/
def State.changeLead (s : State) (p : Nat) : Nat :=
  let takes := fun (l : Nat) => match (s.port l).modeNext with
    | some (_, mask) => decide (l = p) || decide (mask / 2 ^ p % 2 = 1)
    | none => false
  if takes p then p else ((List.range 4).find? takes).getD (s.lead p)

/-- The mode and the gang mask that a port's MODE packets announce: the one about to come in force, or the one in force. -/
def State.announced (s : State) (p : Nat) : Mode × Nat :=
  let q := s.port (s.changeLead p)
  q.modeNext.getD (q.mode, q.gang)

/-- Announce a start or a change on a member port and await the glass's answer (R324, R325, R330). -/
def State.announce (s : State) (p : Nat) (use : ModeUse) : State :=
  let a := s.announced p
  let r := s.takeModeId p
  let s := r.2.sendModeFree p 0 a.2 a.1 r.1
  s.modPort p fun q => { q with modeWait := some (modeWaitOf r.1 use s.now) }

/-- Announce a re-forming (R370). -/
def State.announceReform (s : State) (p : Nat) (place : Nat × Nat) (slot : Nat) : State :=
  let q := s.port (s.lead p)
  let r := s.takeModeId p
  let s := r.2.sendMode p 2 q.gang q.mode r.1 place slot
  s.modLink p fun l => { l with reformWait := some (modeWaitOf r.1 .reform s.now) }

/-- A new formation comes in force (R370). -/
def Link.applyReform (l : Link) : Link := match l.reform with
  | some f => { l.form f with reform := none }
  | none => l

/-! ### Power states (R372 to R374) -/

def LanePower.code : LanePower → Nat
  | .l0 => 0
  | .l1 => 1
  | .l2 => 2

/-- The lanes of a port leave L0 (R373): KC5 and the target on every lane in data service; lane losses stay recorded,
retraining waits for the exit (R371). Training that was under way ends, and no LEASE packet goes out any more (R355). -/
def State.enterPower (s : State) (p : Nat) (target : LanePower) : State :=
  let l := (s.port p).link
  let s := if s.lanesUp p then (s.transmit p (.power target.code)).powerSeptets p target.code else s
  (s.sampleCtrl p).modLink p fun x =>
    { x.applyReform with
      power := target, phase := .down, holdEnd := none, wakeEnd := none, wakeTo := none, trainEnd := none, retryAt := none
      bcLockBy := none, reformWait := none, retrains := [], locks := if l.phase = .training then [] else x.locks, holds := false, claim := none
      refusedSince := none, nextLease := none, later := [], precodeNext := none }

/-- A gross marker goes out on the lanes in data service (R348). -/
def State.sendMarker (s : State) (p : Nat) : State :=
  let l := (s.port p).link
  (s.transmit p (.marker l.service (l.pos % 64))).modLink p fun l => { l with pos := l.pos + 1 }

/-- Position 0 starts with a gross marker, and an IDLE packet follows (R347, R364 step 6). -/
def State.startPositions (s : State) (p : Nat) : State :=
  let s := s.modLink p fun l => { l with
    pos := 0, posAt := s.now, busyTo := 0, later := [], coder := { l.coder with at20 := 20 * s.now, queue := [], cur := none } }
  (s.sendMarker p).idleAfterMarker p s.now

/-! ### Training (R364) -/

/-- FFE values at the start of training: the held ones, or pre 4 and post 8 (R364, R381). -/
def State.presetFfe (s : State) (p : Nat) : State :=
  forN 12 (fun l s =>
    let b := linkBase p + 0x40 + 4 * l
    if s.field b 24 24 = 1 then s else (s.setField b 4 0 4).setField b 12 8 8) s

/-- Every lane but the retired ones sends TRAIN blocks (R352, R364 step 2, R373). -/
def State.trainBlocks (s : State) (p : Nat) : State :=
  ((List.range 12).filter fun x => decide ((s.port p).link.retired / 2 ^ x % 2 = 0)).foldl (fun s x => s.transmit p (.trainBlock x)) s

/-- The lanes start afresh: y is 0 before the first symbol of training, and the pattern begins anew (R341, R378). -/
def Link.freshLanes (l : Link) (now : Nat) : Link :=
  { l with coder := { l.coder with
      at20 := 20 * now, queue := [], cur := none, uses := [], lanes := l.coder.lanes.map fun x => { x with use := .quiet, prev := 0 } } }

/-- Step 2 of R364: precoding off, nothing locked, every lane sending TRAIN blocks with its equaliser at the preset. -/
def State.trainLanes (s : State) (p : Nat) : State :=
  ((s.presetFfe p).modLink p fun l =>
    { l with
      precode := false, precodeNext := none, locks := [], map := [], nd := 0, keel := false, service := 0, retired := 0, trainEnd := none
      later := [] }.freshLanes s.now).trainBlocks p

/-- Steps 1 and 2 of R364 at a rate. -/
def State.trainAt (s : State) (p rate : Nat) : State :=
  (s.modLink p fun l =>
    { l with
      phase := .training, power := .l0, rate := rate, lost := 0, retrains := [], reform := none, retryAt := none
      bcLockBy := some (s.now + msTicks 100), wakeEnd := none, wakeTo := none, holdEnd := none }).trainLanes p

/-- Training begins at the highest rate not above LINK_CTRLn rate (R364). -/
def State.startTraining (s : State) (p : Nat) : State :=
  let s := s.sampleCtrl p
  s.trainAt p (s.port p).link.topRate

/-! ### Retraining of single lanes (R367) -/

/-- An attempt begins: TRAIN blocks, at most 2 ms; it waits while the Purser restarts (R548). -/
def State.beginAttempt (s : State) (p lane attempt : Nat) : State :=
  let r : Retrain := { lane := lane, attempt := attempt, attemptEnd := some (s.now + msTicks 2), pauseEnd := none, locked := false }
  if s.flt.restarting then s
  else (s.modLink p fun l => { l with retrains := (l.retrains.filter fun x => x.lane ≠ lane) ++ [r] }).transmit p (.trainBlock lane)

/-- Lanes lost and not being retrained begin to be (R371, at the exit from L1 or L2). -/
def State.retrainLost (s : State) (p : Nat) : State :=
  let l := (s.port p).link
  let s := (lanesOf l.lost).foldl (fun s lane => s.beginAttempt p lane 1) s
  if l.lost = 0 then s else s.modLink p fun l => { l with phase := .retraining }

/-- The state of a link whose lanes are in L0: retraining or re-forming while a lane or an answer is awaited, else up. -/
def Link.settle (l : Link) : Link :=
  if l.phase = .retraining ∨ l.phase = .reforming ∨ l.phase = .up then
    { l with phase := if l.reform.isSome ∨ l.reformWait.isSome then .reforming else if l.retrains ≠ [] then .retraining else .up }
  else l

/-! ### Waking (R373) -/

/-- The lanes of a port are brought to L0 (R324, R373): L1 by TRAIN blocks for 500 ns, L2 within 400 µs. -/
def State.wake (s : State) (p : Nat) : State :=
  let l := (s.port p).link
  let t := if l.power = .l1 then 750 else usTicks 400
  let fresh := fun (x : Link) => if l.power = .l1 then x else x.freshLanes s.now
  (s.modLink p fun x => fresh { x with wakeEnd := some (s.now + t), wakeTo := some .l0 }).trainBlocks p

end Sys2Proof.Machine
end

