-- ==== Sys2Proof/Machine/Group.lean ====
section
/-! DEFINITION. Presentation groups (17_tide_time.md, R474 to R478): the schedule of a grouped port, the frame number it
gives, and the line ticks of a frame. -/

namespace Sys2Proof.Machine

/-- The mask of grouped ports in a TIDE_GROUP word (R474, R479). -/
def groupMask (w : Nat) : Nat := fieldOf w 25 22

/-- E and Pg in units of 2^-32 ns (R474, R479). -/
def State.groupEpoch (s : State) : Nat :=
  ((s.reg 0x8088 + 2 ^ 32 * s.reg 0x808C) * 1000000000 + s.reg 0x8084) * 2 ^ 32 + s.reg 0x8090
def State.groupPeriod (s : State) : Nat := s.reg 0x8094 * 2 ^ 32 + s.reg 0x8098

/-- The port, or the gang it leads, is in the presentation group (R474); a period of 0 schedules nothing. -/
def State.grouped (s : State) (p : Nat) : Bool :=
  decide (groupMask (s.reg 0x8080) / 2 ^ p % 2 = 1) && decide (s.groupPeriod ≠ 0)

/-- The scheduled start of group frame `n` in 2^-32 ns (R475). -/
def State.scheduled (s : State) (n : Nat) : Nat := s.groupEpoch + n * s.groupPeriod

/-- The group frame whose scheduled start lies nearest to a tick (R475, R478). -/
def State.nearestFrame (s : State) (tick : Nat) : Nat :=
  let x : Int := s.tideAt6 tick - (6 * s.groupEpoch : Nat)
  let d : Int := (6 * s.groupPeriod : Nat)
  ((2 * x + d) / (2 * d)).toNat

/-- The first group frame that is scheduled at or after a tick (R475). -/
def State.firstFrame (s : State) (tick : Nat) : Nat :=
  let x : Int := s.tideAt6 tick - (6 * s.groupEpoch : Nat)
  let d : Int := (6 * s.groupPeriod : Nat)
  ((x + d - 1) / d).toNat

/-- The 48-bit number of the frame after `frame`, or the group's index for a frame predicted to start at `tick` (R334,
R475). -/
def State.frameNo (s : State) (p frame tick : Nat) : Nat :=
  (if s.grouped p then s.nearestFrame tick else frame + 1) % 2 ^ 48

/-- The ticks, exact, from a tick to the scheduled start of group frame `n`, at the present TIDE_INC (R465, R476). -/
def State.ticksTo (s : State) (tick n : Nat) : Rat :=
  (((6 * s.scheduled n : Nat) : Int) - s.tideAt6 tick : Int) / ((tideInc s.tide.rateAdj : Nat) : Rat)

/-- LINE_TICKS_eff before saturation, in 2^-24 (R476). -/
def lineTicksFor (d : Rat) (m : Mode) : Int := rhe (2 ^ 24 * d / (m.frameLines : Rat))

/-- The limits of LINE_TICKS_eff in 2^-33 (R476). -/
def Mode.trimLow (m : Mode) : Nat := m.lt24 * 511
def Mode.trimHigh (m : Mode) : Nat := m.lt24 * 513

/-- A frame start within one tick of its schedule (R478). -/
def State.inStep (s : State) (tick n : Nat) : Bool :=
  decide ((s.tideAt6 tick - (6 * s.scheduled n : Nat)).natAbs ≤ tideInc s.tide.rateAdj)

/-- The line count of a grouped port is re-based at a frame start, and its line ticks trimmed (R476, R478). -/
def State.rebase (s : State) (p tick : Nat) : State :=
  if !(s.grouped p) then s
  else
    let q := s.port p
    let n := s.nearestFrame tick
    let want := lineTicksFor (s.ticksTo tick (n + 1)) q.mode * 512
    let eff := satInt want q.mode.trimLow q.mode.trimHigh
    let bites := decide (eff ≠ want)
    let out := bites || (q.outOfStep && !(s.inStep tick n))
    let s := s.modPort p fun q =>
      { q with t0 := tick, next := 0, frameAt := 0, lineTicks := eff.toNat, outOfStep := out }
    if bites && !q.outOfStep then s.raise (err 2 0x09 0x05 (instP p 0) q.frame 0 0) else s

/-- A mode's own period lies within a factor 1 ± 2^-11 of 1.5 × Pg ticks with Pg in ns (R477); both in
2^-33 ticks. -/
def State.periodFits (s : State) (m : Mode) : Bool :=
  let t := m.frameLines * m.lt33
  let g := 3 * s.groupPeriod
  decide (g * 2047 ≤ t * 2048) && decide (t * 2048 ≤ g * 2049)

/-- A port's mode has changed: port-locked outputs whose line lies beyond the new V_TOTAL give no pulses, and are late (R470). -/
def State.outsFollow (s : State) (p : Nat) : State :=
  let vt := (s.port p).mode.vTotal
  forN 8 (fun n s =>
    let g := (s.out n).prog
    if g.mode = 3 ∧ s.lead g.port = p ∧ vt ≤ g.period then s.setBit (0x8040 + 4 * n) 8 else s) s

end Sys2Proof.Machine
end

