-- ==== Sys2Proof/Machine/Lease.lean ====
section
/-! DEFINITION. The lease of a port's glass (19_redundant_pair.md, R525 to R527, R535; 12_panel_link.md, R380). -/

namespace Sys2Proof.Machine

/-- The epoch in force by the last STATUS (R362). -/
def Link.seenEpoch (l : Link) : Nat := leAt l.status 4 3

/-- The lease holder by a STATUS payload: 0 none, 1 A, 2 B (R362). -/
def holderOf (payload : List Byte) : Nat := leAt payload 3 1 / 4 % 4

/-- The input of the glass that this unit drives, 0 A or 1 B: in a pair the preferred unit's is A (log 35). -/
def State.ownInput (s : State) : Nat := if s.power.rolePref then 0 else 1

/-- An input named by the glass is this unit's; a unit that is not one of a pair has the only one. -/
def State.ours (s : State) (input : Nat) : Bool := !s.paired || decide (input = s.ownInput)

/-- Send a claim; the next one follows after 50 µs (R526). -/
def State.sendClaim (s : State) (p : Nat) : State := match (s.port p).link.claim with
  | some e => (s.sendLease p 0 e).modLink p fun l => { l with nextLease := some (s.now + usTicks 50) }
  | none => s

/-- A unit claims a port (R526): epoch max of its own and the glass's, plus 1; none of 2^24 − 1 or more. -/
def State.startClaim (s : State) (p : Nat) : State :=
  let e := max (s.reg (0x7040 + 4 * p)) (s.port p).link.seenEpoch + 1
  if 2 ^ 24 - 1 ≤ e then s.setBit 0x7004 6
  else (s.modLink p fun l => { l with claim := some e, holds := false, refusedSince := none }).sendClaim p

/-- A unit that drives glass claims a port it neither holds nor claims (R525 to R527). -/
def State.wantLease (s : State) (p : Nat) : State :=
  let l := (s.port p).link
  if s.cway.role.drives && s.formed && !l.holds && l.claim.isNone then s.startClaim p else s

/-- LEASE_CLAIM (R526): every 50 µs while the claim is unanswered. -/
def execLeaseClaim (p : Fin 4) (s : State) : Host.Outcome State Fault Refusal :=
  let l := (s.port p).link
  if l.claim.isSome && due l.nextLease s.now && s.sends p then .next (s.sendClaim p) else .next s

/-- One port's renewal, every 200 µs (R525). -/
def State.renew (s : State) (p : Nat) : State :=
  let l := (s.port p).link
  if l.holds && due l.nextLease s.now && s.sends p then
    (s.sendLease p 1 (s.reg (0x7040 + 4 * p))).modLink p fun l => { l with nextLease := some (s.now + usTicks 200) }
  else s

/-- LEASE_RENEW (R525, R527): every port whose renewal is due. -/
def execLeaseRenew (s : State) : Host.Outcome State Fault Refusal := .next (forN 4 (fun p s => s.renew p) s)

/-- The claim is accepted (R526). -/
def State.claimAccepted (s : State) (p e : Nat) : State :=
  (s.setReg (0x7040 + 4 * p) e).modLink p fun l =>
    { l with holds := true, claim := none, refusedSince := none, nextLease := some (s.now + usTicks 200) }

/-- What a LEASE_EVENT does to a claim and to a held lease (R362, R526). -/
def State.leaseNews (s : State) (p event epoch input : Nat) : State :=
  let l := (s.port p).link
  match l.claim with
  | some e =>
    if event = 1 ∧ epoch = e ∧ s.ours input then s.claimAccepted p e
    else if event = 3 ∧ s.ours input then
      if 2 ^ 24 - 1 ≤ e + 1 then (s.setBit 0x7004 6).modLink p fun x => { x with claim := none, nextLease := none }
      else s.modLink p fun x => { x with claim := some (e + 1) }
    else if event = 2 ∧ s.ours input ∧ l.refusedSince.isNone then s.modLink p fun x => { x with refusedSince := some s.now }
    else s
  | none =>
    if event = 4 ∧ l.holds ∧ epoch = s.reg (0x7040 + 4 * p) then (s.modLink p fun x => { x with holds := false }).wantLease p
    else s

/-- STATUS shows who holds the lease (R525): when it is not this unit's while the port runs, the unit claims again once the
holder is none. -/
def State.followLease (s : State) (p holder : Nat) : State :=
  let mine := decide (holder ≠ 0) && s.ours (holder - 1)
  let runs := decide ((s.port p).phase = .running) || decide ((s.port p).phase = .reforming)
  if mine || !runs || !s.cway.role.drives then s
  else
    let s := s.modLink p fun l => { l with holds := false }
    if holder = 0 then s.wantLease p else s

/-- The unit becomes STANDBY-STALE: it drives no glass, and its lanes go to L2 (R511, R535). -/
def State.becomeStale (s : State) : State :=
  let s := forN 4 (fun p s => if (s.port p).link.power = .l2 then s else s.enterPower p .l2) s
  s.takeRole .stale

/-- A claim is given up (R526). -/
def State.dropClaim (s : State) (p : Nat) : State :=
  s.modLink p fun l => { l with claim := none, refusedSince := none, nextLease := none }

/-- 2 ms of refusals (R526, R535): the lease is held by a live peer. A unit that holds no other port becomes STANDBY-STALE; one
that does stays as it is and reports it. -/
def State.claimRefused (s : State) (p : Nat) : State :=
  let s := (s.setBit 0x7004 6).dropClaim p
  if (List.range 4).any fun q => (s.port q).link.holds then s.raise (err 2 0x0E 0x04 (2 ^ p) 0 0 0)
  else if s.paired then s.becomeStale else s

/-- CLAIM_REFUSED_TIMEOUT (R526, R535). -/
def execClaimRefusedTimeout (p : Fin 4) (s : State) : Host.Outcome State Fault Refusal :=
  let l := (s.port p).link
  if l.claim.isSome && due (l.refusedSince.map (· + msTicks 2)) s.now then .next (s.claimRefused p) else .next s

end Sys2Proof.Machine
end

