-- ==== Sys2Proof/Machine/Modes.lean ====
section
/-! DEFINITION. Modes of the output ports (11_output_timing.md, R317 to R330): the checks of a MODE_SET, its queue, the start
of a stopped port up to its lead-in, stops, the glass's answers and the timers of MODE packets. -/

namespace Sys2Proof.Machine

/-! ### The checks of R328 -/

/-- The mode a MODE_SET carries (R103); race_lead 0 means 64 (R317). -/
def Desc.mode (d : Desc) : Mode :=
  { hActive := d.f 3 15 0, vActive := d.f 3 31 16, vBlank := d.f 4 15 0, subframes := d.f 4 17 16
    raceLead := if d.f 4 31 24 = 0 then 64 else d.f 4 31 24, ticksFrac := d.f 5 23 0, ticksInt := d.f 6 23 0 }

/-- The port and the mask of a MODE_SET; a mask that names only the port sets it alone (R320). -/
def Desc.modePort (d : Desc) : Nat := d.f 2 1 0
def Desc.gangMask (d : Desc) : Nat := if d.f 2 11 8 = 2 ^ d.modePort then 0 else d.f 2 11 8

/-- The mask is permitted, and the port is its lowest-numbered (R320). -/
def gangOk (p mask : Nat) : Bool :=
  decide (mask = 0) || (decide (mask = 3 ∨ mask = 15) && decide (p = 0)) || (decide (mask = 12) && decide (p = 2))

/-- The ports that a mask makes act together with a port. -/
def gangPorts (p mask : Nat) : List Nat := if mask = 0 then [p] else maskPorts mask

/-- A gang member other than the lowest-numbered port that leaves its gang at the next frame boundary (R322, R323). -/
def State.leaves (s : State) (m : Nat) : Bool := s.follower m && ((s.port m).modeNext.isSome || (s.port m).stopNext.isSome)

/-- The ports other than `p` that a mask adds to p's gang or removes from it (R322). A member that leaves a gang removes itself alone. -/
def State.gangChange (s : State) (p mask : Nat) : List Nat :=
  let now := if s.follower p then [p] else (s.members p).filter fun q => !(s.leaves q)
  let new := gangPorts p mask
  ((now.filter fun q => !(new.contains q)) ++ new.filter fun q => !(now.contains q)).filter fun q => q ≠ p

/-- One of them is not stopped (R322). -/
def State.gangBusy (s : State) (p mask : Nat) : Bool :=
  (s.gangChange p mask).any fun q => decide ((s.port q).phase ≠ .stopped)

/-- The first three checks of R328. -/
def State.gangFail (s : State) (d : Desc) : Option Fail :=
  let p := d.modePort
  firstFail
    [ failIf (!(gangOk p d.gangMask)) (badDesc 4 2),
      failIf (s.follower p && decide (d.gangMask = (s.port p).gang)) (badDesc 4 2),
      failIf (s.gangBusy p d.gangMask) (badDesc 4 2) ]

/-- The limits of R317 and R319, in the order of R328. -/
def Mode.rangeFail (m : Mode) : Option Fail :=
  let period := m.frameLines * m.lt24
  firstFail
    [ outOfRange (decide (m.hActive < 96) || decide (24576 < m.hActive) || decide (m.hActive % 96 ≠ 0) ||
        decide (m.vActive < 32) || decide (4096 < m.vActive)) 3,
      outOfRange (decide (m.vBlank < 4) || decide (1024 < m.vBlank) || decide (m.subframes = 0) || decide (m.raceLead < 16) ||
        decide (m.rlMax < m.raceLead)) 4,
      outOfRange (decide (m.ticksInt < 64) || decide (period < 1500000 * 2 ^ 24) || decide (150000000 * 2 ^ 24 < period)) 6 ]

/-- The member of a port list whose link has the smallest budget, with that budget; links never trained are left out (R318,
R328, R366). -/
def State.tightest (s : State) (ps : List Nat) (lt33 : Nat) : Option (Nat × Nat) :=
  ps.foldl (fun acc p =>
    let l := (s.port p).link
    if !l.trained then acc
    else
      let b := wordBudget l.nd l.rate lt33
      match acc with
      | some (n, b') => if b < b' then some (l.nd, b) else some (n, b')
      | none => some (l.nd, b)) none

/-- LINK_BUDGET with nd of the most limited member and the largest H_ACTIVE / 96 that fits (R328). -/
def budgetOver (nd b : Nat) : Fail := (stLinkBudget, nd % 16 * 65536 + min 256 ((b - 6) / 96))

/-- The link budget of every member (R318, R328). -/
def State.budgetFail (s : State) (ps : List Nat) (m : Mode) : Option Fail := match s.tightest ps m.lt33 with
  | some (nd, b) => failIf (decide (b < m.hActive + 6)) (budgetOver nd b)
  | none => none

/-- The further checks of a grouped port (R477). -/
def State.groupFail (s : State) (p : Nat) (ps : List Nat) (m : Mode) : Option Fail :=
  if s.grouped p then
    outOfRange (!(s.periodFits m) || (match s.tightest ps m.trimLow with
      | some (_, b) => decide (b < m.hActive + 6)
      | none => false)) 6
  else none

/-- All checks of a MODE_SET at acceptance (R96, R328, R477). -/
def State.modeFail (s : State) (d : Desc) : Option Fail :=
  let p := d.modePort
  let ps := gangPorts p d.gangMask
  if d.stops then firstFail [s.gangFail d, s.permFail d]
  else firstFail [s.gangFail d, d.mode.rangeFail, s.permFail d, s.budgetFail ps d.mode, s.groupFail p ps d.mode]

/-- The checks repeated when it takes effect (R328, R477). -/
def State.modeFailAgain (s : State) (d : Desc) : Option Fail :=
  let p := d.modePort
  let ps := gangPorts p d.gangMask
  firstFail
    [ failIf (s.gangBusy p d.gangMask) (badDesc 4 2),
      if d.stops then none else s.budgetFail ps d.mode,
      if d.stops then none else s.groupFail p ps d.mode ]

/-! ### Starting a port (R324) -/

/-- A port or gang begins to start a mode (R324): its ports are starting, an armed step is cancelled (R462), and the lanes are
brought to L0, trained first when they never were. `id` is the MODE_SET, none at boot (R566). -/
def State.beginStart (s : State) (p : Nat) (id : Option Nat) (m : Mode) (mask : Nat) : State :=
  let ps := gangPorts p mask
  let s := ps.foldl (fun s q => s.modPort q fun x =>
    { x with phase := .starting, gang := mask, acked := false, modeWait := none }) s
  let s := s.modPort p fun x => { x with
    modeNext := some (m, mask), startBy := some (s.now + msTicks 1000), startId := id, stopNext := none, changeDue := false }
  let s := match id with
    | some i => s.begun i
    | none => s
  ps.foldl (fun s q =>
    let l := (s.port q).link
    if !l.trained then s.startTraining q
    else if l.power = .l0 then ((s.modLink q fun x => { x with holdEnd := none }).wantLease q).announce q .start
    else if l.wakeTo.isSome then s
    else s.wake q) s.cancelStep

/-- A start ends without a mode (R330, R366): the ports are stopped and ungrouped. -/
def State.unstart (s : State) (p reason : Nat) : State :=
  let ps := s.members p
  let s := ps.foldl (fun s q => s.modPort q fun x => { x with
    phase := .stopped, stopReason := reason, gang := 0, acked := false, modeWait := none }) s
  ps.foldl (fun s q => s.scanStopped q) (s.modPort p fun x => { x with modeNext := none, startBy := none, startId := none })

/-- A boot mode that a port refuses is published (R566, R572). -/
def State.bootFails (s : State) (code : Nat) : State :=
  if s.power.failure = 0 then { s with power := { s.power with failure := code } } else s

/-- The MODE_SET of a start completes with a failure and frame number 0 (R329); the start of a boot port has none. -/
def State.startFails (s : State) (p : Nat) (f : Fail) : State := match (s.port p).startId with
  | some id => s.finish id f 0 0
  | none => if (s.port p).phase = .starting ∧ (s.port p).bootPlate ∧ f.1 ≠ stTimeout then s.bootFails 5 else s

/-! ### The queue of a port (R323) -/

/-- A loopback runs on one of the ports (R375). -/
def State.looping (s : State) (ps : List Nat) : Bool := ps.any fun q => (s.port q).link.loop.isSome

/-- A stopped port takes ready MODE_SETs at once, head first (R323, R324, R326); a standby decides nothing itself (R518). -/
def State.kick : Nat → Nat → State → State
  | 0, _, s => s
  | n + 1, p, s =>
    match (s.port p).modeQueue with
    | [] => s
    | id :: rest =>
      if (s.port p).phase ≠ .stopped ∨ !s.cway.role.drives ∨ !s.formed then s
      else match s.entry id with
        | none => State.kick n p (s.modPort p fun q => { q with modeQueue := rest })
        | some e =>
          let mask := e.desc.gangMask
          if !(s.noWait e) || s.looping (gangPorts p mask) then s
          else
            let s := s.modPort p fun q => { q with modeQueue := rest }
            if e.desc.stops then
              let n0 := (s.port p).frame
              State.kick n p (s.finish id (stOk, 0) (n0 % 2 ^ 32) (n0 / 2 ^ 32))
            else match s.modeFailAgain e.desc with
              | some f => State.kick n p (s.finish id f 0 0)
              | none => s.beginStart p (some id) e.desc.mode mask

/-- Every port looks at its queue. -/
def State.kickAll (s : State) : State :=
  forN 4 (fun p s => State.kick ((s.port p).modeQueue.length + 1) p s) s

/-- A MODE_SET that waits for nothing any more is ready (R323). -/
def State.modeReady (s : State) (id : Nat) : State := match s.entry id with
  | some e =>
    (if e.readyAt.isNone && s.noWait e then s.modEntry id fun x => { x with readyAt := some s.now } else s).kickAll
  | none => s

/-- Accept a MODE_SET that passes R328: it joins its port's queue. -/
def State.acceptMode (s : State) (d : Desc) (mirrored : Bool) : State :=
  let id := s.nextId
  let s := if mirrored then s.accept d .plain [] true else (s.admitNew d .plain []).hostScene
  (s.modPort d.modePort fun q => { q with modeQueue := q.modeQueue ++ [id] }).modeReady id

/-- A MODE_SET descriptor at its acceptance. -/
def State.takeMode (s : State) (d : Desc) : State := match s.modeFail d with
  | some f => s.reject d f
  | none => s.acceptMode d false

/-- MODE_SET (R317 to R324, R328): starts or changes a port. -/
def execModeSet (r : Fin 128) (s : State) : Host.Outcome State Fault Refusal :=
  .next (s.withCur r opModeSet fun d s => if d.stops then s else s.takeMode d)

/-- MODE_SET with stop set (R326, R328). -/
def execModeSetStop (r : Fin 128) (s : State) : Host.Outcome State Fault Refusal :=
  .next (s.withCur r opModeSet fun d s => if d.stops then s.takeMode d else s)

/-! ### Stopping (R322, R326, R327, R330, R374) -/

/-- CAL_MEASUREs of photodiodes on a port that stops (R500). -/
def State.abortMeasures (s : State) (p : Nat) : State :=
  let hit := fun (e : Entry) => decide (e.desc.opcode = opCalMeasure) && decide (e.desc.f 2 3 0 = 1) &&
    decide (e.desc.f 2 5 4 = p) && (match e.job with
      | .calMeasure _ _ n _ _ => decide (n < 4)
      | _ => true)
  (s.ledger.filter hit).foldl (fun s e => s.finish e.id (stAborted, 0) 0 0) s

/-- Records that waited for a line of the port are written, stamped `ns` (R112). -/
def State.flushRecords (s : State) (p ns : Nat) : State :=
  let rs := (s.port p).records
  let s := s.modPort p fun q => { q with records := [] }
  rs.foldl (fun s r => s.finishAt r.id ns false (r.status, r.detail) (r.frame % 2 ^ 32) (r.frame / 2 ^ 32 % 65536 + r.extra)) s

/-- The port or gang stops (R322, R326, R327): no LINE packet any more, HOLD for 1 ms (R374), everything pending stays
pending; the scene goes, so that a new start shows the protected plate over black until a commit takes effect (R173, R324). `reason` is the stop_reason of every member when `all` holds, else the other members read 3. -/
def State.stopPort (s : State) (p reason : Nat) (all : Bool) (tick : Nat) : State :=
  let q := s.port p
  let ps := s.members p
  let s := (s.cutCapture p).lateRecord p
  let s := s.flushRecords p (s.tideNsAt tick)
  let s := ps.foldl (fun s m => s.modPort m fun x => { x with
    phase := .stopped, stopReason := if m = p ∨ all then reason else 3, gang := 0, mode := q.mode, t0 := q.t0
    scene := [], tone := none, toneHandle := 0
    lineTicks := q.lineTicks, next := q.next, frameAt := q.frameAt, modeWait := none, acked := false, changeDue := false
    modeNext := none, stopNext := none, modeHeld := [], outOfStep := false, rows := [], witTiles := [], witLeft := []
    lead := [], line := none, frames := [], measure := none
    link := { x.link.applyReform with holdEnd := some (tick + msTicks 1), reformWait := none }.settle }) s
  let s := { s with shuttles := s.shuttles.filter fun k => !(ps.contains k.2.port) }
  ((ps.foldl (fun s q => s.scanStopped q) s).abortMeasures p).sweep.kickAll

/-- The glass refused the mode of a start (R329, R330): stop_reason 4, HOLD for 1 ms in the refused mode's line slots. -/
def State.refuseStart (s : State) (p : Nat) : State :=
  let ps := s.members p
  let m := (s.announced p).1
  let s := s.startFails p (stBadDesc, 3 * 65536 + 0x1000 + 3)
  let s := s.unstart p 4
  (ps.foldl (fun s q => s.modPort q fun x => { x with
    t0 := s.now, mode := m, lineTicks := m.lt33, next := 0, frameAt := 0
    link := { x.link with holdEnd := some (s.now + msTicks 1) } }) s).kickAll

/-- A start is given up (R330, R366): the lanes enter stop_state. -/
def State.giveUp (s : State) (p reason : Nat) (f : Fail) : State :=
  let ps := s.members p
  let s := (s.startFails p f).unstart p reason
  (ps.foldl (fun s q => s.enterPower q (s.stopTarget q)) s).kickAll

/-- MODE_START_TIMEOUT (R330): no link up and acknowledged within 1 s. -/
def execModeStartTimeout (p : Fin 4) (s : State) : Host.Outcome State Fault Refusal :=
  if (s.port p).phase = .starting && due (s.port p).startBy s.now then .next (s.giveUp p 5 (stTimeout, det 5 0))
  else .next s

/-- STOP_HOLD_END (R373, R374): the lanes enter stop_state. -/
def execStopHoldEnd (p : Fin 4) (s : State) : Host.Outcome State Fault Refusal :=
  if due (s.port p).link.holdEnd s.now then .next (s.enterPower p (s.stopTarget p)) else .next s

/-! ### The lead-in (R324, R475) -/

/-- The lead-in begins: the new mode's line slots are counted from −RACE_LEAD (R324); a grouped port's origin is its first
scheduled start at least RACE_LEAD line times ahead (R475). -/
def State.leadIn (s : State) (p : Nat) : State :=
  let a := s.announced p
  let m := a.1
  let least := s.now + ceilDiv (m.raceLead * m.lt24) (2 ^ 24)
  let n := s.firstFrame least
  let t0 := if s.grouped p then s.tickOf (s.scheduled n) else least
  let s := (s.members p).foldl (fun s q => s.modPort q fun x => { x with
    lastTriple := [0, 0, 0], lead := [], line := none, rows := [], witTiles := [], witLeft := [], frames := [] }) s
  (s.modPort p fun x => { x with
    startBy := none, mode := m, lineTicks := m.lt33, t0 := t0, next := -(m.raceLead : Int), frameAt := 0, outOfStep := false
    modeNext := none, leadMin := 255, counts := [] }).outsFollow p

/-- Every glass of a start has answered: the lead-in begins. -/
def State.leadInWhenAcked (s : State) (p : Nat) : State :=
  if (s.port p).startBy.isSome && (s.members p).all fun q => (s.port q).acked then s.leadIn p else s

/-! ### The glass's answers (R330) -/

/-- The ports that a port's own MODE_SETs act on: all of a gang, or a member alone that leaves one. -/
def State.ownPorts (s : State) (p : Nat) : List Nat := if s.follower p then [p] else s.members p

/-- The change of a running port is complete when every member's glass has answered, those of ports that it adds among them, and no packet
of it is due (R325). -/
def State.changeDone (s : State) (p : Nat) : State :=
  let l := s.changeLead p
  let added := ((s.port l).modeNext.map fun x => gangPorts l x.2).getD []
  let waits := fun q => ((s.port q).modeWait.map fun w => decide (w.use = ModeUse.change)).getD false
  if (s.port l).phase = .reforming ∧ !(s.port l).changeDue ∧ !((s.ownPorts l ++ added).any waits) then
    (s.ownPorts l).foldl (fun s q => s.modPort q fun x => { x with phase := .running }) s
  else s

/-- The answer to a start or a change (R324, R325, R330). -/
def State.modeAnswered (s : State) (p : Nat) (w : ModeWait) (ok : Bool) : State :=
  let s := s.modPort p fun q => { q with modeWait := none }
  let l := s.changeLead p
  match w.use with
  | .start => if ok then (s.modPort p fun q => { q with acked := true }).leadInWhenAcked l else s.refuseStart l
  | _ =>
    if ok then s.changeDone p
    else
      let s := s.raise (err 2 0x07 0x07 (instP p 0) w.modeId 0 0)
      (s.modPort l fun q => { q with stopNext := some 4 }).changeDone p

/-- MODE_RETRANSMIT (R330): an unanswered MODE packet goes out again every 10 ms with the same mode_id. -/
def State.resendMode (s : State) (p : Nat) : State :=
  let q := s.port p
  let a := s.announced p
  let again := fun (w : ModeWait) => { w with resend := w.resend + msTicks 10 }
  let s := match q.modeWait with
    | some w =>
      if w.resend ≤ s.now then (s.sendModeFree p 0 a.2 a.1 w.modeId).modPort p fun q => { q with modeWait := some (again w) } else s
    | none => s
  match q.link.reformWait with
  | some w =>
    let l := s.port (s.lead p)
    if w.resend ≤ s.now then
      (s.sendModeFree p 2 l.gang l.mode w.modeId).modLink p fun x => { x with reformWait := some (again w) }
    else s
  | none => s

def execModeRetransmit (p : Fin 4) (s : State) : Host.Outcome State Fault Refusal := .next (s.resendMode p)

/-- MODE_ACK_TIMEOUT (R330): a change or a re-forming is not acknowledged within 1 s of its first MODE packet. -/
def State.ackTimeout (s : State) (p : Nat) : State :=
  let old := fun (w : ModeWait) => decide (w.since + msTicks 1000 ≤ s.now)
  let s := match (s.port p).modeWait with
    | some w =>
      if w.use = ModeUse.change ∧ old w then
        ((s.modPort p fun q => { q with modeWait := none }).raise (err 2 0x07 0x06 (instP p 0) w.modeId 0 0)).changeDone p
      else s
    | none => s
  match (s.port p).link.reformWait with
  | some w =>
    if old w then
      (s.modLink p fun l => { l with reformWait := none }.settle).raise (err 2 0x07 0x06 (instP p 0) w.modeId 0 0)
    else s
  | none => s

def execModeAckTimeout (p : Fin 4) (s : State) : Host.Outcome State Fault Refusal := .next (s.ackTimeout p)

end Sys2Proof.Machine
end

