-- ==== Sys2Proof/Machine/Latch.lean ====
section
/-! DEFINITION. A port's latch instant (R165 to R172, R218, R247, R295 to R302, R323, R331), the release of tile rows with the
eye state of a subframe (R221, R273, R325), and the start of a frame (R224, R334 to R336). -/

namespace Sys2Proof.Machine

/-! ### MODE_SETs at a latch instant (R323, R325, R326, R328, R329) -/

/-- The ready MODE_SETs at the head of the queue (R166, R323), one that takes in a port in loopback not among them (R375); on a standby, up to the one an APPLY record names (R518). -/
def State.readyModes (s : State) (p frame latch : Nat) : List Nat :=
  let ids := (s.port p).modeQueue
  if s.cway.role.standby then
    match (s.cway.applyQ.filter fun a =>
        decide (a.port = p) && (decide (a.kind = 1) || decide (a.kind = 5)) && decide (a.frame ≤ frame)).getLast? with
    | some a => ids.take (((indexed ids).find? fun x => s.names a x.2).map (fun x => x.1 + 1) |>.getD 0)
    | none => []
  else ids.takeWhile fun id => readyBefore ((s.entry id).bind (·.readyAt)) latch &&
    !(((s.entry id).map fun e => s.looping (gangPorts p e.desc.gangMask)).getD false)

/-- Frames for which a re-forming glass held a MODE_SET back after it was ready (R329). -/
def State.modeWaited (s : State) (p id : Nat) : Nat :=
  satNat ((s.port p).modeHeld.filter fun t => readyBefore ((s.entry id).bind (·.readyAt)) t).length 255

/-- The MODE_SET takes effect at frame `frame`: a stop or a change is due at the next frame start (R325, R326). -/
def State.applyMode (s : State) (p frame id : Nat) (d : Desc) : State :=
  let late := s.modeWaited p id
  let s := s.applyRecord p (if d.stops then 5 else 1) frame id
  let s := s.later p id (if late = 0 then stOk else stOkLate) (256 * late) frame 0
  if d.stops then s.modPort p fun q => { q with stopNext := some 1 }
  else
    let s := (gangPorts p d.gangMask).foldl (fun s m =>
      if m = p ∨ (s.port m).phase ≠ .stopped then s
      else if !(s.port m).link.trained then s.startTraining m
      else if (s.port m).link.power = .l0 then s.modLink m fun l => { l with holdEnd := none }
      else s.wake m) s
    let s := (s.ownPorts p).foldl (fun s m => s.modPort m fun q => { q with phase := .reforming }) s
    s.modPort p fun q => { q with modeNext := some (d.mode, d.gangMask), changeDue := true }

/-- The last of some ready MODE_SETs takes effect; one that fails its checks now completes, and the one before it is the
last; earlier ones are superseded (R323, R328). Newest first. -/
def State.takeModes (p frame : Nat) : List Nat → State → State
  | [], s => s
  | id :: older, s =>
    match s.entry id with
    | none => State.takeModes p frame older s
    | some e =>
      match s.modeFailAgain e.desc with
      | some f => State.takeModes p frame older (s.finish id f 0 0)
      | none => (older.reverse.foldl (fun s i => s.later p i stOk 2 frame 0) s).applyMode p frame id e.desc

/-- The MODE_SETs of a running port at a latch instant (R323). -/
def State.sampleModes (s : State) (p frame latch : Nat) : State :=
  let ids := s.readyModes p frame latch
  if ids = [] ∨ (s.port p).stopNext.isSome then s
  else if (s.port p).phase = .reforming then s.modPort p fun q => { q with modeHeld := q.modeHeld ++ [latch] }
  else
    let s := s.modPort p fun q => { q with modeQueue := q.modeQueue.drop ids.length }
    (State.takeModes p frame ids.reverse s).modPort p fun q => { q with modeHeld := [] }

/-! ### Measuring frames (R495, R498) -/

/-- The photometric CAL_MEASURE that a latch instant of a port may serve: the one under way, or the first that is ready. -/
def State.photometric (s : State) (p latch : Nat) : Option Entry :=
  s.ledger.find? fun e => decide (e.desc.opcode = opCalMeasure) && decide (e.desc.f 2 3 0 = 1) && decide (e.desc.f 2 5 4 = p) &&
    readyBefore e.readyAt latch

/-- A latch instant's part in a photometric calibration: the frame's words are 0 or grey_code when it is a measuring frame
(R498). -/
def State.latchMeasure (s : State) (p frame latch : Nat) : State :=
  let set := fun (x : Option Nat) (s : State) => s.modPort p fun q => { q with measure := x }
  match s.photometric p latch with
  | none => set none s
  | some e =>
    match e.job with
    | .calMeasure first rep n f0 safe =>
      let now := safe || s.power.safeApplied
      let go := fun (rep : Timer) (n f0 : Nat) (x : Nat) (s : State) =>
        set (some x) ((s.modEntry e.id fun y => { y with job := .calMeasure first rep n f0 now }).begun e.id)
      let grey := s.field 0x900C 23 12
      if n = 0 then go (some (latch + msTicks 50)) 1 frame 0 s
      else if n = 1 then go rep 2 f0 grey s
      else if n = 2 ∧ first ≠ [] ∧ due rep latch then go rep 3 f0 0 s
      else if n = 3 then go rep 4 f0 grey s
      else set none s
    | _ => set none s

/-! ### Rows and subframes (R218, R221, R273, R325) -/

/-- The tick of line `j` of a frame that starts at `start` with these line ticks (R314). -/
def lineTick (start lt33 : Nat) (j : Nat) : Nat := start + j * lt33 / 2 ^ 33

/-- The eye state of subframe `k` of a frame is fixed at the release of its row 0 at tick `tick`; its middle line begins at `mid` (R272 to
R277). Rows 0 are released on a gang's other members too, so their updates apply then, though the gang does not use them (DEDUCED, log 77). -/
def State.fixSubframe (s : State) (p frame k tick mid : Nat) : State :=
  let s := (s.ownPorts p).foldl (fun s m => s.takeEyes m frame k tick) s
  let r := s.fixEyes p (s.tideAt6 (mid + 1350))
  r.2.modPort p fun q => { q with frames := q.frames.map fun f =>
    if f.frame = frame then { f with fixes := tabPut f.fixes k r.1 } else f }

/-- Row `r` of subframe `k` of a frame of port `p` is released on every member (R221, R321); SAFE_STATE_N gates it when it has applied since
the latch instant, which alone releases (R304); a unit that drives no glass releases none (R511). -/
def State.releaseRows (s : State) (p : Nat) (ps : List Nat) (f : FrameState) (k r tick deadline : Nat) : State :=
  if s.cway.role.drives then
    ps.foldl (fun s m => s.releaseRow m
      { lead := p, frame := f.frame, sub := k, row := r, next := 0, at_ := tick, deadline := deadline
        safe := (s.port m).safeSince, left := f.mode.segments }) s
  else s

/-- The rows of a changed mode's first frame that would have been released before its start: at the latch instant, or at
their own line slot counted back from the new origin, whichever is later (R325). -/
def State.releaseEarly (s : State) (p : Nat) (ps : List Nat) (f : FrameState) (latch start : Nat) : State :=
  let m := f.mode
  ((List.range m.tileRows).filter fun r => decide (0 < r) && decide (32 * r < m.raceLead)).foldl (fun s r =>
    let back := ceilDiv ((m.raceLead - 32 * r) * m.lt33) (2 ^ 33)
    s.releaseRows p ps f 0 r (max latch (start - back)) (lineTick start m.lt33 (32 * r))) s

/-! ### The latch instant -/

/-- The line slot at which the next frame starts. -/
def Port.boundary (q : Port) : Int := if q.phase = .starting then q.frameAt else q.frameAt + (q.mode.frameLines : Nat)

/-- What the Weave will use of the frame (R191, R218, R229, R232, R331). The excursion bounds cover all SUBFRAMES phases, one that T4 leaves
out among them (DEDUCED, log 78). -/
def State.fixFrame (s : State) (p frame g : Nat) (m : Mode) : State :=
  let q := s.port p
  let ctrl := s.reg (0x4100 + 0x40 * p)
  let atlas := decide (ctrl % 2 = 1)
  let b := q.ray.bounds m.subframes
  let on := decide (s.field (0x3104 + 0x40 * p) 31 31 = 0)
  let small := atlas && s.atlasSmall q.scene
  let gate := s.gateScene frame q.scene q.prot b.1 b.2 on atlas small q.safeLatch
  let eff := if 4 ≤ s.sense.level then max 1 (m.subframes - 1) else m.subframes
  let f : FrameState :=
    { frame := frame, mode := m, gang := g, scene := q.scene, tone := q.tone, gated := gate.map (·.1), dark := gate.map (·.2.1), ctrl := ctrl, atlasGated := small
      subframes := eff, safe := q.safeLatch, grey := q.measure, new := q.ray.new, old := q.ray.old, fadeF := q.ray.fadeF
      fadeLen := q.ray.fadeLen, eu := b.1, ev := b.2, fixes := [], prot := q.prot, reported := [], skipped := (gate.map (·.2.2)).sum }
  let s := (s.setField (0x4100 + 0x40 * p) 5 5 (bit small)).setReg (0x4420 + 0x80 * p) (b.1 % 65536 + b.2 % 65536 * 65536)
  s.modPort p fun q => { q with frames := q.frames ++ [f], subEffNext := eff }

/-- The frame is latched: everything that a latch instant fixes but the modes (R166 to R171, R197, R218, R247, R295). `start`
is the predicted tick of the frame's start, `g` and `m` its gang and mode, `fresh` when a MODE_SET brings them, `changed` when it
does so on a running port. -/
def State.latchFrame (s : State) (p frame latch start g : Nat) (m : Mode) (fresh changed : Bool) : State :=
  let ps := (gangPorts p g).filter fun m => decide (m = p) || !(s.leaves m)
  let t6 := s.tideAt6 start
  let s := ps.foldl (fun s x => (s.latchSafe x).setWreg (wpBase x + 0x24) (frame % 2 ^ 32)) s
  let s := s.modPort p fun q => { q with starts := ((frame, t6) :: q.starts).take 260 }
  let run := (s.commitRun p frame latch t6).map (·.id)
  let s := (s.takeCommits p frame latch t6).modPort p fun q => { q with flips := decide (run ≠ []) }
  let s := ps.foldl (fun s x => if x = p then s.latchRegions p frame latch run else s.latchWrites x latch) s
  let s := s.latchRay p frame latch g m fresh
  let s := (s.latchMeasure p frame latch).fixFrame p frame g m
  let s := if s.cway.role.drives then s.latchCapture p frame else s
  match (s.port p).frameOf frame with
  | none => s
  | some f =>
    let q := s.port p
    let mid := if changed then lineTick start m.lt33 (m.vActive / 2) else q.slotTick (q.boundary + ((m.vActive / 2 : Nat) : Int))
    let s := s.fixSubframe p frame 0 latch mid
    let s := s.releaseRows p ps f 0 0 latch start
    if changed then s.releaseEarly p ps f latch start else s

/-- APPLY items whose frame has been latched are done with (R518). -/
def State.dropApplied (s : State) (p frame : Nat) : State :=
  { s with cway := { s.cway with applyQ := s.cway.applyQ.filter fun a => decide (a.port ≠ p) || decide (frame ≤ a.frame) } }

/-- A gang's other member at the gang's latch instant of frame `n`: ready MODE_SETs of its own queue are taken (R323). One that gives it a mode
without the gang has the member leave at the frame's start, with the frame latched for itself. -/
def State.latchMember (s : State) (m n latch start : Nat) : State :=
  let s := s.sampleModes m n latch
  if (s.port m).stopNext.isSome then s
  else match (s.port m).modeNext with
    | some (mode, mask) =>
      let f := (s.port (s.lead m)).frame
      (s.modPort m fun q => { q with frame := f, nextNo := n }).latchFrame m n latch start mask mode true true
    | none => s

/-- The latch instant of a port's next frame, at tick `latch`; the frame is predicted to start at tick `start` (R165 to R172,
R301, R323). A stop that is due leaves no frame to latch (R326). -/
def State.latch (s : State) (p latch start : Nat) : State :=
  let q := s.port p
  let starting := decide (q.phase = .starting)
  let n := s.frameNo p q.frame start
  let s := (s.closeWitness p q.frame).cutCapture p
  let s := (s.members p).foldl (fun s m => (s.failCommits m).latchProt m latch) s
  let s := s.modPort p fun q => { q with nextNo := n }
  let s := ((s.members p).filter fun m => decide (m ≠ p)).foldl (fun s m => s.latchMember m n latch start) s
  let s := if starting then s else s.sampleModes p n latch
  let q := s.port p
  if q.stopNext.isSome then (s.members p).foldl (fun s m => s.latchSafe m) s
  else
    let s := if starting then (match q.startId with
      | some id => (s.applyRecord p 1 n id).later p id stOk 0 n 0
      | none => s).modPort p fun x => { x with startId := none } else s
    let a := q.modeNext.getD (q.mode, q.gang)
    (s.latchFrame p n latch start a.2 a.1 (starting || q.modeNext.isSome) q.modeNext.isSome).dropApplied p n

/-! ### The start of a frame (R224, R334 to R336) -/

/-- The start time of a frame in three words from `base` (R336). -/
def State.putTime (s : State) (base ns : Nat) : State :=
  ((s.setReg base (ns % 1000000000)).setReg (base + 4) (ns / 1000000000 % 2 ^ 32)).setReg (base + 8) (ns / 1000000000 / 2 ^ 32)

/-- SCAN_FSTARTn, and SCAN_FLIPn at a frame in which a commit takes effect (R336). -/
def State.recordStart (s : State) (p tick : Nat) : State :=
  let b := 0x5000 + 0x400 * p
  let q := s.port p
  let ns := s.tideNsAt tick
  let s := s.putTime (b + 0x20) ns
  if q.flips then ((s.putTime (b + 0x30) ns).setReg (b + 0x3C) (q.frame % 2 ^ 32)).setReg (b + 0x40) (q.frame / 2 ^ 32) else s

/-- What belongs to frames before the one that starts is dropped. -/
def Port.prune (q : Port) (frame : Nat) (kept : List Nat) : Port :=
  { q with
    rows := q.rows.filter fun r => kept.contains r.frame
    lead := q.lead.filter fun e => kept.contains (e.1 / 2 ^ 26)
    counts := q.counts.filter fun e => kept.contains e.1
    frames := q.frames.filter fun f => decide (f.frame = frame) }

/-- A frame starts at tick `tick` (R334): the counter takes its number, the time is recorded, a grouped port re-bases its
lines (R476), witness tiles are released (R224), and doorbells are read once more (R87). -/
def State.frameStart (s : State) (p tick : Nat) : State :=
  let n := (s.port p).nextNo
  let s := (s.members p).foldl (fun s m => s.modPort m fun q =>
    { q.prune n [n] with phase := if q.phase = .starting then .running else q.phase, everStarted := true }) s
  let s := s.modPort p fun q =>
    { q with frame := n, nextNo := (n + 1) % 2 ^ 48, subEff := q.subEffNext, leadMin := 255 }
  let s := (s.recordStart p tick).modPort p fun q => { q with flips := false }
  let s := (s.rebase p tick).extraRound
  let q := s.port p
  match q.frameOf n with
  | some f =>
    if s.cway.role.drives then
      s.releaseWitness p (q.slotTick (q.frameAt + ((q.mode.frameLines - q.mode.raceLead : Nat) : Int))) f
    else s
  | none => s

end Sys2Proof.Machine
end

