-- ==== Sys2Proof/Machine/Lines.lean ====
section
/-! DEFINITION. Line slots and segment slots (R314 to R316, R326, R331, R332, R338, R355, R370): what a port sends, and what
comes about in a slot. -/

namespace Sys2Proof.Machine

/-- The Weave has been stopped for good: every slot carries HOLD (R491, R549). -/
def State.halted (s : State) : Bool := s.flt.fatalHold || s.sense.tripped

/-! ### Segments (R316, R332) -/

/-- The last three of some words. -/
def lastThree (ws : List W12) : List W12 := ws.drop (ws.length - 3)

/-- A segment's slot begins: its words come from the lead buffer; when it is not complete there, it and every later segment
of the line are the last triple repeated, and the line counts as an underrun (R332, R333). -/
def State.takeSegment (s : State) (p : Nat) (o : LineOpen) (key : Nat) : LineOpen × State :=
  let q := s.port p
  match (if o.under then none else tabFind q.lead key) with
  | some ws =>
    ({ o with seg := o.seg + 1, words := o.words ++ ws },
      s.modPort p fun x => { x with lead := tabErase x.lead key, lastTriple := lastThree ws })
  | none =>
    let ws := (List.replicate 32 q.lastTriple).flatten
    let s := if o.under then s
      else (s.count (0x5044 + 0x400 * s.lead p) 31 0 1).setBit (0x5010 + 0x400 * p) 20
    ({ o with seg := o.seg + 1, words := o.words ++ ws, under := true }, s)

/-- A LINE packet goes out at the position that was kept for it (R355, R359). -/
def State.sendLine (s : State) (p : Nat) (h : PktHead) (o : LineOpen) : State :=
  if s.sends p then match mkPacket h o.words (s.now) with
    | .packet k => s.modLink p fun l => l.sendAt { k with tick := (s.port (s.lead p)).slotTick o.slot + 300 } o.pos
    | _ => s
  else s

/-- The line is complete: its LINE packet has gone out, and what the Weave finishes later for it is discarded (R332, R354). -/
def State.closeLine (s : State) (p : Nat) (o : LineOpen) : State :=
  let l := s.port (s.lead p)
  let at_ := l.placeOf o.slot
  let h := { s.head p 1 at_.1 at_.2 with under := o.under, last := decide (at_.2 + 1 = l.mode.vActive) }
  (s.sendLine p h o).modPort p fun q =>
    { q with line := none, lead := q.lead.filter fun e => decide (segKey l.frame at_.1 (at_.2 + 1) 0 ≤ e.1) }

/-- Take up to `n` more segments of the open line whose slots have begun by now. -/
def State.takeSegments (p : Nat) : Nat → State → State
  | 0, s => s
  | n + 1, s =>
    match (s.port p).line with
    | none => s
    | some o =>
      let l := s.port (s.lead p)
      if l.slotTick o.slot + (s.port p).link.segTicks o.seg ≤ s.now then
        let at_ := l.placeOf o.slot
        let r := s.takeSegment p o (segKey l.frame at_.1 at_.2 o.seg)
        if l.mode.segments ≤ r.1.seg then r.2.closeLine p r.1
        else State.takeSegments p n (r.2.modPort p fun q => { q with line := some r.1 })
      else s

/-- SEGMENT_SEND_SLOT (R29, R316, R332): the open line's next segment. -/
def execSegmentSendSlot (p : Fin 4) (s : State) : Host.Outcome State Fault Refusal := .next (State.takeSegments p 1 s)

/-- The next line slot has begun: whatever is left of the open line has had its slots. -/
def State.flushLine (s : State) (p : Nat) : State := match (s.port p).line with
  | some o => State.takeSegments p ((s.port (s.lead p)).mode.segments - o.seg) s
  | none => s

/-! ### SCAN_LEADn (R338) -/

/-- Complete lines among rising segment keys: `line` is the line being counted, `have_` its segments so far. -/
def completeLines (n : Nat) : Nat → Nat → List Nat → Nat
  | _, have_, [] => if n ≤ have_ then 1 else 0
  | line, have_, k :: ks =>
    if k / 512 = line then completeLines n line (have_ + 1) ks
    else (if n ≤ have_ then 1 else 0) + completeLines n (k / 512) 1 ks

/-- Complete lines held in a port's lead buffer. -/
def Port.linesHeld (q : Port) (segments : Nat) : Nat := match q.lead.map (·.1) with
  | [] => 0
  | k :: ks => completeLines segments (k / 512) 1 ks

/-- The fewest complete lines held at a line start, over the members. -/
def State.noteLead (s : State) (p : Nat) : State :=
  let n := (s.members p).foldl (fun n m => min n ((s.port m).linesHeld (s.port p).mode.segments)) 255
  s.modPort p fun q => { q with leadMin := min q.leadMin n }

/-! ### The end of a frame (R203, R235, R325, R326, R338) -/

/-- The last line of a frame's last subframe has been sent: its counters are published. -/
def State.endFrame (s : State) (p : Nat) : State :=
  let q := s.port p
  match q.frameOf q.frame with
  | some f => (s.publishFrame p f).setField (0x5048 + 0x400 * p) 15 8 q.leadMin
  | none => s

/-- A change of mode comes in force: the frame that starts is its first, on the ports of its gang (R325). -/
def State.switchMode (s : State) (p tick : Nat) (m : Mode) (mask : Nat) : State :=
  let phase := (s.port p).phase
  let s := (gangPorts p mask).foldl (fun s x => s.modPort x fun q =>
    { q with gang := mask, phase := phase, lastTriple := [0, 0, 0], line := none }) s
  ((s.modPort p fun q => { q with
    mode := m, lineTicks := m.lt33, t0 := tick, next := 0, frameAt := 0, modeNext := none, outOfStep := false }).outsFollow p).scanStopped p

/-- The port stops in place of its next frame (R326): a MODE packet that announces it, on every member; HOLD follows in the next
line slots (R374). -/
def State.stopHere (s : State) (p reason tick : Nat) : State :=
  let q := s.port p
  let s := (s.members p).foldl (fun s m =>
    let r := s.takeModeId m
    r.2.sendMode m 1 q.gang q.mode r.1 (0, 0) tick) s
  let added := (q.modeNext.map fun x => gangPorts p x.2).getD []
  let s := added.foldl (fun s m => s.modPort m fun x => { x with modeWait := none }) s
  (s.modPort p fun x => { x with next := x.next + 1 }).stopPort p reason false tick

/-- A slot at a frame boundary, at tick `tick`: the port stops, changes its mode, or goes on. -/
def State.atBoundary (s : State) (p tick : Nat) : State :=
  let q := s.port p
  match q.stopNext with
  | some reason => s.stopHere p reason tick
  | none =>
    match q.modeNext with
    | some (m, mask) => (s.switchMode p tick m mask).frameStart p tick
    | none => (s.modPort p fun x => { x with frameAt := x.next }).frameStart p tick

/-- A member leaves its gang: its slots are counted on from the gang's. -/
def State.detach (s : State) (m : Nat) : State :=
  let q := s.port (s.lead m)
  s.modPort m fun x => { x with
    gang := 0, mode := q.mode, t0 := q.t0, lineTicks := q.lineTicks, next := q.next, frameAt := q.frameAt, frame := q.frame }

/-- The frame boundary of a port or gang; members that leave go their own way from here (R323, R325, R326). -/
def State.boundaries (s : State) (p tick : Nat) : State :=
  let out := (s.members p).filter s.leaves
  let s := (out.foldl (fun s m => s.detach m) s).atBoundary p tick
  out.foldl (fun s m => s.atBoundary m tick) s

/-- A frame starts while the Weave has been stopped for good: it is counted and its time recorded, and nothing is rendered (R334, R336). -/
def State.emptyFrame (s : State) (p tick : Nat) : State :=
  let s := s.modPort p fun q => { q with
    frameAt := q.next, frame := q.nextNo, nextNo := (q.nextNo + 1) % 2 ^ 48, phase := if q.phase = .starting then .running else q.phase }
  (s.recordStart p tick).modPort p fun q => { q with flips := false }

/-! ### Releases in a slot (R221) -/

/-- Rows of a subframe whose release is the slot `j`, its line 0 being slot `line0`. -/
def rowAt (m : Mode) (line0 j : Int) : Option Nat :=
  let d := j + (m.raceLead : Int) - line0
  if 0 ≤ d ∧ d % 32 = 0 ∧ d / 32 < (m.tileRows : Int) then some (d / 32).toNat else none

/-- Row releases of the frame now sent, in slot `j` at tick `tick`; a later subframe's row 0 fixes its eye state. -/
def State.releaseNow (s : State) (p : Nat) (j : Int) (tick : Nat) : State :=
  let q := s.port p
  match q.frameOf q.frame with
  | none => s
  | some f =>
    forN f.subframes (fun k s =>
      let line0 := q.frameAt + ((k * q.mode.vTotal : Nat) : Int)
      match rowAt q.mode line0 j with
      | some r =>
        if k = 0 ∧ j < q.frameAt then s
        else
          let s := if r = 0 then s.fixSubframe p f.frame k tick (q.slotTick (line0 + ((q.mode.vActive / 2 : Nat) : Int))) else s
          s.releaseRows p (s.members p) f k r tick (q.slotTick (line0 + ((32 * r : Nat) : Int)))
      | none => s) s

/-- Row releases of the frame latched and not started, rows 1 and up of its subframe 0; a changed mode's stand since the latch
instant (R325). -/
def State.releaseNext (s : State) (p : Nat) (j : Int) (tick : Nat) : State :=
  let q := s.port p
  match (if q.modeNext.isSome then none else q.frameOf q.nextNo) with
  | none => s
  | some f =>
    match rowAt q.mode q.boundary j with
    | some r =>
      if r = 0 ∨ q.boundary ≤ j then s
      else s.releaseRows p ((s.members p).filter fun m => !(s.leaves m)) f 0 r tick (q.slotTick (q.boundary + ((32 * r : Nat) : Int)))
    | none => s

/-! ### What a slot carries (R325, R331, R355, R370) -/

/-- A line of the port opens: its packet keeps its place from 300 ticks into the slot on (R355, R359). -/
def State.openLine (s : State) (m : Nat) (j : Int) (tick : Nat) : State :=
  let n := (s.port (s.lead m)).mode.hActive + 6
  s.modPort m fun x =>
    let pos := x.link.freePos (tick + 300)
    { x with
      line := some { slot := j, pos := pos, seg := 0, words := [], under := false }
      link := { x.link with busyTo := posAfter pos (wordPositions false x.link.nd n) } }

/-- A member's packet of the slot: a re-forming's MODE and HOLD, HOLD in the slots left out, IDLE in blanking lines and the
lead-in, or an opened LINE. -/
def State.sendSlot (s : State) (p m : Nat) (j : Int) (tick : Nat) : State :=
  let q := s.port p
  let at_ := q.placeOf j
  if (s.port m).link.reform.isSome then
    ((s.modLink m fun l => l.applyReform).announceReform m at_ tick).sendHold m at_.1 at_.2 tick
  else if s.halted then s.sendHold m at_.1 at_.2 tick
  else if q.phase = .starting then s.sendIdle m at_.1 at_.2 tick
  else if q.subEff ≤ at_.1 then s.sendHold m at_.1 at_.2 tick
  else if q.mode.vActive ≤ at_.2 then s.sendIdle m at_.1 at_.2 tick
  else if s.cway.role.drives then
    s.openLine m j tick
  else s

/-- The MODE packet of a change of port `m`, `p` itself or a member that leaves its gang, goes out in a blanking line of the last old
subframe (R325, R371). -/
def State.sendChange (s : State) (p m : Nat) (j : Int) : State :=
  let q := s.port p
  let at_ := q.placeOf j
  match (s.port m).modeNext with
  | some (_, mask) =>
    if (s.port m).changeDue ∧ at_.1 + 1 = q.mode.subframes ∧ q.mode.vActive ≤ at_.2 then
      (gangPorts m mask).foldl (fun s x => s.announce x .change) (s.modPort m fun x => { x with changeDue := false })
    else s
  | none => s

/-- Records that wait for the first line of the frame (R112, R171, R201, R246, R329): written in the frame's second slot. -/
def State.writeRecords (s : State) (p : Nat) : State := (s.flushRecords p (s.frameStartNs p)).lateRecord p

/-- The slot before was the last of the last subframe that the frame renders (R235, R331). -/
def Port.frameSent (q : Port) : Bool :=
  decide (q.phase ≠ .starting) && decide (q.next = q.frameAt + ((q.subEff * q.mode.vTotal : Nat) : Int))

/-- One line slot of a port that runs, at its tick. -/
def State.activeSlot (s : State) (p : Nat) : State :=
  let tick := (s.port p).slotTick (s.port p).next
  let s := (s.members p).foldl (fun s m => s.flushLine m) s
  let s := if (s.port p).frameSent ∧ !s.halted then s.endFrame p else s
  let s := if (s.port p).next ≠ (s.port p).boundary then s else if s.halted then s.emptyFrame p tick else s.boundaries p tick
  let q := s.port p
  if !q.slots then s
  else
    let j := q.next
    let at_ := q.placeOf j
    let s := if j = q.frameAt + 1 ∧ q.phase ≠ .starting then s.writeRecords p else s
    let s := if s.halted then s
      else
        let s := if j = q.boundary - (q.mode.raceLead : Int) then s.latch p tick (q.slotTick q.boundary) else s
        (s.releaseNow p j tick).releaseNext p j tick
    let s := if q.phase = .starting then s else s.scanReached p at_.1 at_.2
    let s := s.modPort p fun x => { x with next := j + 1 }
    let s := (s.members p).foldl (fun s m => s.sendSlot p m j tick) s
    let s := (p :: (s.members p).filter s.leaves).foldl (fun s m => s.sendChange p m j) s
    ((s.members p).foldl (fun s m => s.sendLater m) s).noteLead p

/-- A line slot of the old mode while a stopped port still sends HOLD (R374). -/
def State.holdSlot (s : State) (p : Nat) : State :=
  let q := s.port p
  let at_ := q.placeOf q.next
  ((s.sendHold p at_.1 at_.2 (q.slotTick q.next)).modPort p fun x => { x with next := x.next + 1 }).sendLater p

/-- LINE_SEND_SLOT (R314): the next line slot of a port or gang has begun. -/
def State.lineSlot (s : State) (p : Nat) : State :=
  let q := s.port p
  if s.follower p ∨ !s.running then s
  else if s.now < q.slotTick q.next then s
  else if q.slots then s.activeSlot p
  else if q.link.holdEnd.isSome then s.holdSlot p
  else s

def execLineSendSlot (p : Fin 4) (s : State) : Host.Outcome State Fault Refusal := .next (s.lineSlot p)

/-- SCAN_CLEAR_UNDER (R333, R338): a gang's other members have no counter to clear. -/
def State.clearUnder (s : State) (p : Nat) : State := if s.follower p then s else s.setReg (0x5044 + 0x400 * p) 0

def execScanClearUnder (p : Fin 4) (s : State) : Host.Outcome State Fault Refusal := .next (s.clearUnder p)

end Sys2Proof.Machine
end

