-- ==== Sys2Proof/Machine/Strand.lean ====
section
/-! DEFINITION. The decoders (13_strand_decompression.md): contexts (R382 to R385), where output goes (R386 to R388), the
Strand bitstream (R389 to R393), the Deflate path (R394 to R396), and how a decode descriptor ends (R397 to R401). -/

namespace Sys2Proof.Machine

/-! ### Bits -/

/-- The bits of bytes, least significant first (R389). -/
def bitsOf : List Byte → List Bool
  | [] => []
  | b :: bs => (List.range 8).map (fun i => b.getLsbD i) ++ bitsOf bs

/-- The number that bits spell, least significant first. -/
def bitsNat : List Bool → Nat
  | [] => 0
  | b :: bs => bit b + 2 * bitsNat bs

/-! ### The destination (R386 to R388) -/

/-- A destination: what unlisted bytes read as, the layout's size, the byte where position 0 lies, and whether words go in
groups. -/
structure Dest where
  fill  : Fill
  size  : Nat
  off   : Nat
  group : Bool

/-- Group placement for BDB formats, dense for every other (R386). -/
def destOf (o : Obj) (off : Nat) : Dest :=
  { fill := o.fill, size := o.layout, off := off, group := imageClass o.cls && isBdb o.format }

/-- The bit of the host layout at which word `k` begins (R386). -/
def Dest.wordBit (d : Dest) (k : Nat) : Nat :=
  if d.group then 8 * (d.off + 60 * (k / 39)) + 12 * (k % 39) else 8 * d.off + 12 * k

/-- Word `k` fits (R388). -/
def Dest.wordFits (d : Dest) (k : Nat) : Bool := decide (d.wordBit k + 12 ≤ 8 * d.size)

/-- Set twelve bits of a content, from a bit that is a multiple of four. -/
def setTwelve (fill : Fill) (bytes : Tab Byte) (b w : Nat) : Tab Byte :=
  let o := b / 8
  let old := leNat [contentByte fill bytes o, contentByte fill bytes (o + 1)]
  writeBytes fill bytes o (leBytes 2 (putField old (b % 8 + 11) (b % 8) w))

/-- Write word `k`; bits [479:468] of its group are zero (R386). -/
def Dest.putWord (d : Dest) (bytes : Tab Byte) (k w : Nat) : Tab Byte :=
  let bytes := setTwelve d.fill bytes (d.wordBit k) w
  if d.group then setTwelve d.fill bytes (8 * (d.off + 60 * (k / 39)) + 468) 0 else bytes

/-- Zero bits from a bit to the next 32-bit boundary, inside the layout (R387). -/
def zeroTail (d : Dest) (bytes : Tab Byte) (b : Nat) : Tab Byte :=
  let fin := min (ceilDiv b 32 * 4) d.size
  let o := b / 8
  if b % 32 = 0 ∨ fin ≤ o then bytes
  else writeBytes d.fill bytes o
    (BitVec.ofNat 8 ((contentByte d.fill bytes o).toNat % 2 ^ (b % 8)) :: List.replicate (fin - o - 1) 0)

/-! ### A run of a decoder -/

/-- Why a run stops. -/
inductive DecEnd where
  | going | full | done | mismatch (reason : Nat) | corrupt (reason : Nat) | starved
deriving DecidableEq, Repr

/-- A decoder at work: its context, the content written, the bits not yet read, words or bytes emitted, codes decoded. -/
structure Decode where
  ctx   : Ctx
  bytes : Tab Byte
  bits  : List Bool
  out   : Nat
  codes : Nat
  stop  : DecEnd

/-- Bits up to the next byte boundary of the stream are skipped: the bits not yet read end on one. -/
def Decode.align (r : Decode) : Decode := { r with bits := r.bits.drop (r.bits.length % 8) }

/-- One more word into the trailer's CRC, packed in pairs (R393, R288). -/
def Ctx.crcWord (c : Ctx) (w : Nat) : Ctx := match c.oddWord with
  | none => { c with oddWord := some (BitVec.ofNat 12 w) }
  | some a => { c with oddWord := none, crc := crcRun 0 c.crc (leBytes 3 (a.toNat + 4096 * w)) }

/-- The finished trailer CRC. -/
def Ctx.trailer (c : Ctx) : Nat :=
  (match c.oddWord with
   | none => c.crc
   | some a => crcRun 0 c.crc (leBytes 2 a.toNat)) ^^^ 0xFFFFFFFF

/-- A line of the stride has ended: the position advances to the next multiple of 39 words, and what is passed over is
written as zero where it fits (R388, R391). -/
def Decode.endLine (d : Dest) (r : Decode) : Decode :=
  let p := r.ctx.pos
  let q := ceilDiv p 39 * 39
  { r with
    ctx := { r.ctx with pos := q, lineCnt := 0 }
    bytes := (List.range (q - p)).foldl (fun bs i => if d.wordFits (p + i) then d.putWord bs (p + i) 0 else bs) r.bytes }

/-- Emit words; those from the first that does not fit on are held (R388, R398). -/
def Decode.emitWords (d : Dest) : List Nat → Decode → Decode
  | [], r => r
  | w :: ws, r =>
    if d.wordFits r.ctx.pos then
      let bytes := d.putWord r.bytes r.ctx.pos w
      let c := r.ctx.crcWord w
      let r := { r with bytes := bytes, out := r.out + 1, ctx := { c with pos := c.pos + 1, lineCnt := c.lineCnt + 1 } }
      let r := if d.group ∧ r.ctx.stride ≠ 0 ∧ r.ctx.lineCnt = r.ctx.stride then r.endLine d else r
      Decode.emitWords d ws r
    else { r with stop := .full, ctx := { r.ctx with held := w :: ws } }

/-! ### Strand (R389 to R393) -/

/-- The dictionary count N. -/
def Ctx.n (c : Ctx) : Nat := 4352 + c.dict.length

/-- The width of the next code (R392). -/
def Ctx.width (c : Ctx) : Nat := min c.wmax (max 13 (Nat.log2 c.n + 1))

/-- The header (R390). -/
def strandHeader (r : Decode) : Decode :=
  if r.bits.length < 64 then { r with stop := .starved }
  else
    let b := fun i n => bitsNat ((r.bits.drop (8 * i)).take (8 * n))
    let r' := { r with bits := r.bits.drop 64 }
    if b 0 4 = 0x505A7D01 ∧ b 4 1 = 1 ∧ 13 ≤ b 5 1 ∧ b 5 1 ≤ 16 ∧ b 6 2 = 0
    then { r' with ctx := { r.ctx with headerOk := true, wmax := b 5 1 } }
    else { r' with stop := .corrupt 1 }

/-- The trailer (R393). -/
def strandTrailer (r : Decode) : Decode :=
  if r.bits.length < 32 then { r with stop := .starved }
  else
    let t := bitsNat (r.bits.take 32)
    { r with bits := r.bits.drop 32, stop := if t = r.ctx.trailer then .done else .mismatch 1 }

/-- A control code (R391); `rest` are the bits after it. In dense placement a STRIDE is read and ignored. -/
def strandControl (d : Dest) (r : Decode) (c : Nat) (rest : List Bool) : Decode :=
  let x := { r.ctx with prev := [] }
  let r' := { r with bits := rest, codes := r.codes + 1, ctx := x }
  if c = 4096 then { r' with ctx := { x with dict := [], frozen := false } }
  else if c = 4097 then ({ r' with ctx := { x with ended := true } }).align
  else if c = 4098 then r'.align
  else if c = 4099 then { r' with ctx := { x with frozen := true } }
  else if c = 4100 then
    if rest.length < 20 then { r with stop := .starved }
    else { r' with
      bits := rest.drop 20
      ctx := if d.group then { x with stride := bitsNat (rest.take 20), lineCnt := 0 } else x }
  else { r' with stop := .corrupt 3 }

/-- One code (R392). -/
def strandCode (d : Dest) (r : Decode) : Decode :=
  let w := r.ctx.width
  if r.bits.length < w then { r with stop := .starved }
  else
    let c := bitsNat (r.bits.take w)
    let rest := r.bits.drop w
    let x := r.ctx
    if 4096 ≤ c ∧ c < 4352 then strandControl d r c rest
    else
      let r' := { r with bits := rest, codes := r.codes + 1 }
      let str : Option (List W12) :=
        if c < 4096 then some [BitVec.ofNat 12 c]
        else if c < x.n then some (x.dict.getD (c - 4352) [])
        else if c = x.n ∧ x.prev ≠ [] ∧ ¬ x.frozen then some (x.prev ++ x.prev.take 1)
        else none
      match str with
      | none => { r' with stop := .corrupt 2 }
      | some ws =>
        let grow := decide (x.prev ≠ []) && !x.frozen && decide (x.n < 2 ^ x.wmax)
        let x' := { x with dict := if grow then x.dict ++ [x.prev ++ ws.take 1] else x.dict, prev := ws }
        Decode.emitWords d (ws.map (·.toNat)) { r' with ctx := x' }

/-- One turn of the Strand decoder. -/
def strandTurn (d : Dest) (r : Decode) : Decode :=
  if !r.ctx.headerOk then strandHeader r else if r.ctx.ended then strandTrailer r else strandCode d r

/-! ### Deflate (R394 to R396) -/

/-- What reading part of a Deflate stream gives. -/
inductive Got (α : Type) where
  | ok (x : α) (rest : List Bool)
  | more
  | bad

/-- Read `n` bits. -/
def getBits (n : Nat) (bits : List Bool) : Got Nat :=
  if bits.length < n then .more else .ok (bitsNat (bits.take n)) (bits.drop n)

/-- The symbols of a code with one length. -/
def symsOf (lens : List Nat) (len : Nat) : List Nat := (List.range lens.length).filter fun i => lens.getD i 0 = len

/-- Decode one symbol of a canonical code: `fuel` lengths from `len` on (RFC 1951). -/
def huffRead (lens : List Nat) : Nat → Nat → Nat → Nat → List Bool → Got Nat
  | 0, _, _, _, _ => .bad
  | _ + 1, _, _, _, [] => .more
  | fuel + 1, len, code, first, b :: bits =>
    let code := code + bit b
    let syms := symsOf lens len
    if code < first + syms.length ∧ first ≤ code then .ok (syms.getD (code - first) 0) bits
    else huffRead lens fuel (len + 1) (2 * code) (2 * (first + syms.length)) bits

/-- Decode one symbol. -/
def getSym (lens : List Nat) (bits : List Bool) : Got Nat := huffRead lens 15 1 0 0 bits

/-- The share of the code space that lengths take, of 2^15. -/
def kraft (lens : List Nat) : Nat := ((lens.filter (· ≠ 0)).map fun l => 2 ^ (15 - l)).sum

/-- A complete code. -/
def completeCode (lens : List Nat) : Bool := decide (kraft lens = 32768)

/-- A distance code that RFC 1951 permits: complete, one code of one bit, or none at all (R395). -/
def distCodeOk (lens : List Nat) : Bool :=
  completeCode lens || decide (lens.filter (· ≠ 0) = [1]) || decide (lens.filter (· ≠ 0) = [])

/-- The order of the code length codes (RFC 1951). -/
def clOrder : List Nat := [16, 17, 18, 0, 8, 7, 9, 6, 10, 5, 11, 4, 12, 3, 13, 2, 14, 1, 15]

/-- Read `n` three-bit code lengths. -/
def readCl : Nat → List Nat → List Bool → Got (List Nat)
  | 0, acc, bits => .ok acc bits
  | n + 1, acc, bits => match getBits 3 bits with
    | .ok x rest => readCl n (acc ++ [x]) rest
    | .more => .more
    | .bad => .bad

/-- Lengths of the code length code, by symbol. -/
def clLens (xs : List Nat) : List Nat :=
  (List.range 19).map fun s => match clOrder.findIdx? (· = s) with
    | some i => xs.getD i 0
    | none => 0

/-- Read literal and distance code lengths until there are `total` (RFC 1951). -/
def readLens (cl : List Nat) (total : Nat) : Nat → List Nat → List Bool → Got (List Nat)
  | 0, acc, bits => if acc.length = total then .ok acc bits else .bad
  | fuel + 1, acc, bits =>
    if acc.length = total then .ok acc bits
    else if total < acc.length then .bad
    else match getSym cl bits with
      | .more => .more
      | .bad => .bad
      | .ok s rest =>
        if s < 16 then readLens cl total fuel (acc ++ [s]) rest
        else
          let k := if s = 16 then (2, 3) else if s = 17 then (3, 3) else (7, 11)
          match getBits k.1 rest with
          | .more => .more
          | .bad => .bad
          | .ok x rest =>
            if s = 16 ∧ acc = [] then .bad
            else readLens cl total fuel (acc ++ List.replicate (k.2 + x) (if s = 16 then acc.getLastD 0 else 0)) rest

/-- A dynamic block's two codes (R395). -/
def readDynamic (bits : List Bool) : Got (List Nat × List Nat) :=
  match getBits 14 bits with
  | .more => .more
  | .bad => .bad
  | .ok h rest =>
    let hlit := h % 32 + 257
    let hdist := h / 32 % 32 + 1
    match readCl (h / 1024 + 4) [] rest with
    | .more => .more
    | .bad => .bad
    | .ok xs rest =>
      let cl := clLens xs
      if !completeCode cl then .bad
      else match readLens cl (hlit + hdist) 320 [] rest with
        | .more => .more
        | .bad => .bad
        | .ok all rest =>
          if completeCode (all.take hlit) && distCodeOk (all.drop hlit) then .ok (all.take hlit, all.drop hlit) rest
          else .bad

/-- The fixed codes (RFC 1951). -/
def fixedLit : List Nat :=
  List.replicate 144 8 ++ List.replicate 112 9 ++ List.replicate 24 7 ++ List.replicate 8 8
def fixedDist : List Nat := List.replicate 32 5

/-- Base and extra bits of length symbol 257 + i (RFC 1951). -/
def lenTable : List (Nat × Nat) :=
  [(3,0),(4,0),(5,0),(6,0),(7,0),(8,0),(9,0),(10,0),(11,1),(13,1),(15,1),(17,1),(19,2),(23,2),(27,2),(31,2),
   (35,3),(43,3),(51,3),(59,3),(67,4),(83,4),(99,4),(115,4),(131,5),(163,5),(195,5),(227,5),(258,0)]

/-- Base and extra bits of a distance symbol (RFC 1951). -/
def distTable : List (Nat × Nat) :=
  [(1,0),(2,0),(3,0),(4,0),(5,1),(7,1),(9,2),(13,2),(17,3),(25,3),(33,4),(49,4),(65,5),(97,5),(129,6),(193,6),
   (257,7),(385,7),(513,8),(769,8),(1025,9),(1537,9),(2049,10),(3073,10),(4097,11),(6145,11),(8193,12),(12289,12),
   (16385,13),(24577,13)]

/-- Emit bytes; those from the first that does not fit on are held (R388, R398). -/
def Decode.emitBytes (d : Dest) : List Nat → Decode → Decode
  | [], r => r
  | b :: bs, r =>
    let o := d.off + r.ctx.pos
    if o < d.size then
      Decode.emitBytes d bs { r with
        bytes := writeBytes d.fill r.bytes o [BitVec.ofNat 8 b], out := r.out + 1
        ctx := { r.ctx with pos := r.ctx.pos + 1, crc := adlerRun r.ctx.crc [BitVec.ofNat 8 b] } }
    else { r with stop := .full, ctx := { r.ctx with held := b :: bs } }

/-- New bytes enter the window (R395). -/
def Ctx.slide (c : Ctx) (b : Byte) : Ctx := { c with window := (b :: c.window).take 32768 }

/-- The bytes of a match, one after another. -/
def Ctx.copyMatch (c : Ctx) (dist : Nat) : Nat → List Nat → List Nat × Ctx
  | 0, acc => (acc, c)
  | n + 1, acc =>
    let b := c.window.getD (dist - 1) 0
    Ctx.copyMatch (c.slide b) dist n (acc ++ [b.toNat])

/-- The zlib header (R394). -/
def zlibHeader (r : Decode) : Decode := match getBits 16 r.bits with
  | .more => { r with stop := .starved }
  | .bad => { r with stop := .corrupt 5 }
  | .ok x rest =>
    let cmf := x % 256
    let flg := x / 256
    if cmf % 16 = 8 ∧ cmf / 16 ≤ 7 ∧ (cmf * 256 + flg) % 31 = 0 ∧ flg / 32 % 2 = 0
    then { r with bits := rest, ctx := { r.ctx with headerOk := true, inflPhase := 1 } }
    else { r with bits := rest, stop := .corrupt 5 }

/-- A block header (R395). -/
def blockHeader (r : Decode) : Decode := match getBits 3 r.bits with
  | .more => { r with stop := .starved }
  | .bad => { r with stop := .corrupt 6 }
  | .ok x rest =>
    let last := decide (x % 2 = 1)
    let c := { r.ctx with inflLast := last }
    if x / 2 = 0 then
      let aligned := rest.drop (rest.length % 8)
      match getBits 32 aligned with
      | .more => { r with stop := .starved }
      | .bad => { r with stop := .corrupt 6 }
      | .ok y rest' =>
        if y % 65536 + y / 65536 = 65535 then { r with bits := rest', ctx := { c with inflPhase := 2, inflLeft := y % 65536 } }
        else { r with bits := rest', stop := .corrupt 6 }
    else if x / 2 = 1 then { r with bits := rest, ctx := { c with inflPhase := 3, litLens := fixedLit, distLens := fixedDist } }
    else if x / 2 = 2 then match readDynamic rest with
      | .more => { r with stop := .starved }
      | .bad => { r with bits := rest, stop := .corrupt 6 }
      | .ok t rest' => { r with bits := rest', ctx := { c with inflPhase := 3, litLens := t.1, distLens := t.2 } }
    else { r with bits := rest, stop := .corrupt 6 }

/-- A block has ended: the next one, or the Adler-32 after the final one (R396). -/
def endBlock (r : Decode) : Decode :=
  if r.ctx.inflLast then ({ r with ctx := { r.ctx with inflPhase := 4 } }).align
  else { r with ctx := { r.ctx with inflPhase := 1 } }

/-- One byte of a stored block. -/
def storedByte (d : Dest) (r : Decode) : Decode :=
  if r.ctx.inflLeft = 0 then endBlock r
  else match getBits 8 r.bits with
    | .more => { r with stop := .starved }
    | .bad => { r with stop := .corrupt 6 }
    | .ok b rest =>
      Decode.emitBytes d [b] { r with
        bits := rest, ctx := { r.ctx with inflLeft := r.ctx.inflLeft - 1 }.slide (BitVec.ofNat 8 b) }

/-- The length and distance that follow a length symbol. -/
def readMatch (c : Ctx) (sym : Nat) (bits : List Bool) : Got (Nat × Nat) :=
  if 286 ≤ sym then .bad
  else
    let l := lenTable.getD (sym - 257) (0, 0)
    match getBits l.2 bits with
    | .more => .more
    | .bad => .bad
    | .ok lx rest => match getSym c.distLens rest with
      | .more => .more
      | .bad => .bad
      | .ok ds rest =>
        if 30 ≤ ds then .bad
        else
          let t := distTable.getD ds (0, 0)
          match getBits t.2 rest with
          | .more => .more
          | .bad => .bad
          | .ok dx rest =>
            if c.window.length < t.1 + dx then .bad else .ok (l.1 + lx, t.1 + dx) rest

/-- One symbol of a coded block (R395). -/
def codedSymbol (d : Dest) (r : Decode) : Decode := match getSym r.ctx.litLens r.bits with
  | .more => { r with stop := .starved }
  | .bad => { r with stop := .corrupt 6 }
  | .ok s rest =>
    if s < 256 then
      Decode.emitBytes d [s] { r with bits := rest, codes := r.codes + 1, ctx := r.ctx.slide (BitVec.ofNat 8 s) }
    else if s = 256 then endBlock { r with bits := rest, codes := r.codes + 1 }
    else match readMatch r.ctx s rest with
      | .more => { r with stop := .starved }
      | .bad => { r with bits := rest, stop := .corrupt 6 }
      | .ok m rest =>
        let p := r.ctx.copyMatch m.2 m.1 []
        Decode.emitBytes d p.1 { r with bits := rest, codes := r.codes + 1, ctx := p.2 }

/-- The Adler-32, most significant byte first (R396). -/
def adlerEnd (r : Decode) : Decode := match getBits 32 r.bits with
  | .more => { r with stop := .starved }
  | .bad => { r with stop := .corrupt 6 }
  | .ok x rest =>
    let be := leNat (leBytes 4 x).reverse
    { r with bits := rest, stop := if be = r.ctx.crc then .done else .mismatch 2 }

/-- One turn of the Deflate decoder. -/
def inflateTurn (d : Dest) (r : Decode) : Decode := match r.ctx.inflPhase with
  | 0 => zlibHeader r
  | 1 => blockHeader r
  | 2 => storedByte d r
  | 3 => codedSymbol d r
  | _ => adlerEnd r

/-! ### A whole descriptor -/

/-- Turns until the run stops. -/
def Decode.loop (turn : Decode → Decode) : Nat → Decode → Decode
  | 0, r => { r with stop := .starved }
  | n + 1, r => match r.stop with
    | .going => Decode.loop turn n (turn r)
    | _ => r

/-- A run over a descriptor's input: held output first, then codes (R398). A turn that goes on reads at least one bit or
ends a block. -/
def decodeRun (d : Dest) (c : Ctx) (content : Tab Byte) (input : List Byte) : Decode :=
  let r : Decode := { ctx := { c with held := [] }, bytes := content, bits := c.inBits ++ bitsOf input, out := 0, codes := 0
                      stop := .going }
  let r := if c.deflate then Decode.emitBytes d c.held r else Decode.emitWords d c.held r
  Decode.loop (if c.deflate then inflateTurn d else strandTurn d) (2 * r.bits.length + 4) r

/-- The last 32-bit word of the output is filled with zeros (R387). -/
def Decode.tail (d : Dest) (r : Decode) : Tab Byte :=
  if r.out = 0 then r.bytes
  else if r.ctx.deflate then zeroTail d r.bytes (8 * (d.off + r.ctx.pos))
  else if d.group ∧ r.ctx.pos % 39 = 0 then r.bytes
  else zeroTail d r.bytes (d.wordBit r.ctx.pos)

/-- The first byte of the host layout that a context's next output touches. -/
def Ctx.nextByte (d : Dest) (c : Ctx) : Nat := if c.deflate then d.off + c.pos else d.wordBit c.pos / 8

/-- The plate tiles a run wrote (R134). -/
def Decode.tilesWritten (d : Dest) (o : Obj) (c : Ctx) (r : Decode) : List Nat :=
  if r.out = 0 then []
  else o.byteTiles (c.nextByte d) (ceilDiv (r.ctx.nextByte d + 1) 4 * 4 - c.nextByte d)

/-- Input bytes consumed (R399), of `n`. -/
def Decode.used (r : Decode) (n : Nat) : Nat := if r.stop = .starved then n else n - r.bits.length / 8

/-- The bits that stay in the context (R399). -/
def Decode.keep (r : Decode) : List Bool := if r.stop = .starved then r.bits else r.bits.take (r.bits.length % 8)

/-! ### Contexts (R382 to R385) -/

/-- The open context of a function and stream_id. -/
def State.openCtx (s : State) (st : Nat × Nat) : Option (Nat × Ctx) :=
  s.ctxs.find? fun e => e.2.open_ && decide ((e.2.fn, e.2.streamId) = st)

/-- Free contexts of a codec: Strand 0 to 15, Deflate 16 to 19 (R382, R403). -/
def State.freeCtxs (s : State) (deflate : Bool) : List Nat :=
  (if deflate then [16, 17, 18, 19] else List.range 16).filter fun m => !(s.ctx m).open_

/-- Close a context (R385). -/
def State.closeCtx (s : State) (m : Nat) : State := { s with ctxs := tabErase s.ctxs m }

/-- The destination offset's 60-byte rule for BDB formats (R383, R384). -/
def State.sixtyFail (s : State) (h off word : Nat) : Option Fail :=
  failIf (((s.objOf h).map fun o => imageClass o.cls && isBdb o.format).getD false && decide (off % 60 ≠ 0)) (badDesc 6 word)

/-- A fresh context for an accepted STREAM_DECODE (R382). -/
def newCtx (d : Desc) (id : Nat) : Ctx :=
  { Ctx.reset with
    open_ := true, fn := d.fn, streamId := d.f 7 15 0, opener := id, deflate := d.flag20, dst := d.w 2, dstOff := d.w 3
    dstBy := id, nameBy := id, name := d.w 2, nameOff := d.w 3
    crc := if d.flag20 then 1 else crcFold 0 (d.f 7 15 0) }

/-- STREAM_DECODE (R382, R383): which free context it takes is the device's choice (log 3). -/
def execStreamDecode (r : Fin 128) (s : State) : Host.Outcome State Fault Refusal :=
  .next (s.withCur r opStreamDecode fun d s =>
    let free := s.freeCtxs d.flag20
    match firstFail [s.sixtyFail (d.w 2) (d.w 3) 3, failIf (s.openCtx (d.fn, d.f 7 15 0)).isSome (badDesc 4 7),
        failIf free.isEmpty (noSpace 9)] with
    | some f => s.reject d f
    | none =>
      let m := free.getD (Config.freeIndex s.fresh % free.length) 0
      (s.draw.setCtx m (newCtx d s.nextId)).admitNew d (.stream m (d.w 2) s.nextId s.nextId (d.w 3)) [d.w 2])

/-- The context after its stream's STREAM_CONTINUE `id` has been accepted: one that names a destination is the last to have done so (R129). -/
def Ctx.naming (c : Ctx) (id : Nat) (d : Desc) : Ctx :=
  if d.w 3 = 0 then c else { c with nameBy := id, name := d.w 3, nameOff := d.w 4 }

/-- STREAM_CONTINUE (R384). With dst = 0 it writes the destination that the latest accepted descriptor of its stream named (R129). -/
def execStreamContinue (r : Fin 128) (s : State) : Host.Outcome State Fault Refusal :=
  .next (s.withCur r opStreamContinue fun d s =>
    let st := (d.fn, d.f 2 15 0)
    match (if d.w 3 = 0 then none else s.sixtyFail (d.w 3) (d.w 4) 4), s.openCtx st with
    | some f, _ => s.reject d f
    | none, none => s.reject d (badDesc 4 2)
    | none, some (m, c) =>
      let c := c.naming s.nextId d
      (s.setCtx m c).admitNew d (.stream m c.name c.opener c.nameBy c.nameOff) [c.name])

/-- The compressed input's length and address (R102). -/
def Desc.srcLen (d : Desc) : Nat := if d.opcode = opStreamDecode then d.w 6 else d.w 7
def Desc.srcAddr (d : Desc) : Nat := if d.opcode = opStreamDecode then d.addr 4 else d.addr 5
def Desc.streamWord (d : Desc) : Nat := if d.opcode = opStreamDecode then 2 else 3

/-- A decode descriptor starts on its context: the context still open (R384), its destination not lost (R146), fresh tiles
(R134); a failed reservation leaves the context as it was (R385). -/
def startStream (e : Entry) (m h opener namer off : Nat) (s : State) : State :=
  let d := e.desc
  let c := s.ctx m
  if !c.open_ || c.opener ≠ opener then s.finish e.id (badDesc 4 2) 0 0
  else match s.objOf h with
    | none => (s.closeCtx m).finish e.id (stBadHandle, det 0 d.streamWord) 0 0
    | some o => match o.lost with
      | some reason => (s.closeCtx m).finish e.id (stDataLost, det reason d.streamWord) 0 0
      | none =>
        let new := decide (c.dstBy ≠ namer)
        let ts := if o.cls = 0 then o.byteTiles off (o.layout - off) else []
        match (if o.cls = 0 then s.reserveFails o ts.length else none) with
        | some reason => s.finish e.id (noSpace reason) 0 0
        | none =>
          let r := if o.cls = 0 then s.reserve o ts else ([], s)
          let c := if new then { c with dst := h, dstOff := off, dstBy := namer, pos := 0, lineCnt := 0 } else c
          let s := (r.2.setCtx m { c with running := true }).start e.id e.job
          let s := s.modEntry e.id fun x => { x with tiles := r.1 }
          if d.srcLen = 0 ∨ e.mirrored then s else s.emit (.readRequest d.fn d.srcAddr d.srcLen (.job e.id))

/-- STREAM_DESC_START (R384). -/
def execStreamDescStart (id : Nat) (s : State) : Host.Outcome State Fault Refusal :=
  match s.entry id with
  | none => .next s
  | some e => match e.job with
    | .stream m h opener namer off => if e.started || !(s.noWait e) || s.inEbb .decoders then .next s else .next (startStream e m h opener namer off s)
    | _ => .next s

/-- The status and detail of a run, and whether its context stays (R397). -/
def Decode.outcome (r : Decode) (more : Bool) (fail : Option ReadFail) : Fail × Bool := match r.stop with
  | .done => ((stOk, 8), false)
  | .mismatch k => ((stCheckMismatch, det k 0), false)
  | .full => if more then ((stTruncated, 16), true) else ((stTruncated, 0), false)
  | .corrupt k => ((stStreamCorrupt, det k 0), false)
  | _ => match fail with
    | some f => (timeoutOf f, false)
    | none => if more then ((stOk, 0), true) else ((stStreamCorrupt, det 4 0), false)

/-- Published counters of the decoders (R403). -/
def State.countStream (s : State) (status codes : Nat) : State :=
  let s := { s with strdCodes := s.strdCodes + codes }
  let s := s.setReg 0xC004 (s.strdCodes / 65536 % 2 ^ 32)
  if status = stStreamCorrupt then s.count 0xC008 31 16 1
  else if status = stCheckMismatch then s.count 0xC008 15 0 1 else s

/-- The words of the host layout a run wrote (R109, R387). -/
def Decode.spans (d : Dest) (c : Ctx) (r : Decode) : List (Nat × Nat) :=
  if r.out = 0 then [] else [wordSpan (c.nextByte d) (ceilDiv (r.ctx.nextByte d + 1) 4 * 4 - c.nextByte d)]

/-- A decode descriptor ends (R397 to R400), with DATA_LOST when its destination has been lost (R146); its function's reset closes the
context (R385). -/
def State.streamEnd (s : State) (e : Entry) (m h : Nat) (data : HostRead) : State :=
  let d := e.desc
  let c := s.ctx m
  match s.objOf h with
  | none => (s.closeCtx m).finish e.id (stBadHandle, det 0 d.streamWord) 0 0
  | some o => match o.lostAt d.streamWord with
    | some f => (s.closeCtx m).finish e.id f 0 0
    | none =>
      let input := data.bytes.take d.srcLen
      let s := s.logData d 0 input
      if d.opcode = opStreamContinue ∧ d.srcLen = 0 ∧ ¬ d.flag21 then
        ((s.settle e o stOk o.content [] []).closeCtx m).finish e.id (stOk, 4) 0 0
      else
        let dst := destOf o c.dstOff
        let run := decodeRun dst c o.content input
        let res := run.outcome d.flag21 data.fail
        let s := s.settle e o res.1.1 (run.tail dst) (run.tilesWritten dst o c) (run.spans dst c)
        let s := if res.2 ∧ ¬ e.muted then s.setCtx m { run.ctx with running := false, inBits := run.keep, consumed := c.consumed + run.used input.length }
          else s.closeCtx m
        (s.countStream res.1.1 run.codes).finish e.id res.1 run.out (run.used input.length)

/-- STREAM_DESC_END (R397). -/
def execStreamDescEnd (id : Nat) (data : HostRead) (s : State) : Host.Outcome State Fault Refusal :=
  match s.entry id with
  | none => .next s
  | some e => match e.job with
    | .stream m h _ _ _ => if e.started then .next (s.streamEnd e m h data) else .next s
    | _ => .next s

/-- Close the named context if it is suspended; a running or closed one refuses the kill (R401, R403). -/
def State.killCtx (s : State) (m : Nat) : State :=
  let c := s.ctx m
  if c.open_ && !c.running then s.closeCtx m else s.setBit 0xC00C 30

/-- STRD_KILL (R401, R403). -/
def execStrdKill (index : Fin 32) (s : State) : Host.Outcome State Fault Refusal :=
  if s.running then .next (s.killCtx index) else .next s

end Sys2Proof.Machine
end

