-- ==== Sys2Proof/Machine/Boot.lean ====
section
/-! DEFINITION. Booting (21_power_reset_boot.md): the choice of the firmware image (R561 to R564), the boot configuration (R565),
and the boot plate with the start of the boot ports (R566, R567). -/

namespace Sys2Proof.Machine

def State.modPower (s : State) (f : Power → Power) : State := { s with power := f s.power }

/-! ### Entering STANDBY-MIRRORED (R514, R524) -/

/-- Every link of a mirrored running port has trained and is in L2 (R514). -/
def State.linksReady (s : State) : Bool :=
  (List.range 4).all fun p => decide ((s.port (s.lead p)).phase = .stopped) ||
    ((s.port p).link.trained && decide ((s.port p).link.power = .l2))

/-- A unit that has applied the final SNAPSTATE enters STANDBY-MIRRORED once its links allow it, and publishes snap_done (R514,
R524). -/
def State.tryMirrored (s : State) : State :=
  if s.cway.role = .catchup ∧ 2 ≤ s.cway.finalStates ∧ s.linksReady then
    ({ s with cway := { s.cway with snapDone := true } }).takeRole .mirrored
  else s

/-! ### The firmware image (R561 to R564) -/

/-- The image is valid, given the version minimum in the fuses (R561). -/
def imageOk (fuseMin : Nat) (x : BootImage) : Bool :=
  decide (x.magic.toNat = 0x50F1AC01) && decide (x.length.toNat ≤ 1048576) && decide (fuseMin ≤ x.version.toNat) && x.signatureOk

/-- Image B is tried first: under BOOT_MODE 2, or with the higher version (R562, R563). -/
def bFirst (mode : Nat) (a b : BootImage) : Bool := decide (mode = 2) || decide (a.version.toNat < b.version.toNat)

/-- The first valid image in the order of R562: whether it is B. -/
def chosenImage (mode fuseMin : Nat) (a b : BootImage) : Option Bool :=
  let first := bFirst mode a b
  let ok := fun (isB : Bool) => imageOk fuseMin (if isB then b else a)
  if ok first then some first else if ok (!first) then some (!first) else none

/-- The device goes on without firmware (R564): the failure is published (R572). -/
def State.failBoot (s : State) (code : Nat) : State := s.modPower fun w => { w with boot := .failed, failure := code, purserUp := false }

/-- The image runs (R562): the Purser is up, and PEER_OK_OUT toggles from now on (R510). -/
def State.runImage (s : State) (isB : Bool) (mode : Nat) (a b : BootImage) : State :=
  let x := if isB then b else a
  let s := s.modPower fun w => { w with
    boot := .firmware, purserUp := true, imageB := isB, fallback := decide (isB ≠ bFirst mode a b)
    fwVersion := x.version.toNat, commitVersion := x.commitVersion }
  { s with cway := { s.cway with okNext := some (s.now + usTicks 500) } }

/-- BOOT_IMAGE_VERIFIED (R560 to R564). -/
def execBootImageVerified (directoryOk : Bool) (a b : BootImage) (s : State) : Host.Outcome State Fault Refusal :=
  if s.power.boot = .rom then
    if !directoryOk then .next (s.failBoot 1)
    else match chosenImage s.power.bootMode s.power.fuseMin a b with
      | none => .next (s.failBoot 2)
      | some isB => .next (s.runImage isB s.power.bootMode a b)
  else .next s

/-! ### The boot configuration (R565) -/

/-- The record is valid: magic, version and CRC. -/
def bootConfigOk (bs : List Byte) : Bool :=
  decide (64 ≤ bs.length) && decide (leAt bs 0 4 = 0x50BC0F01) && decide (leAt bs 4 4 = 1) &&
    decide (leAt bs 60 4 = crc32c 0 (bs.take 60))

/-- DRAM_CFG as the record gives it (R433, R454). -/
def bootDram (bs : List Byte) : Nat :=
  let d := leAt bs 8 1
  fieldOf d 3 3 * 2 ^ 20 + min 2 (fieldOf d 2 1) * 2 ^ 16 + (if d % 2 = 1 then 0xFF else 0xFFFF)

/-- The Causeway begins to train and the HELLO exchange is awaited until 500 ms after the reset (R509, R512); every port link of a
unit of a pair trains (R513). -/
def State.beginPairing (s : State) : State :=
  let s := { s with cway := { s.cway with helloBy := some (s.power.releasedAt + msTicks 500), linkPhase := 1 } }
  forN 4 (fun p s => if (s.port p).link.phase = .down ∧ !(s.port p).link.trained then s.startTraining p else s) s

/-- A valid configuration is taken: DRAM_CFG, pair_enable, the links' rate; the boot ports' links train (R565). -/
def State.configure (s : State) (bs : List Byte) : State :=
  let ports := leAt bs 9 1 % 16
  let s := s.modPower fun w => { w with boot := .configured, bootConfig := bs.take 64, bootPorts := ports }
  let s := (s.setReg 0xA000 (bootDram bs)).setField 0x7000 0 0 (fieldOf (leAt bs 9 1) 4 4)
  let s := forN 4 (fun p s => s.setField (linkBase p) 3 2 (leAt bs 32 1 % 4)) s
  let s := (maskPorts ports).foldl (fun s p => s.startTraining p) s
  if s.paired then s.beginPairing else s

/-- BOOT_CONFIG_READ (R565). -/
def execBootConfigRead (record : List Byte) (s : State) : Host.Outcome State Fault Refusal :=
  if s.power.boot = .firmware then
    if bootConfigOk record then .next (s.configure record) else .next (s.failBoot 3)
  else .next s

/-! ### The boot plate (R566, R567) -/

/-- Fields of the configuration. -/
def Power.plateW (w : Power) : Nat := leAt w.bootConfig 36 2
def Power.plateH (w : Power) : Nat := leAt w.bootConfig 38 2
def Power.plateX (w : Power) : Nat := leAt w.bootConfig 40 2
def Power.plateY (w : Power) : Nat := leAt w.bootConfig 42 2
def Power.plateLength (w : Power) : Nat := leAt w.bootConfig 44 4

/-- There is a boot plate: neither size is 0 (R565). -/
def Power.hasPlate (w : Power) : Bool := decide (w.plateW ≠ 0) && decide (w.plateH ≠ 0)

/-- The record's limits on the plate hold (R565). -/
def Power.plateOk (w : Power) : Bool :=
  decide (w.plateW ≤ 4096) && decide (w.plateH ≤ 2048) && decide (w.plateLength ≤ 2097152)

/-- The handle of the internal object: the PF's index 0, which no allocation takes (R566). -/
def bootHandle : Nat := mkHandle 0 0 1

/-- A decoder's context at the start of a Strand stream with stream_id 0 (R389, R566). -/
def bootCtx : Ctx := { Ctx.reset with open_ := true, running := true, crc := crcFold 0 0 }

/-- The internal object as created: BDB-RGBA, in the Chandlery, named by no descriptor (R566). -/
def State.makeBootObject (s : State) : State :=
  let w := s.power
  let r := s.createAt 0 0 0 0 fmtRgba w.plateW w.plateH 0 false
  let mine := ((r.2.objOf bootHandle).map (·.tilesHeld)).getD []
  let place := fun (k : Nat) (x : Place) => if mine.contains k then Place.chandlery else x
  let s := ({ r.2 with harb := { r.2.harb with
    places := tabMap place r.2.harb.places, peakChn := s.harb.peakChn, peakDram := s.harb.peakDram } } : State).peaks
  s.modObj bootHandle fun o => { o with freeing := some 0 }

/-- Decode the stream into the internal object (R566); a stream that fails leaves none. -/
def State.decodePlate (s : State) (stream : List Byte) : Option State :=
  let s' := s.makeBootObject
  match s'.objOf bootHandle with
  | none => none
  | some o =>
    let dst := destOf o 0
    let run := decodeRun dst bootCtx o.content (stream.take s.power.plateLength)
    let status := (run.outcome false none).1.1
    if status = stOk ∨ status = stTruncated then
      some (s'.setObj { o with versions := [o.newVersion 1 true (run.tail dst) (run.tilesWritten dst o bootCtx) []] })
    else none

/-- The scene of a boot port (R566). -/
def Power.bootScene (w : Power) : List SceneEntry :=
  if w.hasPlate then
    [{ plate := bootHandle, version := 1, edge := false, fade := 4095, mask := 0, maskVer := 0, disp := 0, a00 := 2 ^ 24, a01 := 0
       t0 := -(4096 * (w.plateX : Int)), a10 := 0, a11 := 2 ^ 24, t1 := -(4096 * (w.plateY : Int)), index := 0 }]
  else []

/-- The boot mode of a port as a MODE_SET (R565): words 2 to 6, the port field replaced. -/
def Power.bootSet (w : Power) (p : Nat) : Desc :=
  let word := fun i => leAt w.bootConfig (12 + 4 * i) 4
  { ring := 0, count := 0, words := [opModeSet * 2 ^ 24, 0, word 0 / 4 * 4 + p, word 1, word 2, word 3, word 4] }

/-- The gang mask of the configuration. -/
def Power.bootMask (w : Power) : Nat := fieldOf (leAt w.bootConfig 12 4) 11 8

/-- The ports that lead a gang of boot ports or boot alone. -/
def Power.bootLeads (w : Power) : List Nat :=
  if w.bootMask = 0 then maskPorts w.bootPorts else (maskPorts w.bootPorts).take 1

/-- What R328 and R565 find wrong with the boot mode of a port. -/
def State.bootModeFail (s : State) (p : Nat) : Option Fail :=
  let d := s.power.bootSet p
  let ps := gangPorts p d.gangMask
  firstFail
    [ failIf (decide (s.power.bootMask ≠ 0) && decide (s.power.bootMask ≠ s.power.bootPorts)) (badDesc 4 2),
      s.gangFail d, d.mode.rangeFail, s.budgetFail ps d.mode, s.groupFail p ps d.mode ]

/-- One boot port or gang starts with the boot scene, as a MODE_SET would start it; one whose mode fails stays stopped (R566). -/
def State.bootPort (s : State) (p : Nat) : State :=
  let d := s.power.bootSet p
  if (s.port p).phase ≠ .stopped then s
  else match s.bootModeFail p with
    | some _ => s.bootFails 5
    | none =>
      (s.modPort p fun q => { q with
        scene := s.power.bootScene, tone := none, toneHandle := 0, bootPlate := true
        ray := { q.ray with new := none, old := none, fadeF := 0, fadeLen := 0 } }).beginStart p none d.mode d.gangMask

/-- The boot ports may be started: the stream has been dealt with, the boot-plate state still holds, and a unit of a pair drives
glass and has ended its transmit test (R566, R567, R513). -/
def State.mayBoot (s : State) : Bool :=
  s.power.plateTried && !s.power.bootStarted && s.inBootState && s.formed &&
    (decide (s.cway.role = .solo) || (decide (s.cway.role = .active) && s.cway.testDone))

/-- Start the boot ports once they may be (R566); the internal object goes when no port presents it any more. -/
def State.bootStart (s : State) : State :=
  if !s.mayBoot then s
  else
    let s := s.modPower fun w => { w with bootStarted := true }
    let s := if s.power.failure = 4 then s else s.power.bootLeads.foldl (fun s p => s.bootPort p) s
    (s.modObj bootHandle fun o => { o with released := true }).sweep

/-- The stream has been read and decoded, or has failed (R566). -/
def State.plateDecoded (s : State) (stream : List Byte) : State :=
  let w := s.power
  let s := s.modPower fun w => { w with plateTried := true }
  if !w.hasPlate then s.bootStart
  else if !w.plateOk then (s.bootFails 4).bootStart
  else match s.decodePlate stream with
    | some s' => s'.bootStart
    | none => (s.bootFails 4).bootStart

/-- BOOT_PLATE_DECODED (R563, R566): under BOOT_MODE 0 only. -/
def execBootPlateDecoded (stream : List Byte) (s : State) : Host.Outcome State Fault Refusal :=
  if s.power.boot = .configured ∧ s.power.bootMode = 0 ∧ ¬ s.power.plateTried then .next (s.plateDecoded stream) else .next s

end Sys2Proof.Machine
end

