-- ==== Sys2Proof/Machine/Fields.lean ====
section
/-! DEFINITION. The plain write of a register (R7, R8) and what a change of a mirrored register brings about: the registers of R516
are written by the host on the active unit and by REG records on the standby. -/

namespace Sys2Proof.Machine

/-- The bits of a word outside a mask. -/
def without (x mask : Nat) : Nat := x &&& (0xFFFFFFFF ^^^ mask)

/-- A register's new value (R7): RW and, while not locked, RWL bits take the written value, W1C bits are cleared by ones, all others
stay. -/
def RegRow.next (r : RegRow) (locked : Bool) (old v : Nat) : Nat :=
  let free := if locked then r.rw else r.rw ||| r.rwl
  without (without old free ||| (v &&& free)) (v &&& r.w1c)

/-- The plain write of a word: unassigned offsets ignore it (R9). -/
def State.maskWrite (s : State) (locked : Bool) (off v : Nat) : State := match pfRow off with
  | some r => s.setReg off (r.next locked (s.reg off) v)
  | none => s

/-- The registers whose writes reach the standby (R516). -/
def mirroredReg (off : Nat) : Bool :=
  decide (off = 0x44) || (decide (0x80 ≤ off) && decide (off < 0xC0)) || (decide (0x2080 ≤ off) && decide (off < 0x20C0)) ||
  (decide (0x3000 ≤ off) && decide (off < 0x5000)) ||
  (decide (0x6000 ≤ off) && decide (off < 0x7000) &&
    (decide (off % 0x400 = 0) || (decide (0x40 ≤ off % 0x400) && decide (off % 0x400 < 0x70))))

/-- A port has a new owner: the last commit of the old one counts no more (R263). -/
def State.newOwner (s : State) (old p : Nat) : State :=
  if fieldOf old (4 * p + 3) (4 * p) = s.owner p then s
  else s.modPort p fun q => { q with lastCommitRing := none }

/-- hold_temp of a port was written: θ_lens of the moment it is set is kept (R250). -/
def State.holdTemp (s : State) (old p : Nat) : State :=
  let is := s.field (0x4400 + 0x80 * p) 0 0
  if old % 2 = 0 ∧ is = 1 then s.modPort p fun q => { q with ray := { q.ray with asked := some q.ray.theta } }
  else if is = 0 then s.modPort p fun q => { q with ray := { q.ray with asked := none } }
  else s

/-- What follows the write of a mirrored register whose word was `old`. -/
def State.wrote (s : State) (off old : Nat) : State :=
  if off = 0x44 then forN 4 (fun p s => s.newOwner old p) s
  else if 0x4400 ≤ off ∧ off < 0x4600 ∧ off % 0x80 = 0 then s.holdTemp old ((off - 0x4400) / 0x80)
  else s

/-- The write of a mirrored register with all that follows. -/
def State.writeMirrored (s : State) (locked : Bool) (off v : Nat) : State := (s.maskWrite locked off v).wrote off (s.reg off)

end Sys2Proof.Machine
end

