-- ==== Sys2Proof/Machine/Link.lean ====
section
/-! DEFINITION. The panel link (12_panel_link.md, R347 to R381): gross markers, training, lane loss, retraining and re-forming,
the back channel's messages, waking, and loopbacks. -/

namespace Sys2Proof.Machine

/-! ### Re-forming (R369, R370) -/

/-- The mode of a port or gang still counts on its links: it runs or starts, and this formation is too small for it (R318). -/
def State.outgrown (s : State) (lead : Nat) (l : Link) : Bool :=
  let q := s.port lead
  let m := if q.slots then q.mode else (s.announced lead).1
  decide (q.phase ≠ .stopped) && !(l.fitsIn m m.lt33)

/-- What a formation too small for the mode brings about: a running port stops at once (R327); a start ends with LINK_BUDGET
(R328). -/
def State.overBudget (s : State) (p : Nat) : State :=
  let lead := s.lead p
  let m := (s.announced lead).1
  let l := (s.port p).link.applyReform
  let f := budgetOver l.nd (wordBudget l.nd l.rate m.lt33)
  if (s.port lead).slots then
    let s := (s.startFails lead f).modPort lead fun q => { q with startId := none }
    (s.stopPort lead 2 true s.now).raise (err 2 0x06 0x01 (instP p 0) l.nd 0 0)
  else s.giveUp lead 2 f

/-- Every lane out of data service is retired and the port re-forms over the others (R369). The formation comes in force with
its MODE packet at the next line slot (R370), or at once while no slots are sent. -/
def State.reformPort (s : State) (p : Nat) : State :=
  let l := (s.port p).link
  let s := s.sampleCtrl p
  let f := reformed (lanesOf l.service) (s.port p).link.reformKeel
  let s := s.modLink p fun l =>
    { l with retired := l.retired ||| l.lost, lost := 0, retrains := [], reform := some f, reformWait := none, phase := .reforming }
  let s := s.raise (err 2 0x07 0x03 (instP p 0) f.1 0 0)
  if s.outgrown (s.lead p) (s.port p).link.applyReform then s.overBudget p
  else if (s.port (s.lead p)).slots then s
  else s.modLink p fun l => l.applyReform.settle

/-- Lanes of the formation that are out of data service. -/
def Link.missing (l : Link) : List Nat := l.map.filter fun x => !((lanesOf l.service).contains x)

/-- A lane is out and the formation has nothing left to cover it (R369). -/
def Link.needsReform (l : Link) : Bool :=
  decide (2 ≤ l.missing.length) || (decide (1 ≤ l.missing.length) && !l.keel)

/-- A loopback begins on a stopped port; on any other it is refused (R375, R376). Modes other than 1, 2 and 3 act as none. -/
def State.startLoop (s : State) (p mode lanes : Nat) : State :=
  let res := linkBase p + 0x84
  if (s.port p).phase ≠ .stopped then s.setBit res 30
  else
    let s := s.setField res 30 30 0
    if mode = 0 ∨ 3 < mode then s
    else
      let s := (s.setReg res 0).modLink p fun l => { l with
        phase := .loopback, loopFrom := if l.phase = .loopback then l.loopFrom else l.phase, loop := some (mode, lanes), tallies := [] }
      if mode = 3 then (lanesOf lanes).foldl (fun s x => s.transmit p (.testBlocks x)) s else s

/-- The lanes of a port carry data (R324 step 2, R364, R373): losses recorded meanwhile are dealt with (R371), the glass is
claimed (R526) and a start goes on with its MODE packet; a standby's lanes go to L2 (R511, R514), after the power-on transmit
test of a unit of a pair, which a link that was still training holds up (R513). -/
def State.linkUp (s : State) (p : Nat) : State :=
  let s := s.modLink p fun l => { l with
    phase := .up, power := .l0, trained := true, trainEnd := none, retryAt := none, bcLockBy := none, wakeEnd := none
    wakeTo := none }
  if s.cway.posts.contains p then s.startLoop p 3 0xFFF
  else if s.cway.role.standby then (if s.cway.testDone then (s.enterPower p .l2).tryMirrored else s)
  else
    let l := (s.port p).link
    let s := s.wantLease p
    let s := if l.lost ≠ 0 ∧ l.needsReform then s.reformPort p else s.retrainLost p
    if (s.port p).phase = .starting ∧ (s.port (s.lead p)).startBy.isSome ∧ !(s.port p).acked then s.announce p .start else s

/-! ### Gross markers (R348, R364, R367) -/

/-- Lanes retrained with success rejoin data service at this marker (R367). -/
def State.rejoin (s : State) (p : Nat) : State :=
  let back := ((s.port p).link.retrains.filter fun r => r.locked).map fun r => r.lane
  let s := s.modLink p fun l =>
    let y := { l with
      service := laneMask ((List.range 12).filter fun x => (lanesOf l.service).contains x || back.contains x)
      lost := laneMask ((lanesOf l.lost).filter fun x => !(back.contains x))
      retrains := l.retrains.filter fun r => !r.locked }.settle
    y.noteUses l.markerDue
  s.count (linkBase p + 0x24) 31 16 back.length

/-- GROSS_MARKER (R348, R355, R364): the marker position that is due begins; in L1 only the position count runs on (R372), and under
loopback the lanes that are not tested go on with their markers (log 82). -/
def State.grossMarker (s : State) (p : Nat) : State :=
  let q := s.port p
  let l := q.link
  if !s.running ∨ 20 * s.now < l.markerDue then s
  else if l.power = .l1 then s.modLink p fun l => { l with pos := l.pos + 1 }
  else if l.power ≠ .l0 then s
  else if !l.serving then s
  else
    let s := (if l.phase = .loopback then s else s.rejoin p).sendMarker p
    if l.phase = .loopback ∨ (s.port (s.lead p)).slots ∨ l.holdEnd.isSome ∨ (l.phase ≠ .training ∧ !s.sends p) then s
    else s.idleAfterMarker p (l.markerDue / 20)

def execGrossMarker (p : Fin 4) (s : State) : Host.Outcome State Fault Refusal := .next (s.grossMarker p)

/-! ### Training (R364 to R366) -/

/-- The rates that the last CAPS lists (R362). -/
def Link.lists (l : Link) (rate : Nat) : Bool := decide (rate < 3) && decide (leAt l.caps 0 1 / 2 ^ rate % 2 = 1)

/-- The highest listed rate whose code is at least `from_`. -/
def Link.rateFrom (l : Link) (from_ : Nat) : Option Nat :=
  (List.range 3).find? fun r => decide (from_ ≤ r) && l.lists r

/-- The lanes that reached all three locks (R365). -/
def Link.lockedLanes (l : Link) : List Nat := (List.range 12).filter fun x => tabGet 0 l.locks x % 8 = 7

/-- What a fixed formation with failed lanes raises (R365, R368, R369). -/
def State.reportLanes (s : State) (p : Nat) : State :=
  let ok := (s.port p).link.lockedLanes
  if ok.length = 12 then s
  else if ok.length = 11 then
    let lane := ((List.range 12).find? fun x => !(ok.contains x)).getD 0
    s.raise (err 2 0x07 0x02 (p * 16 + lane) 0 0 0)
  else s.raise (err 2 0x07 0x03 (instP p 0) (trainedFormation ok (s.port p).link.reformKeel).1 0 0)

/-- The formation is put in force, its failed lanes retired, and position 0 starts (R364 step 6, R365). -/
def State.takeFormation (s : State) (p : Nat) : State :=
  let ok := (s.port p).link.lockedLanes
  let f := trainedFormation ok (s.port p).link.reformKeel
  (s.modLink p fun l => { l.form f with
    service := laneMask (f.2.2.filter fun x => ok.contains x), lost := 0, trainEnd := none, precodeNext := none
    retired := laneMask ((List.range 12).filter fun x => !(ok.contains x)) }).startPositions p

/-- Step 6 of R364: the formation is fixed; one that the pending mode does not fit sends training to the next lower rate, or
ends the start (R366). -/
def State.fixFormation (s : State) (p : Nat) : State :=
  let l := (s.port p).link
  let f := trainedFormation l.lockedLanes l.reformKeel
  let s := s.reportLanes p
  if (s.port p).phase = .starting && s.outgrown (s.lead p) (l.form f) then
    match (if l.fallback then l.rateFrom (l.rate + 1) else none) with
    | some r => s.trainAt p r
    | none =>
      let m := (s.announced (s.lead p)).1
      s.giveUp (s.lead p) 2 (budgetOver f.1 (wordBudget f.1 l.rate m.lt33))
  else s.takeFormation p

/-- Training before its formation is fixed. -/
def Link.forming (l : Link) : Bool := decide (l.phase = .training) && decide (l.map = [])

/-- TRAINING_TIMEOUT (R364 step 6): 5 ms after CAPS. -/
def execTrainingTimeout (p : Fin 4) (s : State) : Host.Outcome State Fault Refusal :=
  let l := (s.port p).link
  if l.forming && due l.trainEnd s.now then .next (s.fixFormation p) else .next s

/-- TRAINING_RETRY (R365): steps 2 to 7 again every 10 ms until the link is up. -/
def State.retryTraining (s : State) (p : Nat) : State :=
  (s.modLink p fun l => { l with retryAt := some (s.now + msTicks 10) }).trainLanes p

def execTrainingRetry (p : Fin 4) (s : State) : Host.Outcome State Fault Refusal :=
  let l := (s.port p).link
  if l.phase = .training ∧ due l.retryAt s.now then .next (s.retryTraining p) else .next s

/-- BACK_CHANNEL_LOCK_TIMEOUT (R365): no lock within 100 ms of step 1; training goes on. -/
def execBackChannelLockTimeout (p : Fin 4) (s : State) : Host.Outcome State Fault Refusal :=
  let l := (s.port p).link
  if l.phase = .training ∧ due l.bcLockBy s.now then
    .next ((s.modLink p fun l => { l with bcLockBy := none }).raise (err 0 0x07 0x05 (instP p 0) 0 0 0))
  else .next s

/-! ### The back channel (R361 to R363) -/

/-- A valid message of a type: its twelve payload bytes; any other is discarded (R361). -/
def State.onMessage (s : State) (p type : Nat) (msg : List Byte) (f : List Byte → State → State) : State :=
  if s.running && bcOk msg && decide (leAt msg 0 1 = type) then
    f (bytesAt msg 2 12) (s.modLink p fun l => { l with bcHeard := some s.now })
  else s

/-- CAPS (R362, R364 step 3). -/
def State.takeCaps (s : State) (p : Nat) (b : List Byte) : State :=
  let s := s.modLink p fun l => { l with caps := b, glass := true, bcLockBy := none }
  let l := (s.port p).link
  if !l.forming ∨ l.trainEnd.isSome then s
  else
    let s := if l.lists l.rate then s
      else match l.rateFrom l.topRate with
        | some r => s.trainAt p r
        | none => s
    s.modLink p fun l =>
      { l with bcLockBy := none, trainEnd := some (s.now + msTicks 5), retryAt := some (s.now + msTicks 10) }

def execCaps (p : Fin 4) (msg : List Byte) (s : State) : Host.Outcome State Fault Refusal :=
  .next (s.onMessage p 1 msg fun b s => s.takeCaps p b)

/-- STATUS (R362, R364 step 7, R381, R525). -/
def State.takeStatus (s : State) (p : Nat) (b : List Byte) : State :=
  let s := (s.modLink p fun l => { l with status := b, erasures := l.erasures + leAt b 10 2 }).count (linkBase p + 0x28) 15 0 (leAt b 9 1)
  let l := (s.port p).link
  let s := if l.phase = .training ∧ l.map ≠ [] ∧ (lanesOf l.service).all (fun x => leAt b 0 2 / 2 ^ x % 2 = 1) then s.linkUp p
    else s
  s.followLease p (holderOf b)

def execStatus (p : Fin 4) (msg : List Byte) (s : State) : Host.Outcome State Fault Refusal :=
  .next (s.onMessage p 2 msg fun b s => s.takeStatus p b)

/-- A lane is lost (R367): reported and taken out of data service, then retrained alone, unless it is the second one out, the
formation has no keel (R369) or a re-forming is in progress (R371); outside L0 the loss is only recorded (R371). -/
def State.loseLane (s : State) (p lane cause : Nat) : State :=
  let l := (s.port p).link
  if !((lanesOf l.service).contains lane) then s
  else
    let s := (s.modLink p fun l => { l with
      service := laneMask ((lanesOf l.service).filter fun x => x ≠ lane)
      lost := laneMask ((List.range 12).filter fun x => x = lane || (lanesOf l.lost).contains x) }).count (linkBase p + 0x24) 15 0 1
    let s := s.raise (err 1 0x07 0x01 (p * 16 + lane) cause 0 0)
    if l.phase = .up ∨ l.phase = .retraining ∨ l.phase = .reforming then
      if (s.port p).link.needsReform ∨ l.reform.isSome ∨ l.reformWait.isSome then s.reformPort p
      else ((s.transmit p (.leave lane)).beginAttempt p lane 1).modLink p fun l => { l with phase := .retraining }.settle
    else s

/-- LANE_LOSS (R362, R367). -/
def execLaneLoss (p : Fin 4) (msg : List Byte) (s : State) : Host.Outcome State Fault Refusal :=
  .next (s.onMessage p 3 msg fun b s => s.loseLane p (leAt b 0 1) (leAt b 1 1))

/-- The answer to the port's MODE packet, or to a re-forming's (R330, R370). -/
def State.takeModeAck (s : State) (p id result : Nat) : State :=
  match (s.port p).link.reformWait with
  | some w => if w.modeId = id then s.modLink p fun l => { l with reformWait := none }.settle else
    (match (s.port p).modeWait with
     | some w => if w.modeId = id then s.modeAnswered p w (decide (result = 0)) else s
     | none => s)
  | none => match (s.port p).modeWait with
    | some w => if w.modeId = id then s.modeAnswered p w (decide (result = 0)) else s
    | none => s

/-- MODE_ACK (R362, R330, R370). -/
def execModeAck (p : Fin 4) (msg : List Byte) (s : State) : Host.Outcome State Fault Refusal :=
  .next (s.onMessage p 4 msg fun b s => s.takeModeAck p (leAt b 0 2) (leAt b 2 1))

/-- A field of LINK_FFE moved by one, within its limit (R364, R381). -/
def State.ffeStep (s : State) (p lane hi lo limit : Nat) (up : Bool) : State :=
  let r := linkBase p + 0x40 + 4 * lane
  let v := min limit (s.field r hi lo)
  if s.field r 24 24 = 1 then s else s.setField r hi lo (if up then min limit (v + 1) else v - 1)

/-- A request of a TRAIN message (R362, R364 step 5): precoding where precode_allow is set and CAPS lists it. -/
def State.trainRequest (s : State) (p lane req : Nat) : State :=
  let l := (s.port p).link
  let allowed := l.precodeAllow && decide (leAt l.caps 1 1 % 2 = 1) && decide (l.phase = .training)
  match req with
  | 1 => s.ffeStep p lane 4 0 16 true
  | 2 => s.ffeStep p lane 4 0 16 false
  | 3 => s.ffeStep p lane 12 8 24 true
  | 4 => s.ffeStep p lane 12 8 24 false
  | 6 => if allowed then s.modLink p fun l => { l with precodeNext := some true } else s
  | 7 => if allowed then s.modLink p fun l => { l with precodeNext := some false } else s
  | _ => s

/-- TRAIN (R362, R364, R367): requests, locks and done while training; the success of an attempt while a lane is retrained. -/
def State.takeTrain (s : State) (p lane req locks : Nat) : State :=
  let l := (s.port p).link
  if 12 ≤ lane then s
  else if l.forming && l.trainEnd.isSome then
    let was := tabGet 0 l.locks lane
    let s := (s.trainRequest p lane req).modLink p fun l =>
      { l with locks := tabSet 0 l.locks lane (locks % 8 + 8 * bit (decide (req = 5) || decide (8 ≤ was))) }
    if (List.range 12).all fun x => decide (8 ≤ tabGet 0 (s.port p).link.locks x) then s.fixFormation p else s
  else if l.retrains.any fun r => decide (r.lane = lane) && r.attemptEnd.isSome then
    (s.trainRequest p lane req).modLink p fun l =>
      { l with retrains := l.retrains.map fun r =>
          if r.lane = lane ∧ locks % 8 = 7 then { r with locked := true, attemptEnd := none } else r }
  else s

def execTrain (p : Fin 4) (msg : List Byte) (s : State) : Host.Outcome State Fault Refusal :=
  .next (s.onMessage p 5 msg fun b s => s.takeTrain p (leAt b 0 1) (leAt b 1 1) (leAt b 2 1))

/-- TALLY (R362, R376, R377): the signature that the glass returns for a lane under far-end loopback. -/
def State.takeTally (s : State) (p lane sig : Nat) : State := match (s.port p).link.loop with
  | some (3, lanes) =>
    if lane < 12 ∧ lanes / 2 ^ lane % 2 = 1 then
      (s.setReg (linkBase p + 0xC0 + 4 * lane) sig).modLink p fun l => { l with tallies := tabPut l.tallies lane sig }
    else s
  | _ => s

def execTally (p : Fin 4) (msg : List Byte) (s : State) : Host.Outcome State Fault Refusal :=
  .next (s.onMessage p 6 msg fun b s => s.takeTally p (leAt b 0 1) (leAt b 1 4))

/-- LEASE_EVENT (R362, R380, R526). -/
def execLeaseEvent (p : Fin 4) (msg : List Byte) (s : State) : Host.Outcome State Fault Refusal :=
  .next (s.onMessage p 7 msg fun b s => s.leaseNews p (leAt b 0 1) (leAt b 1 3) (leAt b 4 1))

/-- BACK_CHANNEL_SILENT (R363): no valid message for 1 ms. -/
def execBackChannelSilent (p : Fin 4) (s : State) : Host.Outcome State Fault Refusal :=
  let l := (s.port p).link
  if l.glass && due (l.bcHeard.map (· + msTicks 1)) s.now then
    .next (((s.modLink p fun l => { l with glass := false }).setBit (linkBase p + 0x20) 4).raise
      (err 2 0x07 0x04 (instP p 0) 0 0 0))
  else .next s

/-! ### Retraining of a lane (R367, R368) -/

/-- The third attempt has failed: the lane is retired (R368); a retired keel leaves the formation without one. -/
def State.retireLane (s : State) (p lane : Nat) : State :=
  let s := s.modLink p fun l =>
    let keelGone := l.keel && decide (l.map.getLast? = some lane)
    { l with
      retired := laneMask ((List.range 12).filter fun x => x = lane || (lanesOf l.retired).contains x)
      lost := laneMask ((lanesOf l.lost).filter fun x => x ≠ lane)
      retrains := l.retrains.filter fun r => r.lane ≠ lane
      keel := l.keel && !keelGone, map := if keelGone then l.map.dropLast else l.map }.settle
  let s := s.raise (err 2 0x07 0x02 (p * 16 + lane) 0 0 0)
  if (s.port p).link.needsReform then s.reformPort p else s

/-- RETRAIN_ATTEMPT_TIMEOUT (R367, R368): 2 ms without all three locks. -/
def State.attemptOver (s : State) (p lane : Nat) : State :=
  match (s.port p).link.retrains.find? fun r => decide (r.lane = lane) && due r.attemptEnd s.now && !s.flt.restarting with
  | none => s
  | some r =>
    if 3 ≤ r.attempt then s.retireLane p lane
    else s.modLink p fun l => { l with retrains := l.retrains.map fun x =>
      if x.lane = lane then { x with attemptEnd := none, pauseEnd := some (s.now + msTicks 1) } else x }

def execRetrainAttemptTimeout (p : Fin 4) (lane : Fin 12) (s : State) : Host.Outcome State Fault Refusal :=
  .next (s.attemptOver p lane)

/-- RETRAIN_PAUSE_END (R367): the next attempt begins. -/
def State.pauseOver (s : State) (p lane : Nat) : State :=
  match (s.port p).link.retrains.find? fun r => decide (r.lane = lane) && due r.pauseEnd s.now && !s.flt.restarting with
  | none => s
  | some r => s.beginAttempt p lane (r.attempt + 1)

def execRetrainPauseEnd (p : Fin 4) (lane : Fin 12) (s : State) : Host.Outcome State Fault Refusal := .next (s.pauseOver p lane)

/-! ### Waking (R372, R373) -/

/-- LANE_WAKE_DONE (R373): out of L1, 500 ns of TRAIN blocks are over and the port resumes; out of L2, the lanes have locked: position 0
starts anew, and the link is up when STATUS reports every working lane aligned (R364 steps 6 and 7). -/
def State.laneWake (s : State) (p : Nat) : State :=
  let l := (s.port p).link
  if l.wakeTo.isNone ∨ l.phase = .loopback then s
  else if l.power = .l2 then
    (s.modLink p fun x => { x with power := .l0, phase := .training, wakeEnd := none, wakeTo := none }).startPositions p
  else if due l.wakeEnd s.now then s.linkUp p
  else s

def execLaneWakeDone (p : Fin 4) (s : State) : Host.Outcome State Fault Refusal := .next (s.laneWake p)

/-! ### Loopbacks (R375 to R378) -/

/-- The first `2 × n` pattern words from a register, folded into a CRC's running value as packed by R288. -/
def prbsCrc : Nat → Nat → Nat → Nat
  | 0, _, crc => crc
  | n + 1, r, crc =>
    let a := prbsBits 12 0 r
    let b := prbsBits 12 0 a.2
    prbsCrc n b.2 (crcRun 0 crc (pack12 [BitVec.ofNat 12 a.1, BitVec.ofNat 12 b.1]))

/-- The signature of 4,096 TEST blocks of a lane (R377, R378). -/
def testSignature (lane : Nat) : Nat := prbsCrc (4096 * 31) (0x7FFFF0 + lane) (crcFold 0 lane) ^^^ crcXorout 0

/-- LINK_LOOP_START (R375, R376): a write of start to LINK_LOOPn. -/
def execLinkLoopStart (p : Fin 4) (s : State) : Host.Outcome State Fault Refusal :=
  let r := linkBase p + 0x80
  if s.running then .next (s.startLoop p (s.field r 2 0) (s.field r 27 16)) else .next s

/-- The result register and the verdict of a lane (R376): the counted errors, or the returned signature. -/
def State.laneResult (s : State) (p mode lane : Nat) (errors : List Nat) : Bool × State :=
  if mode = 3 then (decide (tabFind (s.port p).link.tallies lane = some (testSignature lane)), s)
  else (decide (errors.getD lane 0 = 0), s.setReg (linkBase p + 0xC0 + 4 * lane) (errors.getD lane 0))

/-- The power-on transmit test of a port has ended with these lanes failing (R513): its result is published, the lanes are retired
(R368), and a standby's lanes enter L2 (R511). -/
def State.endPost (s : State) (p failing : Nat) : State :=
  let s := s.setField 0x7024 (4 * p + 3) (4 * p) (if failing = 0 then 1 else 2)
  let s := { s with cway := { s.cway with posts := s.cway.posts.filter fun q => q ≠ p } }
  let s := if s.cway.posts = [] then { s with cway := { s.cway with testDone := true } } else s
  let s := if failing = 0 then s else s.raise (err 2 0x0E 0x02 0 p failing 0)
  let s := (lanesOf failing).foldl (fun s x =>
    if (lanesOf (s.port p).link.retired).contains x then s
    else (s.modLink p fun l => { l with service := laneMask ((lanesOf l.service).filter fun y => y ≠ x) }).retireLane p x) s
  (if s.cway.role.standby then (s.enterPower p .l2).tryMirrored else s).bootStart

/-- What a loopback interrupted goes on (log 82): training and waking anew, the retraining of lanes lost meanwhile. -/
def State.resumeLink (s : State) (p : Nat) : State :=
  let l := (s.port p).link
  if l.phase = .training ∧ l.map = [] then s.startTraining p
  else if l.wakeTo.isSome then s.wake p
  else if l.phase = .down ∨ l.phase = .training ∨ l.lost = 0 then s
  else if l.needsReform then s.reformPort p
  else s.retrainLost p

/-- The loopback of a port ends (R376): result, then what waited for it (R375). `errors` counts pattern words in error by
physical lane in the near-end modes. -/
def State.endLoop (s : State) (p : Nat) (errors : List Nat) : State :=
  match (s.port p).link.loop with
  | none => s
  | some (mode, lanes) =>
    let r := (lanesOf lanes).foldl (fun (a : (Nat × Nat) × State) x =>
      let v := a.2.laneResult p mode x errors
      (if v.1 then (a.1.1, a.1.2 + 2 ^ x) else (a.1.1 + 2 ^ x, a.1.2), v.2)) ((0, 0), s)
    let s := r.2.setReg (linkBase p + 0x84) (2 ^ 31 + r.1.1 * 65536 + r.1.2)
    let s := s.modLink p fun l => { l with loop := none, phase := l.loopFrom }
    let s := s.resumeLink p
    (if s.cway.posts.contains p then s.endPost p r.1.1 else s).kickAll

/-- LOOPBACK_END (R376). -/
def execLoopbackEnd (p : Fin 4) (errors : List Nat) (s : State) : Host.Outcome State Fault Refusal :=
  .next (s.endLoop p errors)

/-- The power-on transmit test begins (R513): far-end loopback on all twelve lanes of every port whose glass answers, at once where
the link is trained. -/
def State.startPosts (s : State) : State :=
  let s := { s with cway := { s.cway with
    testing := true, testAt := none, posts := (List.range 4).filter fun p => (s.port p).link.glass } }
  let s : State := forN 4 (fun p (s : State) =>
    if !(s.cway.posts.contains p) then s.setField 0x7024 (4 * p + 3) (4 * p) 3
    else if (s.port p).link.trained && decide ((s.port p).link.power = .l0) then s.startLoop p 3 0xFFF
    else s) s
  if s.cway.posts = [] then { s with cway := { s.cway with testDone := true } }.bootStart else s

end Sys2Proof.Machine
end

