-- ==== Sys2Proof/Machine/Dram.lean ====
section
/-! DEFINITION. The DRAM controller (16_dram.md, R433 to R454): requests and their order, link ECC, refresh and the activation
tracker, self-refresh, retraining, and the retirement of a channel. -/

namespace Sys2Proof.Machine

/-! ### Settings (R454) -/

def dramBase (c : Nat) : Nat := 0xA100 + 0x10 * c
def State.holdTicks (s : State) : Nat := msTicks (max 1 (s.field 0xA008 31 28))
/-- The disturbance ebb slot in ticks (R444): ebb × 8 cycles of CLK_MEM, rounded up. -/
def State.ebbTicks (s : State) : Nat := s.field 0xA008 27 20 * 10
def State.actLimit (s : State) : Nat := max 256 (s.field 0xA008 15 0)
def State.srIdle (s : State) : Nat := usTicks (max 1 (s.field 0xA00C 15 0))
def State.retrainDelta (s : State) : Nat := 64 * max 1 (s.field 0xA010 23 16)
def State.retrainEvery (s : State) : Nat := msTicks (max 10 (s.field 0xA010 15 0))
/-- The latency target of a requester port in ns (R437, R454). -/
def State.dramTarget (s : State) (port : Nat) : Nat := max 100 (s.field (0xA020 + 4 * port) 19 0)

/-- The reading of the die sensor at a channel's PHY, s8.8 (log 17). -/
def State.phyTemp (s : State) (c : Nat) : Int := (tabGet Die.reset s.sense.dies (Config.phySensor c % 24)).value

/-! ### Addresses and contents -/

/-- The channel address of a request's 64 bytes (log 36: 32 bursts to a row, 2^18 rows numbered apart). -/
def burstAddr (bank row col : Nat) : Nat := ((bank * 2 ^ 18 + row) * 32 + col) * 64

/-- Rows of a bank at a density (R433, R434; log 36: a row holds 2 KB). -/
def State.dramRows (s : State) : Nat := 2 ^ (14 + s.field 0xA000 17 16)

/-- A byte of a channel's contents. -/
def Chan.byte (ch : Chan) (c a : Nat) : Byte := tabGet (Config.dramByte ch.seed c a) ch.mem a

/-- The 64 bytes of a burst. -/
def Chan.burst (ch : Chan) (c a : Nat) : List Byte := (List.range 64).map fun i => ch.byte c (a + i)

/-- Store bytes, in canonical form. -/
def storeBytes (seed c : Nat) : Tab Byte → Nat → List Byte → Tab Byte
  | m, _, [] => m
  | m, a, b :: bs => storeBytes seed c (tabSet (Config.dramByte seed c a) m a b) (a + 1) bs

/-! ### Acceptance (R31, R435, R447) -/

/-- An entry of the 64 for a request of a port: none, a shared one, or one of RAY's own (R31, R435). That RAY takes one of its own while both
kinds are free is the model's choice (DESIGN CHOICE, log 85). -/
def Chan.entryFor (ch : Chan) (port : Nat) : Option Bool :=
  let own := (ch.queue.filter fun r => r.reserved).length
  if port = 0 ∧ own < 16 then some true
  else if ch.queue.length - own < 48 then some false
  else none

/-- Accept a request into an entry at this moment: its age and its target count from now (R438). -/
def State.acceptReq (s : State) (r : DramReq) (own : Bool) : DramReq :=
  { r with reserved := own, at_ := s.now, target := s.dramTarget r.port }

/-- Held requests that find an entry of their kind free are accepted, in the order they came (R435). -/
def State.admitHeld (s : State) (ch : Chan) : Chan :=
  ch.held.foldl (fun (ch : Chan) r => match ch.entryFor r.port with
    | some own => { ch with queue := ch.queue ++ [s.acceptReq r own] }
    | none => { ch with held := ch.held ++ [r] }) { ch with held := [] }

/-- A request has come to a channel in self-refresh (R447): the exit runs from the end of the 60 ns minimum at the earliest,
and takes a retraining slice when the PHY's sensor has moved by 4 °C. -/
def State.startExit (s : State) (c : Nat) (ch : Chan) : Chan :=
  if ch.phase = .selfRefresh ∧ ch.exitFrom.isNone ∧ !s.halted then
    { ch with exitFrom := some (max s.now (ch.srSince.getD s.now + nsTicks 60))
              exitSlice := decide (1024 ≤ (s.phyTemp c - ch.srTemp).natAbs) }
  else ch

/-- The unit behind a requester port that throttling slows (R437, R488). -/
def portUnit (port : Nat) : Option EbbUnit := match port with
  | 1 => some .scalers
  | 2 => some .decoders
  | 3 => some .sawyer
  | 6 => some .causeway
  | _ => none

/-- A request arrives at a channel (R435, R446, R447); a retired or absent channel has none, and a retiring one serves reads
only, its writes going elsewhere (R143, R453). A unit in an ebb slot issues none (R488). -/
def State.dramArrive (s : State) (c : Nat) (r : DramReq) : State :=
  let ch := s.chan c
  let takes := match ch.phase with
    | .absent => false
    | .retired => false
    | .retiring => r.write.isNone
    | _ => true
  if !s.running ∨ !takes ∨ s.dramRows ≤ r.row ∨ (portUnit r.port).any s.inEbb then s
  else
    let ch := { ch with idleAt := none }
    let ch := match ch.entryFor r.port with
      | some own => { ch with queue := ch.queue ++ [s.acceptReq r own] }
      | none => { ch with held := ch.held ++ [r] }
    s.setChan c (s.startExit c ch)

/-- DRAM_REQUEST_ARRIVE (R435). A write's data are 64 bytes. -/
def execDramRequestArrive (ch : Fin 16) (port : Fin 8) (bank : Fin 16) (row : Nat) (col : Fin 32) (write : Option (List Byte))
    (s : State) : Host.Outcome State Fault Refusal :=
  .next (s.dramArrive ch
    { port := port, bank := bank, row := row, col := col, write := write.map fun d => bytesAt d 0 64, at_ := 0, target := 0
      reserved := false, repeats := 0, passed := 0, ebbEnd := none })

/-! ### The choice of the next request (R436, R438, R439, R444) -/

/-- Whole cycles of CLK_MEM, 1.2 GHz, up to a tick. -/
def memCycles (tick : Nat) : Nat := 4 * tick / 5

/-- Level U2 or U3 (R438): the age in cycles is at least 3/4 of the target. -/
def DramReq.urgent (r : DramReq) (now : Nat) : Bool := decide (9 * r.target ≤ 10 * (memCycles now - memCycles r.at_))

def DramReq.hits (r : DramReq) (ch : Chan) : Bool := decide (tabFind ch.openRows r.bank = some r.row)

def DramReq.addr (r : DramReq) : Nat := burstAddr r.bank r.row r.col

/-- The request's activation would be preceded by an ebb slot (R444). -/
def DramReq.throttled (r : DramReq) (ch : Chan) (now : Nat) : Bool :=
  !(r.hits ch) && decide (now < tabGet 0 ch.holds (r.bank * 8 + r.port))

/-- It waits in such a slot. -/
def DramReq.ebbing (r : DramReq) (now : Nat) : Bool := r.ebbEnd.isSome && !(due r.ebbEnd now)

/-- The place in a queue of the request to serve first for the sake of the one at `i`: the oldest to the same address
(R436). -/
def headOf (q : List DramReq) (i : Nat) : Nat :=
  match q[i]? with
  | some r => (q.findIdx? fun x => decide (x.addr = r.addr)).getD i
  | none => i

/-- Row hits may not pass this older request of the bank any more (R439). -/
def blocker (q : List DramReq) (i : Nat) : Option Nat :=
  match q[i]? with
  | some r => (List.range i).find? fun k => match q[k]? with
    | some x => decide (x.bank = r.bank) && decide (16 ≤ x.passed)
    | none => false
  | none => none

/-- The request that R439 chooses among the places `is`, which rise with age; a request stands behind the oldest to its address
(R436). -/
def Chan.choose (ch : Chan) (now : Nat) (is : List Nat) : Option Nat :=
  let at_ := fun i => (ch.queue[i]?).toList
  match is.find? fun i => (at_ i).any fun r => r.urgent now with
  | some i => some (headOf ch.queue i)
  | none => match is.find? fun i => (at_ i).any fun r => r.hits ch with
    | some i => some (headOf ch.queue ((blocker ch.queue i).getD i))
    | none => (is.head?).map (headOf ch.queue)

/-- What is left of the ebb slot of a port's unit (R488), which adds to a disturbance ebb (R445). -/
def State.ebbLeft (s : State) (port : Nat) : Nat :=
  ((s.sense.ebbs.filter fun e => decide (portUnit port = some e.1) && e.2.1).map fun e => (e.2.2.getD s.now) - s.now).sum

/-- Choose, giving each request that must first wait out an ebb slot its slot (R444), up to `n` times. -/
def State.chooseReq (s : State) : Nat → Chan → Option Nat × Chan
  | 0, ch => (none, ch)
  | n + 1, ch =>
    let free := (List.range ch.queue.length).filter fun i => !((ch.queue[headOf ch.queue i]?).toList.any fun r => r.ebbing s.now)
    match ch.choose s.now free with
    | none => (none, ch)
    | some i => match ch.queue[i]? with
      | none => (none, ch)
      | some r =>
        if r.ebbing s.now then (none, ch)
        else if r.throttled ch s.now && r.ebbEnd.isNone then
          State.chooseReq s n { ch with queue := ch.queue.set i { r with ebbEnd := some (s.now + s.ebbTicks + s.ebbLeft r.port) }, ebbs := ch.ebbs + 1 }
        else (some i, ch)

/-! ### The activation tracker (R443, R444) -/

def actKey (bank row port : Nat) : Nat := (bank * 2 ^ 18 + row) * 8 + port

/-- Activations of a row by the eight ports. -/
def Chan.actsOf (ch : Chan) (bank row : Nat) : List Nat := (List.range 8).map fun p => tabGet 0 ch.acts (actKey bank row p)

/-- The port with the most activations, the lowest on a tie (R444). -/
def mostOf (ns : List Nat) : Nat := ns.findIdx fun n => decide (ns.all fun m => m ≤ n)

/-- Every row count of a bank restarts at zero (R443). -/
def Chan.restart (ch : Chan) (bank : Nat) : Chan := { ch with acts := ch.acts.filter fun e => e.1 / 2 ^ 21 ≠ bank }

/-- rfm_count RFM commands go to a bank for one of its rows (R443): the event is counted and the offending port held
(R444). -/
def State.issueRfm (s : State) (c bank row : Nat) : State :=
  let ch := s.chan c
  let port := mostOf (ch.actsOf bank row)
  let s := s.setChan c { ch.restart bank with
    openRows := tabErase ch.openRows bank, holds := tabPut ch.holds (bank * 8 + port) (s.now + s.holdTicks) }
  (s.count (dramBase c + 0xC) 31 16 1).setField (dramBase c + 0xC) 12 10 port

/-- A row is activated by a port (R443): counted; at act_limit the bank gets its RFM commands. -/
def State.activateRow (s : State) (c bank row port : Nat) : State :=
  let k := actKey bank row port
  let s := s.modChan c fun ch =>
    { ch with openRows := tabPut ch.openRows bank row, acts := tabPut ch.acts k (tabGet 0 ch.acts k + 1) }
  if s.actLimit ≤ ((s.chan c).actsOf bank row).sum then s.issueRfm c bank row else s

/-! ### Retirement (R143, R453, R551) -/

/-- Retired channels. -/
def State.retiredCount (s : State) : Nat := ((List.range 16).filter fun c => s.harb.retired / 2 ^ c % 2 = 1).length

/-- A channel leaves service for good: its bit, its capacity, its record (R142, R453). The fifth is fatal, and no relocation
starts for it (R148). -/
def State.retireChan (s : State) (c : Nat) : State :=
  let s := s.modChan c fun ch => { ch with phase := .retiring, badReads := [], idleAt := none }
  let s := { s with harb := { s.harb with
    retired := s.harb.retired ||| 2 ^ c, capacity := s.harb.capacity - s.chanTiles } }
  let mask := s.harb.retired
  let s := s.raise (err 2 0x0A 0x04 c mask 0 0)
  if 5 ≤ s.retiredCount then s.raise (err 3 0x0A 0x05 c mask 0 0)
  else { s with harb := { s.harb with relocating := s.harb.relocating ++ [c] } }

/-- A recovery retraining begins (R451). -/
def State.startRecovery (s : State) (c : Nat) : State :=
  s.modChan c fun ch => { ch with
    phase := .recovery, recoveries := satNat (ch.recoveries + 1) 0xFFFF, badReads := [], idleAt := none, openRows := [] }

/-! ### The outcome of a read (R452) -/

/-- A corrected read: counted, and at most one record per channel per second. -/
def State.noteCorrected (s : State) (c : Nat) : State :=
  let s := s.count (dramBase c + 4) 15 0 1
  let recent := ((s.chan c).correctedAt ++ [s.now]).filter fun t => decide (s.now < t + msTicks 1000)
  let s := s.modChan c fun ch => { ch with correctedAt := recent }
  let quiet := match (s.chan c).correctedRecAt with
    | some t => decide (t + msTicks 1000 ≤ s.now)
    | none => true
  if quiet then (s.modChan c fun ch => { ch with correctedRecAt := some s.now }).raise (err 1 0x0A 0x01 c recent.length 0 0) else s

/-- What a read of a burst leaves known of it (R452): which tile and unit a poisoned one belongs to is the device's (log 83); in a channel
that is being retired that tile is unreadable from now on (R143, R453). -/
def State.notePoison (s : State) (c addr : Nat) (bad : Bool) : State :=
  let on := (s.harb.places.filter fun e => e.2 = .dram (BitVec.ofNat 4 c).toFin).map (·.1)
  let t := on.getD (Config.burstTile c addr % on.length) 0
  let s := s.modChan c fun ch => { ch with
    poisoned := (ch.poisoned.filter fun x => decide (x.1 ≠ addr)) ++ if bad ∧ on ≠ [] then [(addr, t, Config.burstUnit c addr % 1024)] else [] }
  if bad ∧ on ≠ [] ∧ (s.chan c).phase = .retiring ∧ ¬ s.harb.unreadable.contains t then s.loseTile c 1 t else s

/-- An uncorrectable read: counted and reported; 16 of them within 1 s bring a recovery retraining, and a second run within 1 s
of one that succeeded retires the channel (R451, R453). -/
def State.noteBad (s : State) (c : Nat) : State :=
  let s := (s.count (dramBase c + 4) 31 16 1).raise (err 2 0x0A 0x02 c 0 0 0)
  let recent := ((s.chan c).badReads ++ [s.now]).filter fun t => decide (s.now < t + msTicks 1000)
  let s := s.modChan c fun ch => { ch with badReads := recent }
  if (s.chan c).phase = .active ∧ 16 ≤ recent.length then
    match (s.chan c).recoveredAt with
    | some t => if s.now ≤ t + msTicks 1000 then s.retireChan c else s.startRecovery c
    | none => s.startRecovery c
  else s

/-! ### Service (R436, R440, R441) -/

/-- The channel serves requests: it is active, or retiring and reading at its last setting (R143). -/
def Chan.serves (ch : Chan) : Bool := decide (ch.phase = .active) || decide (ch.phase = .retiring)

/-- A RAY request's completion time is published (R441, R454). -/
def State.noteRay (s : State) (c : Nat) (r : DramReq) : State :=
  let ns := 2 * (s.now - r.at_) / 3
  let b := dramBase c + 8
  let s := s.setField b 15 0 (max (s.field b 15 0) (satNat (ns / 10) 0xFFFF))
  if r.port = 0 ∧ 3 * r.target < 2 * (s.now - r.at_) then s.count b 31 16 1 else s

/-- Row hits count the older requests to their bank that they pass (R439). -/
def Chan.passOlder (ch : Chan) (i : Nat) (r : DramReq) : Chan :=
  if r.hits ch then { ch with queue := ch.queue.mapIdx fun k x => if k < i ∧ x.bank = r.bank then { x with passed := x.passed + 1 } else x }
  else ch

/-- A request's data move (R436): a write lands unless the channel is retiring, whose writes go to new tiles (R143). -/
def Chan.transfer (ch : Chan) (c : Nat) (r : DramReq) (poison : Bool) : Chan := match r.write with
  | some d => if ch.phase = .retiring then ch else { ch with mem := storeBytes ch.seed c ch.mem r.addr d }
  | none => { ch with lastRead := ch.burst c r.addr, lastPoison := poison }

/-- The channel has nothing left to do: the self-refresh idle time runs (R446). -/
def State.idleFrom (s : State) (c : Nat) : State :=
  let ch := s.chan c
  if ch.queue = [] ∧ ch.held = [] ∧ ch.phase = .active then s.setChan c { ch with idleAt := some (s.now + s.srIdle) } else s

/-- The chosen request is served: its row is activated if need be, a read that link ECC cannot correct is repeated up to twice,
anything else completes and frees its entry (R435, R439, R452). -/
def State.serve (s : State) (c i : Nat) (r : DramReq) (res : DramResult) : State :=
  let read := r.write.isNone
  let s := s.modChan c fun ch => ch.passOlder i r
  let s := if r.hits (s.chan c) then s else s.activateRow c r.bank r.row r.port
  if read && decide (res = .uncorrectable) && decide (r.repeats < 2) then
    s.modChan c fun ch => { ch with queue := ch.queue.set i { r with repeats := r.repeats + 1 } }
  else
    let poison := read && decide (res = .uncorrectable)
    let s := s.modChan c fun ch => { ch.transfer c r poison with queue := ch.queue.eraseIdx i }
    let s := (s.setChan c (s.admitHeld (s.chan c))).notePoison c r.addr poison
    let s := if r.port = 0 then s.noteRay c r else s
    let s := if poison then s.noteBad c else if read && decide (res = .corrected) then s.noteCorrected c else s
    s.idleFrom c

/-- DRAM_REQUEST_DONE (R436, R439): the channel serves the request that R439 chooses. -/
def State.dramDone (s : State) (c : Nat) (res : DramResult) : State :=
  let ch := s.chan c
  if !ch.serves then s
  else
    let r := s.chooseReq (ch.queue.length + 1) ch
    let s := s.setChan c r.2
    match r.1 with
    | none => s
    | some i => match r.2.queue[i]? with
      | some q => s.serve c i q res
      | none => s

def execDramRequestDone (ch : Fin 16) (res : DramResult) (s : State) : Host.Outcome State Fault Refusal := .next (s.dramDone ch res)

/-! ### Refresh (R442, R443) -/

/-- MR4 calls for doubled refresh, and reports a temperature above the limit (log 37). -/
def mr4Doubles (mr4 : Byte) : Bool := decide (11 ≤ mr4.toNat % 32)
def mr4Above (mr4 : Byte) : Bool := decide (mr4.toNat % 32 = 31)

/-- MR4_POLL (R442): every 4 ms on an active channel. -/
def State.pollMr4 (s : State) (c : Nat) (mr4 : Byte) : State :=
  let ch := s.chan c
  if ch.phase = .active ∧ due ch.mr4At s.now then
    let s := s.setChan c { ch with mr4At := some (s.now + msTicks 4), refreshDouble := mr4Doubles mr4 }
    if mr4Above mr4 then s.raise (err 2 0x0A 0x03 c mr4.toNat 0 0) else s
  else s

def execMr4Poll (ch : Fin 16) (mr4 : Byte) (s : State) : Host.Outcome State Fault Refusal := .next (s.pollMr4 ch mr4)

/-- PER_BANK_REFRESH (R442): the bank is precharged and refreshed. -/
def State.refreshBank (s : State) (c bank : Nat) : State :=
  let ch := s.chan c
  if ch.serves then s.setChan c { ch with refresh := tabPut ch.refresh bank s.now, openRows := tabErase ch.openRows bank } else s

def execPerBankRefresh (ch bank : Fin 16) (s : State) : Host.Outcome State Fault Refusal := .next (s.refreshBank ch bank)

/-- The length of a refresh window (R443). -/
def Chan.window (ch : Chan) : Nat := if ch.refreshDouble then msTicks 16 else msTicks 32

/-- REFRESH_WINDOW_END (R443, R445): counts restart, after the RFM commands of a row that has reached the limit; holds run on. -/
def State.endWindow (s : State) (c bank : Nat) : State :=
  if due (tabFind (s.chan c).windows bank) s.now then
    let hot := ((s.chan c).acts.map fun e => e.1 / 8).find? fun k =>
      decide (k / 2 ^ 18 = bank) && decide (s.actLimit ≤ ((s.chan c).actsOf bank (k % 2 ^ 18)).sum)
    let s := match hot with
      | some k => if (s.chan c).serves then s.issueRfm c bank (k % 2 ^ 18) else s
      | none => s
    s.modChan c fun ch => { ch.restart bank with windows := tabPut ch.windows bank (s.now + ch.window) }
  else s

def execRefreshWindowEnd (ch bank : Fin 16) (s : State) : Host.Outcome State Fault Refusal := .next (s.endWindow ch bank)

/-- DISTURBANCE_HOLD_END (R444). -/
def State.endHold (s : State) (c bank port : Nat) : State :=
  let k := bank * 8 + port
  if due (tabFind (s.chan c).holds k) s.now then s.modChan c fun ch => { ch with holds := tabErase ch.holds k } else s

def execDisturbanceHoldEnd (ch bank : Fin 16) (port : Fin 8) (s : State) : Host.Outcome State Fault Refusal :=
  .next (s.endHold ch bank port)

/-! ### Self-refresh (R446 to R448) -/

/-- A retraining slice is pending (R450): its interval has passed, or the PHY's sensor has moved by delta since the last one. -/
def State.slicePending (s : State) (c : Nat) : Bool :=
  due (s.chan c).trainAt s.now || decide (s.retrainDelta ≤ (s.phyTemp c - (s.chan c).trainTemp).natAbs)

/-- SELF_REFRESH_ENTRY (R446): the entry command after SR_IDLE without a request, with no retraining slice pending. -/
def State.enterSelfRefresh (s : State) (c : Nat) : State :=
  let ch := s.chan c
  if ch.phase = .active ∧ ch.queue = [] ∧ ch.held = [] ∧ due ch.idleAt s.now ∧ s.field 0xA00C 31 31 = 1 ∧ !(s.slicePending c) then
    s.setChan c { ch with
      phase := .selfRefresh, openRows := [], srSince := some s.now, srTemp := s.phyTemp c, idleAt := none, exitFrom := none
      exitSlice := false }
  else s

def execSelfRefreshEntry (ch : Fin 16) (s : State) : Host.Outcome State Fault Refusal := .next (s.enterSelfRefresh ch)

/-- A retraining has adjusted the setting in place (R450). -/
def State.retrained (s : State) (c : Nat) (temp : Int) : State :=
  s.modChan c fun ch => { ch with trainTemp := temp, trainAt := some (s.now + s.retrainEvery), sliceAt := some s.now }

/-- SELF_REFRESH_EXIT_DONE (R447): within 400 ns of the start of the exit, its retraining slice included if it takes one. -/
def State.exitSelfRefresh (s : State) (c : Nat) : State :=
  let ch := s.chan c
  if ch.phase = .selfRefresh ∧ due ch.exitFrom s.now ∧ !s.halted then
    let s := s.setChan c { ch with phase := .active, srSince := none, exitFrom := none, exitSlice := false }
    let s := if ch.exitSlice then s.retrained c (s.phyTemp c) else s
    s.idleFrom c
  else s

def execSelfRefreshExitDone (ch : Fin 16) (s : State) : Host.Outcome State Fault Refusal := .next (s.exitSelfRefresh ch)

/-! ### Retraining (R450, R451) -/

/-- PERIODIC_RETRAIN_SLICE (R450): on an active channel, at least 50 µs after the last slice; a margin below the limit brings a
recovery retraining (R451). -/
def State.slice (s : State) (c : Nat) (temp : Int) (low : Bool) : State :=
  let ch := s.chan c
  let apart := match ch.sliceAt with
    | some t => decide (t + usTicks 50 ≤ s.now)
    | none => true
  if ch.phase = .active && apart then
    let s := s.retrained c temp
    if low then s.startRecovery c else s
  else s

def execPeriodicRetrainSlice (ch : Fin 16) (temp : Int) (marginLow : Bool) (s : State) : Host.Outcome State Fault Refusal :=
  .next (s.slice ch temp marginLow)

/-- RECOVERY_RETRAIN_DONE (R451, R453). -/
def State.recovered (s : State) (c : Nat) (temp : Int) (found : Bool) : State :=
  if (s.chan c).phase ≠ .recovery then s
  else if found then
    ((s.modChan c fun ch => { ch with phase := .active, recoveredAt := some s.now }).retrained c temp).idleFrom c
  else s.retireChan c

def execRecoveryRetrainDone (ch : Fin 16) (temp : Int) (found : Bool) (s : State) : Host.Outcome State Fault Refusal :=
  .next (s.recovered ch temp found)

/-! ### Counters (R454) -/

/-- DRAM_CLEAR_STATS (R454): every counter of the block reads zero. -/
def State.clearDram (s : State) : State :=
  let s := forN 16 (fun c s => ((s.setReg (dramBase c + 4) 0).setReg (dramBase c + 8) 0).setField (dramBase c + 0xC) 31 16 0) s
  { s with chans := tabMap (fun _ ch => { ch with recoveries := 0, ebbs := 0 }) s.chans }

def execDramClearStats (s : State) : Host.Outcome State Fault Refusal := if s.running then .next s.clearDram else .next s

end Sys2Proof.Machine
end

