-- ==== Sys2Proof/Machine/Harb.lean ====
section
/-! DEFINITION. The Harbourmaster's moves of tiles, the relocation of a retired channel, lost objects and the occupancy peaks
(04_placement.md, R128, R142 to R148). -/

namespace Sys2Proof.Machine

/-! ### The order of a relocation (R144) -/

/-- Where a tile stands in the order of R144: 0 to 3 presented by that port, 4 named by a pending commit, 5 and up by hint. -/
def State.moveRank (s : State) (t : Nat) : Nat := match s.tileOwner t with
  | none => 8
  | some o =>
    let vs := (o.versions.filter fun v => v.tiles.contains t).map fun v => (o.handle, v.num)
    match (List.range 4).find? fun p => vs.any fun v => (s.port p).presents.contains v with
    | some p => p
    | none =>
      if s.ports.any fun e => vs.any fun v => e.2.pendingNames.contains v then 4
      else 5 + ([1, 0, 2, 3].findIdx fun h => decide (h = o.hint))

/-- The readable tiles of a channel. -/
def State.readableTiles (s : State) (c : Nat) : List Nat :=
  ((s.harb.places.filter fun e => e.2 = .dram (BitVec.ofNat 4 c).toFin).map (·.1)).filter fun t => !(s.harb.unreadable.contains t)

/-- Room for one more tile at a place, for one that comes from elsewhere. -/
def State.roomAt (s : State) (src dest : Place) : Bool := match dest with
  | .chandlery => decide (src ≠ .chandlery) && decide (s.chnUse < s.chnCapacity)
  | .dram c =>
    let stays := match src with
      | .dram d => s.chanWorks d
      | .chandlery => false
    decide (src ≠ dest) && s.chanWorks c && decide (s.chanUse c < s.chanTiles) && (stays || decide (s.workingUse < s.dramCapacity))

/-- A tile of a retiring channel may move now: nothing that R144 puts before it is left. -/
def State.moveTurn (s : State) (t : Nat) : Place → Bool
  | .chandlery => true
  | .dram c =>
    if (s.chan c).phase = .retiring then (s.readableTiles c).all fun u => decide (s.moveRank t ≤ s.moveRank u) else true

/-- HARB_TILE_MOVE (R128, R143, R144, R452): the tile lives at its new place; when its read meets an uncorrectable error the move
is abandoned, and a tile of a retiring channel is unreadable from then on. -/
def State.moveTile (s : State) (t : Nat) (dest : Place) (bad : Bool) : State := match tabFind s.harb.places t with
  | none => s
  | some src =>
    if s.halted ∨ s.harb.unreadable.contains t ∨ !(s.moveTurn t src) then s
    else match (if bad then src else .chandlery) with
      | .dram c => if (s.chan c).phase = .retiring then s.loseTile c 1 t else s
      | .chandlery =>
        if bad ∨ !(s.roomAt src dest) then s
        else ({ s with harb := { s.harb with places := tabPut s.harb.places t dest } }).peaks

def execHarbTileMove (tile : Nat) (dest : Place) (unreadable : Bool) (s : State) : Host.Outcome State Fault Refusal :=
  .next (s.moveTile tile dest unreadable)

/-- A working channel has room for one more tile (R145). -/
def State.channelRoom (s : State) : Bool :=
  decide (s.workingUse < s.dramCapacity) && (List.range 16).any fun c => s.chanWorks c && decide (s.chanUse c < s.chanTiles)

/-- RELOCATION_END (R145, R148): no readable tile is left on the channel, or the working channels have no room for any; objects with tiles
still on it are lost, and the channel is powered down. -/
def State.endRelocation (s : State) (c : Nat) : State :=
  let left := s.readableTiles c
  if s.halted ∨ !(s.harb.relocating.contains c) ∨ (left ≠ [] ∧ s.channelRoom) then s
  else
    let s := left.foldl (fun s t => s.loseTile c 2 t) s
    let s := { s with harb := { s.harb with relocating := s.harb.relocating.filter fun x => x ≠ c } }
    s.modChan c fun ch => { ch with phase := .retired, queue := [], held := [], openRows := [], mem := [], exitFrom := none }

def execRelocationEnd (ch : Fin 16) (s : State) : Host.Outcome State Fault Refusal := .next (s.endRelocation ch)

/-- HARB_CLEAR_PEAKS (R142). -/
def execHarbClearPeaks (s : State) : Host.Outcome State Fault Refusal :=
  .next { s with harb := { s.harb with peakChn := s.chnUse, peakDram := s.dramUse } }

end Sys2Proof.Machine
end

