-- ==== Sys2Proof/Machine/Tide.lean ====
section
/-! DEFINITION. Tide time (17_tide_time.md, R455 to R473): the discipline by PTM samples, the step, and the programmed outputs
and captures. The counter itself is advanced by Machine/Clock.lean, presentation groups stand in Machine/Group.lean. -/

namespace Sys2Proof.Machine

/-! ### Times and roundings -/

/-- The Tide time now in 2^-32 ns, rounded down. -/
def State.tideUnits (s : State) : Nat := (s.tideAt6 s.now / 6).toNat

/-- The Tide has reached a time in 2^-32 ns (R457, R469). -/
def State.tideReached (s : State) (u : Nat) : Bool := decide (((6 * u : Nat) : Int) ≤ s.tideAt6 s.now)

/-- A number of 2^-33 ns as s32 ns, rounded (R51) and saturating (R479). -/
def ns32 (x : Int) : Nat := unsignedOf 32 (satInt (rhe ((x : Rat) / 2 ^ 33)) (-(2 ^ 31 : Nat)) ((2 ^ 31 - 1 : Nat) : Int))

/-! ### The discipline (R458 to R464) -/

/-- ptm_enable and servo (R479). -/
def State.ptmEnabled (s : State) : Bool := decide (s.field 0x8010 0 0 = 1)
def State.servoOn (s : State) : Bool := decide (s.field 0x8010 1 1 = 1)
/-- ptm_period in ticks, rtt_max in ns, lock_ns. -/
def State.ptmPeriod (s : State) : Nat := usTicks 125 * max 1 (s.field 0x8010 15 8)
def State.rttMax (s : State) : Nat := 10 * max 1 (s.field 0x8010 27 16)
def State.lockNs (s : State) : Nat := s.field 0x8014 15 0

/-- locked (R460): the last 16 valid samples all have |O| ≤ lock_ns. -/
def State.locked (s : State) : Bool :=
  decide (s.tide.recent.length = 16) && s.tide.recent.all fun x => decide (x.offset.natAbs ≤ s.lockNs * 2 ^ 33)

/-- The discipline enters HOLDOVER when eight dialogues in a row have failed or been rejected in TRACK (R459). -/
def State.holdover (s : State) : State :=
  if s.tide.phase = .track ∧ 8 ≤ s.tide.bad then
    ({ s with tide := { s.tide with phase := .holdover } }).raise (err 0 0x09 0x01 0 0 0 0)
  else s

/-- A dialogue that yields no valid sample is counted in one of the fields of TIDE_PTMCNT (R458, R459). -/
def State.noSample (s : State) (hi lo : Nat) : State :=
  let s := s.count 0x8028 hi lo 1
  ({ s with tide := { s.tide with valid := 0, bad := s.tide.bad + 1, dialogue := none } }).holdover

/-- The jump from the previous valid sample in 2^-33 ns (R463). -/
def jumpOf (b x : PtmSample) : Int := ((x.master : Int) - b.master) * 2 ^ 33 - (x.local_ - b.local_)

/-- The jump is a discontinuity (R463). -/
def discontinuous (b x : PtmSample) : Bool :=
  let j := jumpOf b x
  let d := x.local_ - b.local_
  decide (1000000 * 2 ^ 33 < j) || decide (1000 * j < -(10000000 * 2 ^ 33 + d)) || decide (x.master ≤ b.master)

/-- DISCONT (R463). -/
def State.discont (s : State) (j : Int) : State :=
  let s := (s.setBit 0x8018 8).setReg 0x802C (ns32 j)
  ({ s with tide := { s.tide with phase := .discont } }).raise (err 2 0x09 0x04 0 (ns32 j) 0 0)

/-- The servo sets rate_adj after a valid sample in TRACK (R460): at most 85,899 units at a time, within ±500 ppm (log 8). -/
def Tide.servo (t : Tide) (x : PtmSample) : Tide :=
  let want := t.rateNext + satInt (Config.servo x.offset t.rateNext) (-85899) 85899
  let rate := satInt want (-8589934) 8589934
  { t with rateNext := rate, rateLimited := decide (rate ≠ want) }

/-- Offsets that all lie within 1 µs of each other (R461). -/
def consistent (xs : List PtmSample) : Bool :=
  xs.all fun a => xs.all fun b => decide ((a.offset - b.offset).natAbs ≤ 1000 * 2 ^ 33)

/-- A counted series with no pulse left is over: mode reads 0 (R470). -/
def TideOut.spent (o : TideOut) : TideOut :=
  if o.prog.mode = 2 ∧ o.prog.count ≠ 0 ∧ o.prog.count ≤ o.next ∧ !o.active then { o with prog := { o.prog with mode := 0 } } else o

/-- Outputs that a step passes (R470): a one-shot not yet fired is late; a series goes on from its first pulse at or after the new
time `u`. -/
def State.outsAfterStep (s : State) (u : Nat) (step : Int) : State :=
  forN 8 (fun n s =>
    let o := s.out n
    let start := (o.prog.start) * 2 ^ 32
    let period := o.prog.period * 2 ^ 32 + o.prog.frac
    let ends := o.ends.map fun e => ((e : Int) + step * 2 ^ 32).toNat
    let s := if o.prog.mode = 1 ∧ o.next = 0 ∧ start < u then s.setBit (0x8040 + 4 * n) 8 else s
    s.setOut n { o with ends := ends, next := if o.prog.mode = 2 then ceilDiv (u - start) (max 1 period) else o.next : TideOut }.spent) s

/-- The step (R461): armed, with eight consecutive valid samples whose offsets agree, their mean offset is added at the next
CLK_TIME edge. -/
def State.tryStep (s : State) : State :=
  let t := s.tide
  let xs := t.recent.take 8
  let ready := t.armed && decide (8 ≤ t.valid) && decide (xs.length = 8) && consistent xs &&
    (decide (t.phase = .acquire) || decide (t.phase = .track) || decide (t.phase = .discont))
  if !ready then s
  else
    let step := rhe (((xs.map fun x => x.offset).sum : Rat) / (8 * 2 ^ 33))
    let v := ns32 (step * 2 ^ 33)
    let base := xs.head?.map fun x => { x with local_ := x.local_ + step * 2 ^ 33 }
    let s := (s.setBit 0x8018 9).setReg 0x8024 v
    let s := { s with tide := { s.tide with armed := false, phase := .track, stepNext := step, base := base, valid := 0 } }
    let s := s.outsAfterStep ((s.tideUnits : Int) + step * 2 ^ 32).toNat step
    s.raise (err 0 0x09 0x02 0 v 0 0)

/-- A valid sample (R459 to R463); the rate is held while the Purser restarts (R548). -/
def State.validSample (s : State) (x : PtmSample) : State :=
  let t := s.tide
  let s := s.setReg 0x8020 (ns32 x.offset)
  let s := { s with tide := { t with
    valid := t.valid + 1, bad := 0, dialogue := none, base := some x, recent := x :: t.recent.take 15 } }
  let checked := decide (t.phase = .track) || decide (t.phase = .holdover)
  let jump := match t.base with
    | some b => checked && discontinuous b x
    | none => false
  let s := if jump then s.discont ((t.base.map fun b => jumpOf b x).getD 0)
    else match t.phase with
      | .track => if s.flt.restarting then s else { s with tide := s.tide.servo x }
      | .holdover => if s.flt.restarting then s else { s with tide := { s.tide.servo x with phase := .track } }
      | .acquire => if 8 ≤ s.tide.valid ∧ !(s.tide.armed && consistent (s.tide.recent.take 8)) then
          { s with tide := { s.tide with phase := .track } } else s
      | _ => s
  s.tryStep

/-- PTM_DIALOGUE_START (R458): every ptm_period while ptm_enable is set. -/
def execPtmDialogueStart (s : State) : Host.Outcome State Fault Refusal :=
  if s.running && s.ptmEnabled && s.tide.dialogue.isNone && due s.tide.dialogueAt s.now then
    .next { s with tide := { s.tide with dialogue := some (s.now, s.tideUnits), dialogueAt := some (s.now + s.ptmPeriod) } }
  else .next s

/-- PTM_RESPONSE (R458): the master time at the root port's receipt of the request and its turnaround, in ns. -/
def State.ptmResponse (s : State) (master turnaround : Nat) : State := match s.tide.dialogue with
  | none => s
  | some (_, sent) =>
    let got := s.tideUnits
    let rtt : Int := (got : Int) - sent - turnaround * 2 ^ 32
    if (s.rttMax * 2 ^ 32 : Nat) < rtt then s.noSample 31 16
    else
      let loc : Int := (sent : Int) + got - turnaround * 2 ^ 32
      s.validSample { master := master, local_ := loc, offset := (master : Int) * 2 ^ 33 - loc }

def execPtmResponse (master turnaround : Nat) (s : State) : Host.Outcome State Fault Refusal := .next (s.ptmResponse master turnaround)

/-- PTM_TIMEOUT (R458): no answer within 100 µs. -/
def execPtmTimeout (s : State) : Host.Outcome State Fault Refusal :=
  if due (s.tide.dialogue.map fun d => d.1 + usTicks 100) s.now then .next (s.noSample 15 0) else .next s

/-- What a write of TIDE_CTRL brings (R458, R459): FREE while either bit is clear, ACQUIRE once both are set. -/
def State.tideCtrl (s : State) : State :=
  let t := s.tide
  let t := if s.ptmEnabled then { t with dialogueAt := some (t.dialogueAt.getD s.now) } else { t with dialogue := none, dialogueAt := none }
  if s.ptmEnabled && s.servoOn then
    (if t.phase = .free then { s with tide := { t with phase := .acquire, valid := 0, bad := 0, base := none } }
     else { s with tide := t })
  else { s with tide := { t with phase := .free, rateLimited := false } }

/-- TIDE_RESUME (R464): DISCONT is left for TRACK; the baseline restarts from the next valid sample. -/
def State.resume (s : State) : State :=
  if s.tide.phase = .discont then ({ s with tide := { s.tide with phase := .track, base := none } }).holdover else s

def execTideResume (s : State) : Host.Outcome State Fault Refusal := .next s.resume

/-! ### TIDE_PROGRAM (R461, R466) -/

/-- The target (R104). -/
def Desc.tideTarget (d : Desc) : Nat := d.f 2 3 0

/-- A rule broken by word `i` of the parameter block (R466). -/
def blockBad (reason i : Nat) : Fail := (stBadDesc, reason * 65536 + 0x1000 + i)

def blockFail (c : Bool) (reason i : Nat) : Option Fail := failIf c (blockBad reason i)

/-- Word `i` of a block. -/
def blockWord (b : List Byte) (i : Nat) : Nat := leAt b (4 * i) 4

/-- The first word of a block with a bit outside `used`. -/
def blockReserved (b : List Byte) (used : List Nat) : Option Fail :=
  ((List.range 8).find? fun i => decide (blockWord b i &&& (0xFFFFFFFF ^^^ used.getD i 0) ≠ 0)).map fun i => blockBad 2 i

/-- The programme an output block spells (R467). -/
def outProg (b : List Byte) : OutProg :=
  let w := blockWord b
  { mode := fieldOf (w 0) 1 0, low := decide (fieldOf (w 0) 4 4 = 1), port := fieldOf (w 0) 9 8, phases := fieldOf (w 0) 14 12
    width := w 1, start := (w 2 + 2 ^ 32 * w 3) * 1000000000 + fieldOf (w 4) 29 0, period := w 5, frac := w 6, count := w 7 }

/-- V_TOTAL of a port's mode, or its gang's. -/
def State.vTotalOf (s : State) (p : Nat) : Nat := (s.port (s.lead p)).mode.vTotal

/-- The rules of an output block (R467). A block of mode 0 has nothing but its reserved bits to check. -/
def outFail (b : List Byte) : Option Fail :=
  let g := outProg b
  firstFail
    [ blockReserved b [0x7313, 0xFFFFFFFF, 0xFFFFFFFF, 0xFFFFFFFF, 0x3FFFFFFF, if g.mode = 3 then 0x1FFF else 0xFFFFFFFF, 0xFFFFFFFF,
        0xFFFFFFFF],
      blockFail (decide (g.mode ≠ 0) && (decide (g.width < 4) || decide (10000000 < g.width))) 3 1,
      blockFail ((decide (g.mode = 1) || decide (g.mode = 2)) && decide (1000000000 ≤ fieldOf (blockWord b 4) 29 0)) 3 4,
      blockFail (decide (g.mode = 2) && decide (g.period < 16)) 3 5,
      blockFail (decide (g.mode = 2) && decide (g.period < g.width + 4)) 3 1 ]

/-- Mode 3's line lies below V_TOTAL of the port's mode when the programme is installed (R467). -/
def State.outLineFail (s : State) (g : OutProg) : Option Fail :=
  blockFail (decide (g.mode = 3) && decide (s.vTotalOf g.port ≤ g.period)) 3 5

/-- The rules of a capture block (R471). -/
def capFail (b : List Byte) : Option Fail :=
  firstFail
    [ blockReserved b [0xFF03, 0xF, 0xFFFFFFFF, 0xFFFFFFFF, 0, 0, 0, 0],
      blockFail (decide (8 < fieldOf (blockWord b 1) 3 0)) 3 1,
      blockFail (decide (blockWord b 2 % 64 ≠ 0)) 3 2 ]

/-- Put an output programme in force (R467 to R470), at a Tide time in 2^-32 ns. -/
def State.installOut (s : State) (n : Nat) (g : OutProg) (u : Nat) : State :=
  let o := s.out n
  let start := g.start * 2 ^ 32
  let next := if g.mode = 2 then ceilDiv (u - start) (g.period * 2 ^ 32 + g.frac) else 0
  let s := s.setOut n { o with prog := g, active := false, ends := none, next := next, lastAt := s.now, pulses := 0 : TideOut }.spent
  if g.mode = 1 ∧ start < u then s.setBit (0x8040 + 4 * n) 8 else s

/-- The next CLK_TIME edge. -/
def State.nextEdge (s : State) : Nat := (s.now / 6 + 1) * 6

/-- TIDE_PROGRAM for an output at its start (R466, R470): installed at the next CLK_TIME edge and completed with that time; an
output at its active level first ends its pulse. -/
def startOut (b : List Byte) (e : Entry) (s : State) : State :=
  let n := e.desc.tideTarget
  let g := outProg b
  if (s.out n).active then
    let o := s.out n
    (s.setOut n { o with waiting := o.waiting ++ [(e.id, g)] }).start e.id e.job
  else match s.outLineFail g with
    | some f => s.finish e.id f 0 0
    | none =>
      let u := (s.tideAt6 s.nextEdge / 6).toNat
      (s.installOut n g u).finishAt e.id (s.tideNsAt s.nextEdge) false (stOk, 0) 0 0

/-- TIDE_PROGRAM for a capture input at its start (R466, R471). -/
def startCap (b : List Byte) (e : Entry) (s : State) : State :=
  let n := e.desc.tideTarget - 8
  let w := blockWord b
  (s.setCap n { TideCap.reset with
      edge := fieldOf (w 0) 1 0, filter := fieldOf (w 0) 15 8, sizeLog := fieldOf (w 1) 3 0, addr := w 2 + 2 ^ 32 * w 3
      buffered := (s.cap n).buffered }).finishAt e.id (s.tideNsAt s.nextEdge) false (stOk, 0) 0 0

/-- The step is armed (R461). -/
def startArm (e : Entry) (s : State) : State :=
  (({ s with tide := { s.tide with armed := true } }).finish e.id (stOk, 0) 0 0).tryStep

/-- A TIDE_PROGRAM at its start. -/
def startTide (e : Entry) (s : State) : State :=
  if e.desc.tideTarget = 12 then startArm e s
  else match e.job with
    | .tide b => if e.desc.tideTarget < 8 then startOut b e s else startCap b e s
    | _ => s

/-- Ports that keep the step from being armed (R461). -/
def State.armFail (s : State) : Option Fail :=
  failIf (!(s.inBootState) && (List.range 4).any fun p => decide ((s.port p).phase ≠ .stopped)) (badDesc 4 2)

/-- Accept a TIDE_PROGRAM with a block, which is read once at acceptance (R24, R25, R466). -/
def State.takeTide (s : State) (d : Desc) (block : HostRead) (check : List Byte → Option Fail) : State :=
  let s := s.emit (.readRequest d.fn (d.addr 3) 32 (.table d.ring))
  match firstFail [block.fail.map timeoutOf, check block.bytes] with
  | some f => s.reject d f
  | none =>
    let b := bytesAt block.bytes 0 32
    s.admitStart d (.tide b) [] (fun t => t.logData d 0 b) startTide

/-- TIDE_PROGRAM of an output (R466, R467). -/
def execTideProgramOut (r : Fin 128) (block : HostRead) (s : State) : Host.Outcome State Fault Refusal :=
  .next (s.withCur r opTideProgram fun d s => if d.tideTarget < 8 then s.takeTide d block outFail else s)

/-- TIDE_PROGRAM of a capture input (R466, R471). -/
def execTideProgramCap (r : Fin 128) (block : HostRead) (s : State) : Host.Outcome State Fault Refusal :=
  .next (s.withCur r opTideProgram fun d s => if 8 ≤ d.tideTarget ∧ d.tideTarget < 12 then s.takeTide d block capFail else s)

/-- TIDE_PROGRAM with target 12 (R461). -/
def execTideStepArm (r : Fin 128) (s : State) : Host.Outcome State Fault Refusal :=
  .next (s.withCur r opTideProgram fun d s =>
    if d.tideTarget ≠ 12 then s
    else match s.armFail with
      | some f => s.reject d f
      | none => s.admitStart d .plain [] id startTide)

/-! ### Output pulses (R468 to R470) -/

/-- The largest slot count whose slot, shifted by `off` ticks, begins by a tick (R314). -/
def Port.slotBy (q : Port) (off : Int) (tick : Nat) : Int :=
  (((tick : Int) - off - q.t0 + 1) * 2 ^ 33 - 1) / (max 1 q.lineTicks : Nat)

/-- A mode 3 pulse of a running port is due (R468): the latest start of the named line's slot, shifted by the offset, lies after the
last pulse. -/
def State.lockedDue (s : State) (o : TideOut) : Bool :=
  let q := s.port (s.lead o.prog.port)
  let off := signedOf 32 o.prog.frac
  let f := q.mode.frameLines
  let first : Int := if s.grouped (s.lead o.prog.port) then -(f : Int) else 0
  q.slots && decide (q.phase ≠ .starting ∨ off < 0) && decide (o.prog.period < q.mode.vTotal) &&
    (List.range q.mode.subframes).any fun k =>
      let j := q.slotBy off s.now
      let j := j - (j - ((k * q.mode.vTotal + o.prog.period : Nat) : Int)) % ((max 1 f : Nat) : Int)
      decide (o.prog.phases / 2 ^ k % 2 = 1) && decide (first ≤ j) && decide ((o.lastAt : Int) < (q.slotTick j : Int) + off)

/-- The Tide time in 2^-32 ns at which pulse `next` of a one-shot or periodic programme begins; none when there is none left
(R468, R470). -/
def TideOut.nextAt (o : TideOut) : Option Nat :=
  if o.prog.mode = 1 then (if o.next = 0 then some (o.prog.start * 2 ^ 32) else none)
  else if o.prog.mode = 2 then
    (if o.prog.count ≠ 0 ∧ o.prog.count ≤ o.next then none
     else some (o.prog.start * 2 ^ 32 + o.next * (o.prog.period * 2 ^ 32 + o.prog.frac)))
  else none

/-- A pulse begins, and lasts `width` from the Tide time `u` (R469). -/
def State.beginPulse (s : State) (n u : Nat) : State :=
  let o := s.out n
  s.setOut n { o with
    active := true, ends := some (u + o.prog.width * 2 ^ 32), next := o.next + 1, lastAt := s.now, pulses := satNat (o.pulses + 1) 0xFFFF }

/-- TIDE_OUT_PULSE_START (R468, R469): the pulse that is due; a one-shot that is late lasts its width from now. -/
def State.pulseStart (s : State) (n : Nat) : State :=
  let o := s.out n
  if o.active then s
  else if o.prog.mode = 3 then (if s.lockedDue o then s.beginPulse n s.tideUnits else s)
  else match o.nextAt with
    | none => s
    | some u =>
      if !(s.tideReached u) then s
      else if o.prog.mode = 1 ∧ s.field (0x8040 + 4 * n) 8 8 = 1 then s.beginPulse n s.tideUnits
      else s.beginPulse n u

def execTideOutPulseStart (n : Fin 8) (s : State) : Host.Outcome State Fault Refusal := .next (s.pulseStart n)

/-- Programmes that waited for the end of a pulse are installed in their order and completed (R470); one whose line no longer lies below
V_TOTAL fails instead (R467). -/
def State.installWaiting (s : State) (n : Nat) : State :=
  let ws := (s.out n).waiting
  let o := s.out n
  ws.foldl (fun s w => match s.outLineFail w.2 with
    | some f => s.finish w.1 f 0 0
    | none => (s.installOut n w.2 s.tideUnits).finish w.1 (stOk, 0) 0 0) (s.setOut n { o with waiting := [] })

/-- TIDE_OUT_PULSE_END (R469, R470): the pin returns to its inactive level; at the last pulse of a count mode reads 0. -/
def State.pulseEnd (s : State) (n : Nat) : State :=
  let o := s.out n
  if o.active && (o.ends.map s.tideReached).getD false then
    (s.setOut n { o with active := false, ends := none : TideOut }.spent).installWaiting n
  else s

def execTideOutPulseEnd (n : Fin 8) (s : State) : Host.Outcome State Fault Refusal := .next (s.pulseEnd n)

/-! ### Captured edges (R472, R473) -/

/-- The input counts edges of this direction (R471). -/
def TideCap.takes (c : TideCap) (rising : Bool) : Bool :=
  decide (c.edge = 3) || (decide (c.edge = 1) && rising) || (decide (c.edge = 2) && !rising)

/-- The 16 bytes of a capture record (R472). -/
def capBytes (n : Nat) (c : TideCap) (ns : Nat) (rising : Bool) : List Byte :=
  leBytes 8 (ns / 1000000000) ++ leBytes 4 (ns % 1000000000 + (if rising then 1 else 2) * 2 ^ 30) ++ leBytes 2 c.seq ++
    leBytes 2 (n + c.droppedSince * 16)

/-- Records that wait in an input's buffer go out while the host can be reached (R473). -/
def State.drainCap (s : State) (n : Nat) : State :=
  if s.power.linkUp then
    let bs := (s.cap n).buffered
    let c := s.cap n
    bs.foldl (fun s b => s.emit (.data 0 b.1 b.2 0)) (s.setCap n { c with buffered := [] })
  else s

/-- Records of an input that wait for their turn on the PCIe link (R33, R473): data writes into its ring not yet posted. -/
def State.capWaiting (s : State) (c : TideCap) : Nat :=
  let ours (fn addr : Nat) : Bool := decide (fn = 0) && decide (c.addr ≤ addr) && decide (addr < c.addr + 16 * 2 ^ (c.sizeLog + 4))
  ((s.egress.drop s.pcie.taken).filter fun
    | .data fn a _ _ => ours fn a
    | _ => false).length +
  (s.pcie.dataQ.filter fun y => match y.tlp with
    | .memWrite fn a _ _ => ours fn a
    | _ => false).length

/-- TIDE_CAP_EDGE (R472, R473): an edge that has held its new level for the filter time, at the tick it reached the input. -/
def State.capEdge (s : State) (n : Nat) (rising : Bool) : State :=
  let c := s.cap n
  let near := match c.lastEdge with
    | some t => decide (s.now < t + 24)
    | none => false
  if !(c.takes rising) || near then s
  else if 16 ≤ c.buffered.length + s.capWaiting c then
    s.setCap n { c with lastEdge := some s.now, droppedSince := satNat (c.droppedSince + 1) 4095, dropped := satNat (c.dropped + 1) 0xFFFF }
  else
    let a := c.addr + 16 * (c.seq % 2 ^ (c.sizeLog + 4))
    let c' := { c with lastEdge := some s.now, seq := (c.seq + 1) % 65536, droppedSince := 0
                       buffered := c.buffered ++ [(a, capBytes n c s.tideNs rising)] }
    (s.setCap n c').drainCap n

def execTideCapEdge (n : Fin 4) (rising : Bool) (s : State) : Host.Outcome State Fault Refusal := .next (s.capEdge n rising)

end Sys2Proof.Machine
end

