-- ==== Sys2Proof/Machine/Sense.lean ====
section
/-! DEFINITION. Temperatures and throttling (18_sensing_store.md, R480 to R494): die sensors, remote diodes, the board sensor, the
throttle level with its ebb slots, the thermal trip, and the Assayer's inputs. -/

namespace Sys2Proof.Machine

/-! ### Die sensors (R480 to R484) -/

/-- A temperature as published: s8.8, saturated; the converters read beyond (R480, R483, R491; log 43). -/
def s88 (x : Int) : Nat := unsignedOf 16 (satInt x (-32768) 32767)

def State.die (s : State) (k : Nat) : Die := tabGet Die.reset s.sense.dies k
def State.modSense (s : State) (f : Sense → Sense) : State := { s with sense := f s.sense }
def State.setDie (s : State) (k : Nat) (d : Die) : State := s.modSense fun x => { x with dies := tabPut x.dies k d }

/-- The sensors next to a die sensor in its row or column (R480). -/
def neighbours (k : Nat) : List Nat :=
  (List.range 24).filter fun n =>
    (decide (n / 6 = k / 6) && (decide (n = k + 1) || decide (k = n + 1))) || decide (n = k + 6) || decide (k = n + 6)

/-- A sensor that works: it has been sampled and has not failed. -/
def Die.works (d : Die) : Bool := d.sampled && !d.failed

/-- The readings of the working sensors of a list. -/
def State.workingValues (s : State) (ks : List Nat) : List Int := ((ks.map s.die).filter fun d => d.works).map (·.value)

/-- The largest of a list. -/
def maxInt : List Int → Option Int
  | [] => none
  | x :: xs => some (xs.foldl max x)

/-- The value of a die sensor for throttling: its reading, or while failed the substitute of R484. -/
def State.dieValue (s : State) (k : Nat) : Int :=
  let d := s.die k
  if !d.failed then d.value
  else match maxInt (s.workingValues (neighbours k)) with
    | some v => v + 10 * 256
    | none => ((maxInt (s.workingValues (List.range 24))).map (· + 10 * 256)).getD d.value

/-- Sensors that have been sampled. -/
def State.sampledDies (s : State) : List Nat := (List.range 24).filter fun k => (s.die k).sampled

/-- The hottest value (R484). -/
def State.hottest (s : State) : Int := (maxInt (s.sampledDies.map s.dieValue)).getD 0

/-- It is a substitute's. -/
def State.hotSubstituted (s : State) : Bool :=
  s.sampledDies.any fun k => (s.die k).failed && decide (s.dieValue k = s.hottest)

/-- Failed die sensors. -/
def State.diesFailed (s : State) : Nat := ((List.range 24).filter fun k => (s.die k).failed).length

/-- Threshold t1 to t4 in s8.8 (R487, R507). -/
def State.threshold (s : State) (k : Nat) : Int := 256 * (s.field 0x9004 (8 * k - 1) (8 * k - 8) : Nat)

/-- The sampling period of R482 by the distance from the nearest threshold: 0 10 ms, 1 1 ms, 2 125 µs. -/
def periodOf (v : Int) (thresholds : List Int) : Nat :=
  let near := fun (d : Nat) => thresholds.any fun t => decide ((v - t).natAbs ≤ d * 256)
  if near 2 then 2 else if near 8 then 1 else 0

/-- Below −55 °C or above 150 °C (R483). -/
def outOfSpan (v : Int) : Bool := decide (v < -55 * 256) || decide (150 * 256 < v)

/-- The stuck test of R483: 256 samples with one code while a working neighbour has moved by 1 °C since the first. -/
def State.stuck (s : State) (k : Nat) (d : Die) : Bool :=
  decide (256 ≤ d.same) && ((neighbours k).zip d.sameFrom).any fun x =>
    (s.die x.1).works && (x.2.map fun v => decide (256 ≤ ((s.die x.1).value - v).natAbs)).getD false

/-- A reading that differs by more than 15 °C from every working neighbour (R483). -/
def State.disagrees (s : State) (k : Nat) (v : Int) : Bool :=
  let vs := s.workingValues (neighbours k)
  decide (vs ≠ []) && vs.all fun w => decide (15 * 256 < (v - w).natAbs)

/-- A die sensor after a reading, before the failure tests decide. -/
def State.readDie (s : State) (k : Nat) (v : Int) : Die :=
  let d := s.die k
  let again := d.sampled && decide (d.value = v)
  { d with
    value := v, sampled := true, same := if again then d.same + 1 else 1
    sameFrom := if again then d.sameFrom else (neighbours k).map fun n => if (s.die n).sampled then some (s.die n).value else none
    disagree := if s.disagrees k v then d.disagree + 1 else 0
    hot := if 128 * 256 ≤ v then d.hot + 1 else 0 }

/-- The outcome of the failure tests at a sample (R483): failed, and since when good. A failed sensor is back after 1 s of good
samples. -/
def judge (failed bad : Bool) (goodSince : Timer) (now : Nat) : Bool × Timer :=
  if bad then (true, none)
  else if !failed then (false, none)
  else match goodSince with
    | none => (true, some now)
    | some t => if t + msTicks 1000 ≤ now then (false, none) else (true, some t)

/-! ### The throttle level (R485, R487, R488, R490) -/

/-- Working sensors. -/
def State.diesWorking (s : State) : Nat := 24 - s.diesFailed

/-- The level that the hottest value calls for at least. -/
def State.levelFor (s : State) : Nat :=
  ([4, 3, 2, 1].find? fun k => decide (s.threshold k ≤ s.hottest)).getD 0

/-- The level may fall by one (R487). -/
def State.mayCool (s : State) : Bool :=
  let l := s.sense.level
  decide (l ≠ 0) && decide (s.hottest < s.threshold l - 3 * 256) && !s.hotSubstituted &&
    (match s.sense.changed with
     | some t => decide (t + msTicks 50 ≤ s.now)
     | none => true)

/-- The level after a sample (R485, R487). -/
def State.nextLevel (s : State) : Nat :=
  if s.diesWorking < 12 then 4
  else if s.sense.level < s.levelFor then s.levelFor
  else if s.mayCool then s.sense.level - 1
  else s.sense.level

/-- Ebb slots of a unit at a level in µs, 0 for none (R488). -/
def State.ebbUs (s : State) (level : Nat) (u : EbbUnit) : Nat :=
  let lo := max 1 (s.field 0x9008 7 0)
  let hi := max 1 (s.field 0x9008 15 8)
  let k := match u with
    | .sawyer => 1
    | .decoders => 1
    | .scalers => 2
    | .causeway => 2
  if level < k then 0 else if level = k then lo else hi

/-- The units slowed at a level: those already slowed go on, new ones begin with 2 µs of work (R488). -/
def State.slowUnits (s : State) : State :=
  let us := [EbbUnit.sawyer, .decoders, .scalers, .causeway].filter fun u => s.ebbUs s.sense.level u ≠ 0
  s.modSense fun x => { x with ebbs := us.map fun u =>
    (x.ebbs.find? fun e => e.1 = u).getD (u, false, some (s.now + usTicks 2)) }

/-- The warning of T4 for a running port (R490): the next frame to be latched, a gang member's with its gang. -/
def State.warnT4 (s : State) (p : Nat) : State :=
  let q := s.port (s.lead p)
  if q.phase = .running ∨ q.phase = .reforming then
    let n := (q.nextNo + 1) % 2 ^ 48
    s.raise (err 2 0x0C 0x04 (instP p 0) (n % 2 ^ 32) (n / 2 ^ 32) 0)
  else s

/-- The level becomes `l` (R487, R490). -/
def State.setLevel (s : State) (l : Nat) : State :=
  if l = s.sense.level then s
  else
    let old := s.sense.level
    let s := ((s.modSense fun x => { x with level := l, changed := some s.now }).setBit 0x9010 0).slowUnits
    let s := s.raise (err 0 0x0C 0x03 0 l (s88 s.hottest) 0)
    if l = 4 ∧ old ≠ 4 then forN 4 (fun p s => s.warnT4 p) (s.setBit 0x9010 1) else s

/-- The level is recomputed at a die-sensor sample (R485, R487). -/
def State.rethrottle (s : State) : State :=
  let few := decide (s.diesWorking < 12)
  let s := if few && !s.sense.forced then s.raise (err 2 0x0C 0x02 0 s.diesWorking 0 0) else s
  let s := s.modSense fun x => { x with forced := few, hottest := s.hottest, substituted := s.hotSubstituted }
  s.setLevel s.nextLevel

/-! ### The thermal trip (R491) -/

/-- The device trips: THERM_TRIP_N and a FATAL record, which stops the Weave, fetching and the DRAM (R549). -/
def State.trip (s : State) (inst : Nat) : State :=
  if s.sense.tripped then s
  else
    let s := s.modSense fun x => { x with tripped := true }
    let s := { s with power := { s.power with thermTrip := true } }
    let s := s.raise (err 3 0x0C 0x05 inst (s88 s.hottest) 0 0)
    { s with chans := tabMap (fun _ c => c.toSelfRefresh s.now) s.chans }

/-- ANALOGUE_TRIP (R491). -/
def execAnalogueTrip (s : State) : Host.Outcome State Fault Refusal := if s.running then .next (s.trip 0xFF) else .next s

/-! ### Samples -/

/-- A sensor has just failed (R483, R486): SENSE 0x01. -/
def State.sensorFailed (s : State) (inst : Nat) (v : Int) : State :=
  (s.setBit 0x9010 2).raise (err 1 0x0C 0x01 inst (s88 v) 0 0)

/-- DIE_SENSOR_SAMPLE (R482 to R491): `reading` is in 2^-8 °C; a converter reads up to its limits of R483 and beyond (log 43). -/
def State.sampleDie (s : State) (k : Nat) (v : Int) : State :=
  let was := (s.die k).failed
  let d := s.readDie k v
  let bad := outOfSpan v || s.stuck k d || decide (3 ≤ d.disagree)
  let j := judge was bad d.goodSince s.now
  let s := s.setDie k { d with failed := j.1, goodSince := j.2, hot := if j.1 then 0 else d.hot }
  let s := s.setDie k { s.die k with
    period := periodOf (s.dieValue k) [s.threshold 1, s.threshold 2, s.threshold 3, s.threshold 4, 128 * 256] }
  let s := if j.1 && !was then s.sensorFailed k v else s
  let s := s.rethrottle
  if 2 ≤ (s.die k).hot then s.trip k else s

def execDieSensorSample (k : Fin 24) (reading : Int) (s : State) : Host.Outcome State Fault Refusal :=
  if s.running then .next (s.sampleDie k reading) else .next s

/-- THROTTLE_EBB_TIMER (R488): a slowed unit changes between 2 µs of work and its ebb slot. -/
def execThrottleEbbTimer (u : EbbUnit) (s : State) : Host.Outcome State Fault Refusal :=
  let turn := fun (e : EbbUnit × Bool × Timer) =>
    if e.1 = u ∧ due e.2.2 s.now then (u, !e.2.1, some (s.now + usTicks (if e.2.1 then 2 else s.ebbUs s.sense.level u))) else e
  .next (s.modSense fun x => { x with ebbs := x.ebbs.map turn })

/-! ### Remote diodes and the board sensor (R481, R486) -/

/-- The temperature of a mean ΔV, in °C (R481): `dv` in quarters of an LSB of 30 µV, η in u2.14. -/
def diodeTemp (dv eta : Nat) : Rat := ((dv : Rat) / 4 * 30) / ((eta : Rat) / 2 ^ 14 * (24414 / 100)) - 27315 / 100

/-- A junction temperature as published: s8.8, rounded (R51). -/
def temp88 (t : Rat) : Int := satInt (rhe (t * 256)) (-32768) 32767

/-- Out of range (R483), or at full scale: an open junction (R486). -/
def diodeBad (dv : Nat) (t : Rat) : Bool := decide (t < -55) || decide (150 < t) || decide (4 * 4095 ≤ dv)

def State.diode (s : State) (n : Nat) : Diode := tabGet Diode.reset s.sense.diodes n

/-- η of a remote diode (R507). -/
def State.ideality (s : State) (n : Nat) : Nat := s.field (0x90C0 + 4 * n) 15 0

/-- A diode after a measurement. -/
def Diode.take (d : Diode) (dv : Nat) (t : Rat) (now : Nat) : Diode :=
  let j := judge d.failed (diodeBad dv t) d.goodSince now
  { d with value := temp88 t, dv := dv, sampled := true, failed := j.1, goodSince := j.2 }

/-- The weight of channel `n` in a RMAP_DIODE word (R249, R265). -/
def weightOf (w n : Nat) : Nat := fieldOf w (4 * n + 3) (4 * n)

/-- Channels that a port weighs, and of these the ones that have not failed (R249). -/
def State.weighted (s : State) (w : Nat) : List Nat := (List.range 8).filter fun n => decide (weightOf w n ≠ 0) && (s.diode n).sampled
def State.goodDiodes (s : State) (w : Nat) : List Nat := (s.weighted w).filter fun n => !(s.diode n).failed

/-- θ_lens over the channels that count, s8.8 (R249). -/
def State.lensMean (s : State) (w : Nat) : Int :=
  let ns := s.goodDiodes w
  let sum : Rat := (ns.map fun n => (weightOf w n : Rat) * diodeTemp (s.diode n).dv (s.ideality n)).sum
  temp88 (sum / ((ns.map fun n => weightOf w n).sum : Nat))

/-- The lens temperature of a port after a reading of channel `n` (R249, R250): held when every weighted channel has failed, or by
hold_temp. -/
def State.lensUpdate (s : State) (p n : Nat) : State :=
  let r := (s.port p).ray
  let lost := decide (s.goodDiodes r.weights = [])
  if weightOf r.weights n = 0 ∨ s.follower p then s
  else
    let t := if lost ∨ r.held.isSome then r.theta else s.lensMean r.weights
    let s := s.modPort p fun q => { q with ray := { q.ray with theta := t, diodeLost := lost } }
    if lost && !r.diodeLost then (s.setBit (0x442C + 0x80 * p) 2).raise (err 2 0x04 0x04 (instP p 0) 0 0 0) else s

/-- An electrical calibration is measuring a channel: its published reading keeps its last value (R495). -/
def State.measuring (s : State) (chan : Nat) : Bool :=
  s.ledger.any fun e => decide (e.desc.opcode = opCalMeasure) && decide (e.desc.f 2 3 0 = 0) && e.started &&
    decide (e.desc.w 3 / 2 ^ chan % 2 = 1)

/-- REMOTE_DIODE_SAMPLE (R481, R486, R249): `dv` is the mean ΔV of four conversions in quarters of an LSB. -/
def State.sampleDiode (s : State) (n dv : Nat) : State :=
  if s.measuring n then s
  else
    let was := (s.diode n).failed
    let d := (s.diode n).take dv (diodeTemp dv (s.ideality n)) s.now
    let s := s.modSense fun x => { x with diodes := tabPut x.diodes n d }
    let s := if d.failed && !was then s.sensorFailed (32 + n) d.value else s
    forN 4 (fun p s => s.lensUpdate p n) s

def execRemoteDiodeSample (n : Fin 8) (dv : Nat) (s : State) : Host.Outcome State Fault Refusal :=
  if s.running then .next (s.sampleDiode n dv) else .next s

/-! ### The Assayer's inputs (R492 to R494, R499) -/

/-- Coefficient `i` of a channel in set `k`, exact: c0 in 2^-8, c1 in 2^-15, c2 in 2^-30 (R502); the factory trim while the set
has none (R506, log 9). -/
def CalSet.coef (c : CalSet) (k chan i : Nat) : Rat :=
  let raw : Int := match c.coefs[chan]? with
    | some (a, b, d) => if i = 0 then a else if i = 1 then b else d
    | none => Config.factoryTrim k chan i
  (raw : Rat) / (if i = 0 then 256 else if i = 1 then 32768 else 1073741824)

def State.calSet (s : State) (k : Nat) : CalSet := s.sense.data.cal.getD k { temp := 0, valid := false, coefs := [] }

/-- A coefficient at the temperature of die sensor 23: interpolated between neighbouring sets, the nearest set alone outside their
span (R493). -/
def State.coefAt (s : State) (chan i : Nat) : Rat :=
  let t := (s.die 23).value
  let c := fun k => (s.calSet k).coef k chan i
  let temp := fun k => (s.calSet k).temp
  let mid := fun a b => c a + (c b - c a) * ((t - temp a : Int) : Rat) / ((temp b - temp a : Int) : Rat)
  if t ≤ temp 0 then c 0 else if t < temp 1 then mid 0 1 else if t < temp 2 then mid 1 2 else c 2

/-- A raw code corrected, u12.4 (R493). -/
def State.corrected (s : State) (chan raw : Nat) : Nat :=
  rheSat (16 * (s.coefAt chan 0 + s.coefAt chan 1 * (raw : Rat) + s.coefAt chan 2 * (raw : Rat) * (raw : Rat))) 0xFFFF

/-- rel of a photodiode, u4.12 (R499, R507); 0 without a set. -/
def PhotSet.rel (x : PhotSet) (code : Nat) : Nat :=
  if x.valid ∧ x.s ≠ 0 then rheSat (4096 * (((code : Int) - x.b : Int) : Rat) / (x.s : Rat)) 0xFFFF else 0

/-- The corrected code lies outside the limits of a supply monitor (R494). -/
def State.supplyOut (s : State) (m code : Nat) : Bool :=
  decide (code < s.field (0x9120 + 4 * m) 15 0) || decide (s.field (0x9120 + 4 * m) 31 16 < code)

/-- AIN_SAMPLE (R493, R494, R499). -/
def State.sampleAin (s : State) (n raw : Nat) : State :=
  if s.measuring (8 + n) then s
  else
    let a := tabGet Ain.reset s.sense.ains n
    let code := s.corrected (8 + n) raw
    let rel := if n < 4 then (s.sense.data.phot.getD n PhotSet.reset).rel code else 0
    let out := decide (4 ≤ n) && s.supplyOut (n - 4) code
    let run := if out then a.out + 1 else 0
    let alarm := out && (a.alarm || decide (3 ≤ run))
    let s := s.modSense fun x => { x with ains := tabPut x.ains n { code := code, rel := rel, out := run, alarm := alarm } }
    if alarm && !a.alarm then (s.setBit 0x9010 4).raise (err 2 0x0C 0x06 (8 + n) code 0 0) else s

def execAinSample (n : Fin 8) (raw : BitVec 12) (s : State) : Host.Outcome State Fault Refusal :=
  if s.running then .next (s.sampleAin n raw.toNat) else .next s

end Sys2Proof.Machine
end

