-- ==== Sys2Proof/Machine/Store.lean ====
section
/-! DEFINITION. Calibration (18_sensing_store.md, R495 to R500) and the calibration store in flash (R501 to R506). -/

namespace Sys2Proof.Machine

/-! ### CAL_MEASURE (R495, R497, R498) -/

def Desc.calKind (d : Desc) : Nat := d.f 2 3 0
def Desc.measurePort (d : Desc) : Nat := d.f 2 5 4
/-- The channels of the mask, rising. -/
def Desc.channels (d : Desc) : List Nat := (List.range 16).filter fun c => d.w 3 / 2 ^ c % 2 = 1

/-- A photodiode channel is mapped to a port in SENSE_PDMAP (R497, R507). -/
def State.mappedTo (s : State) (chan p : Nat) : Bool :=
  let i := chan - 8
  decide (8 ≤ chan) && decide (chan ≤ 11) && decide (s.field 0x9020 (4 * i + 2) (4 * i + 2) = 1) &&
    decide (s.field 0x9020 (4 * i + 1) (4 * i) = p)

/-- The checks of R497, after those of R96. -/
def State.photoFail (s : State) (d : Desc) : Option Fail :=
  let p := d.measurePort
  let runs := decide ((s.port p).phase = .running) || decide ((s.port p).phase = .reforming)
  firstFail
    [ failIf (d.channels.any fun c => !(s.mappedTo c p)) (badDesc 3 3),
      failIf (!runs || s.follower p) (badDesc 4 2) ]

/-- A CAL_MEASURE at its start: the electrical one measures and repeats 50 ms later (R495), the photometric one is ready for a
latch instant (R498). -/
def startMeasure (e : Entry) (s : State) : State :=
  if e.desc.calKind = 0 then s.start e.id (.calMeasure [] (some (s.now + msTicks 50)) 0 0 false)
  else s.modEntry e.id fun x => { x with readyAt := some s.now }

/-- Accept a CAL_MEASURE. -/
def State.takeMeasure (s : State) (d : Desc) : State := s.admitStart d (.calMeasure [] none 0 0 false) [] id startMeasure

/-- CAL_MEASURE of kind 0 (R495). -/
def execCalMeasureElectrical (r : Fin 128) (s : State) : Host.Outcome State Fault Refusal :=
  .next (s.withCur r opCalMeasure fun d s => if d.calKind = 0 then s.takeMeasure d else s)

/-- CAL_MEASURE of kind 1 (R497). -/
def execCalMeasurePhotometric (r : Fin 128) (s : State) : Host.Outcome State Fault Refusal :=
  .next (s.withCur r opCalMeasure fun d s =>
    if d.calKind ≠ 1 then s
    else match s.photoFail d with
      | some f => s.reject d f
      | none => s.takeMeasure d)

/-- Readings with at least one entry, so that a measurement without channels is seen to have been made. -/
def someReadings (xs : List CalReading) : List CalReading := if xs = [] then [{ chan := 0, a := 0, b := 0, c := 0 }] else xs

/-- CAL_MEASURE_REPEAT (R495, R498): the first measurement is complete, and the repeat follows 50 ms after its beginning. -/
def State.measureRepeat (s : State) (id : Nat) (xs : List CalReading) : State := match s.entry id with
  | none => s
  | some e => match e.job with
    | .calMeasure [] rep n f0 safe =>
      let ready := if e.desc.calKind = 0 then e.started && due rep s.now else decide (n = 2)
      if ready then s.modEntry id fun x => { x with job := .calMeasure (someReadings xs) rep n f0 safe } else s
    | _ => s

def execCalMeasureRepeat (id : Nat) (first : List CalReading) (s : State) : Host.Outcome State Fault Refusal :=
  .next (s.measureRepeat id first)

/-! ### The tests of R496 and R499 -/

/-- The reading of a channel; zeros when it is missing. -/
def readingOf (xs : List CalReading) (c : Nat) : Nat × Nat × Nat := match xs.find? fun x => decide (x.chan.val = c) with
  | some x => (x.a, x.b, x.c)
  | none => (0, 0, 0)

/-- Distance of two numbers. -/
def gap (a b : Nat) : Nat := max a b - min a b

/-- The window test of an electrical measurement, in sixteenths of an LSB (R496). -/
def electricalWindow (x : Nat × Nat × Nat) : Bool :=
  let g := x.2.2 - x.1
  decide (gap x.1 1024 ≤ 768) && decide (x.1 ≤ x.2.2) && decide (20 * gap g 63488 ≤ 63488) &&
    decide (gap (2 * x.2.1) (x.1 + x.2.2) ≤ 512)

/-- The repeat tests of an electrical measurement (R496). -/
def electricalRepeat (x y : Nat × Nat × Nat) : Bool :=
  let ga := x.2.2 - x.1
  let gb := y.2.2 - y.1
  decide (gap x.1 y.1 ≤ 32) && decide (200 * gap ga gb ≤ gb)

/-- The window test of a photometric pair (R499): black, grey; the least span in LSB. -/
def photoWindow (spanMin : Nat) (x : Nat × Nat × Nat) : Bool :=
  decide (x.1 + 16 * spanMin ≤ x.2.1) && decide (x.1 < 32768)

/-- The repeat tests of a photometric pair (R499). -/
def photoRepeat (x y : Nat × Nat × Nat) : Bool :=
  let sa := x.2.1 - x.1
  let sb := y.2.1 - y.1
  decide (100 * gap sa sb ≤ sb) && decide (100 * gap x.1 y.1 ≤ sb)

/-- The reason and first failing channel of a measurement (R500): the window tests, then the repeat tests. -/
def measureFail (chans : List Nat) (window : Nat × Nat × Nat → Bool) (again : Nat × Nat × Nat → Nat × Nat × Nat → Bool)
    (xs ys : List CalReading) : Option (Nat × Nat) :=
  match chans.find? fun c => !(window (readingOf xs c)) || !(window (readingOf ys c)) with
  | some c => some (2, c)
  | none => (chans.find? fun c => !(again (readingOf xs c) (readingOf ys c))).map fun c => (1, c)

/-! ### Sets (R493, R496, R499) -/

/-- The coefficients through three points (raw, ideal), in the encodings of R502. -/
def fitCoefs (z m f : Rat) : Int × Int × Int :=
  let d1 := (2048 - 64) / (m - z)
  let d2 := (4032 - 2048) / (f - m)
  let c2 := (d2 - d1) / (f - z)
  let c1 := d1 - c2 * (z + m)
  let c0 := 64 - c1 * z - c2 * z * z
  (satInt (rhe (c0 * 2 ^ 8)) (-32768) 32767, satInt (rhe (c1 * 2 ^ 15)) 0 65535, satInt (rhe (c2 * 2 ^ 30)) (-32768) 32767)

/-- The mean of two sums in sixteenths, in LSB. -/
def meanLsb (a b : Nat) : Rat := ((a + b : Nat) : Rat) / 32

/-- The set of a die temperature (R493). -/
def setFor (t : Int) : Nat := if t < 0 then 0 else if t ≤ 70 * 256 then 1 else 2

/-- All 16 coefficients of a set, its factory trim written out. -/
def CalSet.all (c : CalSet) (k : Nat) : List (Int × Int × Int) :=
  (List.range 16).map fun ch => c.coefs.getD ch (Config.factoryTrim k ch 0, Config.factoryTrim k ch 1, Config.factoryTrim k ch 2)

/-- The set with the mask's channels fitted, measured at temperature `t` (R496). -/
def CalSet.fitted (c : CalSet) (k : Nat) (t : Int) (chans : List Nat) (xs ys : List CalReading) : CalSet :=
  { temp := satInt t (-32768) 32767, valid := true
    coefs := (c.all k).mapIdx fun ch old =>
      if chans.contains ch then
        let a := readingOf xs ch
        let b := readingOf ys ch
        fitCoefs (meanLsb a.1 b.1) (meanLsb a.2.1 b.2.1) (meanLsb a.2.2 b.2.2)
      else old }

def State.modData (s : State) (f : StoreData → StoreData) : State := s.modSense fun x => { x with data := f x.data }

/-- An accepted electrical measurement writes its set (R496, R500). -/
def State.keepElectrical (s : State) (e : Entry) (xs ys : List CalReading) : State :=
  let t := (s.die 23).value
  let k := setFor t
  (s.modData fun d => { d with cal := d.cal.mapIdx fun i c => if i = k then c.fitted k t e.desc.channels xs ys else c }).finish
    e.id (stOk, 0) (e.desc.w 3 % 65536) k

/-- An accepted photometric measurement writes the sets of its photodiodes (R499, R500). -/
def State.keepPhoto (s : State) (e : Entry) (f0 : Nat) (xs ys : List CalReading) : State :=
  let set := fun (i : Nat) (old : PhotSet) =>
    if e.desc.channels.contains (8 + i) then
      let a := readingOf xs (8 + i)
      let b := readingOf ys (8 + i)
      { port := e.desc.measurePort, valid := true, grey := s.field 0x900C 23 12, b := rheSat (16 * meanLsb a.1 b.1) 0xFFFF
        s := rheSat (16 * meanLsb (a.2.1 - a.1) (b.2.1 - b.1)) 0xFFFF, temp := s.sense.board.value : PhotSet }
    else old
  (s.modData fun d => { d with phot := d.phot.mapIdx set }).finish e.id (stOk, 0) (e.desc.w 3 % 65536) (f0 % 2 ^ 32)

/-- CAL_REJECT (R500). -/
def State.calReject (s : State) (e : Entry) (detail : Nat) : State :=
  ((s.setBit 0x9010 3).raise (err 0 0x0C 0x07 0 e.desc.calKind detail 0)).finish e.id (stCalReject, detail) 0 0

/-- CAL_MEASURE_DONE (R496, R499, R500): the tests decide. -/
def State.measureDone (s : State) (id : Nat) (ys : List CalReading) : State := match s.entry id with
  | none => s
  | some e => match e.job with
    | .calMeasure (x :: xs) _ n f0 safe =>
      let xs := x :: xs
      let cs := e.desc.channels
      if e.desc.calKind = 0 then
        match measureFail cs electricalWindow electricalRepeat xs ys with
        | some (r, c) => s.calReject e (r * 65536 + c * 256)
        | none => s.keepElectrical e xs ys
      else if n < 4 then s
      else match measureFail cs (photoWindow (s.field 0x900C 11 0)) photoRepeat xs ys with
        | some (r, c) => s.calReject e (r * 65536 + c * 256)
        | none => if safe then s.calReject e (3 * 65536) else s.keepPhoto e f0 xs ys
    | _ => s

def execCalMeasureDone (id : Nat) (second : List CalReading) (s : State) : Host.Outcome State Fault Refusal :=
  .next (s.measureDone id second)

/-! ### The store image (R501, R502) -/

/-- A signed number in `n` bytes. -/
def sBytes (n : Nat) (x : Int) : List Byte := leBytes n (unsignedOf (8 * n) x)

def almIdBytes (a : AlmId) : List Byte :=
  leBytes 4 a.ident ++ leBytes 4 a.size ++ leBytes 2 a.width ++ leBytes 2 a.height ++ leBytes 1 a.np ++ leBytes 3 0

def calSetBytes (k : Nat) (c : CalSet) : List Byte :=
  sBytes 2 c.temp ++ leBytes 1 (bit c.valid) ++ leBytes 1 0 ++
    (c.all k).flatMap fun x => sBytes 2 x.1 ++ sBytes 2 x.2.1 ++ sBytes 2 x.2.2

def photBytes (x : PhotSet) : List Byte :=
  leBytes 1 x.port ++ leBytes 1 (bit x.valid) ++ leBytes 2 x.grey ++ leBytes 2 x.b ++ leBytes 2 x.s ++ sBytes 2 x.temp ++ leBytes 6 0

/-- The body of record `k` (R502). -/
def recordBodyOf (d : StoreData) (k : Nat) : List Byte :=
  if k = 0 then bytesAt (d.alms.flatMap almIdBytes) 0 128
  else if k = 1 then (d.cal.mapIdx calSetBytes).flatten
  else d.phot.flatMap photBytes

/-- Header and body of record `k` (R502). -/
def storeRecord (d : StoreData) (gen k : Nat) : List Byte :=
  let b := recordBodyOf d k
  leBytes 4 0x505C5C01 ++ leBytes 1 k ++ leBytes 1 0 ++ leBytes 2 b.length ++ leBytes 4 gen ++ leBytes 4 0 ++ b

/-- The commit record (R502). -/
def commitBytes (d : StoreData) (gen : Nat) : List Byte :=
  let b := leBytes 4 0x505C5CC1 ++ leBytes 4 gen ++ ((List.range 3).flatMap fun k => leBytes 4 (crc32c gen (storeRecord d gen k))) ++
    leBytes 8 0
  b ++ leBytes 4 (crc32c gen b)

/-- Bytes into flash, where erased bytes read 0xFF (R501). -/
def flashBytes : Tab Byte → Nat → List Byte → Tab Byte
  | t, _, [] => t
  | t, off, b :: bs => flashBytes (tabSet 0xFF t off b) (off + 1) bs

/-- A complete slot (R501). -/
def storeImage (d : StoreData) (gen : Nat) : Tab Byte :=
  let t := (List.range 3).foldl (fun t k =>
    let b := storeRecord d gen k
    flashBytes t (0x200 * k) (b ++ leBytes 4 (crc32c gen b))) []
  flashBytes t 0xFFE0 (commitBytes d gen)

/-- Bytes of a slot. -/
def flashRead (t : Tab Byte) (off n : Nat) : List Byte := (List.range n).map fun i => tabGet 0xFF t (off + i)

/-- The generation of a slot whose commit record passes (R506). -/
def commitGen (t : Tab Byte) : Option Nat :=
  let c := flashRead t 0xFFE0 32
  let gen := leAt c 4 4
  if leAt c 0 4 = 0x505C5CC1 ∧ leAt c 28 4 = crc32c gen (c.take 28) then some gen else none

/-- Sizes of the three bodies (R502). -/
def bodyLen (k : Nat) : Nat := if k = 0 then 128 else if k = 1 then 300 else 64

/-- The three records agree with their commit record (R506). -/
def recordsOk (t : Tab Byte) (gen : Nat) : Bool :=
  (List.range 3).all fun k =>
    let b := flashRead t (0x200 * k) (16 + bodyLen k)
    let crc := crc32c gen b
    decide (leAt (flashRead t (0x200 * k + 16 + bodyLen k) 4) 0 4 = crc) && decide (leAt (flashRead t 0xFFE0 32) (8 + 4 * k) 4 = crc)

/-- The content of a valid slot (R502). -/
def storeContent (t : Tab Byte) : StoreData :=
  let r0 := flashRead t 16 128
  let r1 := flashRead t 0x210 300
  let r2 := flashRead t 0x410 64
  let alm := fun i => ({ ident := leAt r0 (16 * i) 4, size := leAt r0 (16 * i + 4) 4, width := leAt r0 (16 * i + 8) 2
                         height := leAt r0 (16 * i + 10) 2, np := leAt r0 (16 * i + 12) 1 } : AlmId)
  let set := fun i =>
    let o := 100 * i
    let c := fun ch => (signedOf 16 (leAt r1 (o + 4 + 6 * ch) 2), (leAt r1 (o + 6 + 6 * ch) 2 : Int), signedOf 16 (leAt r1 (o + 8 + 6 * ch) 2))
    ({ temp := signedOf 16 (leAt r1 o 2), valid := decide (leAt r1 (o + 2) 1 ≠ 0), coefs := (List.range 16).map c } : CalSet)
  let ph := fun i =>
    let o := 16 * i
    ({ port := leAt r2 o 1, valid := decide (leAt r2 (o + 1) 1 ≠ 0), grey := leAt r2 (o + 2) 2, b := leAt r2 (o + 4) 2
       s := leAt r2 (o + 6) 2, temp := signedOf 16 (leAt r2 (o + 8) 2) } : PhotSet)
  { alms := ((List.range 8).map alm).filter fun a => a.ident ≠ 0 ∨ a.size ≠ 0
    cal := (List.range 3).map set, phot := (List.range 4).map ph }

/-! ### Reading the store (R506) -/

def State.flash (s : State) (slot : Bool) : Tab Byte := if slot then s.sense.flashB else s.sense.flashA

/-- The slot in force: the valid one with the higher generation. -/
def State.bestSlot (s : State) : Option (Bool × Nat) :=
  let valid := fun (b : Bool) => (commitGen (s.flash b)).bind fun g => if recordsOk (s.flash b) g then some (b, g) else none
  match valid false, valid true with
  | some a, some b => if a.2 < b.2 then some b else some a
  | some a, none => some a
  | none, b => b

/-- A newer slot failed only in a record. -/
def State.newerBroken (s : State) (slot : Bool) (gen : Nat) : Bool := match commitGen (s.flash (!slot)) with
  | some g => decide (gen < g) && !(recordsOk (s.flash (!slot)) g)
  | none => false

/-- The Purser reads both slots (R506). -/
def State.readStore (s : State) : State := match s.bestSlot with
  | some (slot, gen) =>
    let d := storeContent (s.flash slot)
    let s := s.modSense fun x => { x with data := d, stored := d, gen := gen, slot := slot }
    if s.newerBroken slot gen then s.raise (err 2 0x0C 0x0A (bit slot) gen 0 0) else s
  | none => (s.modSense fun x => { x with data := StoreData.reset, stored := StoreData.reset, gen := 0, slot := false }).raise
      (err 0 0x0C 0x0B 0 0 0 0)

/-! ### CAL_STORE (R503 to R505) -/

/-- The board sensor permits a flash write (R504). -/
def State.boardInside (s : State) : Bool :=
  let b := s.sense.board
  b.sampled && !b.failed && decide (0 ≤ b.value) && decide (b.value ≤ 85 * 256)

/-- The identity entry of an almanac (R503). -/
def almIdOf (bs : List Byte) : AlmId :=
  { ident := almIdent bs, size := almSize bs, width := almWidth bs, height := almHeight bs, np := almSets bs % 8 + almPhases bs % 4 * 16 }

/-- The list of identities with one put in front (R503). -/
def addAlm (a : AlmId) (l : List AlmId) : List AlmId := (a :: l.filter fun x => x.ident ≠ a.ident).take 8

/-- The content that a CAL_STORE asks for (R503, R504): the named record changed in the pending store, or in the store in force. -/
def State.wanted (s : State) (d : Desc) : StoreData :=
  let base := s.sense.pending.getD s.sense.stored
  if d.f 2 3 0 = 0 then
    match s.objOf (d.w 3) with
    | some o => { base with alms := addAlm (almIdOf (o.read 0 o.layout)) base.alms }
    | none => base
  else if d.f 2 3 0 = 1 then { base with cal := s.sense.data.cal }
  else { base with phot := s.sense.data.phot }

/-- The slot that does not hold the store in force, A when none is (R503). -/
def State.spareSlot (s : State) : Bool := if s.sense.gen = 0 then false else !s.sense.slot

def State.setFlash (s : State) (slot : Bool) (t : Tab Byte) : State :=
  s.modSense fun x => if slot then { x with flashB := t } else { x with flashA := t }

/-- A flash write begins: the spare slot is erased (R503). -/
def State.beginWrite (s : State) (id : Option Nat) (d : StoreData) : State :=
  let slot := s.spareSlot
  (s.setFlash slot []).modSense fun x => { x with writing := some (id, d, slot) }

/-- The pending store is written once the board has read from 2 °C to 83 °C on 10 consecutive samples (R504). -/
def State.tryPending (s : State) : State := match s.sense.pending with
  | some d => if s.sense.writing.isNone ∧ 10 ≤ s.sense.boardRun then s.beginWrite none d else s
  | none => s

/-- A CAL_STORE is deferred (R504): its content becomes the pending store. -/
def State.deferStore (s : State) (id : Nat) (d : StoreData) : State :=
  ((s.modSense fun x => { x with pending := some d, deferred := true }).finish id (stThermalDefer, 0) 0 0).tryPending

/-- A src that is no almanac, or whose identity is not its own (R503). -/
def State.storeSrcFail (s : State) (d : Desc) : Option Fail :=
  if d.f 2 3 0 ≠ 0 then none
  else match s.objOf (d.w 3) with
    | some o =>
      let bs := o.read 0 o.layout
      failIf (decide (bs.length < 256) || decide (bs.length < almSize bs) || decide (almCrc bs ≠ almIdent bs)) (stCheckMismatch, 0)
    | none => none

/-- A CAL_STORE at its start (R503, R504): its snapshot is taken; outside the window it is deferred. -/
def startStore (e : Entry) (s : State) : State :=
  if s.sense.writing.isSome then s
  else match s.storeSrcFail e.desc with
    | some f => s.finish e.id f 0 0
    | none =>
      let d := s.wanted e.desc
      if s.boardInside then (s.start e.id .calStore).beginWrite (some e.id) d else s.deferStore e.id d

/-- CAL_STORE (R503). -/
def execCalStore (r : Fin 128) (s : State) : Host.Outcome State Fault Refusal :=
  .next (s.withCur r opCalStore fun d s =>
    match failIf (decide (d.f 2 3 0 = 0) && decide (((s.objOf (d.w 3)).map (·.cls)) ≠ some 3)) (badDesc 4 3) with
    | some f => s.reject d f
    | none => s.admitStart d .plain [] id startStore)

/-- The write has been committed and verified (R503, R505). -/
def State.commitStore (s : State) (id : Option Nat) (d : StoreData) (slot : Bool) : State :=
  let gen := s.sense.gen + 1
  let s := (s.setFlash slot (storeImage d gen)).modSense fun x =>
    { x with stored := d, gen := gen, slot := slot, pending := none, data := { x.data with alms := d.alms } }
  match id with
  | some i => (s.modSense fun x => { x with deferred := false }).finish i (stOk, 0) gen (bit slot)
  | none => s.raise (err 0 0x0C 0x08 0 gen 0 0)

/-- CAL_STORE_DONE (R503 to R505): how the flash write ended. -/
def State.storeDone (s : State) (out : StoreOutcome) : State := match s.sense.writing with
  | none => s
  | some (id, d, slot) =>
    let s := s.modSense fun x => { x with writing := none }
    let s := match out with
      | .verified => s.commitStore id d slot
      | .failedTwice => match id with
        | some i => (s.modSense fun x => { x with deferred := false }).finish i (stCheckMismatch, det 3 0) 0 0
        | none => (s.modSense fun x => { x with pending := none }).raise (err 2 0x0C 0x09 0 0 0 0)
      | .leftWindow => match id with
        | some i => s.deferStore i d
        | none => s
    s.tryPending

def execCalStoreDone (outcome : StoreOutcome) (s : State) : Host.Outcome State Fault Refusal := .next (s.storeDone outcome)

/-! ### The board sensor (R481, R482, R486, R504) -/

/-- η of the board sensor, 1.008, in u2.14 (R481). -/
def boardTemp (dv : Nat) : Rat := ((dv : Rat) / 4 * 30) / (1008 / 1000 * (24414 / 100)) - 27315 / 100

/-- BOARD_SENSOR_SAMPLE (R504): `dv` as for a remote diode. -/
def State.sampleBoard (s : State) (dv : Nat) : State :=
  let was := s.sense.board.failed
  let b := s.sense.board.take dv (boardTemp dv) s.now
  let b := { b with period := periodOf b.value [0, 85 * 256] }
  let calm := !b.failed && decide (2 * 256 ≤ b.value) && decide (b.value ≤ 83 * 256)
  let s := s.modSense fun x => { x with board := b, boardRun := if calm then min 10 (x.boardRun + 1) else 0 }
  (if b.failed && !was then s.sensorFailed 48 b.value else s).tryPending

def execBoardSensorSample (dv : Nat) (s : State) : Host.Outcome State Fault Refusal :=
  if s.running then .next (s.sampleBoard dv) else .next s

end Sys2Proof.Machine
end

