-- ==== Sys2Proof/Machine/Tally.lean ====
section
/-! DEFINITION. TALLY_JOB on the eight units (R425 to R429, R432). -/

namespace Sys2Proof.Machine

def Desc.poly (d : Desc) : Nat := d.f 2 1 0

/-- The running value a job begins with (R425). -/
def Desc.tallyStart (d : Desc) : Nat :=
  if d.f 2 9 9 = 1 then d.w 8 % 2 ^ crcWidth d.poly else crcFold d.poly (d.w 3)

/-- TALLY_JOB (R425, R427): acceptance; it then waits for a unit. -/
def execTallyJob (r : Fin 128) (s : State) : Host.Outcome State Fault Refusal :=
  .next (s.withCur r opTallyJob fun d s => s.admitNew d .plain [])

/-- The job waits for a unit and nothing else (R429). -/
def State.tallyReady (s : State) (e : Entry) : Bool :=
  decide (e.desc.opcode = opTallyJob) && !e.started && s.noWait e

/-- The lowest-numbered idle unit. -/
def State.idleUnit (s : State) : Option Nat := (List.range 8).find? fun k => !(s.unit k).busy

/-- A job that completes (R428, R432): its completion, the count of jobs, and on a compare mismatch the count, the record
and the message. -/
def State.tallyFinish (s : State) (e : Entry) (f : Fail) (r0 r1 : Nat) : State :=
  let mism := decide (f = (stCheckMismatch, det 1 0))
  let s := s.setReg 0xB004 ((s.reg 0xB004 + 1) % 2 ^ 32)
  let s := if mism then s.count 0xB008 15 0 1 else s
  let s := if mism && !e.muted then s.raise { err 0 0x0B 0x01 e.desc.ring e.desc.seq r1 (e.desc.w 9) with fn := e.fn } else s
  s.finishAt e.id s.tideNs mism f r0 r1

/-- A job takes a unit (R427, R429): an object's bytes are taken as it stands now. -/
def startTally (e : Entry) (k : Nat) (s : State) : State :=
  let d := e.desc
  match s.lostFail d with
  | some f => s.tallyFinish e f 0 0
  | none =>
    let o := if d.w 4 = 0 then none else s.objOf (d.w 4)
    if (o.map (·.invalid)).getD false then s.tallyFinish e (stCheckMismatch, det 2 0) 0 0
    else
      let s := s.setUnit k { busy := true, fn := e.fn, poly := d.poly, run := d.tallyStart }
      let s := s.start e.id (.tally k)
      match o with
      | some o => s.modEntry e.id fun x => { x with work := [(o.handle, writeBytes .zeros [] 0 (o.read (d.w 5) (d.w 7)))] }
      | none => if d.w 7 = 0 then s else s.emit (.readRequest d.fn (d.addr 5) (d.w 7) (.job e.id))

/-- TALLY_JOB_START (R429): units are taken in ledger acceptance order. -/
def execTallyJobStart (id : Nat) (s : State) : Host.Outcome State Fault Refusal :=
  match s.entry id, s.idleUnit with
  | some e, some k =>
    if s.tallyReady e && !((s.before e).any s.tallyReady) then .next (startTally e k s) else .next s
  | _, _ => .next s

/-- The bytes a job checks: of its object as it stood at the start but for what other rings write meanwhile (R429), or of host memory. -/
def State.tallyBytes (s : State) (e : Entry) (data : HostRead) : List Byte :=
  let d := e.desc
  if d.w 4 = 0 then data.bytes.take (d.w 7)
  else match s.objOf (d.w 4) with
    | some o => s.seen e o (d.w 5)
        ((List.range (min (d.w 7) (o.layout - d.w 5))).map fun i => tabGet 0 ((e.work.map (·.2)).headD []) i)
    | none => []

/-- Status and results of a job (R425, R428, R452). -/
def tallyOutcome (d : Desc) (bs : List Byte) (fail : Option ReadFail) (poisonedRead : Bool) : Fail × Nat × Nat :=
  let r := crcRun d.poly d.tallyStart bs
  let fin := r ^^^ crcXorout d.poly
  match fail with
  | some f => (timeoutOf f, 0, 0)
  | none =>
    if poisonedRead then ((stCheckMismatch, det 8 0), r, fin)
    else if bs.length < d.w 7 then ((stTruncated, 0), r, fin)
    else if d.f 2 8 8 = 1 ∧ d.w 9 % 2 ^ crcWidth d.poly ≠ fin then ((stCheckMismatch, det 1 0), r, fin)
    else ((stOk, 0), r, fin)

/-- The storage tiles of the object a job reads. -/
def State.tallyTiles (s : State) (d : Desc) : List Nat := match s.objOf (d.w 4) with
  | some o =>
    if o.cls = 0 then (o.byteTiles (d.w 5) (d.w 7)).map fun i => (((o.newest).map (·.tiles)).getD []).getD i 0
    else o.storageOf (d.w 5) (min (d.w 7) (o.layout - d.w 5))
  | none => []

/-- A job ends on its unit (R428, R432). -/
def State.tallyDone (s : State) (e : Entry) (k : Nat) (data : HostRead) (poisonedRead : Bool) : State :=
  let d := e.desc
  let bs := s.tallyBytes e data
  let o := tallyOutcome d bs (if d.w 4 = 0 then data.fail else none) (poisonedRead && decide (d.w 4 ≠ 0))
  let s := if poisonedRead ∧ d.w 4 ≠ 0 then s.draw.noteUnreadable (s.tallyTiles d) else s.draw
  let s := s.setUnit k { s.unit k with busy := false, run := crcRun d.poly d.tallyStart bs }
  s.tallyFinish e o.1 o.2.1 o.2.2

/-- TALLY_JOB_DONE (R425, R428). -/
def execTallyJobDone (id : Nat) (data : HostRead) (poisonedRead : Bool) (s : State) : Host.Outcome State Fault Refusal :=
  match s.entry id with
  | none => .next s
  | some e => match e.job with
    | .tally k => .next (s.tallyDone e k data poisonedRead)
    | _ => .next s

/-- TALLY_UNIT_READ (R432): a read of TALLY_UNITk captures TALLY_RUNk. -/
def State.captureRun (s : State) (k : Nat) : State :=
  { s with capts := tabPut s.capts (0xB044 + 8 * k) (BitVec.ofNat 32 (s.unit k).run) }

end Sys2Proof.Machine
end

