-- ==== Sys2Proof/Machine/Mirror.lean ====
section
/-! DEFINITION. The standby's side of a redundant pair (19_redundant_pair.md): replaying logged descriptors (R515, R518), applied
points (R523), what a break or a takeover discards (R519, R530), the snapshot (R524), and the takeover itself (R530, R531). -/

namespace Sys2Proof.Machine

def State.modCway (s : State) (f : Cway → Cway) : State := { s with cway := f s.cway }

/-! ### Replays -/

def Replay.desc (r : Replay) : Desc := { ring := r.ring, count := r.slot, words := r.words }

def State.replayOf (s : State) (ring dseq : Nat) : Option Replay :=
  s.cway.replays.find? fun r => decide (r.ring = ring) && decide (r.dseq = dseq)

def State.modReplay (s : State) (ring dseq : Nat) (f : Replay → Replay) : State :=
  s.modCway fun c => { c with replays := c.replays.map fun r => if r.ring = ring ∧ r.dseq = dseq then f r else r }

/-- The ledger entry of a replay. -/
def State.mirror (s : State) (ring dseq : Nat) : Option Entry :=
  s.ledger.find? fun e => e.mirrored && decide (e.desc.ring = ring) && decide (e.desc.seq = dseq)

/-- Descriptors that the standby does not execute (R515). -/
def Desc.sequenceOnly (d : Desc) : Bool :=
  decide (d.opcode = opNop) || decide (d.opcode = opFence) || decide (d.opcode = opWaitTime) || decide (d.opcode = opObjRead) ||
  decide (d.opcode = opTallyJob) || (decide (d.opcode = opCalMeasure) && decide (d.calKind = 1))

/-! ### Acceptance on the standby, in the active's ledger order (R129, R515) -/

/-- STREAM_DECODE: a context of the standby's own. -/
def State.mirrorDecode (s : State) (d : Desc) : State :=
  let free := s.freeCtxs d.flag20
  if free.isEmpty then s
  else
    let m := free.getD (Config.freeIndex s.fresh % free.length) 0
    (s.draw.setCtx m (newCtx d s.nextId)).accept d (.stream m (d.w 2) s.nextId s.nextId (d.w 3)) [d.w 2] true

/-- STREAM_CONTINUE: the context its stream has on the standby. -/
def State.mirrorContinue (s : State) (d : Desc) : State :=
  let st := (d.fn, d.f 2 15 0)
  match s.openCtx st with
  | none => s
  | some (m, c) =>
    let c := c.naming s.nextId d
    (s.setCtx m c).accept d (.stream m c.name c.opener c.nameBy c.nameOff) [c.name] true

/-- SAWYER_LIST with the list as the active read it. -/
def State.mirrorList (s : State) (d : Desc) (bs : List Byte) : State :=
  let cmds := s.listCmds d { bytes := bs, fail := none }
  s.accept d (.sawyer cmds) (listSurfaces d.fn cmds) true

/-- What the DESC record brings about. -/
def State.mirrorDesc (s : State) (d : Desc) : State :=
  let op := d.opcode
  if op = opObjWrite ∨ op = opPlateLoad then s.accept d .plain [d.w 2] true
  else if op = opCalLoad then s.accept d .plain [] true
  else if op = opObjFree then
    (s.accept d .plain [] true).modObj (d.w 2) fun o => { o with freeing := some s.nextId }
  else if op = opStreamDecode then s.mirrorDecode d
  else if op = opStreamContinue then s.mirrorContinue d
  else if op = opModeSet then s.acceptMode d true
  else if op = opCalMeasure then (s.accept d (.calMeasure [] none 0 0 false) [] true).startIf s.nextId startMeasure
  else if op = opCalStore then (s.accept d .plain [] true).startIf s.nextId startStore
  else if op = opTideProgram ∧ d.tideTarget = 12 then (s.accept d .plain [] true).startIf s.nextId startTide
  else if op = opSawyerList ∧ d.w 2 ≠ 0 then s.mirrorList d []
  else s

/-- What a table, a list or a parameter block brings about once its DATA records are complete. -/
def State.mirrorTable (s : State) (d : Desc) (bs : List Byte) : State :=
  let t : HostRead := { bytes := bs, fail := none }
  let op := d.opcode
  if op = opSceneCommit then s.acceptCommit d t true
  else if op = opShepherdUpdate then s.acceptEyes d t true
  else if op = opSignatureExpect then s.acceptSig d t true
  else if op = opSawyerList then s.mirrorList d bs
  else if op = opTideProgram then (s.accept d (.tide (bytesAt bs 0 32)) [] true).startIf s.nextId startTide
  else s

/-- Keep what a takeover would undo of an accepted replay. -/
def State.noteAccepted (s : State) (r : Replay) (before : State) : State :=
  match s.mirror r.ring r.dseq with
  | none => s
  | some e => s.modReplay r.ring r.dseq fun x => { x with
      versions := e.versions
      ctx := match e.job with
        | .stream m _ _ _ _ => some (m, before.ctx m)
        | _ => x.ctx }

/-- A DESC record (R515). -/
def State.takeDesc (s : State) (ring dseq : Nat) (body : List Byte) : State :=
  let r : Replay :=
    { ring := ring, dseq := dseq, slot := leAt body 64 4, words := (List.range 16).map fun i => leAt body (4 * i) 4, data := []
      dataDone := false, result := none, done := none, versions := [], made := none, freed := none, ctx := none }
  let skip := r.desc.sequenceOnly
  let s := s.modCway fun c => { c with replays := c.replays ++ [{ r with result := if skip then some stOk else none }] }
  if skip then s else (s.mirrorDesc r.desc).noteAccepted r s

/-- Put bytes into a replay's data at their offset; offset 0 begins a read anew. -/
def Replay.fill (r : Replay) (off : Nat) (bs : List Byte) (last : Bool) : Replay :=
  let old := if off = 0 then [] else r.data.take off ++ List.replicate (off - r.data.length) 0
  { r with data := old ++ bs, dataDone := last }

/-- A DATA record (R522). -/
def State.takeData (s : State) (ring dseq : Nat) (last : Bool) (body : List Byte) : State :=
  let s := s.modReplay ring dseq fun r => r.fill (leAt body 0 4) (body.drop 4) last
  match s.replayOf ring dseq with
  | none => s
  | some r =>
    if last ∧ (s.mirror ring dseq).isNone ∧ r.result.isNone ∧ r.done.isNone then (s.mirrorTable r.desc r.data).noteAccepted r s
    else s

/-! ### The effect of a replay (R515) -/

/-- Start an entry whatever it would wait for: the active has run it. -/
def State.startNow (s : State) (id : Nat) (f : Entry → State → State) : State := match s.entry id with
  | none => s
  | some e =>
    if e.started then s
    else match s.startFail e with
      | some fl => s.finish id fl 0 0
      | none => f e s

/-- Go on with an entry that is still in the ledger and has started. -/
def State.goOn (s : State) (id : Nat) (f : Entry → State → State) : State := match s.entry id with
  | some e => if e.started then f e s else s
  | none => s

/-- The commands of a replayed list run one after the other; a WAIT_SCAN waits for nothing. -/
def State.replayList (s : State) (e : Entry) : State :=
  let s := forN e.cmds.length (fun k s => match e.cmds[k]? with
    | none => s
    | some c =>
      if c.op = sawWait then s.modCmd e.id k fun x => { x with phase := .done }
      else
        let s := s.modCmd e.id k fun x => { x with phase := .running, upward := x.upwardNow }
        (State.sawRows e.id k c.height s).sawDone e.id k) s
  s.sawFinish e.id

/-- A replayed CAL_LOAD, its sensitivities computed, joins its port's queue or takes effect (R244, R245). -/
def State.replayCal (s : State) (id : Nat) : State :=
  (s.startNow id startCal).goOn id fun e s => match e.job with
    | .calLoad bs h =>
      if (s.port e.desc.calPort).calLoads.contains id ∨ (s.port e.desc.calPort).ray.fadeId = some id then s else s.calReady e bs h
    | _ => s

/-- Run a replay on its logged data. -/
def State.runReplay (s : State) (e : Entry) (data : List Byte) : State :=
  let h : HostRead := { bytes := data, fail := none }
  let op := e.desc.opcode
  if op = opObjWrite then (s.startNow e.id startWrite).goOn e.id fun x s => s.writeDone x h
  else if op = opPlateLoad then
    (s.startNow e.id startLoad).goOn e.id fun x s => match x.job with
      | .load n _ _ => s.loadDone x n h
      | _ => s
  else if op = opSawyerList then (s.startNow e.id (startSawyer h)).goOn e.id fun x s => s.replayList x
  else if op = opCalLoad then s.replayCal e.id
  else if op = opObjFree then s.startNow e.id startFree
  else match e.job with
    | .stream m dst opener namer off => (s.startNow e.id (startStream · m dst opener namer off)).goOn e.id fun x s => s.streamEnd x m dst h
    | _ => s

/-- The places of the tiles an object holds. -/
def State.tilePlaces (s : State) (o : Obj) : List (Nat × Place) := s.harb.places.filter fun e => o.tilesHeld.contains e.1

/-- OBJ_ALLOC with the handle that the DONE record reports; none when its index is in use or there is no room (R515, R519). -/
def State.mirrorAlloc (s : State) (d : Desc) (handle : Nat) : Option State :=
  let i := handleIndex handle
  if (tabFind s.objs i).isSome ∨ (s.allocFails d.fn d.allocTiles).isSome then none
  else
    let s := { s with gens := tabPut s.gens i (handleGen handle) }
    some (s.createAt d.fn i (d.f 2 3 0) (d.f 2 7 4) (d.f 2 15 8) (d.f 3 15 0) (d.f 3 31 16) (d.w 4) d.flag21).2

/-- Take an entry out of every queue; tables bound to its commit go with it (R295). -/
def State.unqueue (s : State) (id : Nat) : State :=
  let s := forN 4 (fun p s =>
    if (s.port p).commits.any fun c => decide (c.id = id) then (s.dropCommit p id).failBound p id else s) s
  let keep := fun (x : Nat) => decide (x ≠ id)
  let strip := fun (_ : Nat) (q : Port) => { q with
    modeQueue := q.modeQueue.filter keep, calLoads := q.calLoads.filter keep
    eyeUpdates := q.eyeUpdates.filter fun u => keep u.id, sigTables := q.sigTables.filter fun t => keep t.id }
  { s with ports := tabMap strip s.ports }

/-- A status whose descriptor has had its effect. -/
def tookEffect (st : Nat) : Bool := decide (st = stOk) || decide (st = stOkLate) || decide (st = stTruncated)

/-- The active reports a failure: the replay's effects are discarded as it requires (R131, R400, R519). -/
def State.replayFailure (s : State) (r : Replay) (st : Nat) : State :=
  match s.mirror r.ring r.dseq with
  | none => s
  | some e =>
    let hs := if spoils st then e.writes else []
    let s := hs.foldl (fun s h => match s.objOf h with
      | some o => s.settle e o st o.content [] []
      | none => s) s
    let s := match e.job with
      | .stream m _ _ _ _ => if spoils st then s.closeCtx m else s
      | _ => s
    (s.unqueue e.id).finish e.id (st, 0) 0 0

/-- Descriptors that take effect at a frame (R515, R518). -/
def Desc.atFrame (d : Desc) : Bool :=
  decide (d.opcode = opSceneCommit) || decide (d.opcode = opModeSet) || decide (d.opcode = opShepherdUpdate) ||
  decide (d.opcode = opSignatureExpect) || decide (d.opcode = opCalLoad)

/-- Descriptors that each unit carries out in its own time (R515). -/
def Desc.ownPace (d : Desc) : Bool :=
  decide (d.opcode = opCalMeasure) || decide (d.opcode = opCalStore) || decide (d.opcode = opTideProgram)

/-- The replay's effect at its DONE record; a MODE_SET of a port that stays stopped has none left. -/
def State.replayEffect (s : State) (r : Replay) (result0 : Nat) : State :=
  let d := r.desc
  if d.opcode = opObjAlloc then
    match s.mirrorAlloc d result0 with
    | some s' => s'.modReplay r.ring r.dseq fun x => { x with result := some stOk, made := some result0 }
    | none => s
  else match s.mirror r.ring r.dseq with
    | none => s
    | some e =>
      if d.opcode = opModeSet then
        if (s.port d.modePort).phase = .stopped ∧ (s.port d.modePort).modeQueue.contains e.id then
          (s.unqueue e.id).finish e.id (stOk, 0) 0 0
        else s
      else if d.opcode = opObjFree then
        let kept := (s.objOf (d.w 2)).map fun o => (o, s.tilePlaces o)
        (s.runReplay e r.data).modReplay r.ring r.dseq fun x => { x with freed := kept }
      else
        let s := match e.job with
          | .stream m _ _ _ _ => s.modReplay r.ring r.dseq fun x => { x with ctx := x.ctx <|> some (m, s.ctx m) }
          | _ => s
        s.runReplay e r.data

/-- The replay has failed although the active's descriptor did not (R519). -/
def State.replayBroken (s : State) (r : Replay) : Bool := match s.replayOf r.ring r.dseq with
  | none => false
  | some x => match x.result with
    | some st => !(tookEffect st)
    | none => !(r.desc.atFrame || r.desc.ownPace)

/-! ### Applied points (R523) -/

/-- The oldest logged descriptor of a ring is fully applied: the point moves past it, its completion record is kept among the last
64 (R534). -/
def State.advanceOne (s : State) (ring : Nat) : State :=
  match s.cway.replays.find? fun r => decide (r.ring = ring) with
  | none => s
  | some r => match r.done with
    | none => s
    | some bs =>
      let mine := (s.cway.recents.filter fun x => x.1 = ring) ++ [(ring, r.slot, bs)]
      s.modCway fun c => { c with
        replays := c.replays.filter fun x => !(decide (x.ring = ring) && decide (x.dseq = r.dseq))
        points := tabPut c.points ring ((r.dseq + 1) % 2 ^ 32)
        recents := (c.recents.filter fun x => x.1 ≠ ring) ++ mine.drop (mine.length - 64) }

/-- Every descriptor that can be counted as fully applied is. -/
def State.advance (s : State) (ring : Nat) : State := forN s.cway.replays.length (fun _ s => s.advanceOne ring) s

/-! ### What is discarded (R519, R530) -/

/-- The effects of one replay are undone: its version numbers, allocation, free, stream context and place in the queues. -/
def State.undo (s : State) (r : Replay) : State :=
  let s := match s.mirror r.ring r.dseq with
    | some e => (s.unqueue e.id).dropEntry e.id
    | none => s
  let s := r.versions.reverse.foldl (fun s v => s.modObj v.1 fun o => { o with
    versions := o.versions.filter fun x => x.num ≠ v.2, given := v.2 - 1 }) s
  let s := match r.made with
    | some h => { s with objs := tabErase s.objs (handleIndex h) }
    | none => s
  let s := match r.freed with
    | some (o, places) =>
      let put := fun (t : Tab Place) (e : Nat × Place) => tabPut t e.1 e.2
      { s.setObj { o with freeing := none, released := false } with
        gens := tabPut s.gens (handleIndex o.handle) (handleGen o.handle), harb := { s.harb with places := places.foldl put s.harb.places } }
    | none => s
  match r.ctx with
  | some (m, c) => if c.open_ then s.setCtx m { c with running := false } else s.closeCtx m
  | none => s

/-- The effects of every descriptor that is not fully applied are discarded, the youngest first (R530 step 2). -/
def State.discardReplays (s : State) : State :=
  let rs := s.cway.replays
  let gone := fun (a : ApplyItem) => rs.any fun r => decide (r.ring = a.ring) && decide (r.dseq = a.dseq)
  let s := rs.reverse.foldl (fun s r => s.undo r) s
  (s.modCway fun c => { c with replays := [], applyQ := c.applyQ.filter fun a => !(gone a) }).sweep

/-- The mirror breaks on the standby (R519): it becomes STANDBY-STALE. -/
def State.breakMirror (s : State) : State :=
  if s.cway.role = .mirrored ∨ s.cway.role = .catchup then ((s.count 0x701C 31 16 1).discardReplays).becomeStale else s

/-- A DONE record (R515, R519, R523). -/
def State.takeDone (s : State) (ring dseq : Nat) (body : List Byte) : State :=
  match s.replayOf ring dseq with
  | none => s
  | some r =>
    let st := leAt body 4 4 % 4096
    let s := if r.desc.sequenceOnly then s
      else if tookEffect st then s.replayEffect r (leAt body 20 4) else s.replayFailure r st
    if (decide (st = stOk) || decide (st = stOkLate)) && s.replayBroken r then s.breakMirror
    else (s.modReplay ring dseq fun x => { x with done := some (body.take 32) }).advance ring

/-! ### APPLY (R518) -/

/-- Entries of a queue up to the one that an APPLY record names. -/
def State.upTo (s : State) (a : ApplyItem) (ids : List Nat) : List Nat :=
  ids.take (((indexed ids).find? fun x => s.names a x.2).map (fun x => x.1 + 1) |>.getD 0)

/-- A stopped port's mirrored start: its timing generators run from now on, the frame numbered as the active's (R511, R518). -/
def State.mirrorStart (s : State) (p frame id : Nat) (d : Desc) : State :=
  let ps := gangPorts p d.gangMask
  let s := ps.foldl (fun s q => s.modPort q fun x => { x with phase := .starting, gang := d.gangMask, acked := true, modeWait := none }) s
  let s := s.modPort p fun x => { x with
    modeNext := some (d.mode, d.gangMask), startId := some id, stopNext := none, changeDue := false, frame := frame - 1 }
  let s := ps.foldl (fun s q => if (s.port q).link.trained then s else s.startTraining q) s
  (s.begun id).leadIn p

/-- The MODE_SET that starts a stopped port, and those it supersedes (R323). -/
def State.applyStart (s : State) (a : ApplyItem) : State :=
  let ids := s.upTo a (s.port a.port).modeQueue
  match ids.getLast? with
  | none => s
  | some id => match s.entry id with
    | none => s
    | some e =>
      let s := s.modPort a.port fun q => { q with modeQueue := q.modeQueue.drop ids.length }
      let s := ids.dropLast.foldl (fun s i => s.finish i (stOk, 2) 0 0) s
      s.mirrorStart a.port a.frame id e.desc

/-- An APPLY record (R518): the change waits for the latch instant of its frame; what it needs is got ready now. -/
def State.takeApply (s : State) (ring dseq : Nat) (body : List Byte) : State :=
  let a : ApplyItem := { port := leAt body 0 1 % 4, kind := leAt body 1 1, frame := leAt body 4 8, ring := ring, dseq := dseq }
  let s : State := match a.kind with
    | 0 => (s.upTo a ((s.port a.port).commits.map (fun (c : Commit) => c.id))).foldl (fun (s : State) (id : Nat) =>
        match (s.port a.port).commits.find? fun c => c.id = id with
        | some c => if c.pin = .waiting then s.setPin id (s.pinTone c.tone) else s
        | none => s) s
    | 2 => match s.mirror ring dseq with
      | some e => s.replayCal e.id
      | none => s
    | _ => s
  if a.kind = 1 ∧ (s.port a.port).phase = .stopped then s.applyStart a
  else s.modCway fun c => { c with applyQ := c.applyQ ++ [a] }

/-! ### The snapshot (R524) -/

/-- A standby begins to catch up: its own objects and replays make way for the active's. -/
def State.clearForSnapshot (s : State) : State :=
  let s := s.discardReplays
  { s with objs := s.objs.filter fun e => e.1 = 0 }.sweep

/-- A descriptor in flight on the active, with the number it takes here. -/
def snapEntry (base : Nat) (x : Nat × Entry) : Entry := { x.2 with id := base + x.1, mirrored := true, muted := false }

def shiftCommit (base : Nat) (c : Commit) : Commit := { c with id := base + c.id }
def shiftEyes (base : Nat) (u : EyeUpdate) : EyeUpdate := { u with id := base + u.id }
def shiftTable (base : Nat) (t : SigTable) : SigTable := { t with id := base + t.id, boundTo := t.boundTo.map (base + ·) }

/-- A port as a SNAPSTATE record gives it: link, pins, monitored content of the Watch port and what is being sent stay the unit's own
(R516, R517); descriptors in its queues are counted by their place in the snapshot. -/
def State.snapPort (s : State) (p base : Nat) (x : Port) : Port :=
  let own := s.port p
  let mine := fun (r : Nat × Region) => s.watchSourced p r.1
  { x with
    link := own.link, prot := own.prot, wpWrites := own.wpWrites
    regions := ((own.regions.filter mine) ++ x.regions.filter fun r => !(mine r)).foldl (fun t r => tabPut t r.1 r.2) []
    commits := x.commits.map (shiftCommit base)
    modeQueue := x.modeQueue.map (base + ·), calLoads := x.calLoads.map (base + ·)
    eyeUpdates := x.eyeUpdates.map (shiftEyes base)
    sigTables := x.sigTables.map (shiftTable base)
    ray := { x.ray with fadeId := x.ray.fadeId.map (base + ·) }, startId := x.startId.map (base + ·)
    rows := [], witTiles := [], witLeft := [], lead := [], line := none, records := [], capture := none, capDone := none
    frames := [], modeWait := none, measure := none }

/-- The state outside objects is taken from a SNAPSTATE record (R522, log 12). -/
def State.takeState (s : State) (bs : List Byte) : State :=
  let base := s.nextId
  let es := (indexed (Config.snapEntries bs)).map (snapEntry base)
  let s := forN 4 (fun p s => match Config.snapPort bs p with
    | some x => s.setPort p (s.snapPort p base x)
    | none => s) s
  let s := forN 20 (fun m s => match Config.snapCtx bs m with
    | some c => s.setCtx m c
    | none => s) s
  let points := (List.range 128).map fun r => (r, Config.snapNext bs r % 2 ^ 32)
  { s with ledger := s.ledger ++ es, nextId := base + es.length }.modCway fun c => { c with points := points }

/-- A SNAPSTATE record: the first opens the snapshot, the next one ends it (R524). -/
def State.takeSnapstate (s : State) (body : List Byte) : State :=
  if s.cway.role ≠ .catchup then s
  else
    let first := decide (s.cway.finalStates = 0)
    let s := if first then s.clearForSnapshot else s
    let s := (s.takeState body).modCway fun c => { c with finalStates := c.finalStates + 1, snapObjs := if first then [] else c.snapObjs }
    s.tryMirrored

/-- A SNAPOBJ record's body (R522, log 41). -/
def snapObjBytes (o : Obj) : List Byte :=
  leBytes 4 o.handle ++ leBytes 1 o.cls ++ leBytes 1 o.hint ++ leBytes 1 o.format ++ leBytes 1 (bit o.invalid) ++
  leBytes 2 o.width ++ leBytes 2 o.height ++ leBytes 4 o.size ++ leBytes 4 ((o.newest.map (·.num)).getD 0) ++ List.replicate 12 0

/-- A SNAPOBJ record: the object is allocated; one that finds no room breaks the mirror (R519, R524). -/
def State.takeSnapobj (s : State) (b : List Byte) : State :=
  let h := leAt b 0 4
  let cls := leAt b 4 1
  let n := tileCount cls (leAt b 6 1) (leAt b 8 2) (leAt b 10 2) (leAt b 12 4)
  let num := leAt b 16 4
  if s.cway.role ≠ .catchup then s
  else if (tabFind s.objs (handleIndex h)).isSome ∨ (s.allocFails (handleFn h) n).isSome then s.breakMirror
  else
    let s := { s with gens := tabPut s.gens (handleIndex h) (handleGen h) }
    let s := (s.createAt (handleFn h) (handleIndex h) cls (leAt b 5 1) (leAt b 6 1) (leAt b 8 2) (leAt b 10 2) (leAt b 12 4) false).2
    let s := s.modObj h fun o => { o with
      invalid := decide (leAt b 7 1 % 2 = 1), given := max 1 num
      versions := o.versions.map fun v => { v with num := if cls = 0 then num else 0 } }
    s.modCway fun c => { c with snapObjs := c.snapObjs ++ [h] }

/-- A SNAP record: bytes of an object's host layout; the last of an object completes its content and its opacity map (R524). -/
def State.takeSnap (s : State) (last : Bool) (b : List Byte) : State :=
  if s.cway.role ≠ .catchup then s
  else s.modObj (leAt b 0 4) fun o =>
    let off := leAt b 4 4
    let bs := (b.drop 8).take (o.layout - off)
    let put := fun (v : Version) => { v with bytes := writeBytes o.fill v.bytes off bs, unwritten := if last then [] else v.unwritten }
    let o' := { o with versions := o.versions.map put }
    if last ∧ o.cls = 0 then { o' with versions := o'.versions.map fun v => { v with opacity := o'.opacityMap v } } else o'

/-! ### Takeover (R528 to R531) -/

/-- Changes that fully applied descriptors still wait for take effect at the next latch instant. -/
def State.forceItem (s : State) (a : ApplyItem) : State :=
  let now := fun (id : Nat) (s : State) => s.modEntry id fun e => { e with readyAt := some 0 }
  let q := s.port a.port
  if a.kind = 0 then
    let ids := s.upTo a (q.commits.map (·.id))
    let f := fun (c : Commit) => if ids.contains c.id then { c with readyAt := some 0, target := none } else c
    s.modPort a.port fun q => { q with commits := q.commits.map f }
  else if a.kind = 1 ∨ a.kind = 5 then (s.upTo a q.modeQueue).foldl (fun s id => now id s) s
  else if a.kind = 2 then (s.upTo a q.calLoads).foldl (fun s id => now id s) s
  else s

/-- The lanes of every running port leave L2 (R530 step 4). -/
def State.wakeRunning (s : State) : State :=
  forN 4 (fun p s =>
    let q := s.port p
    if (s.port (s.lead p)).phase ≠ .stopped ∧ q.link.trained ∧ q.link.power ≠ .l0 ∧ q.link.wakeTo = none then s.wake p else s) s

/-- The takeover (R530). -/
def State.takeover (s : State) (cause : Nat) : State :=
  let last := s.cway.applied
  let s := (s.setReg 0x7014 last).count 0x701C 15 0 1
  let s := s.setReg 0x7018 (Config.takeoverGap (s.field 0x701C 15 0) % 65536 * 65536 + cause)
  let s := s.discardReplays
  let s := s.cway.applyQ.foldl (fun s a => s.forceItem a) s
  let s := s.modCway fun c => { c with applyQ := [], logging := false, log := [], snapDone := false, finalStates := 0 }
  let s := forN 128 (fun r s => s.modRing r fun x => { x with afterTakeover := true }) s
  (s.wakeRunning.takeRole .active).raise (err 2 0x0E 0x03 0 last cause 0)

/-- A trigger on a unit that may not claim: reported, with FAULT_N whatever the policy (R531). -/
def State.cannotClaim (s : State) (cause : Nat) : State := s.raiseCore true (err 2 0x0E 0x06 0 s.cway.role.code cause 0)

/-- A takeover trigger (R512, R528, R531): cause 1 heartbeat, 2 fault, 3 resign. -/
def State.trigger (s : State) (cause : Nat) : State := match s.cway.role with
  | .mirrored => s.takeover cause
  | .catchup => (s.discardReplays.becomeStale).cannotClaim cause
  | .stale => s.cannotClaim cause
  | _ => s

end Sys2Proof.Machine
end

