-- ==== Sys2Proof/Machine/Causeway.lean ====
section
/-! DEFINITION. The Causeway (19_redundant_pair.md): the link between two units (R509), the heartbeat (R510), roles (R512), the
power-on transmit test (R513), records and timers (R520 to R524), resignation (R529) and what host software commands of a pair. -/

namespace Sys2Proof.Machine

/-! ### Records sent -/

/-- A record that belongs to no descriptor (R521). -/
def State.sendPlain (s : State) (type : Nat) (body : List Byte) : State := s.cwaySend type false 0xFF 0 body

/-- The sequence number of the last record sent. -/
def Cway.lastSent (c : Cway) : Nat := (c.sendSeq + 2 ^ 32 - 1) % 2 ^ 32

/-- HELLO (R522): a unit whose role is not decided gives role code 7, which is no role (log 42). -/
def State.helloBody (s : State) : List Byte :=
  leBytes 2 (s.reg 0x7028) ++ leBytes 1 (bit s.power.rolePref) ++ leBytes 1 (if s.formed then s.cway.role.code else 7) ++
    leBytes 1 0xB0 ++ leBytes 1 (bit s.cway.testDone)

def State.sendHello (s : State) : State :=
  (s.modCway fun c => { c with helloAt := some (s.now + msTicks 10) }).sendPlain 0x11 s.helloBody

/-- ACK (R522): the last record received intact, the last applied, the role. -/
def State.sendAck (s : State) : State :=
  (s.modCway fun c => { c with ackAt := some (s.now + usTicks 100) }).sendPlain 0x10
    (leBytes 4 (s.cway.recvSeq.getD 0) ++ leBytes 4 s.cway.applied ++ leBytes 1 s.cway.role.code)

/-- BREAK is sent once the buffer has space again (R520): it names the last record logged. -/
def State.sendBreak (s : State) : State :=
  if s.cway.breakDue then
    let last := (s.cway.log.getLast?.map (·.1)).getD s.cway.lastSent
    (s.modCway fun c => { c with breakDue := false }).sendPlain 0x09 (leBytes 4 last)
  else s

/-! ### The link (R509) -/

/-- The Causeway comes up: HELLO goes out at once (R522), and records are taken anew (R523). -/
def State.cwayComesUp (s : State) : State :=
  let phase := if s.cway.txLanes = 3 ∧ s.cway.rxLanes = 3 then 3 else 2
  let was := s.cwayUp
  let s := s.modCway fun c => { c with linkPhase := phase }
  if was then s
  else (s.modCway fun c => { c with heard := some s.now, recvSeq := none, discarding := false, ackAt := some s.now }).sendHello

/-- The Causeway goes down (R509, R519, R535): the mirror breaks, and an active unit sets peer_lost and goes on without its log. -/
def State.cwayGoesDown (s : State) : State :=
  let s := s.modCway fun c => { c with
    linkPhase := 0, txLanes := 0, rxLanes := 0, heard := none, idleAt := none, ackAt := none, helloAt := none, recvSeq := none
    discarding := false, ackRole := 0, placed := c.tx.length }
  match s.cway.role with
  | .active => ((s.setBit 0x7004 4).breakLog).modCway fun c => { c with breakDue := false, log := [] }
  | _ => s.breakMirror

/-- CAUSEWAY_DOWN (R509): no valid record for 1 ms. -/
def execCausewayDown (s : State) : Host.Outcome State Fault Refusal :=
  if s.cwayUp && due (s.cway.heard.map (· + msTicks 1)) s.now then .next s.cwayGoesDown else .next s

/-- A lane of a direction loses lock (R509): the direction runs on the other lane, or the Causeway goes down. -/
def State.cwayLaneLost (s : State) (receive : Bool) (lane : Nat) : State :=
  let drop := fun (m : Nat) => if m / 2 ^ lane % 2 = 1 then m - 2 ^ lane else m
  let s := s.modCway fun c => if receive then { c with rxLanes := drop c.rxLanes } else { c with txLanes := drop c.txLanes }
  if s.cway.rxLanes = 0 ∨ s.cway.txLanes = 0 then s.cwayGoesDown else s.modCway fun c => { c with linkPhase := 2 }

/-- CAUSEWAY_LANE_LOST (R509). -/
def execCausewayLaneLost (receive : Bool) (lane : Fin 2) (s : State) : Host.Outcome State Fault Refusal :=
  if s.cwayUp then .next (s.cwayLaneLost receive lane) else .next s

/-! ### Records received (R521 to R523) -/

/-- The record's header fields. -/
def recSeq (bs : List Byte) : Nat := leAt bs 0 4
def recType (bs : List Byte) : Nat := leAt bs 4 1
def recLast (bs : List Byte) : Bool := decide (leAt bs 5 1 % 2 = 1)
def recRing (bs : List Byte) : Nat := leAt bs 8 1
def recDseq (bs : List Byte) : Nat := leAt bs 12 4

/-- The unit applies the peer's log. -/
def State.mirrors (s : State) : Bool := decide (s.cway.role = .mirrored) || decide (s.cway.role = .catchup)

/-- A gap in the sequence numbers (R519). -/
def State.seqGap (s : State) (bs : List Byte) : Bool := s.mirrors && (match s.cway.recvSeq with
  | some n => decide (recSeq bs ≠ (n + 1) % 2 ^ 32)
  | none => false)

/-- A record of a type arrives while the Causeway is up. One that is intact is heard, and taken in sequence; on a standby, a broken one
and all after it are discarded until the Causeway retrains (R523). -/
def State.onRecord (s : State) (type : Nat) (bs : List Byte) (f : State → State) : State :=
  if !s.running || !s.cwayUp || s.cway.discarding || decide (recType bs ≠ type) then s
  else if !(recordOk bs) then (if s.mirrors then s.modCway fun c => { c with discarding := true } else s)
  else
    let gap := s.seqGap bs
    let s := s.modCway fun c => { c with heard := some s.now, recvSeq := some (recSeq bs) }
    if gap then s.breakMirror else (f s).modCway fun c => { c with applied := recSeq bs }

/-- A record of the log: only a unit that mirrors applies it (R515). -/
def State.onLog (s : State) (type : Nat) (bs : List Byte) (f : State → State) : State :=
  s.onRecord type bs fun s => if s.mirrors then f s else s

/-- IDLE (R522). -/
def execIdleRecord (record : List Byte) (s : State) : Host.Outcome State Fault Refusal := .next (s.onRecord 0x00 record id)

/-- DESC (R515). -/
def execDescRecord (record : List Byte) (s : State) : Host.Outcome State Fault Refusal :=
  .next (s.onLog 0x01 record fun s => s.takeDesc (recRing record) (recDseq record) (recordBody record))

/-- DATA (R522). -/
def execDataRecord (record : List Byte) (s : State) : Host.Outcome State Fault Refusal :=
  .next (s.onLog 0x02 record fun s => s.takeData (recRing record) (recDseq record) (recLast record) (recordBody record))

/-- DONE (R519, R523). -/
def execDoneRecord (record : List Byte) (s : State) : Host.Outcome State Fault Refusal :=
  .next (s.onLog 0x03 record fun s => s.takeDone (recRing record) (recDseq record) (recordBody record))

/-- APPLY (R518). -/
def execApplyRecord (record : List Byte) (s : State) : Host.Outcome State Fault Refusal :=
  .next (s.onLog 0x04 record fun s => s.takeApply (recRing record) (recDseq record) (recordBody record))

/-- The register writes of a REG record, whatever SETUP_LOCK says here (R516, R570). -/
def State.takeRegs (s : State) (body : List Byte) : State :=
  forN (body.length / 8) (fun i s =>
    let off := leAt body (8 * i) 4
    if mirroredReg off ∧ off % 4 = 0 then s.writeMirrored false off (leAt body (8 * i + 4) 4) else s) s

/-- REG (R516). -/
def execRegRecord (record : List Byte) (s : State) : Host.Outcome State Fault Refusal :=
  .next (s.onLog 0x05 record fun s => s.takeRegs (recordBody record))

/-- SNAPOBJ (R524). -/
def execSnapobjRecord (record : List Byte) (s : State) : Host.Outcome State Fault Refusal :=
  .next (s.onLog 0x06 record fun s => s.takeSnapobj (recordBody record))

/-- SNAP (R524). -/
def execSnapRecord (record : List Byte) (s : State) : Host.Outcome State Fault Refusal :=
  .next (s.onLog 0x07 record fun s => s.takeSnap (recLast record) (recordBody record))

/-- SNAPSTATE (R524). -/
def execSnapstateRecord (record : List Byte) (s : State) : Host.Outcome State Fault Refusal :=
  .next (s.onLog 0x08 record fun s => s.takeSnapstate (recordBody record))

/-- BREAK (R519). -/
def execBreakRecord (record : List Byte) (s : State) : Host.Outcome State Fault Refusal :=
  .next (s.onLog 0x09 record fun s => s.breakMirror)

/-- FAULT (R528, R531): the peer's record is reported here; FATAL, or DEGRADED with takeover_degraded set, is a takeover trigger. -/
def State.takeFault (s : State) (b : List Byte) : State :=
  let sev := leAt b 0 1 % 4
  let s := s.raise (err 0 0x0E 0x05 sev (leAt b 1 4) (leAt b 5 4) 0)
  if sev = 3 ∨ (sev = 2 ∧ s.field 0x7000 1 1 = 1) then s.trigger 2 else s

def execFaultRecord (record : List Byte) (s : State) : Host.Outcome State Fault Refusal :=
  .next (s.onRecord 0x0A record fun s => s.takeFault (recordBody record))

/-- RESIGN (R528). -/
def execResignRecord (record : List Byte) (s : State) : Host.Outcome State Fault Refusal :=
  .next (s.onRecord 0x0B record fun s => s.trigger 3)

/-! ### The snapshot sent (R524) -/

/-- The SNAP records of an object. -/
def State.sendContent (s : State) (o : Obj) : State :=
  let n := max 1 (ceilDiv o.layout logChunk)
  forN n (fun i s => s.cwaySend 0x07 (decide (i + 1 = n)) 0xFF 0
    (leBytes 4 o.handle ++ leBytes 4 (logChunk * i) ++ o.read (logChunk * i) logChunk)) s

/-- SNAPSTATE (R522, log 12). -/
def State.sendState (s : State) : State := s.sendPlain 0x08 (Config.snapState s.cway.sendSeq)

/-- The active begins to log and sends the whole snapshot: every allocated object as it stands at its SNAPOBJ record (R524). -/
def State.startSnapshot (s : State) : State :=
  let s := (s.modCway fun c => { c with logging := true, breakDue := false, log := [] }).sendState
  let s := (s.objs.map (·.2)).foldl (fun s o =>
    if o.released then s else (s.sendPlain 0x06 (snapObjBytes o)).sendContent o) s
  s.sendState

/-- A peer that catches up and is not being logged for gets its snapshot; in an ebb slot the bulk copy does not begin (R488). -/
def State.serveCatchup (s : State) (peerRole : Nat) : State :=
  if s.cway.role = .active ∧ peerRole = 3 ∧ ¬ s.cway.logging ∧ s.cwayUp ∧ !(s.inEbb .causeway) then s.startSnapshot else s

/-! ### Resignation (R529) -/

/-- A unit that has resigned drives no glass and its rings are DISABLED (R120, R511); what was not complete is the new active's. -/
def State.standDown (s : State) (r : Role) : State :=
  let ids := s.ledger.map (·.id)
  let s := ids.foldl (fun s id => (s.unqueue id).dropEntry id) s
  let cut := fun (_ : Nat) (q : Port) => { q with rows := [], witTiles := [], witLeft := [], startId := none }
  let s := { s with shuttles := [], ports := tabMap cut s.ports }
  let s := forN 4 (fun p s => if (s.port p).link.power = .l2 then s else s.enterPower p .l2) s
  ((s.modCway fun c => { c with
    resign := none, resigning := false, logging := false, log := [], recvSeq := none, replays := [], applyQ := [], finalStates := 0
    ackAt := some s.now }).takeRole r).sweep

/-- Steps 3 to 5 of a resignation. -/
def State.finishResign (s : State) (r : Role) : State :=
  let s := s.sendPlain 0x0B (leBytes 4 s.cway.lastSent)
  (forN 4 (fun p s => s.resignLease p) s).standDown r

/-- The standby has applied every record (R529 step 2). -/
def State.resignReady (s : State) : Bool := s.cway.resigning && decide (s.cway.acked = s.cway.lastSent)

/-- A write of resign (R529). -/
def State.cwayResign (s : State) : State :=
  if s.cway.role = .active ∧ s.cway.ackRole = 2 ∧ s.cwayUp then
    s.modCway fun c => { c with resigning := true, resign := some (s.now + msTicks 10) }
  else s.setBit 0x7004 5

def execCwayResign (s : State) : Host.Outcome State Fault Refusal := if s.running then .next s.cwayResign else .next s

/-- RESIGN_WAIT_TIMEOUT (R529): the wait ends by time. -/
def execResignWaitTimeout (s : State) : Host.Outcome State Fault Refusal :=
  if s.cway.resigning && due s.cway.resign s.now then .next (s.finishResign .stale) else .next s

/-- ACK (R520, R522, R529): the log buffer is freed up to the last record received intact. -/
def State.takeAck (s : State) (b : List Byte) : State :=
  if s.cway.role ≠ .active then s
  else
    let got := leAt b 0 4
    let later := fun (x : Nat × List Byte) => decide (0 < (x.1 + 2 ^ 32 - got) % 2 ^ 32) && decide ((x.1 + 2 ^ 32 - got) % 2 ^ 32 < 2 ^ 31)
    let s := s.modCway fun c => { c with log := c.log.filter later, acked := leAt b 4 4, ackRole := leAt b 8 1 }
    let s := (s.setReg 0x7010 (leAt b 4 4)).setField 0x7008 15 0 (satNat (ceilDiv s.logFill 1024) 65535)
    let s := s.sendBreak
    if s.resignReady then s.finishResign .mirrored else s.serveCatchup (leAt b 8 1)

def execAckRecord (record : List Byte) (s : State) : Host.Outcome State Fault Refusal :=
  .next (s.onRecord 0x10 record fun s => s.takeAck (recordBody record))

/-! ### HELLO and the forming of a pair (R512, R513) -/

/-- The role that a forming unit takes when it has the peer's HELLO (R512). -/
def formingRole (ownPref peerPref : Bool) (peerRole : Nat) : Role :=
  if ownPref = peerPref then .solo else if peerRole ≤ 1 ∨ !ownPref then .catchup else .active

/-- The forming unit's role is decided (R512); its transmit test begins at once on the preferred unit (R513). -/
def State.form (s : State) : State :=
  let r := formingRole s.power.rolePref s.cway.peerPref s.cway.peerRole
  let s := (s.modCway fun c => { c with
    helloBy := none, ackAt := some s.now
    testAt := if r = .solo ∨ s.power.rolePref then none else some (s.now + msTicks 50) }).takeRole r
  let s := if r ≠ .solo ∧ s.power.rolePref then s.startPosts else s
  s.bootStart.kickAll

/-- HELLO (R512, R513, R522). -/
def State.takeHello (s : State) (b : List Byte) : State :=
  let s := s.modCway fun c => { c with
    helloDone := true, peerPref := decide (leAt b 2 1 ≠ 0), peerRole := leAt b 3 1 % 8, peerTest := leAt b 5 1 }
  let s := if s.cway.helloBy.isSome then s.form
    else if s.cway.role = .solo ∧ s.paired ∧ s.power.rolePref ≠ s.cway.peerPref ∧ 2 ≤ s.cway.peerRole then s.takeRole .active
    else s
  let s := if s.cway.testAt.isSome ∧ s.cway.peerTest ≠ 0 ∧ ¬ s.cway.testing then s.startPosts else s
  s.serveCatchup s.cway.peerRole

def execHelloRecord (record : List Byte) (s : State) : Host.Outcome State Fault Refusal :=
  .next (s.onRecord 0x11 record fun s => s.takeHello (recordBody record))

/-- PAIR_HELLO_TIMEOUT (R512): no HELLO within 500 ms decides for SOLO. -/
def execPairHelloTimeout (s : State) : Host.Outcome State Fault Refusal :=
  if due s.cway.helloBy s.now then
    .next (((s.modCway fun c => { c with helloBy := none }).takeRole .solo).bootStart.kickAll)
  else .next s

/-- POWER_ON_TRANSMIT_TEST (R513): 50 ms after the HELLO exchange the second unit tests. -/
def execPowerOnTransmitTest (s : State) : Host.Outcome State Fault Refusal :=
  if due s.cway.testAt s.now && !s.cway.testing then .next s.startPosts else .next s

/-- A request of a TRAIN record for a lane's taps, within their limits, or for precoding while training (R342, R362, R364). -/
def Cway.trainRequest (c : Cway) (lane req : Nat) : Cway :=
  let set (f : Nat × Nat → Nat × Nat) : Cway := { c with taps := c.taps.mapIdx fun i t => if i = lane then f t else t }
  let ask (b : Bool) : Cway := if c.wire.phase = .training then { c with wire := { c.wire with precodeNext := some b } } else c
  match req with
  | 1 => set fun t => (min 16 (t.1 + 1), t.2)
  | 2 => set fun t => (t.1 - 1, t.2)
  | 3 => set fun t => (t.1, min 24 (t.2 + 1))
  | 4 => set fun t => (t.1, t.2 - 1)
  | 6 => ask true
  | 7 => ask false
  | _ => c

/-- TRAIN (R509, R522): the peer reports locks of this unit's transmit lanes; with all three locks a lane carries data. The record
itself has come over the other direction. -/
def State.takeTrainRecord (s : State) (b : List Byte) : State :=
  let lane := leAt b 0 1
  let s := s.modCway fun c => { c.trainRequest lane (leAt b 1 1) with
    linkPhase := max 1 c.linkPhase, rxLanes := if c.rxLanes = 0 then 3 else c.rxLanes
    txLanes := if lane < 2 ∧ leAt b 2 1 % 8 = 7 ∧ c.txLanes / 2 ^ lane % 2 = 0 then c.txLanes + 2 ^ lane else c.txLanes }
  if s.cway.txLanes = 0 then s else s.cwayComesUp

def execTrainRecord (record : List Byte) (s : State) : Host.Outcome State Fault Refusal :=
  if s.running && s.paired && decide (s.power.boot = .configured) && recordOk record && decide (recType record = 0x12) then
    .next ((if s.cwayUp then s.onRecord 0x12 record id else s).takeTrainRecord (recordBody record))
  else .next s

/-! ### Timers (R510, R522) -/

/-- CAUSEWAY_IDLE_TIMER (R522): 100 µs without a record sent. -/
def execCausewayIdleTimer (s : State) : Host.Outcome State Fault Refusal :=
  if due s.cway.idleAt s.now then .next (s.sendPlain 0x00 []) else .next s

/-- ACK_TIMER (R522): every 100 µs on a standby. -/
def execAckTimer (s : State) : Host.Outcome State Fault Refusal :=
  if s.cway.role.standby && s.cwayUp && due s.cway.ackAt s.now then .next s.tryMirrored.sendAck else .next s

/-- HELLO_TIMER (R522): every 10 ms. -/
def execHelloTimer (s : State) : Host.Outcome State Fault Refusal :=
  if s.cwayUp && due s.cway.helloAt s.now then .next s.sendHello else .next s

/-- PEER_OK_TOGGLE (R510): every 500 µs while the Purser runs and the unit is not FAILED. -/
def execPeerOkToggle (s : State) : Host.Outcome State Fault Refusal :=
  if s.power.purserUp && decide (s.cway.role ≠ .failed) && due s.cway.okNext s.now then
    .next (s.modCway fun c => { c with okOut := !c.okOut, okNext := some (s.now + usTicks 500) })
  else .next s

/-- An edge of PEER_OK_IN (R510); two edges less than 1 µs apart are a pulse that does not count. -/
def Cway.peerOk (c : Cway) (now : Nat) : Cway :=
  if (c.peerRaw.map fun t => decide (now < t + usTicks 1)).getD false then
    { c with heartbeat := c.peerPrev.isSome, peerEdge := c.peerPrev, peerRaw := none }
  else { c with heartbeat := true, peerPrev := if c.heartbeat then c.peerEdge else none, peerEdge := some now, peerRaw := some now }

/-- PEER_OK_IN_EDGE (R510). -/
def execPeerOkInEdge (s : State) : Host.Outcome State Fault Refusal :=
  if s.running then .next (s.modCway fun c => c.peerOk s.now) else .next s

/-- HEARTBEAT_LOST (R510, R528): 1 ms without an edge. -/
def execHeartbeatLost (s : State) : Host.Outcome State Fault Refusal :=
  if s.cway.heartbeat && due (s.cway.peerEdge.map (· + msTicks 1)) s.now then
    .next ((s.modCway fun c => { c with heartbeat := false }).trigger 1)
  else .next s

/-! ### rejoin and promote (R512, R531) -/

/-- A write of rejoin: STANDBY-STALE catches up again while the peer is ACTIVE. -/
def State.cwayRejoin (s : State) : State :=
  if s.cway.role = .stale ∧ s.cway.peerRole = 1 then
    (s.modCway fun c => { c with snapDone := false, finalStates := 0, snapObjs := [], ackAt := some s.now }).takeRole .catchup
  else s

def execCwayRejoin (s : State) : Host.Outcome State Fault Refusal := if s.running then .next s.cwayRejoin else .next s

/-- A write of promote: a stale or catching-up standby becomes SOLO while the heartbeat is lost, and drives what it has. -/
def State.cwayPromote (s : State) : State :=
  if (s.cway.role = .stale ∨ s.cway.role = .catchup) ∧ ¬ s.cway.heartbeat then
    ((s.discardReplays.wakeRunning).takeRole .solo).bootStart.kickAll
  else s

def execCwayPromote (s : State) : Host.Outcome State Fault Refusal := if s.running then .next s.cwayPromote else .next s

end Sys2Proof.Machine
end

