-- ==== Sys2Proof/Machine/Faults.lean ====
section
/-! DEFINITION. Acknowledging faults (20_faults.md): FLT_ACK (R543), the release of FAULT_N (R547), the Purser's watchdog with its
restart (R548), and an internal consistency failure (R539). -/

namespace Sys2Proof.Machine

def State.modFlt (s : State) (f : Flt → Flt) : State := { s with flt := f s.flt }

/-! ### FLT_ACK and FLT_PIN (R543, R547) -/

/-- A write of FLT_ACK (R543): the seq of the latched record makes FLT_FIRST not valid, unless the record is FATAL; any other number,
or any write while nothing is latched, sets ack_stale. -/
def State.fltAck (s : State) (seq : Nat) : State := match s.flt.first with
  | some ws =>
    if ws.getD 0 0 ≠ seq then s.setBit 0xE024 3
    else if ws.getD 1 0 % 4 = 3 then s
    else s.modFlt fun f => { f with first := none }
  | none => s.setBit 0xE024 3

def execFltAck (seq : Word) (s : State) : Host.Outcome State Fault Refusal :=
  if s.running then .next (s.fltAck seq.toNat) else .next s

/-- A write of 1 to held (R547): FAULT_N is released, unless fatal_hold is set. -/
def State.fltPinRelease (s : State) : State := if s.flt.fatalHold then s else s.modFlt fun f => { f with pin := false }

def execFltPinRelease (s : State) : Host.Outcome State Fault Refusal := .next s.fltPinRelease

/-! ### The watchdog (R548) -/

/-- A CAL_MEASURE or CAL_STORE in progress. -/
def Entry.calibrates (e : Entry) : Bool :=
  e.started && (decide (e.desc.opcode = opCalMeasure) || decide (e.desc.opcode = opCalStore))

/-- CAL_MEASURE and CAL_STORE in progress complete with ABORTED (R548); a flash write is left where it stands, its slot erased, and no
frame measures any more. -/
def State.abortCalibration (s : State) : State :=
  let quiet := fun (_ : Nat) (q : Port) => { q with measure := none }
  let s := { s with ports := tabMap quiet s.ports }
  let s := s.modSense fun x => { x with writing := none }
  (s.ledger.filter fun e => e.calibrates).foldl (fun s e => s.finish e.id (stAborted, 0) 0 0) s

/-- An expiry restarts the Purser (R548): SOLO or no pair, and the first, or more than 10 s after the one before. -/
def State.wdogRestarts (s : State) : Bool :=
  (!s.paired || decide (s.cway.role = .solo)) && (match s.flt.wdogAt with
    | some t => decide (t + msTicks 10000 < s.now)
    | none => true)

/-- The watchdog expires (R548). -/
def State.wdogExpires (s : State) : State :=
  let restart := s.wdogRestarts
  let s := s.modFlt fun f => { f with expiries := satNat (f.expiries + 1) 65535, wdogAt := some s.now }
  let s := s.modPower fun w => { w with purserUp := false }
  if restart then (s.modFlt fun f => { f with restarting := true }).abortCalibration
  else s.raise (err 3 0x0F 0x02 0 s.flt.expiries 0 0)

/-- WATCHDOG_EXPIRY (R548). -/
def execWatchdogExpiry (s : State) : Host.Outcome State Fault Refusal :=
  if s.running && s.power.purserUp then .next s.wdogExpires else .next s

/-- Lanes lost while the Purser restarted begin their retraining (R367, R548). -/
def State.resumeRetraining (s : State) : State :=
  forN 4 (fun p s =>
    let l := (s.port p).link
    if l.power ≠ .l0 ∨ l.phase = .down ∨ l.phase = .training ∨ l.phase = .loopback then s
    else
      let idle := (lanesOf l.lost).filter fun x => !(l.retrains.any fun r => decide (r.lane = x))
      (idle.foldl (fun s x => s.beginAttempt p x 1) s).modLink p Link.settle) s

/-- PURSER_RESTART_DONE (R548): the Purser runs again and raises DEVICE 0x01. -/
def State.purserRestarted (s : State) : State :=
  let s := s.modFlt fun f => { f with restarting := false }
  let s := s.modPower fun w => { w with purserUp := true }
  let s := s.modCway fun c => { c with okNext := some (s.now + usTicks 500) }
  ((s.setBit 0x14 4).raise (err 2 0x0F 0x01 0 s.flt.expiries 0 0)).resumeRetraining

def execPurserRestartDone (s : State) : Host.Outcome State Fault Refusal :=
  if s.flt.restarting then .next s.purserRestarted else .next s

/-! ### Internal consistency (R539) -/

/-- INTERNAL_CONSISTENCY_FAILURE (R539, R549): FATAL DEVICE 0x05. -/
def execInternalConsistencyFailure (unit : Byte) (s : State) : Host.Outcome State Fault Refusal :=
  if s.running then .next (s.raise (err 3 0x0F 0x05 unit.toNat 0 0 0)) else .next s

end Sys2Proof.Machine
end

