-- ==== Sys2Proof/Machine/Power.lean ====
section
/-! DEFINITION. Power and resets (21_power_reset_boot.md): the full resets with the straps (R553 to R556, R563), PERST_N and Function
Level Reset (R119, R556 to R559), the PCIe link (R568), the end of DRAM training and of the store's reading with boot_ready (R449, R506,
R562, R569), and the JTAG unlock (R571). -/

namespace Sys2Proof.Machine

/-! ### Full resets (R553, R556) -/

/-- Everything returns to its reset value; the flash, the fuses, the pins' levels and the commands that wait are outside it (R556). -/
def State.fullReset (s : State) : State :=
  { State.reset with
    pending := s.pending, now := s.now, fresh := s.fresh
    sense := { Sense.reset with flashA := s.sense.flashA, flashB := s.sense.flashB }
    power := { Power.reset with
      railsLow := s.power.railsLow, pwrLow := s.power.pwrLow, perstLow := s.power.perstLow, safeLevel := s.power.safeLevel
      fuseMin := s.power.fuseMin } }

/-- The reset ends once neither source holds it: its cause is kept, the straps are sampled (R555), and the boot ROM starts, or holds
under BOOT_MODE 3 (R563). CWAY_ID resets by the strap (R536). The next CLK_PERI edge samples SAFE_STATE_N first (R304). -/
def State.release (s : State) (cause : Nat) (rolePref : Bool) (bootMode : Nat) : State :=
  if s.power.railsLow || s.power.pwrLow then s
  else
    let hold := decide (bootMode = 3)
    let s := s.modPower fun w => { w with
      boot := if hold then .held else .rom, failure := if hold then 6 else 0, rolePref := rolePref, bootMode := bootMode
      bootState := true, releasedAt := s.now, safeEdge := some (periEdge s.now) }
    (s.setBit 0x14 cause).setReg 0x7028 (if rolePref then 1 else 2)

/-- RAIL_DROP (R553): the power-on reset asserts. -/
def execRailDrop (s : State) : Host.Outcome State Fault Refusal :=
  .next (s.modPower fun w => { w with railsLow := true }).fullReset

/-- POWER_ON_RESET_RELEASE (R553, R555). -/
def execPowerOnResetRelease (rolePref : Bool) (bootMode : Fin 4) (s : State) : Host.Outcome State Fault Refusal :=
  if s.power.railsLow then .next ((s.modPower fun w => { w with railsLow := false }).release 0 rolePref bootMode) else .next s

/-- PWR_RESET_N_ASSERT (R556): as a power-on reset. -/
def execPwrResetNAssert (s : State) : Host.Outcome State Fault Refusal :=
  .next (s.modPower fun w => { w with pwrLow := true }).fullReset

/-- PWR_RESET_N_RELEASE (R555). -/
def execPwrResetNRelease (rolePref : Bool) (bootMode : Fin 4) (s : State) : Host.Outcome State Fault Refusal :=
  if s.power.pwrLow then .next ((s.modPower fun w => { w with pwrLow := false }).release 1 rolePref bootMode) else .next s

/-! ### Function resets (R119, R556 to R559) -/

/-- What a started descriptor still writes to host memory is withheld (R558): an OBJ_READ's data and signal records. -/
def Job.silent : Job → Job
  | .read _ => .read []
  | .sawyer cmds => .sawyer (cmds.map fun c => { c with signalled := true })
  | j => j

/-- The host's descriptors that meet a condition get no record any more; those not started are discarded (R119, R558). -/
def State.discard (s : State) (hit : Entry → Bool) (silent : Bool) : State :=
  let hit := fun (e : Entry) => hit e && !e.mirrored
  let mute := fun (e : Entry) => if hit e then { e with muted := true, job := if silent then e.job.silent else e.job } else e
  let s := { s with ledger := s.ledger.map mute }
  ((s.ledger.filter fun e => hit e && !e.started).foldl (fun s e => (s.unqueue e.id).dropEntry e.id) s).refreshCommits

/-- Free objects (R119, R558): their handles' generations advance; what a port displays is kept until it is not. -/
def State.freeObjects (s : State) (hit : Obj → Bool) : State :=
  let gone := s.objs.filter fun e => hit e.2 && !e.2.released
  let next := fun (g : Tab Nat) (e : Nat × Obj) =>
    let i := handleIndex e.2.handle
    let x := tabGet 1 g i
    tabPut g i (if x = 255 then 1 else x + 1)
  let mark := fun (_ : Nat) (o : Obj) => if hit o then { o with released := true } else o
  State.sweep { s with gens := gone.foldl next s.gens, objs := tabMap mark s.objs }

/-- Suspended streams close (R385). -/
def State.closeStreams (s : State) (hit : Ctx → Bool) : State :=
  { s with ctxs := s.ctxs.filter fun e => e.2.running || !(hit e.2) }

/-- No interrupt of a port goes to a ring of the function any more (R119). -/
def Port.forget (q : Port) (f : Nat) : Port :=
  let keep := fun (x : Option Nat) => x.filter fun r => decide (ringFn r ≠ f)
  { q with lastCommitRing := keep q.lastCommitRing, lastTableRing := keep q.lastTableRing }

/-- VF_FUNCTION_LEVEL_RESET (R119). -/
def State.vfReset (s : State) (f : Nat) : State :=
  let off := fun (r : Nat) (x : Ring) => if ringFn r = f then x.disabled else x
  let s := { s with rings := tabMap off s.rings, ports := tabMap (fun _ q => q.forget f) s.ports }.dropFunction f
  let s := s.discard (fun e => decide (e.fn = f)) false
  (s.freeObjects fun o => decide (handleFn o.handle = f)).closeStreams fun c => decide (c.fn = f)

def execVfFunctionLevelReset (f : Fin 16) (s : State) : Host.Outcome State Fault Refusal :=
  if s.running && decide (f.val ≠ 0) then .next (s.vfReset f) else .next s

/-- Registers of GCTL and HARB, and of the TALLY, STRD and SAWY blocks, at PERST_N and PF Function Level Reset (R556): the latter keeps
every RWL field. A standby's mirrored registers are the mirror's (R559). -/
def State.resetHostRegs (s : State) (perst : Bool) : State :=
  let gone := fun (off : Nat) =>
    decide (off = 0x40) || (decide (0xB000 ≤ off) && decide (off < 0xE000)) || (decide (0xE000 ≤ off) && decide (off ≤ 0xE010)) ||
    (perst && !s.mirrors && (decide (off = 0x44) || (decide (0x80 ≤ off) && decide (off < 0xC0)) || (decide (0x2080 ≤ off) && decide (off < 0x20C0))))
  let old := s.reg 0x44
  let s := { s with
    regs := s.regs.filter fun e => !(gone e.1), capts := s.capts.filter fun e => !(gone e.1), strdCodes := 0, sawyPixels := 0
    ledgerPeak := s.ledger.length, flt := { s.flt with written := 0, fatalPos := [] } }
  let s := if perst then s.modPower fun w => { w with setupLock := false } else s
  forN 4 (fun p s => s.newOwner old p) s

/-- The eye state of a port is cleared (R558). -/
def Port.clearEyes (q : Port) : Port := { q with eyes := [], eyesEmpty := true, eyeUpdates := [] }

/-- No capture, neither flat nor of TIDE_CAP, reaches host memory any more (R558). -/
def State.stopCaptures (s : State) : State :=
  let cut := fun (_ : Nat) (q : Port) => { q with capture := none, capDone := none }
  let edge := fun (_ : Nat) (c : TideCap) => { c with edge := 0, buffered := [] }
  let s := { s with ports := tabMap cut s.ports, tcaps := tabMap edge s.tcaps }
  forN 4 (fun p s => s.setField (0x310C + 0x40 * p) 0 0 0) s

/-- Descriptors whose effect waits for a frame of a port (R558): eye tables and signature tables. -/
def State.waitingTables (s : State) : List Nat :=
  s.ports.flatMap fun e => (e.2.eyeUpdates.map (·.id)) ++ (e.2.sigTables.map (·.id))

/-- Eyes, captures, objects and suspended streams go (R558). The internal object of the boot plate is no function's. -/
def State.clearHostSide (s : State) : State :=
  let clear := fun (_ : Nat) (q : Port) => q.clearEyes
  let s := { s with ports := tabMap clear s.ports }
  (s.stopCaptures.freeObjects fun o => decide (handleIndex o.handle ≠ 0)).closeStreams fun _ => true

/-- PERST_N and PF Function Level Reset (R556 to R559). -/
def State.hostReset (s : State) (perst : Bool) : State :=
  let own := s.waitingTables.filter fun id => ((s.entry id).map fun e => !e.mirrored).getD true
  let s := s.discard (fun _ => true) true
  let s : State := own.foldl (fun (s : State) id => (s.unqueue id).dropEntry id) s
  let s := { s with rings := [], pollAt := none }
  let s := (s.resetHostRegs perst).resetPcie (!perst)
  let s : State := if s.mirrors then s else s.clearHostSide
  if s.cway.role = .active then s.breakLog.sendBreak else s

/-- PERST_N_ASSERT (R556, R558). -/
def execPerstNAssert (s : State) : Host.Outcome State Fault Refusal :=
  if s.power.perstLow then .next s
  else
    let s := s.modPower fun w => { w with perstLow := true, linkUp := false }
    .next (if s.running then s.hostReset true else s)

/-- PERST_N_RELEASE (R568, R572): perst is set in GCTL_RSTCAUSE, and the link trains. -/
def execPerstNRelease (s : State) : Host.Outcome State Fault Refusal :=
  if s.power.perstLow then
    let s := s.modPower fun w => { w with perstLow := false }
    .next (if s.running then s.setBit 0x14 2 else s)
  else .next s

/-- PF_FUNCTION_LEVEL_RESET (R556, R558, R572). -/
def execPfFunctionLevelReset (s : State) : Host.Outcome State Fault Refusal :=
  if s.running then .next ((s.hostReset false).setBit 0x14 3) else .next s

/-- PCIE_LINK_UP (R568): the endpoint answers; captures buffered while the link was down go out (R473). -/
def execPcieLinkUp (s : State) : Host.Outcome State Fault Refusal :=
  if s.running && !s.power.perstLow && !s.power.linkUp then
    .next (forN 4 (fun n s => s.drainCap n) (s.modPower fun w => { w with linkUp := true }))
  else .next s

/-! ### The end of the boot (R449, R506, R562, R569) -/

/-- boot_ready is set once DRAM training has ended and the store has been read; a running image with commit_version then raises the
version minimum in the fuses (R562, R569). -/
def State.bootReadyCheck (s : State) : State :=
  if s.power.dramDone && s.power.storeDone && !s.power.bootReady then
    s.modPower fun w => { w with bootReady := true, fuseMin := if w.commitVersion then max w.fuseMin w.fwVersion else w.fuseMin }
  else s

/-- A channel with a working setting begins its service (R442, R443, R446, R450). -/
def State.openChan (s : State) (c : Nat) : State :=
  let s := s.draw
  s.setChan c { Chan.reset with
    phase := .active, seed := s.fresh, windows := (List.range 16).map fun b => (b, s.now + msTicks 32), mr4At := some (s.now + msTicks 4)
    trainTemp := s.phyTemp c, trainAt := some (s.now + s.retrainEvery), idleAt := some (s.now + s.srIdle) }

/-- A channel without one is retired from the start (R449); the fifth is fatal (R453). -/
def State.lostChan (s : State) (c : Nat) : State :=
  let s := s.setChan c { Chan.reset with phase := .retired }
  let s := { s with harb := { s.harb with retired := s.harb.retired ||| 2 ^ c } }
  if s.retiredCount = 5 then s.raise (err 3 0x0A 0x05 c s.harb.retired 0 0) else s

/-- The initial training has ended (R449). -/
def State.trained (s : State) (working : Nat) : State :=
  let there := s.field 0xA000 15 0
  let s := forN 16 (fun c s =>
    if there / 2 ^ c % 2 = 0 then s else if working / 2 ^ c % 2 = 1 then s.openChan c else s.lostChan c) s
  let n := ((List.range 16).filter fun c => (there &&& working) / 2 ^ c % 2 = 1).length
  let sleep := fun (_ : Nat) (c : Chan) => if s.flt.fatalHold then c.toSelfRefresh s.now else c
  let s := { s with harb := { s.harb with capacity := n * s.chanTiles }, dramReady := true, chans := tabMap sleep s.chans }
  ((s.setBit 0xA000 24).modPower fun w => { w with dramDone := true }).bootReadyCheck

/-- DRAM_TRAINING_DONE (R449, R569). -/
def execDramTrainingDone (working : BitVec 16) (s : State) : Host.Outcome State Fault Refusal :=
  if s.power.boot = .configured ∧ ¬ s.power.dramDone then .next (s.trained working.toNat) else .next s

/-- STORE_READ_DONE (R506, R569). -/
def execStoreReadDone (s : State) : Host.Outcome State Fault Refusal :=
  if s.power.boot = .configured ∧ ¬ s.power.storeDone then
    .next (s.readStore.modPower fun w => { w with storeDone := true }).bootReadyCheck
  else .next s

/-! ### JTAG (R571) -/

/-- JTAG_UNLOCK (R571): while the boot ROM runs, the port is locked. -/
def execJtagUnlock (signatureOk : Bool) (s : State) : Host.Outcome State Fault Refusal :=
  if s.running ∧ s.power.boot ≠ .rom ∧ signatureOk then .next (s.modPower fun w => { w with unlocked := true }) else .next s

end Sys2Proof.Machine
end

