-- ==== Sys2Proof/Machine/Watch.lean ====
section
/-! DEFINITION. The Watch port (R307 to R312): frames and their checks, the Watch address space, its registers and the
protected banks. -/

namespace Sys2Proof.Machine

/-! ### The address space (R311) -/

/-- Where an address lies: a global register, a port's register, or a byte of a bank. -/
inductive WatchPlace where
  | global (off : Nat)
  | port (p off : Nat)
  | bank (p b off : Nat)
deriving DecidableEq, Repr

/-- The place of an address, none outside the map. -/
def watchPlace (a : Nat) : Option WatchPlace :=
  if a < 0x1000 then some (.global a)
  else if a < 0x3000 then some (.port ((a - 0x1000) / 0x800) ((a - 0x1000) % 0x800))
  else if 0x1000000 ≤ a ∧ a < 0x2000000 then
    let r := a - 0x1000000
    some (.bank (r / 0x400000) (r % 0x400000 / 0x200000) (r % 0x200000))
  else none

/-- The addresses of the words of a frame. -/
def frameWords (addr len : Nat) : List Nat := (List.range (len / 4)).map fun i => addr + 4 * i

/-! ### Reading (R312) -/

/-- A region register's offset. -/
def isRegion (off : Nat) : Bool := decide (0x100 ≤ off) && decide (off < 0x500)

/-- A region as the Watch port sees it: with the writes still waiting for the latch instant (R296). -/
def State.stagedRegion (s : State) (p r : Nat) : Region :=
  ((s.port p).wpWrites.filter fun w => decide (regionOf w.1 = r) && s.writeApplies p w).foldl
    (fun x w => x.put (regionWord w.1) w.2.1) ((s.port p).region r)

/-- The word of a region register; the result word is a captured one (R312). -/
def State.regionReg (s : State) (p off : Nat) : Nat :=
  let x := s.stagedRegion p (regionOf off)
  match regionWord off with
  | 0x0 => x.x + x.y * 65536
  | 0x4 => x.w + x.h * 65536
  | 0x8 => x.e0
  | 0xC => bit x.enable
  | 0x10 => x.sig
  | 0x14 => (tabGet (watchReset (wpBase p + off)) s.wcapts (wpBase p + off)).toNat
  | _ => 0

/-- RMAP_SIGn and RMAP_SIGINFOn, zero for a gang's followers (R265, R266). -/
def State.rmapSig (s : State) (p : Nat) : Nat := if s.follower p then 0 else s.reg (0x4424 + 0x80 * p)
def State.rmapSigInfo (s : State) (p : Nat) : Nat := if s.follower p then 0 else s.reg (0x4428 + 0x80 * p)

/-- RMAP_IDENTn and RMAP_OLDIDn (R265). -/
def State.rmapIdent (s : State) (p : Nat) : Nat := if s.follower p then 0 else identOf (s.port p).ray.new
def State.rmapOldId (s : State) (p : Nat) : Nat := if s.follower p then 0 else identOf (s.port p).ray.old

/-- WP_PSTATn (R312). -/
def Prot.stat (q : Prot) : Nat :=
  q.gen % 65536 + bit q.pending.isSome * 2 ^ 16 + bit q.active * 2 ^ 17 + q.lastResult % 8 * 2 ^ 18

/-- WP_SAFE (R312): SAFE_STATE_N now, and as each port's last latch instant found it. -/
def State.wpSafe (s : State) : Nat :=
  bit s.power.safeApplied + ((List.range 4).map fun p => bit (s.port p).safeLatch * 2 ^ (4 + p)).sum

/-- WP_IRQ_N is driven low: a set bit of WP_IRQ is enabled (R307, R312). -/
def State.wpIrqLow (s : State) : Bool := decide (s.wreg 0x00C &&& s.wreg 0x010 ≠ 0)

/-- A word of the Watch address space (R311, R312). Words without a register read zero (log 34). -/
def State.watchWord (s : State) (a : Nat) : Nat := match watchPlace a with
  | some (.global off) => if off = 4 then s.wpSeq else if off = 0x14 then s.wpSafe else s.wreg a
  | some (.port p off) =>
    let q := (s.port p).prot
    if isRegion off then s.regionReg p off
    else match off with
      | 0x14 => q.stat
      | 0x18 => q.sig
      | 0x1C => q.result * 2 ^ 30 + q.frame % 2 ^ 24
      | 0x30 => s.rmapSig p
      | 0x34 => (tabGet 0 s.wcapts a).toNat
      | 0x38 => (tabGet 0 s.wcapts a).toNat
      | 0x3C => (tabGet 0 s.wcapts a).toNat
      | _ => s.wreg a
  | some (.bank p b off) =>
    let q := (s.port p).prot
    leNat ((List.range 4).map fun i => tabGet 0 (if b = 0 then q.bank0 else q.bank1) (off + i))
  | none => 0

/-- Latch a captured Watch word (R10). -/
def State.setWcapt (s : State) (a v : Nat) : State :=
  { s with wcapts := tabSet (watchReset a) s.wcapts a (BitVec.ofNat 32 v) }

/-- A read of WP_RMSIGn captures the other three (R312). -/
def State.captureRmsig (s : State) (p : Nat) : State :=
  ((s.setWcapt (wpBase p + 0x34) (s.rmapSigInfo p)).setWcapt (wpBase p + 0x38) (s.rmapIdent p)).setWcapt (wpBase p + 0x3C)
    (s.rmapOldId p)

/-- A read of a region's signature captures its result and frame (R312). -/
def State.captureRegion (s : State) (p r : Nat) : State :=
  let x := (s.port p).region r
  s.setWcapt (wpBase p + 0x114 + 0x20 * r) (x.result * 2 ^ 30 + x.frame % 2 ^ 24)

/-- What a read of a word captures. -/
def State.watchCapture (s : State) (a : Nat) : State := match watchPlace a with
  | some (.port p off) =>
    if off = 0x30 then s.captureRmsig p
    else if isRegion off && decide (regionWord off = 0x10) then s.captureRegion p (regionOf off)
    else s
  | _ => s

/-- WP_RMSIG_READ (R312). -/
def execWpRmsigRead (p : Fin 4) (s : State) : Host.Outcome State Fault Refusal := .next (s.captureRmsig p)

/-- WP_REGION_SIGNATURE_READ (R312). -/
def execWpRegionSignatureRead (p : Fin 4) (region : Fin 32) (s : State) : Host.Outcome State Fault Refusal :=
  .next (s.captureRegion p region)

/-- The words of a READ frame, in address order, each with its capture. -/
def State.watchReads : List Nat → State → List Byte × State
  | [], s => ([], s)
  | a :: as, s =>
    let s1 := s.watchCapture a
    let r := State.watchReads as s1
    (leBytes 4 (s1.watchWord a) ++ r.1, r.2)

/-! ### Writing (R310, R312) -/

/-- A word that a WRITE frame may not write (R310, R312, R549); a word without a register counts as one (log 34). -/
def State.readOnly (s : State) (a : Nat) : Bool := match watchPlace a with
  | some (.bank p b _) =>
    let q := (s.port p).prot
    decide (b = bit q.active) || q.pending.isSome || s.flt.fatalHold
  | some (.port p off) =>
    if off = 0x10 then false
    else if isRegion off ∧ regionWord off < 0x10 then !(s.watchSourced p (regionOf off))
    else ((watchRow a).map fun r => decide (r.rw = 0) && decide (r.w1c = 0)).getD true
  | some (.global _) => ((watchRow a).map fun r => decide (r.rw = 0) && decide (r.w1c = 0)).getD true
  | none => false

/-- A change of WP_REGSRCn disables the regions whose bit changes, at the next latch instant (R292). -/
def State.writeRegsrc (s : State) (p v : Nat) : State :=
  let old := s.wreg (wpBase p + 0x20)
  let off := fun (r : Nat) => (0x10C + 0x20 * r, 0, s.now)
  let ws := ((List.range 32).filter fun r => decide (old / 2 ^ r % 2 ≠ v / 2 ^ r % 2)).map off
  (s.setWreg (wpBase p + 0x20) v).modPort p fun q => { q with wpWrites := q.wpWrites ++ ws }

/-- The plain write of a register by its row's access bits (R7, R8). -/
def plainWrite (row : RegRow) (old v : Nat) : Nat :=
  (old &&& (0xFFFFFFFF ^^^ row.rw) ||| v &&& row.rw) &&& (0xFFFFFFFF ^^^ (v &&& row.w1c))

/-- Write one word (R311, R312). -/
def State.watchPut (s : State) (a v : Nat) : State := match watchPlace a with
  | some (.bank p b off) =>
    s.modPort p fun q =>
      let put := fun (t : Tab Byte) => writeBytes (.zeros) t off (leBytes 4 v)
      { q with prot := if b = 0 then { q.prot with bank0 := put q.prot.bank0 } else { q.prot with bank1 := put q.prot.bank1 } }
  | some (.port p off) =>
    if off = 0x10 then (if v % 2 = 1 then s.startActivation p else s)
    else if off = 0x20 then s.writeRegsrc p v
    else if isRegion off then s.modPort p fun q => { q with wpWrites := q.wpWrites ++ [(off, v, s.now)] }
    else match watchRow a with
      | some row => s.setWreg a (plainWrite row (s.wreg a) v)
      | none => s
  | some (.global _) => match watchRow a with
    | some row => s.setWreg a (plainWrite row (s.wreg a) v)
    | none => s
  | none => s

/-- The regions of a port with the waiting writes. -/
def State.stagedRegions (s : State) (p : Nat) : List Region := (List.range 32).map (s.stagedRegion p)

/-- A WRITE frame touches region registers and leaves their port over the witness budget (R296). -/
def State.witnessOver (s : State) (addrs : List Nat) : Bool :=
  addrs.any fun a => match watchPlace a with
    | some (.port p off) => isRegion off && decide (witnessBudget < budgetOf (s.stagedRegions p))
    | _ => false

/-! ### Frames (R308 to R310) -/

/-- The device answers Watch-port frames while the Purser runs (R548, R549, R554); never with a failed boot (R564). -/
def State.watchUp (s : State) : Bool := s.running && s.power.purserUp && decide (s.power.boot ≠ .failed)

/-- A response (R308): turnaround, status, data, check. `fold` is the sequence number folded in. -/
def watchResponse (status seqAfter fold : Nat) (data : List Byte) : List Byte :=
  let st := leBytes 1 status ++ leBytes 1 0 ++ leBytes 2 data.length ++ leBytes 4 seqAfter
  List.replicate 4 0xFF ++ st ++ data ++ leBytes 4 (crc32c (fold ^^^ 0x80000000) (st ++ data))

/-- A frame is discarded (R309, R306): it counts, and the eighth in a row is reported. -/
def State.discardFrame (s : State) : State :=
  let e := s.wreg 8
  let run := satNat (fieldOf e 7 0 + 1) 255
  let e' := satNat (fieldOf e 31 16 + 1) 65535 * 65536 + run
  let s := s.setWreg 8 e'
  if run = 8 then (s.raise (err 2 0x05 0x05 0 e' 0 0)).setWbit 0x00C 16 else s

/-- A frame's status, data and effect once its check has passed (R310). -/
def State.frameEffect (s : State) (mosi : List Byte) : Nat × List Byte × State :=
  let op := leAt mosi 0 1
  let len := leAt mosi 2 2
  let addr := leAt mosi 4 4
  let addrs := frameWords addr len
  if 2 < op ∨ leAt mosi 1 1 ≠ 0 then (2, [], s)
  else if addr % 4 ≠ 0 ∨ len % 4 ≠ 0 ∨ 4096 < len then (3, [], s)
  else if op = 0 then (if len = 0 then (0, [], s) else (3, [], s))
  else if (addr :: addrs).any fun a => (watchPlace a).isNone then (3, [], s)
  else if op = 1 then
    let r := State.watchReads addrs s
    (0, r.1, r.2)
  else if addrs.any s.readOnly then (4, [], s)
  else
    let s' := (indexed addrs).foldl (fun t x => t.watchPut x.2 (leAt mosi (8 + 4 * x.1) 4)) s
    if s'.witnessOver addrs then (5, [], s) else (0, [], s')

/-- One frame of the Watch port (R308 to R310); `mosi` is what WP_MOSI carried while WP_CS_N was low. -/
def State.watchFrame (s : State) (mosi : List Byte) : State :=
  if !s.watchUp then s
  else
    let seq := s.wpSeq
    let n := 8 + (if leAt mosi 0 1 = 2 then leAt mosi 2 2 else 0)
    if mosi.length < n + 4 then { s.discardFrame with miso := [] }
    else if crc32c seq (mosi.take n) ≠ leAt mosi n 4 then { s.discardFrame with miso := watchResponse 1 seq seq [] }
    else
      let r := s.frameEffect mosi
      let s' := r.2.2
      let after := (seq + 1) % 2 ^ 32
      { s'.setWreg 8 (s'.wreg 8 / 256 * 256) with wpSeq := after, miso := watchResponse r.1 after seq r.2.1 }

/-- WATCH_NOP (R308). -/
def execWatchNop (mosi : List Byte) (s : State) : Host.Outcome State Fault Refusal := .next (s.watchFrame mosi)

/-- WATCH_READ (R308, R311). -/
def execWatchRead (mosi : List Byte) (s : State) : Host.Outcome State Fault Refusal := .next (s.watchFrame mosi)

/-- WATCH_WRITE (R308, R310, R311). -/
def execWatchWrite (mosi : List Byte) (s : State) : Host.Outcome State Fault Refusal := .next (s.watchFrame mosi)

/-- WATCH_BAD_OPCODE_FRAME (R310). -/
def execWatchBadOpcodeFrame (mosi : List Byte) (s : State) : Host.Outcome State Fault Refusal := .next (s.watchFrame mosi)

end Sys2Proof.Machine
end

