-- ==== Sys2Proof/Machine/Flags.lean ====
section
/-! DEFINITION. What the registers of PF BAR0 read (R7 and the register rules of each chapter): fields kept in `regs` as they are, and
fields that mirror a unit's state computed from it. A port that follows in a gang reads zero where its rule says so. -/

namespace Sys2Proof.Machine

/-- Whole degrees of an s8.8 value in an 8-bit field, rounded down. -/
def s8 (x : Int) : Nat := unsignedOf 8 (x / 256)
/-- A mask of the numbers of a list. -/
def bitMask (l : List Nat) : Nat := (l.map fun k => 2 ^ k).sum

/-! ### GCTL (R78, R572) -/

/-- GCTL_BOOT. -/
def Power.bootWord (w : Power) : Nat :=
  bit w.bootReady * 2 ^ 31 + bit w.bootState * 2 ^ 30 + bit w.imageB * 2 ^ 29 + bit w.fallback * 2 ^ 28 + w.failure % 16 * 2 ^ 24 +
    w.bootMode % 4 * 2 ^ 16 + w.bootPorts % 16

def State.readGctl (s : State) (off : Nat) : Nat :=
  if off = 0x08 then bit s.power.setupLock
  else if off = 0x0C then s.power.bootWord
  else if off = 0x10 then s.power.fwVersion
  else if off = 0x18 then bit s.power.unlocked
  else if off = 0x48 then s.ledgerPeak * 65536 + s.ledger.length
  else if 0x80 ≤ off ∧ off < 0xC0 then s.held ((off - 0x80) / 4) * 65536 + s.field off 12 0
  else s.reg off

/-! ### Rings (R81) -/

def RingState.code : RingState → Nat
  | .disabled => 0
  | .running => 1
  | .stopped => 2
  | .draining => 3

/-- RING_CTRL of ring `n`. -/
def Ring.ctrl (x : Ring) (n : Nat) : Nat :=
  ringFn n * 2 ^ 28 + x.state.code * 2 ^ 24 + x.prio % 4 * 2 ^ 16 + x.vector % 16 * 2 ^ 12 + x.sizeLog % 16 * 2 ^ 8 + bit x.enable

/-- A word of a ring's register set. -/
def State.readRing (s : State) (n sub : Nat) : Nat :=
  let x := s.ring n
  match sub with
  | 0x00 => x.base % 2 ^ 32
  | 0x04 => x.base / 2 ^ 32
  | 0x08 => x.cpl % 2 ^ 32
  | 0x0C => x.cpl / 2 ^ 32
  | 0x10 => x.db % 2 ^ 32
  | 0x14 => x.db / 2 ^ 32
  | 0x18 => x.ctrl n
  | 0x1C => x.nextSeq
  | _ => 0

/-! ### HARB (R142) -/

def State.readHarb (s : State) (off : Nat) : Nat :=
  if off = 0x2000 then s.chnUse * 65536 + s.chnCapacity
  else if off = 0x2004 then s.harb.peakChn
  else if off = 0x2008 then s.dramCapacity
  else if off = 0x200C then s.dramUse
  else if off = 0x2010 then s.harb.peakDram
  else if off = 0x2014 then s.objs.length
  else if off = 0x2018 then bit (decide (s.harb.relocating ≠ [])) * 2 ^ 24 + satNat s.harb.lostCount 255 * 65536 + s.harb.retired % 65536
  else if 0x2040 ≤ off ∧ off < 0x2080 then s.fnUse ((off - 0x2040) / 4)
  else s.reg off

/-! ### COMP (R203) -/

/-- COMP_SCAL. -/
def State.scalWord (s : State) : Nat :=
  (s.ledger.filter fun e => e.wantsScaler).length % 2 ^ 13 * 256 + bitMask ((List.range 8).filter fun k => s.busyScalers.contains k)

/-- The RW bits of COMP registers keep what was written on every port; the rest read zero on a follower. -/
def State.readComp (s : State) (off : Nat) : Nat :=
  if off = 0x3000 then s.scalWord
  else
    let p := (off - 0x3100) / 0x40
    let q := s.port p
    let f := s.follower p
    match (off - 0x3100) % 0x40 with
    | 0x00 => if f then 0 else q.toneHandle
    | 0x04 => s.field off 31 31 * 2 ^ 31 + (if f then 0 else s.field off 15 0)
    | 0x08 => if f then 0 else s.reg off
    | 0x24 => if f then 0 else s.field off 2 1 * 2 + bit q.capture.isSome
    | _ => s.reg off

/-! ### WEAVE with the ray map and the shepherd (R234, R265, R284) -/

/-- WEAVE_STAT. -/
def State.weaveStat (s : State) : Nat :=
  satNat ((List.range 4).map fun p => s.waitingTiles p).sum 65535 * 256 + s.shuttles.length % 256

/-- RMAP_STATEn. -/
def RayMap.stateWord (r : RayMap) : Nat :=
  let st := if r.new.isNone then 0 else if r.fadeLen ≠ 0 then 2 else 1
  match r.new with
  | some a => a.tau % 65536 * 65536 + r.fadeF % 256 * 256 + st * 64 + a.setB % 8 * 8 + a.setA % 8
  | none => r.fadeF % 256 * 256 + st * 64

/-- The ray-map registers of a port. -/
def State.readRmap (s : State) (p sub off : Nat) : Nat :=
  let r := (s.port p).ray
  let f := s.follower p
  match sub with
  | 0x10 => if f then 0 else s88 r.theta
  | 0x14 => if f then 0 else r.stateWord
  | 0x18 => s.rmapIdent p
  | 0x1C => s.rmapOldId p
  | 0x24 => s.rmapSig p
  | 0x28 => if f then 0 else (tabGet 0 s.capts off).toNat
  | _ => if f ∧ 0x20 ≤ sub then 0 else s.reg off

/-- The shepherd registers of a port (R284, R285). -/
def State.readShep (s : State) (p sub off : Nat) : Nat :=
  let f := s.follower p
  match sub with
  | 0x14 => if f then 0 else s.reg off
  | 0x18 => if f then 0 else (tabGet (resetWord off) s.capts off).toNat
  | _ => s.reg off

def State.readWeave (s : State) (off : Nat) : Nat :=
  if off = 0x4000 then s.weaveStat
  else if off < 0x4400 then
    let p := (off - 0x4100) / 0x40
    let sub := (off - 0x4100) % 0x40
    if s.follower p then (if sub = 0 then s.reg off &&& 0x17 else 0) else s.reg off
  else if off < 0x4600 then s.readRmap ((off - 0x4400) / 0x80) ((off - 0x4400) % 0x80) off
  else s.readShep ((off - 0x4600) / 0x40) ((off - 0x4600) % 0x40) off

/-! ### SCAN (R338) -/

def PortPhase.code : PortPhase → Nat
  | .stopped => 0
  | .starting => 1
  | .running => 2
  | .reforming => 3

/-- A frame of the port is being sent. -/
def Port.sending (q : Port) : Bool :=
  (decide (q.phase = .running) || decide (q.phase = .reforming)) && decide (q.frameAt < q.next)

/-- SCAN_STATEn: on a follower, only state, gang, member and under_flag. -/
def State.scanState (s : State) (p : Nat) (off : Nat) : Nat :=
  let q := s.port p
  let own := s.field off 20 20 * 2 ^ 20 + gangMember q.gang p * 2 ^ 8 + q.gang % 16 * 2 ^ 4 + q.phase.code
  if s.follower p then own
  else own + q.stopReason % 16 * 2 ^ 16 + bit (q.sending && decide (q.subEff < q.mode.subframes)) * 2 ^ 12 +
    q.subEff % 4 * 2 ^ 10

/-- SCAN_POSn: the place of the slot begun last (R315). -/
def Port.posWord (q : Port) : Nat :=
  if q.sending then
    let x := q.placeOf (q.next - 1)
    x.1 % 4 * 2 ^ 16 + x.2 % 2 ^ 13
  else 0

def State.readScan (s : State) (off : Nat) : Nat :=
  let p := (off - 0x5000) / 0x400
  let sub := (off - 0x5000) % 0x400
  let q := s.port p
  let m := q.mode
  if sub = 0x10 then s.scanState p off
  else if s.follower p then 0
  else match sub with
    | 0x00 => m.vActive * 65536 + m.hActive
    | 0x04 => m.raceLead * 2 ^ 24 + m.subframes * 2 ^ 16 + m.vBlank
    | 0x08 => m.ticksFrac
    | 0x0C => (tabGet 0 s.capts off).toNat
    | 0x14 => q.posWord
    | 0x18 => q.frame % 2 ^ 32
    | 0x48 => s.field off 15 8 * 256 + (if q.phase = .stopped then 0 else m.rlMax)
    | 0x1C => (tabGet 0 s.capts off).toNat
    | 0x24 => (tabGet 0 s.capts off).toNat
    | 0x28 => (tabGet 0 s.capts off).toNat
    | 0x34 => (tabGet 0 s.capts off).toNat
    | 0x38 => (tabGet 0 s.capts off).toNat
    | 0x3C => (tabGet 0 s.capts off).toNat
    | 0x40 => (tabGet 0 s.capts off).toNat
    | _ => s.reg off

/-! ### LINK (R381) -/

def LinkPhase.code : LinkPhase → Nat
  | .down => 0
  | .training => 1
  | .up => 2
  | .retraining => 3
  | .reforming => 4
  | .loopback => 5

/-- LINK_STATEn. -/
def Link.stateWord (l : Link) : Nat :=
  l.nd % 16 * 2 ^ 16 + bit l.keel * 2 ^ 15 + bit l.glass * 2 ^ 14 + bit l.precode * 2 ^ 13 + l.rate % 4 * 2 ^ 11 + l.power.code % 4 * 2 ^ 6 +
    l.phase.code

/-- Entries of the lane map from `e` on, four bits each (R357). -/
def Link.mapEntries (l : Link) (e n : Nat) : Nat := ((List.range n).map fun i => l.map.getD (e + i) 15 % 16 * 16 ^ i).sum

def State.readLink (s : State) (off : Nat) : Nat :=
  let l := (s.port ((off - 0x6000) / 0x400)).link
  match (off - 0x6000) % 0x400 with
  | 0x04 => l.stateWord
  | 0x08 => l.retired % 4096 * 65536 + l.service % 4096
  | 0x0C => l.lost % 4096
  | 0x10 => l.mapEntries 0 8
  | 0x14 => l.mapEntries 8 4
  | 0x18 => leAt l.caps 0 4
  | 0x1C => leAt l.caps 4 4
  | 0x20 => leAt l.status 4 3 * 256 + s.field off 4 4 * 16 + leAt l.status 3 1 % 16
  | 0x28 => satNat (l.erasures / 1024) 65535 * 65536 + s.field off 15 0
  | _ => s.reg off

/-! ### CWAY (R536) -/

/-- CWAY_ROLE: the W1C bits are stored. -/
def State.roleWord (s : State) : Nat :=
  let c := s.cway
  c.peerRole % 8 * 2 ^ 24 + bit s.power.rolePref * 2 ^ 20 + bit c.snapDone * 2 ^ 19 + bit c.heartbeat * 2 ^ 18 + c.linkPhase % 4 * 2 ^ 16 +
    s.field 0x7004 6 4 * 16 + c.role.code

/-- Bytes of objects whose SNAP records still wait for the lanes (R524): a record's header, handle, offset and CRC take 28. -/
def Cway.snapLeft (c : Cway) : Nat :=
  (((c.tx.drop c.placed).filter fun bs => decide (leAt bs 4 1 = 7)).map fun bs => bs.length - 28).sum

/-- CWAY registers that are not stored (R536). -/
def State.readCway (s : State) (off : Nat) : Nat :=
  if off = 0x7004 then s.roleWord
  else if off = 0x700C then (if s.cway.role.standby then s.cway.applied else s.cway.lastSent)
  else if off = 0x7020 then satNat (ceilDiv s.cway.snapLeft 65536) 0xFFFFF
  else if 0x7200 ≤ off ∧ off < 0x7400 then tabGet 0 s.cway.points ((off - 0x7200) / 4)
  else s.reg off

/-! ### TIDE (R479) -/

def TidePhase.code : TidePhase → Nat
  | .free => 0
  | .acquire => 1
  | .track => 2
  | .holdover => 3
  | .discont => 4

/-- TIDE_GSTATn: line ticks of a grouped port as u23.8. -/
def State.groupStat (s : State) (p : Nat) : Nat :=
  let q := s.port p
  bit q.outOfStep * 2 ^ 31 + (if s.grouped p ∧ q.phase ≠ .stopped then q.lineTicks / 2 ^ 25 % 2 ^ 31 else 0)

def State.readTide (s : State) (off : Nat) : Nat :=
  let t := s.tide
  if off = 0x8000 then t.ns
  else if off < 0x8010 ∨ (0x8088 ≤ off ∧ off ≤ 0x8090) ∨ off = 0x8098 then (tabGet 0 s.capts off).toNat
  else if off = 0x8018 then
    s.field off 10 8 * 256 + bit t.rateLimited * 64 + bit s.locked * 32 + bit t.armed * 16 + t.phase.code
  else if off = 0x801C then unsignedOf 25 t.rateNext
  else if 0x8040 ≤ off ∧ off < 0x8060 then
    let o := s.out ((off - 0x8040) / 4)
    satNat o.pulses 65535 * 65536 + s.field off 8 8 * 256 + bit o.active * 16 + o.prog.mode % 4
  else if 0x8060 ≤ off ∧ off < 0x8070 then
    let c := s.cap ((off - 0x8060) / 4)
    satNat c.dropped 65535 * 65536 + c.seq % 65536
  else if 0x80A0 ≤ off ∧ off < 0x80B0 then s.groupStat ((off - 0x80A0) / 4)
  else s.reg off

/-! ### SENSE (R507) -/

/-- SENSE_STORESTAT. -/
def Sense.storeStat (x : Sense) : Nat := bit x.deferred * 8 + bit x.writing.isSome * 4 + bit x.pending.isSome * 2 + bit x.slot

/-- SENSE_LEVEL. -/
def Sense.levelWord (x : Sense) : Nat := s88 x.hottest * 65536 + bit x.forced * 4096 + bit x.substituted * 2048 + x.level % 8

/-- A die sensor's word; it reads 0 until its first sample. -/
def State.dieWord (s : State) (k : Nat) : Nat :=
  let d := s.die k
  (if d.sampled then s88 (s.dieValue k) * 65536 else 0) + bit d.failed * 8 + d.period % 4

/-- A remote diode's or the board sensor's word. -/
def Diode.word (d : Diode) : Nat := (if d.sampled then s88 d.value * 65536 else 0) + bit d.failed * 2

def State.readSense (s : State) (off : Nat) : Nat :=
  let x := s.sense
  if off = 0x9000 then x.levelWord
  else if off = 0x9010 then s.diesFailed % 256 * 2 ^ 24 + s.field off 4 0
  else if off = 0x9014 then x.gen
  else if off = 0x9018 then x.storeStat
  else if off = 0x9024 then ((List.range 3).map fun i => s8 (s.calSet i).temp * 256 ^ i).sum
  else if 0x9040 ≤ off ∧ off < 0x90A0 then s.dieWord ((off - 0x9040) / 4)
  else if 0x90A0 ≤ off ∧ off < 0x90C0 then (s.diode ((off - 0x90A0) / 4)).word
  else if off = 0x90E0 then x.board.word
  else if 0x9100 ≤ off ∧ off < 0x9120 then
    let a := tabGet Ain.reset x.ains ((off - 0x9100) / 4)
    a.code * 65536 + a.rel
  else if 0x9140 ≤ off ∧ off < 0x9160 then (x.data.alms[(off - 0x9140) / 4]?.map (·.ident)).getD 0
  else s.reg off

/-! ### DRAM (R454) -/

def ChanPhase.code : ChanPhase → Nat
  | .absent => 0
  | .active => 1
  | .selfRefresh => 2
  | .recovery => 3
  | .retiring => 4
  | .retired => 5

def State.readDram (s : State) (off : Nat) : Nat :=
  if off < 0xA100 then s.reg off
  else
    let c := s.chan ((off - 0xA100) / 0x10)
    match (off - 0xA100) % 0x10 with
    | 0x0 => c.recoveries * 65536 + s8 c.trainTemp * 256 + c.phase.code
    | 0xC => s.field off 31 10 * 1024 + satNat (c.ebbs / 256) 1023
    | _ => s.reg off

/-! ### TALLY, STRD and SAWY (R403, R421, R432) -/

/-- TALLY_JOBs accepted and not on a unit. -/
def State.tallyWaiting (s : State) : Nat :=
  (s.ledger.filter fun e => decide (e.desc.opcode = opTallyJob) && (match e.job with
    | .tally _ => false
    | _ => true)).length

def State.readTally (s : State) (off : Nat) : Nat :=
  if off = 0xB000 then satNat s.tallyWaiting 4095 * 256 + bitMask ((List.range 8).filter fun k => (s.unit k).busy)
  else if off < 0xB040 then s.reg off
  else
    let u := s.unit ((off - 0xB040) / 8)
    if off % 8 = 4 then (tabGet 0 s.capts off).toNat
    else if u.busy then u.fn % 16 * 2 ^ 28 + 256 + u.poly % 4 else 0

/-- STRD_CTXm. -/
def Ctx.word (c : Ctx) : Nat :=
  if c.open_ then
    2 ^ 31 + bit c.running * 2 ^ 30 + bit (decide (c.held ≠ [])) * 2 ^ 29 + c.fn % 16 * 2 ^ 24 + c.streamId % 65536
  else 0

def State.readStrd (s : State) (off : Nat) : Nat :=
  let n := fun (f : Nat → Ctx → Bool) => ((List.range 20).filter fun m => f m (s.ctx m)).length
  if off = 0xC000 then
    n (fun _ c => c.running) * 65536 + n (fun m c => decide (16 ≤ m) && c.open_) * 256 + n (fun m c => decide (m < 16) && c.open_)
  else if 0xC040 ≤ off ∧ off < 0xC090 then (s.ctx ((off - 0xC040) / 4)).word
  else s.reg off

def State.readSawy (s : State) (off : Nat) : Nat :=
  if off = 0xD000 then
    satNat (s.ledger.filter fun e => decide (e.desc.opcode = opSawyerList)).length 4095 * 256 + s.sawBusy % 8
  else s.reg off

/-! ### FLT and SAFE (R313, R550) -/

def State.readFlt (s : State) (off : Nat) : Nat :=
  let f := s.flt
  if off = 0xE00C then f.written
  else if off = 0xE01C then f.seq
  else if off = 0xE024 then s.field off 3 3 * 8 + bit f.first.isSome * 2
  else if off = 0xE02C then bit f.fatalHold * 2 + bit f.pin
  else if off = 0xE030 then bit f.restarting * 65536 + f.expiries
  else if off = 0xE040 then (f.first.getD []).getD 0 0
  else if 0xE040 < off ∧ off < 0xE060 then (tabGet 0 s.capts off).toNat
  else s.reg off

def State.readSafe (s : State) (off : Nat) : Nat :=
  let p := (off - 0xF000) / 0x10
  match (off - 0xF000) % 0x10 with
  | 0x0 => s.field off 17 17 * 2 ^ 17 + bit (s.port p).safeLatch * 2 ^ 16 + (s.port p).prot.gen % 65536
  | 0x4 => s.wreg (wpBase p + 0x20)
  | _ => s.reg off

/-- What the word at a PF BAR0 offset reads; unassigned offsets read zero (R9). -/
def State.readWord (s : State) (off : Nat) : Nat :=
  if (pfRow off).isNone then 0
  else match off / 0x1000 with
    | 0 => s.readGctl off
    | 1 => s.readRing ((off - 0x1000) / 0x20) ((off - 0x1000) % 0x20)
    | 2 => s.readHarb off
    | 3 => s.readComp off
    | 4 => s.readWeave off
    | 5 => s.readScan off
    | 6 => s.readLink off
    | 7 => s.readCway off
    | 8 => s.readTide off
    | 9 => s.readSense off
    | 10 => s.readDram off
    | 11 => s.readTally off
    | 12 => s.readStrd off
    | 13 => s.readSawy off
    | 14 => s.readFlt off
    | 15 => s.readSafe off
    | _ => 0

end Sys2Proof.Machine
end

