-- ==== Sys2Proof/Machine/Control.lean ====
section
/-! DEFINITION. Control of the rings by the host (03_host_rings.md): enabling with its doorbell read (R82, R83, R86, R534), disabling
(R117), the writes of a ring's registers (R81), SETUP_LOCK (R570), and the start of a descriptor that had to wait (R105 to R108). -/

namespace Sys2Proof.Machine

/-! ### SETUP_LOCK (R570) -/

def State.setLock (s : State) : State := s.modPower fun w => { w with setupLock := true }

/-- GCTL_LOCK (R570). -/
def execGctlLock (s : State) : Host.Outcome State Fault Refusal := if s.running then .next s.setLock else .next s

/-! ### Enabling (R83, R86, R120) -/

/-- A write of 1 to enable takes effect (R83); never in a role whose rings are inert (R120). -/
def State.mayEnable (s : State) (r : Nat) : Bool :=
  let x := s.ring r
  decide (x.state = .disabled) && !x.enableRead && decide (x.sizeLog ≤ 10) && s.cway.role.drives

/-- A write of 1 to enable: the ring's doorbell record is read once (R86). -/
def State.enableRing (s : State) (r : Nat) : State :=
  if s.mayEnable r then
    (s.modRing r fun x => { x with enable := true, enableRead := true, enableDrop := false }).askTail r
  else s

/-- RING_ENABLE (R83, R86). -/
def execRingEnable (r : Fin 128) (s : State) : Host.Outcome State Fault Refusal :=
  if s.running then .next (s.enableRing r) else .next s

/-- The completion records of a ring's last fully applied descriptors are written again at their slots (R534). -/
def State.rewrite (s : State) (r : Nat) : State :=
  if (s.ring r).afterTakeover then
    let s := s.modRing r fun x => { x with afterTakeover := false }
    (s.cway.recents.filter fun x => x.1 = r).foldl (fun s x => s.emit (.write (ringFn r) ((s.ring r).cpl + 32 * x.2.1) x.2.2)) s
  else s

/-- The doorbell read at enable has returned a tail (R86): it is the consumed count, and the ring runs. -/
def State.enabled (s : State) (r t : Nat) : State :=
  (s.modRing r fun x => { x with
    enableRead := false, state := .running, consumed := t, tail := t, buf := [], cur := none, fetching := none
    allowance := 2 ^ x.prio }).rewrite r

/-- The doorbell read at enable returns (R86). -/
def State.enableReturns (s : State) (r : Nat) (res : DoorbellRead) : State :=
  let x := s.ring r
  if !x.enableRead then s
  else if x.enableDrop then s.modRing r fun x => { x with enableRead := false, enableDrop := false }
  else match res with
    | .tail t => s.enabled r t.toNat
    | .failed f => (s.modRing r fun x => { x with enableRead := false, enable := false }).raise (ringErr 0x02 r f.code 0)

/-- DOORBELL_ENABLE_READ_RETURN (R86). -/
def execDoorbellEnableReadReturn (r : Fin 128) (res : DoorbellRead) (s : State) : Host.Outcome State Fault Refusal :=
  .next (s.enableReturns r res)

/-! ### Disabling (R117) -/

/-- What an accepted descriptor that has not started leaves behind when it is aborted: a handle being freed is valid again, and a
STREAM_DECODE's context closes (R385, R401). -/
def State.undoAccept (s : State) (e : Entry) : State :=
  if e.desc.opcode = opObjFree then s.modObj (e.desc.w 2) fun o => { o with freeing := none }
  else match e.job with
    | .stream m _ _ _ _ => if e.desc.opcode = opStreamDecode then s.closeCtx m else s
    | _ => s

/-- One accepted descriptor that has not started completes with ABORTED (R117). -/
def State.abortEntry (s : State) (id : Nat) : State := match s.entry id with
  | none => s
  | some e => ((s.undoAccept e).unqueue id).finish id (stAborted, 0) 0 0

/-- The descriptors of a ring that have been accepted and have not started. -/
def State.unstarted (s : State) (r : Nat) : List Nat :=
  (s.ledger.filter fun e => decide (e.desc.ring = r) && !e.mirrored && !e.started).map (·.id)

/-- A RUNNING or STOPPED ring drains (R117): reads in flight are discarded, and what has not started is aborted. -/
def State.drainRing (s : State) (r : Nat) : State :=
  let cur := (s.ring r).cur
  let s := s.modRing r fun x => { x with
    enable := false, state := .draining, pollDrop := x.polling, fetching := none, buf := [], cur := none }
  let s := match cur with
    | some d => s.writeCpl d false stAborted 0 s.tideNs 0 0
    | none => s
  ((s.unstarted r).foldl (fun s id => s.abortEntry id) s).drained r

/-- A write of 0 to enable (R86, R117). -/
def State.disableRing (s : State) (r : Nat) : State :=
  let x := s.ring r
  if x.enableRead then s.modRing r fun x => { x with enable := false, enableDrop := true }
  else if x.state = .running ∨ x.state = .stopped then s.drainRing r
  else s

/-- RING_DISABLE (R117); inert on a standby (R120). -/
def execRingDisable (r : Fin 128) (s : State) : Host.Outcome State Fault Refusal :=
  if s.running then .next (s.disableRing r) else .next s

/-! ### A ring's registers (R81, R82) -/

/-- Replace the low or the high word of an address. -/
def putLow (a v : Nat) : Nat := a / 2 ^ 32 * 2 ^ 32 + v
def putHigh (a v : Nat) : Nat := v * 2 ^ 32 + a % 2 ^ 32

/-- RING_SEQ and the addresses take a write only while the ring is DISABLED and no enable read is outstanding (R82, R86). -/
def Ring.open_ (x : Ring) : Bool := decide (x.state = .disabled) && !x.enableRead

/-- A write of RING_CTRL: prio and vector always, size_log while the ring is DISABLED, then enable (R81 to R83). -/
def State.writeRingCtrl (s : State) (r v : Nat) : State :=
  let s := s.modRing r fun x => { x with
    prio := fieldOf v 17 16, vector := fieldOf v 15 12, sizeLog := if x.open_ then fieldOf v 11 8 else x.sizeLog }
  if v % 2 = 1 then s.enableRing r else s.disableRing r

/-- A write of a word of a ring's register set (R81, R82); RING_SEQ is the mirror's on a standby (R516). -/
def State.writeRing (s : State) (r sub v : Nat) : State :=
  let put := fun (f : Ring → Ring) => if (s.ring r).open_ then s.modRing r f else s
  match sub with
  | 0x00 => put fun x => { x with base := putLow x.base (without v 0xFFF) }
  | 0x04 => put fun x => { x with base := putHigh x.base v }
  | 0x08 => put fun x => { x with cpl := putLow x.cpl (without v 0xFFF) }
  | 0x0C => put fun x => { x with cpl := putHigh x.cpl v }
  | 0x10 => put fun x => { x with db := putLow x.db (without v 0x3F) }
  | 0x14 => put fun x => { x with db := putHigh x.db v }
  | 0x18 => s.writeRingCtrl r v
  | 0x1C => if s.cway.role.standby then s else put fun x => { x with nextSeq := v }
  | _ => s

/-! ### DESCRIPTOR_START (R105 to R108) -/

/-- The start of a descriptor by its opcode; opcodes with a start step of their own, and those that take effect at a frame, have none
here. -/
def startOf (op : Nat) : Option (Entry → State → State) :=
  if op = opNop ∨ op = opFence then some startPlain
  else if op = opWaitTime then some startWait
  else if op = opObjAlloc then some startAlloc
  else if op = opObjFree then some startFree
  else if op = opObjWrite then some startWrite
  else if op = opObjRead then some startRead
  else if op = opTideProgram then some startTide
  else if op = opCalMeasure then some startMeasure
  else if op = opCalStore then some startStore
  else if op = opShepherdUpdate then some startEyes
  else none

/-- An accepted descriptor that had to wait starts once nothing it waits for is left; a MODE_SET becomes ready (R323), pending commits
are looked at again (R163). -/
def State.startDescriptor (s : State) (id : Nat) : State := match s.entry id with
  | none => s
  | some e =>
    if (e.mirrored ∧ ¬ e.desc.ownPace) ∨ e.readyAt.isSome then s
    else match startOf e.desc.opcode with
      | some f => s.startIf id f
      | none => if e.desc.opcode = opModeSet then s.modeReady id else s.refreshCommits

/-- DESCRIPTOR_START (R105 to R108). -/
def execDescriptorStart (id : Nat) (s : State) : Host.Outcome State Fault Refusal := .next (s.startDescriptor id)

end Sys2Proof.Machine
end

