-- ==== Sys2Proof/Machine/Regs.lean ====
section
/-! DEFINITION. Register accesses by the host (R7 to R12, R79, R80): writes with the behaviour of the registers that have one of their
own, reads with the captures they make, and the two BAR0 windows. -/

namespace Sys2Proof.Machine

/-! ### Writes (R7, R8, R11) -/

/-- The write changes something while SETUP_LOCK stands as it does: some bit of the register can be written. -/
def State.writable (s : State) (off : Nat) : Bool := match pfRow off with
  | some r => decide (r.rw ≠ 0) || decide (r.w1c ≠ 0) || (decide (r.rwl ≠ 0) && !s.power.setupLock)
  | none => false

/-- A host write of a mirrored register (R516): ignored on a standby; the active tells the standby. -/
def State.writeShared (s : State) (off v : Nat) : State :=
  if s.cway.role.standby || !(s.writable off) then s
  else (s.writeMirrored s.power.setupLock off v).logRecord 0x05 false 0xFF 0 (leBytes 4 off ++ leBytes 4 v)

/-- LINK_LOOPn (R375, R381). -/
def State.writeLoop (s : State) (off v : Nat) : State :=
  let s := s.maskWrite s.power.setupLock off v
  if v / 2 ^ 31 % 2 = 1 then s.startLoop ((off - 0x6000) / 0x400) (s.field off 2 0) (s.field off 27 16) else s

/-- CWAY_CTRL (R512, R529, R531, R536). -/
def State.writeCwayCtrl (s : State) (v : Nat) : State :=
  let s := s.maskWrite s.power.setupLock 0x7000 v
  let s := if v / 2 ^ 6 % 2 = 1 then s.cwayResign else s
  let s := if v / 2 ^ 7 % 2 = 1 then s.cwayRejoin else s
  if v / 2 ^ 8 % 2 = 1 then s.cwayPromote else s

/-- TIDE_CTRL (R458, R459, R464). -/
def State.writeTideCtrl (s : State) (v : Nat) : State :=
  let s := (s.maskWrite s.power.setupLock 0x8010 v).tideCtrl
  if v / 4 % 2 = 1 then s.resume else s

/-- The limit of rate_adj (R456). -/
def rateLimit : Int := 8589934

/-- TIDE_RATE (R456): written only in FREE; a value beyond the limit stores the limit. -/
def State.writeRate (s : State) (v : Nat) : State :=
  if s.tide.phase = .free then { s with tide := { s.tide with rateNext := satInt (signedOf 25 v) (-rateLimit) rateLimit } } else s

/-- The group registers are open (R474): no port of the mask is running. -/
def State.groupOpen (s : State) (mask : Nat) : Bool :=
  (List.range 4).all fun p => decide (mask / 2 ^ p % 2 = 0) || decide ((s.port p).phase = .stopped) || decide ((s.port p).phase = .starting)

/-- A write of TIDE_GROUP, TIDE_GEPOCH or TIDE_GPERIOD (R474). -/
def State.writeGroup (s : State) (off v : Nat) : State :=
  let next := if off = 0x8080 then groupMask v else 0
  if s.groupOpen (groupMask (s.reg 0x8080)) && s.groupOpen next then s.maskWrite s.power.setupLock off v else s

/-- t1 < t2 < t3 < t4 ≤ 125 (SENSE_THRESH, R507). -/
def threshOk (v : Nat) : Bool :=
  decide (fieldOf v 7 0 < fieldOf v 15 8) && decide (fieldOf v 15 8 < fieldOf v 23 16) && decide (fieldOf v 23 16 < fieldOf v 31 24) &&
    decide (fieldOf v 31 24 ≤ 125)

/-- FLT_RING_CTRL (R550): size_log is taken when enable was clear or the write clears it. -/
def State.writeFltCtrl (s : State) (v : Nat) : State :=
  let size := if s.field 0xE008 0 0 = 1 ∧ v % 2 = 1 then s.field 0xE008 6 4 else fieldOf v 6 4
  s.setReg 0xE008 (size * 16 + v % 2)

/-- STRD_KILL (R401, R403). -/
def State.writeKill (s : State) (v : Nat) : State :=
  let s := s.maskWrite s.power.setupLock 0xC00C v
  if v / 2 ^ 31 % 2 = 1 then s.killCtx (v % 32) else s

/-- Clear the occupancy peaks (R142). -/
def State.clearPeaks (s : State) : State := { s with harb := { s.harb with peakChn := s.chnUse, peakDram := s.dramUse } }

/-- The write of a PF BAR0 word outside the rings. -/
def State.writePf (s : State) (off v : Nat) : State :=
  if mirroredReg off then s.writeShared off v
  else if off = 0x08 then (if v / 2 ^ 31 % 2 = 1 then s.setLock else s)
  else if off = 0x201C then (if v % 2 = 1 then s.clearPeaks else s)
  else if 0x5000 ≤ off ∧ off < 0x6000 ∧ off % 0x400 = 0x4C then (if v % 2 = 1 then s.clearUnder ((off - 0x5000) / 0x400) else s)
  else if 0x6000 ≤ off ∧ off < 0x7000 ∧ off % 0x400 = 0x80 then s.writeLoop off v
  else if off = 0x7000 then s.writeCwayCtrl v
  else if off = 0x8010 then s.writeTideCtrl v
  else if off = 0x801C then s.writeRate v
  else if 0x8080 ≤ off ∧ off ≤ 0x8098 then s.writeGroup off v
  else if off = 0x9004 then (if threshOk v then s.maskWrite s.power.setupLock off v else s)
  else if off = 0xA004 then (if v % 2 = 1 then s.clearDram else s)
  else if off = 0xC00C then s.writeKill v
  else if off = 0xE008 then s.writeFltCtrl v
  else if off = 0xE020 then s.fltAck v
  else if off = 0xE02C then (if v % 2 = 1 then s.fltPinRelease else s)
  else s.maskWrite s.power.setupLock off v

/-- Where a function's BAR2 stands in the offsets of a host access: 4 KB above the 64 KB of BAR0 (log 63). -/
def inBar2 (off : Nat) : Bool := decide (0x10000 ≤ off) && decide (off < 0x11000)

/-- A host write at an offset of a function's BAR0 or BAR2: only a naturally aligned 32-bit word is taken (R11); a VF has its rings only (R79,
R80). -/
def State.hostWrite (s : State) (f off size v : Nat) : State :=
  if size ≠ 4 ∨ off % 4 ≠ 0 then s
  else if inBar2 off then { s with pcie := s.pcie.setBar2 f (off - 0x10000) v }
  else if f ≠ 0 then (if 0x100 ≤ off ∧ off < 0x200 then s.writeRing (8 * f + (off - 0x100) / 0x20) (off % 0x20) v else s)
  else if 0x1000 ≤ off ∧ off < 0x2000 then s.writeRing ((off - 0x1000) / 0x20) (off % 0x20) v
  else s.writePf off v

/-- REGISTER_WRITE (R7 to R9, R11). -/
def execRegisterWrite (f : Fin 16) (off size : Nat) (value : Word) (s : State) : Host.Outcome State Fault Refusal :=
  if s.running then .next (s.hostWrite f off size value.toNat) else .next s

/-! ### Captures (R10, R12) -/

/-- Latch a captured word. -/
def State.setCapt (s : State) (off v : Nat) : State := { s with capts := tabPut s.capts off (BitVec.ofNat 32 v) }

/-- Latch the stored words after a first one, as they stand. -/
def State.captureRegs (s : State) (base : Nat) (l : List Nat) : State :=
  l.foldl (fun s d => s.setCapt (base + d) (s.reg (base + d))) s

/-- A read of SCAN_TICKS_FRACn, SCAN_FRAME_LOn, SCAN_FSTARTn or SCAN_FLIPn captures the rest (R12, R338). -/
def State.captureScan (s : State) (p sub : Nat) : State :=
  let b := 0x5000 + 0x400 * p
  if sub = 0x08 then s.setCapt (b + 0x0C) (s.port p).mode.ticksInt
  else if sub = 0x18 then s.setCapt (b + 0x1C) ((s.port p).frame / 2 ^ 32 % 65536)
  else if sub = 0x20 then s.captureRegs b [0x24, 0x28]
  else if sub = 0x30 then s.captureRegs b [0x34, 0x38, 0x3C, 0x40]
  else s

/-- A read of TIDE_NOW_NS captures the seconds and the fraction (R479). -/
def State.captureTide (s : State) : State :=
  let t := s.tide
  ((s.setCapt 0x8004 (t.sec % 2 ^ 32)).setCapt 0x8008 (t.sec / 2 ^ 32)).setCapt 0x800C t.frac

/-- A read of RMAP_SIGn captures RMAP_SIGINFOn (R266). -/
def State.captureSig (s : State) (p : Nat) : State := s.setCapt (0x4428 + 0x80 * p) (s.rmapSigInfo p)

/-- A read of SHEP_STATn captures SHEP_AGEn (R285). -/
def State.captureAge (s : State) (p : Nat) : State :=
  s.setCapt (0x4618 + 0x40 * p) (if s.follower p then 0 else s.reg (0x4618 + 0x40 * p))

/-- A read of FLT_FIRST0 captures the other seven words, all zero while none is latched (R550). -/
def State.captureFirst (s : State) : State :=
  forN 7 (fun i s => s.setCapt (0xE044 + 4 * i) ((s.flt.first.getD []).getD (i + 1) 0)) s

/-- The capture that a read of the PF BAR0 word at an offset makes. -/
def State.capture (s : State) (off : Nat) : State :=
  if 0x5000 ≤ off ∧ off < 0x6000 then s.captureScan ((off - 0x5000) / 0x400) (off % 0x400)
  else if off = 0x8000 then s.captureTide
  else if off = 0x8084 then s.captureRegs 0x8084 [4, 8, 12]
  else if off = 0x8094 then s.captureRegs 0x8094 [4]
  else if 0xB040 ≤ off ∧ off < 0xB080 ∧ off % 8 = 0 then s.captureRun ((off - 0xB040) / 8)
  else if 0x4400 ≤ off ∧ off < 0x4600 ∧ off % 0x80 = 0x24 then s.captureSig ((off - 0x4400) / 0x80)
  else if 0x4600 ≤ off ∧ off < 0x4700 ∧ off % 0x40 = 0x14 then s.captureAge ((off - 0x4600) / 0x40)
  else if off = 0xE040 then s.captureFirst
  else s

/-! ### Reads (R9, R11, R79, R80) -/

/-- A word of a VF's window (R80). -/
def State.readVf (s : State) (f off : Nat) : Nat :=
  if off = 0x0 then 0x1296E1A7
  else if off = 0x4 then f * 256 + 0xB0
  else if off = 0x8 then s.held f * 65536 + s.field (0x80 + 4 * f) 12 0
  else if off = 0xC then bitMask ((List.range 4).filter fun p => s.owner p = f)
  else if 0x100 ≤ off ∧ off < 0x200 then s.readRing (8 * f + (off - 0x100) / 0x20) (off % 0x20)
  else 0

/-- A word of a function's BAR0 or BAR2 (R75, R79, R80). -/
def State.readBar (s : State) (f off : Nat) : Nat :=
  if inBar2 off then s.pcie.bar2 f (off - 0x10000) else if f = 0 then s.readWord off else s.readVf f off

/-- The words that a read touches. -/
def touched (off size : Nat) : List Nat := (List.range (if size = 0 then 0 else (off + size + 3) / 4 - off / 4)).map fun i => 4 * (off / 4 + i)

/-- A byte of a function's BAR0. -/
def State.readByte (s : State) (f off : Nat) : Byte := BitVec.ofNat 8 (s.readBar f (off / 4 * 4) / 256 ^ (off % 4))

/-- A host read (R10 to R12): every capture is made, then the bytes are returned. -/
def State.hostRead (s : State) (f off size : Nat) : State :=
  let s := if f = 0 then (touched off size).foldl State.capture s else s
  s.emit (.readReturn f off ((List.range size).map fun i => s.readByte f (off + i)))

/-- WIDE_REGISTER_READ (R10 to R12). -/
def execWideRegisterRead (f : Fin 16) (off size : Nat) (s : State) : Host.Outcome State Fault Refusal :=
  if s.running then .next (s.hostRead f off size) else .next s

/-- TALLY_UNIT_READ (R432). -/
def execTallyUnitRead (k : Fin 8) (s : State) : Host.Outcome State Fault Refusal :=
  if s.running then .next (s.hostRead 0 (0xB040 + 8 * k) 4) else .next s

/-- RMAP_SIG_READ (R266). -/
def execRmapSigRead (p : Fin 4) (s : State) : Host.Outcome State Fault Refusal :=
  if s.running then .next (s.hostRead 0 (0x4424 + 0x80 * p) 4) else .next s

/-- SHEP_STAT_READ (R285). -/
def execShepStatRead (p : Fin 4) (s : State) : Host.Outcome State Fault Refusal :=
  if s.running then .next (s.hostRead 0 (0x4614 + 0x40 * p) 4) else .next s

/-- TIDE_NOW_READ (R479). -/
def execTideNowRead (s : State) : Host.Outcome State Fault Refusal := if s.running then .next (s.hostRead 0 0x8000 4) else .next s

/-- FLT_FIRST_READ (R550). -/
def execFltFirstRead (s : State) : Host.Outcome State Fault Refusal := if s.running then .next (s.hostRead 0 0xE040 4) else .next s

end Sys2Proof.Machine
end

