-- ==== Sys2Proof/Machine/Dispatch.lean ====
section
/-! DEFINITION. The dispatch of a command to its meaning: one arm per row of the opcode table. -/

namespace Sys2Proof.Machine

def exec (i : Instr) (s : State) : Host.Outcome State Fault Refusal :=
  match i with
  | .railDrop => Sys2Proof.Machine.execRailDrop s
  | .powerOnResetRelease rolePref bootMode => Sys2Proof.Machine.execPowerOnResetRelease rolePref bootMode s
  | .pwrResetNAssert => Sys2Proof.Machine.execPwrResetNAssert s
  | .pwrResetNRelease rolePref bootMode => Sys2Proof.Machine.execPwrResetNRelease rolePref bootMode s
  | .perstNAssert => Sys2Proof.Machine.execPerstNAssert s
  | .perstNRelease => Sys2Proof.Machine.execPerstNRelease s
  | .pfFunctionLevelReset => Sys2Proof.Machine.execPfFunctionLevelReset s
  | .vfFunctionLevelReset f => Sys2Proof.Machine.execVfFunctionLevelReset f s
  | .bootImageVerified directoryOk a b => Sys2Proof.Machine.execBootImageVerified directoryOk a b s
  | .bootConfigRead record => Sys2Proof.Machine.execBootConfigRead record s
  | .bootPlateDecoded stream => Sys2Proof.Machine.execBootPlateDecoded stream s
  | .dramTrainingDone working => Sys2Proof.Machine.execDramTrainingDone working s
  | .storeReadDone => Sys2Proof.Machine.execStoreReadDone s
  | .jtagUnlock signatureOk => Sys2Proof.Machine.execJtagUnlock signatureOk s
  | .watchdogExpiry => Sys2Proof.Machine.execWatchdogExpiry s
  | .purserRestartDone => Sys2Proof.Machine.execPurserRestartDone s
  | .registerWrite f off size value => Sys2Proof.Machine.execRegisterWrite f off size value s
  | .wideRegisterRead f off size => Sys2Proof.Machine.execWideRegisterRead f off size s
  | .gctlLock => Sys2Proof.Machine.execGctlLock s
  | .ringEnable r => Sys2Proof.Machine.execRingEnable r s
  | .ringDisable r => Sys2Proof.Machine.execRingDisable r s
  | .doorbellEnableReadReturn r res => Sys2Proof.Machine.execDoorbellEnableReadReturn r res s
  | .pollRound => Sys2Proof.Machine.execPollRound s
  | .pollReadReturn r res => Sys2Proof.Machine.execPollReadReturn r res s
  | .descriptorFetch r => Sys2Proof.Machine.execDescriptorFetch r s
  | .fetchReturn r data => Sys2Proof.Machine.execFetchReturn r data s
  | .descriptorStart id => Sys2Proof.Machine.execDescriptorStart id s
  | .nop r => Sys2Proof.Machine.execNop r s
  | .objAlloc r => Sys2Proof.Machine.execObjAlloc r s
  | .objFree r => Sys2Proof.Machine.execObjFree r s
  | .objWrite r => Sys2Proof.Machine.execObjWrite r s
  | .objWriteDone id data => Sys2Proof.Machine.execObjWriteDone id data s
  | .objRead r => Sys2Proof.Machine.execObjRead r s
  | .objReadDone id poisonedRead => Sys2Proof.Machine.execObjReadDone id poisonedRead s
  | .plateLoad r => Sys2Proof.Machine.execPlateLoad r s
  | .plateLoadStart id => Sys2Proof.Machine.execPlateLoadStart id s
  | .plateLoadDone id data => Sys2Proof.Machine.execPlateLoadDone id data s
  | .streamDecode r => Sys2Proof.Machine.execStreamDecode r s
  | .streamContinue r => Sys2Proof.Machine.execStreamContinue r s
  | .streamDescStart id => Sys2Proof.Machine.execStreamDescStart id s
  | .streamDescEnd id data => Sys2Proof.Machine.execStreamDescEnd id data s
  | .strdKill index => Sys2Proof.Machine.execStrdKill index s
  | .sceneCommit r table => Sys2Proof.Machine.execSceneCommit r table s
  | .toneCurvePin id => Sys2Proof.Machine.execToneCurvePin id s
  | .modeSet r => Sys2Proof.Machine.execModeSet r s
  | .modeSetStop r => Sys2Proof.Machine.execModeSetStop r s
  | .shepherdUpdate r table => Sys2Proof.Machine.execShepherdUpdate r table s
  | .signatureExpect r table => Sys2Proof.Machine.execSignatureExpect r table s
  | .sawyerList r list => Sys2Proof.Machine.execSawyerList r list s
  | .sawyerListStart id list => Sys2Proof.Machine.execSawyerListStart id list s
  | .fill id k => Sys2Proof.Machine.execFill id k s
  | .copy id k => Sys2Proof.Machine.execCopy id k s
  | .convert id k => Sys2Proof.Machine.execConvert id k s
  | .blend id k => Sys2Proof.Machine.execBlend id k s
  | .maskFill id k => Sys2Proof.Machine.execMaskFill id k s
  | .waitScan id k => Sys2Proof.Machine.execWaitScan id k s
  | .sawyerRowDone id k => Sys2Proof.Machine.execSawyerRowDone id k s
  | .sawyerCommandDone id k => Sys2Proof.Machine.execSawyerCommandDone id k s
  | .tallyJob r => Sys2Proof.Machine.execTallyJob r s
  | .tallyJobStart id => Sys2Proof.Machine.execTallyJobStart id s
  | .tallyJobDone id data poisonedRead => Sys2Proof.Machine.execTallyJobDone id data poisonedRead s
  | .tallyUnitRead k => Sys2Proof.Machine.execTallyUnitRead k s
  | .calLoad r => Sys2Proof.Machine.execCalLoad r s
  | .calLoadStart id => Sys2Proof.Machine.execCalLoadStart id s
  | .calLoadReady id => Sys2Proof.Machine.execCalLoadReady id s
  | .calMeasureElectrical r => Sys2Proof.Machine.execCalMeasureElectrical r s
  | .calMeasurePhotometric r => Sys2Proof.Machine.execCalMeasurePhotometric r s
  | .calMeasureRepeat id first => Sys2Proof.Machine.execCalMeasureRepeat id first s
  | .calMeasureDone id second => Sys2Proof.Machine.execCalMeasureDone id second s
  | .calStore r => Sys2Proof.Machine.execCalStore r s
  | .calStoreDone outcome => Sys2Proof.Machine.execCalStoreDone outcome s
  | .tideProgramOut r block => Sys2Proof.Machine.execTideProgramOut r block s
  | .tideProgramCap r block => Sys2Proof.Machine.execTideProgramCap r block s
  | .tideStepArm r => Sys2Proof.Machine.execTideStepArm r s
  | .fence r => Sys2Proof.Machine.execFence r s
  | .waitTime r => Sys2Proof.Machine.execWaitTime r s
  | .waitTimeExpiry id => Sys2Proof.Machine.execWaitTimeExpiry id s
  | .harbTileMove tile dest unreadable => Sys2Proof.Machine.execHarbTileMove tile dest unreadable s
  | .relocationEnd ch => Sys2Proof.Machine.execRelocationEnd ch s
  | .harbClearPeaks => Sys2Proof.Machine.execHarbClearPeaks s
  | .lineSendSlot p => Sys2Proof.Machine.execLineSendSlot p s
  | .segmentSendSlot p => Sys2Proof.Machine.execSegmentSendSlot p s
  | .captureFrameDone p dropped => Sys2Proof.Machine.execCaptureFrameDone p dropped s
  | .weaveTileStart shuttle => Sys2Proof.Machine.execWeaveTileStart shuttle s
  | .weaveSegmentDone shuttle => Sys2Proof.Machine.execWeaveSegmentDone shuttle s
  | .witnessTileDone p => Sys2Proof.Machine.execWitnessTileDone p s
  | .throttleEbbTimer u => Sys2Proof.Machine.execThrottleEbbTimer u s
  | .rmapSignatureCheck p upset => Sys2Proof.Machine.execRmapSignatureCheck p upset s
  | .almanacScrub p damage => Sys2Proof.Machine.execAlmanacScrub p damage s
  | .rmapSigRead p => Sys2Proof.Machine.execRmapSigRead p s
  | .shepStatRead p => Sys2Proof.Machine.execShepStatRead p s
  | .safeStateNEdge level => Sys2Proof.Machine.execSafeStateNEdge level s
  | .safeStateApply => Sys2Proof.Machine.execSafeStateApply s
  | .safeStateCease => Sys2Proof.Machine.execSafeStateCease s
  | .watchNop mosi => Sys2Proof.Machine.execWatchNop mosi s
  | .watchRead mosi => Sys2Proof.Machine.execWatchRead mosi s
  | .watchWrite mosi => Sys2Proof.Machine.execWatchWrite mosi s
  | .wpActivate p => Sys2Proof.Machine.execWpActivate p s
  | .wpRmsigRead p => Sys2Proof.Machine.execWpRmsigRead p s
  | .wpRegionSignatureRead p region => Sys2Proof.Machine.execWpRegionSignatureRead p region s
  | .scanClearUnder p => Sys2Proof.Machine.execScanClearUnder p s
  | .modeRetransmit p => Sys2Proof.Machine.execModeRetransmit p s
  | .modeStartTimeout p => Sys2Proof.Machine.execModeStartTimeout p s
  | .modeAckTimeout p => Sys2Proof.Machine.execModeAckTimeout p s
  | .stopHoldEnd p => Sys2Proof.Machine.execStopHoldEnd p s
  | .grossMarker p => Sys2Proof.Machine.execGrossMarker p s
  | .caps p msg => Sys2Proof.Machine.execCaps p msg s
  | .status p msg => Sys2Proof.Machine.execStatus p msg s
  | .laneLoss p msg => Sys2Proof.Machine.execLaneLoss p msg s
  | .modeAck p msg => Sys2Proof.Machine.execModeAck p msg s
  | .train p msg => Sys2Proof.Machine.execTrain p msg s
  | .tally p msg => Sys2Proof.Machine.execTally p msg s
  | .leaseEvent p msg => Sys2Proof.Machine.execLeaseEvent p msg s
  | .backChannelSilent p => Sys2Proof.Machine.execBackChannelSilent p s
  | .backChannelLockTimeout p => Sys2Proof.Machine.execBackChannelLockTimeout p s
  | .trainingTimeout p => Sys2Proof.Machine.execTrainingTimeout p s
  | .trainingRetry p => Sys2Proof.Machine.execTrainingRetry p s
  | .retrainAttemptTimeout p lane => Sys2Proof.Machine.execRetrainAttemptTimeout p lane s
  | .retrainPauseEnd p lane => Sys2Proof.Machine.execRetrainPauseEnd p lane s
  | .laneWakeDone p => Sys2Proof.Machine.execLaneWakeDone p s
  | .linkLoopStart p => Sys2Proof.Machine.execLinkLoopStart p s
  | .loopbackEnd p errors => Sys2Proof.Machine.execLoopbackEnd p errors s
  | .dramRequestArrive ch port bank row col write => Sys2Proof.Machine.execDramRequestArrive ch port bank row col write s
  | .dramRequestDone ch res => Sys2Proof.Machine.execDramRequestDone ch res s
  | .mr4Poll ch mr4 => Sys2Proof.Machine.execMr4Poll ch mr4 s
  | .perBankRefresh ch bank => Sys2Proof.Machine.execPerBankRefresh ch bank s
  | .refreshWindowEnd ch bank => Sys2Proof.Machine.execRefreshWindowEnd ch bank s
  | .disturbanceHoldEnd ch bank port => Sys2Proof.Machine.execDisturbanceHoldEnd ch bank port s
  | .selfRefreshEntry ch => Sys2Proof.Machine.execSelfRefreshEntry ch s
  | .selfRefreshExitDone ch => Sys2Proof.Machine.execSelfRefreshExitDone ch s
  | .periodicRetrainSlice ch temp marginLow => Sys2Proof.Machine.execPeriodicRetrainSlice ch temp marginLow s
  | .recoveryRetrainDone ch temp found => Sys2Proof.Machine.execRecoveryRetrainDone ch temp found s
  | .dramClearStats => Sys2Proof.Machine.execDramClearStats s
  | .ptmDialogueStart => Sys2Proof.Machine.execPtmDialogueStart s
  | .ptmResponse master turnaround => Sys2Proof.Machine.execPtmResponse master turnaround s
  | .ptmTimeout => Sys2Proof.Machine.execPtmTimeout s
  | .tideResume => Sys2Proof.Machine.execTideResume s
  | .tideNowRead => Sys2Proof.Machine.execTideNowRead s
  | .tideOutPulseStart n => Sys2Proof.Machine.execTideOutPulseStart n s
  | .tideOutPulseEnd n => Sys2Proof.Machine.execTideOutPulseEnd n s
  | .tideCapEdge n rising => Sys2Proof.Machine.execTideCapEdge n rising s
  | .dieSensorSample k reading => Sys2Proof.Machine.execDieSensorSample k reading s
  | .analogueTrip => Sys2Proof.Machine.execAnalogueTrip s
  | .remoteDiodeSample n dv => Sys2Proof.Machine.execRemoteDiodeSample n dv s
  | .boardSensorSample dv => Sys2Proof.Machine.execBoardSensorSample dv s
  | .ainSample n raw => Sys2Proof.Machine.execAinSample n raw s
  | .peerOkToggle => Sys2Proof.Machine.execPeerOkToggle s
  | .peerOkInEdge => Sys2Proof.Machine.execPeerOkInEdge s
  | .heartbeatLost => Sys2Proof.Machine.execHeartbeatLost s
  | .causewayDown => Sys2Proof.Machine.execCausewayDown s
  | .pairHelloTimeout => Sys2Proof.Machine.execPairHelloTimeout s
  | .powerOnTransmitTest => Sys2Proof.Machine.execPowerOnTransmitTest s
  | .idleRecord record => Sys2Proof.Machine.execIdleRecord record s
  | .causewayIdleTimer => Sys2Proof.Machine.execCausewayIdleTimer s
  | .descRecord record => Sys2Proof.Machine.execDescRecord record s
  | .dataRecord record => Sys2Proof.Machine.execDataRecord record s
  | .doneRecord record => Sys2Proof.Machine.execDoneRecord record s
  | .applyRecord record => Sys2Proof.Machine.execApplyRecord record s
  | .regRecord record => Sys2Proof.Machine.execRegRecord record s
  | .snapobjRecord record => Sys2Proof.Machine.execSnapobjRecord record s
  | .snapRecord record => Sys2Proof.Machine.execSnapRecord record s
  | .snapstateRecord record => Sys2Proof.Machine.execSnapstateRecord record s
  | .breakRecord record => Sys2Proof.Machine.execBreakRecord record s
  | .faultRecord record => Sys2Proof.Machine.execFaultRecord record s
  | .resignRecord record => Sys2Proof.Machine.execResignRecord record s
  | .ackRecord record => Sys2Proof.Machine.execAckRecord record s
  | .ackTimer => Sys2Proof.Machine.execAckTimer s
  | .helloRecord record => Sys2Proof.Machine.execHelloRecord record s
  | .helloTimer => Sys2Proof.Machine.execHelloTimer s
  | .trainRecord record => Sys2Proof.Machine.execTrainRecord record s
  | .leaseRenew => Sys2Proof.Machine.execLeaseRenew s
  | .leaseClaim p => Sys2Proof.Machine.execLeaseClaim p s
  | .claimRefusedTimeout p => Sys2Proof.Machine.execClaimRefusedTimeout p s
  | .resignWaitTimeout => Sys2Proof.Machine.execResignWaitTimeout s
  | .cwayResign => Sys2Proof.Machine.execCwayResign s
  | .cwayRejoin => Sys2Proof.Machine.execCwayRejoin s
  | .cwayPromote => Sys2Proof.Machine.execCwayPromote s
  | .fltAck seq => Sys2Proof.Machine.execFltAck seq s
  | .fltPinRelease => Sys2Proof.Machine.execFltPinRelease s
  | .fltFirstRead => Sys2Proof.Machine.execFltFirstRead s
  | .pcieLinkUp => Sys2Proof.Machine.execPcieLinkUp s
  | .causewayLaneLost receive lane => Sys2Proof.Machine.execCausewayLaneLost receive lane s
  | .internalConsistencyFailure unit => Sys2Proof.Machine.execInternalConsistencyFailure unit s
  | .watchBadOpcodeFrame mosi => Sys2Proof.Machine.execWatchBadOpcodeFrame mosi s

end Sys2Proof.Machine
end

