-- ==== Sys2Proof/Safety.lean ====
section
/-! DEFINITION. What statements call a good state, and the words they use of commands and of what a command leaves alone. -/

namespace Sys2Proof.Machine

/-- Keys strictly rising. -/
def tabSorted {α : Type} (t : Tab α) : Prop := t.Pairwise fun a b => a.1 < b.1

/-- No entry of the register table equals its register's reset value. -/
def regsLean (t : Tab Word) : Prop := ∀ e ∈ t, e.2 ≠ resetWord e.1

/-- No entry of the Watch register table equals its register's reset value. -/
def wregsLean (t : Tab Word) : Prop := ∀ e ∈ t, e.2 ≠ watchReset e.1

/-- The ledger stands in acceptance order, each entry under an id of its own that has been given (R96). -/
def ledgerOrdered (l : List Entry) (next : Nat) : Prop :=
  (l.Pairwise fun a b => a.id < b.id) ∧ ∀ e ∈ l, e.id < next

/-- The two banks of a port's protected store (R298). -/
def Prot.banks (x : Prot) : Tab Byte × Tab Byte := (x.bank0, x.bank1)

/-- The state is in canonical form: sparse tables with keys strictly rising and without entries at their reset values, so that equal
contents are equal data, and the ledger in acceptance order. -/
structure Canon (s : State) : Prop where
  regs : tabSorted s.regs ∧ regsLean s.regs
  wregs : tabSorted s.wregs ∧ wregsLean s.wregs
  rings : tabSorted s.rings
  ports : tabSorted s.ports
  chans : tabSorted s.chans
  ctxs : tabSorted s.ctxs
  units : tabSorted s.units
  shuttles : tabSorted s.shuttles
  outs : tabSorted s.outs
  tcaps : tabSorted s.tcaps
  objs : tabSorted s.objs
  gens : tabSorted s.gens
  tills : tabSorted s.tills
  table : tabSorted s.pcie.table
  ledger : ledgerOrdered s.ledger s.nextId

/-- While fatal_hold is set, FAULT_N is asserted (R549). -/
def FatalPinned (s : State) : Prop := s.flt.fatalHold = true → s.flt.pin = true

/-- The commands that put the device in a full reset (R553, R556). -/
def fullReset : Instr → Bool
  | .railDrop => true
  | .pwrResetNAssert => true
  | _ => false

/-- The commands of the pin SAFE_STATE_N and of the Watch port, which no host drives (R304, R307). -/
def watchSide : Instr → Bool
  | .safeStateNEdge _ => true
  | .safeStateApply => true
  | .safeStateCease => true
  | .watchNop _ => true
  | .watchRead _ => true
  | .watchWrite _ => true
  | .watchBadOpcodeFrame _ => true
  | _ => false

/-- Descriptor `d` of ring `r` has been compared and waits for its acceptance under this opcode, its ring RUNNING, with nothing for the
checks of R96 to find and a ledger slot for its function (R94, R96, R97, R118). -/
structure Taken (s : State) (r op : Nat) (d : Desc) : Prop where
  cur  : (s.ring r).cur = some d
  home : d.ring = r
  op   : d.opcode = op
  runs : (s.ring r).state = .running
  sound : s.staticFail d = none
  room : s.slotFree d.fn = true

/-- The ledger slot that a descriptor accepted now takes (R96). -/
def State.newEntry (s : State) (d : Desc) (job : Job) (versions : List (Nat × Nat)) : Entry :=
  { id := s.nextId, fn := d.fn, desc := d, started := false, readyAt := none, versions := versions, job := job, tiles := [], work := []
    muted := false, mirrored := false, wrote := [], shared := [] }

/-- A descriptor accepted now would start at once: nothing in the ledger holds it back (R105 to R108), and no object it names is lost or
marked invalid (R146, R400). -/
def State.goesAtOnce (s : State) (d : Desc) : Prop :=
  (∀ x ∈ s.ledger, (s.newEntry d .plain []).waitsFor x = false) ∧ s.startFail (s.newEntry d .plain []) = none

/-- What leaves the device when a descriptor completes: its record at its slot, then the ring's message if it asks for one (R110, R111,
R116). -/
def State.completion (s : State) (d : Desc) (signal : Bool) (f : Fail) (r0 r1 : Nat) : List Egress :=
  Egress.write d.fn ((s.ring d.ring).cpl + 32 * s.slotOf d) (cplBytes d f.1 f.2 s.tideNs r0 r1) ::
    (if d.irq || signal then [Egress.msix d.fn (s.ringVector d.ring)] else [])

/-- The entry of the ledger completes in the state: it is the host's own, and the device may still write (R119, R515, R549). -/
structure Completing (s : State) (id : Nat) (e : Entry) : Prop where
  here : s.entry id = some e
  loud : e.muted = false
  own  : e.mirrored = false
  live : s.flt.fatalHold = false

/-- The version number that a descriptor accepted now gets for a surface it writes (R129); objects that are no plate surface get none. -/
def State.versionGiven (s : State) (h : Nat) : List (Nat × Nat) := match s.objOf h with
  | some o => if o.cls = 0 then [(h, o.given + 1)] else []
  | none => []

/-- The entry has left the ledger, and its completion has gone out behind everything sent before (R96, R110). -/
def Completed (s t : State) (e : Entry) (signal : Bool) (f : Fail) (r0 r1 : Nat) : Prop :=
  (t.ledger = s.ledger.filter fun x => decide (x.id ≠ e.id)) ∧ t.egress = s.egress ++ s.completion e.desc signal f r0 r1

/-- The same, where the descriptor has written words of an object that descriptors of other rings may write or read meanwhile: the entries
that stay are as they were, but for what they keep of each other's words (R109). -/
def Ended (s t : State) (e : Entry) (signal : Bool) (f : Fail) (r0 r1 : Nat) : Prop :=
  (t.ledger.map fun x => { x with shared := [] }) = ((s.ledger.filter fun x => decide (x.id ≠ e.id)).map fun x => { x with shared := [] }) ∧
  t.egress = s.egress ++ s.completion e.desc signal f r0 r1

/-- No rule leaves the entry unordered with another that writes or reads the object (R107, R109). -/
def State.alone (s : State) (e : Entry) (h : Nat) : Prop := s.rivals e h = [] ∧ e.shared = []

/-- A word of PF BAR0 that nothing but the plain write of R7 answers for: no bit of it acts, and it is not shared with the peer. -/
def plainOffset (off : Nat) : Bool :=
  !(inBar2 off) && !(mirroredReg off) && !(decide (0x1000 ≤ off) && decide (off < 0x2000)) &&
  !(([0x08, 0x201C, 0x7000, 0x8010, 0x801C, 0x9004, 0xA004, 0xC00C, 0xE008, 0xE020, 0xE02C] : List Nat).contains off) &&
  !(decide (0x5000 ≤ off) && decide (off < 0x6000) && decide (off % 0x400 = 0x4C)) &&
  !(decide (0x6000 ≤ off) && decide (off < 0x7000) && decide (off % 0x400 = 0x80)) &&
  !(decide (0x8080 ≤ off) && decide (off ≤ 0x8098))

end Sys2Proof.Machine
end

