-- ==== Sys2Proof/Certificates/Slice0/Obligations.lean ====
section
/-! DEFINITION. The statements for the provers, in the terms of Safety: what each command does and where it completes, and what every step
keeps. -/

open Sys2Proof Sys2Proof.Machine

/-- The queue is served first in, first out: a step runs the command at the front of the queue on the state whose queue is the rest (log
1). -/
def Obligations.StepRunsFront : Prop :=
  ∀ (c : Instr) (rest : List Instr) (s : State),
    step { s with pending := c :: rest } = exec c { s with pending := rest }

/-- On an empty queue one tick of CLK_CORE passes (R5; log 1). Every sixth tick of a running device is a CLK_TIME edge (R455, R601).
Beside the clock only the sending lanes of the ports and of the Causeway, the queues of the PCIe side and, at the end of a CLK_FAB cycle
in which something was raised, the error block, its counts, what is issued and the Causeway's records change (R33, R347, R509, R538). -/
def Obligations.IdleStepIsOneTick : Prop :=
  ∀ s : State, s.pending = [] → ∃ t, step s = .next t ∧ t.now = s.now + 1 ∧
    t.tide = (if (s.now + 1) % 6 = 0 ∧ s.power.boot ≠ .inReset then s.tide.edge else s.tide) ∧
    (∀ p, { t.port p with link := (s.port p).link } = s.port p ∧
      { (t.port p).link with coder := (s.port p).link.coder, precode := (s.port p).link.precode
                             precodeNext := (s.port p).link.precodeNext } = (s.port p).link) ∧
    { t with now := s.now, tide := s.tide, ports := s.ports, pcie := s.pcie, flt := s.flt, regs := s.regs, egress := s.egress
             cway := s.cway } = s ∧
    ((s.now + 1) % 2 = 1 ∨ s.flt.raised = [] → t.flt = s.flt ∧ t.regs = s.regs ∧ t.egress = s.egress ∧
      { t.cway with wire := s.cway.wire, placed := s.cway.placed } = s.cway)

/-- Reset holds nothing that is out of canonical form, waits for nothing, has sent nothing and is not in the fatal state. -/
def Obligations.ResetIsCanonical : Prop :=
  Canon State.reset ∧ FatalPinned State.reset ∧ State.reset.pending = [] ∧ State.reset.egress = [] ∧ State.reset.flt.fatalHold = false

/-- Every step keeps the canonical form: tables sorted, no word held at its reset value, the ledger in acceptance order (R96). -/
def Obligations.CanonicalFormKept : Prop :=
  ∀ s t : State, Canon s → step s = .next t → Canon t

/-- Whatever step is made, FAULT_N stays asserted while fatal_hold is set (R547, R549). -/
def Obligations.FatalPinKept : Prop :=
  ∀ s t : State, FatalPinned s → step s = .next t → FatalPinned t

/-- Only a full reset leaves the fatal state (R549). The version minimum in the fuses never falls, whatever command runs, full resets
included (R561, R562). -/
def Obligations.FatalStateAndFuseMinimumKept : Prop :=
  (∀ (c : Instr) (s t : State), fullReset c = false → s.flt.fatalHold = true → exec c s = .next t → t.flt.fatalHold = true) ∧
  (∀ (c : Instr) (s t : State), exec c s = .next t → s.power.fuseMin ≤ t.power.fuseMin)

/-- What has left the device stays sent, in its order: a command only adds behind it (R110). -/
def Obligations.SentStaysSent : Prop :=
  ∀ (c : Instr) (s t : State), fullReset c = false → exec c s = .next t → s.egress <+: t.egress

/-- Nothing but the Watch port writes the banks of a protected store, and nothing but the pin's own filter makes SAFE_STATE_N apply or
cease to apply: no other command short of a full reset touches either (R298, R304, R307). -/
def Obligations.SafetyContentIsolated : Prop :=
  ∀ (c : Instr) (s t : State), fullReset c = false → watchSide c = false → exec c s = .next t →
    t.power.safeApplied = s.power.safeApplied ∧ ∀ p, (t.port p).prot.banks = (s.port p).prot.banks

/-- A command takes no time and leaves the commands behind it waiting as they were (log 1). -/
def Obligations.CommandsLeaveQueueAndClock : Prop :=
  ∀ (c : Instr) (s t : State), exec c s = .next t → t.pending = s.pending ∧ t.now = s.now

/-! Power, resets, boot -/

/-- RAIL_DROP and PWR_RESET_N_ASSERT put every field at its reset value, but for the flash, the fuses, the levels of the pins, the
commands that wait and the model's own counters (R553, R556). -/
def Obligations.FullResets : Prop :=
  ∀ s : State,
    let clean : Power :=
      { Power.reset with railsLow := s.power.railsLow, pwrLow := s.power.pwrLow, perstLow := s.power.perstLow
                         safeLevel := s.power.safeLevel, fuseMin := s.power.fuseMin }
    let t : State :=
      { State.reset with pending := s.pending, now := s.now, fresh := s.fresh
                         sense := { Sense.reset with flashA := s.sense.flashA, flashB := s.sense.flashB } }
    exec .railDrop s = .next { t with power := { clean with railsLow := true } } ∧
    exec .pwrResetNAssert s = .next { t with power := { clean with pwrLow := true } }

/-- The release of the last full reset samples the straps, starts the boot ROM or holds under BOOT_MODE 3, keeps the cause in
GCTL_RSTCAUSE and the strap's value in CWAY_ID, and changes nothing else (R536, R555, R563, R572). PERST_N and the Function Level
Resets: every ring of the reset functions is disabled at once and its cause kept; PERST_N takes the link down and clears SETUP_LOCK, a
PF Function Level Reset keeps both (R119, R556, R558, R572). PCIE_LINK_UP: the endpoint answers, and what TIDE_CAP held back while the
link was down goes out, oldest first (R473, R568). -/
def Obligations.ReleasesAndHostResets : Prop :=
  (∀ (pref : Bool) (mode : Fin 4) (s : State), Canon s →
      let boot (w : Power) : Power :=
        { w with boot := if mode.val = 3 then .held else .rom, failure := if mode.val = 3 then 6 else 0, rolePref := pref
                 bootMode := mode.val, bootState := true, releasedAt := s.now, safeEdge := some (periEdge s.now) }
      (s.power.railsLow = true → s.power.pwrLow = false → ∃ t, exec (.powerOnResetRelease pref mode) s = .next t ∧
        t.power = boot { s.power with railsLow := false } ∧ t.field 0x14 0 0 = 1 ∧ t.reg 0x7028 = (if pref then 1 else 2) ∧
        { t with power := s.power, regs := s.regs } = s) ∧
      (s.power.pwrLow = true → s.power.railsLow = false → ∃ t, exec (.pwrResetNRelease pref mode) s = .next t ∧
        t.power = boot { s.power with pwrLow := false } ∧ t.field 0x14 1 1 = 1 ∧ t.reg 0x7028 = (if pref then 1 else 2) ∧
        { t with power := s.power, regs := s.regs } = s)) ∧
  (∀ s : State, s.power.boot ≠ .inReset →
      (s.power.perstLow = false → ∃ t, exec .perstNAssert s = .next t ∧ t.power.perstLow = true ∧ t.power.linkUp = false ∧
        t.power.setupLock = false ∧ t.rings = [] ∧ t.flt.written = 0) ∧
      (s.power.perstLow = true → exec .perstNRelease s =
        .next ({ s with power := { s.power with perstLow := false } }.setBit 0x14 2)) ∧
      (∃ t, exec .pfFunctionLevelReset s = .next t ∧ t.power = s.power ∧ t.rings = [] ∧ t.flt.written = 0) ∧
      (∀ f : Fin 16, f.val ≠ 0 → ∃ t, exec (.vfFunctionLevelReset f) s = .next t ∧ t.power = s.power ∧
        ∀ r, r / 8 = f.val → (t.ring r).state = .disabled)) ∧
  (∀ s : State, s.power.boot ≠ .inReset → s.power.perstLow = false → s.power.linkUp = false →
      ∃ t, exec .pcieLinkUp s = .next t ∧ t.power = { s.power with linkUp := true } ∧
        (∀ n, n < 4 → t.cap n = { s.cap n with buffered := [] }) ∧
        t.egress = s.egress ++ (List.range 4).flatMap (fun n => (s.cap n).buffered.map fun b => .data 0 b.1 b.2 0) ∧
        { t with power := s.power, tcaps := s.tcaps, egress := s.egress } = s)

/-- The boot ROM: without a directory the boot fails with 1; with one, the first valid image in the order of R562 and R563 runs,
fallback telling that it is not the one tried first, and with no valid image the boot fails with 2 (R560 to R564). -/
def Obligations.FirmwareImageChosen : Prop :=
  ∀ (a b : BootImage) (s : State), s.power.boot = .rom →
    let fails (n : Nat) : State := { s with power := { s.power with boot := .failed, failure := n, purserUp := false } }
    let valid (x : BootImage) : Prop :=
      x.magic = 0x50F1AC01 ∧ x.length.toNat ≤ 1048576 ∧ s.power.fuseMin ≤ x.version.toNat ∧ x.signatureOk = true
    let bFirst : Prop := s.power.bootMode = 2 ∨ a.version.toNat < b.version.toNat
    let ran (isB fallback : Bool) (x : BootImage) : State :=
      { s with
        power := { s.power with boot := .firmware, purserUp := true, imageB := isB, fallback := fallback, fwVersion := x.version.toNat
                                commitVersion := x.commitVersion }
        cway := { s.cway with okNext := some (s.now + usTicks 500) } }
    exec (.bootImageVerified false a b) s = .next (fails 1) ∧
    (¬ valid a → ¬ valid b → exec (.bootImageVerified true a b) s = .next (fails 2)) ∧
    (¬ bFirst → valid a → exec (.bootImageVerified true a b) s = .next (ran false false a)) ∧
    (¬ bFirst → ¬ valid a → valid b → exec (.bootImageVerified true a b) s = .next (ran true true b)) ∧
    (bFirst → valid b → exec (.bootImageVerified true a b) s = .next (ran true false b)) ∧
    (bFirst → ¬ valid b → valid a → exec (.bootImageVerified true a b) s = .next (ran false true a))

/-- The boot configuration: an invalid record fails the boot with 3; a valid one is kept and names the boot ports (R565). The boot plate
of BOOT_MODE 0 is decoded once: without a plate, or with one outside its limits (failure 4), none is shown (R565, R566). boot_ready is
set once DRAM training has ended and the store has been read, in either order; a running image with commit_version then raises the fuse
minimum (R449, R506, R562, R569). The JTAG port is unlocked by a good signature, and never while the boot ROM runs (R571). -/
def Obligations.BootConfigurationAndReady : Prop :=
  (∀ s : State,
      (s.power.boot = .firmware → ∀ record : List Byte,
        let ok := 64 ≤ record.length ∧ leAt record 0 4 = 0x50BC0F01 ∧ leAt record 4 4 = 1 ∧ leAt record 60 4 = crc32c 0 (record.take 60)
        (¬ ok → exec (.bootConfigRead record) s =
          .next { s with power := { s.power with boot := .failed, failure := 3, purserUp := false } }) ∧
        (ok → ∃ t, exec (.bootConfigRead record) s = .next t ∧ t.power =
          { s.power with boot := .configured, bootConfig := record.take 64, bootPorts := leAt record 9 1 % 16 })) ∧
      (s.power.boot = .configured → s.power.bootMode = 0 → s.power.plateTried = false → ∀ stream : List Byte,
        let tried : State := { s with power := { s.power with plateTried := true } }
        (s.power.hasPlate = false → exec (.bootPlateDecoded stream) s = .next tried.bootStart) ∧
        (s.power.hasPlate = true → s.power.plateOk = false →
          exec (.bootPlateDecoded stream) s = .next (tried.bootFails 4).bootStart) ∧
        (s.power.hasPlate = true → s.power.plateOk = true → ∀ u, tried.decodePlate stream = some u →
          exec (.bootPlateDecoded stream) s = .next u.bootStart))) ∧
  (∀ s : State,
      (s.power.boot = .configured → s.power.dramDone = false → ∀ working : BitVec 16,
        ∃ t, exec (.dramTrainingDone working) s = .next t ∧ t.dramReady = true ∧ t.power.dramDone = true ∧
          t.power.bootReady = (s.power.bootReady || s.power.storeDone) ∧
          t.power.fuseMin = (if s.power.storeDone ∧ ¬ s.power.bootReady ∧ s.power.commitVersion then max s.power.fuseMin s.power.fwVersion
                             else s.power.fuseMin)) ∧
      (s.power.boot = .configured → s.power.storeDone = false →
        ∃ t, exec .storeReadDone s = .next t ∧ t.power.storeDone = true ∧
          t.power.bootReady = (s.power.bootReady || s.power.dramDone) ∧
          t.power.fuseMin = (if s.power.dramDone ∧ ¬ s.power.bootReady ∧ s.power.commitVersion then max s.power.fuseMin s.power.fwVersion
                             else s.power.fuseMin)) ∧
      (s.power.boot ≠ .inReset → s.power.boot ≠ .rom →
        exec (.jtagUnlock true) s = .next { s with power := { s.power with unlocked := true } }) ∧
      (s.power.boot = .rom ∨ s.power.boot = .inReset → exec (.jtagUnlock true) s = .next s) ∧
      exec (.jtagUnlock false) s = .next s)

/-- The watchdog (R548): a first expiry, or one more than 10 s after the last, of a unit that is SOLO or in no pair restarts the Purser,
which stops calibration; every other is FATAL DEVICE 0x02. The end of the restart raises DEVICE 0x01 and keeps the cause. -/
def Obligations.Watchdog : Prop :=
  ∀ s : State,
    let down : State :=
      { s with flt := { s.flt with expiries := satNat (s.flt.expiries + 1) 65535, wdogAt := some s.now }
               power := { s.power with purserUp := false } }
    let restarts : Prop :=
      (s.paired = false ∨ s.cway.role = .solo) ∧ (∀ t, s.flt.wdogAt = some t → t + 15000000000 < s.now)
    (s.power.boot ≠ .inReset → s.power.purserUp = true → restarts →
      exec .watchdogExpiry s = .next { down with flt := { down.flt with restarting := true } }.abortCalibration) ∧
    (s.power.boot ≠ .inReset → s.power.purserUp = true → ¬ restarts →
      exec .watchdogExpiry s = .next (down.raise (err 3 0x0F 0x02 0 down.flt.expiries 0 0))) ∧
    (s.flt.restarting = true → exec .purserRestartDone s =
      .next (({ s with flt := { s.flt with restarting := false }, power := { s.power with purserUp := true }
                       cway := { s.cway with okNext := some (s.now + usTicks 500) } }.setBit 0x14 4).raise
        (err 2 0x0F 0x01 0 s.flt.expiries 0 0)).resumeRetraining)

/-- What is raised waits for the end of its CLK_FAB cycle, and a FATAL condition puts the device in the fatal state at once (R549). At the
end of the cycle the records are made in increasing order of source, code and instance (R538). A record takes the next number; it is
latched in FLT_FIRST unless it is INFO or nested; it asserts FAULT_N when FATAL, or DEGRADED with its source in degraded_mask, or where it
must (R531, R537, R541, R542, R547). Nothing changes with it but the error block, its registers, what leaves the device and the Causeway's
records. -/
def Obligations.RaisedRecord : Prop :=
  (∀ (e : ErrRec) (s : State),
      (e.sev ≠ 3 → s.raise e = { s with flt := { s.flt with raised := s.flt.raised ++ [{ what := e, ns := s.tideNs, force := false }] } }) ∧
      (e.sev = 3 → (s.raise e).flt.fatalHold = true)) ∧
  (∀ rs : List Raised, (cycleOrder rs).Perm rs ∧ (cycleOrder rs).Pairwise fun a b => a.what.rank ≤ b.what.rank) ∧
  (∀ s : State, s.endCycle = (cycleOrder s.flt.raised).foldl State.makeRecord { s with flt := { s.flt with raised := [] } }) ∧
  (∀ (e : ErrRec) (ns : Nat) (force : Bool) (s : State), e.sev < 4 →
    let t := s.makeRecord { what := e, ns := ns, force := force }
    let nested := 1 ≤ e.sev ∧ ∃ ws, s.flt.first = some ws ∧ e.sev ≤ ws.getD 1 0 % 4
    let pins := force = true ∨ e.sev = 3 ∨ (e.sev = 2 ∧ s.reg 0xE028 / 2 ^ e.source % 2 = 1)
    t.flt.seq = (s.flt.seq + 1) % 2 ^ 32 ∧
    (e.sev = 0 ∨ nested → t.flt.first = s.flt.first) ∧
    (1 ≤ e.sev → ¬ nested → t.flt.first = some (e.words s.flt.seq ns false (decide pins))) ∧
    (t.flt.pin = true ↔ s.flt.pin = true ∨ pins) ∧
    { t with flt := s.flt, regs := s.regs, egress := s.egress, cway := s.cway } = s)

/-- An internal consistency failure is FATAL DEVICE 0x05: the device is in the fatal state, with FAULT_N asserted and every working DRAM
channel in self-refresh (R539, R549). A write of 1 to held releases FAULT_N unless fatal_hold is set (R547); a read of FLT_FIRST0
returns it and captures the words behind it (R550). -/
def Obligations.FatalFailureAndFaultPin : Prop :=
  (∀ (unit : Byte) (s : State), FatalPinned s → s.power.boot ≠ .inReset →
      ∃ t, exec (.internalConsistencyFailure unit) s = .next t ∧ t.flt.fatalHold = true ∧ t.flt.pin = true ∧
        { what := err 3 0x0F 0x05 unit.toNat 0 0 0, ns := s.tideNs, force := false } ∈ t.flt.raised ∧
        (s.paired = true → s.flt.fatalHold = false → t.cway.role = .failed) ∧
        (s.flt.fatalHold = false → ∀ c, (t.chan c).phase ≠ .active ∧ (t.chan c).phase ≠ .recovery ∧ (t.chan c).phase ≠ .retiring)) ∧
  (∀ s : State,
      (s.flt.fatalHold = false → exec .fltPinRelease s = .next { s with flt := { s.flt with pin := false } }) ∧
      (s.flt.fatalHold = true → exec .fltPinRelease s = .next s) ∧
      (s.power.boot ≠ .inReset → ∃ t, exec .fltFirstRead s = .next t ∧
        t.egress = s.egress ++ [.readReturn 0 0xE040 ((List.range 4).map fun i => BitVec.ofNat 8 (((s.flt.first.getD []).getD 0 0) % 2 ^ 32 / 256 ^ i))] ∧
        (∀ i, i < 7 → tabFind t.capts (0xE044 + 4 * i) = some (BitVec.ofNat 32 ((s.flt.first.getD []).getD (i + 1) 0))) ∧
        { t with capts := s.capts, egress := s.egress } = s))

/-- FLT_ACK (R543): the seq of the latched record frees FLT_FIRST, unless the record is FATAL, and then nothing changes; any other write
only sets ack_stale. -/
def Obligations.FirstFaultAcknowledged : Prop :=
  ∀ (seq : Word) (s : State), s.power.boot ≠ .inReset →
    (∀ ws, s.flt.first = some ws → ws.getD 0 0 = seq.toNat → ws.getD 1 0 % 4 ≠ 3 →
      exec (.fltAck seq) s = .next { s with flt := { s.flt with first := none } }) ∧
    (∀ ws, s.flt.first = some ws → ws.getD 0 0 = seq.toNat → ws.getD 1 0 % 4 = 3 → exec (.fltAck seq) s = .next s) ∧
    (∀ ws, s.flt.first = some ws → ws.getD 0 0 ≠ seq.toNat → exec (.fltAck seq) s = .next (s.setBit 0xE024 3)) ∧
    (s.flt.first = none → exec (.fltAck seq) s = .next (s.setBit 0xE024 3))

/-! Registers and rings -/

/-- A write of a register (R7, R8, R9, R11): RW bits take the written value, RWL bits while SETUP_LOCK is clear, W1C bits are cleared by
ones, every other bit and every other register stays; anything but a naturally aligned 32-bit word, and an offset where the function has
nothing, is ignored. GCTL_LOCK sets SETUP_LOCK (R570). A word of a function's MSI-X table in BAR2 is kept, of a fourth word its mask bit
(R75; at which offsets, log 63). -/
def Obligations.RegisterWrites : Prop :=
  ∀ s : State, Canon s → s.power.boot ≠ .inReset →
    (∀ (off : Nat) (row : RegRow) (v : Word), off % 4 = 0 → plainOffset off = true → pfRow off = some row →
      ∃ t, exec (.registerWrite 0 off 4 v) s = .next t ∧
        (∀ b, b < 32 → (t.reg off).testBit b =
          ((if row.rw.testBit b || (row.rwl.testBit b && !s.power.setupLock) then v.getLsbD b else (s.reg off).testBit b) &&
            !(row.w1c.testBit b && v.getLsbD b))) ∧
        (∀ o, o ≠ off → t.reg o = s.reg o) ∧ { t with regs := s.regs } = s) ∧
    (∀ (off : Nat) (v : Word), plainOffset off = true → pfRow off = none → exec (.registerWrite 0 off 4 v) s = .next s) ∧
    (∀ (f : Fin 16) (off size : Nat) (v : Word), size ≠ 4 ∨ off % 4 ≠ 0 → exec (.registerWrite f off size v) s = .next s) ∧
    (∀ (f : Fin 16) (off : Nat) (v : Word), f ≠ 0 → off < 0x100 ∨ 0x200 ≤ off → inBar2 off = false →
      exec (.registerWrite f off 4 v) s = .next s) ∧
    (∀ (f : Fin 16) (off : Nat) (v : Word), off % 4 = 0 → off < 16 * msixEntries f →
      ∃ t, exec (.registerWrite f (0x10000 + off) 4 v) s = .next t ∧
        t.pcie.entryWord f off = (if off % 16 = 12 then v.toNat % 2 else v.toNat) ∧
        (∀ g o, g < 16 → o < 4096 → g ≠ f.val ∨ o ≠ off → t.pcie.entryWord g o = s.pcie.entryWord g o) ∧
        { t with pcie := s.pcie } = s) ∧
    exec .gctlLock s = .next { s with power := { s.power with setupLock := true } }

/-- A read returns the bytes of the words it touches, with the captures it makes made first; a read by a VF makes none (R10, R12, R79).
The first words of TALLY_UNIT (R432), RMAP_SIG (R266), SHEP_STAT (R285) and TIDE_NOW (R479) capture the words behind them. -/
def Obligations.RegisterReads : Prop :=
  ∀ s : State, s.power.boot ≠ .inReset →
    (∀ (f : Fin 16) (off size : Nat), f ≠ 0 → exec (.wideRegisterRead f off size) s =
      .next { s with egress := s.egress ++ [.readReturn f off ((List.range size).map fun i => s.readByte f (off + i))] }) ∧
    (∀ off size : Nat, ∃ t, exec (.wideRegisterRead 0 off size) s = .next t ∧
      t.egress = s.egress ++ [.readReturn 0 off ((List.range size).map fun i =>
        State.readByte { s with capts := t.capts } 0 (off + i))] ∧
      { t with capts := s.capts, egress := s.egress } = s) ∧
    (∀ k : Fin 8, ∃ t, exec (.tallyUnitRead k) s = .next t ∧ exec (.wideRegisterRead 0 (0xB040 + 8 * k) 4) s = .next t ∧
      tabFind t.capts (0xB044 + 8 * k) = some (BitVec.ofNat 32 (s.unit k).run) ∧
      t.egress = s.egress ++ [.readReturn 0 (0xB040 + 8 * k)
        (leBytes 4 (if (s.unit k).busy then (s.unit k).fn % 16 * 2 ^ 28 + 256 + (s.unit k).poly % 4 else 0))] ∧
      { t with capts := s.capts, egress := s.egress } = s) ∧
    (∀ p : Fin 4, ∃ t, exec (.rmapSigRead p) s = .next t ∧ exec (.wideRegisterRead 0 (0x4424 + 0x80 * p) 4) s = .next t ∧
      tabFind t.capts (0x4428 + 0x80 * p) = some (BitVec.ofNat 32 (s.rmapSigInfo p)) ∧
      { t with capts := s.capts, egress := s.egress } = s) ∧
    (∀ p : Fin 4, ∃ t, exec (.shepStatRead p) s = .next t ∧ exec (.wideRegisterRead 0 (0x4614 + 0x40 * p) 4) s = .next t ∧
      tabFind t.capts (0x4618 + 0x40 * p) = some (BitVec.ofNat 32 (if s.follower p then 0 else s.reg (0x4618 + 0x40 * p))) ∧
      { t with capts := s.capts, egress := s.egress } = s) ∧
    (∃ t, exec .tideNowRead s = .next t ∧ exec (.wideRegisterRead 0 0x8000 4) s = .next t ∧
      tabFind t.capts 0x8004 = some (BitVec.ofNat 32 s.tide.sec) ∧
      tabFind t.capts 0x8008 = some (BitVec.ofNat 32 (s.tide.sec / 2 ^ 32)) ∧
      tabFind t.capts 0x800C = some (BitVec.ofNat 32 s.tide.frac) ∧
      t.egress = s.egress ++ [.readReturn 0 0x8000 (leBytes 4 s.tide.ns)] ∧
      { t with capts := s.capts, egress := s.egress } = s)

/-- Enabling a ring (R83, R86, R534): on a disabled ring of a legal size, in a role that drives the glass, the doorbell record is read
once; the tail it returns is the consumed count and the ring runs; a disable in between discards it; a failure leaves the ring disabled
with enable 0 and RING 0x02 raised. Disabling a running or stopped ring (R117): what it has accepted and not started completes ABORTED
and leaves the ledger, what was read and not accepted is discarded, and the ring drains until its last completion record; disabling
while the doorbell read of an enable is outstanding makes that read void (R86). -/
def Obligations.RingsEnabledAndDisabled : Prop :=
  (∀ (r : Fin 128) (s : State),
      let x := s.ring r
      (s.power.boot ≠ .inReset → x.state = .disabled → x.enableRead = false → x.sizeLog ≤ 10 → s.cway.role = .solo ∨ s.cway.role = .active →
        ∃ t, exec (.ringEnable r) s = .next t ∧ t.ring r = { x with enable := true, enableRead := true, enableDrop := false } ∧
          (∀ q, q ≠ r.val → t.ring q = s.ring q) ∧ t.egress = s.egress ++ [.readRequest (r / 8) x.db 4 (.doorbell r)] ∧
          { t with rings := s.rings, egress := s.egress } = s) ∧
      (x.state ≠ .disabled ∨ x.enableRead = true ∨ 10 < x.sizeLog ∨ s.cway.role.drives = false → exec (.ringEnable r) s = .next s) ∧
      (x.enableRead = true → x.enableDrop = false → ∀ v : Word, ∃ t, exec (.doorbellEnableReadReturn r (.tail v)) s = .next t ∧
        t.ring r = { x with enableRead := false, state := .running, consumed := v.toNat, tail := v.toNat, buf := [], cur := none
                            fetching := none, allowance := 2 ^ x.prio, afterTakeover := false } ∧
        (∀ q, q ≠ r.val → t.ring q = s.ring q) ∧
        t.egress = s.egress ++ (if x.afterTakeover then
          (s.cway.recents.filter fun y => decide (y.1 = r.val)).map fun y => .write (r / 8) (x.cpl + 32 * y.2.1) y.2.2 else []) ∧
        { t with rings := s.rings, egress := s.egress } = s) ∧
      (x.enableRead = true → x.enableDrop = true → ∀ res : DoorbellRead, ∃ t, exec (.doorbellEnableReadReturn r res) s = .next t ∧
        t.ring r = { x with enableRead := false, enableDrop := false } ∧ (∀ q, q ≠ r.val → t.ring q = s.ring q) ∧
        { t with rings := s.rings } = s) ∧
      (x.enableRead = true → x.enableDrop = false → ∀ f : ReadFail, ∃ u : State, exec (.doorbellEnableReadReturn r (.failed f)) s =
          .next (u.raise { err 0 0x01 0x02 r f.code 0 0 with fn := r / 8 }) ∧
        u.ring r = { x with enableRead := false, enable := false } ∧ (∀ q, q ≠ r.val → u.ring q = s.ring q) ∧
        { u with rings := s.rings } = s)) ∧
  (∀ (r : Fin 128) (s : State), Canon s → s.power.boot ≠ .inReset →
      let x := s.ring r
      (x.enableRead = false → x.state = .running ∨ x.state = .stopped → ∃ t, exec (.ringDisable r) s = .next t ∧
        t.ledger = (s.ledger.filter fun e => !(decide (e.desc.ring = r.val) && !e.mirrored && !e.started)) ∧
        (t.ring r).state = (if t.ledger.any fun e => decide (e.desc.ring = r.val) then .draining else .disabled) ∧
        (t.ring r).enable = false ∧ (t.ring r).fetching = none ∧ (t.ring r).buf = [] ∧ (t.ring r).cur = none ∧
        (s.flt.fatalHold = false → ∀ e ∈ s.ledger, e.desc.ring = r.val → e.mirrored = false → e.started = false → e.muted = false →
          (Egress.write e.desc.fn (x.cpl + 32 * s.slotOf e.desc) (cplBytes e.desc stAborted 0 s.tideNs 0 0)) ∈ t.egress)) ∧
      (x.enableRead = true → ∃ t, exec (.ringDisable r) s = .next t ∧ t.ring r = { x with enable := false, enableDrop := true } ∧
        (∀ q, q ≠ r.val → t.ring q = s.ring q) ∧ { t with rings := s.rings } = s))

/-- A poll round asks for the doorbell of every running ring (R87); what a poll read returns is its tail, unless it publishes more than
the ring holds: then the ring stops, RING 0x01 is raised and the ring's vector signalled (R88). Fetching (R91): the engine first takes
what it has read; then one read of as many slots as it may, from the consumed count on. What the read returns is compared in order; a
failure stops the ring and raises RING 0x04. -/
def Obligations.RingsFed : Prop :=
  (∀ s : State, Canon s →
      (s.power.boot ≠ .inReset → s.power.bootReady = true → s.roundDue = true → (∀ r, r < 128 → (s.ring r).polling = false) →
        ∃ t, exec .pollRound s = .next t ∧ t.pollAt = some s.now ∧
          (∀ r, r < 128 → t.ring r = if (s.ring r).state = .running then { s.ring r with polling := true, pollDrop := false } else s.ring r) ∧
          t.egress = s.egress ++ ((List.range 128).filter fun r => decide ((s.ring r).state = .running)).map
            (fun r => .readRequest (r / 8) (s.ring r).db 4 (.doorbell r)) ∧
          { t with rings := s.rings, pollAt := s.pollAt, egress := s.egress } = s) ∧
      (∀ (r : Fin 128) (v : Word), (s.ring r).polling = true → (s.ring r).pollDrop = false → (s.ring r).state = .running →
        let x := s.ring r
        let w := (v.toNat + 2 ^ 32 - x.consumed % 2 ^ 32) % 2 ^ 32
        (w ≤ 2 ^ (x.sizeLog + 6) → ∃ t, exec (.pollReadReturn r (.tail v)) s = .next t ∧
          t.ring r = { x with polling := false, pollDrop := false, tail := v.toNat } ∧ (∀ q, q ≠ r.val → t.ring q = s.ring q) ∧
          { t with rings := s.rings } = s) ∧
        (2 ^ (x.sizeLog + 6) < w → ∃ u : State, exec (.pollReadReturn r (.tail v)) s =
            .next ((u.raise { err 0 0x01 0x01 r v.toNat x.consumed 0 with fn := r / 8 }).emit (.msix (r / 8) (s.ringVector r))) ∧
          u.ring r = { x with polling := false, pollDrop := false, tail := v.toNat, state := .stopped, buf := [] } ∧
          (∀ q, q ≠ r.val → u.ring q = s.ring q) ∧ { u with rings := s.rings } = s))) ∧
  (∀ (r : Fin 128) (s : State),
      (∀ u n, u = s.run → n = u.fetchable r → 0 < n → ∃ t, exec (.descriptorFetch r) s = .next t ∧ n ≤ 8 ∧
        t.ring r = { u.ring r with fetching := some ((u.ring r).consumed, n) } ∧ (∀ q, q ≠ r.val → t.ring q = u.ring q) ∧
        t.egress = u.egress ++
          [.readRequest (r / 8) ((u.ring r).base + 64 * ((u.ring r).consumed % 2 ^ ((u.ring r).sizeLog + 6))) (64 * n) (.fetch r)] ∧
        { t with rings := s.rings, egress := s.egress, turnAt := s.turnAt } = s) ∧
      (∀ (c n : Nat) (data : HostRead), (s.ring r).fetching = some (c, n) → (s.ring r).state = .running →
        (data.fail = none → exec (.fetchReturn r data) s = .next (s.setRing r { s.ring r with
          fetching := none
          buf := (List.range (min n (data.bytes.length / 64))).map fun i =>
            Desc.ofBytes r ((c + i) % 2 ^ 32) (bytesAt data.bytes (64 * i) 64) }).run) ∧
        (∀ f, data.fail = some f → exec (.fetchReturn r data) s =
          .next ((s.setRing r { s.ring r with fetching := none, state := .stopped, buf := [] }).raise
            { err 0 0x01 0x04 r f.code (s.ring r).consumed 0 with fn := r / 8 }))))

/-- The ring engine's comparison of a fetched descriptor with RING_SEQ (R94). -/
def Obligations.SequenceCompared : Prop :=
  ∀ (r : Nat) (d : Desc) (s : State), d.ring = r → d.seq < 2 ^ 32 → (s.ring r).nextSeq < 2 ^ 32 → s.flt.fatalHold = false →
    let x := s.ring r
    let t := s.compare r d
    (d.seq = x.nextSeq → (t.ring r).nextSeq = (x.nextSeq + 1) % 2 ^ 32 ∧ (t.ring r).state = x.state ∧
      (s.staticFail d = none → (t.ring r).cur = some d ∧ t.egress = s.egress) ∧
      (∀ f, s.staticFail d = some f → (t.ring r).cur = none ∧
        t.egress = s.egress ++ s.completion d false f 0 0)) ∧
    (1 ≤ (x.nextSeq + 2 ^ 32 - d.seq) % 2 ^ 32 → (x.nextSeq + 2 ^ 32 - d.seq) % 2 ^ 32 ≤ 2 ^ 31 →
      (t.ring r).nextSeq = x.nextSeq ∧ (t.ring r).state = x.state ∧ (t.ring r).cur = none ∧
      t.egress = s.egress ++ s.completion d false (stOk, 2 ^ 19) 0 0 ∧ { t with rings := s.rings, egress := s.egress } = s) ∧
    (2 ^ 31 < (x.nextSeq + 2 ^ 32 - d.seq) % 2 ^ 32 →
      (t.ring r).nextSeq = x.nextSeq ∧ (t.ring r).state = .stopped ∧ (t.ring r).cur = none ∧
      (∃ w, t.egress = s.egress ++ s.completion d false (stBadDesc, det 5 w) 0 0) ∧ { t with rings := s.rings, egress := s.egress } = s)

/-! Descriptors: acceptance, waiting, completing; objects -/

/-- A descriptor that has to wait enters the ledger and changes nothing else: it takes the next place in the acceptance order (R96),
gives its ring's acceptance over, and is logged for the peer (R515). A TALLY_JOB waits for a unit and a CAL_LOAD for its start, the
others for what R105 to R108 name. A descriptor that had to wait starts once nothing is left to wait for (R105 to R108): one that reads
a lost object completes DATA_LOST (R146), one that reads an invalid object CHECK_MISMATCH (R400), and any other does what its opcode
does at its start. -/
def Obligations.DescriptorsWaitAndStart : Prop :=
  (∀ (r : Fin 128) (d : Desc) (s : State), Canon s →
      let waits (c : Instr) : Prop := ∃ t, exec c s = .next t ∧ t.ledger = s.ledger ++ [s.newEntry d .plain []] ∧ t.nextId = s.nextId + 1 ∧
        t.ledgerPeak = max s.ledgerPeak (s.ledger.length + 1) ∧
        { t with rings := s.rings, egress := s.egress, regs := s.regs, cway := s.cway, ledger := s.ledger, nextId := s.nextId
                 ledgerPeak := s.ledgerPeak, turnAt := s.turnAt } = s
      let held : Prop := ∃ x ∈ s.ledger, (s.newEntry d .plain []).waitsFor x = true
      (Taken s r opTallyJob d → waits (.tallyJob r)) ∧ (Taken s r opCalLoad d → waits (.calLoad r)) ∧
      (held → Taken s r opNop d → waits (.nop r)) ∧ (held → Taken s r opFence d → waits (.fence r)) ∧
      (held → Taken s r opWaitTime d → waits (.waitTime r)) ∧ (held → Taken s r opObjAlloc d → waits (.objAlloc r)) ∧
      (held → Taken s r opObjRead d → waits (.objRead r))) ∧
  (∀ (id : Nat) (e : Entry) (f : Entry → State → State) (s : State), Completing s id e → e.started = false → e.readyAt = none →
      s.noWait e = true → startOf e.desc.opcode = some f →
      (s.startFail e = none → exec (.descriptorStart id) s = .next (f e s)) ∧
      (∀ x, s.startFail e = some x → ∃ t, exec (.descriptorStart id) s = .next t ∧
        (t.ledger = s.ledger.filter fun y => decide (y.id ≠ id)) ∧ t.egress = s.egress ++ s.completion e.desc false x 0 0))

/-- NOP, FENCE and WAIT_TIME with nothing to wait for (R104, R107, R108): a NOP and a FENCE complete OK as they are accepted, and so
does a WAIT_TIME whose target has passed; one whose target lies ahead stays in the ledger and completes at its expiry, at a CLK_TIME
edge. -/
def Obligations.NopFenceAndWaitTime : Prop :=
  ∀ (r : Fin 128) (d : Desc) (s : State), Canon s → s.flt.fatalHold = false →
    let passes (c : Instr) : Prop := ∃ t, exec c s = .next t ∧ t.ledger = s.ledger ∧ t.nextId = s.nextId + 1 ∧
      s.egress ++ s.completion d false (stOk, 0) 0 0 <+: t.egress ∧
      (∀ p, { t.port p with commits := (s.port p).commits } = s.port p) ∧
      { t with rings := s.rings, egress := s.egress, regs := s.regs, cway := s.cway, ledger := s.ledger, nextId := s.nextId
               ledgerPeak := s.ledgerPeak, objs := s.objs, harb := s.harb, ports := s.ports, turnAt := s.turnAt } = s
    (s.goesAtOnce d →
      (Taken s r opNop d → passes (.nop r)) ∧ (Taken s r opFence d → passes (.fence r)) ∧
      (Taken s r opWaitTime d → d.until ≤ s.tideNs → passes (.waitTime r)) ∧
      (Taken s r opWaitTime d → s.tideNs < d.until → ∃ t, exec (.waitTime r) s = .next t ∧
        t.ledger = s.ledger ++ [{ s.newEntry d .plain [] with readyAt := some s.now }] ∧ t.nextId = s.nextId + 1 ∧
        { t with rings := s.rings, egress := s.egress, regs := s.regs, cway := s.cway, ledger := s.ledger, nextId := s.nextId
                 ledgerPeak := s.ledgerPeak, turnAt := s.turnAt } = s)) ∧
    (∀ (id : Nat) (e : Entry), Completing s id e → e.desc.opcode = opWaitTime → e.readyAt.isSome = true → s.now % 6 = 0 →
      e.desc.until ≤ s.tideNs → ∃ t, exec (.waitTimeExpiry id) s = .next t ∧ (t.ledger = s.ledger.filter fun x => decide (x.id ≠ id)) ∧
        t.egress = s.egress ++ s.completion e.desc false (stOk, 0) 0 0 ∧
        { t with rings := s.rings, egress := s.egress, regs := s.regs, cway := s.cway, ledger := s.ledger, objs := s.objs
                 harb := s.harb, ports := s.ports } = s)

/-- OBJ_ALLOC (R100, R101, R121, R122, R125, R129): without room it completes NO_SPACE and makes nothing; otherwise it makes an object
at a free index, under the generation of that index, and returns its handle. OBJ_FREE (R101, R122): the handle is invalid from then on,
the generation of its index advances (255 is followed by 1), and the completion says in detail bit [0] whether a displayed scene still
keeps the storage. -/
def Obligations.ObjectsAllocatedAndFreed : Prop :=
  (∀ (r : Fin 128) (d : Desc) (s : State), Canon s → s.flt.fatalHold = false → Taken s r opObjAlloc d → s.goesAtOnce d →
      (∀ reason, s.allocFails d.fn d.allocTiles = some reason → ∃ t, exec (.objAlloc r) s = .next t ∧ t.ledger = s.ledger ∧
        s.egress ++ s.completion d false (stNoSpace, det reason 0) 0 0 <+: t.egress ∧ t.gens = s.gens ∧ (t.objs.map (·.1)).Sublist (s.objs.map (·.1))) ∧
      (s.allocFails d.fn d.allocTiles = none → ∃ t h i o, exec (.objAlloc r) s = .next t ∧ t.ledger = s.ledger ∧
        s.egress ++ s.completion d false (stOk, 0) h 0 <+: t.egress ∧
        1 ≤ i ∧ i < 2 ^ 20 ∧ tabFind s.objs i = none ∧ h = mkHandle d.fn i (tabGet 1 s.gens i) ∧
        t.objOf h = some o ∧ t.objValid h = some o ∧
        o.cls = d.f 2 3 0 ∧ o.hint = d.f 2 7 4 ∧ o.format = d.f 2 15 8 ∧ o.width = d.f 3 15 0 ∧ o.height = d.f 3 31 16 ∧ o.size = d.w 4 ∧
        o.given = 1 ∧ o.tilesHeld.length = d.allocTiles)) ∧
  (∀ (r : Fin 128) (d : Desc) (s : State), Canon s → s.flt.fatalHold = false → Taken s r opObjFree d → s.goesAtOnce d →
      ∃ t, exec (.objFree r) s = .next t ∧ t.ledger = s.ledger ∧ t.objValid (d.w 2) = none ∧
        (let g := tabGet 1 s.gens (handleIndex (d.w 2))
         tabGet 1 t.gens (handleIndex (d.w 2)) = if g = 255 then 1 else g + 1) ∧
        s.egress ++ s.completion d false (stOk, bit (s.displayed (d.w 2))) 0 0 <+: t.egress)

/-- OBJ_READ (R101, R110, R452, R600): it keeps what the object's bytes are as it starts, and at its end writes them to host memory
ahead of its completion record, TRUNCATED when they are fewer than asked for, CHECK_MISMATCH when the storage was poisoned. Words that
descriptors of other rings write meanwhile may come out as they are at its end (R109). -/
def Obligations.ObjectRead : Prop :=
  ∀ s : State, Canon s →
    (∀ (r : Fin 128) (d : Desc) (o : Obj), Taken s r opObjRead d → s.goesAtOnce d → s.objOf (d.w 2) = some o →
      ∃ t, exec (.objRead r) s = .next t ∧
        t.ledger = s.ledger ++ [{ s.newEntry d (.read (o.read (d.w 3) (min (d.w 6) (o.layout - d.w 3)))) [] with
          started := true, readyAt := some s.now }] ∧
        { t with rings := s.rings, egress := s.egress, regs := s.regs, cway := s.cway, ledger := s.ledger, nextId := s.nextId
                 ledgerPeak := s.ledgerPeak, turnAt := s.turnAt } = s) ∧
    (∀ (id : Nat) (e : Entry) (bs : List Byte) (poisoned : Bool), Completing s id e → e.job = .read bs →
      ∃ t out, exec (.objReadDone id poisoned) s = .next t ∧ (t.ledger = s.ledger.filter fun x => decide (x.id ≠ id)) ∧
        out.length = bs.length ∧ (e.shared = [] → out = bs) ∧
        t.egress = s.egress ++ (if bs = [] then [] else [.data e.desc.fn (e.desc.addr 4) out (s.cplAddr e.desc)]) ++
          s.completion e.desc false (if poisoned then (stCheckMismatch, det 8 0) else if bs.length < e.desc.w 6 then (stTruncated, 0)
            else (stOk, 0)) bs.length 0 ∧
        (poisoned = false → t.flt = s.flt) ∧
        { t with rings := s.rings, egress := s.egress, regs := s.regs, cway := s.cway, ledger := s.ledger, objs := s.objs
                 harb := s.harb, ports := s.ports, flt := s.flt, fresh := s.fresh } = s)

/-- OBJ_WRITE starts (R101, R129, R134): it asks for its source; a plate surface gets the next version number and fresh tiles for the
plate tiles that may be written. OBJ_WRITE ends (R101, R132, R146, R400, R600), on an object that is no plate surface: the bytes host
memory returned stand from the offset on, unless descriptors of other rings write there too (R109), and every other byte is as before; the
completion counts them, TIMEOUT marks the object invalid and OK clears the mark; of an object lost meanwhile it is DATA_LOST. -/
def Obligations.ObjectWrites : Prop :=
  (∀ (r : Fin 128) (d : Desc) (o : Obj) (s : State), Canon s → Taken s r opObjWrite d → s.goesAtOnce d → s.objOf (d.w 2) = some o →
      let n := min (d.w 6) (o.layout - d.w 3)
      let asks := if n = 0 then [] else [Egress.readRequest d.fn (d.addr 4) n (.job s.nextId)]
      (∀ x ∈ s.ledger, (s.newEntry d .plain [(d.w 2, o.given + 1)]).waitsFor x = false) →
      (o.cls ≠ 0 → ∃ t, exec (.objWrite r) s = .next t ∧ s.egress ++ asks <+: t.egress ∧
        t.ledger = s.ledger ++ [{ s.newEntry d (.write (d.w 2) 0) [] with started := true, readyAt := some s.now }] ∧
        { t with rings := s.rings, egress := s.egress, regs := s.regs, cway := s.cway, ledger := s.ledger, nextId := s.nextId
                 ledgerPeak := s.ledgerPeak, turnAt := s.turnAt } = s) ∧
      (o.cls = 0 → s.reserveFails o (o.byteTiles (d.w 3) n).length = none → ∃ t e, exec (.objWrite r) s = .next t ∧
        s.egress ++ asks <+: t.egress ∧ t.ledger = s.ledger ++ [e] ∧ e.desc = d ∧ e.started = true ∧
        e.versions = [(d.w 2, o.given + 1)] ∧ e.job = .write (d.w 2) (o.given + 1) ∧
        e.tiles.map (fun x => x.2.1) = o.byteTiles (d.w 3) n ∧ t.objOf (d.w 2) = some { o with given := o.given + 1 })) ∧
  (∀ (id : Nat) (e : Entry) (data : HostRead) (o : Obj) (v : Version) (s : State), Canon s → Completing s id e →
      e.desc.opcode = opObjWrite → e.started = true → s.objOf (e.desc.w 2) = some o → o.cls ≠ 0 → o.released = false → o.versions = [v] →
      v.valid = true → tabSorted v.bytes →
      (∀ reason, o.lost = some reason → ∃ t, exec (.objWriteDone id data) s = .next t ∧ Completed s t e false (stDataLost, det reason 2) 0 0) ∧
      (o.lost = none →
      let n := min (e.desc.w 6) (o.layout - e.desc.w 3)
      let bs := data.bytes.take n
      let status : Fail := match data.fail with
        | some f => (stTimeout, det f.code 0)
        | none => if n < e.desc.w 6 then (stTruncated, 0) else (stOk, 0)
      ∃ t o', exec (.objWriteDone id data) s = .next t ∧ Ended s t e false status bs.length 0 ∧ t.objOf (e.desc.w 2) = some o' ∧
        (∀ k, k < e.desc.w 3 ∨ e.desc.w 3 + bs.length ≤ k → o'.byte k = o.byte k) ∧
        (s.alone e o.handle → ∀ k, e.desc.w 3 ≤ k → k < e.desc.w 3 + bs.length → o'.byte k = bs.getD (k - e.desc.w 3) 0) ∧
        (status.1 = stTimeout → o'.invalid = true) ∧ (status.1 = stOk → o'.invalid = false) ∧
        (status.1 = stTruncated → o'.invalid = o.invalid)))

/-! Plate loads, streams, Sawyer lists, Tally jobs -/

/-- PLATE_LOAD (R102, R129, R131, R132, R175, R600): once its checks pass it is accepted with the next version number of its surface; the
first in ledger order that nothing holds back starts when a scaler is free and takes it; it ends with its status and results: OK,
CHECK_MISMATCH when a source block it reads fails, TIMEOUT when host memory failed, each under the number it has consumed. -/
def Obligations.PlateLoads : Prop :=
  ∀ s : State, Canon s →
    (∀ (r : Fin 128) (d : Desc), Taken s r opPlateLoad d →
      firstFail [d.loadRange, s.permFail d, s.handleFail d, s.loadObjects d] = none →
      ∃ t, exec (.plateLoad r) s = .next t ∧ t.ledger = s.ledger ++ [s.newEntry d .plain (s.versionGiven (d.w 2))] ∧
        t.nextId = s.nextId + 1 ∧
        { t with rings := s.rings, egress := s.egress, regs := s.regs, cway := s.cway, ledger := s.ledger, nextId := s.nextId
                 ledgerPeak := s.ledgerPeak, turnAt := s.turnAt, objs := s.objs } = s) ∧
    (∀ (id : Nat) (e : Entry), s.entry id = some e → e.desc.opcode = opPlateLoad → e.started = false → s.noWait e = true →
      s.inEbb .scalers = false → (s.before e).any (fun x => x.wantsScaler && s.noWait x) = false → s.busyScalers.length < 8 →
      s.startFail e = none → exec (.plateLoadStart id) s = .next (startLoad e s)) ∧
    (∀ (id n waiting : Nat) (scalers : List Nat) (e : Entry) (k : Nat), s.entry id = some e → e.desc.opcode = opPlateLoad →
      e.started = true → e.job = .load n scalers (waiting + 1) → s.inEbb .scalers = false →
      (s.before e).any (fun x => x.wantsScaler && s.noWait x) = false →
      (List.range 8).find? (fun k => !(s.busyScalers.contains k)) = some k → ∃ t, exec (.plateLoadStart id) s = .next t ∧
        t.entry id = some { e with job := .load n (scalers ++ [k]) waiting } ∧ (∀ j, j ≠ id → t.entry j = s.entry j) ∧
        { t with ledger := s.ledger } = s) ∧
    (∀ (id n : Nat) (scalers : List Nat) (e : Entry) (o : Obj) (data : HostRead), Completing s id e → e.job = .load n scalers 0 →
      s.objOf (e.desc.w 2) = some o → o.cls = 0 →
      (∀ reason, o.lost = some reason → ∃ t, exec (.plateLoadDone id data) s = .next t ∧ Completed s t e false (stDataLost, det reason 2) 0 0) ∧
      (o.lost = none →
        let src := s.loadSource e.desc data
        let fail := if e.desc.w 3 = 0 then data.fail else none
        let rows := if fail.isSome then e.desc.rowsWithin src.2 data.bytes.length else e.desc.dstH
        let bad := sourceBad src.1 src.2 e.desc rows = true ∨ s.sourcePoisoned e.desc rows = true
        let num := e.versionOf o.handle
        (bad → ∃ t, exec (.plateLoadDone id data) s = .next t ∧ Completed s t e false (stCheckMismatch, 0) num 0) ∧
        (¬ bad → ∀ f, fail = some f → ∃ t, exec (.plateLoadDone id data) s = .next t ∧
          Completed s t e false (stTimeout, det f.code 0) num 0) ∧
        (¬ bad → fail = none → ∃ t, exec (.plateLoadDone id data) s = .next t ∧
          Completed s t e false (stOk, n * 256) num ((n - 1) * e.desc.srcH * pixelBits e.desc.srcFormat))))

/-- Stream descriptors are accepted (R382 to R385, R403): STREAM_DECODE opens one of the free contexts of its codec for its stream, or
completes NO_SPACE when none is free; STREAM_CONTINUE goes on with the context of its stream, BAD_DESC when there is none, and writes the
destination that it names or that the latest accepted descriptor of the stream named (R129). Stream descriptors run (R384, R385, R397 to
R401): at its start the context runs and the compressed input is asked for; at its end the decoder's outcome is the completion, with the
output and the input consumed, and the context stays open or closes; one whose destination has been lost ends DATA_LOST (R146);
STRD_KILL closes a suspended context and refuses any other. -/
def Obligations.Streams : Prop :=
  (∀ (r : Fin 128) (d : Desc) (s : State), Canon s → s.flt.fatalHold = false →
      (Taken s r opStreamDecode d → s.sixtyFail (d.w 2) (d.w 3) 3 = none → s.openCtx (d.fn, d.f 7 15 0) = none →
        (s.freeCtxs d.flag20 = [] → ∃ t, exec (.streamDecode r) s = .next t ∧ t.ledger = s.ledger ∧ t.ctxs = s.ctxs ∧
          s.egress ++ s.completion d false (stNoSpace, det 9 0) 0 0 <+: t.egress) ∧
        (s.freeCtxs d.flag20 ≠ [] → ∃ t m, exec (.streamDecode r) s = .next t ∧ m ∈ s.freeCtxs d.flag20 ∧
          t.ctx m = newCtx d s.nextId ∧ (∀ k, k ≠ m → t.ctx k = s.ctx k) ∧
          t.ledger = s.ledger ++ [s.newEntry d (.stream m (d.w 2) s.nextId s.nextId (d.w 3)) (s.versionGiven (d.w 2))])) ∧
      (Taken s r opStreamContinue d → (d.w 3 ≠ 0 → s.sixtyFail (d.w 3) (d.w 4) 4 = none) →
        (s.openCtx (d.fn, d.f 2 15 0) = none → ∃ t, exec (.streamContinue r) s = .next t ∧ t.ledger = s.ledger ∧
          s.egress ++ s.completion d false (stBadDesc, det 4 2) 0 0 <+: t.egress) ∧
        (∀ m c, s.openCtx (d.fn, d.f 2 15 0) = some (m, c) →
          let c' := if d.w 3 = 0 then c else { c with nameBy := s.nextId, name := d.w 3, nameOff := d.w 4 }
          ∃ t, exec (.streamContinue r) s = .next t ∧
            t.ledger = s.ledger ++ [s.newEntry d (.stream m c'.name c'.opener c'.nameBy c'.nameOff) (s.versionGiven c'.name)] ∧
            t.ctx m = c' ∧ (∀ k, k ≠ m → t.ctx k = s.ctx k)))) ∧
  (∀ s : State, Canon s →
      (∀ (id : Nat) (e : Entry), s.entry id = some e → e.started = false → e.mirrored = false →
        ∀ (m h opener namer off : Nat) (o : Obj), e.job = .stream m h opener namer off → s.noWait e = true → s.inEbb .decoders = false → (s.ctx m).open_ = true → (s.ctx m).opener = opener →
        s.objOf h = some o → o.lost = none → o.cls ≠ 0 →
        let new := (s.ctx m).dstBy ≠ namer
        ∃ t, exec (.streamDescStart id) s = .next t ∧
          t.entry id = some { e with started := true, readyAt := some s.now, tiles := [] } ∧ (∀ j, j ≠ id → t.entry j = s.entry j) ∧
          (t.ctx m).running = true ∧ (t.ctx m).dst = (if new then h else (s.ctx m).dst) ∧
          (t.ctx m).dstOff = (if new then off else (s.ctx m).dstOff) ∧ (t.ctx m).pos = (if new then 0 else (s.ctx m).pos) ∧
          (∀ k, k ≠ m → t.ctx k = s.ctx k) ∧
          t.egress = s.egress ++ (if e.desc.srcLen = 0 then [] else [.readRequest e.desc.fn e.desc.srcAddr e.desc.srcLen (.job e.id)]) ∧
          { t with ledger := s.ledger, ctxs := s.ctxs, egress := s.egress } = s) ∧
      (∀ (id : Nat) (e : Entry), Completing s id e → e.started = true →
        ∀ (m h opener namer off : Nat) (o : Obj) (data : HostRead), e.job = .stream m h opener namer off → s.objOf h = some o →
        (∀ reason, o.lost = some reason → ∃ t, exec (.streamDescEnd id data) s = .next t ∧
          Completed s t e false (stDataLost, det reason e.desc.streamWord) 0 0 ∧ t.ctx m = Ctx.reset) ∧
        (o.lost = none →
        let d := e.desc
        let c := s.ctx m
        let input := data.bytes.take d.srcLen
        let run := decodeRun (destOf o c.dstOff) c o.content input
        let used := run.used input.length
        let closing := d.opcode = opStreamContinue ∧ d.srcLen = 0 ∧ d.flag21 = false
        (closing → ∃ t, exec (.streamDescEnd id data) s = .next t ∧ Ended s t e false (stOk, 4) 0 0 ∧ t.ctx m = Ctx.reset) ∧
        (¬ closing → ∃ t, exec (.streamDescEnd id data) s = .next t ∧
          Ended s t e false (run.outcome d.flag21 data.fail).1 run.out used ∧ t.strdCodes = s.strdCodes + run.codes ∧
          ((run.outcome d.flag21 data.fail).2 = true → (t.ctx m).running = false ∧ (t.ctx m).consumed = c.consumed + used) ∧
          ((run.outcome d.flag21 data.fail).2 = false → t.ctx m = Ctx.reset) ∧ (∀ k, k ≠ m → t.ctx k = s.ctx k)))) ∧
      (∀ k : Fin 32, s.power.boot ≠ .inReset →
        ((s.ctx k).open_ = true → (s.ctx k).running = false → ∃ t, exec (.strdKill k) s = .next t ∧ t.ctx k = Ctx.reset ∧
          (∀ j, j ≠ k.val → t.ctx j = s.ctx j) ∧ { t with ctxs := s.ctxs } = s) ∧
        ((s.ctx k).open_ = false ∨ (s.ctx k).running = true → exec (.strdKill k) s = .next (s.setBit 0xC00C 30))))

/-- SAWYER_LIST (R24, R129, R404, R405, R600): its commands' surfaces get version numbers at acceptance, for which a list in host memory is
read; at the start the list is read again,
and the first command that fails its checks ends it before any has run. A command of a list takes one of the four places (R413, R415,
R418, R419) when the earlier commands let it and no earlier list has one ready: FILL, COPY, CONVERT, BLEND, MASK_FILL, and a WAIT_SCAN
whose line is still to come. -/
def Obligations.SawyerListsStart : Prop :=
  (∀ s : State, Canon s →
      (∀ (r : Fin 128) (d : Desc) (list : HostRead), Taken s r opSawyerList d → s.listObject d = none → d.w 2 ≠ 0 ∨ list.fail = none →
        ∃ t e, exec (.sawyerList r list) s = .next t ∧ t.ledger = s.ledger ++ [e] ∧ e.desc = d ∧ e.started = false ∧
          e.job = .sawyer (s.listCmds d list) ∧ t.nextId = s.nextId + 1 ∧ (s.askList d).egress <+: t.egress) ∧
      (∀ (id : Nat) (e : Entry) (list : HostRead), Completing s id e → e.desc.opcode = opSawyerList → s.inEbb .sawyer = false →
        e.started = false → s.noWait e = true → s.startFail e = none →
        (∀ f, e.desc.w 2 = 0 → list.fail = some f → ∃ t, exec (.sawyerListStart id list) s = .next t ∧
          Completed (s.askList e.desc) t e false (stTimeout, det f.code 0) 0 0) ∧
        (e.desc.w 2 ≠ 0 ∨ list.fail = none →
          let cmds := s.listCmds e.desc list
          (∀ i f, s.listFail id e.desc.fn (e.versions.map (·.1)) cmds = some (i, f) → ∃ t, exec (.sawyerListStart id list) s = .next t ∧
            Completed (s.askList e.desc) t e false (f.1, f.2.1 * 65536 + 4096 + f.2.2) 0 (e.desc.listFirst + i)) ∧
          (s.listFail id e.desc.fn (e.versions.map (·.1)) cmds = none → s.listInvalid cmds = false → e.versions = [] → ∃ t e',
            exec (.sawyerListStart id list) s = .next t ∧ t.entry id = some e' ∧ e'.started = true ∧ e'.job = .sawyer cmds ∧
            (∀ j, j ≠ id → t.entry j = s.entry j))))) ∧
  (∀ (id k : Nat) (e : Entry) (c : SawyerCmd) (s : State), s.entry id = some e → e.started = true → e.cmds[k]? = some c →
      s.inEbb .sawyer = false → s.sawBusy < 4 → mayStart e.cmds k = true → (s.before e).any Entry.sawReady = false →
      let runs (i : Instr) : Prop := ∃ t, exec i s = .next t ∧
        t.entry id = some { e with job := .sawyer (e.cmds.set k { c with phase := .running, upward := c.upwardNow }) } ∧
        (∀ j, j ≠ id → t.entry j = s.entry j) ∧ { t with ledger := s.ledger } = s
      (c.op = 1 → runs (.fill id k)) ∧ (c.op = 2 → runs (.copy id k)) ∧ (c.op = 3 → runs (.convert id k)) ∧
      (c.op = 4 → runs (.blend id k)) ∧ (c.op = 5 → runs (.maskFill id k)) ∧
      (c.op = 6 → s.scanPasses c = false → runs (.waitScan id k)))

/-- A command finishes a row (R410 to R417, R421): its watermark rises, the pixels count, the row stands in its destination, and the
watermark that signal_rows names writes the signal record, once; a header check that fails ends the command (R412). A command whose rows
are all finished gives its place back; with the last one the list completes OK and counts its commands (R419, R420). -/
def Obligations.SawyerCommandsRun : Prop :=
  (∀ (id k : Nat) (e : Entry) (c : SawyerCmd) (d : Img) (s : State), Canon s → s.entry id = some e → e.mirrored = false →
      e.started = true → e.cmds[k]? = some c → c.phase = .running → c.op ≠ 6 → c.mark < c.height → c.waitOn = 0 → s.cmdLost c = none →
      s.img e c.dst = some d →
      let row := if c.upward then c.height - 1 - c.mark else c.mark
      let job : RowJob := { cmd := c, dst := d, src := if c.hasSrc then s.img e c.src else none, y := c.dstY + row, sy := c.srcY + row }
      (job.run = none → ∃ t, exec (.sawyerRowDone id k) s = .next t ∧
        t.entry id = some { e with job := .sawyer (e.cmds.set k { c with phase := .failed, fail := some (stCheckMismatch, 0) }) } ∧
        { t with ledger := s.ledger } = s) ∧
      (∀ bytes, job.run = some bytes →
        let signals := c.signal ∧ c.signalled = false ∧ c.f 12 14 0 ≤ c.mark + 1
        ∃ t e', exec (.sawyerRowDone id k) s = .next t ∧ t.entry id = some e' ∧
          e'.cmds = e.cmds.set k { c with mark := c.mark + 1, signalled := c.signalled || decide signals } ∧
          t.sawyPixels = s.sawyPixels + c.width ∧ t.reg 0xD004 = (s.sawyPixels + c.width) / 65536 % 2 ^ 32 ∧
          (d.obj.cls = 0 → e'.work = e.work.map fun w => if w.1 = d.obj.handle then (w.1, bytes) else w) ∧
          (d.obj.cls ≠ 0 → e'.work = e.work ∧ (s.alone e d.obj.handle → t.objOf d.obj.handle = some (d.obj.setContent bytes))) ∧
          t.egress = s.egress ++ (if signals ∧ s.flt.fatalHold = false then
            [.data e.fn (c.w 14 + 2 ^ 32 * c.w 15) (signalBytes (c.f 0 15 0) (c.mark + 1) s.tideNs) (s.cplAddr e.desc)] else []) ∧
          { t with ledger := s.ledger, objs := s.objs, sawyPixels := s.sawyPixels, regs := s.regs, egress := s.egress, harb := s.harb
                   fresh := s.fresh } = s)) ∧
  (∀ (id k : Nat) (e : Entry) (c : SawyerCmd) (s : State), Canon s → Completing s id e → e.started = true → e.cmds[k]? = some c →
      c.phase = .running → c.op ≠ 6 → c.mark = c.height →
      ((∀ (i : Nat) (x : SawyerCmd), i ≠ k → e.cmds[i]? = some x → x.phase = .done) → ∃ t,
        exec (.sawyerCommandDone id k) s = .next t ∧ Completed s t e false (stOk, 0) e.cmds.length 0) ∧
      ((∃ (i : Nat) (x : SawyerCmd), i ≠ k ∧ e.cmds[i]? = some x ∧ x.phase = .running) → ∃ t,
        exec (.sawyerCommandDone id k) s = .next t ∧ t.entry id = some { e with job := .sawyer (e.cmds.set k { c with phase := .done }) } ∧
        (∀ j, j ≠ id → t.entry j = s.entry j) ∧ { t with ledger := s.ledger } = s))

/-- TALLY_JOB (R425 to R429, R432): the first ready job takes the lowest idle unit, and asks for host memory or takes its object's
bytes; at its end the CRC over the bytes is its result, the unit is idle and TALLY_JOBS counts; a compare that fails raises TALLY 0x01
and signals. -/
def Obligations.TallyJobs : Prop :=
  ∀ s : State, Canon s →
    (∀ (id k : Nat) (e : Entry), s.entry id = some e → s.idleUnit = some k → s.tallyReady e = true →
      (s.before e).any s.tallyReady = false → e.desc.w 4 = 0 → ∃ t, exec (.tallyJobStart id) s = .next t ∧
        t.unit k = { busy := true, fn := e.fn, poly := e.desc.poly, run := e.desc.tallyStart } ∧ (∀ j, j ≠ k → t.unit j = s.unit j) ∧
        t.entry id = some { e with started := true, readyAt := some s.now, job := .tally k } ∧ (∀ j, j ≠ id → t.entry j = s.entry j) ∧
        t.egress = s.egress ++ (if e.desc.w 7 = 0 then [] else [.readRequest e.desc.fn (e.desc.addr 5) (e.desc.w 7) (.job e.id)]) ∧
        { t with units := s.units, ledger := s.ledger, egress := s.egress } = s) ∧
    (∀ (id k : Nat) (e : Entry) (data : HostRead) (poisoned : Bool), Completing s id e → e.job = .tally k →
      let bs := s.tallyBytes e data
      let out := tallyOutcome e.desc bs (if e.desc.w 4 = 0 then data.fail else none) (poisoned && decide (e.desc.w 4 ≠ 0))
      ∃ t, exec (.tallyJobDone id data poisoned) s = .next t ∧ (t.ledger = s.ledger.filter fun x => decide (x.id ≠ id)) ∧
        t.unit k = { s.unit k with busy := false, run := crcRun e.desc.poly e.desc.tallyStart bs } ∧
        t.reg 0xB004 = (s.reg 0xB004 + 1) % 2 ^ 32 ∧
        (out.1 ≠ (stCheckMismatch, det 1 0) → Completed s t e false out.1 out.2.1 out.2.2) ∧
        (out.1 = (stCheckMismatch, det 1 0) → Completed s t e true out.1 out.2.1 out.2.2 ∧
          ∃ x : Raised, t.flt.raised = s.flt.raised ++ [x] ∧
            x.what = { err 0 0x0B 0x01 e.desc.ring e.desc.seq out.2.2 (e.desc.w 9) with fn := e.fn }))

/-! What a descriptor brings to a port -/

/-- SCENE_COMMIT (R96, R160 to R164, R567): a commit that passes its checks joins its port's queue, ends the boot-plate state and stays
in the ledger; one that fails completes at once. TONE_CURVE_PIN (R163): once nothing holds the commit back its curve is pinned, and
nothing but pending commits changes. -/
def Obligations.SceneCommits : Prop :=
  ∀ s : State, Canon s →
    (∀ (r : Fin 128) (d : Desc) (table : HostRead), Taken s r opSceneCommit d →
      let p := d.f 2 1 0
      (∀ f, s.sceneFail d table = some f → s.flt.fatalHold = false → ∃ t, exec (.sceneCommit r table) s = .next t ∧
        t.ledger = s.ledger ∧
        s.egress ++ [.readRequest d.fn (d.addr 3) (64 * d.f 5 4 0) (.table r)] ++ s.completion d false f 0 0 <+: t.egress ∧
        { t with rings := s.rings, egress := s.egress, turnAt := s.turnAt } = s) ∧
      (s.sceneFail d table = none → ∃ t e c, exec (.sceneCommit r table) s = .next t ∧ t.ledger = s.ledger ++ [e] ∧ e.desc = d ∧
        e.id = s.nextId ∧ e.started = false ∧ t.power.bootState = false ∧
        (t.port p).commits.map (·.id) = (s.port p).commits.map (·.id) ++ [s.nextId] ∧ (t.port p).commits.getLast? = some c ∧
        { c with readyAt := (s.newCommit d table).readyAt } = s.newCommit d table ∧
        (∀ q, q ≠ p → (t.port q).commits.map (·.id) = (s.port q).commits.map (·.id)))) ∧
    (∀ (id : Nat) (c : Commit) (e : Entry), (s.ports.flatMap fun x => x.2.commits).find? (fun c => decide (c.id = id)) = some c →
      c.pin = .waiting → s.entry id = some e → s.noWait e = true → ∃ t, exec (.toneCurvePin id) s = .next t ∧
        (∀ q, ∀ x ∈ (t.port q).commits, x.id = id → x.pin = s.pinTone c.tone) ∧
        (∀ q, { t.port q with commits := (s.port q).commits } = s.port q) ∧ { t with ports := s.ports } = s)

/-- SHEPHERD_UPDATE (R24, R107, R271, R272): its table is read at acceptance; once nothing it waits for is left and every earlier update of
its port is installed it is installed itself: the eyes of a stopped port are replaced and it completes, after those it replaces; on any
other port it waits for the first subframe released after it. SIGNATURE_EXPECT (R293 to R295): its table waits behind the port's others. -/
def Obligations.EyesAndSignatures : Prop :=
  ∀ (r : Fin 128) (d : Desc) (table : HostRead) (s : State), Canon s → s.flt.fatalHold = false →
    let p := d.f 2 1 0
    let eyes := (indexed (tableWords table.bytes 48 d.eyeCount)).map eyeOf
    let asks (n size : Nat) : List Egress :=
      if s.follower p = true ∨ n = 0 then [] else [.readRequest d.fn (d.addr 3) (size * n) (.table r)]
    let held : Prop := ∃ x ∈ s.ledger, (s.newEntry d .plain []).waitsFor x = true
    let first : Prop := ∀ x ∈ s.ledger, x.desc.opcode = opShepherdUpdate → x.desc.f 2 1 0 = p → x.started = true
    (Taken s r opShepherdUpdate d → s.eyeFail d table = none →
      (held → ∃ t, exec (.shepherdUpdate r table) s = .next t ∧ t.ledger = s.ledger ++ [s.newEntry d (.eyes eyes) []] ∧
        s.egress ++ asks d.eyeCount 48 <+: t.egress ∧ t.port p = s.port p) ∧
      (s.goesAtOnce d → first → (s.port p).phase = .stopped → ∃ t out, exec (.shepherdUpdate r table) s = .next t ∧
        (t.ledger = s.ledger.filter fun x => !((s.port p).eyeUpdates.any fun u => decide (u.id = x.id))) ∧
        (t.port p).eyes = eyes ∧ (t.port p).eyesEmpty = eyes.isEmpty ∧ (t.port p).eyeUpdates = [] ∧
        s.egress ++ asks d.eyeCount 48 <+: out ∧ out ++ s.completion d false (stOk, 0) 0 0 <+: t.egress) ∧
      (s.goesAtOnce d → first → (s.port p).phase ≠ .stopped → ∃ t, exec (.shepherdUpdate r table) s = .next t ∧
        t.ledger = s.ledger ++ [{ s.newEntry d (.eyes eyes) [] with started := true }] ∧ t.port p = { s.port p with
          eyeUpdates := (s.port p).eyeUpdates ++ [{ id := s.nextId, eyes := eyes, at_ := s.now }] } ∧
        s.egress ++ asks d.eyeCount 48 <+: t.egress ∧ (∀ q, q ≠ p → t.port q = s.port q))) ∧
    (Taken s r opSignatureExpect d → s.sigFail d table = none → ∃ t x, exec (.signatureExpect r table) s = .next t ∧
      t.ledger = s.ledger ++ [s.newEntry d .plain []] ∧ t.port p = { s.port p with sigTables := (s.port p).sigTables ++ [x] } ∧
      (∀ q, q ≠ p → t.port q = s.port q) ∧ s.egress ++ asks d.sigCount 32 <+: t.egress ∧
      x.id = s.nextId ∧ x.ring = r.val ∧ x.at_ = s.now ∧ x.bind = d.flag21 ∧
      x.frame = d.w 5 + 2 ^ 32 * d.f 6 15 0 ∧ x.boundTo = none ∧
      x.entries = (indexed (tableWords table.bytes 32 d.sigCount)).map sigEntry)

/-- MODE_SET (R103, R323, R324, R326, R328, R567): on a port that is not stopped it waits in the port's queue; a stopped port begins the
mode's start with 1 s for it, or completes a stop at once. -/
def Obligations.ModeSets : Prop :=
  ∀ (r : Fin 128) (d : Desc) (s : State), Canon s → Taken s r opModeSet d → s.modeFail d = none →
    (∀ q, q < 4 → (s.port q).phase = .stopped → (s.port q).modeQueue = []) →
    let p := d.modePort
    let c : Instr := if d.stops then .modeSetStop r else .modeSet r
    ((s.port p).phase ≠ .stopped → ∃ t e, exec c s = .next t ∧ t.ledger = s.ledger ++ [e] ∧ e.desc = d ∧ e.id = s.nextId ∧
      t.power.bootState = false ∧ t.port p = { s.port p with modeQueue := (s.port p).modeQueue ++ [s.nextId] } ∧
      ∀ q, q ≠ p → t.port q = s.port q) ∧
    ((s.port p).phase = .stopped → s.cway.role.drives = true → s.formed = true → s.power.bootState = false →
      s.looping (gangPorts p d.gangMask) = false → (∀ x ∈ s.ledger, (s.newEntry d .plain []).waitsFor x = false) →
      (d.stops = true → s.flt.fatalHold = false → ∃ t, exec c s = .next t ∧ t.ledger = s.ledger ∧
        s.egress ++ s.completion d false (stOk, 0) ((s.port p).frame % 2 ^ 32) ((s.port p).frame / 2 ^ 32) <+: t.egress ∧
        (t.port p).phase = .stopped) ∧
      (d.stops = false → s.modeFailAgain d = none → ∃ t, exec c s = .next t ∧ (t.port p).modeNext = some (d.mode, d.gangMask) ∧
        (t.port p).startBy = some (s.now + msTicks 1000) ∧ (t.port p).startId = some s.nextId ∧ (t.port p).modeQueue = [] ∧
        ∀ q ∈ gangPorts p d.gangMask, (t.port q).phase = .starting ∧ (t.port q).gang = d.gangMask))

/-- The timers of MODE packets and of starts and stops (R330, R359, R373, R374): an unanswered MODE packet goes out again every 10 ms
under its mode_id, or waits for room between the packets of the line slots; a change not acknowledged within 1 s raises LINK 0x06; a start not up and acknowledged within 1 s is given up, its MODE_SET
completing TIMEOUT; after 1 ms of HOLD the lanes leave L0. -/
def Obligations.ModeTimers : Prop :=
  ∀ (p : Fin 4) (s : State), Canon s →
    (∀ w, (s.port p).modeWait = some w → w.resend ≤ s.now → (s.port p).link.reformWait = none → s.sends p = true →
      ∃ (t : State) (k x : Packet), exec (.modeRetransmit p) s = .next t ∧
        (t.port p).modeWait = some { w with resend := w.resend + msTicks 10 } ∧ (∀ q, q ≠ p.val → t.port q = s.port q) ∧
        s.modePacket p 0 (s.announced p).2 (s.announced p).1 w.modeId (s.slotPlace p) s.now = .packet k ∧ x.words = k.words ∧
        ((t.port p).link.tx = (s.port p).link.tx ++ [.packet x] ∨
          ((t.port p).link.later = (s.port p).link.later ++ [x] ∧ (t.port p).link.tx = (s.port p).link.tx)) ∧
        { t with ports := s.ports } = s) ∧
    (∀ w, (s.port p).modeWait = some w → w.use = ModeUse.change → w.since + msTicks 1000 ≤ s.now → (s.port p).link.reformWait = none →
      ∃ u : State, exec (.modeAckTimeout p) s = .next ((u.raise (err 2 0x07 0x06 (instP p 0) w.modeId 0 0)).changeDone p) ∧
        u.port p = { s.port p with modeWait := none } ∧ (∀ q, q ≠ p.val → u.port q = s.port q) ∧ { u with ports := s.ports } = s) ∧
    ((s.port p).phase = .starting → due (s.port p).startBy s.now = true → (∀ q, q < 4 → (s.port q).modeQueue = []) →
      (∀ x ∈ s.ledger, ∀ c ∈ x.cmds, c.op = 6 → c.phase ≠ .running) →
      ∀ (id : Nat) (e : Entry), (s.port p).startId = some id → Completing s id e → ∃ t, exec (.modeStartTimeout p) s = .next t ∧
        Completed s t e false (stTimeout, det 5 0) 0 0 ∧
        (∀ q ∈ s.members p, (t.port q).phase = .stopped ∧ (t.port q).stopReason = 5 ∧ (t.port q).gang = 0)) ∧
    (due (s.port p).link.holdEnd s.now = true → ∃ t, exec (.stopHoldEnd p) s = .next t ∧
      (t.port p).link.power = (if s.field (linkBase p) 9 8 = 1 then .l1 else .l2) ∧ (t.port p).link.phase = .down ∧
      (t.port p).link.holdEnd = none ∧ (t.port p).link.holds = false ∧ (∀ q, q ≠ p.val → t.port q = s.port q) ∧
      { t with ports := s.ports } = s)

/-! Calibration -/

/-- CAL_LOAD (R241 to R245): at its start the almanac is pinned, or a check that fails completes it; once its sensitivities are computed
it completes on a stopped port, whose first frame takes it, without a fade, and waits for a latch instant on any other. -/
def Obligations.AlmanacLoads : Prop :=
  ∀ (id : Nat) (e : Entry) (s : State), Canon s → Completing s id e →
    let p := e.desc.calPort
    (∀ o, e.desc.opcode = opCalLoad → e.started = false → s.noWait e = true → s.objOf (e.desc.w 2) = some o →
      (∀ f, s.calFail e.desc o = some f → ∃ t, exec (.calLoadStart id) s = .next t ∧ Completed s t e false f 0 0) ∧
      (s.calFail e.desc o = none → ∃ t, exec (.calLoadStart id) s = .next t ∧
        t.entry id = some { e with started := true, readyAt := some s.now
                                   job := .calLoad ((o.read 0 o.layout).take (almSize (o.read 0 o.layout))) o.handle } ∧
        (∀ j, j ≠ id → t.entry j = s.entry j) ∧ { t with ledger := s.ledger } = s)) ∧
    (∀ bs h, e.job = .calLoad bs h → (s.port p).calLoads.contains id = false → (s.port p).ray.fadeId ≠ some id →
      ((s.port p).phase = .stopped → ∃ t, exec (.calLoadReady id) s = .next t ∧ Completed s t e false (stOk, 0) 0 0 ∧
        (t.port p).ray = { (s.port p).ray with next := some (almanacOf bs h (s.port p).ray.theta) }) ∧
      ((s.port p).phase ≠ .stopped → ∃ t, exec (.calLoadReady id) s = .next t ∧
        t.entry id = some { e with readyAt := some s.now } ∧
        t.port p = { s.port p with calLoads := (s.port p).calLoads ++ [id] } ∧ (∀ q, q ≠ p → t.port q = s.port q) ∧
        { t with ledger := s.ledger, ports := s.ports } = s))

/-- CAL_MEASURE (R495 to R500): the electrical one measures at its start and again 50 ms later, the photometric one waits for a latch
instant; the tests decide: accepted, it writes its set and completes OK with the mask; rejected, SENSE 0x07 is raised and it completes
CAL_REJECT with reason and channel. -/
def Obligations.CalibrationMeasures : Prop :=
  ∀ s : State, Canon s →
    (∀ (r : Fin 128) (d : Desc), Taken s r opCalMeasure d → s.goesAtOnce d →
      (d.calKind = 0 → ∃ t, exec (.calMeasureElectrical r) s = .next t ∧
        t.ledger = s.ledger ++ [{ s.newEntry d (.calMeasure [] (some (s.now + msTicks 50)) 0 0 false) [] with
          started := true, readyAt := some s.now }]) ∧
      (d.calKind = 1 → s.photoFail d = none → ∃ t, exec (.calMeasurePhotometric r) s = .next t ∧
        t.ledger = s.ledger ++ [{ s.newEntry d (.calMeasure [] none 0 0 false) [] with readyAt := some s.now }])) ∧
    (∀ (id n f0 : Nat) (e : Entry) (rep : Timer) (safe : Bool) (x : CalReading) (xs : List CalReading), s.entry id = some e →
      e.job = .calMeasure [] rep n f0 safe →
      (if e.desc.calKind = 0 then e.started && due rep s.now else decide (n = 2)) = true →
      ∃ t, exec (.calMeasureRepeat id (x :: xs)) s = .next t ∧
        t.entry id = some { e with job := .calMeasure (x :: xs) rep n f0 safe } ∧ (∀ j, j ≠ id → t.entry j = s.entry j) ∧
        { t with ledger := s.ledger } = s) ∧
    (∀ (id n f0 : Nat) (e : Entry) (rep : Timer) (safe : Bool) (x : CalReading) (xs ys : List CalReading), Completing s id e →
      e.job = .calMeasure (x :: xs) rep n f0 safe → (e.desc.calKind ≠ 0 → 4 ≤ n) →
      let fails := if e.desc.calKind = 0 then measureFail e.desc.channels electricalWindow electricalRepeat (x :: xs) ys
        else measureFail e.desc.channels (photoWindow (s.field 0x900C 11 0)) photoRepeat (x :: xs) ys
      (∀ reason c, fails = some (reason, c) → exec (.calMeasureDone id ys) s =
        .next (((s.setBit 0x9010 3).raise (err 0 0x0C 0x07 0 e.desc.calKind (reason * 65536 + c * 256) 0)).finish id
          (stCalReject, reason * 65536 + c * 256) 0 0)) ∧
      (fails = none → e.desc.calKind = 0 → ∃ t, exec (.calMeasureDone id ys) s = .next t ∧
        Completed s t e false (stOk, 0) (e.desc.w 3 % 65536) (setFor (s.die 23).value) ∧
        t.sense.data.cal = s.sense.data.cal.mapIdx fun i c => if i = setFor (s.die 23).value then
          c.fitted i (s.die 23).value e.desc.channels (x :: xs) ys else c) ∧
      (fails = none → e.desc.calKind ≠ 0 → safe = false → ∃ t, exec (.calMeasureDone id ys) s = .next t ∧
        Completed s t e false (stOk, 0) (e.desc.w 3 % 65536) (f0 % 2 ^ 32)))

/-- CAL_STORE (R503 to R506): inside the board's window the spare slot is erased and written, outside it the content waits as the
pending store and the descriptor completes THERMAL_DEFER; a verified write is the store in force with the next generation, one that
failed twice completes CHECK_MISMATCH reason 3, one that left the window is deferred. -/
def Obligations.CalibrationStores : Prop :=
  ∀ s : State, Canon s →
    (∀ (r : Fin 128) (d : Desc), Taken s r opCalStore d → s.goesAtOnce d → d.f 2 3 0 ≠ 0 → s.sense.writing = none →
      (s.boardInside = true → ∃ t, exec (.calStore r) s = .next t ∧
        t.ledger = s.ledger ++ [{ s.newEntry d .calStore [] with started := true, readyAt := some s.now }] ∧
        t.sense.writing = some (some s.nextId, s.wanted d, s.spareSlot) ∧
        (if s.spareSlot then t.sense.flashB = [] ∧ t.sense.flashA = s.sense.flashA
         else t.sense.flashA = [] ∧ t.sense.flashB = s.sense.flashB)) ∧
      (s.boardInside = false → s.sense.boardRun < 10 → s.flt.fatalHold = false → ∃ t, exec (.calStore r) s = .next t ∧
        t.ledger = s.ledger ∧ t.sense = { s.sense with pending := some (s.wanted d), deferred := true } ∧
        s.egress ++ s.completion d false (stThermalDefer, 0) 0 0 <+: t.egress)) ∧
    (∀ (id : Nat) (e : Entry) (d : StoreData) (slot : Bool), Completing s id e → s.sense.writing = some (some id, d, slot) →
      (∃ t, exec (.calStoreDone .verified) s = .next t ∧ Completed s t e false (stOk, 0) (s.sense.gen + 1) (bit slot) ∧
        t.sense.gen = s.sense.gen + 1 ∧ t.sense.slot = slot ∧ t.sense.stored = d ∧ t.sense.pending = none ∧ t.sense.writing = none ∧
        t.flash slot = storeImage d (s.sense.gen + 1)) ∧
      (∃ t, exec (.calStoreDone .failedTwice) s = .next t ∧ Completed s t e false (stCheckMismatch, det 3 0) 0 0 ∧
        t.sense.gen = s.sense.gen ∧ t.sense.stored = s.sense.stored) ∧
      (∃ t, exec (.calStoreDone .leftWindow) s = .next t ∧ Completed s t e false (stThermalDefer, 0) 0 0 ∧
        t.sense.pending = some d ∧ t.sense.deferred = true ∧ t.sense.gen = s.sense.gen))

/-- The ray map's checks of itself (R262 to R264, R266): the signature check stores what the shuttles received and its frame, and
reports a difference; the scrub reports a pinned almanac, in force, leaving or waiting for the first frame, whose identity is not its
own any more. -/
def Obligations.RayMapChecks : Prop :=
  ∀ (p : Fin 4) (s : State), Canon s →
    (∀ f k, (s.port p).lastFixed = some (f, k) →
      (∃ t, exec (.rmapSignatureCheck p 0) s = .next t ∧ t.reg (0x4424 + 0x80 * p) = s.raySig p k f % 2 ^ 32 ∧
        t.reg (0x4428 + 0x80 * p) = (k * 2 ^ 30 + f.frame % 2 ^ 30) % 2 ^ 32 ∧
        (∀ o, o ≠ 0x4424 + 0x80 * p.val → o ≠ 0x4428 + 0x80 * p.val → t.reg o = s.reg o) ∧ { t with regs := s.regs } = s) ∧
      (∀ upset : Word, upset ≠ 0 → exec (.rmapSignatureCheck p upset) s = .next
        (((s.setReg (0x4424 + 0x80 * p) (s.raySig p k f ^^^ upset.toNat)).setReg (0x4428 + 0x80 * p)
          (k * 2 ^ 30 + f.frame % 2 ^ 30)).rayMismatch p k f.frame (s.raySig p k f) (s.raySig p k f ^^^ upset.toNat)))) ∧
    (∀ (which : Fin 3) (a : Almanac), (s.port p).ray.copy which = some a →
      exec (.almanacScrub p (which, 0)) s = .next s ∧
      (∀ damage : Word, damage ≠ 0 → ∃ u : State, exec (.almanacScrub p (which, damage)) s = .next ((u.setBit (0x442C + 0x80 * p) 1).raise
          (err 2 0x04 0x03 (instP p 0) (almIdent a.bytes) (almIdent a.bytes ^^^ damage.toNat) 0)) ∧
        (u.port p).ray.copy which = some { a with scrubBad := true } ∧
        (∀ k : Fin 3, k ≠ which → (u.port p).ray.copy k = (s.port p).ray.copy k) ∧
        { u.port p with ray := (s.port p).ray } = s.port p ∧ (∀ q, q ≠ p.val → u.port q = s.port q) ∧ { u with ports := s.ports } = s))

/-! Tide time -/

/-- TIDE_PROGRAM (R24, R461, R466, R467, R470, R471): its block is read at acceptance; a programme for an idle output is in force at the next CLK_TIME edge, and completes
with that time; on an output at its active level it waits for the pulse to end; a capture input starts anew; target 12 arms the step.
Output pulses and captured edges (R468 to R473): a due pulse goes active for its width and counts; at its end the output is inactive,
off after the last pulse of its count; an edge is written to the capture ring while the host can be reached, buffered while not, and
dropped and counted when 16 records wait. -/
def Obligations.TideProgramsAndPulses : Prop :=
  (∀ (r : Fin 128) (d : Desc) (block : HostRead) (s : State), Canon s → s.flt.fatalHold = false → Taken s r opTideProgram d →
      s.goesAtOnce d →
      let n := d.tideTarget
      let g := outProg (bytesAt block.bytes 0 32)
      let asks := Egress.readRequest d.fn (d.addr 3) 32 (.table r)
      let record := Egress.write d.fn ((s.ring d.ring).cpl + 32 * s.slotOf d) (cplBytes d stOk 0 (s.tideNsAt s.nextEdge) 0 0)
      (n < 8 → block.fail = none → outFail block.bytes = none → s.outLineFail g = none →
        ((s.out n).active = false → ∃ t, exec (.tideProgramOut r block) s = .next t ∧ t.ledger = s.ledger ∧
          s.egress ++ [asks, record] <+: t.egress ∧
          (t.out n).prog = (if g.mode = 2 ∧ (t.out n).nextAt = none then { g with mode := 0 } else g) ∧ (t.out n).active = false ∧ (t.out n).ends = none ∧
          (t.out n).pulses = 0 ∧ (∀ k, k ≠ n → t.out k = s.out k)) ∧
        ((s.out n).active = true → ∃ t e, exec (.tideProgramOut r block) s = .next t ∧ t.ledger = s.ledger ++ [e] ∧ e.desc = d ∧
          e.started = true ∧ t.out n = { s.out n with waiting := (s.out n).waiting ++ [(s.nextId, g)] } ∧
          (∀ k, k ≠ n → t.out k = s.out k))) ∧
      (8 ≤ n → n < 12 → block.fail = none → capFail block.bytes = none → ∃ t, exec (.tideProgramCap r block) s = .next t ∧
        t.ledger = s.ledger ∧ s.egress ++ [asks, record] <+: t.egress ∧ (t.cap (n - 8)).seq = 0 ∧ (t.cap (n - 8)).droppedSince = 0 ∧
        (t.cap (n - 8)).edge = fieldOf (leAt block.bytes 0 4) 1 0 ∧ (t.cap (n - 8)).filter = fieldOf (leAt block.bytes 0 4) 15 8 ∧
        (t.cap (n - 8)).sizeLog = fieldOf (leAt block.bytes 4 4) 3 0 ∧
        (t.cap (n - 8)).addr = leAt block.bytes 8 4 + 2 ^ 32 * leAt block.bytes 12 4 ∧ (∀ k, k ≠ n - 8 → t.cap k = s.cap k)) ∧
      (n = 12 → s.armFail = none → s.tide.valid < 8 → ∃ t, exec (.tideStepArm r) s = .next t ∧ t.ledger = s.ledger ∧
        t.tide = { s.tide with armed := true } ∧ s.egress ++ s.completion d false (stOk, 0) 0 0 <+: t.egress)) ∧
  (∀ s : State, Canon s →
      (∀ (n : Fin 8) (u : Nat), (s.out n).active = false → (s.out n).prog.mode ≠ 3 → (s.out n).nextAt = some u → s.tideReached u = true →
        ¬ ((s.out n).prog.mode = 1 ∧ s.field (0x8040 + 4 * n) 8 8 = 1) → ∃ t, exec (.tideOutPulseStart n) s = .next t ∧
          t.out n = { s.out n with active := true, ends := some (u + (s.out n).prog.width * 2 ^ 32), next := (s.out n).next + 1
                                   lastAt := s.now, pulses := satNat ((s.out n).pulses + 1) 0xFFFF } ∧
          (∀ k, k ≠ n.val → t.out k = s.out k) ∧ { t with outs := s.outs } = s) ∧
      (∀ (n : Fin 8) (u : Nat), (s.out n).active = true → (s.out n).ends = some u → s.tideReached u = true → (s.out n).waiting = [] →
        let last := (s.out n).prog.mode = 2 ∧ (s.out n).nextAt = none
        ∃ t, exec (.tideOutPulseEnd n) s = .next t ∧
          t.out n = { s.out n with active := false, ends := none
                                   prog := if last then { (s.out n).prog with mode := 0 } else (s.out n).prog } ∧
          (∀ k, k ≠ n.val → t.out k = s.out k) ∧ { t with outs := s.outs } = s) ∧
      (∀ (n : Fin 4) (rising : Bool), (s.cap n).takes rising = true → (∀ x, (s.cap n).lastEdge = some x → x + 24 ≤ s.now) →
        let c := s.cap n
        let new := (c.addr + 16 * (c.seq % 2 ^ (c.sizeLog + 4)), capBytes n c s.tideNs rising)
        ∃ t, exec (.tideCapEdge n rising) s = .next t ∧ (∀ k, k ≠ n.val → t.cap k = s.cap k) ∧
          { t with tcaps := s.tcaps, egress := s.egress } = s ∧
          (16 ≤ c.buffered.length + s.capWaiting c → t.cap n = { c with lastEdge := some s.now, droppedSince := satNat (c.droppedSince + 1) 4095,
                                                                        dropped := satNat (c.dropped + 1) 0xFFFF } ∧ t.egress = s.egress) ∧
          (c.buffered.length + s.capWaiting c < 16 → (t.cap n).seq = (c.seq + 1) % 65536 ∧ (t.cap n).lastEdge = some s.now ∧ (t.cap n).droppedSince = 0 ∧
            (s.power.linkUp = true → (t.cap n).buffered = [] ∧
              t.egress = s.egress ++ (c.buffered ++ [new]).map fun b => .data 0 b.1 b.2 0) ∧
            (s.power.linkUp = false → (t.cap n).buffered = c.buffered ++ [new] ∧ t.egress = s.egress))))

/-- PTM dialogues (R458, R459, R464): one begins every ptm_period; its answer gives the measured offset, or is rejected for its round
trip; no answer within 100 µs counts as a failed one; eight bad ones in a row in TRACK lead to HOLDOVER, reported as TIDE 0x01. A resume
leaves DISCONT for TRACK and drops the baseline. -/
def Obligations.TideDiscipline : Prop :=
  ∀ s : State, Canon s →
    (s.power.boot ≠ .inReset → s.ptmEnabled = true → s.tide.dialogue = none → due s.tide.dialogueAt s.now = true →
      exec .ptmDialogueStart s = .next { s with tide := { s.tide with
        dialogue := some (s.now, s.tideUnits), dialogueAt := some (s.now + s.ptmPeriod) } }) ∧
    (let noSample (hi lo : Nat) (t : State) : Prop := t.tide.valid = 0 ∧ t.tide.bad = s.tide.bad + 1 ∧ t.tide.dialogue = none ∧
        t.field 0x8028 hi lo = satNat (s.field 0x8028 hi lo + 1) 0xFFFF ∧
        t.tide.phase = (if s.tide.phase = .track ∧ 7 ≤ s.tide.bad then .holdover else s.tide.phase) ∧
        (s.tide.phase = .track ∧ 7 ≤ s.tide.bad → ∃ x, t.flt.raised = s.flt.raised ++ [x] ∧ x.what = err 0 0x09 0x01 0 0 0 0)
     (∀ at_ sent, s.tide.dialogue = some (at_, sent) → at_ + 150000 ≤ s.now → ∃ t, exec .ptmTimeout s = .next t ∧ noSample 15 0 t) ∧
     (∀ (at_ sent master turnaround : Nat), s.tide.dialogue = some (at_, sent) →
       let rtt : Int := (s.tideUnits : Int) - sent - turnaround * 2 ^ 32
       let offset : Int := (master : Int) * 2 ^ 33 - ((sent : Int) + s.tideUnits - turnaround * 2 ^ 32)
       ((s.rttMax * 2 ^ 32 : Nat) < rtt → ∃ t, exec (.ptmResponse master turnaround) s = .next t ∧ noSample 31 16 t) ∧
       (rtt ≤ (s.rttMax * 2 ^ 32 : Nat) → ∃ t, exec (.ptmResponse master turnaround) s = .next t ∧ t.tide.dialogue = none ∧
         t.tide.bad = 0 ∧ t.reg 0x8020 = ns32 offset))) ∧
    (s.tide.phase = .discont → ∃ t, exec .tideResume s = .next t ∧
      t.tide = { s.tide with phase := if 8 ≤ s.tide.bad then .holdover else .track, base := none })

/-! Storage, scanning, weaving -/

/-- The Harbourmaster (R128, R142 to R148): a tile moves to a place that has room; on a retiring channel a tile whose read fails is
unreadable from then on and its object lost; a relocation with no readable tile left, or with no room on the working channels, ends with
the channel powered down; clearing the peaks sets them to the present occupancy. -/
def Obligations.HarbourmasterMoves : Prop :=
  ∀ s : State, Canon s → s.flt.fatalHold = false → s.sense.tripped = false →
    (∀ (tile : Nat) (src dest : Place), tabFind s.harb.places tile = some src → s.harb.unreadable.contains tile = false →
      s.moveTurn tile src = true → s.roomAt src dest = true → ∃ t, exec (.harbTileMove tile dest false) s = .next t ∧
        tabFind t.harb.places tile = some dest ∧ (∀ k, k ≠ tile → tabFind t.harb.places k = tabFind s.harb.places k) ∧
        { t with harb := s.harb } = s) ∧
    (∀ (tile : Nat) (c : Fin 16) (dest : Place), tabFind s.harb.places tile = some (.dram c) → s.harb.unreadable.contains tile = false →
      s.moveTurn tile (.dram c) = true → (s.chan c).phase = .retiring → ∃ t, exec (.harbTileMove tile dest true) s = .next t ∧
        t.harb.unreadable = s.harb.unreadable ++ [tile] ∧ t.harb.places = s.harb.places ∧
        ∀ o, s.tileOwner tile = some o → o.lost = none → (∃ o', t.objOf o.handle = some o' ∧ o'.lost = some 1)) ∧
    (∀ c : Fin 16, s.harb.relocating.contains c.val = true → s.readableTiles c = [] ∨ s.channelRoom = false →
      ∃ t, exec (.relocationEnd c) s = .next t ∧
        (t.chan c).phase = .retired ∧ (t.chan c).queue = [] ∧ (∀ k, k ≠ c.val → t.chan k = s.chan k) ∧
        (t.harb.relocating = s.harb.relocating.filter fun x => x ≠ c.val) ∧ t.harb.places = s.harb.places ∧
        t.harb.unreadable = s.harb.unreadable ++ s.readableTiles c ∧
        (s.readableTiles c = [] → { t with chans := s.chans, harb := s.harb } = s)) ∧
    exec .harbClearPeaks s = .next { s with harb := { s.harb with peakChn := s.chnUse, peakDram := s.dramUse } }

/-- Line and segment slots (R314 to R316, R332, R333, R374): a running port's slot of an active line opens its LINE packet; a segment's
slot takes its words from the lead buffer, or repeats the last triple and counts an underrun when they are not there; a port that has
stopped sends HOLD in its line slots; SCAN_UNDER is cleared on a write of 1. -/
def Obligations.SlotsSent : Prop :=
  ∀ (p : Fin 4) (s : State), Canon s → s.power.boot ≠ .inReset → s.follower p = false →
    let q := s.port p
    (q.phase = .running → q.slotTick q.next ≤ s.now → q.next ≠ q.boundary → ∃ t, exec (.lineSendSlot p) s = .next t ∧
      (t.port p).next = q.next + 1 ∧
      (q.gang = 0 → q.next ≠ q.boundary - (q.mode.raceLead : Int) → s.halted = false → q.link.reform = none → s.cway.role.drives = true →
        (q.placeOf q.next).1 < q.subEff → (q.placeOf q.next).2 < q.mode.vActive → q.changeDue = false →
        ∃ o, (t.port p).line = some o ∧ o.slot = q.next ∧ o.seg = 0 ∧ o.words = [] ∧ o.under = false)) ∧
    (q.phase = .stopped → q.link.holdEnd ≠ none → q.slotTick q.next ≤ s.now → q.link.later = [] → ∃ t, exec (.lineSendSlot p) s = .next t ∧
      (t.port p).next = q.next + 1 ∧ (s.sends p = true → (t.port p).link.tx.length = q.link.tx.length + 1) ∧
      (∀ k, k ≠ p.val → t.port k = s.port k) ∧ { t with ports := s.ports } = s) ∧
    (∀ o, q.line = some o → o.seg + 1 < q.mode.segments → q.slotTick o.slot + q.link.segTicks o.seg ≤ s.now → o.under = false →
      let key := segKey q.frame (q.placeOf o.slot).1 (q.placeOf o.slot).2 o.seg
      (∀ ws, tabFind q.lead key = some ws → ∃ t, exec (.segmentSendSlot p) s = .next t ∧
        t.port p = { q with lead := tabErase q.lead key, lastTriple := lastThree ws
                            line := some { o with seg := o.seg + 1, words := o.words ++ ws } } ∧
        (∀ k, k ≠ p.val → t.port k = s.port k) ∧ { t with ports := s.ports } = s) ∧
      (tabFind q.lead key = none → ∃ t, exec (.segmentSendSlot p) s = .next t ∧
        t.port p = { q with line := some { o with
          seg := o.seg + 1, words := o.words ++ (List.replicate 32 q.lastTriple).flatten, under := true } } ∧
        t.reg (0x5044 + 0x400 * p) = satNat (s.reg (0x5044 + 0x400 * p) + 1) 0xFFFFFFFF ∧ t.field (0x5010 + 0x400 * p) 20 20 = 1 ∧
        (∀ k, k ≠ p.val → t.port k = s.port k) ∧ { t with ports := s.ports, regs := s.regs } = s)) ∧
    (∃ t, exec (.scanClearUnder p) s = .next t ∧ t.reg (0x5044 + 0x400 * p) = 0 ∧
      (∀ o, o ≠ 0x5044 + 0x400 * p.val → t.reg o = s.reg o) ∧ { t with regs := s.regs } = s)

/-- The Weave (R209, R221 to R224, R234, R297, R489): once the tiles whose lines have all begun are abandoned, a free shuttle starts the
released tile with the earliest deadline, of a row or of a witness; a finished segment stands in the lead buffer for its slot, unless the
slot has begun, and then it is discarded; a witness tile frees its shuttle and counts its rays, the last of a region publishes the
comparison's result, and one of a frame that is gone only frees its shuttle. -/
def Obligations.TilesWoven : Prop :=
  ∀ s : State, Canon s → s.weaves = true →
    (∀ k : Fin 128, tabFind s.shuttles k = none →
      let u := forN 4 (fun p s => s.abandonRows p) s
      let takes (p dl : Nat) (sh : Shuttle) (q : Port) : Prop := ∃ t, exec (.weaveTileStart k) s = .next t ∧
        tabFind t.shuttles k = some { sh with from_ := s.now + s.weaveEbb sh.lead dl } ∧
        (∀ j, j ≠ k.val → tabFind t.shuttles j = tabFind s.shuttles j) ∧ t.port p = q ∧ (∀ j, j ≠ p → t.port j = u.port j) ∧
        { t with shuttles := s.shuttles, ports := s.ports, tills := s.tills, fresh := s.fresh } = s
      (∀ (dl p : Nat) (r : TileRow), earliest u.candidates = some (dl, p, some r) →
        takes p dl { port := p, lead := r.lead, frame := r.frame, sub := r.sub, row := r.row, col := r.next, line := 32 * r.row
                     safe := r.safe, witness := false, from_ := 0 } ((u.port p).startTile r)) ∧
      (∀ (dl p : Nat), earliest u.candidates = some (dl, p, none) → ∃ w ws, (u.port p).witTiles = w :: ws ∧
        takes p dl { port := p, lead := p, frame := w.frame, sub := 0, row := w.region, col := w.idx, line := 0, safe := w.safe
                     witness := true, from_ := 0 } { u.port p with witTiles := ws }) ∧
      (earliest u.candidates = none → exec (.weaveTileStart k) s = .next u)) ∧
    (∀ (k : Fin 128) (sh : Shuttle) (f : FrameState), tabFind s.shuttles k = some sh → sh.witness = false → sh.from_ ≤ s.now →
      (s.port sh.port).lead.length < leadRoom → (s.port sh.lead).frameOf sh.frame = some f →
      let begun := s.segBegun sh.port sh.lead sh.frame sh.sub sh.line sh.col
      ∃ t, exec (.weaveSegmentDone k) s = .next t ∧
        (begun = false →
          tabFind (t.port sh.port).lead (segKey sh.frame sh.sub sh.line sh.col) = some ((s.segment sh f).map (·.word))) ∧
        (begun = true → (t.port sh.port).lead = (s.port sh.port).lead) ∧
        (∀ p, (t.port p).scene = (s.port p).scene ∧ (t.port p).line = (s.port p).line) ∧
        { t with shuttles := s.shuttles, ports := s.ports, tills := s.tills, flt := s.flt, fresh := s.fresh } = s) ∧
    (∀ (p : Fin 4) (k : Nat) (sh : Shuttle),
      s.shuttles.find? (fun x => x.2.witness && decide (x.2.port = p.val) && decide (x.2.from_ ≤ s.now)) = some (k, sh) →
      ((s.port p).frameOf sh.frame = none → exec (.witnessTileDone p) s = .next { s with shuttles := tabErase s.shuttles k }) ∧
      (∀ f, (s.port p).frameOf sh.frame = some f → ∃ t, exec (.witnessTileDone p) s = .next t ∧ tabFind t.shuttles k = none ∧
        (∀ j, j ≠ k → tabFind t.shuttles j = tabFind s.shuttles j) ∧
        (sh.row < 32 → tabGet 1 (s.port p).witLeft sh.row = 1 → (s.port p).safeSince = false →
          let words := (s.regionRays p sh.row f sh.safe).map (·.1)
          let got := signatureOf p false sh.row f.frame words
          let x := (t.port p).region sh.row
          x.sig = got ∧ x.frame = f.frame % 2 ^ 24 ∧ x.missRun = 0 ∧
            x.result = if got = expectedSig ((s.port p).region sh.row).e0 f.frame words.length then 0 else 1)))

/-- The end of a capture frame (R197, R201): its lines stand in the capture surface but for the dropped ones, `truncated` is set when there
are any, and its record goes out once the frame's first line has left. A throttled unit changes between 2 µs of work and its ebb slot
(R488). -/
def Obligations.WeaveAndCaptures : Prop :=
  ∀ s : State, Canon s →
    (∀ (p : Fin 4) (dropped : List Nat) (c : Capture) (o : Obj) (f : FrameState), (s.port p).capture = some c →
      s.objOf c.handle = some o → (s.port p).frameOf c.frame = some f → o.lost = none → (∀ j ∈ dropped, j < o.height) →
      let lines := dropped.eraseDups
      let status := if lines = [] then stOk else stTruncated
      ∃ t, exec (.captureFrameDone p dropped) s = .next t ∧ (t.port p).capture = none ∧
        t.objOf c.handle = some (o.setContent (s.captureContent f c o lines).1) ∧
        (dropped ≠ [] → t.field (compBase p + 0x24) 2 2 = 1) ∧
        ((s.port p).firstLineLeft c.frame = true → t.egress = s.egress ++
          [.data 0 (c.recAddr + 32 * (c.count % 16)) (captureBytes c status (satNat lines.length 2048) (s.frameStartNs p)) 0]) ∧
        ((s.port p).firstLineLeft c.frame = false → (t.port p).capDone = some (c, status, lines.length) ∧ t.egress = s.egress) ∧
        (∀ q, q ≠ p.val → t.port q = s.port q) ∧
        { t with ports := s.ports, objs := s.objs, regs := s.regs, egress := s.egress, flt := s.flt } = s) ∧
    (∀ (p : Fin 4) (dropped : List Nat), (s.port p).capture = none → exec (.captureFrameDone p dropped) s = .next s) ∧
    (∀ u : EbbUnit, ∃ t, exec (.throttleEbbTimer u) s = .next t ∧
      (t.sense.ebbs = s.sense.ebbs.map fun e => if e.1 = u ∧ due e.2.2 s.now = true then
        (u, !e.2.1, some (s.now + usTicks (if e.2.1 then 2 else s.ebbUs s.sense.level u))) else e) ∧
      t.sense = { s.sense with ebbs := t.sense.ebbs } ∧ { t with sense := s.sense } = s)

/-! Safety content and the Watch port -/

/-- SAFE_STATE_N (R304, R305): a new level is sampled from the next CLK_PERI edge on, and one that returns before that edge has not been
seen; it applies, or ceases to, once the samples of 375 periods have held it, and every row not yet released is safe from then on.
Activation (R301) and the captured words of the Watch port (R312): activate publishes the result of its checks; when they pass, size,
placement and E0 are taken, at once on a stopped port and pending on any other; a failure raises SAFE 0x04. The first words of WP_RMSIG
and of a region's result capture those behind them. -/
def Obligations.SafeStateAndActivation : Prop :=
  (∀ s : State,
      (∀ level : Bool, s.power.boot ≠ .inReset → level ≠ s.power.safeLevel →
        ((∀ e, s.power.safeEdge = some e → e < s.now) → exec (.safeStateNEdge level) s =
          .next { s with power := { s.power with
            safeLevel := level, safeEdge := some (4 * ceilDiv s.now 4), safePrev := s.power.safeEdge } }) ∧
        (∀ e, s.power.safeEdge = some e → s.now ≤ e → exec (.safeStateNEdge level) s =
          .next { s with power := { s.power with safeLevel := level, safeEdge := s.power.safePrev, safePrev := none } })) ∧
      (∀ level : Bool, s.power.boot = .inReset → exec (.safeStateNEdge level) s =
        .next { s with power := { s.power with safeLevel := level } }) ∧
      (exec (.safeStateNEdge s.power.safeLevel) s = .next s) ∧
      (∀ x, s.power.safeEdge = some x → x + 1500 ≤ s.now → s.power.safeLevel = false → s.power.safeApplied = false → ∃ t,
        exec .safeStateApply s = .next t ∧ t.power = { s.power with safeApplied := true } ∧
        (∀ p, (tabFind s.ports p).isSome = true → t.port p = { s.port p with
          safeSince := true, rows := (s.port p).rows.map fun r => if s.now < r.at_ then { r with safe := true } else r }) ∧
        { t with power := s.power, ports := s.ports } = s) ∧
      (∀ x, s.power.safeEdge = some x → x + 1500 ≤ s.now → s.power.safeLevel = true → s.power.safeApplied = true →
        exec .safeStateCease s = .next { s with power := { s.power with safeApplied := false } })) ∧
  (∀ (p : Fin 4) (s : State), Canon s → tabSorted s.wcapts →
      (s.activationResult p = 1 → (s.port p).phase ≠ .stopped → ∃ t, exec (.wpActivate p) s = .next t ∧
        (t.port p).prot = { (s.port p).prot with
          lastResult := 1
          pending := some { at_ := s.now, wq := fieldOf (s.wreg (wpBase p)) 15 0, hq := fieldOf (s.wreg (wpBase p)) 31 16
                            px := fieldOf (s.wreg (wpBase p + 4)) 15 0, py := fieldOf (s.wreg (wpBase p + 4)) 31 16
                            e0 := s.wreg (wpBase p + 0xC) } } ∧
        (∀ q, q ≠ p.val → t.port q = s.port q) ∧ { t with ports := s.ports } = s) ∧
      (s.activationResult p = 1 → (s.port p).phase = .stopped → ∃ t, exec (.wpActivate p) s = .next t ∧
        (t.port p).prot = { (s.port p).prot with
          lastResult := 1, pending := none, active := !(s.port p).prot.active, gen := (s.port p).prot.nextGen
          wq := fieldOf (s.wreg (wpBase p)) 15 0, hq := fieldOf (s.wreg (wpBase p)) 31 16
          px := fieldOf (s.wreg (wpBase p + 4)) 15 0, py := fieldOf (s.wreg (wpBase p + 4)) 31 16, e0 := s.wreg (wpBase p + 0xC) } ∧
        (∀ q, q ≠ p.val → t.port q = s.port q) ∧ { t with ports := s.ports, wregs := s.wregs } = s) ∧
      (s.activationResult p ≠ 1 → ∃ u : State, exec (.wpActivate p) s =
          .next ((u.raise (err 0 0x05 0x04 (instP p 0) (s.activationResult p) 0 0)).setWbit 0x00C (8 + p)) ∧
        (u.port p).prot = { (s.port p).prot with lastResult := s.activationResult p } ∧ { u with ports := s.ports } = s) ∧
      (∃ t, exec (.wpRmsigRead p) s = .next t ∧ (tabGet (watchReset (wpBase p + 0x34)) t.wcapts (wpBase p + 0x34)).toNat = s.rmapSigInfo p % 2 ^ 32 ∧
        (tabGet (watchReset (wpBase p + 0x38)) t.wcapts (wpBase p + 0x38)).toNat = s.rmapIdent p % 2 ^ 32 ∧
        (tabGet (watchReset (wpBase p + 0x3C)) t.wcapts (wpBase p + 0x3C)).toNat = s.rmapOldId p % 2 ^ 32 ∧ { t with wcapts := s.wcapts } = s) ∧
      (∀ r : Fin 32, ∃ t, exec (.wpRegionSignatureRead p r) s = .next t ∧
        (let a := wpBase p + 0x114 + 0x20 * r
         (tabGet (watchReset a) t.wcapts a).toNat = (((s.port p).region r).result * 2 ^ 30 + ((s.port p).region r).frame % 2 ^ 24) % 2 ^ 32) ∧
        { t with wcapts := s.wcapts } = s))

/-- Frames of the Watch port (R308 to R311): one that ends before its check or fails it is discarded, counted and answered with the
current sequence number; every other advances WP_SEQ. A NOP answers OK; a READ its words; a WRITE into a staging bank changes its bytes;
a WRITE of a read-only word is refused whole, and so is a frame with an unknown opcode. -/
def Obligations.WatchFrames : Prop :=
  ∀ (mosi : List Byte) (s : State), Canon s → s.power.boot ≠ .inReset → s.power.boot ≠ .failed → s.power.purserUp = true →
    let op := leAt mosi 0 1
    let len := leAt mosi 2 2
    let addr := leAt mosi 4 4
    let n := 8 + (if op = 2 then len else 0)
    let after := (s.wpSeq + 1) % 2 ^ 32
    let good := n + 4 ≤ mosi.length ∧ crc32c s.wpSeq (mosi.take n) = leAt mosi n 4
    let answers (c : Instr) (status : Nat) (data : List Byte) (P : State → Prop) : Prop := ∃ t, exec c s = .next t ∧
      t.wpSeq = after ∧ t.miso = watchResponse status after s.wpSeq data ∧ t.wreg 8 = s.wreg 8 / 256 * 256 ∧ P t
    let quiet (t : State) : Prop := { t with wregs := s.wregs, wpSeq := s.wpSeq, miso := s.miso } = s
    (good → op = 0 → leAt mosi 1 1 = 0 → len = 0 → addr % 4 = 0 → answers (.watchNop mosi) 0 [] quiet) ∧
    (good → op = 1 → leAt mosi 1 1 = 0 → len = 4 → addr % 4 = 0 → (watchPlace addr).isSome = true →
      answers (.watchRead mosi) 0 (leBytes 4 (s.watchWord addr)) fun t =>
        { t with wregs := s.wregs, wpSeq := s.wpSeq, miso := s.miso, wcapts := s.wcapts } = s) ∧
    (∀ p b off, good → op = 2 → leAt mosi 1 1 = 0 → len = 4 → addr % 4 = 0 → watchPlace addr = some (.bank p b off) →
      (s.readOnly addr = true → answers (.watchWrite mosi) 4 [] quiet) ∧
      (s.readOnly addr = false → answers (.watchWrite mosi) 0 [] fun t =>
        (b = 0 → (t.port p).prot = { (s.port p).prot with bank0 := writeBytes .zeros (s.port p).prot.bank0 off (leBytes 4 (leAt mosi 8 4)) }) ∧
        (b ≠ 0 → (t.port p).prot = { (s.port p).prot with bank1 := writeBytes .zeros (s.port p).prot.bank1 off (leBytes 4 (leAt mosi 8 4)) }) ∧
        (∀ q, q ≠ p → t.port q = s.port q) ∧
        { t with wregs := s.wregs, wpSeq := s.wpSeq, miso := s.miso, ports := s.ports } = s)) ∧
    (good → 2 < op → answers (.watchBadOpcodeFrame mosi) 2 [] quiet) ∧
    (mosi.length < n + 4 → ∃ t, exec (.watchNop mosi) s = .next t ∧ t.wpSeq = s.wpSeq ∧ t.miso = []) ∧
    (n + 4 ≤ mosi.length → crc32c s.wpSeq (mosi.take n) ≠ leAt mosi n 4 → ∃ t, exec (.watchRead mosi) s = .next t ∧
      t.wpSeq = s.wpSeq ∧ t.miso = watchResponse 1 s.wpSeq s.wpSeq [])

/-! The panel link -/

/-- Training of a port's link (R362, R364, R365): CAPS is kept, and starts the 5 ms to the fixing of the formation; a lane's locks are
kept as its TRAIN messages report them; at the time-out the lanes locked make the formation, the others are retired, and position 0
starts; training begins again every 10 ms; no lock within 100 ms is LINK 0x05; STATUS with every lane of the formation good brings the
link up. -/
def Obligations.LinksTrain : Prop :=
  ∀ (p : Fin 4) (s : State), Canon s → s.power.boot ≠ .inReset →
    let l := (s.port p).link
    let becomes (c : Instr) (l' : Link) : Prop := ∃ t, exec c s = .next t ∧ t.port p = { s.port p with link := l' } ∧
      (∀ q, q ≠ p.val → t.port q = s.port q) ∧ { t with ports := s.ports } = s
    let forming : Prop := l.phase = .training ∧ l.map = []
    (∀ msg : List Byte, bcOk msg = true → leAt msg 0 1 = 1 →
      let b := bytesAt msg 2 12
      let heard : Link := { l with bcHeard := some s.now, caps := b, glass := true, bcLockBy := none }
      (¬ forming ∨ l.trainEnd ≠ none → becomes (.caps p msg) heard) ∧
      (forming → l.trainEnd = none → l.rate < 3 → leAt b 0 1 / 2 ^ l.rate % 2 = 1 → becomes (.caps p msg)
        { heard with trainEnd := some (s.now + msTicks 5), retryAt := some (s.now + msTicks 10) })) ∧
    (∀ (msg : List Byte) (lane x : Nat), bcOk msg = true → leAt msg 0 1 = 5 → lane = leAt (bytesAt msg 2 12) 0 1 → lane < 12 →
      forming → l.trainEnd ≠ none → tabSorted l.locks → x < 12 → x ≠ lane → tabGet 0 l.locks x < 8 →
      let done : Bool := decide (leAt (bytesAt msg 2 12) 1 1 = 5) || decide (8 ≤ tabGet 0 l.locks lane)
      ∃ t, exec (.train p msg) s = .next t ∧
        tabGet 0 (t.port p).link.locks lane = leAt (bytesAt msg 2 12) 2 1 % 8 + 8 * bit done ∧
        (∀ y, y ≠ lane → tabGet 0 (t.port p).link.locks y = tabGet 0 l.locks y) ∧ (t.port p).link.map = [] ∧
        (∀ q, q ≠ p.val → t.port q = s.port q) ∧ { t with ports := s.ports, regs := s.regs } = s) ∧
    (forming → due l.trainEnd s.now = true → (s.port p).phase = .stopped →
      let f := trainedFormation l.lockedLanes l.reformKeel
      ∃ t, exec (.trainingTimeout p) s = .next t ∧ (t.port p).link.nd = f.1 ∧ (t.port p).link.keel = f.2.1 ∧ (t.port p).link.map = f.2.2 ∧
        lanesOf (t.port p).link.retired = (List.range 12).filter (fun x => !(l.lockedLanes.contains x)) ∧
        (t.port p).link.lost = 0 ∧ (t.port p).link.pos = 1 ∧ (t.port p).link.posAt = s.now ∧ (t.port p).link.trainEnd = none ∧
        (l.lockedLanes.length = 12 → t.flt = s.flt) ∧
        (l.lockedLanes.length < 12 → ∃ x, t.flt.raised = s.flt.raised ++ [x] ∧ x.what.source = 7 ∧
          x.what.code = if l.lockedLanes.length = 11 then 2 else 3) ∧
        (∀ q, q ≠ p.val → t.port q = s.port q) ∧ { t with ports := s.ports, flt := s.flt } = s) ∧
    (l.phase = .training → due l.retryAt s.now = true → ∃ t, exec (.trainingRetry p) s = .next t ∧ (t.port p).link.locks = [] ∧
      (t.port p).link.map = [] ∧ (t.port p).link.trainEnd = none ∧ (t.port p).link.retryAt = some (s.now + msTicks 10) ∧
      (t.port p).link.tx.length = l.tx.length + 12 ∧ (∀ q, q ≠ p.val → t.port q = s.port q) ∧
      (∀ lane, lane < 12 → s.field (linkBase p + 0x40 + 4 * lane) 24 24 = 0 →
        t.field (linkBase p + 0x40 + 4 * lane) 4 0 = 4 ∧ t.field (linkBase p + 0x40 + 4 * lane) 12 8 = 8) ∧
      { t with ports := s.ports, regs := s.regs } = s) ∧
    (l.phase = .training → due l.bcLockBy s.now = true → ∃ u : State, exec (.backChannelLockTimeout p) s =
        .next (u.raise (err 0 0x07 0x05 (instP p 0) 0 0 0)) ∧
      u.port p = { s.port p with link := { l with bcLockBy := none } } ∧ (∀ q, q ≠ p.val → u.port q = s.port q) ∧
      { u with ports := s.ports } = s) ∧
    (∀ msg : List Byte, bcOk msg = true → leAt msg 0 1 = 2 → (s.port p).phase = .stopped →
      let b := bytesAt msg 2 12
      (l.phase ≠ .training → ∃ t, exec (.status p msg) s = .next t ∧
        t.port p = { s.port p with link := { l with bcHeard := some s.now, status := b, erasures := l.erasures + leAt b 10 2 } } ∧
        t.field (linkBase p + 0x28) 15 0 = satNat (s.field (linkBase p + 0x28) 15 0 + leAt b 9 1) 0xFFFF ∧
        (∀ q, q ≠ p.val → t.port q = s.port q) ∧ { t with ports := s.ports, regs := s.regs } = s) ∧
      (l.phase = .training → l.map ≠ [] → (∀ x ∈ lanesOf l.service, leAt b 0 2 / 2 ^ x % 2 = 1) → s.cway.role.standby = false →
        s.cway.posts.contains p.val = false → l.lost = 0 → ∃ t, exec (.status p msg) s = .next t ∧
        (t.port p).link.phase = .up ∧ (t.port p).link.power = .l0 ∧ (t.port p).link.trained = true ∧ (t.port p).link.status = b))

/-- Lanes that are lost (R363, R367, R368) are reported, leave data service and are retrained, an attempt of 2 ms followed by a pause of
1 ms, up to three; after the third the lane is retired. A back channel silent for 1 ms is LINK 0x04. At the next gross marker lanes
retrained rejoin (R348, R367); lanes woken from L1 or L2 carry data again (R373). -/
def Obligations.LanesLostAndRegained : Prop :=
  ∀ (p : Fin 4) (s : State), Canon s → s.power.boot ≠ .inReset →
    let l := (s.port p).link
    let others (t : State) : Prop := ∀ q, q ≠ p.val → t.port q = s.port q
    (∀ (msg : List Byte) (lane : Nat), bcOk msg = true → leAt msg 0 1 = 3 → lane = leAt (bytesAt msg 2 12) 0 1 →
      (lanesOf l.service).contains lane = true → l.phase = .up → l.map.Nodup → l.missing = [] → l.keel = true → l.reform = none →
      l.reformWait = none → s.flt.restarting = false → ∃ t, exec (.laneLoss p msg) s = .next t ∧
        lanesOf (t.port p).link.service = (lanesOf l.service).filter (fun x => x ≠ lane) ∧
        (lanesOf (t.port p).link.lost).contains lane = true ∧ (t.port p).link.phase = .retraining ∧
        (t.port p).link.retrains = (l.retrains.filter fun x => x.lane ≠ lane) ++
          [{ lane := lane, attempt := 1, attemptEnd := some (s.now + msTicks 2), pauseEnd := none, locked := false }] ∧
        t.field (linkBase p + 0x24) 15 0 = satNat (s.field (linkBase p + 0x24) 15 0 + 1) 0xFFFF ∧
        (∃ x, t.flt.raised = s.flt.raised ++ [x] ∧ x.what.source = 7 ∧ x.what.code = 1) ∧ others t ∧
        { t with ports := s.ports, flt := s.flt, regs := s.regs } = s) ∧
    (∀ (lane : Fin 12) (r : Retrain),
      l.retrains.find? (fun r => decide (r.lane = lane.val) && due r.attemptEnd s.now && !s.flt.restarting) = some r →
      (r.attempt < 3 → ∃ t, exec (.retrainAttemptTimeout p lane) s = .next t ∧
        t.port p = { s.port p with link := { l with retrains := l.retrains.map fun x =>
          if x.lane = lane.val then { x with attemptEnd := none, pauseEnd := some (s.now + msTicks 1) } else x } } ∧
        others t ∧ { t with ports := s.ports } = s) ∧
      (3 ≤ r.attempt → l.missing = [lane.val] → l.keel = true → l.map.getLast? ≠ some lane.val → ∃ u : State,
        exec (.retrainAttemptTimeout p lane) s = .next (u.raise (err 2 0x07 0x02 (p * 16 + lane) 0 0 0)) ∧
        (lanesOf (u.port p).link.retired).contains lane.val = true ∧ (lanesOf (u.port p).link.lost).contains lane.val = false ∧
        (u.port p).link.retrains = (l.retrains.filter fun x => x.lane ≠ lane.val) ∧ others u ∧ { u with ports := s.ports } = s)) ∧
    (∀ (lane : Fin 12) (r : Retrain),
      l.retrains.find? (fun r => decide (r.lane = lane.val) && due r.pauseEnd s.now && !s.flt.restarting) = some r →
      ∃ t, exec (.retrainPauseEnd p lane) s = .next t ∧
        (t.port p).link.retrains = (l.retrains.filter fun x => x.lane ≠ lane.val) ++
          [{ lane := lane, attempt := r.attempt + 1, attemptEnd := some (s.now + msTicks 2), pauseEnd := none, locked := false }] ∧
        others t ∧ { t with ports := s.ports } = s) ∧
    (l.glass = true → due (l.bcHeard.map (· + msTicks 1)) s.now = true → ∃ u : State, exec (.backChannelSilent p) s =
        .next ((u.setBit (linkBase p + 0x20) 4).raise (err 2 0x07 0x04 (instP p 0) 0 0 0)) ∧
      u.port p = { s.port p with link := { l with glass := false } } ∧ others u ∧ { u with ports := s.ports } = s) ∧
    (l.markerDue ≤ 20 * s.now →
      (l.power = .l1 → ∃ t, exec (.grossMarker p) s = .next t ∧ t.port p = { s.port p with link := { l with pos := l.pos + 1 } } ∧
        others t ∧ { t with ports := s.ports } = s) ∧
      (l.power = .l0 → l.phase = .training → l.map ≠ [] → l.retrains = [] → (s.port (s.lead p)).slots = false → l.holdEnd = none →
        ∃ t k, exec (.grossMarker p) s = .next t ∧ (t.port p).link.pos = l.pos + 1 ∧
          (t.port p).link.tx = l.tx ++ [.marker (t.port p).link.service (l.pos % 64), .packet k] ∧ k.words = packetWords (s.head p 0 0 0) [] ∧
          lanesOf (t.port p).link.service = lanesOf l.service ∧ others t ∧ { t with ports := s.ports, regs := s.regs } = s) ∧
      (l.power = .l0 → l.phase = .retraining → (s.port (s.lead p)).slots = true → ∃ t, exec (.grossMarker p) s = .next t ∧
        (t.port p).link.pos = l.pos + 1 ∧ (t.port p).link.tx.length = l.tx.length + 1 ∧
        (∀ r ∈ l.retrains, r.locked = true → r.lane < 12 → (lanesOf (t.port p).link.service).contains r.lane = true) ∧
        (t.port p).link.retrains = (l.retrains.filter fun r => !r.locked) ∧ others t ∧
        { t with ports := s.ports, regs := s.regs } = s)) ∧
    (l.wakeTo ≠ none → l.phase ≠ .loopback →
      (l.power = .l2 → ∃ t, exec (.laneWakeDone p) s = .next t ∧
        (t.port p).link.phase = .training ∧ (t.port p).link.power = .l0 ∧ (t.port p).link.wakeTo = none ∧ (t.port p).link.wakeEnd = none ∧
        (t.port p).link.pos = 1 ∧ (t.port p).link.posAt = s.now ∧ others t ∧ { t with ports := s.ports } = s) ∧
      (l.power ≠ .l2 → due l.wakeEnd s.now = true → s.cway.role.standby = false → s.cway.posts.contains p.val = false →
        l.lost = 0 → (s.port p).phase = .stopped → ∃ t, exec (.laneWakeDone p) s = .next t ∧
          (t.port p).link.phase = .up ∧ (t.port p).link.power = .l0 ∧ (t.port p).link.wakeTo = none ∧ (t.port p).link.wakeEnd = none ∧
          (t.port p).link.pos = l.pos ∧ others t))

/-- MODE_ACK answers the MODE packet it names (R330, R370). A loopback runs on a stopped port only, and its end publishes which lanes
passed (R375, R376); TALLY brings a lane's signature. -/
def Obligations.ModeAnswersAndLoopbacks : Prop :=
  ∀ (p : Fin 4) (s : State), Canon s → s.power.boot ≠ .inReset →
    let l := (s.port p).link
    let res := linkBase p + 0x84
    let others (t : State) : Prop := ∀ q, q ≠ p.val → t.port q = s.port q
    (∀ (msg : List Byte) (w : ModeWait), bcOk msg = true → leAt msg 0 1 = 4 → w.modeId = leAt (bytesAt msg 2 12) 0 2 →
      (l.reformWait = some w → ∃ t, exec (.modeAck p msg) s = .next t ∧ (t.port p).link.reformWait = none ∧
        (l.phase = .reforming → l.reform = none → l.retrains = [] → (t.port p).link.phase = .up) ∧ others t ∧ { t with ports := s.ports } = s) ∧
      (l.reformWait = none → (s.port p).modeWait = some w → w.use = ModeUse.change → leAt (bytesAt msg 2 12) 2 1 = 0 → ∃ u : State,
        exec (.modeAck p msg) s = .next (u.changeDone p) ∧
        u.port p = { s.port p with modeWait := none, link := { l with bcHeard := some s.now } } ∧ others u ∧ { u with ports := s.ports } = s)) ∧
    ((s.port p).phase ≠ .stopped → exec (.linkLoopStart p) s = .next (s.setBit res 30)) ∧
    ((s.port p).phase = .stopped → s.field (linkBase p + 0x80) 2 0 = 1 ∨ s.field (linkBase p + 0x80) 2 0 = 2 →
      ∃ t, exec (.linkLoopStart p) s = .next t ∧ t.reg res = 0 ∧ t.port p = { s.port p with link := { l with
          phase := .loopback, loopFrom := if l.phase = .loopback then l.loopFrom else l.phase
          loop := some (s.field (linkBase p + 0x80) 2 0, s.field (linkBase p + 0x80) 27 16), tallies := [] } } ∧
        others t ∧ (∀ o, o ≠ res → t.reg o = s.reg o) ∧ { t with ports := s.ports, regs := s.regs } = s) ∧
    (∀ (errors : List Nat) (mode lanes : Nat), l.loop = some (mode, lanes) → mode ≠ 3 → s.cway.posts.contains p.val = false →
      (∀ q, q < 4 → (s.port q).modeQueue = []) → l.wakeTo = none → l.loopFrom = .down ∨ (l.loopFrom = .up ∧ l.lost = 0) →
      ∃ t, exec (.loopbackEnd p errors) s = .next t ∧
        t.port p = { s.port p with link := { l with loop := none, phase := l.loopFrom } } ∧ others t ∧
        (t.reg res).testBit 31 = true ∧
        (∀ x, x < 12 → (t.reg res).testBit x = (lanes.testBit x && decide (errors.getD x 0 = 0)) ∧
          (t.reg res).testBit (16 + x) = (lanes.testBit x && decide (errors.getD x 0 ≠ 0)) ∧
          t.reg (linkBase p + 0xC0 + 4 * x) = if lanes.testBit x then errors.getD x 0 % 2 ^ 32 else s.reg (linkBase p + 0xC0 + 4 * x)) ∧
        { t with ports := s.ports, regs := s.regs } = s) ∧
    (∀ (msg : List Byte) (lanes : Nat), bcOk msg = true → leAt msg 0 1 = 6 → l.loop = some (3, lanes) →
      let lane := leAt (bytesAt msg 2 12) 0 1
      let sig := leAt (bytesAt msg 2 12) 1 4
      lane < 12 → lanes.testBit lane = true → ∃ t, exec (.tally p msg) s = .next t ∧
        t.reg (linkBase p + 0xC0 + 4 * lane) = sig ∧ tabFind (t.port p).link.tallies lane = some sig ∧ others t ∧
        (∀ o, o ≠ linkBase p + 0xC0 + 4 * lane → t.reg o = s.reg o) ∧ { t with ports := s.ports, regs := s.regs } = s)

/-- Leases (R359, R525, R526, R535): held ones are renewed every 200 µs and a claim repeated every 50 µs, their packets waiting for room
between those of the line slots; the claim accepted, its epoch is
held; one accepted over it is claimed anew; a claim refused for 2 ms is given up, with PAIR 0x04 where another lease is held, and on a
unit of a pair that holds none it leads to STANDBY-STALE. -/
def Obligations.LeasesHeld : Prop :=
  ∀ (p : Fin 4) (s : State), Canon s →
    let l := (s.port p).link
    let epoch := s.reg (0x7040 + 4 * p)
    (∃ t, exec .leaseRenew s = .next t ∧ { t with ports := s.ports } = s ∧ ∀ q, q < 4 →
      if (s.port q).link.holds = true ∧ due (s.port q).link.nextLease s.now = true ∧ s.sends q = true then
        (t.port q).link.nextLease = some (s.now + usTicks 200) ∧
        (t.port q).link.tx.length + (t.port q).link.later.length = (s.port q).link.tx.length + (s.port q).link.later.length + 1
      else t.port q = s.port q) ∧
    (∀ e, l.claim = some e → due l.nextLease s.now = true → s.sends p = true → ∃ t, exec (.leaseClaim p) s = .next t ∧
      (t.port p).link.claim = some e ∧ (t.port p).link.nextLease = some (s.now + usTicks 50) ∧
      (t.port p).link.tx.length + (t.port p).link.later.length = l.tx.length + l.later.length + 1 ∧
      (∀ q, q ≠ p.val → t.port q = s.port q) ∧ { t with ports := s.ports } = s) ∧
    (∀ (msg : List Byte), s.power.boot ≠ .inReset → bcOk msg = true → leAt msg 0 1 = 7 →
      let b := bytesAt msg 2 12
      (∀ e, l.claim = some e → leAt b 0 1 = 1 → leAt b 1 3 = e → s.ours (leAt b 4 1) = true → ∃ t, exec (.leaseEvent p msg) s = .next t ∧
        t.reg (0x7040 + 4 * p) = e ∧ t.port p = { s.port p with link := { l with
          bcHeard := some s.now, holds := true, claim := none, refusedSince := none, nextLease := some (s.now + usTicks 200) } } ∧
        (∀ q, q ≠ p.val → t.port q = s.port q) ∧ { t with ports := s.ports, regs := s.regs } = s) ∧
      (l.claim = none → leAt b 0 1 = 4 → l.holds = true → leAt b 1 3 = epoch → s.cway.role.drives = true → s.formed = true →
        max epoch l.seenEpoch + 1 < 2 ^ 24 - 1 → ∃ t, exec (.leaseEvent p msg) s = .next t ∧ (t.port p).link.holds = false ∧
        (t.port p).link.claim = some (max epoch l.seenEpoch + 1) ∧ (t.port p).link.nextLease = some (s.now + usTicks 50) ∧
        (∀ q, q ≠ p.val → t.port q = s.port q) ∧ { t with ports := s.ports } = s)) ∧
    (l.claim ≠ none → due (l.refusedSince.map (· + msTicks 2)) s.now = true →
      ((∃ q, q < 4 ∧ (s.port q).link.holds = true) → ∃ u : State, exec (.claimRefusedTimeout p) s =
          .next (u.raise (err 2 0x0E 0x04 (2 ^ p.val) 0 0 0)) ∧ (u.port p).link.claim = none ∧ u.field 0x7004 6 6 = 1 ∧
        (∀ q, q ≠ p.val → u.port q = s.port q)) ∧
      ((∀ q, q < 4 → (s.port q).link.holds = false) → s.paired = true → ∃ t, exec (.claimRefusedTimeout p) s = .next t ∧
        t.cway.role = .stale ∧ (t.port p).link.claim = none ∧ ∀ r, (t.ring r).state = .disabled))

/-! DRAM -/

/-- Requests to a DRAM channel (R31, R435, R436, R447, R452, R488): a unit in its ebb slot issues none; any other request takes an entry of the channel's 64, 16 of them RAY's own, or is held;
a channel in self-refresh starts its exit. The one request of a channel, to an open row, is served: a write lands in its 64 bytes, a
read returns them, and one that link ECC cannot correct is repeated. -/
def Obligations.DramRequests : Prop :=
  ∀ (c : Fin 16) (s : State), Canon s → s.power.boot ≠ .inReset →
    let ch := s.chan c
    let rest (t : State) : Prop := (∀ k, k ≠ c.val → t.chan k = s.chan k) ∧ { t with chans := s.chans } = s
    (∀ (port : Fin 8) (bank : Fin 16) (row : Nat) (col : Fin 32) (write : Option (List Byte)), row < s.dramRows →
      let r : DramReq := { port := port, bank := bank, row := row, col := col, write := write.map fun d => bytesAt d 0 64, at_ := 0
                           target := 0, reserved := false, repeats := 0, passed := 0, ebbEnd := none }
      let own := (ch.queue.filter fun r => r.reserved).length
      let accepted (b : Bool) : DramReq := { r with reserved := b, at_ := s.now, target := s.dramTarget port }
      ((portUnit port).any s.inEbb = true → exec (.dramRequestArrive c port bank row col write) s = .next s) ∧
      ((portUnit port).any s.inEbb = false → ch.phase = .active →
        ∃ t, exec (.dramRequestArrive c port bank row col write) s = .next t ∧ rest t ∧
        (port = 0 → own < 16 → t.chan c = { ch with idleAt := none, queue := ch.queue ++ [accepted true] }) ∧
        (port ≠ 0 ∨ 16 ≤ own → ch.queue.length - own < 48 →
          t.chan c = { ch with idleAt := none, queue := ch.queue ++ [accepted false] }) ∧
        (port ≠ 0 ∨ 16 ≤ own → 48 ≤ ch.queue.length - own → t.chan c = { ch with idleAt := none, held := ch.held ++ [r] })) ∧
      (∀ since, (portUnit port).any s.inEbb = false → ch.phase = .selfRefresh → ch.exitFrom = none → ch.srSince = some since →
        s.halted = false → ∃ t, exec (.dramRequestArrive c port bank row col write) s = .next t ∧ rest t ∧
          (t.chan c).exitFrom = some (max s.now (since + nsTicks 60)))) ∧
    (∀ r : DramReq, ch.phase = .active → ch.queue = [r] → ch.held = [] → r.hits ch = true → r.ebbEnd = none → r.port ≠ 0 →
      tabSorted ch.mem →
      (∀ (d : List Byte) (res : DramResult), r.write = some d → ∃ t, exec (.dramRequestDone c res) s = .next t ∧ rest t ∧
        (t.chan c).queue = [] ∧ (t.chan c).idleAt = some (s.now + s.srIdle) ∧
        (∀ a, (t.chan c).byte c a = if r.addr ≤ a ∧ a < r.addr + d.length then d.getD (a - r.addr) 0 else ch.byte c a)) ∧
      (r.write = none → ∃ t, exec (.dramRequestDone c .clean) s = .next t ∧ rest t ∧ t.chan c =
        { ch with queue := [], lastRead := ch.burst c r.addr, lastPoison := false, idleAt := some (s.now + s.srIdle)
                  poisoned := ch.poisoned.filter fun x => decide (x.1 ≠ r.addr) }) ∧
      (r.write = none → r.repeats < 2 → ∃ t, exec (.dramRequestDone c .uncorrectable) s = .next t ∧ rest t ∧
        t.chan c = { ch with queue := [{ r with repeats := r.repeats + 1 }] }))

/-- Refresh and the activation tracker (R442 to R445): MR4 is read every 4 ms, doubles the refresh and reports the temperature; a
refresh precharges its bank; at the end of a bank's window its counts restart; a hold ends. Self-refresh, retraining and retirement of a
DRAM channel (R446 to R454): an idle channel enters self-refresh and leaves it when its exit has run; a slice adjusts the setting in
place, a low margin leads to recovery, and a recovery without a working setting retires the channel; the counters of the block are
cleared at once. -/
def Obligations.DramRefreshAndPhases : Prop :=
  (∀ (c bank : Fin 16) (s : State), Canon s →
      let ch := s.chan c
      (∀ mr4 : Byte, ch.phase = .active → due ch.mr4At s.now = true → ∃ u : State,
        exec (.mr4Poll c mr4) s = .next (if mr4.toNat % 32 = 31 then u.raise (err 2 0x0A 0x03 c mr4.toNat 0 0) else u) ∧
        u.chan c = { ch with mr4At := some (s.now + msTicks 4), refreshDouble := decide (11 ≤ mr4.toNat % 32) } ∧
        (∀ k, k ≠ c.val → u.chan k = s.chan k) ∧ { u with chans := s.chans } = s) ∧
      (ch.phase = .active ∨ ch.phase = .retiring → ∃ t, exec (.perBankRefresh c bank) s = .next t ∧
        tabFind (t.chan c).refresh bank = some s.now ∧ (tabSorted ch.openRows → tabFind (t.chan c).openRows bank = none) ∧
        (∀ k, k ≠ c.val → t.chan k = s.chan k) ∧ { t with chans := s.chans } = s) ∧
      (due (tabFind ch.windows bank) s.now = true → ∃ t, exec (.refreshWindowEnd c bank) s = .next t ∧
        tabFind (t.chan c).windows bank = some (s.now + if ch.refreshDouble then msTicks 16 else msTicks 32) ∧
        (∀ row port, row < 2 ^ 18 → port < 8 → tabGet 0 (t.chan c).acts ((bank * 2 ^ 18 + row) * 8 + port) = 0) ∧
        (∀ k, k / 2 ^ 21 ≠ bank.val → tabGet 0 (t.chan c).acts k = tabGet 0 ch.acts k) ∧
        (∀ k, k ≠ c.val → t.chan k = s.chan k) ∧ { t with chans := s.chans, regs := s.regs } = s) ∧
      (∀ port : Fin 8, tabSorted ch.holds → due (tabFind ch.holds (bank.val * 8 + port.val)) s.now = true →
        ∃ t, exec (.disturbanceHoldEnd c bank port) s = .next t ∧ tabFind (t.chan c).holds (bank.val * 8 + port.val) = none ∧
          (∀ k, k ≠ bank.val * 8 + port.val → tabFind (t.chan c).holds k = tabFind ch.holds k) ∧
          (∀ k, k ≠ c.val → t.chan k = s.chan k) ∧ { t with chans := s.chans } = s)) ∧
  (∀ (c : Fin 16) (s : State), Canon s →
      let ch := s.chan c
      let rest (t : State) : Prop := (∀ k, k ≠ c.val → t.chan k = s.chan k) ∧ { t with chans := s.chans } = s
      (ch.phase = .active → ch.queue = [] → ch.held = [] → due ch.idleAt s.now = true → s.field 0xA00C 31 31 = 1 → s.slicePending c = false →
        ∃ t, exec (.selfRefreshEntry c) s = .next t ∧ rest t ∧ t.chan c = { ch with
          phase := .selfRefresh, openRows := [], srSince := some s.now, srTemp := s.phyTemp c, idleAt := none, exitFrom := none
          exitSlice := false }) ∧
      (ch.phase = .selfRefresh → due ch.exitFrom s.now = true → s.halted = false → ∃ t, exec (.selfRefreshExitDone c) s = .next t ∧ rest t ∧
        (t.chan c).phase = .active ∧ (t.chan c).srSince = none ∧ (t.chan c).exitFrom = none ∧ (t.chan c).queue = ch.queue ∧
        (ch.exitSlice = true → (t.chan c).trainTemp = s.phyTemp c ∧ (t.chan c).trainAt = some (s.now + s.retrainEvery))) ∧
      (∀ (temp : Int), ch.phase = .active → (∀ x, ch.sliceAt = some x → x + usTicks 50 ≤ s.now) →
        (∃ t, exec (.periodicRetrainSlice c temp false) s = .next t ∧ rest t ∧
          t.chan c = { ch with trainTemp := temp, trainAt := some (s.now + s.retrainEvery), sliceAt := some s.now }) ∧
        (∃ t, exec (.periodicRetrainSlice c temp true) s = .next t ∧ rest t ∧ (t.chan c).phase = .recovery ∧
          (t.chan c).recoveries = satNat (ch.recoveries + 1) 0xFFFF)) ∧
      (∀ (temp : Int), ch.phase = .recovery →
        (∃ t, exec (.recoveryRetrainDone c temp true) s = .next t ∧ rest t ∧ (t.chan c).phase = .active ∧
          (t.chan c).recoveredAt = some s.now ∧ (t.chan c).trainTemp = temp) ∧
        (∃ t, exec (.recoveryRetrainDone c temp false) s = .next t ∧ t.harb.retired = s.harb.retired ||| 2 ^ c.val ∧
          t.harb.capacity = s.harb.capacity - s.chanTiles ∧
          (((List.range 16).filter fun k => (s.harb.retired ||| 2 ^ c.val) / 2 ^ k % 2 = 1).length < 5 →
            (t.chan c).phase = .retiring ∧ t.harb.relocating = s.harb.relocating ++ [c.val] ∧ (∀ k, k ≠ c.val → t.chan k = s.chan k)))) ∧
      (s.power.boot ≠ .inReset → ∃ t, exec .dramClearStats s = .next t ∧
        (∀ k, t.chan k = { s.chan k with recoveries := 0, ebbs := 0 }) ∧
        (∀ k, k < 16 → t.reg (0xA104 + 0x10 * k) = 0 ∧ t.reg (0xA108 + 0x10 * k) = 0 ∧ t.field (0xA10C + 0x10 * k) 31 16 = 0) ∧
        { t with chans := s.chans, regs := s.regs } = s))

/-! Temperatures and the Assayer -/

/-- Sensor samples (R480 to R494): a die sensor's reading is kept, and the throttle level follows from the readings (R487); two readings
of 128 °C running trip the device, and so does the analogue comparator, for good (R491); a remote diode's reading is its temperature and
moves the lens temperature of the ports that weigh it (R249); the board sensor's and the Assayer's readings are kept, and three samples
outside a supply's limits raise SENSE 0x06 (R494). -/
def Obligations.SensorSamples : Prop :=
  ∀ s : State, Canon s → s.power.boot ≠ .inReset →
    (∀ (k : Fin 24) (reading : Int), ∃ t, exec (.dieSensorSample k reading) s = .next t ∧
      (t.die k).value = reading ∧ (t.die k).sampled = true ∧ (∀ j, j ≠ k.val → t.die j = s.die j) ∧
      (let v : State := { s with sense := { s.sense with dies := t.sense.dies } }
       t.sense.level = v.nextLevel ∧ t.sense.hottest = v.hottest) ∧
      (128 * 256 ≤ reading → 1 ≤ (s.die k).hot → (t.die k).failed = false → t.sense.tripped = true)) ∧
    (s.sense.tripped = false → ∃ t, exec .analogueTrip s = .next t ∧ t.sense.tripped = true ∧ t.power.thermTrip = true ∧
      t.flt.fatalHold = true) ∧
    (s.sense.tripped = true → exec .analogueTrip s = .next s) ∧
    (∀ (n : Fin 8) (dv : Nat), s.measuring n = true → exec (.remoteDiodeSample n dv) s = .next s) ∧
    (∀ (n : Fin 8) (dv : Nat), s.measuring n = false → ∃ t, exec (.remoteDiodeSample n dv) s = .next t ∧
      (t.diode n).dv = dv ∧ (t.diode n).value = temp88 (diodeTemp dv (s.ideality n)) ∧ (∀ m, m ≠ n.val → t.diode m = s.diode m) ∧
      (∀ p, p < 4 → s.follower p = false → weightOf (s.port p).ray.weights n ≠ 0 → (s.port p).ray.held = none →
        t.goodDiodes (s.port p).ray.weights ≠ [] → (t.port p).ray.theta = t.lensMean (s.port p).ray.weights) ∧
      (∀ p, p < 4 → weightOf (s.port p).ray.weights n = 0 → t.port p = s.port p)) ∧
    (∀ dv : Nat, s.sense.pending = none → ∃ t, exec (.boardSensorSample dv) s = .next t ∧ t.sense.board.dv = dv ∧
      t.sense.board.value = temp88 (boardTemp dv) ∧
      (t.sense.board.failed = false → 2 * 256 ≤ t.sense.board.value → t.sense.board.value ≤ 83 * 256 →
        t.sense.boardRun = min 10 (s.sense.boardRun + 1)) ∧
      (t.sense.board.value < 2 * 256 ∨ 83 * 256 < t.sense.board.value → t.sense.boardRun = 0)) ∧
    (∀ (n : Fin 8) (raw : BitVec 12), s.measuring (8 + n) = true → exec (.ainSample n raw) s = .next s) ∧
    (∀ (n : Fin 8) (raw : BitVec 12), s.measuring (8 + n) = false →
      let a := tabGet Ain.reset s.sense.ains n
      let code := s.corrected (8 + n) raw.toNat
      ∃ t, exec (.ainSample n raw) s = .next t ∧ (tabGet Ain.reset t.sense.ains n).code = code ∧
        (∀ m, m ≠ n.val → tabFind t.sense.ains m = tabFind s.sense.ains m) ∧
        (4 ≤ n.val → s.supplyOut (n - 4) code = true → a.alarm = false → 2 ≤ a.out →
          (tabGet Ain.reset t.sense.ains n).alarm = true ∧
            t.flt = { s.flt with raised := s.flt.raised ++ [{ what := err 2 0x0C 0x06 (8 + n.val) code 0 0, ns := s.tideNs, force := false }] }) ∧
        (n.val < 4 ∨ s.supplyOut (n - 4) code = false → (tabGet Ain.reset t.sense.ains n).alarm = false ∧ t.flt = s.flt))

/-! A redundant pair -/

/-- The heartbeat and the Causeway's timers (R510, R522): PEER_OK_OUT toggles every 500 µs while the Purser runs; an edge of PEER_OK_IN
is heard, a pulse shorter than 1 µs is ignored, and 1 ms without an edge loses the heartbeat; IDLE, ACK and HELLO records go out at their times, in sequence. -/
def Obligations.HeartbeatAndTimers : Prop :=
  ∀ s : State,
    let sends (type : Nat) (body : List Byte) (c : Cway) : Cway := { c with
      tx := c.tx ++ [recordBytes { seq := c.sendSeq, type := type, last := false, ring := 0xFF, dseq := 0 } body]
      sendSeq := (c.sendSeq + 1) % 2 ^ 32, idleAt := some (s.now + usTicks 100) }
    (s.power.purserUp = true → s.cway.role ≠ .failed → due s.cway.okNext s.now = true → exec .peerOkToggle s =
      .next { s with cway := { s.cway with okOut := !s.cway.okOut, okNext := some (s.now + usTicks 500) } }) ∧
    (s.power.boot ≠ .inReset →
      ((∀ x, s.cway.peerRaw = some x → x + usTicks 1 ≤ s.now) → ∃ t, exec .peerOkInEdge s = .next t ∧
        t.cway.heartbeat = true ∧ t.cway.peerEdge = some s.now ∧ t.cway.peerRaw = some s.now ∧ { t with cway := s.cway } = s) ∧
      (∀ x, s.cway.peerRaw = some x → s.now < x + usTicks 1 → ∃ t, exec .peerOkInEdge s = .next t ∧
        t.cway.peerEdge = s.cway.peerPrev ∧ t.cway.heartbeat = s.cway.peerPrev.isSome ∧ t.cway.peerRaw = none ∧
        { t with cway := s.cway } = s)) ∧
    (s.cway.heartbeat = true → due (s.cway.peerEdge.map (· + msTicks 1)) s.now = true →
      let lost : State := { s with cway := { s.cway with heartbeat := false } }
      (s.cway.role = .solo ∨ s.cway.role = .active ∨ s.cway.role = .failed → exec .heartbeatLost s = .next lost) ∧
      (s.cway.role = .stale → exec .heartbeatLost s = .next (lost.raiseCore true (err 2 0x0E 0x06 0 4 1 0))) ∧
      (s.cway.role = .mirrored → ∃ t, exec .heartbeatLost s = .next t ∧ t.cway.role = .active ∧
        (s.cway.replays = [] → s.cway.applyQ = [] → t.reg 0x7014 = s.cway.applied % 2 ^ 32 ∧ t.field 0x7018 15 0 = 1))) ∧
    (2 ≤ s.cway.linkPhase →
      (due s.cway.idleAt s.now = true → exec .causewayIdleTimer s = .next { s with cway := sends 0 [] s.cway }) ∧
      (s.cway.role = .mirrored ∨ s.cway.role = .stale → due s.cway.ackAt s.now = true → exec .ackTimer s =
        .next { s with cway := (sends 0x10 (leBytes 4 (s.cway.recvSeq.getD 0) ++ leBytes 4 s.cway.applied ++ leBytes 1 s.cway.role.code)
          { s.cway with ackAt := some (s.now + usTicks 100) }) }) ∧
      (due s.cway.helloAt s.now = true → exec .helloTimer s =
        .next { s with cway := sends 0x11 s.helloBody { s.cway with helloAt := some (s.now + msTicks 10) } }))

/-- The Causeway goes down after 1 ms without a valid record, or with the last lane of a direction, and an active unit then goes on
without its log (R509, R519, R535); with one lane left of two it runs on. No HELLO within 500 ms makes the unit SOLO (R512); the power-
on transmit test runs on the ports whose glass answers (R513). -/
def Obligations.CausewayLinkAndForming : Prop :=
  ∀ s : State, Canon s →
    (2 ≤ s.cway.linkPhase → due (s.cway.heard.map (· + msTicks 1)) s.now = true → ∃ t, exec .causewayDown s = .next t ∧
      (s.cway.role = .active → t.cway.linkPhase = 0 ∧ t.cway.log = [] ∧ t.cway.logging = false ∧ t.field 0x7004 4 4 = 1 ∧
        t.cway.role = .active ∧ { t with cway := s.cway, regs := s.regs } = s) ∧
      (s.cway.role = .mirrored ∨ s.cway.role = .catchup → t.cway.role = .stale) ∧
      (s.cway.role = .solo ∨ s.cway.role = .stale ∨ s.cway.role = .failed →
        t.cway.linkPhase = 0 ∧ t.cway.role = s.cway.role ∧ { t with cway := s.cway } = s)) ∧
    (∀ lane : Fin 2, 2 ≤ s.cway.linkPhase → s.cway.txLanes = 3 → s.cway.rxLanes = 3 →
      exec (.causewayLaneLost true lane) s = .next { s with cway := { s.cway with rxLanes := 3 - 2 ^ lane.val, linkPhase := 2 } } ∧
      exec (.causewayLaneLost false lane) s = .next { s with cway := { s.cway with txLanes := 3 - 2 ^ lane.val, linkPhase := 2 } }) ∧
    (∀ lane : Fin 2, 2 ≤ s.cway.linkPhase → s.cway.rxLanes = 2 ^ lane.val → s.cway.role = .solo → ∃ t,
      exec (.causewayLaneLost true lane) s = .next t ∧ t.cway.linkPhase = 0 ∧ { t with cway := s.cway } = s) ∧
    (due s.cway.helloBy s.now = true → ∃ u : State, exec .pairHelloTimeout s = .next u.bootStart.kickAll ∧ u.cway.role = .solo ∧
      u.cway.helloBy = none ∧ u.ports = s.ports ∧ u.ledger = s.ledger) ∧
    (due s.cway.testAt s.now = true → s.cway.testing = false → (∃ p, p < 4 ∧ (s.port p).link.glass = true) →
      ∃ t, exec .powerOnTransmitTest s = .next t ∧
        t.cway = { s.cway with testing := true, testAt := none, posts := (List.range 4).filter fun p => (s.port p).link.glass } ∧
        (∀ p, p < 4 → (s.port p).link.glass = false → t.field 0x7024 (4 * p + 3) (4 * p) = 3 ∧ t.port p = s.port p) ∧
        { t with cway := s.cway, ports := s.ports, regs := s.regs } = s)

/-- Records of the Causeway that are taken outside the log (R509, R512, R520 to R523, R528): IDLE is heard; ACK frees the active's log;
HELLO tells of the peer; FAULT and RESIGN are triggers; TRAIN brings the Causeway up. A broken record makes a unit that mirrors discard,
a gap in the sequence breaks the mirror (R519, R523). -/
def Obligations.RecordsHeard : Prop :=
  ∀ (bs : List Byte) (s : State), Canon s → s.power.boot ≠ .inReset → 2 ≤ s.cway.linkPhase → s.cway.discarding = false →
    let heard : State := { s with cway := { s.cway with heard := some s.now, recvSeq := some (recSeq bs) } }
    let applied (u : State) : State := { u with cway := { u.cway with applied := recSeq bs } }
    let b := recordBody bs
    (recordOk bs = false → s.mirrors = true → recType bs = 0 →
      exec (.idleRecord bs) s = .next { s with cway := { s.cway with discarding := true } }) ∧
    (recordOk bs = true → s.seqGap bs = true → recType bs = 0 → ∃ t, exec (.idleRecord bs) s = .next t ∧ t.cway.role = .stale) ∧
    (recordOk bs = true → s.seqGap bs = false →
      (recType bs = 0 → exec (.idleRecord bs) s = .next (applied heard)) ∧
      (recType bs = 0x10 → s.cway.role ≠ .active → exec (.ackRecord bs) s = .next (applied heard)) ∧
      (recType bs = 0x10 → s.cway.role = .active → s.cway.resigning = false → s.cway.breakDue = false → s.cway.logging = true →
        ∃ t, exec (.ackRecord bs) s = .next t ∧ t.cway.acked = leAt b 4 4 ∧ t.cway.ackRole = leAt b 8 1 ∧ t.reg 0x7010 = leAt b 4 4 ∧
          (t.cway.log = s.cway.log.filter fun x => decide (0 < (x.1 + 2 ^ 32 - leAt b 0 4) % 2 ^ 32) &&
            decide ((x.1 + 2 ^ 32 - leAt b 0 4) % 2 ^ 32 < 2 ^ 31)) ∧ { t with cway := s.cway, regs := s.regs } = s) ∧
      (recType bs = 0x11 → s.cway.helloBy = none → s.cway.testAt = none → s.cway.role ≠ .active → s.cway.role ≠ .solo →
        exec (.helloRecord bs) s = .next (applied { heard with cway := { heard.cway with
          helloDone := true, peerPref := decide (leAt b 2 1 ≠ 0), peerRole := leAt b 3 1 % 8, peerTest := leAt b 5 1 } })) ∧
      (recType bs = 0x0A →
        let told := heard.raise (err 0 0x0E 0x05 (leAt b 0 1 % 4) (leAt b 1 4) (leAt b 5 4) 0)
        (s.cway.role = .solo ∨ s.cway.role = .active ∨ leAt b 0 1 % 4 < 2 → exec (.faultRecord bs) s = .next (applied told)) ∧
        (s.cway.role = .mirrored → leAt b 0 1 % 4 = 3 → ∃ t, exec (.faultRecord bs) s = .next t ∧ t.cway.role = .active ∧
          (s.cway.replays = [] → s.cway.applyQ = [] → t.reg 0x7014 = s.cway.applied % 2 ^ 32 ∧ t.field 0x7018 15 0 = 2))) ∧
      (recType bs = 0x0B →
        (s.cway.role = .mirrored → ∃ t, exec (.resignRecord bs) s = .next t ∧ t.cway.role = .active) ∧
        (s.cway.role = .stale → exec (.resignRecord bs) s = .next (applied (heard.raiseCore true (err 2 0x0E 0x06 0 4 3 0)))))) ∧
    (∀ u : State, u.power.boot = .configured → u.paired = true → u.cway.linkPhase = 0 → u.cway.txLanes = 0 → u.cway.rxLanes = 0 →
      recordOk bs = true → recType bs = 0x12 → leAt b 0 1 < 2 → leAt b 2 1 % 8 = 7 → ∃ t, exec (.trainRecord bs) u = .next t ∧
        t.cway.linkPhase = 2 ∧ t.cway.txLanes = 2 ^ leAt b 0 1 ∧ t.cway.rxLanes = 3 ∧ t.cway.heard = some u.now ∧ t.cway.recvSeq = none ∧
        t.cway.tx.length = u.cway.tx.length + 1 ∧ { t with cway := u.cway } = u)

/-- Records of the log, on the unit that mirrors (R515, R516, R518, R519, R523): a descriptor becomes a replay, which the standby
accepts as the active did; DATA fills it; DONE advances the applied point; APPLY waits for its frame; REG writes registers whatever the
lock says; BREAK ends the mirror. The snapshot, on a unit that catches up (R524, log 12, log 41): SNAPOBJ allocates an object as the
active has it, SNAP fills its bytes, and SNAPSTATE takes the descriptors in flight over, as the model's own; the record's bytes outside
objects are the model's. -/
def Obligations.LogAndSnapshotApplied : Prop :=
  (∀ (bs : List Byte) (s : State), Canon s → s.power.boot ≠ .inReset → 2 ≤ s.cway.linkPhase → s.cway.discarding = false →
      s.mirrors = true → recordOk bs = true → s.seqGap bs = false →
      let heard : State := { s with cway := { s.cway with heard := some s.now, recvSeq := some (recSeq bs) } }
      let applied (u : State) : State := { u with cway := { u.cway with applied := recSeq bs } }
      let b := recordBody bs
      (recType bs = 0x01 →
        let ws := (List.range 16).map fun i => leAt b (4 * i) 4
        let d : Desc := { ring := recRing bs, count := leAt b 64 4, words := ws }
        (d.sequenceOnly = true → ∃ t r, exec (.descRecord bs) s = .next t ∧ t.cway.replays = s.cway.replays ++ [r] ∧ r.ring = recRing bs ∧
          r.dseq = recDseq bs ∧ r.words = ws ∧ r.result = some stOk ∧ r.done = none ∧ { t with cway := s.cway } = s) ∧
        (d.opcode = opObjWrite ∨ d.opcode = opPlateLoad → ∃ t, exec (.descRecord bs) s = .next t ∧
          t.ledger = s.ledger ++ [{ s.newEntry d .plain (s.versionGiven (d.w 2)) with mirrored := true }] ∧ t.nextId = s.nextId + 1 ∧
          (t.cway.replays.map fun x => (x.ring, x.dseq, x.words)) =
            (s.cway.replays.map fun x => (x.ring, x.dseq, x.words)) ++ [(recRing bs, recDseq bs, ws)] ∧
          { t with cway := s.cway, ledger := s.ledger, nextId := s.nextId, ledgerPeak := s.ledgerPeak, objs := s.objs } = s)) ∧
      (recType bs = 0x02 → recLast bs = false → exec (.dataRecord bs) s = .next (applied { heard with cway := { heard.cway with
        replays := s.cway.replays.map fun r =>
          if r.ring = recRing bs ∧ r.dseq = recDseq bs then r.fill (leAt b 0 4) (b.drop 4) false else r } })) ∧
      (recType bs = 0x03 → ∀ r : Replay, s.cway.replays = [r] → r.ring = recRing bs → r.dseq = recDseq bs → r.desc.sequenceOnly = true →
        r.result = some stOk → ∃ t, exec (.doneRecord bs) s = .next t ∧ t.cway.replays = [] ∧
          tabFind t.cway.points (recRing bs) = some ((recDseq bs + 1) % 2 ^ 32) ∧
          (recRing bs, r.slot, b.take 32) ∈ t.cway.recents ∧ { t with cway := s.cway } = s) ∧
      (recType bs = 0x04 →
        let a : ApplyItem := { port := leAt b 0 1 % 4, kind := leAt b 1 1, frame := leAt b 4 8, ring := recRing bs, dseq := recDseq bs }
        a.kind ≠ 0 → a.kind ≠ 2 → (a.kind = 1 → (s.port a.port).phase ≠ .stopped) → exec (.applyRecord bs) s =
          .next (applied { heard with cway := { heard.cway with applyQ := s.cway.applyQ ++ [a] } })) ∧
      (recType bs = 0x05 → b.length = 8 → mirroredReg (leAt b 0 4) = true → leAt b 0 4 % 4 = 0 → ∃ t, exec (.regRecord bs) s = .next t ∧
        (∀ row, pfRow (leAt b 0 4) = some row → row.w1c = 0 → ∀ i, i < 32 → (t.reg (leAt b 0 4)).testBit i =
          if row.rw.testBit i || row.rwl.testBit i then (leAt b 4 4).testBit i else (s.reg (leAt b 0 4)).testBit i) ∧
        (∀ o, o ≠ leAt b 0 4 → t.reg o = s.reg o) ∧ { t with regs := s.regs, ports := s.ports, cway := s.cway } = s) ∧
      (recType bs = 0x09 → ∃ t, exec (.breakRecord bs) s = .next t ∧ t.cway.role = .stale ∧ t.cway.replays = [] ∧
        ∀ r, (t.ring r).state = .disabled)) ∧
  (∀ (bs : List Byte) (s : State), Canon s → s.power.boot ≠ .inReset → 2 ≤ s.cway.linkPhase → s.cway.discarding = false →
      s.cway.role = .catchup → recordOk bs = true → s.seqGap bs = false →
      let b := recordBody bs
      (recType bs = 0x06 →
        let h := leAt b 0 4
        let n := tileCount (leAt b 4 1) (leAt b 6 1) (leAt b 8 2) (leAt b 10 2) (leAt b 12 4)
        tabFind s.objs (handleIndex h) = none → s.allocFails (handleFn h) n = none → ∃ t o, exec (.snapobjRecord bs) s = .next t ∧
          t.objOf h = some o ∧ o.cls = leAt b 4 1 ∧ o.hint = leAt b 5 1 ∧ o.format = leAt b 6 1 ∧ o.width = leAt b 8 2 ∧
          o.height = leAt b 10 2 ∧ o.size = leAt b 12 4 ∧ o.tilesHeld.length = n ∧ o.given = max 1 (leAt b 16 4) ∧
          o.invalid = decide (leAt b 7 1 % 2 = 1) ∧ t.cway.snapObjs = s.cway.snapObjs ++ [h]) ∧
      (recType bs = 0x07 → recLast bs = false → ∀ o, s.objOf (leAt b 0 4) = some o → ∃ t, exec (.snapRecord bs) s = .next t ∧
        t.objOf (leAt b 0 4) = some { o with versions := o.versions.map fun v =>
          { v with bytes := writeBytes o.fill v.bytes (leAt b 4 4) ((b.drop 8).take (o.layout - leAt b 4 4)) } } ∧
        { t with objs := s.objs, cway := s.cway } = s) ∧
      (recType bs = 0x08 → s.cway.finalStates ≠ 0 → ∃ t, exec (.snapstateRecord bs) s = .next t ∧
        t.cway.finalStates = s.cway.finalStates + 1 ∧ (t.cway.role = .mirrored ∨ t.cway.role = .catchup) ∧
        t.nextId = s.nextId + (Config.snapEntries b).length ∧
        t.ledger.length = s.ledger.length + (Config.snapEntries b).length ∧
        (∀ r, r < 128 → tabFind t.cway.points r = some (Config.snapNext b r % 2 ^ 32))))

/-- Roles changed by the host, and a resignation (R512, R529, R531): resign waits for the standby, 10 ms at most, and the unit that has
resigned holds no lease, has no ring enabled and nothing in its ledger; rejoin makes a stale standby of an ACTIVE peer catch up; promote
makes a standby that cannot catch up SOLO while the heartbeat is lost. -/
def Obligations.RolesChanged : Prop :=
  ∀ s : State, Canon s →
    (s.cway.resigning = true → due s.cway.resign s.now = true → ∃ t, exec .resignWaitTimeout s = .next t ∧ t.cway.role = .stale ∧
      t.cway.resigning = false ∧ t.cway.logging = false ∧ t.ledger = [] ∧ t.shuttles = [] ∧ (∀ r, (t.ring r).state = .disabled) ∧
      ∀ p, p < 4 → (t.port p).link.holds = false) ∧
    (s.power.boot ≠ .inReset →
      (s.cway.role = .active → s.cway.ackRole = 2 → 2 ≤ s.cway.linkPhase → exec .cwayResign s =
        .next { s with cway := { s.cway with resigning := true, resign := some (s.now + msTicks 10) } }) ∧
      (s.cway.role ≠ .active ∨ s.cway.ackRole ≠ 2 ∨ s.cway.linkPhase < 2 → exec .cwayResign s = .next (s.setBit 0x7004 5)) ∧
      (s.cway.role = .stale → s.cway.peerRole = 1 → ∃ t, exec .cwayRejoin s = .next t ∧ t.cway.role = .catchup ∧
        t.cway.snapDone = false ∧ t.cway.finalStates = 0 ∧ t.ports = s.ports ∧ t.ledger = s.ledger ∧ t.objs = s.objs) ∧
      (s.cway.role ≠ .stale ∨ s.cway.peerRole ≠ 1 → exec .cwayRejoin s = .next s) ∧
      (s.cway.role = .stale ∨ s.cway.role = .catchup → s.cway.heartbeat = false → ∃ u : State,
        exec .cwayPromote s = .next u.bootStart.kickAll ∧ u.cway.role = .solo ∧ u.cway.replays = []) ∧
      ((s.cway.role ≠ .stale ∧ s.cway.role ≠ .catchup) ∨ s.cway.heartbeat = true → exec .cwayPromote s = .next s))
end

