-- ==== Sys2Proof/Laws/Kept.lean ====
section
/-! SUPPORT. What every shared operation keeps, said once. `Kept pv s t`: the machine has gone from `s` to `t` without a
reset: the queue and the clock are untouched, the sparse tables stay canonical, the ledger stays in acceptance order, what
has left the device stays sent, and the fatal state is not left. The Laws/Kept files prove it of each operation, and
the obligations about every command rest on it. -/

namespace Sys2Proof.Machine

/-! ### Tables -/

theorem tabPut_mem {α : Type} {t : Tab α} {k : Nat} {v : α} {e : Nat × α} (h : e ∈ tabPut t k v) :
    e = (k, v) ∨ e ∈ t := by
  induction t with
  | nil => simpa [tabPut] using h
  | cons x t ih =>
    obtain ⟨a, w⟩ := x
    simp only [tabPut] at h
    split at h
    · simpa using h
    · split at h
      · rcases List.mem_cons.1 h with h | h
        · exact .inl h
        · exact .inr (List.mem_cons_of_mem _ h)
      · rcases List.mem_cons.1 h with h | h
        · exact .inr (by simp [h])
        · rcases ih h with h | h
          · exact .inl h
          · exact .inr (List.mem_cons_of_mem _ h)

theorem tabErase_sublist {α : Type} (t : Tab α) (k : Nat) : (tabErase t k).Sublist t := by
  induction t with
  | nil => simp [tabErase]
  | cons x t ih =>
    obtain ⟨a, w⟩ := x
    simp only [tabErase]
    split
    · exact List.sublist_cons_self _ _
    · exact ih.cons_cons _

theorem tabSorted_nil {α : Type} : tabSorted ([] : Tab α) := List.Pairwise.nil

theorem tabSorted_erase {α : Type} {t : Tab α} (h : tabSorted t) (k : Nat) : tabSorted (tabErase t k) :=
  List.Pairwise.sublist (tabErase_sublist t k) h

theorem tabSorted_filter {α : Type} {t : Tab α} (h : tabSorted t) (f : Nat × α → Bool) : tabSorted (t.filter f) :=
  List.Pairwise.filter _ h

theorem tabSorted_put {α : Type} {t : Tab α} (h : tabSorted t) (k : Nat) (v : α) : tabSorted (tabPut t k v) := by
  induction t with
  | nil => simp [tabPut, tabSorted]
  | cons x t ih =>
    obtain ⟨a, w⟩ := x
    have hc : (∀ e ∈ t, a < e.1) ∧ tabSorted t := by simpa [tabSorted] using h
    simp only [tabPut]
    split
    · rename_i hk
      refine List.pairwise_cons.2 ⟨fun e he => ?_, h⟩
      rcases List.mem_cons.1 he with rfl | he
      · exact hk
      · exact Nat.lt_trans hk (hc.1 e he)
    · split
      · rename_i hk; subst hk; exact List.pairwise_cons.2 hc
      · refine List.pairwise_cons.2 ⟨fun e he => ?_, ih hc.2⟩
        rcases tabPut_mem he with rfl | he
        · show a < k; omega
        · exact hc.1 e he

theorem tabSorted_set {α : Type} [DecidableEq α] {t : Tab α} (h : tabSorted t) (d : α) (k : Nat) (v : α) :
    tabSorted (tabSet d t k v) := by
  unfold tabSet
  split
  · exact tabSorted_erase h k
  · exact tabSorted_put h k v

theorem tabMap_eq {α : Type} (f : Nat → α → α) (t : Tab α) : tabMap f t = t.map fun e => (e.1, f e.1 e.2) := by
  induction t with
  | nil => rfl
  | cons x t ih => obtain ⟨a, w⟩ := x; simp [tabMap, ih]

theorem tabSorted_map {α : Type} {t : Tab α} (h : tabSorted t) (f : Nat → α → α) : tabSorted (tabMap f t) := by
  rw [tabMap_eq]
  exact List.Pairwise.map _ (fun _ _ h => h) h

theorem tabSorted_foldl {α β : Type} {f : Tab α → β → Tab α} (hf : ∀ t x, tabSorted t → tabSorted (f t x)) (l : List β)
    {t : Tab α} (h : tabSorted t) : tabSorted (l.foldl f t) := by
  induction l generalizing t with
  | nil => exact h
  | cons x l ih => exact ih (hf _ _ h)

theorem tabFind_map {α : Type} (f : Nat → α → α) (t : Tab α) (k : Nat) :
    tabFind (tabMap f t) k = (tabFind t k).map (f k) := by
  induction t with
  | nil => rfl
  | cons x t ih =>
    obtain ⟨a, w⟩ := x
    simp only [tabMap, tabFind]
    split
    · rename_i h; simp [h]
    · exact ih

theorem banks_map {f : Nat → Port → Port} (hf : ∀ k q, (f k q).prot.banks = q.prot.banks) (t : Tab Port) (p : Nat) :
    (tabGet Port.reset (tabMap f t) p).prot.banks = (tabGet Port.reset t p).prot.banks := by
  simp only [tabGet, tabFind_map]
  cases tabFind t p <;> simp [hf]

theorem tabFind_none_of_lt {α : Type} {t : Tab α} {k : Nat} (h : ∀ e ∈ t, k < e.1) : tabFind t k = none := by
  induction t with
  | nil => rfl
  | cons x t ih =>
    obtain ⟨a, w⟩ := x
    have ha : a ≠ k := by have := h (a, w) (by simp); simp only at this; omega
    simp only [tabFind, ha, if_false]
    exact ih fun e he => h e (List.mem_cons_of_mem _ he)

theorem tabFind_put {α : Type} (t : Tab α) (k : Nat) (v : α) : tabFind (tabPut t k v) k = some v := by
  induction t with
  | nil => simp [tabPut, tabFind]
  | cons x t ih =>
    obtain ⟨a, w⟩ := x
    simp only [tabPut]
    split
    · simp [tabFind]
    · split
      · simp [tabFind]
      · rename_i h1 h2
        simp only [tabFind]
        rw [if_neg (fun h => h2 h.symm)]
        exact ih

theorem tabFind_put_ne {α : Type} (t : Tab α) {k j : Nat} (v : α) (h : j ≠ k) :
    tabFind (tabPut t k v) j = tabFind t j := by
  induction t with
  | nil => simp [tabPut, tabFind, h.symm]
  | cons x t ih =>
    obtain ⟨a, w⟩ := x
    simp only [tabPut]
    split
    · simp [tabFind, h.symm]
    · split
      · rename_i h1 h2; subst h2; simp [tabFind, h.symm]
      · simp only [tabFind, ih]

theorem tabFind_erase {α : Type} {t : Tab α} (h : tabSorted t) (k : Nat) : tabFind (tabErase t k) k = none := by
  induction t with
  | nil => rfl
  | cons x t ih =>
    obtain ⟨a, w⟩ := x
    have hc : (∀ e ∈ t, a < e.1) ∧ tabSorted t := by simpa [tabSorted] using h
    simp only [tabErase]
    split
    · rename_i ha; subst ha; exact tabFind_none_of_lt hc.1
    · rename_i ha; simp only [tabFind, ha, if_false]; exact ih hc.2

theorem tabFind_erase_ne {α : Type} (t : Tab α) {k j : Nat} (h : j ≠ k) : tabFind (tabErase t k) j = tabFind t j := by
  induction t with
  | nil => rfl
  | cons x t ih =>
    obtain ⟨a, w⟩ := x
    simp only [tabErase]
    split
    · rename_i ha; subst ha; simp [tabFind, h.symm]
    · simp only [tabFind, ih]

@[simp] theorem tabGet_put {α : Type} (d : α) (t : Tab α) (k : Nat) (v : α) : tabGet d (tabPut t k v) k = v := by
  simp [tabGet, tabFind_put]

theorem tabGet_put_ne {α : Type} (d : α) (t : Tab α) {k j : Nat} (v : α) (h : j ≠ k) :
    tabGet d (tabPut t k v) j = tabGet d t j := by
  simp [tabGet, tabFind_put_ne t v h]

theorem tabGet_set {α : Type} [DecidableEq α] (d : α) {t : Tab α} (h : tabSorted t) (k : Nat) (v : α) :
    tabGet d (tabSet d t k v) k = v := by
  unfold tabSet
  split
  · rename_i hv; simp [tabGet, tabFind_erase h, hv]
  · simp

theorem tabGet_set_ne {α : Type} [DecidableEq α] (d e : α) (t : Tab α) {k j : Nat} (v : α) (h : j ≠ k) :
    tabGet e (tabSet d t k v) j = tabGet e t j := by
  unfold tabSet
  split
  · simp [tabGet, tabFind_erase_ne t h]
  · exact tabGet_put_ne e t v h

/-! ### The relation -/

theorem regsLean_set {t : Tab Word} (h : regsLean t) (k : Nat) (v : Word) :
    regsLean (tabSet (resetWord k) t k v) := by
  unfold tabSet
  split
  · intro e he; exact h e ((tabErase_sublist t k).subset he)
  · rename_i hv
    intro e he
    rcases tabPut_mem he with rfl | he
    · exact hv
    · exact h e he

/-- See the head of the file; with `pv` set, SAFE_STATE_N's filter result and the protected banks are untouched too. -/
structure Kept (pv : Bool) (s t : State) : Prop where
  pending : t.pending = s.pending
  now : t.now = s.now
  canon : Canon s → Canon t
  sent : s.egress <+: t.egress
  fatal : s.flt.fatalHold = true → t.flt.fatalHold = true
  pin : (s.flt.fatalHold = true → s.flt.pin = true) → (t.flt.fatalHold = true → t.flt.pin = true)
  fuse : s.power.fuseMin ≤ t.power.fuseMin
  tide : t.tide.units = s.tide.units
  safe : pv = true → t.power.safeApplied = s.power.safeApplied
  banks : pv = true → ∀ p, (t.port p).prot.banks = (s.port p).prot.banks

theorem Kept.refl (pv : Bool) (s : State) : Kept pv s s :=
  ⟨rfl, rfl, id, List.prefix_rfl, id, id, Nat.le_refl _, rfl, fun _ => rfl, fun _ _ => rfl⟩

theorem Kept.trans {pv : Bool} {s t u : State} (h : Kept pv s t) (k : Kept pv t u) : Kept pv s u :=
  ⟨k.pending.trans h.pending, k.now.trans h.now, k.canon ∘ h.canon, h.sent.trans k.sent, k.fatal ∘ h.fatal, k.pin ∘ h.pin,
    h.fuse.trans k.fuse, k.tide.trans h.tide, fun x => (k.safe x).trans (h.safe x),
    fun x p => (k.banks x p).trans (h.banks x p)⟩

/-- The register table keeps its form when one word is set. -/
theorem canon_setReg {t : Tab Word} (h : tabSorted t ∧ regsLean t) (k : Nat) (v : Word) :
    tabSorted (tabSet (resetWord k) t k v) ∧ regsLean (tabSet (resetWord k) t k v) :=
  ⟨tabSorted_set h.1 _ _ _, regsLean_set h.2 _ _⟩

theorem canon_filterRegs {t : Tab Word} (h : tabSorted t ∧ regsLean t) (f : Nat × Word → Bool) :
    tabSorted (t.filter f) ∧ regsLean (t.filter f) :=
  ⟨tabSorted_filter h.1 f, fun e he => h.2 e (List.mem_of_mem_filter he)⟩

theorem canon_setWreg {t : Tab Word} (h : tabSorted t ∧ wregsLean t) (k : Nat) (v : Word) :
    tabSorted (tabSet (watchReset k) t k v) ∧ wregsLean (tabSet (watchReset k) t k v) := by
  refine ⟨tabSorted_set h.1 _ _ _, ?_⟩
  unfold tabSet
  split
  · intro e he; exact h.2 e ((tabErase_sublist t k).subset he)
  · rename_i hv
    intro e he
    rcases tabPut_mem he with rfl | he
    · exact hv
    · exact h.2 e he

theorem ledgerOrdered_map {l : List Entry} {n : Nat} {f : Entry → Entry} (hf : ∀ e, (f e).id = e.id)
    (h : ledgerOrdered l n) : ledgerOrdered (l.map f) n := by
  refine ⟨List.Pairwise.map _ (fun a b hab => by rw [hf, hf]; exact hab) h.1, fun e he => ?_⟩
  obtain ⟨x, hx, rfl⟩ := List.mem_map.1 he
  rw [hf]; exact h.2 x hx

theorem ledgerOrdered_filter {l : List Entry} {n : Nat} (f : Entry → Bool) (h : ledgerOrdered l n) :
    ledgerOrdered (l.filter f) n :=
  ⟨List.Pairwise.filter _ h.1, fun e he => h.2 e (List.mem_of_mem_filter he)⟩

theorem ledgerOrdered_append {l : List Entry} {n : Nat} (e : Entry) (he : e.id = n) (h : ledgerOrdered l n) :
    ledgerOrdered (l ++ [e]) (n + 1) := by
  refine ⟨List.pairwise_append.2 ⟨h.1, by simp, fun a ha b hb => ?_⟩, fun x hx => ?_⟩
  · rw [List.mem_singleton.1 hb, he]; exact h.2 a ha
  · rcases List.mem_append.1 hx with hx | hx
    · exact Nat.lt_succ_of_lt (h.2 x hx)
    · rw [List.mem_singleton.1 hx, he]; exact Nat.lt_succ_self n

/-- A command's outcome keeps what `Kept` says. -/
def KeptBy (pv : Bool) (s0 : State) (o : Host.Outcome State Fault Refusal) : Prop := ∀ t, o = .next t → Kept pv s0 t

theorem KeptBy.next {pv : Bool} {s0 t : State} (h : Kept pv s0 t) : KeptBy pv s0 (.next t) := fun u e => by cases e; exact h

/-- A change of named fields, each table in its own way. -/
theorem Kept.upd {pv : Bool} {s0 s : State} {fresh : Nat}
    {regs : Tab Word}
    {capts : Tab Word}
    {wregs : Tab Word}
    {wcapts : Tab Word}
    {wpSeq : Nat}
    {miso : List Byte}
    {power : Power}
    {rings : Tab Ring}
    {pollAt : Timer}
    {turnAt : Nat}
    {ledger : List Entry}
    {nextId : Nat}
    {ledgerPeak : Nat}
    {objs : Tab Obj}
    {gens : Tab Nat}
    {harb : Harb}
    {ctxs : Tab Ctx}
    {units : Tab TallyUnit}
    {shuttles : Tab Shuttle}
    {tills : Tab Till}
    {ports : Tab Port}
    {chans : Tab Chan}
    {dramReady : Bool}
    {strdCodes : Nat}
    {sawyPixels : Nat}
    {tide : Tide}
    {outs : Tab TideOut}
    {tcaps : Tab TideCap}
    {sense : Sense}
    {cway : Cway}
    {flt : Flt}
    {egress : List Egress}
    {pcie : Pcie}
    (h3 : s.egress <+: egress) (h4 : s.flt.fatalHold = true → flt.fatalHold = true)
    (h5 : (s.flt.fatalHold = true → s.flt.pin = true) → (flt.fatalHold = true → flt.pin = true))
    (h6 : s.power.fuseMin ≤ power.fuseMin) (h7 : tide.units = s.tide.units)
    (h8 : pv = true → power.safeApplied = s.power.safeApplied)
    (h9 : pv = true → ∀ p, (tabGet Port.reset ports p).prot.banks = (tabGet Port.reset s.ports p).prot.banks)
    (c1 : tabSorted s.regs ∧ regsLean s.regs → tabSorted regs ∧ regsLean regs)
    (c2 : tabSorted s.wregs ∧ wregsLean s.wregs → tabSorted wregs ∧ wregsLean wregs)
    (c_rings : tabSorted s.rings → tabSorted rings)
    (c_objs : tabSorted s.objs → tabSorted objs)
    (c_gens : tabSorted s.gens → tabSorted gens)
    (c_ctxs : tabSorted s.ctxs → tabSorted ctxs)
    (c_units : tabSorted s.units → tabSorted units)
    (c_shuttles : tabSorted s.shuttles → tabSorted shuttles)
    (c_tills : tabSorted s.tills → tabSorted tills)
    (c_table : tabSorted s.pcie.table → tabSorted pcie.table)
    (c_ports : tabSorted s.ports → tabSorted ports)
    (c_chans : tabSorted s.chans → tabSorted chans)
    (c_outs : tabSorted s.outs → tabSorted outs)
    (c_tcaps : tabSorted s.tcaps → tabSorted tcaps)
    (c_ledger : ledgerOrdered s.ledger s.nextId → ledgerOrdered ledger nextId) (h : Kept pv s0 s) :
    Kept pv s0 ⟨s.pending, s.now, fresh, regs, capts, wregs, wcapts, wpSeq, miso, power, rings, pollAt, turnAt, ledger, nextId, ledgerPeak, objs, gens, harb, ctxs, units, shuttles, tills, ports, chans, dramReady, strdCodes, sawyPixels, tide, outs, tcaps, sense, cway, flt, egress, pcie⟩ :=
  h.trans ⟨rfl, rfl, fun c => ⟨c1 c.regs, c2 c.wregs, c_rings c.rings, c_ports c.ports, c_chans c.chans, c_ctxs c.ctxs, c_units c.units, c_shuttles c.shuttles, c_outs c.outs, c_tcaps c.tcaps, c_objs c.objs, c_gens c.gens, c_tills c.tills, c_table c.table, c_ledger c.ledger⟩, h3, h4, h5, h6, h7, h8, h9⟩

theorem Kept.ofEq {pv : Bool} {α : Type} {s0 t : State} {x : α} {r : α × State} (e : r = (x, t)) (h : Kept pv s0 r.2) : Kept pv s0 t := by
  rw [e] at h; exact h

theorem Kept.foldl {pv : Bool} {α : Type} {s0 : State} {f : State → α → State} (hf : ∀ t x, Kept pv s0 t → Kept pv s0 (f t x)) (l : List α)
    {s : State} (h : Kept pv s0 s) : Kept pv s0 (l.foldl f s) := by
  induction l generalizing s with
  | nil => exact h
  | cons x l ih => exact ih (hf _ _ h)

theorem Kept.ite {pv : Bool} {s0 a b : State} {c : Prop} [Decidable c] (ha : Kept pv s0 a) (hb : Kept pv s0 b) :
    Kept pv s0 (if c then a else b) := by
  split <;> assumption

theorem Kept.foldlPair {pv : Bool} {α β : Type} {s0 : State} {f : β × State → α → β × State} (hf : ∀ a x, Kept pv s0 a.2 → Kept pv s0 (f a x).2)
    (l : List α) {a : β × State} (h : Kept pv s0 a.2) : Kept pv s0 (l.foldl f a).2 := by
  induction l generalizing a with
  | nil => exact h
  | cons x l ih => exact ih (hf _ _ h)

theorem Kept.forN {pv : Bool} {s0 : State} {f : Nat → State → State} (hf : ∀ i t, Kept pv s0 t → Kept pv s0 (f i t)) (n : Nat) {s : State}
    (h : Kept pv s0 s) : Kept pv s0 (forN n f s) :=
  Kept.foldl (fun t x ht => hf x t ht) _ h

end Sys2Proof.Machine
end

