-- ==== Sys2Proof/Laws/Access.lean ====
section
/-! SUPPORT. What the accessors of the sparse tables read after an update: the entry written, and every other as before. -/

namespace Sys2Proof.Machine

@[simp] theorem State.ring_setRing (s : State) (k : Nat) (x : Ring) : (s.setRing k x).ring k = x :=
  tabGet_put _ _ _ _

theorem State.ring_setRing_ne (s : State) {k j : Nat} (x : Ring) (h : j ≠ k) : (s.setRing k x).ring j = s.ring j :=
  tabGet_put_ne _ _ _ h

@[simp] theorem State.ring_modRing (s : State) (k : Nat) (f : Ring → Ring) : (s.modRing k f).ring k = f (s.ring k) :=
  tabGet_put _ _ _ _

theorem State.ring_modRing_ne (s : State) {k j : Nat} (f : Ring → Ring) (h : j ≠ k) : (s.modRing k f).ring j = s.ring j :=
  tabGet_put_ne _ _ _ h

@[simp] theorem State.port_setPort (s : State) (k : Nat) (x : Port) : (s.setPort k x).port k = x :=
  tabGet_put _ _ _ _

theorem State.port_setPort_ne (s : State) {k j : Nat} (x : Port) (h : j ≠ k) : (s.setPort k x).port j = s.port j :=
  tabGet_put_ne _ _ _ h

@[simp] theorem State.port_modPort (s : State) (k : Nat) (f : Port → Port) : (s.modPort k f).port k = f (s.port k) :=
  tabGet_put _ _ _ _

theorem State.port_modPort_ne (s : State) {k j : Nat} (f : Port → Port) (h : j ≠ k) : (s.modPort k f).port j = s.port j :=
  tabGet_put_ne _ _ _ h

@[simp] theorem State.chan_setChan (s : State) (k : Nat) (x : Chan) : (s.setChan k x).chan k = x :=
  tabGet_put _ _ _ _

theorem State.chan_setChan_ne (s : State) {k j : Nat} (x : Chan) (h : j ≠ k) : (s.setChan k x).chan j = s.chan j :=
  tabGet_put_ne _ _ _ h

@[simp] theorem State.chan_modChan (s : State) (k : Nat) (f : Chan → Chan) : (s.modChan k f).chan k = f (s.chan k) :=
  tabGet_put _ _ _ _

theorem State.chan_modChan_ne (s : State) {k j : Nat} (f : Chan → Chan) (h : j ≠ k) : (s.modChan k f).chan j = s.chan j :=
  tabGet_put_ne _ _ _ h

@[simp] theorem State.ctx_setCtx (s : State) (k : Nat) (x : Ctx) : (s.setCtx k x).ctx k = x :=
  tabGet_put _ _ _ _

theorem State.ctx_setCtx_ne (s : State) {k j : Nat} (x : Ctx) (h : j ≠ k) : (s.setCtx k x).ctx j = s.ctx j :=
  tabGet_put_ne _ _ _ h

@[simp] theorem State.unit_setUnit (s : State) (k : Nat) (x : TallyUnit) : (s.setUnit k x).unit k = x :=
  tabGet_put _ _ _ _

theorem State.unit_setUnit_ne (s : State) {k j : Nat} (x : TallyUnit) (h : j ≠ k) : (s.setUnit k x).unit j = s.unit j :=
  tabGet_put_ne _ _ _ h

@[simp] theorem State.out_setOut (s : State) (k : Nat) (x : TideOut) : (s.setOut k x).out k = x :=
  tabGet_put _ _ _ _

theorem State.out_setOut_ne (s : State) {k j : Nat} (x : TideOut) (h : j ≠ k) : (s.setOut k x).out j = s.out j :=
  tabGet_put_ne _ _ _ h

@[simp] theorem State.cap_setCap (s : State) (k : Nat) (x : TideCap) : (s.setCap k x).cap k = x :=
  tabGet_put _ _ _ _

theorem State.cap_setCap_ne (s : State) {k j : Nat} (x : TideCap) (h : j ≠ k) : (s.setCap k x).cap j = s.cap j :=
  tabGet_put_ne _ _ _ h

/-- A word reads back as it was written (R7). -/
theorem State.reg_setReg {s : State} (h : tabSorted s.regs) (off v : Nat) : (s.setReg off v).reg off = v % 2 ^ 32 := by
  simp only [State.reg, State.setReg]
  rw [tabGet_set _ h]
  simp

/-- A write leaves every other word alone. -/
theorem State.reg_setReg_ne (s : State) {off o : Nat} (v : Nat) (h : o ≠ off) : (s.setReg off v).reg o = s.reg o := by
  simp only [State.reg, State.setReg]
  rw [tabGet_set_ne _ _ _ _ h]

theorem State.reg_setField_ne (s : State) {off o : Nat} (hi lo v : Nat) (h : o ≠ off) : (s.setField off hi lo v).reg o = s.reg o :=
  s.reg_setReg_ne _ h

theorem State.reg_setBit_ne (s : State) {off o : Nat} (b : Nat) (h : o ≠ off) : (s.setBit off b).reg o = s.reg o :=
  s.reg_setField_ne _ _ _ h

/-- A Watch register reads back as it was written. -/
theorem State.wreg_setWreg {s : State} (h : tabSorted s.wregs) (addr v : Nat) : (s.setWreg addr v).wreg addr = v % 2 ^ 32 := by
  simp only [State.wreg, State.setWreg]
  rw [tabGet_set _ h]
  simp

theorem State.wreg_setWreg_ne (s : State) {addr a : Nat} (v : Nat) (h : a ≠ addr) : (s.setWreg addr v).wreg a = s.wreg a := by
  simp only [State.wreg, State.setWreg]
  rw [tabGet_set_ne _ _ _ _ h]

end Sys2Proof.Machine
end

