-- ==== Sys2Proof/Laws/KeptOps.lean ====
section
/-! SUPPORT. Every operation of Machine/Ops.lean keeps what `Kept` says. -/

set_option linter.unusedTactic false
set_option linter.unreachableTactic false
set_option maxHeartbeats 200000
namespace Sys2Proof.Machine

theorem State.setReg_kept {pv : Bool} {s0 s : State} (off v : Nat) (h : Kept pv s0 s) : Kept pv s0 (s.setReg off v) := by
  unfold State.setReg; exact Kept.upd (s := s) List.prefix_rfl id id (Nat.le_refl _) rfl (fun _ => rfl) (fun _ _ => rfl) (fun c => canon_setReg c _ _) id id id id id id id id id id id id id id h

theorem State.setField_kept {pv : Bool} {s0 s : State} (off hi lo v : Nat) (hk : Kept pv s0 s) :
    Kept pv s0 (State.setField s off hi lo v) := by
  dsimp only [State.setField]
  repeat' first
    | with_reducible assumption
    | with_reducible apply State.setReg_kept
    | split
    | with_reducible apply Kept.ite

theorem State.setBit_kept {pv : Bool} {s0 s : State} (off b : Nat) (hk : Kept pv s0 s) :
    Kept pv s0 (State.setBit s off b) := by
  dsimp only [State.setBit]
  repeat' first
    | with_reducible assumption
    | with_reducible apply State.setField_kept
    | split
    | with_reducible apply Kept.ite

theorem State.count_kept {pv : Bool} {s0 s : State} (off hi lo n : Nat) (hk : Kept pv s0 s) :
    Kept pv s0 (State.count s off hi lo n) := by
  dsimp only [State.count]
  repeat' first
    | with_reducible assumption
    | with_reducible apply State.setField_kept
    | split
    | with_reducible apply Kept.ite

theorem State.resetBlock_kept {pv : Bool} {s0 s : State} (w : Nat) (h : Kept pv s0 s) : Kept pv s0 (s.resetBlock w) := by
  unfold State.resetBlock; exact Kept.upd (s := s) List.prefix_rfl id id (Nat.le_refl _) rfl (fun _ => rfl) (fun _ _ => rfl) (fun c => canon_filterRegs c _) id id id id id id id id id id id id id id h

theorem State.setWreg_kept {pv : Bool} {s0 s : State} (a v : Nat) (h : Kept pv s0 s) : Kept pv s0 (s.setWreg a v) := by
  unfold State.setWreg; exact Kept.upd (s := s) List.prefix_rfl id id (Nat.le_refl _) rfl (fun _ => rfl) (fun _ _ => rfl) id (fun c => canon_setWreg c _ _) id id id id id id id id id id id id id h

theorem State.setWbit_kept {pv : Bool} {s0 s : State} (addr b : Nat) (hk : Kept pv s0 s) :
    Kept pv s0 (State.setWbit s addr b) := by
  dsimp only [State.setWbit]
  repeat' first
    | with_reducible assumption
    | with_reducible apply State.setWreg_kept
    | split
    | with_reducible apply Kept.ite

theorem State.setRing_kept {pv : Bool} {s0 s : State} (r : Nat) (x : Ring) (hk : Kept pv s0 s) :
    Kept pv s0 (State.setRing s r x) := by
  dsimp only [State.setRing]
  repeat' first
    | with_reducible assumption
    | split
    | with_reducible apply Kept.ite
    | with_reducible rfl
    | with_reducible exact fun x => x
    | with_reducible exact Nat.le_refl _
    | with_reducible exact List.prefix_rfl
    | with_reducible exact List.prefix_append _ _
    | with_reducible refine fun (hx : tabSorted _) => ?_
    | with_reducible apply tabSorted_map
    | with_reducible apply tabSorted_put
    | with_reducible apply tabSorted_erase
    | with_reducible apply tabSorted_filter
    | with_reducible exact tabSorted_nil
    | (show tabSorted _; assumption)
    | with_reducible exact ledgerOrdered_filter _
    | with_reducible exact fun hx => canon_filterRegs hx _
    | with_reducible exact fun _ _ => rfl
    | ((with_reducible refine fun _ _ => banks_map ?_ _ _) <;> exact fun _ _ => rfl)
    | exact fun _ => rfl
    | exact fun _ _ => rfl
    | with_reducible apply Kept.upd

theorem State.modRing_kept {pv : Bool} {s0 s : State} (r : Nat) (f : Ring → Ring) (hk : Kept pv s0 s) :
    Kept pv s0 (State.modRing s r f) := by
  dsimp only [State.modRing]
  repeat' first
    | with_reducible assumption
    | with_reducible apply State.setRing_kept
    | split
    | with_reducible apply Kept.ite

theorem State.setPort_kept {pv : Bool} {s0 s : State} (p : Nat) (x : Port)
    (hb : pv = true → x.prot.banks = (s.port p).prot.banks) (h : Kept pv s0 s) : Kept pv s0 (s.setPort p x) := by
  unfold State.setPort
  refine Kept.upd (s := s) List.prefix_rfl id id (Nat.le_refl _) rfl (fun _ => rfl) (fun hw j => ?_) id id id id id id id id id id
    (fun hx => tabSorted_put hx _ _) id id id id h
  by_cases hj : j = p
  · subst hj; rw [tabGet_put]; exact hb hw
  · rw [tabGet_put_ne _ _ _ hj]

theorem State.modPort_kept {pv : Bool} {s0 s : State} (p : Nat) (f : Port → Port)
    (hb : pv = true → ∀ q, (f q).prot.banks = q.prot.banks) (h : Kept pv s0 s) : Kept pv s0 (s.modPort p f) :=
  State.setPort_kept _ _ (fun hw => hb hw _) h

theorem State.modLink_kept {pv : Bool} {s0 s : State} (p : Nat) (f : Link → Link) (h : Kept pv s0 s) : Kept pv s0 (s.modLink p f) :=
  State.modPort_kept _ _ (fun _ _ => rfl) h

theorem State.setChan_kept {pv : Bool} {s0 s : State} (c : Nat) (x : Chan) (hk : Kept pv s0 s) :
    Kept pv s0 (State.setChan s c x) := by
  dsimp only [State.setChan]
  repeat' first
    | with_reducible assumption
    | split
    | with_reducible apply Kept.ite
    | with_reducible rfl
    | with_reducible exact fun x => x
    | with_reducible exact Nat.le_refl _
    | with_reducible exact List.prefix_rfl
    | with_reducible exact List.prefix_append _ _
    | with_reducible refine fun (hx : tabSorted _) => ?_
    | with_reducible apply tabSorted_map
    | with_reducible apply tabSorted_put
    | with_reducible apply tabSorted_erase
    | with_reducible apply tabSorted_filter
    | with_reducible exact tabSorted_nil
    | (show tabSorted _; assumption)
    | with_reducible exact ledgerOrdered_filter _
    | with_reducible exact fun hx => canon_filterRegs hx _
    | with_reducible exact fun _ _ => rfl
    | ((with_reducible refine fun _ _ => banks_map ?_ _ _) <;> exact fun _ _ => rfl)
    | exact fun _ => rfl
    | exact fun _ _ => rfl
    | with_reducible apply Kept.upd

theorem State.modChan_kept {pv : Bool} {s0 s : State} (c : Nat) (f : Chan → Chan) (hk : Kept pv s0 s) :
    Kept pv s0 (State.modChan s c f) := by
  dsimp only [State.modChan]
  repeat' first
    | with_reducible assumption
    | with_reducible apply State.setChan_kept
    | split
    | with_reducible apply Kept.ite

theorem State.setCtx_kept {pv : Bool} {s0 s : State} (m : Nat) (x : Ctx) (hk : Kept pv s0 s) :
    Kept pv s0 (State.setCtx s m x) := by
  dsimp only [State.setCtx]
  repeat' first
    | with_reducible assumption
    | split
    | with_reducible apply Kept.ite
    | with_reducible rfl
    | with_reducible exact fun x => x
    | with_reducible exact Nat.le_refl _
    | with_reducible exact List.prefix_rfl
    | with_reducible exact List.prefix_append _ _
    | with_reducible refine fun (hx : tabSorted _) => ?_
    | with_reducible apply tabSorted_map
    | with_reducible apply tabSorted_put
    | with_reducible apply tabSorted_erase
    | with_reducible apply tabSorted_filter
    | with_reducible exact tabSorted_nil
    | (show tabSorted _; assumption)
    | with_reducible exact ledgerOrdered_filter _
    | with_reducible exact fun hx => canon_filterRegs hx _
    | with_reducible exact fun _ _ => rfl
    | ((with_reducible refine fun _ _ => banks_map ?_ _ _) <;> exact fun _ _ => rfl)
    | exact fun _ => rfl
    | exact fun _ _ => rfl
    | with_reducible apply Kept.upd

theorem State.setUnit_kept {pv : Bool} {s0 s : State} (k : Nat) (x : TallyUnit) (hk : Kept pv s0 s) :
    Kept pv s0 (State.setUnit s k x) := by
  dsimp only [State.setUnit]
  repeat' first
    | with_reducible assumption
    | split
    | with_reducible apply Kept.ite
    | with_reducible rfl
    | with_reducible exact fun x => x
    | with_reducible exact Nat.le_refl _
    | with_reducible exact List.prefix_rfl
    | with_reducible exact List.prefix_append _ _
    | with_reducible refine fun (hx : tabSorted _) => ?_
    | with_reducible apply tabSorted_map
    | with_reducible apply tabSorted_put
    | with_reducible apply tabSorted_erase
    | with_reducible apply tabSorted_filter
    | with_reducible exact tabSorted_nil
    | (show tabSorted _; assumption)
    | with_reducible exact ledgerOrdered_filter _
    | with_reducible exact fun hx => canon_filterRegs hx _
    | with_reducible exact fun _ _ => rfl
    | ((with_reducible refine fun _ _ => banks_map ?_ _ _) <;> exact fun _ _ => rfl)
    | exact fun _ => rfl
    | exact fun _ _ => rfl
    | with_reducible apply Kept.upd

theorem State.setOut_kept {pv : Bool} {s0 s : State} (n : Nat) (x : TideOut) (hk : Kept pv s0 s) :
    Kept pv s0 (State.setOut s n x) := by
  dsimp only [State.setOut]
  repeat' first
    | with_reducible assumption
    | split
    | with_reducible apply Kept.ite
    | with_reducible rfl
    | with_reducible exact fun x => x
    | with_reducible exact Nat.le_refl _
    | with_reducible exact List.prefix_rfl
    | with_reducible exact List.prefix_append _ _
    | with_reducible refine fun (hx : tabSorted _) => ?_
    | with_reducible apply tabSorted_map
    | with_reducible apply tabSorted_put
    | with_reducible apply tabSorted_erase
    | with_reducible apply tabSorted_filter
    | with_reducible exact tabSorted_nil
    | (show tabSorted _; assumption)
    | with_reducible exact ledgerOrdered_filter _
    | with_reducible exact fun hx => canon_filterRegs hx _
    | with_reducible exact fun _ _ => rfl
    | ((with_reducible refine fun _ _ => banks_map ?_ _ _) <;> exact fun _ _ => rfl)
    | exact fun _ => rfl
    | exact fun _ _ => rfl
    | with_reducible apply Kept.upd

theorem State.setCap_kept {pv : Bool} {s0 s : State} (n : Nat) (x : TideCap) (hk : Kept pv s0 s) :
    Kept pv s0 (State.setCap s n x) := by
  dsimp only [State.setCap]
  repeat' first
    | with_reducible assumption
    | split
    | with_reducible apply Kept.ite
    | with_reducible rfl
    | with_reducible exact fun x => x
    | with_reducible exact Nat.le_refl _
    | with_reducible exact List.prefix_rfl
    | with_reducible exact List.prefix_append _ _
    | with_reducible refine fun (hx : tabSorted _) => ?_
    | with_reducible apply tabSorted_map
    | with_reducible apply tabSorted_put
    | with_reducible apply tabSorted_erase
    | with_reducible apply tabSorted_filter
    | with_reducible exact tabSorted_nil
    | (show tabSorted _; assumption)
    | with_reducible exact ledgerOrdered_filter _
    | with_reducible exact fun hx => canon_filterRegs hx _
    | with_reducible exact fun _ _ => rfl
    | ((with_reducible refine fun _ _ => banks_map ?_ _ _) <;> exact fun _ _ => rfl)
    | exact fun _ => rfl
    | exact fun _ _ => rfl
    | with_reducible apply Kept.upd

theorem State.emit_kept {pv : Bool} {s0 s : State} (e : Egress) (hk : Kept pv s0 s) :
    Kept pv s0 (State.emit s e) := by
  dsimp only [State.emit]
  repeat' first
    | with_reducible assumption
    | split
    | with_reducible apply Kept.ite
    | with_reducible rfl
    | with_reducible exact fun x => x
    | with_reducible exact Nat.le_refl _
    | with_reducible exact List.prefix_rfl
    | with_reducible exact List.prefix_append _ _
    | with_reducible refine fun (hx : tabSorted _) => ?_
    | with_reducible apply tabSorted_map
    | with_reducible apply tabSorted_put
    | with_reducible apply tabSorted_erase
    | with_reducible apply tabSorted_filter
    | with_reducible exact tabSorted_nil
    | (show tabSorted _; assumption)
    | with_reducible exact ledgerOrdered_filter _
    | with_reducible exact fun hx => canon_filterRegs hx _
    | with_reducible exact fun _ _ => rfl
    | ((with_reducible refine fun _ _ => banks_map ?_ _ _) <;> exact fun _ _ => rfl)
    | exact fun _ => rfl
    | exact fun _ _ => rfl
    | with_reducible apply Kept.upd

theorem State.transmit_kept {pv : Bool} {s0 s : State} (p : Nat) (x : LinkTx) (hk : Kept pv s0 s) :
    Kept pv s0 (State.transmit s p x) := by
  dsimp only [State.transmit]
  repeat' first
    | with_reducible assumption
    | with_reducible apply State.modLink_kept
    | split
    | with_reducible apply Kept.ite

theorem State.sendFree_kept {pv : Bool} {s0 s : State} (p : Nat) (x : LinkTx) (hk : Kept pv s0 s) :
    Kept pv s0 (State.sendFree s p x) := by
  dsimp only [State.sendFree]
  repeat' first
    | with_reducible assumption
    | with_reducible apply State.modLink_kept
    | with_reducible apply State.transmit_kept
    | split
    | with_reducible apply Kept.ite
    | with_reducible rfl
    | with_reducible exact fun x => x
    | with_reducible exact Nat.le_refl _
    | with_reducible exact List.prefix_rfl
    | with_reducible exact List.prefix_append _ _
    | with_reducible refine fun (hx : tabSorted _) => ?_
    | with_reducible apply tabSorted_map
    | with_reducible apply tabSorted_put
    | with_reducible apply tabSorted_erase
    | with_reducible apply tabSorted_filter
    | with_reducible exact tabSorted_nil
    | (show tabSorted _; assumption)
    | with_reducible exact ledgerOrdered_filter _
    | with_reducible exact fun hx => canon_filterRegs hx _
    | with_reducible exact fun _ _ => rfl
    | ((with_reducible refine fun _ _ => banks_map ?_ _ _) <;> exact fun _ _ => rfl)
    | exact fun _ => rfl
    | exact fun _ _ => rfl
    | with_reducible apply Kept.upd

theorem State.sendLater_kept {pv : Bool} {s0 s : State} (p : Nat) (hk : Kept pv s0 s) :
    Kept pv s0 (State.sendLater s p) := by
  dsimp only [State.sendLater]
  repeat' first
    | with_reducible assumption
    | with_reducible apply State.modLink_kept
    | with_reducible apply State.sendFree_kept
    | with_reducible apply Kept.foldl
    | with_reducible apply Kept.foldlPair
    | split
    | with_reducible apply Kept.ite
    | with_reducible rfl
    | with_reducible exact fun x => x
    | with_reducible exact Nat.le_refl _
    | with_reducible exact List.prefix_rfl
    | with_reducible exact List.prefix_append _ _
    | with_reducible refine fun (hx : tabSorted _) => ?_
    | with_reducible apply tabSorted_map
    | with_reducible apply tabSorted_put
    | with_reducible apply tabSorted_erase
    | with_reducible apply tabSorted_filter
    | with_reducible exact tabSorted_nil
    | (show tabSorted _; assumption)
    | with_reducible exact ledgerOrdered_filter _
    | with_reducible exact fun hx => canon_filterRegs hx _
    | with_reducible exact fun _ _ => rfl
    | ((with_reducible refine fun _ _ => banks_map ?_ _ _) <;> exact fun _ _ => rfl)
    | exact fun _ => rfl
    | exact fun _ _ => rfl
    | (intro _ _ _)
    | (intro _ _)
    | dsimp only
    | dsimp only [id]
    | with_reducible apply Kept.upd

theorem State.cwaySend_kept {pv : Bool} {s0 s : State} (type : Nat) (last : Bool) (ring dseq : Nat) (body : List Byte) (hk : Kept pv s0 s) :
    Kept pv s0 (State.cwaySend s type last ring dseq body) := by
  dsimp only [State.cwaySend]
  repeat' first
    | with_reducible assumption
    | split
    | with_reducible apply Kept.ite
    | with_reducible rfl
    | with_reducible exact fun x => x
    | with_reducible exact Nat.le_refl _
    | with_reducible exact List.prefix_rfl
    | with_reducible exact List.prefix_append _ _
    | with_reducible refine fun (hx : tabSorted _) => ?_
    | with_reducible apply tabSorted_map
    | with_reducible apply tabSorted_put
    | with_reducible apply tabSorted_erase
    | with_reducible apply tabSorted_filter
    | with_reducible exact tabSorted_nil
    | (show tabSorted _; assumption)
    | with_reducible exact ledgerOrdered_filter _
    | with_reducible exact fun hx => canon_filterRegs hx _
    | with_reducible exact fun _ _ => rfl
    | ((with_reducible refine fun _ _ => banks_map ?_ _ _) <;> exact fun _ _ => rfl)
    | exact fun _ => rfl
    | exact fun _ _ => rfl
    | with_reducible apply Kept.upd

theorem State.fltDrop_kept {pv : Bool} {s0 s : State}  (hk : Kept pv s0 s) :
    Kept pv s0 (State.fltDrop s) := by
  dsimp only [State.fltDrop]
  repeat' first
    | with_reducible assumption
    | with_reducible apply State.count_kept
    | split
    | with_reducible apply Kept.ite

theorem State.fltStore_kept {pv : Bool} {s0 s : State} (sev : Nat) (bytes : List Byte) (hk : Kept pv s0 s) :
    Kept pv s0 (State.fltStore s sev bytes) := by
  dsimp only [State.fltStore]
  repeat' first
    | with_reducible assumption
    | with_reducible apply State.emit_kept
    | with_reducible apply State.fltDrop_kept
    | split
    | with_reducible apply Kept.ite
    | with_reducible rfl
    | with_reducible exact fun x => x
    | with_reducible exact Nat.le_refl _
    | with_reducible exact List.prefix_rfl
    | with_reducible exact List.prefix_append _ _
    | with_reducible refine fun (hx : tabSorted _) => ?_
    | with_reducible apply tabSorted_map
    | with_reducible apply tabSorted_put
    | with_reducible apply tabSorted_erase
    | with_reducible apply tabSorted_filter
    | with_reducible exact tabSorted_nil
    | (show tabSorted _; assumption)
    | with_reducible exact ledgerOrdered_filter _
    | with_reducible exact fun hx => canon_filterRegs hx _
    | with_reducible exact fun _ _ => rfl
    | ((with_reducible refine fun _ _ => banks_map ?_ _ _) <;> exact fun _ _ => rfl)
    | exact fun _ => rfl
    | exact fun _ _ => rfl
    | with_reducible apply Kept.upd

theorem State.makeRecord_kept {pv : Bool} {s0 s : State} (r : Raised) (hk : Kept pv s0 s) :
    Kept pv s0 (State.makeRecord s r) := by
  dsimp only [State.makeRecord]
  repeat' first
    | with_reducible assumption
    | with_reducible apply State.count_kept
    | with_reducible apply State.emit_kept
    | with_reducible apply State.cwaySend_kept
    | with_reducible apply State.fltStore_kept
    | with_reducible apply Kept.foldl
    | with_reducible apply Kept.foldlPair
    | split
    | with_reducible apply Kept.ite
    | with_reducible rfl
    | with_reducible exact fun x => x
    | with_reducible exact Nat.le_refl _
    | with_reducible exact List.prefix_rfl
    | with_reducible exact List.prefix_append _ _
    | with_reducible refine fun (hx : tabSorted _) => ?_
    | with_reducible apply tabSorted_map
    | with_reducible apply tabSorted_put
    | with_reducible apply tabSorted_erase
    | with_reducible apply tabSorted_filter
    | with_reducible exact tabSorted_nil
    | (show tabSorted _; assumption)
    | with_reducible exact ledgerOrdered_filter _
    | with_reducible exact fun hx => canon_filterRegs hx _
    | with_reducible exact fun _ _ => rfl
    | ((with_reducible refine fun _ _ => banks_map ?_ _ _) <;> exact fun _ _ => rfl)
    | exact fun _ => rfl
    | exact fun _ _ => rfl
    | (refine fun (a : _ → _ = true) b => ?_; simp [a b])
    | (intro _ _ _)
    | (intro _ _)
    | dsimp only
    | dsimp only [id]
    | with_reducible apply Kept.upd

theorem State.raiseCore_kept {pv : Bool} {s0 s : State} (force : Bool) (e : ErrRec) (hk : Kept pv s0 s) :
    Kept pv s0 (State.raiseCore s force e) := by
  dsimp only [State.raiseCore]
  repeat' first
    | with_reducible assumption
    | split
    | with_reducible apply Kept.ite
    | with_reducible rfl
    | with_reducible exact fun x => x
    | with_reducible exact Nat.le_refl _
    | with_reducible exact List.prefix_rfl
    | with_reducible exact List.prefix_append _ _
    | with_reducible refine fun (hx : tabSorted _) => ?_
    | with_reducible apply tabSorted_map
    | with_reducible apply tabSorted_put
    | with_reducible apply tabSorted_erase
    | with_reducible apply tabSorted_filter
    | with_reducible exact tabSorted_nil
    | (show tabSorted _; assumption)
    | with_reducible exact ledgerOrdered_filter _
    | with_reducible exact fun hx => canon_filterRegs hx _
    | with_reducible exact fun _ _ => rfl
    | ((with_reducible refine fun _ _ => banks_map ?_ _ _) <;> exact fun _ _ => rfl)
    | exact fun _ => rfl
    | exact fun _ _ => rfl
    | with_reducible apply Kept.upd

theorem State.endCycle_kept {pv : Bool} {s0 s : State}  (hk : Kept pv s0 s) :
    Kept pv s0 (State.endCycle s) := by
  dsimp only [State.endCycle]
  repeat' first
    | with_reducible assumption
    | with_reducible apply State.makeRecord_kept
    | with_reducible apply Kept.foldl
    | with_reducible apply Kept.foldlPair
    | split
    | with_reducible apply Kept.ite
    | with_reducible rfl
    | with_reducible exact fun x => x
    | with_reducible exact Nat.le_refl _
    | with_reducible exact List.prefix_rfl
    | with_reducible exact List.prefix_append _ _
    | with_reducible refine fun (hx : tabSorted _) => ?_
    | with_reducible apply tabSorted_map
    | with_reducible apply tabSorted_put
    | with_reducible apply tabSorted_erase
    | with_reducible apply tabSorted_filter
    | with_reducible exact tabSorted_nil
    | (show tabSorted _; assumption)
    | with_reducible exact ledgerOrdered_filter _
    | with_reducible exact fun hx => canon_filterRegs hx _
    | with_reducible exact fun _ _ => rfl
    | ((with_reducible refine fun _ _ => banks_map ?_ _ _) <;> exact fun _ _ => rfl)
    | exact fun _ => rfl
    | exact fun _ _ => rfl
    | (intro _ _ _)
    | (intro _ _)
    | dsimp only
    | dsimp only [id]
    | with_reducible apply Kept.upd

theorem State.takeRole_kept {pv : Bool} {s0 s : State} (r : Role) (hk : Kept pv s0 s) :
    Kept pv s0 (State.takeRole s r) := by
  dsimp only [State.takeRole]
  repeat' first
    | with_reducible assumption
    | with_reducible apply State.raiseCore_kept
    | split
    | with_reducible apply Kept.ite
    | with_reducible rfl
    | with_reducible exact fun x => x
    | with_reducible exact Nat.le_refl _
    | with_reducible exact List.prefix_rfl
    | with_reducible exact List.prefix_append _ _
    | with_reducible refine fun (hx : tabSorted _) => ?_
    | with_reducible apply tabSorted_map
    | with_reducible apply tabSorted_put
    | with_reducible apply tabSorted_erase
    | with_reducible apply tabSorted_filter
    | with_reducible exact tabSorted_nil
    | (show tabSorted _; assumption)
    | with_reducible exact ledgerOrdered_filter _
    | with_reducible exact fun hx => canon_filterRegs hx _
    | with_reducible exact fun _ _ => rfl
    | ((with_reducible refine fun _ _ => banks_map ?_ _ _) <;> exact fun _ _ => rfl)
    | exact fun _ => rfl
    | exact fun _ _ => rfl
    | with_reducible apply Kept.upd

theorem State.sendLease_kept {pv : Bool} {s0 s : State} (p act epoch : Nat) (hk : Kept pv s0 s) :
    Kept pv s0 (State.sendLease s p act epoch) := by
  dsimp only [State.sendLease]
  repeat' first
    | with_reducible assumption
    | with_reducible apply State.sendFree_kept
    | split
    | with_reducible apply Kept.ite

theorem State.resignLease_kept {pv : Bool} {s0 s : State} (p : Nat) (hk : Kept pv s0 s) :
    Kept pv s0 (State.resignLease s p) := by
  dsimp only [State.resignLease]
  repeat' first
    | with_reducible assumption
    | with_reducible apply State.modLink_kept
    | with_reducible apply State.sendLease_kept
    | split
    | with_reducible apply Kept.ite
    | with_reducible rfl
    | with_reducible exact fun x => x
    | with_reducible exact Nat.le_refl _
    | with_reducible exact List.prefix_rfl
    | with_reducible exact List.prefix_append _ _
    | with_reducible refine fun (hx : tabSorted _) => ?_
    | with_reducible apply tabSorted_map
    | with_reducible apply tabSorted_put
    | with_reducible apply tabSorted_erase
    | with_reducible apply tabSorted_filter
    | with_reducible exact tabSorted_nil
    | (show tabSorted _; assumption)
    | with_reducible exact ledgerOrdered_filter _
    | with_reducible exact fun hx => canon_filterRegs hx _
    | with_reducible exact fun _ _ => rfl
    | ((with_reducible refine fun _ _ => banks_map ?_ _ _) <;> exact fun _ _ => rfl)
    | exact fun _ => rfl
    | exact fun _ _ => rfl
    | with_reducible apply Kept.upd

theorem State.enterFailed_kept {pv : Bool} {s0 s : State}  (hk : Kept pv s0 s) :
    Kept pv s0 (State.enterFailed s) := by
  dsimp only [State.enterFailed]
  repeat' first
    | with_reducible assumption
    | with_reducible apply State.takeRole_kept
    | with_reducible apply State.resignLease_kept
    | with_reducible apply Kept.forN
    | split
    | with_reducible apply Kept.ite
    | with_reducible rfl
    | with_reducible exact fun x => x
    | with_reducible exact Nat.le_refl _
    | with_reducible exact List.prefix_rfl
    | with_reducible exact List.prefix_append _ _
    | with_reducible refine fun (hx : tabSorted _) => ?_
    | with_reducible apply tabSorted_map
    | with_reducible apply tabSorted_put
    | with_reducible apply tabSorted_erase
    | with_reducible apply tabSorted_filter
    | with_reducible exact tabSorted_nil
    | (show tabSorted _; assumption)
    | with_reducible exact ledgerOrdered_filter _
    | with_reducible exact fun hx => canon_filterRegs hx _
    | with_reducible exact fun _ _ => rfl
    | ((with_reducible refine fun _ _ => banks_map ?_ _ _) <;> exact fun _ _ => rfl)
    | exact fun _ => rfl
    | exact fun _ _ => rfl
    | (intro _ _ _)
    | (intro _ _)
    | dsimp only
    | dsimp only [id]
    | with_reducible apply Kept.upd

theorem State.enterFatal_kept {pv : Bool} {s0 s : State}  (hk : Kept pv s0 s) :
    Kept pv s0 (State.enterFatal s) := by
  dsimp only [State.enterFatal]
  repeat' first
    | with_reducible assumption
    | with_reducible apply State.enterFailed_kept
    | split
    | with_reducible apply Kept.ite
    | with_reducible rfl
    | with_reducible exact fun x => x
    | with_reducible exact Nat.le_refl _
    | with_reducible exact List.prefix_rfl
    | with_reducible exact List.prefix_append _ _
    | with_reducible refine fun (hx : tabSorted _) => ?_
    | with_reducible apply tabSorted_map
    | with_reducible apply tabSorted_put
    | with_reducible apply tabSorted_erase
    | with_reducible apply tabSorted_filter
    | with_reducible exact tabSorted_nil
    | (show tabSorted _; assumption)
    | with_reducible exact ledgerOrdered_filter _
    | with_reducible exact fun hx => canon_filterRegs hx _
    | with_reducible exact fun _ _ => rfl
    | ((with_reducible refine fun _ _ => banks_map ?_ _ _) <;> exact fun _ _ => rfl)
    | exact fun _ => rfl
    | exact fun _ _ => rfl
    | with_reducible apply Kept.upd

theorem State.raise_kept {pv : Bool} {s0 s : State} (e : ErrRec) (hk : Kept pv s0 s) :
    Kept pv s0 (State.raise s e) := by
  dsimp only [State.raise]
  repeat' first
    | with_reducible assumption
    | with_reducible apply State.raiseCore_kept
    | with_reducible apply State.enterFatal_kept
    | split
    | with_reducible apply Kept.ite

theorem State.draw_kept {pv : Bool} {s0 s : State}  (hk : Kept pv s0 s) :
    Kept pv s0 (State.draw s) := by
  dsimp only [State.draw]
  repeat' first
    | with_reducible assumption
    | split
    | with_reducible apply Kept.ite
    | with_reducible rfl
    | with_reducible exact fun x => x
    | with_reducible exact Nat.le_refl _
    | with_reducible exact List.prefix_rfl
    | with_reducible exact List.prefix_append _ _
    | with_reducible refine fun (hx : tabSorted _) => ?_
    | with_reducible apply tabSorted_map
    | with_reducible apply tabSorted_put
    | with_reducible apply tabSorted_erase
    | with_reducible apply tabSorted_filter
    | with_reducible exact tabSorted_nil
    | (show tabSorted _; assumption)
    | with_reducible exact ledgerOrdered_filter _
    | with_reducible exact fun hx => canon_filterRegs hx _
    | with_reducible exact fun _ _ => rfl
    | ((with_reducible refine fun _ _ => banks_map ?_ _ _) <;> exact fun _ _ => rfl)
    | exact fun _ => rfl
    | exact fun _ _ => rfl
    | with_reducible apply Kept.upd

end Sys2Proof.Machine
end

