-- ==== Sys2Proof/Laws/KeptObjects.lean ====
section
/-! SUPPORT. Every operation of Machine/Objects.lean keeps what `Kept` says. -/

set_option linter.unusedTactic false
set_option linter.unreachableTactic false
set_option maxHeartbeats 200000
namespace Sys2Proof.Machine

theorem State.setObj_kept {pv : Bool} {s0 s : State} (o : Obj) (hk : Kept pv s0 s) :
    Kept pv s0 (State.setObj s o) := by
  dsimp only [State.setObj]
  repeat' first
    | with_reducible assumption
    | split
    | with_reducible apply Kept.ite
    | with_reducible rfl
    | with_reducible exact fun x => x
    | with_reducible exact Nat.le_refl _
    | with_reducible exact List.prefix_rfl
    | with_reducible exact List.prefix_append _ _
    | with_reducible refine fun (hx : tabSorted _) => ?_
    | with_reducible apply tabSorted_map
    | with_reducible apply tabSorted_put
    | with_reducible apply tabSorted_erase
    | with_reducible apply tabSorted_filter
    | with_reducible exact tabSorted_nil
    | (show tabSorted _; assumption)
    | with_reducible exact ledgerOrdered_filter _
    | with_reducible exact fun hx => canon_filterRegs hx _
    | with_reducible exact fun _ _ => rfl
    | ((with_reducible refine fun _ _ => banks_map ?_ _ _) <;> exact fun _ _ => rfl)
    | exact fun _ => rfl
    | exact fun _ _ => rfl
    | with_reducible apply Kept.upd

theorem State.modObj_kept {pv : Bool} {s0 s : State} (a : Nat) (f : Obj → Obj) (h : Kept pv s0 s) : Kept pv s0 (s.modObj a f) := by
  unfold State.modObj
  split
  · exact State.setObj_kept _ h
  · exact h

theorem State.takeTiles_kept {pv : Bool} {s0 : State} (n : Nat) {s : State} (h : Kept pv s0 s) : Kept pv s0 (State.takeTiles n s).2 := by
  induction n generalizing s with
  | zero => exact h
  | succ n ih =>
    refine ih ?_
    (with_reducible apply Kept.upd (s := s)) <;> first | exact h | exact List.prefix_rfl | exact Nat.le_refl _ | rfl | exact fun _ => rfl | exact fun _ _ => rfl | exact id

theorem State.rehome_kept {pv : Bool} {s0 s : State} (t : Nat) (hk : Kept pv s0 s) :
    Kept pv s0 (State.rehome s t) := by
  dsimp only [State.rehome]
  repeat' first
    | with_reducible assumption
    | split
    | with_reducible apply Kept.ite
    | with_reducible rfl
    | with_reducible exact fun x => x
    | with_reducible exact Nat.le_refl _
    | with_reducible exact List.prefix_rfl
    | with_reducible exact List.prefix_append _ _
    | with_reducible refine fun (hx : tabSorted _) => ?_
    | with_reducible apply tabSorted_map
    | with_reducible apply tabSorted_put
    | with_reducible apply tabSorted_erase
    | with_reducible apply tabSorted_filter
    | with_reducible exact tabSorted_nil
    | (show tabSorted _; assumption)
    | with_reducible exact ledgerOrdered_filter _
    | with_reducible exact fun hx => canon_filterRegs hx _
    | with_reducible exact fun _ _ => rfl
    | ((with_reducible refine fun _ _ => banks_map ?_ _ _) <;> exact fun _ _ => rfl)
    | exact fun _ => rfl
    | exact fun _ _ => rfl
    | with_reducible apply Kept.upd

theorem State.peaks_kept {pv : Bool} {s0 s : State}  (hk : Kept pv s0 s) :
    Kept pv s0 (State.peaks s) := by
  dsimp only [State.peaks]
  repeat' first
    | with_reducible assumption
    | split
    | with_reducible apply Kept.ite
    | with_reducible rfl
    | with_reducible exact fun x => x
    | with_reducible exact Nat.le_refl _
    | with_reducible exact List.prefix_rfl
    | with_reducible exact List.prefix_append _ _
    | with_reducible refine fun (hx : tabSorted _) => ?_
    | with_reducible apply tabSorted_map
    | with_reducible apply tabSorted_put
    | with_reducible apply tabSorted_erase
    | with_reducible apply tabSorted_filter
    | with_reducible exact tabSorted_nil
    | (show tabSorted _; assumption)
    | with_reducible exact ledgerOrdered_filter _
    | with_reducible exact fun hx => canon_filterRegs hx _
    | with_reducible exact fun _ _ => rfl
    | ((with_reducible refine fun _ _ => banks_map ?_ _ _) <;> exact fun _ _ => rfl)
    | exact fun _ => rfl
    | exact fun _ _ => rfl
    | with_reducible apply Kept.upd

theorem State.sweepTiles_kept {pv : Bool} {s0 s : State}  (hk : Kept pv s0 s) :
    Kept pv s0 (State.sweepTiles s) := by
  dsimp only [State.sweepTiles]
  repeat' first
    | with_reducible assumption
    | split
    | with_reducible apply Kept.ite
    | with_reducible rfl
    | with_reducible exact fun x => x
    | with_reducible exact Nat.le_refl _
    | with_reducible exact List.prefix_rfl
    | with_reducible exact List.prefix_append _ _
    | with_reducible refine fun (hx : tabSorted _) => ?_
    | with_reducible apply tabSorted_map
    | with_reducible apply tabSorted_put
    | with_reducible apply tabSorted_erase
    | with_reducible apply tabSorted_filter
    | with_reducible exact tabSorted_nil
    | (show tabSorted _; assumption)
    | with_reducible exact ledgerOrdered_filter _
    | with_reducible exact fun hx => canon_filterRegs hx _
    | with_reducible exact fun _ _ => rfl
    | ((with_reducible refine fun _ _ => banks_map ?_ _ _) <;> exact fun _ _ => rfl)
    | exact fun _ => rfl
    | exact fun _ _ => rfl
    | (refine ledgerOrdered_map fun e => ?_; split <;> first | rfl | (split <;> rfl))
    | with_reducible apply Kept.upd

theorem State.sweep_kept {pv : Bool} {s0 s : State}  (hk : Kept pv s0 s) :
    Kept pv s0 (State.sweep s) := by
  dsimp only [State.sweep]
  repeat' first
    | with_reducible assumption
    | with_reducible apply State.sweepTiles_kept
    | split
    | with_reducible apply Kept.ite
    | with_reducible rfl
    | with_reducible exact fun x => x
    | with_reducible exact Nat.le_refl _
    | with_reducible exact List.prefix_rfl
    | with_reducible exact List.prefix_append _ _
    | with_reducible refine fun (hx : tabSorted _) => ?_
    | with_reducible apply tabSorted_map
    | with_reducible apply tabSorted_put
    | with_reducible apply tabSorted_erase
    | with_reducible apply tabSorted_filter
    | with_reducible exact tabSorted_nil
    | (show tabSorted _; assumption)
    | with_reducible exact ledgerOrdered_filter _
    | with_reducible exact fun hx => canon_filterRegs hx _
    | with_reducible exact fun _ _ => rfl
    | ((with_reducible refine fun _ _ => banks_map ?_ _ _) <;> exact fun _ _ => rfl)
    | exact fun _ => rfl
    | exact fun _ _ => rfl
    | with_reducible apply Kept.upd

theorem State.createAt_kept {pv : Bool} {s0 s : State} (fn idx cls hint fmt w hh size : Nat) (zero : Bool) (h : Kept pv s0 s) :
    Kept pv s0 (s.createAt fn idx cls hint fmt w hh size zero).2 := by
  unfold State.createAt
  exact State.peaks_kept (State.setObj_kept _ (State.takeTiles_kept _ (State.draw_kept h)))

theorem State.create_kept {pv : Bool} {s0 s : State} (fn cls hint fmt w hh size : Nat) (zero : Bool) (h : Kept pv s0 s) :
    Kept pv s0 (s.create fn cls hint fmt w hh size zero).2 := by
  unfold State.create
  exact State.createAt_kept _ _ _ _ _ _ _ _ _ (State.draw_kept h)

theorem State.releaseObj_kept {pv : Bool} {s0 s : State} (h : Nat) (hk : Kept pv s0 s) :
    Kept pv s0 (State.releaseObj s h) := by
  dsimp only [State.releaseObj]
  repeat' first
    | with_reducible assumption
    | with_reducible apply State.modObj_kept
    | with_reducible apply State.sweep_kept
    | split
    | with_reducible apply Kept.ite
    | with_reducible rfl
    | with_reducible exact fun x => x
    | with_reducible exact Nat.le_refl _
    | with_reducible exact List.prefix_rfl
    | with_reducible exact List.prefix_append _ _
    | with_reducible refine fun (hx : tabSorted _) => ?_
    | with_reducible apply tabSorted_map
    | with_reducible apply tabSorted_put
    | with_reducible apply tabSorted_erase
    | with_reducible apply tabSorted_filter
    | with_reducible exact tabSorted_nil
    | (show tabSorted _; assumption)
    | with_reducible exact ledgerOrdered_filter _
    | with_reducible exact fun hx => canon_filterRegs hx _
    | with_reducible exact fun _ _ => rfl
    | ((with_reducible refine fun _ _ => banks_map ?_ _ _) <;> exact fun _ _ => rfl)
    | exact fun _ => rfl
    | exact fun _ _ => rfl
    | with_reducible apply Kept.upd

theorem State.reserve_kept {pv : Bool} {s0 s : State} (o : Obj) (ts : List Nat) (h : Kept pv s0 s) : Kept pv s0 (s.reserve o ts).2 :=
  State.peaks_kept (State.takeTiles_kept _ h)

end Sys2Proof.Machine
end

