-- ==== Sys2Proof/Laws/KeptLedger.lean ====
section
/-! SUPPORT. Every operation of Machine/Ledger.lean keeps what `Kept` says. -/

set_option linter.unusedTactic false
set_option linter.unreachableTactic false
set_option maxHeartbeats 200000
namespace Sys2Proof.Machine

theorem State.modEntry_kept {pv : Bool} {s0 s : State} (id : Nat) (f : Entry → Entry) (hf : ∀ e, (f e).id = e.id) (h : Kept pv s0 s) :
    Kept pv s0 (s.modEntry id f) := by
  unfold State.modEntry
  refine Kept.upd (s := s) List.prefix_rfl (fun x => x) (fun x => x) (Nat.le_refl _) rfl (fun _ => rfl) (fun _ _ => rfl) (fun x => x) (fun x => x) (fun x => x) (fun x => x) (fun x => x) (fun x => x) (fun x => x) (fun x => x) (fun x => x) (fun x => x) (fun x => x) (fun x => x) (fun x => x) (fun x => x) ?_ h
  exact ledgerOrdered_map fun e => by split <;> simp [hf]

theorem State.dropEntry_kept {pv : Bool} {s0 s : State} (id : Nat) (hk : Kept pv s0 s) :
    Kept pv s0 (State.dropEntry s id) := by
  dsimp only [State.dropEntry]
  repeat' first
    | with_reducible assumption
    | split
    | with_reducible apply Kept.ite
    | with_reducible rfl
    | with_reducible exact fun x => x
    | with_reducible exact Nat.le_refl _
    | with_reducible exact List.prefix_rfl
    | with_reducible exact List.prefix_append _ _
    | with_reducible refine fun (hx : tabSorted _) => ?_
    | with_reducible apply tabSorted_map
    | with_reducible apply tabSorted_put
    | with_reducible apply tabSorted_erase
    | with_reducible apply tabSorted_filter
    | with_reducible exact tabSorted_nil
    | (show tabSorted _; assumption)
    | with_reducible exact ledgerOrdered_filter _
    | with_reducible exact fun hx => canon_filterRegs hx _
    | with_reducible exact fun _ _ => rfl
    | ((with_reducible refine fun _ _ => banks_map ?_ _ _) <;> exact fun _ _ => rfl)
    | exact fun _ => rfl
    | exact fun _ _ => rfl
    | with_reducible apply Kept.upd

theorem State.breakLog_kept {pv : Bool} {s0 s : State}  (hk : Kept pv s0 s) :
    Kept pv s0 (State.breakLog s) := by
  dsimp only [State.breakLog]
  repeat' first
    | with_reducible assumption
    | with_reducible apply State.count_kept
    | split
    | with_reducible apply Kept.ite
    | with_reducible rfl
    | with_reducible exact fun x => x
    | with_reducible exact Nat.le_refl _
    | with_reducible exact List.prefix_rfl
    | with_reducible exact List.prefix_append _ _
    | with_reducible refine fun (hx : tabSorted _) => ?_
    | with_reducible apply tabSorted_map
    | with_reducible apply tabSorted_put
    | with_reducible apply tabSorted_erase
    | with_reducible apply tabSorted_filter
    | with_reducible exact tabSorted_nil
    | (show tabSorted _; assumption)
    | with_reducible exact ledgerOrdered_filter _
    | with_reducible exact fun hx => canon_filterRegs hx _
    | with_reducible exact fun _ _ => rfl
    | ((with_reducible refine fun _ _ => banks_map ?_ _ _) <;> exact fun _ _ => rfl)
    | exact fun _ => rfl
    | exact fun _ _ => rfl
    | with_reducible apply Kept.upd

theorem State.logRecord_kept {pv : Bool} {s0 s : State} (type : Nat) (last : Bool) (ring dseq : Nat) (body : List Byte) (hk : Kept pv s0 s) :
    Kept pv s0 (State.logRecord s type last ring dseq body) := by
  dsimp only [State.logRecord]
  repeat' first
    | with_reducible assumption
    | with_reducible apply State.setReg_kept
    | with_reducible apply State.cwaySend_kept
    | with_reducible apply State.breakLog_kept
    | split
    | with_reducible apply Kept.ite
    | with_reducible rfl
    | with_reducible exact fun x => x
    | with_reducible exact Nat.le_refl _
    | with_reducible exact List.prefix_rfl
    | with_reducible exact List.prefix_append _ _
    | with_reducible refine fun (hx : tabSorted _) => ?_
    | with_reducible apply tabSorted_map
    | with_reducible apply tabSorted_put
    | with_reducible apply tabSorted_erase
    | with_reducible apply tabSorted_filter
    | with_reducible exact tabSorted_nil
    | (show tabSorted _; assumption)
    | with_reducible exact ledgerOrdered_filter _
    | with_reducible exact fun hx => canon_filterRegs hx _
    | with_reducible exact fun _ _ => rfl
    | ((with_reducible refine fun _ _ => banks_map ?_ _ _) <;> exact fun _ _ => rfl)
    | exact fun _ => rfl
    | exact fun _ _ => rfl
    | with_reducible apply Kept.upd

theorem State.logData_kept {pv : Bool} {s0 s : State} (d : Desc) (off : Nat) (data : List Byte) (hk : Kept pv s0 s) :
    Kept pv s0 (State.logData s d off data) := by
  dsimp only [State.logData]
  repeat' first
    | with_reducible assumption
    | with_reducible apply State.logRecord_kept
    | with_reducible apply Kept.forN
    | split
    | with_reducible apply Kept.ite
    | (intro _ _ _)
    | (intro _ _)
    | dsimp only
    | dsimp only [id]

theorem State.logApply_kept {pv : Bool} {s0 s : State} (d : Desc) (port kind frame : Nat) (hk : Kept pv s0 s) :
    Kept pv s0 (State.logApply s d port kind frame) := by
  dsimp only [State.logApply]
  repeat' first
    | with_reducible assumption
    | with_reducible apply State.logRecord_kept
    | split
    | with_reducible apply Kept.ite

theorem State.nextId_modObjs (vs : List (Nat × Nat)) (g : Nat × Nat → Obj → Obj) (s : State) :
    (vs.foldl (fun s v => s.modObj v.1 (g v)) s).nextId = s.nextId := by
  induction vs generalizing s with
  | nil => rfl
  | cons v vs ih =>
    rw [List.foldl_cons, ih]
    unfold State.modObj State.setObj
    split <;> rfl

theorem State.accept_kept {pv : Bool} {s0 s : State} (d : Desc) (job : Job) (surfaces : List Nat) (mirrored : Bool) (h : Kept pv s0 s) :
    Kept pv s0 (s.accept d job surfaces mirrored) := by
  unfold State.accept
  have key : ∀ (t : State) (e : Entry) (n : Nat), Kept pv s0 t → e.id = t.nextId →
      Kept pv s0 { t with ledger := t.ledger ++ [e], nextId := t.nextId + 1, ledgerPeak := n } := fun t e n ht he =>
    Kept.upd (s := t) List.prefix_rfl id id (Nat.le_refl _) rfl (fun _ => rfl) (fun _ _ => rfl) id id id id id id id id id id id id id id (ledgerOrdered_append e he) ht
  refine State.logRecord_kept _ _ _ _ _ ?_
  have fold : ∀ (vs : List (Nat × Nat)), Kept pv s0 (vs.foldl (fun s v => s.modObj v.1 fun o => { o with given := v.2 }) s) :=
    fun vs => Kept.foldl (fun t x ht => State.modObj_kept _ _ ht) vs h
  have next := fun (vs : List (Nat × Nat)) => State.nextId_modObjs vs (fun v o => { o with given := v.2 }) s
  split
  · exact key _ _ _ (fold _) (next _).symm
  · exact State.modRing_kept _ _ (key _ _ _ (fold _) (next _).symm)

theorem State.refreshCommits_kept {pv : Bool} {s0 s : State}  (hk : Kept pv s0 s) :
    Kept pv s0 (State.refreshCommits s) := by
  dsimp only [State.refreshCommits]
  repeat' first
    | with_reducible assumption
    | split
    | with_reducible apply Kept.ite
    | with_reducible rfl
    | with_reducible exact fun x => x
    | with_reducible exact Nat.le_refl _
    | with_reducible exact List.prefix_rfl
    | with_reducible exact List.prefix_append _ _
    | with_reducible refine fun (hx : tabSorted _) => ?_
    | with_reducible apply tabSorted_map
    | with_reducible apply tabSorted_put
    | with_reducible apply tabSorted_erase
    | with_reducible apply tabSorted_filter
    | with_reducible exact tabSorted_nil
    | (show tabSorted _; assumption)
    | with_reducible exact ledgerOrdered_filter _
    | with_reducible exact fun hx => canon_filterRegs hx _
    | with_reducible exact fun _ _ => rfl
    | ((with_reducible refine fun _ _ => banks_map ?_ _ _) <;> exact fun _ _ => rfl)
    | exact fun _ => rfl
    | exact fun _ _ => rfl
    | with_reducible apply Kept.upd

theorem State.writeCpl_kept {pv : Bool} {s0 s : State} (d : Desc) (signal : Bool) (status detail ns r0 r1 : Nat) (hk : Kept pv s0 s) :
    Kept pv s0 (State.writeCpl s d signal status detail ns r0 r1) := by
  dsimp only [State.writeCpl]
  repeat' first
    | with_reducible assumption
    | with_reducible apply State.emit_kept
    | split
    | with_reducible apply Kept.ite

theorem State.reject_kept {pv : Bool} {s0 s : State} (d : Desc) (f : Fail) (hk : Kept pv s0 s) :
    Kept pv s0 (State.reject s d f) := by
  dsimp only [State.reject]
  repeat' first
    | with_reducible assumption
    | with_reducible apply State.modRing_kept
    | with_reducible apply State.writeCpl_kept
    | split
    | with_reducible apply Kept.ite
    | with_reducible rfl
    | with_reducible exact fun x => x
    | with_reducible exact Nat.le_refl _
    | with_reducible exact List.prefix_rfl
    | with_reducible exact List.prefix_append _ _
    | with_reducible refine fun (hx : tabSorted _) => ?_
    | with_reducible apply tabSorted_map
    | with_reducible apply tabSorted_put
    | with_reducible apply tabSorted_erase
    | with_reducible apply tabSorted_filter
    | with_reducible exact tabSorted_nil
    | (show tabSorted _; assumption)
    | with_reducible exact ledgerOrdered_filter _
    | with_reducible exact fun hx => canon_filterRegs hx _
    | with_reducible exact fun _ _ => rfl
    | ((with_reducible refine fun _ _ => banks_map ?_ _ _) <;> exact fun _ _ => rfl)
    | exact fun _ => rfl
    | exact fun _ _ => rfl
    | with_reducible apply Kept.upd

theorem State.drained_kept {pv : Bool} {s0 s : State} (r : Nat) (hk : Kept pv s0 s) :
    Kept pv s0 (State.drained s r) := by
  dsimp only [State.drained]
  repeat' first
    | with_reducible assumption
    | with_reducible apply State.modRing_kept
    | split
    | with_reducible apply Kept.ite
    | with_reducible rfl
    | with_reducible exact fun x => x
    | with_reducible exact Nat.le_refl _
    | with_reducible exact List.prefix_rfl
    | with_reducible exact List.prefix_append _ _
    | with_reducible refine fun (hx : tabSorted _) => ?_
    | with_reducible apply tabSorted_map
    | with_reducible apply tabSorted_put
    | with_reducible apply tabSorted_erase
    | with_reducible apply tabSorted_filter
    | with_reducible exact tabSorted_nil
    | (show tabSorted _; assumption)
    | with_reducible exact ledgerOrdered_filter _
    | with_reducible exact fun hx => canon_filterRegs hx _
    | with_reducible exact fun _ _ => rfl
    | ((with_reducible refine fun _ _ => banks_map ?_ _ _) <;> exact fun _ _ => rfl)
    | exact fun _ => rfl
    | exact fun _ _ => rfl
    | with_reducible apply Kept.upd

theorem State.noteReplay_kept {pv : Bool} {s0 s : State} (d : Desc) (status : Nat) (hk : Kept pv s0 s) :
    Kept pv s0 (State.noteReplay s d status) := by
  dsimp only [State.noteReplay]
  repeat' first
    | with_reducible assumption
    | split
    | with_reducible apply Kept.ite
    | with_reducible rfl
    | with_reducible exact fun x => x
    | with_reducible exact Nat.le_refl _
    | with_reducible exact List.prefix_rfl
    | with_reducible exact List.prefix_append _ _
    | with_reducible refine fun (hx : tabSorted _) => ?_
    | with_reducible apply tabSorted_map
    | with_reducible apply tabSorted_put
    | with_reducible apply tabSorted_erase
    | with_reducible apply tabSorted_filter
    | with_reducible exact tabSorted_nil
    | (show tabSorted _; assumption)
    | with_reducible exact ledgerOrdered_filter _
    | with_reducible exact fun hx => canon_filterRegs hx _
    | with_reducible exact fun _ _ => rfl
    | ((with_reducible refine fun _ _ => banks_map ?_ _ _) <;> exact fun _ _ => rfl)
    | exact fun _ => rfl
    | exact fun _ _ => rfl
    | with_reducible apply Kept.upd

theorem State.spoilVersions_kept {pv : Bool} {s0 s : State} (e : Entry) (status : Nat) (hk : Kept pv s0 s) :
    Kept pv s0 (State.spoilVersions s e status) := by
  dsimp only [State.spoilVersions]
  repeat' first
    | with_reducible assumption
    | with_reducible apply State.modObj_kept
    | with_reducible apply Kept.foldl
    | with_reducible apply Kept.foldlPair
    | split
    | with_reducible apply Kept.ite
    | (intro _ _ _)
    | (intro _ _)
    | dsimp only
    | dsimp only [id]

theorem State.finishAt_kept {pv : Bool} {s0 s : State} (id ns : Nat) (signal : Bool) (f : Fail) (r0 r1 : Nat) (hk : Kept pv s0 s) :
    Kept pv s0 (State.finishAt s id ns signal f r0 r1) := by
  dsimp only [State.finishAt]
  repeat' first
    | with_reducible assumption
    | with_reducible apply State.sweep_kept
    | with_reducible apply State.dropEntry_kept
    | with_reducible apply State.logRecord_kept
    | with_reducible apply State.refreshCommits_kept
    | with_reducible apply State.writeCpl_kept
    | with_reducible apply State.drained_kept
    | with_reducible apply State.noteReplay_kept
    | with_reducible apply State.spoilVersions_kept
    | split
    | with_reducible apply Kept.ite
    | with_reducible rfl
    | with_reducible exact fun x => x
    | with_reducible exact Nat.le_refl _
    | with_reducible exact List.prefix_rfl
    | with_reducible exact List.prefix_append _ _
    | with_reducible refine fun (hx : tabSorted _) => ?_
    | with_reducible apply tabSorted_map
    | with_reducible apply tabSorted_put
    | with_reducible apply tabSorted_erase
    | with_reducible apply tabSorted_filter
    | with_reducible exact tabSorted_nil
    | (show tabSorted _; assumption)
    | with_reducible exact ledgerOrdered_filter _
    | with_reducible exact fun hx => canon_filterRegs hx _
    | with_reducible exact fun _ _ => rfl
    | ((with_reducible refine fun _ _ => banks_map ?_ _ _) <;> exact fun _ _ => rfl)
    | exact fun _ => rfl
    | exact fun _ _ => rfl
    | with_reducible apply Kept.upd

theorem State.finish_kept {pv : Bool} {s0 s : State} (id : Nat) (f : Fail) (r0 r1 : Nat) (hk : Kept pv s0 s) :
    Kept pv s0 (State.finish s id f r0 r1) := by
  dsimp only [State.finish]
  repeat' first
    | with_reducible assumption
    | with_reducible apply State.finishAt_kept
    | split
    | with_reducible apply Kept.ite

theorem State.start_kept {pv : Bool} {s0 s : State} (id : Nat) (job : Job) (hk : Kept pv s0 s) :
    Kept pv s0 (State.start s id job) := by
  dsimp only [State.start]
  repeat' first
    | with_reducible assumption
    | with_reducible apply State.modEntry_kept
    | split
    | with_reducible apply Kept.ite
    | with_reducible rfl
    | with_reducible exact fun x => x
    | with_reducible exact Nat.le_refl _
    | with_reducible exact List.prefix_rfl
    | with_reducible exact List.prefix_append _ _
    | with_reducible refine fun (hx : tabSorted _) => ?_
    | with_reducible apply tabSorted_map
    | with_reducible apply tabSorted_put
    | with_reducible apply tabSorted_erase
    | with_reducible apply tabSorted_filter
    | with_reducible exact tabSorted_nil
    | (show tabSorted _; assumption)
    | with_reducible exact ledgerOrdered_filter _
    | with_reducible exact fun hx => canon_filterRegs hx _
    | with_reducible exact fun _ _ => rfl
    | ((with_reducible refine fun _ _ => banks_map ?_ _ _) <;> exact fun _ _ => rfl)
    | exact fun _ => rfl
    | exact fun _ _ => rfl
    | exact fun _ => rfl
    | with_reducible apply Kept.upd

end Sys2Proof.Machine
end

