-- ==== Sys2Proof/Laws/KeptRings.lean ====
section
/-! SUPPORT. Every operation of Machine/Rings.lean keeps what `Kept` says. -/

set_option linter.unusedTactic false
set_option linter.unreachableTactic false
set_option maxHeartbeats 200000
namespace Sys2Proof.Machine

theorem State.askTail_kept {pv : Bool} {s0 s : State} (r : Nat) (hk : Kept pv s0 s) :
    Kept pv s0 (State.askTail s r) := by
  dsimp only [State.askTail]
  repeat' first
    | with_reducible assumption
    | with_reducible apply State.emit_kept
    | split
    | with_reducible apply Kept.ite

theorem State.startRound_kept {pv : Bool} {s0 s : State}  (hk : Kept pv s0 s) :
    Kept pv s0 (State.startRound s) := by
  dsimp only [State.startRound]
  repeat' first
    | with_reducible assumption
    | with_reducible apply State.modRing_kept
    | with_reducible apply State.askTail_kept
    | with_reducible apply Kept.forN
    | split
    | with_reducible apply Kept.ite
    | with_reducible rfl
    | with_reducible exact fun x => x
    | with_reducible exact Nat.le_refl _
    | with_reducible exact List.prefix_rfl
    | with_reducible exact List.prefix_append _ _
    | with_reducible refine fun (hx : tabSorted _) => ?_
    | with_reducible apply tabSorted_map
    | with_reducible apply tabSorted_put
    | with_reducible apply tabSorted_erase
    | with_reducible apply tabSorted_filter
    | with_reducible exact tabSorted_nil
    | (show tabSorted _; assumption)
    | with_reducible exact ledgerOrdered_filter _
    | with_reducible exact fun hx => canon_filterRegs hx _
    | with_reducible exact fun _ _ => rfl
    | ((with_reducible refine fun _ _ => banks_map ?_ _ _) <;> exact fun _ _ => rfl)
    | exact fun _ => rfl
    | exact fun _ _ => rfl
    | (intro _ _ _)
    | (intro _ _)
    | dsimp only
    | dsimp only [id]
    | with_reducible apply Kept.upd

theorem State.extraRound_kept {pv : Bool} {s0 s : State}  (hk : Kept pv s0 s) :
    Kept pv s0 (State.extraRound s) := by
  dsimp only [State.extraRound]
  repeat' first
    | with_reducible assumption
    | with_reducible apply State.startRound_kept
    | split
    | with_reducible apply Kept.ite

theorem State.stopRing_kept {pv : Bool} {s0 s : State} (r : Nat) (hk : Kept pv s0 s) :
    Kept pv s0 (State.stopRing s r) := by
  dsimp only [State.stopRing]
  repeat' first
    | with_reducible assumption
    | with_reducible apply State.modRing_kept
    | split
    | with_reducible apply Kept.ite
    | with_reducible rfl
    | with_reducible exact fun x => x
    | with_reducible exact Nat.le_refl _
    | with_reducible exact List.prefix_rfl
    | with_reducible exact List.prefix_append _ _
    | with_reducible refine fun (hx : tabSorted _) => ?_
    | with_reducible apply tabSorted_map
    | with_reducible apply tabSorted_put
    | with_reducible apply tabSorted_erase
    | with_reducible apply tabSorted_filter
    | with_reducible exact tabSorted_nil
    | (show tabSorted _; assumption)
    | with_reducible exact ledgerOrdered_filter _
    | with_reducible exact fun hx => canon_filterRegs hx _
    | with_reducible exact fun _ _ => rfl
    | ((with_reducible refine fun _ _ => banks_map ?_ _ _) <;> exact fun _ _ => rfl)
    | exact fun _ => rfl
    | exact fun _ _ => rfl
    | with_reducible apply Kept.upd

theorem State.compare_kept {pv : Bool} {s0 s : State} (r : Nat) (d : Desc) (hk : Kept pv s0 s) :
    Kept pv s0 (State.compare s r d) := by
  dsimp only [State.compare]
  repeat' first
    | with_reducible assumption
    | with_reducible apply State.modRing_kept
    | with_reducible apply State.reject_kept
    | with_reducible apply State.stopRing_kept
    | split
    | with_reducible apply Kept.ite
    | with_reducible rfl
    | with_reducible exact fun x => x
    | with_reducible exact Nat.le_refl _
    | with_reducible exact List.prefix_rfl
    | with_reducible exact List.prefix_append _ _
    | with_reducible refine fun (hx : tabSorted _) => ?_
    | with_reducible apply tabSorted_map
    | with_reducible apply tabSorted_put
    | with_reducible apply tabSorted_erase
    | with_reducible apply tabSorted_filter
    | with_reducible exact tabSorted_nil
    | (show tabSorted _; assumption)
    | with_reducible exact ledgerOrdered_filter _
    | with_reducible exact fun hx => canon_filterRegs hx _
    | with_reducible exact fun _ _ => rfl
    | ((with_reducible refine fun _ _ => banks_map ?_ _ _) <;> exact fun _ _ => rfl)
    | exact fun _ => rfl
    | exact fun _ _ => rfl
    | with_reducible apply Kept.upd

theorem State.restoreAllowances_kept {pv : Bool} {s0 s : State}  (hk : Kept pv s0 s) :
    Kept pv s0 (State.restoreAllowances s) := by
  dsimp only [State.restoreAllowances]
  repeat' first
    | with_reducible assumption
    | split
    | with_reducible apply Kept.ite
    | with_reducible rfl
    | with_reducible exact fun x => x
    | with_reducible exact Nat.le_refl _
    | with_reducible exact List.prefix_rfl
    | with_reducible exact List.prefix_append _ _
    | with_reducible refine fun (hx : tabSorted _) => ?_
    | with_reducible apply tabSorted_map
    | with_reducible apply tabSorted_put
    | with_reducible apply tabSorted_erase
    | with_reducible apply tabSorted_filter
    | with_reducible exact tabSorted_nil
    | (show tabSorted _; assumption)
    | with_reducible exact ledgerOrdered_filter _
    | with_reducible exact fun hx => canon_filterRegs hx _
    | with_reducible exact fun _ _ => rfl
    | ((with_reducible refine fun _ _ => banks_map ?_ _ _) <;> exact fun _ _ => rfl)
    | exact fun _ => rfl
    | exact fun _ _ => rfl
    | with_reducible apply Kept.upd

theorem State.engage_kept {pv : Bool} {s0 : State} (n : Nat) {s : State} (h : Kept pv s0 s) : Kept pv s0 (State.engage n s) := by
  induction n generalizing s with
  | zero => exact h
  | succ n ih =>
    have turn : ∀ (t : State) (r : Nat), Kept pv s0 t → Kept pv s0 { t with turnAt := r } := fun t r ht =>
      Kept.upd (s := t) List.prefix_rfl id id (Nat.le_refl _) rfl (fun _ => rfl) (fun _ _ => rfl) id id id id id id id id id id id id id id id ht
    unfold State.engage
    split
    · exact h
    · split
      · split
        · exact ih (State.compare_kept _ _ (turn _ _ h))
        · exact turn _ _ h
      · split
        · exact ih (State.restoreAllowances_kept h)
        · exact h

theorem State.run_kept {pv : Bool} {s0 s : State}  (hk : Kept pv s0 s) :
    Kept pv s0 (State.run s) := by
  dsimp only [State.run]
  repeat' first
    | with_reducible assumption
    | with_reducible apply State.engage_kept
    | split
    | with_reducible apply Kept.ite

theorem State.withCur_kept {pv : Bool} {s0 s : State} (r op : Nat) (f : Desc → State → State) (hf : ∀ x t, Kept pv s0 t → Kept pv s0 (f x t)) (hk : Kept pv s0 s) :
    Kept pv s0 (State.withCur s r op f) := by
  dsimp only [State.withCur]
  repeat' first
    | with_reducible assumption
    | with_reducible apply State.reject_kept
    | with_reducible apply State.run_kept
    | with_reducible apply hf
    | split
    | with_reducible apply Kept.ite
    | with_reducible rfl
    | with_reducible exact fun x => x
    | with_reducible exact Nat.le_refl _
    | with_reducible exact List.prefix_rfl
    | with_reducible exact List.prefix_append _ _
    | with_reducible refine fun (hx : tabSorted _) => ?_
    | with_reducible apply tabSorted_map
    | with_reducible apply tabSorted_put
    | with_reducible apply tabSorted_erase
    | with_reducible apply tabSorted_filter
    | with_reducible exact tabSorted_nil
    | (show tabSorted _; assumption)
    | with_reducible exact ledgerOrdered_filter _
    | with_reducible exact fun hx => canon_filterRegs hx _
    | with_reducible exact fun _ _ => rfl
    | ((with_reducible refine fun _ _ => banks_map ?_ _ _) <;> exact fun _ _ => rfl)
    | exact fun _ => rfl
    | exact fun _ _ => rfl
    | (intro _ _ _)
    | (intro _ _)
    | dsimp only
    | dsimp only [id]
    | with_reducible apply Kept.upd

theorem State.admitNew_kept {pv : Bool} {s0 s : State} (d : Desc) (job : Job) (surfaces : List Nat) (hk : Kept pv s0 s) :
    Kept pv s0 (State.admitNew s d job surfaces) := by
  dsimp only [State.admitNew]
  repeat' first
    | with_reducible assumption
    | with_reducible apply State.modRing_kept
    | with_reducible apply State.accept_kept
    | split
    | with_reducible apply Kept.ite
    | with_reducible rfl
    | with_reducible exact fun x => x
    | with_reducible exact Nat.le_refl _
    | with_reducible exact List.prefix_rfl
    | with_reducible exact List.prefix_append _ _
    | with_reducible refine fun (hx : tabSorted _) => ?_
    | with_reducible apply tabSorted_map
    | with_reducible apply tabSorted_put
    | with_reducible apply tabSorted_erase
    | with_reducible apply tabSorted_filter
    | with_reducible exact tabSorted_nil
    | (show tabSorted _; assumption)
    | with_reducible exact ledgerOrdered_filter _
    | with_reducible exact fun hx => canon_filterRegs hx _
    | with_reducible exact fun _ _ => rfl
    | ((with_reducible refine fun _ _ => banks_map ?_ _ _) <;> exact fun _ _ => rfl)
    | exact fun _ => rfl
    | exact fun _ _ => rfl
    | with_reducible apply Kept.upd

theorem State.admitted_kept {pv : Bool} {s0 s : State} (id : Nat) (f : Entry → State → State) (hf : ∀ x t, Kept pv s0 t → Kept pv s0 (f x t)) (hk : Kept pv s0 s) :
    Kept pv s0 (State.admitted s id f) := by
  dsimp only [State.admitted]
  repeat' first
    | with_reducible assumption
    | with_reducible apply hf
    | split
    | with_reducible apply Kept.ite
    | with_reducible rfl
    | with_reducible exact fun x => x
    | with_reducible exact Nat.le_refl _
    | with_reducible exact List.prefix_rfl
    | with_reducible exact List.prefix_append _ _
    | with_reducible refine fun (hx : tabSorted _) => ?_
    | with_reducible apply tabSorted_map
    | with_reducible apply tabSorted_put
    | with_reducible apply tabSorted_erase
    | with_reducible apply tabSorted_filter
    | with_reducible exact tabSorted_nil
    | (show tabSorted _; assumption)
    | with_reducible exact ledgerOrdered_filter _
    | with_reducible exact fun hx => canon_filterRegs hx _
    | with_reducible exact fun _ _ => rfl
    | ((with_reducible refine fun _ _ => banks_map ?_ _ _) <;> exact fun _ _ => rfl)
    | exact fun _ => rfl
    | exact fun _ _ => rfl
    | (intro _ _ _)
    | (intro _ _)
    | dsimp only
    | dsimp only [id]
    | with_reducible apply Kept.upd

theorem execPollRound_kept (pv : Bool) (s : State)  :
    KeptBy pv s (execPollRound s) := by
  dsimp only [execPollRound]
  have hk := Kept.refl pv s
  repeat' first
    | with_reducible apply KeptBy.next
    | with_reducible assumption
    | with_reducible apply State.startRound_kept
    | split
    | with_reducible apply Kept.ite
    | with_reducible rfl
    | with_reducible exact fun x => x
    | with_reducible exact Nat.le_refl _
    | with_reducible exact List.prefix_rfl
    | with_reducible exact List.prefix_append _ _
    | with_reducible refine fun (hx : tabSorted _) => ?_
    | with_reducible apply tabSorted_map
    | with_reducible apply tabSorted_put
    | with_reducible apply tabSorted_erase
    | with_reducible apply tabSorted_filter
    | with_reducible exact tabSorted_nil
    | (show tabSorted _; assumption)
    | with_reducible exact ledgerOrdered_filter _
    | with_reducible exact fun hx => canon_filterRegs hx _
    | with_reducible exact fun _ _ => rfl
    | ((with_reducible refine fun _ _ => banks_map ?_ _ _) <;> exact fun _ _ => rfl)
    | exact fun _ => rfl
    | exact fun _ _ => rfl
    | with_reducible apply Kept.upd

theorem State.pollFailed_kept {pv : Bool} {s0 s : State} (r : Nat) (f : ReadFail) (hk : Kept pv s0 s) :
    Kept pv s0 (State.pollFailed s r f) := by
  dsimp only [State.pollFailed]
  repeat' first
    | with_reducible assumption
    | with_reducible apply State.modRing_kept
    | with_reducible apply State.raise_kept
    | split
    | with_reducible apply Kept.ite
    | with_reducible rfl
    | with_reducible exact fun x => x
    | with_reducible exact Nat.le_refl _
    | with_reducible exact List.prefix_rfl
    | with_reducible exact List.prefix_append _ _
    | with_reducible refine fun (hx : tabSorted _) => ?_
    | with_reducible apply tabSorted_map
    | with_reducible apply tabSorted_put
    | with_reducible apply tabSorted_erase
    | with_reducible apply tabSorted_filter
    | with_reducible exact tabSorted_nil
    | (show tabSorted _; assumption)
    | with_reducible exact ledgerOrdered_filter _
    | with_reducible exact fun hx => canon_filterRegs hx _
    | with_reducible exact fun _ _ => rfl
    | ((with_reducible refine fun _ _ => banks_map ?_ _ _) <;> exact fun _ _ => rfl)
    | exact fun _ => rfl
    | exact fun _ _ => rfl
    | with_reducible apply Kept.upd

theorem State.pollTail_kept {pv : Bool} {s0 s : State} (r t : Nat) (hk : Kept pv s0 s) :
    Kept pv s0 (State.pollTail s r t) := by
  dsimp only [State.pollTail]
  repeat' first
    | with_reducible assumption
    | with_reducible apply State.modRing_kept
    | with_reducible apply State.emit_kept
    | with_reducible apply State.raise_kept
    | with_reducible apply State.stopRing_kept
    | split
    | with_reducible apply Kept.ite
    | with_reducible rfl
    | with_reducible exact fun x => x
    | with_reducible exact Nat.le_refl _
    | with_reducible exact List.prefix_rfl
    | with_reducible exact List.prefix_append _ _
    | with_reducible refine fun (hx : tabSorted _) => ?_
    | with_reducible apply tabSorted_map
    | with_reducible apply tabSorted_put
    | with_reducible apply tabSorted_erase
    | with_reducible apply tabSorted_filter
    | with_reducible exact tabSorted_nil
    | (show tabSorted _; assumption)
    | with_reducible exact ledgerOrdered_filter _
    | with_reducible exact fun hx => canon_filterRegs hx _
    | with_reducible exact fun _ _ => rfl
    | ((with_reducible refine fun _ _ => banks_map ?_ _ _) <;> exact fun _ _ => rfl)
    | exact fun _ => rfl
    | exact fun _ _ => rfl
    | with_reducible apply Kept.upd

theorem execPollReadReturn_kept (pv : Bool) (s : State) (r : Fin 128) (res : DoorbellRead) :
    KeptBy pv s (execPollReadReturn r res s) := by
  dsimp only [execPollReadReturn]
  have hk := Kept.refl pv s
  repeat' first
    | with_reducible apply KeptBy.next
    | with_reducible assumption
    | with_reducible apply State.modRing_kept
    | with_reducible apply State.pollFailed_kept
    | with_reducible apply State.pollTail_kept
    | split
    | with_reducible apply Kept.ite
    | with_reducible rfl
    | with_reducible exact fun x => x
    | with_reducible exact Nat.le_refl _
    | with_reducible exact List.prefix_rfl
    | with_reducible exact List.prefix_append _ _
    | with_reducible refine fun (hx : tabSorted _) => ?_
    | with_reducible apply tabSorted_map
    | with_reducible apply tabSorted_put
    | with_reducible apply tabSorted_erase
    | with_reducible apply tabSorted_filter
    | with_reducible exact tabSorted_nil
    | (show tabSorted _; assumption)
    | with_reducible exact ledgerOrdered_filter _
    | with_reducible exact fun hx => canon_filterRegs hx _
    | with_reducible exact fun _ _ => rfl
    | ((with_reducible refine fun _ _ => banks_map ?_ _ _) <;> exact fun _ _ => rfl)
    | exact fun _ => rfl
    | exact fun _ _ => rfl
    | with_reducible apply Kept.upd

theorem execDescriptorFetch_kept (pv : Bool) (s : State) (r : Fin 128) :
    KeptBy pv s (execDescriptorFetch r s) := by
  dsimp only [execDescriptorFetch]
  have hk := Kept.refl pv s
  repeat' first
    | with_reducible apply KeptBy.next
    | with_reducible assumption
    | with_reducible apply State.modRing_kept
    | with_reducible apply State.emit_kept
    | with_reducible apply State.run_kept
    | split
    | with_reducible apply Kept.ite
    | with_reducible rfl
    | with_reducible exact fun x => x
    | with_reducible exact Nat.le_refl _
    | with_reducible exact List.prefix_rfl
    | with_reducible exact List.prefix_append _ _
    | with_reducible refine fun (hx : tabSorted _) => ?_
    | with_reducible apply tabSorted_map
    | with_reducible apply tabSorted_put
    | with_reducible apply tabSorted_erase
    | with_reducible apply tabSorted_filter
    | with_reducible exact tabSorted_nil
    | (show tabSorted _; assumption)
    | with_reducible exact ledgerOrdered_filter _
    | with_reducible exact fun hx => canon_filterRegs hx _
    | with_reducible exact fun _ _ => rfl
    | ((with_reducible refine fun _ _ => banks_map ?_ _ _) <;> exact fun _ _ => rfl)
    | exact fun _ => rfl
    | exact fun _ _ => rfl
    | with_reducible apply Kept.upd

theorem execFetchReturn_kept (pv : Bool) (s : State) (r : Fin 128) (data : HostRead) :
    KeptBy pv s (execFetchReturn r data s) := by
  dsimp only [execFetchReturn]
  have hk := Kept.refl pv s
  repeat' first
    | with_reducible apply KeptBy.next
    | with_reducible assumption
    | with_reducible apply State.modRing_kept
    | with_reducible apply State.raise_kept
    | with_reducible apply State.stopRing_kept
    | with_reducible apply State.run_kept
    | split
    | with_reducible apply Kept.ite
    | with_reducible rfl
    | with_reducible exact fun x => x
    | with_reducible exact Nat.le_refl _
    | with_reducible exact List.prefix_rfl
    | with_reducible exact List.prefix_append _ _
    | with_reducible refine fun (hx : tabSorted _) => ?_
    | with_reducible apply tabSorted_map
    | with_reducible apply tabSorted_put
    | with_reducible apply tabSorted_erase
    | with_reducible apply tabSorted_filter
    | with_reducible exact tabSorted_nil
    | (show tabSorted _; assumption)
    | with_reducible exact ledgerOrdered_filter _
    | with_reducible exact fun hx => canon_filterRegs hx _
    | with_reducible exact fun _ _ => rfl
    | ((with_reducible refine fun _ _ => banks_map ?_ _ _) <;> exact fun _ _ => rfl)
    | exact fun _ => rfl
    | exact fun _ _ => rfl
    | with_reducible apply Kept.upd

end Sys2Proof.Machine
end

