-- ==== Sys2Proof/Laws/KeptObjOps.lean ====
section
/-! SUPPORT. Every operation of Machine/ObjOps.lean keeps what `Kept` says. -/

set_option linter.unusedTactic false
set_option linter.unreachableTactic false
set_option maxHeartbeats 200000
namespace Sys2Proof.Machine

theorem State.startIf_kept {pv : Bool} {s0 s : State} (id : Nat) (f : Entry → State → State) (hf : ∀ x t, Kept pv s0 t → Kept pv s0 (f x t)) (hk : Kept pv s0 s) :
    Kept pv s0 (State.startIf s id f) := by
  dsimp only [State.startIf]
  repeat' first
    | with_reducible assumption
    | with_reducible apply State.finish_kept
    | with_reducible apply hf
    | split
    | with_reducible apply Kept.ite
    | with_reducible rfl
    | with_reducible exact fun x => x
    | with_reducible exact Nat.le_refl _
    | with_reducible exact List.prefix_rfl
    | with_reducible exact List.prefix_append _ _
    | with_reducible refine fun (hx : tabSorted _) => ?_
    | with_reducible apply tabSorted_map
    | with_reducible apply tabSorted_put
    | with_reducible apply tabSorted_erase
    | with_reducible apply tabSorted_filter
    | with_reducible exact tabSorted_nil
    | (show tabSorted _; assumption)
    | with_reducible exact ledgerOrdered_filter _
    | with_reducible exact fun hx => canon_filterRegs hx _
    | with_reducible exact fun _ _ => rfl
    | ((with_reducible refine fun _ _ => banks_map ?_ _ _) <;> exact fun _ _ => rfl)
    | exact fun _ => rfl
    | exact fun _ _ => rfl
    | (intro _ _ _)
    | (intro _ _)
    | dsimp only
    | dsimp only [id]
    | with_reducible apply Kept.upd

theorem State.admitStart_kept {pv : Bool} {s0 s : State} (d : Desc) (job : Job) (surfaces : List Nat) (prep : State → State) (f : Entry → State → State) (hprep : ∀ t, Kept pv s0 t → Kept pv s0 (prep t)) (hf : ∀ x t, Kept pv s0 t → Kept pv s0 (f x t)) (hk : Kept pv s0 s) :
    Kept pv s0 (State.admitStart s d job surfaces prep f) := by
  dsimp only [State.admitStart]
  repeat' first
    | with_reducible assumption
    | with_reducible apply State.admitNew_kept
    | with_reducible apply State.startIf_kept
    | with_reducible apply hprep
    | with_reducible apply hf
    | split
    | with_reducible apply Kept.ite
    | (intro _ _ _)
    | (intro _ _)
    | dsimp only
    | dsimp only [id]

theorem startPlain_kept {pv : Bool} {s0 s : State} (e : Entry) (hk : Kept pv s0 s) :
    Kept pv s0 (startPlain e s) := by
  dsimp only [startPlain]
  repeat' first
    | with_reducible assumption
    | with_reducible apply State.finish_kept
    | split
    | with_reducible apply Kept.ite

theorem execNop_kept (pv : Bool) (s : State) (r : Fin 128) :
    KeptBy pv s (execNop r s) := by
  dsimp only [execNop]
  have hk := Kept.refl pv s
  repeat' first
    | with_reducible apply KeptBy.next
    | with_reducible assumption
    | with_reducible apply State.withCur_kept
    | with_reducible apply State.admitStart_kept
    | with_reducible apply startPlain_kept
    | split
    | with_reducible apply Kept.ite
    | with_reducible rfl
    | with_reducible exact fun x => x
    | with_reducible exact Nat.le_refl _
    | with_reducible exact List.prefix_rfl
    | with_reducible exact List.prefix_append _ _
    | with_reducible refine fun (hx : tabSorted _) => ?_
    | with_reducible apply tabSorted_map
    | with_reducible apply tabSorted_put
    | with_reducible apply tabSorted_erase
    | with_reducible apply tabSorted_filter
    | with_reducible exact tabSorted_nil
    | (show tabSorted _; assumption)
    | with_reducible exact ledgerOrdered_filter _
    | with_reducible exact fun hx => canon_filterRegs hx _
    | with_reducible exact fun _ _ => rfl
    | ((with_reducible refine fun _ _ => banks_map ?_ _ _) <;> exact fun _ _ => rfl)
    | exact fun _ => rfl
    | exact fun _ _ => rfl
    | (intro _ _ _)
    | (intro _ _)
    | dsimp only
    | dsimp only [id]
    | with_reducible apply Kept.upd

theorem execFence_kept (pv : Bool) (s : State) (r : Fin 128) :
    KeptBy pv s (execFence r s) := by
  dsimp only [execFence]
  have hk := Kept.refl pv s
  repeat' first
    | with_reducible apply KeptBy.next
    | with_reducible assumption
    | with_reducible apply State.withCur_kept
    | with_reducible apply State.admitStart_kept
    | with_reducible apply startPlain_kept
    | split
    | with_reducible apply Kept.ite
    | with_reducible rfl
    | with_reducible exact fun x => x
    | with_reducible exact Nat.le_refl _
    | with_reducible exact List.prefix_rfl
    | with_reducible exact List.prefix_append _ _
    | with_reducible refine fun (hx : tabSorted _) => ?_
    | with_reducible apply tabSorted_map
    | with_reducible apply tabSorted_put
    | with_reducible apply tabSorted_erase
    | with_reducible apply tabSorted_filter
    | with_reducible exact tabSorted_nil
    | (show tabSorted _; assumption)
    | with_reducible exact ledgerOrdered_filter _
    | with_reducible exact fun hx => canon_filterRegs hx _
    | with_reducible exact fun _ _ => rfl
    | ((with_reducible refine fun _ _ => banks_map ?_ _ _) <;> exact fun _ _ => rfl)
    | exact fun _ => rfl
    | exact fun _ _ => rfl
    | (intro _ _ _)
    | (intro _ _)
    | dsimp only
    | dsimp only [id]
    | with_reducible apply Kept.upd

theorem startWait_kept {pv : Bool} {s0 s : State} (e : Entry) (hk : Kept pv s0 s) :
    Kept pv s0 (startWait e s) := by
  dsimp only [startWait]
  repeat' first
    | with_reducible assumption
    | with_reducible apply State.modEntry_kept
    | with_reducible apply State.finish_kept
    | split
    | with_reducible apply Kept.ite
    | with_reducible rfl
    | with_reducible exact fun x => x
    | with_reducible exact Nat.le_refl _
    | with_reducible exact List.prefix_rfl
    | with_reducible exact List.prefix_append _ _
    | with_reducible refine fun (hx : tabSorted _) => ?_
    | with_reducible apply tabSorted_map
    | with_reducible apply tabSorted_put
    | with_reducible apply tabSorted_erase
    | with_reducible apply tabSorted_filter
    | with_reducible exact tabSorted_nil
    | (show tabSorted _; assumption)
    | with_reducible exact ledgerOrdered_filter _
    | with_reducible exact fun hx => canon_filterRegs hx _
    | with_reducible exact fun _ _ => rfl
    | ((with_reducible refine fun _ _ => banks_map ?_ _ _) <;> exact fun _ _ => rfl)
    | exact fun _ => rfl
    | exact fun _ _ => rfl
    | exact fun _ => rfl
    | with_reducible apply Kept.upd

theorem execWaitTime_kept (pv : Bool) (s : State) (r : Fin 128) :
    KeptBy pv s (execWaitTime r s) := by
  dsimp only [execWaitTime]
  have hk := Kept.refl pv s
  repeat' first
    | with_reducible apply KeptBy.next
    | with_reducible assumption
    | with_reducible apply State.withCur_kept
    | with_reducible apply State.admitStart_kept
    | with_reducible apply startWait_kept
    | split
    | with_reducible apply Kept.ite
    | with_reducible rfl
    | with_reducible exact fun x => x
    | with_reducible exact Nat.le_refl _
    | with_reducible exact List.prefix_rfl
    | with_reducible exact List.prefix_append _ _
    | with_reducible refine fun (hx : tabSorted _) => ?_
    | with_reducible apply tabSorted_map
    | with_reducible apply tabSorted_put
    | with_reducible apply tabSorted_erase
    | with_reducible apply tabSorted_filter
    | with_reducible exact tabSorted_nil
    | (show tabSorted _; assumption)
    | with_reducible exact ledgerOrdered_filter _
    | with_reducible exact fun hx => canon_filterRegs hx _
    | with_reducible exact fun _ _ => rfl
    | ((with_reducible refine fun _ _ => banks_map ?_ _ _) <;> exact fun _ _ => rfl)
    | exact fun _ => rfl
    | exact fun _ _ => rfl
    | (intro _ _ _)
    | (intro _ _)
    | dsimp only
    | dsimp only [id]
    | with_reducible apply Kept.upd

theorem execWaitTimeExpiry_kept (pv : Bool) (s : State) (id : Nat) :
    KeptBy pv s (execWaitTimeExpiry id s) := by
  dsimp only [execWaitTimeExpiry]
  have hk := Kept.refl pv s
  repeat' first
    | with_reducible apply KeptBy.next
    | with_reducible assumption
    | with_reducible apply State.finish_kept
    | split
    | with_reducible apply Kept.ite
    | with_reducible rfl
    | with_reducible exact fun x => x
    | with_reducible exact Nat.le_refl _
    | with_reducible exact List.prefix_rfl
    | with_reducible exact List.prefix_append _ _
    | with_reducible refine fun (hx : tabSorted _) => ?_
    | with_reducible apply tabSorted_map
    | with_reducible apply tabSorted_put
    | with_reducible apply tabSorted_erase
    | with_reducible apply tabSorted_filter
    | with_reducible exact tabSorted_nil
    | (show tabSorted _; assumption)
    | with_reducible exact ledgerOrdered_filter _
    | with_reducible exact fun hx => canon_filterRegs hx _
    | with_reducible exact fun _ _ => rfl
    | ((with_reducible refine fun _ _ => banks_map ?_ _ _) <;> exact fun _ _ => rfl)
    | exact fun _ => rfl
    | exact fun _ _ => rfl
    | with_reducible apply Kept.upd

theorem startAlloc_kept {pv : Bool} {s0 s : State} (e : Entry) (hk : Kept pv s0 s) :
    Kept pv s0 (startAlloc e s) := by
  dsimp only [startAlloc]
  repeat' first
    | with_reducible assumption
    | exact Kept.ofEq ‹_› (by apply State.create_kept; assumption)
    | with_reducible apply State.create_kept
    | with_reducible apply State.finish_kept
    | split
    | with_reducible apply Kept.ite
    | with_reducible rfl
    | with_reducible exact fun x => x
    | with_reducible exact Nat.le_refl _
    | with_reducible exact List.prefix_rfl
    | with_reducible exact List.prefix_append _ _
    | with_reducible refine fun (hx : tabSorted _) => ?_
    | with_reducible apply tabSorted_map
    | with_reducible apply tabSorted_put
    | with_reducible apply tabSorted_erase
    | with_reducible apply tabSorted_filter
    | with_reducible exact tabSorted_nil
    | (show tabSorted _; assumption)
    | with_reducible exact ledgerOrdered_filter _
    | with_reducible exact fun hx => canon_filterRegs hx _
    | with_reducible exact fun _ _ => rfl
    | ((with_reducible refine fun _ _ => banks_map ?_ _ _) <;> exact fun _ _ => rfl)
    | exact fun _ => rfl
    | exact fun _ _ => rfl
    | with_reducible apply Kept.upd

theorem execObjAlloc_kept (pv : Bool) (s : State) (r : Fin 128) :
    KeptBy pv s (execObjAlloc r s) := by
  dsimp only [execObjAlloc]
  have hk := Kept.refl pv s
  repeat' first
    | with_reducible apply KeptBy.next
    | with_reducible assumption
    | with_reducible apply State.withCur_kept
    | with_reducible apply State.admitStart_kept
    | with_reducible apply startAlloc_kept
    | split
    | with_reducible apply Kept.ite
    | with_reducible rfl
    | with_reducible exact fun x => x
    | with_reducible exact Nat.le_refl _
    | with_reducible exact List.prefix_rfl
    | with_reducible exact List.prefix_append _ _
    | with_reducible refine fun (hx : tabSorted _) => ?_
    | with_reducible apply tabSorted_map
    | with_reducible apply tabSorted_put
    | with_reducible apply tabSorted_erase
    | with_reducible apply tabSorted_filter
    | with_reducible exact tabSorted_nil
    | (show tabSorted _; assumption)
    | with_reducible exact ledgerOrdered_filter _
    | with_reducible exact fun hx => canon_filterRegs hx _
    | with_reducible exact fun _ _ => rfl
    | ((with_reducible refine fun _ _ => banks_map ?_ _ _) <;> exact fun _ _ => rfl)
    | exact fun _ => rfl
    | exact fun _ _ => rfl
    | (intro _ _ _)
    | (intro _ _)
    | dsimp only
    | dsimp only [id]
    | with_reducible apply Kept.upd

theorem startFree_kept {pv : Bool} {s0 s : State} (e : Entry) (hk : Kept pv s0 s) :
    Kept pv s0 (startFree e s) := by
  dsimp only [startFree]
  repeat' first
    | with_reducible assumption
    | with_reducible apply State.releaseObj_kept
    | with_reducible apply State.finish_kept
    | split
    | with_reducible apply Kept.ite

theorem execObjFree_kept (pv : Bool) (s : State) (r : Fin 128) :
    KeptBy pv s (execObjFree r s) := by
  dsimp only [execObjFree]
  have hk := Kept.refl pv s
  repeat' first
    | with_reducible apply KeptBy.next
    | with_reducible assumption
    | with_reducible apply State.modObj_kept
    | with_reducible apply State.withCur_kept
    | with_reducible apply State.admitStart_kept
    | with_reducible apply startFree_kept
    | split
    | with_reducible apply Kept.ite
    | with_reducible rfl
    | with_reducible exact fun x => x
    | with_reducible exact Nat.le_refl _
    | with_reducible exact List.prefix_rfl
    | with_reducible exact List.prefix_append _ _
    | with_reducible refine fun (hx : tabSorted _) => ?_
    | with_reducible apply tabSorted_map
    | with_reducible apply tabSorted_put
    | with_reducible apply tabSorted_erase
    | with_reducible apply tabSorted_filter
    | with_reducible exact tabSorted_nil
    | (show tabSorted _; assumption)
    | with_reducible exact ledgerOrdered_filter _
    | with_reducible exact fun hx => canon_filterRegs hx _
    | with_reducible exact fun _ _ => rfl
    | ((with_reducible refine fun _ _ => banks_map ?_ _ _) <;> exact fun _ _ => rfl)
    | exact fun _ => rfl
    | exact fun _ _ => rfl
    | (intro _ _ _)
    | (intro _ _)
    | dsimp only
    | dsimp only [id]
    | with_reducible apply Kept.upd

theorem startWrite_kept {pv : Bool} {s0 s : State} (e : Entry) (hk : Kept pv s0 s) :
    Kept pv s0 (startWrite e s) := by
  dsimp only [startWrite]
  repeat' first
    | with_reducible assumption
    | with_reducible apply State.emit_kept
    | exact Kept.ofEq ‹_› (by apply State.reserve_kept; assumption)
    | with_reducible apply State.reserve_kept
    | with_reducible apply State.modEntry_kept
    | with_reducible apply State.finish_kept
    | with_reducible apply State.start_kept
    | split
    | with_reducible apply Kept.ite
    | with_reducible rfl
    | with_reducible exact fun x => x
    | with_reducible exact Nat.le_refl _
    | with_reducible exact List.prefix_rfl
    | with_reducible exact List.prefix_append _ _
    | with_reducible refine fun (hx : tabSorted _) => ?_
    | with_reducible apply tabSorted_map
    | with_reducible apply tabSorted_put
    | with_reducible apply tabSorted_erase
    | with_reducible apply tabSorted_filter
    | with_reducible exact tabSorted_nil
    | (show tabSorted _; assumption)
    | with_reducible exact ledgerOrdered_filter _
    | with_reducible exact fun hx => canon_filterRegs hx _
    | with_reducible exact fun _ _ => rfl
    | ((with_reducible refine fun _ _ => banks_map ?_ _ _) <;> exact fun _ _ => rfl)
    | exact fun _ => rfl
    | exact fun _ _ => rfl
    | exact fun _ => rfl
    | with_reducible apply Kept.upd

theorem execObjWrite_kept (pv : Bool) (s : State) (r : Fin 128) :
    KeptBy pv s (execObjWrite r s) := by
  dsimp only [execObjWrite]
  have hk := Kept.refl pv s
  repeat' first
    | with_reducible apply KeptBy.next
    | with_reducible assumption
    | with_reducible apply State.withCur_kept
    | with_reducible apply State.admitStart_kept
    | with_reducible apply startWrite_kept
    | split
    | with_reducible apply Kept.ite
    | with_reducible rfl
    | with_reducible exact fun x => x
    | with_reducible exact Nat.le_refl _
    | with_reducible exact List.prefix_rfl
    | with_reducible exact List.prefix_append _ _
    | with_reducible refine fun (hx : tabSorted _) => ?_
    | with_reducible apply tabSorted_map
    | with_reducible apply tabSorted_put
    | with_reducible apply tabSorted_erase
    | with_reducible apply tabSorted_filter
    | with_reducible exact tabSorted_nil
    | (show tabSorted _; assumption)
    | with_reducible exact ledgerOrdered_filter _
    | with_reducible exact fun hx => canon_filterRegs hx _
    | with_reducible exact fun _ _ => rfl
    | ((with_reducible refine fun _ _ => banks_map ?_ _ _) <;> exact fun _ _ => rfl)
    | exact fun _ => rfl
    | exact fun _ _ => rfl
    | (intro _ _ _)
    | (intro _ _)
    | dsimp only
    | dsimp only [id]
    | with_reducible apply Kept.upd

theorem State.putWords_kept {pv : Bool} {s0 s : State} (e : Entry) (o : Obj) (bytes : Tab Byte) (spans : List (Nat × Nat)) (hk : Kept pv s0 s) :
    Kept pv s0 (State.putWords s e o bytes spans) := by
  dsimp only [State.putWords]
  repeat' first
    | with_reducible assumption
    | with_reducible apply State.modObj_kept
    | with_reducible apply State.rehome_kept
    | with_reducible apply Kept.foldl
    | with_reducible apply Kept.foldlPair
    | split
    | with_reducible apply Kept.ite
    | with_reducible rfl
    | with_reducible exact fun x => x
    | with_reducible exact Nat.le_refl _
    | with_reducible exact List.prefix_rfl
    | with_reducible exact List.prefix_append _ _
    | with_reducible refine fun (hx : tabSorted _) => ?_
    | with_reducible apply tabSorted_map
    | with_reducible apply tabSorted_put
    | with_reducible apply tabSorted_erase
    | with_reducible apply tabSorted_filter
    | with_reducible exact tabSorted_nil
    | (show tabSorted _; assumption)
    | with_reducible exact ledgerOrdered_filter _
    | with_reducible exact fun hx => canon_filterRegs hx _
    | with_reducible exact fun _ _ => rfl
    | ((with_reducible refine fun _ _ => banks_map ?_ _ _) <;> exact fun _ _ => rfl)
    | exact fun _ => rfl
    | exact fun _ _ => rfl
    | (refine ledgerOrdered_map fun e => ?_; split <;> first | rfl | (split <;> rfl))
    | (intro _ _ _)
    | (intro _ _)
    | dsimp only
    | dsimp only [id]
    | with_reducible apply Kept.upd

theorem State.settle_kept {pv : Bool} {s0 s : State} (e : Entry) (o : Obj) (status : Nat) (bytes : Tab Byte) (written : List Nat) (spans : List (Nat × Nat)) (hk : Kept pv s0 s) :
    Kept pv s0 (State.settle s e o status bytes written spans) := by
  dsimp only [State.settle]
  repeat' first
    | with_reducible assumption
    | with_reducible apply State.setObj_kept
    | with_reducible apply State.modObj_kept
    | with_reducible apply State.putWords_kept
    | split
    | with_reducible apply Kept.ite
    | with_reducible rfl
    | with_reducible exact fun x => x
    | with_reducible exact Nat.le_refl _
    | with_reducible exact List.prefix_rfl
    | with_reducible exact List.prefix_append _ _
    | with_reducible refine fun (hx : tabSorted _) => ?_
    | with_reducible apply tabSorted_map
    | with_reducible apply tabSorted_put
    | with_reducible apply tabSorted_erase
    | with_reducible apply tabSorted_filter
    | with_reducible exact tabSorted_nil
    | (show tabSorted _; assumption)
    | with_reducible exact ledgerOrdered_filter _
    | with_reducible exact fun hx => canon_filterRegs hx _
    | with_reducible exact fun _ _ => rfl
    | ((with_reducible refine fun _ _ => banks_map ?_ _ _) <;> exact fun _ _ => rfl)
    | exact fun _ => rfl
    | exact fun _ _ => rfl
    | with_reducible apply Kept.upd

theorem State.writeDone_kept {pv : Bool} {s0 s : State} (e : Entry) (data : HostRead) (hk : Kept pv s0 s) :
    Kept pv s0 (State.writeDone s e data) := by
  dsimp only [State.writeDone]
  repeat' first
    | with_reducible assumption
    | with_reducible apply State.logData_kept
    | with_reducible apply State.finish_kept
    | with_reducible apply State.settle_kept
    | split
    | with_reducible apply Kept.ite
    | with_reducible rfl
    | with_reducible exact fun x => x
    | with_reducible exact Nat.le_refl _
    | with_reducible exact List.prefix_rfl
    | with_reducible exact List.prefix_append _ _
    | with_reducible refine fun (hx : tabSorted _) => ?_
    | with_reducible apply tabSorted_map
    | with_reducible apply tabSorted_put
    | with_reducible apply tabSorted_erase
    | with_reducible apply tabSorted_filter
    | with_reducible exact tabSorted_nil
    | (show tabSorted _; assumption)
    | with_reducible exact ledgerOrdered_filter _
    | with_reducible exact fun hx => canon_filterRegs hx _
    | with_reducible exact fun _ _ => rfl
    | ((with_reducible refine fun _ _ => banks_map ?_ _ _) <;> exact fun _ _ => rfl)
    | exact fun _ => rfl
    | exact fun _ _ => rfl
    | with_reducible apply Kept.upd

theorem execObjWriteDone_kept (pv : Bool) (s : State) (id : Nat) (data : HostRead) :
    KeptBy pv s (execObjWriteDone id data s) := by
  dsimp only [execObjWriteDone]
  have hk := Kept.refl pv s
  repeat' first
    | with_reducible apply KeptBy.next
    | with_reducible assumption
    | with_reducible apply State.writeDone_kept
    | split
    | with_reducible apply Kept.ite
    | with_reducible rfl
    | with_reducible exact fun x => x
    | with_reducible exact Nat.le_refl _
    | with_reducible exact List.prefix_rfl
    | with_reducible exact List.prefix_append _ _
    | with_reducible refine fun (hx : tabSorted _) => ?_
    | with_reducible apply tabSorted_map
    | with_reducible apply tabSorted_put
    | with_reducible apply tabSorted_erase
    | with_reducible apply tabSorted_filter
    | with_reducible exact tabSorted_nil
    | (show tabSorted _; assumption)
    | with_reducible exact ledgerOrdered_filter _
    | with_reducible exact fun hx => canon_filterRegs hx _
    | with_reducible exact fun _ _ => rfl
    | ((with_reducible refine fun _ _ => banks_map ?_ _ _) <;> exact fun _ _ => rfl)
    | exact fun _ => rfl
    | exact fun _ _ => rfl
    | with_reducible apply Kept.upd

theorem startRead_kept {pv : Bool} {s0 s : State} (e : Entry) (hk : Kept pv s0 s) :
    Kept pv s0 (startRead e s) := by
  dsimp only [startRead]
  repeat' first
    | with_reducible assumption
    | with_reducible apply State.finish_kept
    | with_reducible apply State.start_kept
    | split
    | with_reducible apply Kept.ite
    | with_reducible rfl
    | with_reducible exact fun x => x
    | with_reducible exact Nat.le_refl _
    | with_reducible exact List.prefix_rfl
    | with_reducible exact List.prefix_append _ _
    | with_reducible refine fun (hx : tabSorted _) => ?_
    | with_reducible apply tabSorted_map
    | with_reducible apply tabSorted_put
    | with_reducible apply tabSorted_erase
    | with_reducible apply tabSorted_filter
    | with_reducible exact tabSorted_nil
    | (show tabSorted _; assumption)
    | with_reducible exact ledgerOrdered_filter _
    | with_reducible exact fun hx => canon_filterRegs hx _
    | with_reducible exact fun _ _ => rfl
    | ((with_reducible refine fun _ _ => banks_map ?_ _ _) <;> exact fun _ _ => rfl)
    | exact fun _ => rfl
    | exact fun _ _ => rfl
    | with_reducible apply Kept.upd

theorem execObjRead_kept (pv : Bool) (s : State) (r : Fin 128) :
    KeptBy pv s (execObjRead r s) := by
  dsimp only [execObjRead]
  have hk := Kept.refl pv s
  repeat' first
    | with_reducible apply KeptBy.next
    | with_reducible assumption
    | with_reducible apply State.withCur_kept
    | with_reducible apply State.admitStart_kept
    | with_reducible apply startRead_kept
    | split
    | with_reducible apply Kept.ite
    | with_reducible rfl
    | with_reducible exact fun x => x
    | with_reducible exact Nat.le_refl _
    | with_reducible exact List.prefix_rfl
    | with_reducible exact List.prefix_append _ _
    | with_reducible refine fun (hx : tabSorted _) => ?_
    | with_reducible apply tabSorted_map
    | with_reducible apply tabSorted_put
    | with_reducible apply tabSorted_erase
    | with_reducible apply tabSorted_filter
    | with_reducible exact tabSorted_nil
    | (show tabSorted _; assumption)
    | with_reducible exact ledgerOrdered_filter _
    | with_reducible exact fun hx => canon_filterRegs hx _
    | with_reducible exact fun _ _ => rfl
    | ((with_reducible refine fun _ _ => banks_map ?_ _ _) <;> exact fun _ _ => rfl)
    | exact fun _ => rfl
    | exact fun _ _ => rfl
    | (intro _ _ _)
    | (intro _ _)
    | dsimp only
    | dsimp only [id]
    | with_reducible apply Kept.upd

theorem State.loseObj_kept {pv : Bool} {s0 s : State} (c reason : Nat) (o : Obj) (hk : Kept pv s0 s) :
    Kept pv s0 (State.loseObj s c reason o) := by
  dsimp only [State.loseObj]
  repeat' first
    | with_reducible assumption
    | with_reducible apply State.raise_kept
    | with_reducible apply State.setObj_kept
    | split
    | with_reducible apply Kept.ite
    | with_reducible rfl
    | with_reducible exact fun x => x
    | with_reducible exact Nat.le_refl _
    | with_reducible exact List.prefix_rfl
    | with_reducible exact List.prefix_append _ _
    | with_reducible refine fun (hx : tabSorted _) => ?_
    | with_reducible apply tabSorted_map
    | with_reducible apply tabSorted_put
    | with_reducible apply tabSorted_erase
    | with_reducible apply tabSorted_filter
    | with_reducible exact tabSorted_nil
    | (show tabSorted _; assumption)
    | with_reducible exact ledgerOrdered_filter _
    | with_reducible exact fun hx => canon_filterRegs hx _
    | with_reducible exact fun _ _ => rfl
    | ((with_reducible refine fun _ _ => banks_map ?_ _ _) <;> exact fun _ _ => rfl)
    | exact fun _ => rfl
    | exact fun _ _ => rfl
    | with_reducible apply Kept.upd

theorem State.loseTile_kept {pv : Bool} {s0 s : State} (c reason t : Nat) (hk : Kept pv s0 s) :
    Kept pv s0 (State.loseTile s c reason t) := by
  dsimp only [State.loseTile]
  repeat' first
    | with_reducible assumption
    | with_reducible apply State.loseObj_kept
    | split
    | with_reducible apply Kept.ite
    | with_reducible rfl
    | with_reducible exact fun x => x
    | with_reducible exact Nat.le_refl _
    | with_reducible exact List.prefix_rfl
    | with_reducible exact List.prefix_append _ _
    | with_reducible refine fun (hx : tabSorted _) => ?_
    | with_reducible apply tabSorted_map
    | with_reducible apply tabSorted_put
    | with_reducible apply tabSorted_erase
    | with_reducible apply tabSorted_filter
    | with_reducible exact tabSorted_nil
    | (show tabSorted _; assumption)
    | with_reducible exact ledgerOrdered_filter _
    | with_reducible exact fun hx => canon_filterRegs hx _
    | with_reducible exact fun _ _ => rfl
    | ((with_reducible refine fun _ _ => banks_map ?_ _ _) <;> exact fun _ _ => rfl)
    | exact fun _ => rfl
    | exact fun _ _ => rfl
    | with_reducible apply Kept.upd

theorem State.noteUnreadable_kept {pv : Bool} {s0 s : State} (ts : List Nat) (hk : Kept pv s0 s) :
    Kept pv s0 (State.noteUnreadable s ts) := by
  dsimp only [State.noteUnreadable]
  repeat' first
    | with_reducible assumption
    | with_reducible apply State.loseTile_kept
    | split
    | with_reducible apply Kept.ite
    | with_reducible rfl
    | with_reducible exact fun x => x
    | with_reducible exact Nat.le_refl _
    | with_reducible exact List.prefix_rfl
    | with_reducible exact List.prefix_append _ _
    | with_reducible refine fun (hx : tabSorted _) => ?_
    | with_reducible apply tabSorted_map
    | with_reducible apply tabSorted_put
    | with_reducible apply tabSorted_erase
    | with_reducible apply tabSorted_filter
    | with_reducible exact tabSorted_nil
    | (show tabSorted _; assumption)
    | with_reducible exact ledgerOrdered_filter _
    | with_reducible exact fun hx => canon_filterRegs hx _
    | with_reducible exact fun _ _ => rfl
    | ((with_reducible refine fun _ _ => banks_map ?_ _ _) <;> exact fun _ _ => rfl)
    | exact fun _ => rfl
    | exact fun _ _ => rfl
    | with_reducible apply Kept.upd

theorem State.readDone_kept {pv : Bool} {s0 s : State} (e : Entry) (bs : List Byte) (poisonedRead : Bool) (hk : Kept pv s0 s) :
    Kept pv s0 (State.readDone s e bs poisonedRead) := by
  dsimp only [State.readDone]
  repeat' first
    | with_reducible assumption
    | with_reducible apply State.emit_kept
    | with_reducible apply State.draw_kept
    | with_reducible apply State.finish_kept
    | with_reducible apply State.noteUnreadable_kept
    | split
    | with_reducible apply Kept.ite
    | with_reducible rfl
    | with_reducible exact fun x => x
    | with_reducible exact Nat.le_refl _
    | with_reducible exact List.prefix_rfl
    | with_reducible exact List.prefix_append _ _
    | with_reducible refine fun (hx : tabSorted _) => ?_
    | with_reducible apply tabSorted_map
    | with_reducible apply tabSorted_put
    | with_reducible apply tabSorted_erase
    | with_reducible apply tabSorted_filter
    | with_reducible exact tabSorted_nil
    | (show tabSorted _; assumption)
    | with_reducible exact ledgerOrdered_filter _
    | with_reducible exact fun hx => canon_filterRegs hx _
    | with_reducible exact fun _ _ => rfl
    | ((with_reducible refine fun _ _ => banks_map ?_ _ _) <;> exact fun _ _ => rfl)
    | exact fun _ => rfl
    | exact fun _ _ => rfl
    | with_reducible apply Kept.upd

theorem execObjReadDone_kept (pv : Bool) (s : State) (id : Nat) (poisonedRead : Bool) :
    KeptBy pv s (execObjReadDone id poisonedRead s) := by
  dsimp only [execObjReadDone]
  have hk := Kept.refl pv s
  repeat' first
    | with_reducible apply KeptBy.next
    | with_reducible assumption
    | with_reducible apply State.readDone_kept
    | split
    | with_reducible apply Kept.ite
    | with_reducible rfl
    | with_reducible exact fun x => x
    | with_reducible exact Nat.le_refl _
    | with_reducible exact List.prefix_rfl
    | with_reducible exact List.prefix_append _ _
    | with_reducible refine fun (hx : tabSorted _) => ?_
    | with_reducible apply tabSorted_map
    | with_reducible apply tabSorted_put
    | with_reducible apply tabSorted_erase
    | with_reducible apply tabSorted_filter
    | with_reducible exact tabSorted_nil
    | (show tabSorted _; assumption)
    | with_reducible exact ledgerOrdered_filter _
    | with_reducible exact fun hx => canon_filterRegs hx _
    | with_reducible exact fun _ _ => rfl
    | ((with_reducible refine fun _ _ => banks_map ?_ _ _) <;> exact fun _ _ => rfl)
    | exact fun _ => rfl
    | exact fun _ _ => rfl
    | with_reducible apply Kept.upd

end Sys2Proof.Machine
end

