-- ==== Sys2Proof/Laws/KeptScaler.lean ====
section
/-! SUPPORT. Every operation of Machine/Scaler.lean keeps what `Kept` says. -/

set_option linter.unusedTactic false
set_option linter.unreachableTactic false
set_option maxHeartbeats 200000
namespace Sys2Proof.Machine

theorem State.nextStrip_kept {pv : Bool} {s0 s : State} (e : Entry) (hk : Kept pv s0 s) :
    Kept pv s0 (State.nextStrip s e) := by
  dsimp only [State.nextStrip]
  repeat' first
    | with_reducible assumption
    | with_reducible apply State.modEntry_kept
    | split
    | with_reducible apply Kept.ite
    | with_reducible rfl
    | with_reducible exact fun x => x
    | with_reducible exact Nat.le_refl _
    | with_reducible exact List.prefix_rfl
    | with_reducible exact List.prefix_append _ _
    | with_reducible refine fun (hx : tabSorted _) => ?_
    | with_reducible apply tabSorted_map
    | with_reducible apply tabSorted_put
    | with_reducible apply tabSorted_erase
    | with_reducible apply tabSorted_filter
    | with_reducible exact tabSorted_nil
    | (show tabSorted _; assumption)
    | with_reducible exact ledgerOrdered_filter _
    | with_reducible exact fun hx => canon_filterRegs hx _
    | with_reducible exact fun _ _ => rfl
    | ((with_reducible refine fun _ _ => banks_map ?_ _ _) <;> exact fun _ _ => rfl)
    | exact fun _ => rfl
    | exact fun _ _ => rfl
    | exact fun _ => rfl
    | with_reducible apply Kept.upd

theorem startLoad_kept {pv : Bool} {s0 s : State} (e : Entry) (hk : Kept pv s0 s) :
    Kept pv s0 (startLoad e s) := by
  dsimp only [startLoad]
  repeat' first
    | with_reducible assumption
    | with_reducible apply State.emit_kept
    | exact Kept.ofEq ‹_› (by apply State.reserve_kept; assumption)
    | with_reducible apply State.reserve_kept
    | with_reducible apply State.modEntry_kept
    | with_reducible apply State.finish_kept
    | with_reducible apply State.start_kept
    | with_reducible apply State.nextStrip_kept
    | split
    | with_reducible apply Kept.ite
    | with_reducible rfl
    | with_reducible exact fun x => x
    | with_reducible exact Nat.le_refl _
    | with_reducible exact List.prefix_rfl
    | with_reducible exact List.prefix_append _ _
    | with_reducible refine fun (hx : tabSorted _) => ?_
    | with_reducible apply tabSorted_map
    | with_reducible apply tabSorted_put
    | with_reducible apply tabSorted_erase
    | with_reducible apply tabSorted_filter
    | with_reducible exact tabSorted_nil
    | (show tabSorted _; assumption)
    | with_reducible exact ledgerOrdered_filter _
    | with_reducible exact fun hx => canon_filterRegs hx _
    | with_reducible exact fun _ _ => rfl
    | ((with_reducible refine fun _ _ => banks_map ?_ _ _) <;> exact fun _ _ => rfl)
    | exact fun _ => rfl
    | exact fun _ _ => rfl
    | exact fun _ => rfl
    | with_reducible apply Kept.upd

theorem execPlateLoad_kept (pv : Bool) (s : State) (r : Fin 128) :
    KeptBy pv s (execPlateLoad r s) := by
  dsimp only [execPlateLoad]
  have hk := Kept.refl pv s
  repeat' first
    | with_reducible apply KeptBy.next
    | with_reducible assumption
    | with_reducible apply State.reject_kept
    | with_reducible apply State.withCur_kept
    | with_reducible apply State.admitNew_kept
    | split
    | with_reducible apply Kept.ite
    | with_reducible rfl
    | with_reducible exact fun x => x
    | with_reducible exact Nat.le_refl _
    | with_reducible exact List.prefix_rfl
    | with_reducible exact List.prefix_append _ _
    | with_reducible refine fun (hx : tabSorted _) => ?_
    | with_reducible apply tabSorted_map
    | with_reducible apply tabSorted_put
    | with_reducible apply tabSorted_erase
    | with_reducible apply tabSorted_filter
    | with_reducible exact tabSorted_nil
    | (show tabSorted _; assumption)
    | with_reducible exact ledgerOrdered_filter _
    | with_reducible exact fun hx => canon_filterRegs hx _
    | with_reducible exact fun _ _ => rfl
    | ((with_reducible refine fun _ _ => banks_map ?_ _ _) <;> exact fun _ _ => rfl)
    | exact fun _ => rfl
    | exact fun _ _ => rfl
    | (intro _ _ _)
    | (intro _ _)
    | dsimp only
    | dsimp only [id]
    | with_reducible apply Kept.upd

theorem State.takeScaler_kept {pv : Bool} {s0 s : State} (e : Entry) (hk : Kept pv s0 s) :
    Kept pv s0 (State.takeScaler s e) := by
  dsimp only [State.takeScaler]
  repeat' first
    | with_reducible assumption
    | with_reducible apply State.startIf_kept
    | with_reducible apply State.nextStrip_kept
    | with_reducible apply startLoad_kept
    | split
    | with_reducible apply Kept.ite
    | (intro _ _ _)
    | (intro _ _)
    | dsimp only
    | dsimp only [id]

theorem execPlateLoadStart_kept (pv : Bool) (s : State) (id : Nat) :
    KeptBy pv s (execPlateLoadStart id s) := by
  dsimp only [execPlateLoadStart]
  have hk := Kept.refl pv s
  repeat' first
    | with_reducible apply KeptBy.next
    | with_reducible assumption
    | with_reducible apply State.takeScaler_kept
    | split
    | with_reducible apply Kept.ite
    | with_reducible rfl
    | with_reducible exact fun x => x
    | with_reducible exact Nat.le_refl _
    | with_reducible exact List.prefix_rfl
    | with_reducible exact List.prefix_append _ _
    | with_reducible refine fun (hx : tabSorted _) => ?_
    | with_reducible apply tabSorted_map
    | with_reducible apply tabSorted_put
    | with_reducible apply tabSorted_erase
    | with_reducible apply tabSorted_filter
    | with_reducible exact tabSorted_nil
    | (show tabSorted _; assumption)
    | with_reducible exact ledgerOrdered_filter _
    | with_reducible exact fun hx => canon_filterRegs hx _
    | with_reducible exact fun _ _ => rfl
    | ((with_reducible refine fun _ _ => banks_map ?_ _ _) <;> exact fun _ _ => rfl)
    | exact fun _ => rfl
    | exact fun _ _ => rfl
    | with_reducible apply Kept.upd

theorem State.loadDone_kept {pv : Bool} {s0 s : State} (e : Entry) (n : Nat) (data : HostRead) (hk : Kept pv s0 s) :
    Kept pv s0 (State.loadDone s e n data) := by
  dsimp only [State.loadDone]
  repeat' first
    | with_reducible assumption
    | with_reducible apply State.logData_kept
    | with_reducible apply State.finish_kept
    | with_reducible apply State.settle_kept
    | split
    | with_reducible apply Kept.ite
    | with_reducible rfl
    | with_reducible exact fun x => x
    | with_reducible exact Nat.le_refl _
    | with_reducible exact List.prefix_rfl
    | with_reducible exact List.prefix_append _ _
    | with_reducible refine fun (hx : tabSorted _) => ?_
    | with_reducible apply tabSorted_map
    | with_reducible apply tabSorted_put
    | with_reducible apply tabSorted_erase
    | with_reducible apply tabSorted_filter
    | with_reducible exact tabSorted_nil
    | (show tabSorted _; assumption)
    | with_reducible exact ledgerOrdered_filter _
    | with_reducible exact fun hx => canon_filterRegs hx _
    | with_reducible exact fun _ _ => rfl
    | ((with_reducible refine fun _ _ => banks_map ?_ _ _) <;> exact fun _ _ => rfl)
    | exact fun _ => rfl
    | exact fun _ _ => rfl
    | with_reducible apply Kept.upd

theorem execPlateLoadDone_kept (pv : Bool) (s : State) (id : Nat) (data : HostRead) :
    KeptBy pv s (execPlateLoadDone id data s) := by
  dsimp only [execPlateLoadDone]
  have hk := Kept.refl pv s
  repeat' first
    | with_reducible apply KeptBy.next
    | with_reducible assumption
    | with_reducible apply State.loadDone_kept
    | split
    | with_reducible apply Kept.ite
    | with_reducible rfl
    | with_reducible exact fun x => x
    | with_reducible exact Nat.le_refl _
    | with_reducible exact List.prefix_rfl
    | with_reducible exact List.prefix_append _ _
    | with_reducible refine fun (hx : tabSorted _) => ?_
    | with_reducible apply tabSorted_map
    | with_reducible apply tabSorted_put
    | with_reducible apply tabSorted_erase
    | with_reducible apply tabSorted_filter
    | with_reducible exact tabSorted_nil
    | (show tabSorted _; assumption)
    | with_reducible exact ledgerOrdered_filter _
    | with_reducible exact fun hx => canon_filterRegs hx _
    | with_reducible exact fun _ _ => rfl
    | ((with_reducible refine fun _ _ => banks_map ?_ _ _) <;> exact fun _ _ => rfl)
    | exact fun _ => rfl
    | exact fun _ _ => rfl
    | with_reducible apply Kept.upd

end Sys2Proof.Machine
end

