-- ==== Sys2Proof/Laws/KeptSawyer.lean ====
section
/-! SUPPORT. Every operation of Machine/Sawyer.lean keeps what `Kept` says. -/

set_option linter.unusedTactic false
set_option linter.unreachableTactic false
set_option maxHeartbeats 200000
namespace Sys2Proof.Machine

theorem State.askList_kept {pv : Bool} {s0 s : State} (d : Desc) (hk : Kept pv s0 s) :
    Kept pv s0 (State.askList s d) := by
  dsimp only [State.askList]
  repeat' first
    | with_reducible assumption
    | with_reducible apply State.emit_kept
    | split
    | with_reducible apply Kept.ite

theorem execSawyerList_kept (pv : Bool) (s : State) (r : Fin 128) (list : HostRead) :
    KeptBy pv s (execSawyerList r list s) := by
  dsimp only [execSawyerList]
  have hk := Kept.refl pv s
  repeat' first
    | with_reducible apply KeptBy.next
    | with_reducible assumption
    | with_reducible apply State.logData_kept
    | with_reducible apply State.reject_kept
    | with_reducible apply State.withCur_kept
    | with_reducible apply State.admitNew_kept
    | with_reducible apply State.askList_kept
    | split
    | with_reducible apply Kept.ite
    | with_reducible rfl
    | with_reducible exact fun x => x
    | with_reducible exact Nat.le_refl _
    | with_reducible exact List.prefix_rfl
    | with_reducible exact List.prefix_append _ _
    | with_reducible refine fun (hx : tabSorted _) => ?_
    | with_reducible apply tabSorted_map
    | with_reducible apply tabSorted_put
    | with_reducible apply tabSorted_erase
    | with_reducible apply tabSorted_filter
    | with_reducible exact tabSorted_nil
    | (show tabSorted _; assumption)
    | with_reducible exact ledgerOrdered_filter _
    | with_reducible exact fun hx => canon_filterRegs hx _
    | with_reducible exact fun _ _ => rfl
    | ((with_reducible refine fun _ _ => banks_map ?_ _ _) <;> exact fun _ _ => rfl)
    | exact fun _ => rfl
    | exact fun _ _ => rfl
    | (intro _ _ _)
    | (intro _ _)
    | dsimp only
    | dsimp only [id]
    | with_reducible apply Kept.upd

theorem reserveAll_kept {pv : Bool} {s0 : State} (id : Nat) (cmds : List SawyerCmd) (hs : List Nat) {s t : State}
    (e : reserveAll id cmds hs s = .ok t) (h : Kept pv s0 s) : Kept pv s0 t := by
  induction hs generalizing s with
  | nil => cases e; exact h
  | cons x hs ih =>
    unfold reserveAll at e
    split at e
    · exact ih e h
    · dsimp only at e
      split at e
      · cases e
      · exact ih e (State.peaks_kept (State.modEntry_kept _ _ (fun _ => rfl) (State.reserve_kept _ _ h)))

theorem startSawyer_kept {pv : Bool} {s0 s : State} (list : HostRead) (e : Entry) (hk : Kept pv s0 s) :
    Kept pv s0 (startSawyer list e s) := by
  dsimp only [startSawyer]
  repeat' first
    | with_reducible assumption
    | with_reducible apply State.count_kept
    | with_reducible apply State.modEntry_kept
    | with_reducible apply State.logData_kept
    | with_reducible apply State.finish_kept
    | with_reducible apply State.start_kept
    | with_reducible apply State.askList_kept
    | refine reserveAll_kept _ _ _ ‹_› ?_
    | split
    | with_reducible apply Kept.ite
    | with_reducible rfl
    | with_reducible exact fun x => x
    | with_reducible exact Nat.le_refl _
    | with_reducible exact List.prefix_rfl
    | with_reducible exact List.prefix_append _ _
    | with_reducible refine fun (hx : tabSorted _) => ?_
    | with_reducible apply tabSorted_map
    | with_reducible apply tabSorted_put
    | with_reducible apply tabSorted_erase
    | with_reducible apply tabSorted_filter
    | with_reducible exact tabSorted_nil
    | (show tabSorted _; assumption)
    | with_reducible exact ledgerOrdered_filter _
    | with_reducible exact fun hx => canon_filterRegs hx _
    | with_reducible exact fun _ _ => rfl
    | ((with_reducible refine fun _ _ => banks_map ?_ _ _) <;> exact fun _ _ => rfl)
    | exact fun _ => rfl
    | exact fun _ _ => rfl
    | exact fun _ => rfl
    | with_reducible apply Kept.upd

theorem execSawyerListStart_kept (pv : Bool) (s : State) (id : Nat) (list : HostRead) :
    KeptBy pv s (execSawyerListStart id list s) := by
  dsimp only [execSawyerListStart]
  have hk := Kept.refl pv s
  repeat' first
    | with_reducible apply KeptBy.next
    | with_reducible assumption
    | with_reducible apply State.startIf_kept
    | with_reducible apply startSawyer_kept
    | split
    | with_reducible apply Kept.ite
    | with_reducible rfl
    | with_reducible exact fun x => x
    | with_reducible exact Nat.le_refl _
    | with_reducible exact List.prefix_rfl
    | with_reducible exact List.prefix_append _ _
    | with_reducible refine fun (hx : tabSorted _) => ?_
    | with_reducible apply tabSorted_map
    | with_reducible apply tabSorted_put
    | with_reducible apply tabSorted_erase
    | with_reducible apply tabSorted_filter
    | with_reducible exact tabSorted_nil
    | (show tabSorted _; assumption)
    | with_reducible exact ledgerOrdered_filter _
    | with_reducible exact fun hx => canon_filterRegs hx _
    | with_reducible exact fun _ _ => rfl
    | ((with_reducible refine fun _ _ => banks_map ?_ _ _) <;> exact fun _ _ => rfl)
    | exact fun _ => rfl
    | exact fun _ _ => rfl
    | (intro _ _ _)
    | (intro _ _)
    | dsimp only
    | dsimp only [id]
    | with_reducible apply Kept.upd

theorem State.modCmd_kept {pv : Bool} {s0 s : State} (id k : Nat) (f : SawyerCmd → SawyerCmd) (hk : Kept pv s0 s) :
    Kept pv s0 (State.modCmd s id k f) := by
  dsimp only [State.modCmd]
  repeat' first
    | with_reducible assumption
    | with_reducible apply State.modEntry_kept
    | split
    | with_reducible apply Kept.ite
    | with_reducible rfl
    | with_reducible exact fun x => x
    | with_reducible exact Nat.le_refl _
    | with_reducible exact List.prefix_rfl
    | with_reducible exact List.prefix_append _ _
    | with_reducible refine fun (hx : tabSorted _) => ?_
    | with_reducible apply tabSorted_map
    | with_reducible apply tabSorted_put
    | with_reducible apply tabSorted_erase
    | with_reducible apply tabSorted_filter
    | with_reducible exact tabSorted_nil
    | (show tabSorted _; assumption)
    | with_reducible exact ledgerOrdered_filter _
    | with_reducible exact fun hx => canon_filterRegs hx _
    | with_reducible exact fun _ _ => rfl
    | ((with_reducible refine fun _ _ => banks_map ?_ _ _) <;> exact fun _ _ => rfl)
    | exact fun _ => rfl
    | exact fun _ _ => rfl
    | exact fun _ => rfl
    | with_reducible apply Kept.upd

theorem State.sawTake_kept {pv : Bool} {s0 s : State} (id k op : Nat) (hk : Kept pv s0 s) :
    Kept pv s0 (State.sawTake s id k op) := by
  dsimp only [State.sawTake]
  repeat' first
    | with_reducible assumption
    | with_reducible apply State.modCmd_kept
    | split
    | with_reducible apply Kept.ite
    | with_reducible rfl
    | with_reducible exact fun x => x
    | with_reducible exact Nat.le_refl _
    | with_reducible exact List.prefix_rfl
    | with_reducible exact List.prefix_append _ _
    | with_reducible refine fun (hx : tabSorted _) => ?_
    | with_reducible apply tabSorted_map
    | with_reducible apply tabSorted_put
    | with_reducible apply tabSorted_erase
    | with_reducible apply tabSorted_filter
    | with_reducible exact tabSorted_nil
    | (show tabSorted _; assumption)
    | with_reducible exact ledgerOrdered_filter _
    | with_reducible exact fun hx => canon_filterRegs hx _
    | with_reducible exact fun _ _ => rfl
    | ((with_reducible refine fun _ _ => banks_map ?_ _ _) <;> exact fun _ _ => rfl)
    | exact fun _ => rfl
    | exact fun _ _ => rfl
    | exact fun _ => rfl
    | with_reducible apply Kept.upd

theorem execFill_kept (pv : Bool) (s : State) (id k : Nat) :
    KeptBy pv s (execFill id k s) := by
  dsimp only [execFill]
  have hk := Kept.refl pv s
  repeat' first
    | with_reducible apply KeptBy.next
    | with_reducible assumption
    | with_reducible apply State.sawTake_kept
    | split
    | with_reducible apply Kept.ite

theorem execCopy_kept (pv : Bool) (s : State) (id k : Nat) :
    KeptBy pv s (execCopy id k s) := by
  dsimp only [execCopy]
  have hk := Kept.refl pv s
  repeat' first
    | with_reducible apply KeptBy.next
    | with_reducible assumption
    | with_reducible apply State.sawTake_kept
    | split
    | with_reducible apply Kept.ite

theorem execConvert_kept (pv : Bool) (s : State) (id k : Nat) :
    KeptBy pv s (execConvert id k s) := by
  dsimp only [execConvert]
  have hk := Kept.refl pv s
  repeat' first
    | with_reducible apply KeptBy.next
    | with_reducible assumption
    | with_reducible apply State.sawTake_kept
    | split
    | with_reducible apply Kept.ite

theorem execBlend_kept (pv : Bool) (s : State) (id k : Nat) :
    KeptBy pv s (execBlend id k s) := by
  dsimp only [execBlend]
  have hk := Kept.refl pv s
  repeat' first
    | with_reducible apply KeptBy.next
    | with_reducible assumption
    | with_reducible apply State.sawTake_kept
    | split
    | with_reducible apply Kept.ite

theorem execMaskFill_kept (pv : Bool) (s : State) (id k : Nat) :
    KeptBy pv s (execMaskFill id k s) := by
  dsimp only [execMaskFill]
  have hk := Kept.refl pv s
  repeat' first
    | with_reducible apply KeptBy.next
    | with_reducible assumption
    | with_reducible apply State.sawTake_kept
    | split
    | with_reducible apply Kept.ite

theorem State.signalCmd_kept {pv : Bool} {s0 s : State} (e : Entry) (k : Nat) (hk : Kept pv s0 s) :
    Kept pv s0 (State.signalCmd s e k) := by
  dsimp only [State.signalCmd]
  repeat' first
    | with_reducible assumption
    | with_reducible apply State.emit_kept
    | with_reducible apply State.modCmd_kept
    | split
    | with_reducible apply Kept.ite
    | with_reducible rfl
    | with_reducible exact fun x => x
    | with_reducible exact Nat.le_refl _
    | with_reducible exact List.prefix_rfl
    | with_reducible exact List.prefix_append _ _
    | with_reducible refine fun (hx : tabSorted _) => ?_
    | with_reducible apply tabSorted_map
    | with_reducible apply tabSorted_put
    | with_reducible apply tabSorted_erase
    | with_reducible apply tabSorted_filter
    | with_reducible exact tabSorted_nil
    | (show tabSorted _; assumption)
    | with_reducible exact ledgerOrdered_filter _
    | with_reducible exact fun hx => canon_filterRegs hx _
    | with_reducible exact fun _ _ => rfl
    | ((with_reducible refine fun _ _ => banks_map ?_ _ _) <;> exact fun _ _ => rfl)
    | exact fun _ => rfl
    | exact fun _ _ => rfl
    | exact fun _ => rfl
    | with_reducible apply Kept.upd

theorem State.failCmd_kept {pv : Bool} {s0 s : State} (id k : Nat) (f : Fail) (hk : Kept pv s0 s) :
    Kept pv s0 (State.failCmd s id k f) := by
  dsimp only [State.failCmd]
  repeat' first
    | with_reducible assumption
    | with_reducible apply State.modCmd_kept
    | split
    | with_reducible apply Kept.ite
    | with_reducible rfl
    | with_reducible exact fun x => x
    | with_reducible exact Nat.le_refl _
    | with_reducible exact List.prefix_rfl
    | with_reducible exact List.prefix_append _ _
    | with_reducible refine fun (hx : tabSorted _) => ?_
    | with_reducible apply tabSorted_map
    | with_reducible apply tabSorted_put
    | with_reducible apply tabSorted_erase
    | with_reducible apply tabSorted_filter
    | with_reducible exact tabSorted_nil
    | (show tabSorted _; assumption)
    | with_reducible exact ledgerOrdered_filter _
    | with_reducible exact fun hx => canon_filterRegs hx _
    | with_reducible exact fun _ _ => rfl
    | ((with_reducible refine fun _ _ => banks_map ?_ _ _) <;> exact fun _ _ => rfl)
    | exact fun _ => rfl
    | exact fun _ _ => rfl
    | exact fun _ => rfl
    | with_reducible apply Kept.upd

theorem State.putRow_kept {pv : Bool} {s0 s : State} (e : Entry) (r : RowJob) (bytes : Tab Byte) (hk : Kept pv s0 s) :
    Kept pv s0 (State.putRow s e r bytes) := by
  dsimp only [State.putRow]
  repeat' first
    | with_reducible assumption
    | with_reducible apply State.modEntry_kept
    | with_reducible apply State.putWords_kept
    | split
    | with_reducible apply Kept.ite
    | with_reducible rfl
    | with_reducible exact fun x => x
    | with_reducible exact Nat.le_refl _
    | with_reducible exact List.prefix_rfl
    | with_reducible exact List.prefix_append _ _
    | with_reducible refine fun (hx : tabSorted _) => ?_
    | with_reducible apply tabSorted_map
    | with_reducible apply tabSorted_put
    | with_reducible apply tabSorted_erase
    | with_reducible apply tabSorted_filter
    | with_reducible exact tabSorted_nil
    | (show tabSorted _; assumption)
    | with_reducible exact ledgerOrdered_filter _
    | with_reducible exact fun hx => canon_filterRegs hx _
    | with_reducible exact fun _ _ => rfl
    | ((with_reducible refine fun _ _ => banks_map ?_ _ _) <;> exact fun _ _ => rfl)
    | exact fun _ => rfl
    | exact fun _ _ => rfl
    | exact fun _ => rfl
    | with_reducible apply Kept.upd

theorem State.countPixels_kept {pv : Bool} {s0 s : State} (n : Nat) (hk : Kept pv s0 s) :
    Kept pv s0 (State.countPixels s n) := by
  dsimp only [State.countPixels]
  repeat' first
    | with_reducible assumption
    | with_reducible apply State.setReg_kept
    | split
    | with_reducible apply Kept.ite
    | with_reducible rfl
    | with_reducible exact fun x => x
    | with_reducible exact Nat.le_refl _
    | with_reducible exact List.prefix_rfl
    | with_reducible exact List.prefix_append _ _
    | with_reducible refine fun (hx : tabSorted _) => ?_
    | with_reducible apply tabSorted_map
    | with_reducible apply tabSorted_put
    | with_reducible apply tabSorted_erase
    | with_reducible apply tabSorted_filter
    | with_reducible exact tabSorted_nil
    | (show tabSorted _; assumption)
    | with_reducible exact ledgerOrdered_filter _
    | with_reducible exact fun hx => canon_filterRegs hx _
    | with_reducible exact fun _ _ => rfl
    | ((with_reducible refine fun _ _ => banks_map ?_ _ _) <;> exact fun _ _ => rfl)
    | exact fun _ => rfl
    | exact fun _ _ => rfl
    | with_reducible apply Kept.upd

theorem State.sawRow_kept {pv : Bool} {s0 s : State} (id k : Nat) (hk : Kept pv s0 s) :
    Kept pv s0 (State.sawRow s id k) := by
  dsimp only [State.sawRow]
  repeat' first
    | with_reducible assumption
    | with_reducible apply State.run_kept
    | with_reducible apply State.modCmd_kept
    | with_reducible apply State.signalCmd_kept
    | with_reducible apply State.failCmd_kept
    | with_reducible apply State.putRow_kept
    | with_reducible apply State.countPixels_kept
    | split
    | with_reducible apply Kept.ite
    | with_reducible rfl
    | with_reducible exact fun x => x
    | with_reducible exact Nat.le_refl _
    | with_reducible exact List.prefix_rfl
    | with_reducible exact List.prefix_append _ _
    | with_reducible refine fun (hx : tabSorted _) => ?_
    | with_reducible apply tabSorted_map
    | with_reducible apply tabSorted_put
    | with_reducible apply tabSorted_erase
    | with_reducible apply tabSorted_filter
    | with_reducible exact tabSorted_nil
    | (show tabSorted _; assumption)
    | with_reducible exact ledgerOrdered_filter _
    | with_reducible exact fun hx => canon_filterRegs hx _
    | with_reducible exact fun _ _ => rfl
    | ((with_reducible refine fun _ _ => banks_map ?_ _ _) <;> exact fun _ _ => rfl)
    | exact fun _ => rfl
    | exact fun _ _ => rfl
    | exact fun _ => rfl
    | with_reducible apply Kept.upd

theorem execSawyerRowDone_kept (pv : Bool) (s : State) (id k : Nat) :
    KeptBy pv s (execSawyerRowDone id k s) := by
  dsimp only [execSawyerRowDone]
  have hk := Kept.refl pv s
  repeat' first
    | with_reducible apply KeptBy.next
    | with_reducible assumption
    | with_reducible apply State.sawRow_kept
    | split
    | with_reducible apply Kept.ite

theorem State.settleList_kept {pv : Bool} {s0 s : State} (e : Entry) (status : Nat) (hk : Kept pv s0 s) :
    Kept pv s0 (State.settleList s e status) := by
  dsimp only [State.settleList]
  repeat' first
    | with_reducible assumption
    | with_reducible apply State.setObj_kept
    | with_reducible apply State.settle_kept
    | with_reducible apply Kept.foldl
    | with_reducible apply Kept.foldlPair
    | split
    | with_reducible apply Kept.ite
    | with_reducible rfl
    | with_reducible exact fun x => x
    | with_reducible exact Nat.le_refl _
    | with_reducible exact List.prefix_rfl
    | with_reducible exact List.prefix_append _ _
    | with_reducible refine fun (hx : tabSorted _) => ?_
    | with_reducible apply tabSorted_map
    | with_reducible apply tabSorted_put
    | with_reducible apply tabSorted_erase
    | with_reducible apply tabSorted_filter
    | with_reducible exact tabSorted_nil
    | (show tabSorted _; assumption)
    | with_reducible exact ledgerOrdered_filter _
    | with_reducible exact fun hx => canon_filterRegs hx _
    | with_reducible exact fun _ _ => rfl
    | ((with_reducible refine fun _ _ => banks_map ?_ _ _) <;> exact fun _ _ => rfl)
    | exact fun _ => rfl
    | exact fun _ _ => rfl
    | (intro _ _ _)
    | (intro _ _)
    | dsimp only
    | dsimp only [id]
    | with_reducible apply Kept.upd

theorem State.sawFinish_kept {pv : Bool} {s0 s : State} (id : Nat) (hk : Kept pv s0 s) :
    Kept pv s0 (State.sawFinish s id) := by
  dsimp only [State.sawFinish]
  repeat' first
    | with_reducible assumption
    | with_reducible apply State.count_kept
    | with_reducible apply State.finish_kept
    | with_reducible apply State.settleList_kept
    | split
    | with_reducible apply Kept.ite
    | with_reducible rfl
    | with_reducible exact fun x => x
    | with_reducible exact Nat.le_refl _
    | with_reducible exact List.prefix_rfl
    | with_reducible exact List.prefix_append _ _
    | with_reducible refine fun (hx : tabSorted _) => ?_
    | with_reducible apply tabSorted_map
    | with_reducible apply tabSorted_put
    | with_reducible apply tabSorted_erase
    | with_reducible apply tabSorted_filter
    | with_reducible exact tabSorted_nil
    | (show tabSorted _; assumption)
    | with_reducible exact ledgerOrdered_filter _
    | with_reducible exact fun hx => canon_filterRegs hx _
    | with_reducible exact fun _ _ => rfl
    | ((with_reducible refine fun _ _ => banks_map ?_ _ _) <;> exact fun _ _ => rfl)
    | exact fun _ => rfl
    | exact fun _ _ => rfl
    | with_reducible apply Kept.upd

theorem State.sawRows_kept {pv : Bool} {s0 : State} (id k n : Nat) {s : State} (h : Kept pv s0 s) : Kept pv s0 (State.sawRows id k n s) := by
  induction n generalizing s with
  | zero => exact h
  | succ n ih => exact ih (State.sawRow_kept _ _ h)

theorem State.sawDone_kept {pv : Bool} {s0 s : State} (id k : Nat) (hk : Kept pv s0 s) :
    Kept pv s0 (State.sawDone s id k) := by
  dsimp only [State.sawDone]
  repeat' first
    | with_reducible assumption
    | with_reducible apply State.modCmd_kept
    | split
    | with_reducible apply Kept.ite
    | with_reducible rfl
    | with_reducible exact fun x => x
    | with_reducible exact Nat.le_refl _
    | with_reducible exact List.prefix_rfl
    | with_reducible exact List.prefix_append _ _
    | with_reducible refine fun (hx : tabSorted _) => ?_
    | with_reducible apply tabSorted_map
    | with_reducible apply tabSorted_put
    | with_reducible apply tabSorted_erase
    | with_reducible apply tabSorted_filter
    | with_reducible exact tabSorted_nil
    | (show tabSorted _; assumption)
    | with_reducible exact ledgerOrdered_filter _
    | with_reducible exact fun hx => canon_filterRegs hx _
    | with_reducible exact fun _ _ => rfl
    | ((with_reducible refine fun _ _ => banks_map ?_ _ _) <;> exact fun _ _ => rfl)
    | exact fun _ => rfl
    | exact fun _ _ => rfl
    | exact fun _ => rfl
    | with_reducible apply Kept.upd

theorem execSawyerCommandDone_kept (pv : Bool) (s : State) (id k : Nat) :
    KeptBy pv s (execSawyerCommandDone id k s) := by
  dsimp only [execSawyerCommandDone]
  have hk := Kept.refl pv s
  repeat' first
    | with_reducible apply KeptBy.next
    | with_reducible assumption
    | with_reducible apply State.sawFinish_kept
    | with_reducible apply State.sawRows_kept
    | with_reducible apply State.sawDone_kept
    | split
    | with_reducible apply Kept.ite
    | with_reducible rfl
    | with_reducible exact fun x => x
    | with_reducible exact Nat.le_refl _
    | with_reducible exact List.prefix_rfl
    | with_reducible exact List.prefix_append _ _
    | with_reducible refine fun (hx : tabSorted _) => ?_
    | with_reducible apply tabSorted_map
    | with_reducible apply tabSorted_put
    | with_reducible apply tabSorted_erase
    | with_reducible apply tabSorted_filter
    | with_reducible exact tabSorted_nil
    | (show tabSorted _; assumption)
    | with_reducible exact ledgerOrdered_filter _
    | with_reducible exact fun hx => canon_filterRegs hx _
    | with_reducible exact fun _ _ => rfl
    | ((with_reducible refine fun _ _ => banks_map ?_ _ _) <;> exact fun _ _ => rfl)
    | exact fun _ => rfl
    | exact fun _ _ => rfl
    | with_reducible apply Kept.upd

theorem execWaitScan_kept (pv : Bool) (s : State) (id k : Nat) :
    KeptBy pv s (execWaitScan id k s) := by
  dsimp only [execWaitScan]
  have hk := Kept.refl pv s
  repeat' first
    | with_reducible apply KeptBy.next
    | with_reducible assumption
    | with_reducible apply State.count_kept
    | with_reducible apply State.modCmd_kept
    | with_reducible apply State.sawTake_kept
    | with_reducible apply State.sawFinish_kept
    | split
    | with_reducible apply Kept.ite
    | with_reducible rfl
    | with_reducible exact fun x => x
    | with_reducible exact Nat.le_refl _
    | with_reducible exact List.prefix_rfl
    | with_reducible exact List.prefix_append _ _
    | with_reducible refine fun (hx : tabSorted _) => ?_
    | with_reducible apply tabSorted_map
    | with_reducible apply tabSorted_put
    | with_reducible apply tabSorted_erase
    | with_reducible apply tabSorted_filter
    | with_reducible exact tabSorted_nil
    | (show tabSorted _; assumption)
    | with_reducible exact ledgerOrdered_filter _
    | with_reducible exact fun hx => canon_filterRegs hx _
    | with_reducible exact fun _ _ => rfl
    | ((with_reducible refine fun _ _ => banks_map ?_ _ _) <;> exact fun _ _ => rfl)
    | exact fun _ => rfl
    | exact fun _ _ => rfl
    | exact fun _ => rfl
    | with_reducible apply Kept.upd

theorem State.scanReached_kept {pv : Bool} {s0 s : State} (p sub line : Nat) (hk : Kept pv s0 s) :
    Kept pv s0 (State.scanReached s p sub line) := by
  dsimp only [State.scanReached]
  repeat' first
    | with_reducible assumption
    | with_reducible apply State.count_kept
    | with_reducible apply State.modEntry_kept
    | with_reducible apply State.sawFinish_kept
    | with_reducible apply Kept.foldl
    | with_reducible apply Kept.foldlPair
    | split
    | with_reducible apply Kept.ite
    | with_reducible rfl
    | with_reducible exact fun x => x
    | with_reducible exact Nat.le_refl _
    | with_reducible exact List.prefix_rfl
    | with_reducible exact List.prefix_append _ _
    | with_reducible refine fun (hx : tabSorted _) => ?_
    | with_reducible apply tabSorted_map
    | with_reducible apply tabSorted_put
    | with_reducible apply tabSorted_erase
    | with_reducible apply tabSorted_filter
    | with_reducible exact tabSorted_nil
    | (show tabSorted _; assumption)
    | with_reducible exact ledgerOrdered_filter _
    | with_reducible exact fun hx => canon_filterRegs hx _
    | with_reducible exact fun _ _ => rfl
    | ((with_reducible refine fun _ _ => banks_map ?_ _ _) <;> exact fun _ _ => rfl)
    | exact fun _ => rfl
    | exact fun _ _ => rfl
    | (refine ledgerOrdered_map fun e => ?_; split <;> first | rfl | (split <;> rfl))
    | exact fun _ => rfl
    | (intro _ _ _)
    | (intro _ _)
    | dsimp only
    | dsimp only [id]
    | with_reducible apply Kept.upd

theorem State.scanStopped_kept {pv : Bool} {s0 s : State} (p : Nat) (hk : Kept pv s0 s) :
    Kept pv s0 (State.scanStopped s p) := by
  dsimp only [State.scanStopped]
  repeat' first
    | with_reducible assumption
    | with_reducible apply State.count_kept
    | with_reducible apply State.modEntry_kept
    | with_reducible apply State.sawFinish_kept
    | with_reducible apply Kept.foldl
    | with_reducible apply Kept.foldlPair
    | split
    | with_reducible apply Kept.ite
    | with_reducible rfl
    | with_reducible exact fun x => x
    | with_reducible exact Nat.le_refl _
    | with_reducible exact List.prefix_rfl
    | with_reducible exact List.prefix_append _ _
    | with_reducible refine fun (hx : tabSorted _) => ?_
    | with_reducible apply tabSorted_map
    | with_reducible apply tabSorted_put
    | with_reducible apply tabSorted_erase
    | with_reducible apply tabSorted_filter
    | with_reducible exact tabSorted_nil
    | (show tabSorted _; assumption)
    | with_reducible exact ledgerOrdered_filter _
    | with_reducible exact fun hx => canon_filterRegs hx _
    | with_reducible exact fun _ _ => rfl
    | ((with_reducible refine fun _ _ => banks_map ?_ _ _) <;> exact fun _ _ => rfl)
    | exact fun _ => rfl
    | exact fun _ _ => rfl
    | (refine ledgerOrdered_map fun e => ?_; split <;> first | rfl | (split <;> rfl))
    | exact fun _ => rfl
    | (intro _ _ _)
    | (intro _ _)
    | dsimp only
    | dsimp only [id]
    | with_reducible apply Kept.upd

end Sys2Proof.Machine
end

