-- ==== Sys2Proof/Laws/KeptScene.lean ====
section
/-! SUPPORT. Every operation of Machine/Scene.lean keeps what `Kept` says. -/

set_option linter.unusedTactic false
set_option linter.unreachableTactic false
set_option maxHeartbeats 200000
namespace Sys2Proof.Machine

theorem State.cancelStep_kept {pv : Bool} {s0 s : State}  (hk : Kept pv s0 s) :
    Kept pv s0 (State.cancelStep s) := by
  dsimp only [State.cancelStep]
  repeat' first
    | with_reducible assumption
    | with_reducible apply State.setBit_kept
    | with_reducible apply State.raise_kept
    | split
    | with_reducible apply Kept.ite
    | with_reducible rfl
    | with_reducible exact fun x => x
    | with_reducible exact Nat.le_refl _
    | with_reducible exact List.prefix_rfl
    | with_reducible exact List.prefix_append _ _
    | with_reducible refine fun (hx : tabSorted _) => ?_
    | with_reducible apply tabSorted_map
    | with_reducible apply tabSorted_put
    | with_reducible apply tabSorted_erase
    | with_reducible apply tabSorted_filter
    | with_reducible exact tabSorted_nil
    | (show tabSorted _; assumption)
    | with_reducible exact ledgerOrdered_filter _
    | with_reducible exact fun hx => canon_filterRegs hx _
    | with_reducible exact fun _ _ => rfl
    | ((with_reducible refine fun _ _ => banks_map ?_ _ _) <;> exact fun _ _ => rfl)
    | exact fun _ => rfl
    | exact fun _ _ => rfl
    | rfl
    | with_reducible apply Kept.upd

theorem State.hostScene_kept {pv : Bool} {s0 s : State}  (hk : Kept pv s0 s) :
    Kept pv s0 (State.hostScene s) := by
  dsimp only [State.hostScene]
  repeat' first
    | with_reducible assumption
    | with_reducible apply State.cancelStep_kept
    | split
    | with_reducible apply Kept.ite
    | with_reducible rfl
    | with_reducible exact fun x => x
    | with_reducible exact Nat.le_refl _
    | with_reducible exact List.prefix_rfl
    | with_reducible exact List.prefix_append _ _
    | with_reducible refine fun (hx : tabSorted _) => ?_
    | with_reducible apply tabSorted_map
    | with_reducible apply tabSorted_put
    | with_reducible apply tabSorted_erase
    | with_reducible apply tabSorted_filter
    | with_reducible exact tabSorted_nil
    | (show tabSorted _; assumption)
    | with_reducible exact ledgerOrdered_filter _
    | with_reducible exact fun hx => canon_filterRegs hx _
    | with_reducible exact fun _ _ => rfl
    | ((with_reducible refine fun _ _ => banks_map ?_ _ _) <;> exact fun _ _ => rfl)
    | exact fun _ => rfl
    | exact fun _ _ => rfl
    | exact Nat.le_refl _
    | rfl
    | with_reducible apply Kept.upd

theorem State.queueCommit_kept {pv : Bool} {s0 s : State} (p : Nat) (c : Commit) (hk : Kept pv s0 s) :
    Kept pv s0 (State.queueCommit s p c) := by
  dsimp only [State.queueCommit]
  repeat' first
    | with_reducible assumption
    | with_reducible apply State.modPort_kept
    | with_reducible apply State.refreshCommits_kept
    | split
    | with_reducible apply Kept.ite
    | with_reducible rfl
    | with_reducible exact fun x => x
    | with_reducible exact Nat.le_refl _
    | with_reducible exact List.prefix_rfl
    | with_reducible exact List.prefix_append _ _
    | with_reducible refine fun (hx : tabSorted _) => ?_
    | with_reducible apply tabSorted_map
    | with_reducible apply tabSorted_put
    | with_reducible apply tabSorted_erase
    | with_reducible apply tabSorted_filter
    | with_reducible exact tabSorted_nil
    | (show tabSorted _; assumption)
    | with_reducible exact ledgerOrdered_filter _
    | with_reducible exact fun hx => canon_filterRegs hx _
    | with_reducible exact fun _ _ => rfl
    | ((with_reducible refine fun _ _ => banks_map ?_ _ _) <;> exact fun _ _ => rfl)
    | exact fun _ => rfl
    | exact fun _ _ => rfl
    | rfl
    | exact fun _ _ => rfl
    | (refine fun _ => ?_; first | rfl | (dsimp only; simp; done))
    | (refine fun _ q => ?_; first | (dsimp only; simp; done) | (simp; done) | (dsimp only; split <;> first | rfl | (simp; done)))
    | with_reducible apply Kept.upd

theorem State.acceptCommit_kept {pv : Bool} {s0 s : State} (d : Desc) (table : HostRead) (mirrored : Bool) (hk : Kept pv s0 s) :
    Kept pv s0 (State.acceptCommit s d table mirrored) := by
  dsimp only [State.acceptCommit]
  repeat' first
    | with_reducible assumption
    | with_reducible apply State.logData_kept
    | with_reducible apply State.accept_kept
    | with_reducible apply State.admitNew_kept
    | with_reducible apply State.hostScene_kept
    | with_reducible apply State.queueCommit_kept
    | split
    | with_reducible apply Kept.ite
    | rfl
    | with_reducible apply Kept.upd

theorem execSceneCommit_kept (pv : Bool) (s : State) (r : Fin 128) (table : HostRead) :
    KeptBy pv s (execSceneCommit r table s) := by
  dsimp only [execSceneCommit]
  have hk := Kept.refl pv s
  repeat' first
    | with_reducible apply KeptBy.next
    | with_reducible assumption
    | with_reducible apply State.emit_kept
    | with_reducible apply State.reject_kept
    | with_reducible apply State.withCur_kept
    | with_reducible apply State.acceptCommit_kept
    | split
    | with_reducible apply Kept.ite
    | with_reducible rfl
    | with_reducible exact fun x => x
    | with_reducible exact Nat.le_refl _
    | with_reducible exact List.prefix_rfl
    | with_reducible exact List.prefix_append _ _
    | with_reducible refine fun (hx : tabSorted _) => ?_
    | with_reducible apply tabSorted_map
    | with_reducible apply tabSorted_put
    | with_reducible apply tabSorted_erase
    | with_reducible apply tabSorted_filter
    | with_reducible exact tabSorted_nil
    | (show tabSorted _; assumption)
    | with_reducible exact ledgerOrdered_filter _
    | with_reducible exact fun hx => canon_filterRegs hx _
    | with_reducible exact fun _ _ => rfl
    | ((with_reducible refine fun _ _ => banks_map ?_ _ _) <;> exact fun _ _ => rfl)
    | exact fun _ => rfl
    | exact fun _ _ => rfl
    | rfl
    | (intro _ _ _)
    | (intro _ _)
    | dsimp only
    | dsimp only [id]
    | with_reducible apply Kept.upd

theorem State.setPin_kept {pv : Bool} {s0 s : State} (id : Nat) (pin : TonePin) (hk : Kept pv s0 s) :
    Kept pv s0 (State.setPin s id pin) := by
  dsimp only [State.setPin]
  repeat' first
    | with_reducible assumption
    | split
    | with_reducible apply Kept.ite
    | with_reducible rfl
    | with_reducible exact fun x => x
    | with_reducible exact Nat.le_refl _
    | with_reducible exact List.prefix_rfl
    | with_reducible exact List.prefix_append _ _
    | with_reducible refine fun (hx : tabSorted _) => ?_
    | with_reducible apply tabSorted_map
    | with_reducible apply tabSorted_put
    | with_reducible apply tabSorted_erase
    | with_reducible apply tabSorted_filter
    | with_reducible exact tabSorted_nil
    | (show tabSorted _; assumption)
    | with_reducible exact ledgerOrdered_filter _
    | with_reducible exact fun hx => canon_filterRegs hx _
    | with_reducible exact fun _ _ => rfl
    | ((with_reducible refine fun _ _ => banks_map ?_ _ _) <;> exact fun _ _ => rfl)
    | exact fun _ => rfl
    | exact fun _ _ => rfl
    | rfl
    | with_reducible apply Kept.upd

theorem State.tonePin_kept {pv : Bool} {s0 s : State} (id : Nat) (hk : Kept pv s0 s) :
    Kept pv s0 (State.tonePin s id) := by
  dsimp only [State.tonePin]
  repeat' first
    | with_reducible assumption
    | with_reducible apply State.refreshCommits_kept
    | with_reducible apply State.setPin_kept
    | split
    | with_reducible apply Kept.ite
    | with_reducible rfl
    | with_reducible exact fun x => x
    | with_reducible exact Nat.le_refl _
    | with_reducible exact List.prefix_rfl
    | with_reducible exact List.prefix_append _ _
    | with_reducible refine fun (hx : tabSorted _) => ?_
    | with_reducible apply tabSorted_map
    | with_reducible apply tabSorted_put
    | with_reducible apply tabSorted_erase
    | with_reducible apply tabSorted_filter
    | with_reducible exact tabSorted_nil
    | (show tabSorted _; assumption)
    | with_reducible exact ledgerOrdered_filter _
    | with_reducible exact fun hx => canon_filterRegs hx _
    | with_reducible exact fun _ _ => rfl
    | ((with_reducible refine fun _ _ => banks_map ?_ _ _) <;> exact fun _ _ => rfl)
    | exact fun _ => rfl
    | exact fun _ _ => rfl
    | rfl
    | with_reducible apply Kept.upd

theorem execToneCurvePin_kept (pv : Bool) (s : State) (id : Nat) :
    KeptBy pv s (execToneCurvePin id s) := by
  dsimp only [execToneCurvePin]
  have hk := Kept.refl pv s
  repeat' first
    | with_reducible apply KeptBy.next
    | with_reducible assumption
    | with_reducible apply State.tonePin_kept
    | split
    | with_reducible apply Kept.ite
    | rfl
    | with_reducible apply Kept.upd

theorem State.dropCommit_kept {pv : Bool} {s0 s : State} (p id : Nat) (hk : Kept pv s0 s) :
    Kept pv s0 (State.dropCommit s p id) := by
  dsimp only [State.dropCommit]
  repeat' first
    | with_reducible assumption
    | with_reducible apply State.modPort_kept
    | split
    | with_reducible apply Kept.ite
    | with_reducible rfl
    | with_reducible exact fun x => x
    | with_reducible exact Nat.le_refl _
    | with_reducible exact List.prefix_rfl
    | with_reducible exact List.prefix_append _ _
    | with_reducible refine fun (hx : tabSorted _) => ?_
    | with_reducible apply tabSorted_map
    | with_reducible apply tabSorted_put
    | with_reducible apply tabSorted_erase
    | with_reducible apply tabSorted_filter
    | with_reducible exact tabSorted_nil
    | (show tabSorted _; assumption)
    | with_reducible exact ledgerOrdered_filter _
    | with_reducible exact fun hx => canon_filterRegs hx _
    | with_reducible exact fun _ _ => rfl
    | ((with_reducible refine fun _ _ => banks_map ?_ _ _) <;> exact fun _ _ => rfl)
    | exact fun _ => rfl
    | exact fun _ _ => rfl
    | rfl
    | exact fun _ _ => rfl
    | (refine fun _ => ?_; first | rfl | (dsimp only; simp; done))
    | (refine fun _ q => ?_; first | (dsimp only; simp; done) | (simp; done) | (dsimp only; split <;> first | rfl | (simp; done)))
    | with_reducible apply Kept.upd

theorem State.failBound_kept {pv : Bool} {s0 s : State} (p id : Nat) (hk : Kept pv s0 s) :
    Kept pv s0 (State.failBound s p id) := by
  dsimp only [State.failBound]
  repeat' first
    | with_reducible assumption
    | with_reducible apply State.modPort_kept
    | with_reducible apply State.finish_kept
    | with_reducible apply Kept.foldl
    | with_reducible apply Kept.foldlPair
    | split
    | with_reducible apply Kept.ite
    | with_reducible rfl
    | with_reducible exact fun x => x
    | with_reducible exact Nat.le_refl _
    | with_reducible exact List.prefix_rfl
    | with_reducible exact List.prefix_append _ _
    | with_reducible refine fun (hx : tabSorted _) => ?_
    | with_reducible apply tabSorted_map
    | with_reducible apply tabSorted_put
    | with_reducible apply tabSorted_erase
    | with_reducible apply tabSorted_filter
    | with_reducible exact tabSorted_nil
    | (show tabSorted _; assumption)
    | with_reducible exact ledgerOrdered_filter _
    | with_reducible exact fun hx => canon_filterRegs hx _
    | with_reducible exact fun _ _ => rfl
    | ((with_reducible refine fun _ _ => banks_map ?_ _ _) <;> exact fun _ _ => rfl)
    | exact fun _ => rfl
    | exact fun _ _ => rfl
    | rfl
    | exact fun _ _ => rfl
    | (refine fun _ => ?_; first | rfl | (dsimp only; simp; done))
    | (refine fun _ q => ?_; first | (dsimp only; simp; done) | (simp; done) | (dsimp only; split <;> first | rfl | (simp; done)))
    | (intro _ _ _)
    | (intro _ _)
    | dsimp only
    | dsimp only [id]
    | with_reducible apply Kept.upd

theorem State.failCommits_kept {pv : Bool} {s0 s : State} (p : Nat) (hk : Kept pv s0 s) :
    Kept pv s0 (State.failCommits s p) := by
  dsimp only [State.failCommits]
  repeat' first
    | with_reducible assumption
    | with_reducible apply State.finish_kept
    | with_reducible apply State.dropCommit_kept
    | with_reducible apply State.failBound_kept
    | with_reducible apply Kept.foldl
    | with_reducible apply Kept.foldlPair
    | split
    | with_reducible apply Kept.ite
    | with_reducible rfl
    | with_reducible exact fun x => x
    | with_reducible exact Nat.le_refl _
    | with_reducible exact List.prefix_rfl
    | with_reducible exact List.prefix_append _ _
    | with_reducible refine fun (hx : tabSorted _) => ?_
    | with_reducible apply tabSorted_map
    | with_reducible apply tabSorted_put
    | with_reducible apply tabSorted_erase
    | with_reducible apply tabSorted_filter
    | with_reducible exact tabSorted_nil
    | (show tabSorted _; assumption)
    | with_reducible exact ledgerOrdered_filter _
    | with_reducible exact fun hx => canon_filterRegs hx _
    | with_reducible exact fun _ _ => rfl
    | ((with_reducible refine fun _ _ => banks_map ?_ _ _) <;> exact fun _ _ => rfl)
    | exact fun _ => rfl
    | exact fun _ _ => rfl
    | rfl
    | (intro _ _ _)
    | (intro _ _)
    | dsimp only
    | dsimp only [id]
    | with_reducible apply Kept.upd

theorem State.begun_kept {pv : Bool} {s0 s : State} (id : Nat) (hk : Kept pv s0 s) :
    Kept pv s0 (State.begun s id) := by
  dsimp only [State.begun]
  repeat' first
    | with_reducible assumption
    | with_reducible apply State.modEntry_kept
    | split
    | with_reducible apply Kept.ite
    | with_reducible rfl
    | with_reducible exact fun x => x
    | with_reducible exact Nat.le_refl _
    | with_reducible exact List.prefix_rfl
    | with_reducible exact List.prefix_append _ _
    | with_reducible refine fun (hx : tabSorted _) => ?_
    | with_reducible apply tabSorted_map
    | with_reducible apply tabSorted_put
    | with_reducible apply tabSorted_erase
    | with_reducible apply tabSorted_filter
    | with_reducible exact tabSorted_nil
    | (show tabSorted _; assumption)
    | with_reducible exact ledgerOrdered_filter _
    | with_reducible exact fun hx => canon_filterRegs hx _
    | with_reducible exact fun _ _ => rfl
    | ((with_reducible refine fun _ _ => banks_map ?_ _ _) <;> exact fun _ _ => rfl)
    | exact fun _ => rfl
    | exact fun _ _ => rfl
    | rfl
    | exact fun _ => rfl
    | with_reducible apply Kept.upd

theorem State.later_kept {pv : Bool} {s0 s : State} (p id status detail frame extra : Nat) (hk : Kept pv s0 s) :
    Kept pv s0 (State.later s p id status detail frame extra) := by
  dsimp only [State.later]
  repeat' first
    | with_reducible assumption
    | with_reducible apply State.modPort_kept
    | with_reducible apply State.begun_kept
    | split
    | with_reducible apply Kept.ite
    | with_reducible rfl
    | with_reducible exact fun x => x
    | with_reducible exact Nat.le_refl _
    | with_reducible exact List.prefix_rfl
    | with_reducible exact List.prefix_append _ _
    | with_reducible refine fun (hx : tabSorted _) => ?_
    | with_reducible apply tabSorted_map
    | with_reducible apply tabSorted_put
    | with_reducible apply tabSorted_erase
    | with_reducible apply tabSorted_filter
    | with_reducible exact tabSorted_nil
    | (show tabSorted _; assumption)
    | with_reducible exact ledgerOrdered_filter _
    | with_reducible exact fun hx => canon_filterRegs hx _
    | with_reducible exact fun _ _ => rfl
    | ((with_reducible refine fun _ _ => banks_map ?_ _ _) <;> exact fun _ _ => rfl)
    | exact fun _ => rfl
    | exact fun _ _ => rfl
    | rfl
    | exact fun _ _ => rfl
    | (refine fun _ => ?_; first | rfl | (dsimp only; simp; done))
    | (refine fun _ q => ?_; first | (dsimp only; simp; done) | (simp; done) | (dsimp only; split <;> first | rfl | (simp; done)))
    | with_reducible apply Kept.upd

theorem State.applyRecord_kept {pv : Bool} {s0 s : State} (p kind frame id : Nat) (hk : Kept pv s0 s) :
    Kept pv s0 (State.applyRecord s p kind frame id) := by
  dsimp only [State.applyRecord]
  repeat' first
    | with_reducible assumption
    | with_reducible apply State.logRecord_kept
    | split
    | with_reducible apply Kept.ite
    | with_reducible rfl
    | with_reducible exact fun x => x
    | with_reducible exact Nat.le_refl _
    | with_reducible exact List.prefix_rfl
    | with_reducible exact List.prefix_append _ _
    | with_reducible refine fun (hx : tabSorted _) => ?_
    | with_reducible apply tabSorted_map
    | with_reducible apply tabSorted_put
    | with_reducible apply tabSorted_erase
    | with_reducible apply tabSorted_filter
    | with_reducible exact tabSorted_nil
    | (show tabSorted _; assumption)
    | with_reducible exact ledgerOrdered_filter _
    | with_reducible exact fun hx => canon_filterRegs hx _
    | with_reducible exact fun _ _ => rfl
    | ((with_reducible refine fun _ _ => banks_map ?_ _ _) <;> exact fun _ _ => rfl)
    | exact fun _ => rfl
    | exact fun _ _ => rfl
    | rfl
    | with_reducible apply Kept.upd

@[simp] theorem Port.take_banks (q : Port) (c : Commit) : (Port.take q c).prot.banks = q.prot.banks := by
  unfold Port.take
  repeat' first
    | rfl
    | simp
    | split

theorem State.takeCommits_kept {pv : Bool} {s0 s : State} (p frame latch : Nat) (start : Int) (hk : Kept pv s0 s) :
    Kept pv s0 (State.takeCommits s p frame latch start) := by
  dsimp only [State.takeCommits]
  repeat' first
    | with_reducible assumption
    | with_reducible apply State.modPort_kept
    | with_reducible apply State.sweep_kept
    | with_reducible apply State.start_kept
    | with_reducible apply State.run_kept
    | with_reducible apply State.later_kept
    | with_reducible apply State.applyRecord_kept
    | with_reducible apply Kept.foldl
    | with_reducible apply Kept.foldlPair
    | split
    | with_reducible apply Kept.ite
    | with_reducible rfl
    | with_reducible exact fun x => x
    | with_reducible exact Nat.le_refl _
    | with_reducible exact List.prefix_rfl
    | with_reducible exact List.prefix_append _ _
    | with_reducible refine fun (hx : tabSorted _) => ?_
    | with_reducible apply tabSorted_map
    | with_reducible apply tabSorted_put
    | with_reducible apply tabSorted_erase
    | with_reducible apply tabSorted_filter
    | with_reducible exact tabSorted_nil
    | (show tabSorted _; assumption)
    | with_reducible exact ledgerOrdered_filter _
    | with_reducible exact fun hx => canon_filterRegs hx _
    | with_reducible exact fun _ _ => rfl
    | ((with_reducible refine fun _ _ => banks_map ?_ _ _) <;> exact fun _ _ => rfl)
    | exact fun _ => rfl
    | exact fun _ _ => rfl
    | rfl
    | exact fun _ _ => rfl
    | (refine fun _ => ?_; first | rfl | (dsimp only; simp; done))
    | (refine fun _ q => ?_; first | (dsimp only; simp; done) | (simp; done) | (dsimp only; split <;> first | rfl | (simp; done)))
    | (intro _ _ _)
    | (intro _ _)
    | dsimp only
    | dsimp only [id]
    | with_reducible apply Kept.upd

end Sys2Proof.Machine
end

