-- ==== Sys2Proof/Laws/KeptRayMap.lean ====
section
/-! SUPPORT. Every operation of Machine/RayMap.lean keeps what `Kept` says. -/

set_option linter.unusedTactic false
set_option linter.unreachableTactic false
set_option maxHeartbeats 200000
namespace Sys2Proof.Machine

theorem execCalLoad_kept (pv : Bool) (s : State) (r : Fin 128) :
    KeptBy pv s (execCalLoad r s) := by
  dsimp only [execCalLoad]
  have hk := Kept.refl pv s
  repeat' first
    | with_reducible apply KeptBy.next
    | with_reducible assumption
    | with_reducible apply State.withCur_kept
    | with_reducible apply State.admitNew_kept
    | split
    | with_reducible apply Kept.ite
    | with_reducible rfl
    | with_reducible exact fun x => x
    | with_reducible exact Nat.le_refl _
    | with_reducible exact List.prefix_rfl
    | with_reducible exact List.prefix_append _ _
    | with_reducible refine fun (hx : tabSorted _) => ?_
    | with_reducible apply tabSorted_map
    | with_reducible apply tabSorted_put
    | with_reducible apply tabSorted_erase
    | with_reducible apply tabSorted_filter
    | with_reducible exact tabSorted_nil
    | (show tabSorted _; assumption)
    | with_reducible exact ledgerOrdered_filter _
    | with_reducible exact fun hx => canon_filterRegs hx _
    | with_reducible exact fun _ _ => rfl
    | ((with_reducible refine fun _ _ => banks_map ?_ _ _) <;> exact fun _ _ => rfl)
    | exact fun _ => rfl
    | exact fun _ _ => rfl
    | (intro _ _ _)
    | (intro _ _)
    | dsimp only
    | dsimp only [id]
    | with_reducible apply Kept.upd

theorem startCal_kept {pv : Bool} {s0 s : State} (e : Entry) (hk : Kept pv s0 s) :
    Kept pv s0 (startCal e s) := by
  dsimp only [startCal]
  repeat' first
    | with_reducible assumption
    | with_reducible apply State.finish_kept
    | with_reducible apply State.start_kept
    | split
    | with_reducible apply Kept.ite
    | with_reducible rfl
    | with_reducible exact fun x => x
    | with_reducible exact Nat.le_refl _
    | with_reducible exact List.prefix_rfl
    | with_reducible exact List.prefix_append _ _
    | with_reducible refine fun (hx : tabSorted _) => ?_
    | with_reducible apply tabSorted_map
    | with_reducible apply tabSorted_put
    | with_reducible apply tabSorted_erase
    | with_reducible apply tabSorted_filter
    | with_reducible exact tabSorted_nil
    | (show tabSorted _; assumption)
    | with_reducible exact ledgerOrdered_filter _
    | with_reducible exact fun hx => canon_filterRegs hx _
    | with_reducible exact fun _ _ => rfl
    | ((with_reducible refine fun _ _ => banks_map ?_ _ _) <;> exact fun _ _ => rfl)
    | exact fun _ => rfl
    | exact fun _ _ => rfl
    | with_reducible apply Kept.upd

theorem execCalLoadStart_kept (pv : Bool) (s : State) (id : Nat) :
    KeptBy pv s (execCalLoadStart id s) := by
  dsimp only [execCalLoadStart]
  have hk := Kept.refl pv s
  repeat' first
    | with_reducible apply KeptBy.next
    | with_reducible assumption
    | with_reducible apply startCal_kept
    | split
    | with_reducible apply Kept.ite
    | with_reducible rfl
    | with_reducible exact fun x => x
    | with_reducible exact Nat.le_refl _
    | with_reducible exact List.prefix_rfl
    | with_reducible exact List.prefix_append _ _
    | with_reducible refine fun (hx : tabSorted _) => ?_
    | with_reducible apply tabSorted_map
    | with_reducible apply tabSorted_put
    | with_reducible apply tabSorted_erase
    | with_reducible apply tabSorted_filter
    | with_reducible exact tabSorted_nil
    | (show tabSorted _; assumption)
    | with_reducible exact ledgerOrdered_filter _
    | with_reducible exact fun hx => canon_filterRegs hx _
    | with_reducible exact fun _ _ => rfl
    | ((with_reducible refine fun _ _ => banks_map ?_ _ _) <;> exact fun _ _ => rfl)
    | exact fun _ => rfl
    | exact fun _ _ => rfl
    | with_reducible apply Kept.upd

theorem State.calReady_kept {pv : Bool} {s0 s : State} (e : Entry) (bs : List Byte) (h : Nat) (hk : Kept pv s0 s) :
    Kept pv s0 (State.calReady s e bs h) := by
  dsimp only [State.calReady]
  repeat' first
    | with_reducible assumption
    | with_reducible apply State.modPort_kept
    | with_reducible apply State.modEntry_kept
    | with_reducible apply State.finish_kept
    | split
    | with_reducible apply Kept.ite
    | with_reducible rfl
    | with_reducible exact fun x => x
    | with_reducible exact Nat.le_refl _
    | with_reducible exact List.prefix_rfl
    | with_reducible exact List.prefix_append _ _
    | with_reducible refine fun (hx : tabSorted _) => ?_
    | with_reducible apply tabSorted_map
    | with_reducible apply tabSorted_put
    | with_reducible apply tabSorted_erase
    | with_reducible apply tabSorted_filter
    | with_reducible exact tabSorted_nil
    | (show tabSorted _; assumption)
    | with_reducible exact ledgerOrdered_filter _
    | with_reducible exact fun hx => canon_filterRegs hx _
    | with_reducible exact fun _ _ => rfl
    | ((with_reducible refine fun _ _ => banks_map ?_ _ _) <;> exact fun _ _ => rfl)
    | exact fun _ => rfl
    | exact fun _ _ => rfl
    | exact fun _ _ => rfl
    | (refine fun _ => ?_; first | rfl | (dsimp only; simp; done))
    | (refine fun _ q => ?_; first | (dsimp only; simp; done) | (simp; done) | (dsimp only; split <;> first | rfl | (simp; done)))
    | exact fun _ => rfl
    | with_reducible apply Kept.upd

theorem execCalLoadReady_kept (pv : Bool) (s : State) (id : Nat) :
    KeptBy pv s (execCalLoadReady id s) := by
  dsimp only [execCalLoadReady]
  have hk := Kept.refl pv s
  repeat' first
    | with_reducible apply KeptBy.next
    | with_reducible assumption
    | with_reducible apply State.calReady_kept
    | split
    | with_reducible apply Kept.ite
    | with_reducible rfl
    | with_reducible exact fun x => x
    | with_reducible exact Nat.le_refl _
    | with_reducible exact List.prefix_rfl
    | with_reducible exact List.prefix_append _ _
    | with_reducible refine fun (hx : tabSorted _) => ?_
    | with_reducible apply tabSorted_map
    | with_reducible apply tabSorted_put
    | with_reducible apply tabSorted_erase
    | with_reducible apply tabSorted_filter
    | with_reducible exact tabSorted_nil
    | (show tabSorted _; assumption)
    | with_reducible exact ledgerOrdered_filter _
    | with_reducible exact fun hx => canon_filterRegs hx _
    | with_reducible exact fun _ _ => rfl
    | ((with_reducible refine fun _ _ => banks_map ?_ _ _) <;> exact fun _ _ => rfl)
    | exact fun _ => rfl
    | exact fun _ _ => rfl
    | with_reducible apply Kept.upd

theorem State.lensSettings_kept {pv : Bool} {s0 s : State} (p : Nat) (hk : Kept pv s0 s) :
    Kept pv s0 (State.lensSettings s p) := by
  dsimp only [State.lensSettings]
  repeat' first
    | with_reducible assumption
    | with_reducible apply State.modPort_kept
    | split
    | with_reducible apply Kept.ite
    | with_reducible rfl
    | with_reducible exact fun x => x
    | with_reducible exact Nat.le_refl _
    | with_reducible exact List.prefix_rfl
    | with_reducible exact List.prefix_append _ _
    | with_reducible refine fun (hx : tabSorted _) => ?_
    | with_reducible apply tabSorted_map
    | with_reducible apply tabSorted_put
    | with_reducible apply tabSorted_erase
    | with_reducible apply tabSorted_filter
    | with_reducible exact tabSorted_nil
    | (show tabSorted _; assumption)
    | with_reducible exact ledgerOrdered_filter _
    | with_reducible exact fun hx => canon_filterRegs hx _
    | with_reducible exact fun _ _ => rfl
    | ((with_reducible refine fun _ _ => banks_map ?_ _ _) <;> exact fun _ _ => rfl)
    | exact fun _ => rfl
    | exact fun _ _ => rfl
    | exact fun _ _ => rfl
    | (refine fun _ => ?_; first | rfl | (dsimp only; simp; done))
    | (refine fun _ q => ?_; first | (dsimp only; simp; done) | (simp; done) | (dsimp only; split <;> first | rfl | (simp; done)))
    | with_reducible apply Kept.upd

theorem State.dropAlmanac_kept {pv : Bool} {s0 s : State} (p : Nat) (a : Almanac) (hk : Kept pv s0 s) :
    Kept pv s0 (State.dropAlmanac s p a) := by
  dsimp only [State.dropAlmanac]
  repeat' first
    | with_reducible assumption
    | with_reducible apply State.setBit_kept
    | with_reducible apply State.raise_kept
    | split
    | with_reducible apply Kept.ite

theorem State.fillPhases_kept {pv : Bool} {s0 s : State} (p : Nat) (m : Mode) (a : Option Almanac) (hk : Kept pv s0 s) :
    Kept pv s0 (State.fillPhases s p m a) := by
  dsimp only [State.fillPhases]
  repeat' first
    | with_reducible assumption
    | with_reducible apply State.setBit_kept
    | with_reducible apply State.raise_kept
    | split
    | with_reducible apply Kept.ite
    | with_reducible rfl
    | with_reducible exact fun x => x
    | with_reducible exact Nat.le_refl _
    | with_reducible exact List.prefix_rfl
    | with_reducible exact List.prefix_append _ _
    | with_reducible refine fun (hx : tabSorted _) => ?_
    | with_reducible apply tabSorted_map
    | with_reducible apply tabSorted_put
    | with_reducible apply tabSorted_erase
    | with_reducible apply tabSorted_filter
    | with_reducible exact tabSorted_nil
    | (show tabSorted _; assumption)
    | with_reducible exact ledgerOrdered_filter _
    | with_reducible exact fun hx => canon_filterRegs hx _
    | with_reducible exact fun _ _ => rfl
    | ((with_reducible refine fun _ _ => banks_map ?_ _ _) <;> exact fun _ _ => rfl)
    | exact fun _ => rfl
    | exact fun _ _ => rfl
    | with_reducible apply Kept.upd

theorem State.calDone_kept {pv : Bool} {s0 s : State} (p id frame faded : Nat) (hk : Kept pv s0 s) :
    Kept pv s0 (State.calDone s p id frame faded) := by
  dsimp only [State.calDone]
  repeat' first
    | with_reducible assumption
    | with_reducible apply State.later_kept
    | split
    | with_reducible apply Kept.ite

theorem State.rayMode_kept {pv : Bool} {s0 s : State} (p g : Nat) (m : Mode) (hk : Kept pv s0 s) :
    Kept pv s0 (State.rayMode s p g m) := by
  dsimp only [State.rayMode]
  repeat' first
    | with_reducible assumption
    | with_reducible apply State.modPort_kept
    | with_reducible apply State.dropAlmanac_kept
    | with_reducible apply State.fillPhases_kept
    | with_reducible apply State.calDone_kept
    | split
    | with_reducible apply Kept.ite
    | with_reducible rfl
    | with_reducible exact fun x => x
    | with_reducible exact Nat.le_refl _
    | with_reducible exact List.prefix_rfl
    | with_reducible exact List.prefix_append _ _
    | with_reducible refine fun (hx : tabSorted _) => ?_
    | with_reducible apply tabSorted_map
    | with_reducible apply tabSorted_put
    | with_reducible apply tabSorted_erase
    | with_reducible apply tabSorted_filter
    | with_reducible exact tabSorted_nil
    | (show tabSorted _; assumption)
    | with_reducible exact ledgerOrdered_filter _
    | with_reducible exact fun hx => canon_filterRegs hx _
    | with_reducible exact fun _ _ => rfl
    | ((with_reducible refine fun _ _ => banks_map ?_ _ _) <;> exact fun _ _ => rfl)
    | exact fun _ => rfl
    | exact fun _ _ => rfl
    | exact fun _ _ => rfl
    | (refine fun _ => ?_; first | rfl | (dsimp only; simp; done))
    | (refine fun _ q => ?_; first | (dsimp only; simp; done) | (simp; done) | (dsimp only; split <;> first | rfl | (simp; done)))
    | with_reducible apply Kept.upd

theorem State.fadeStep_kept {pv : Bool} {s0 s : State} (p : Nat) (hk : Kept pv s0 s) :
    Kept pv s0 (State.fadeStep s p) := by
  dsimp only [State.fadeStep]
  repeat' first
    | with_reducible assumption
    | with_reducible apply State.modPort_kept
    | with_reducible apply State.calDone_kept
    | split
    | with_reducible apply Kept.ite
    | with_reducible rfl
    | with_reducible exact fun x => x
    | with_reducible exact Nat.le_refl _
    | with_reducible exact List.prefix_rfl
    | with_reducible exact List.prefix_append _ _
    | with_reducible refine fun (hx : tabSorted _) => ?_
    | with_reducible apply tabSorted_map
    | with_reducible apply tabSorted_put
    | with_reducible apply tabSorted_erase
    | with_reducible apply tabSorted_filter
    | with_reducible exact tabSorted_nil
    | (show tabSorted _; assumption)
    | with_reducible exact ledgerOrdered_filter _
    | with_reducible exact fun hx => canon_filterRegs hx _
    | with_reducible exact fun _ _ => rfl
    | ((with_reducible refine fun _ _ => banks_map ?_ _ _) <;> exact fun _ _ => rfl)
    | exact fun _ => rfl
    | exact fun _ _ => rfl
    | exact fun _ _ => rfl
    | (refine fun _ => ?_; first | rfl | (dsimp only; simp; done))
    | (refine fun _ q => ?_; first | (dsimp only; simp; done) | (simp; done) | (dsimp only; split <;> first | rfl | (simp; done)))
    | with_reducible apply Kept.upd

theorem State.handPin_kept {pv : Bool} {s0 s : State} (id : Nat) (hk : Kept pv s0 s) :
    Kept pv s0 (State.handPin s id) := by
  dsimp only [State.handPin]
  repeat' first
    | with_reducible assumption
    | with_reducible apply State.modEntry_kept
    | split
    | with_reducible apply Kept.ite
    | with_reducible rfl
    | with_reducible exact fun x => x
    | with_reducible exact Nat.le_refl _
    | with_reducible exact List.prefix_rfl
    | with_reducible exact List.prefix_append _ _
    | with_reducible refine fun (hx : tabSorted _) => ?_
    | with_reducible apply tabSorted_map
    | with_reducible apply tabSorted_put
    | with_reducible apply tabSorted_erase
    | with_reducible apply tabSorted_filter
    | with_reducible exact tabSorted_nil
    | (show tabSorted _; assumption)
    | with_reducible exact ledgerOrdered_filter _
    | with_reducible exact fun hx => canon_filterRegs hx _
    | with_reducible exact fun _ _ => rfl
    | ((with_reducible refine fun _ _ => banks_map ?_ _ _) <;> exact fun _ _ => rfl)
    | exact fun _ => rfl
    | exact fun _ _ => rfl
    | exact fun _ => rfl
    | with_reducible apply Kept.upd

theorem State.takeCal_kept {pv : Bool} {s0 s : State} (p id frame from_ : Nat) (bs : List Byte) (h : Nat) (d : Desc) (hk : Kept pv s0 s) :
    Kept pv s0 (State.takeCal s p id frame from_ bs h d) := by
  dsimp only [State.takeCal]
  repeat' first
    | with_reducible assumption
    | with_reducible apply State.modPort_kept
    | with_reducible apply State.begun_kept
    | with_reducible apply State.applyRecord_kept
    | with_reducible apply State.calDone_kept
    | with_reducible apply State.handPin_kept
    | split
    | with_reducible apply Kept.ite
    | with_reducible rfl
    | with_reducible exact fun x => x
    | with_reducible exact Nat.le_refl _
    | with_reducible exact List.prefix_rfl
    | with_reducible exact List.prefix_append _ _
    | with_reducible refine fun (hx : tabSorted _) => ?_
    | with_reducible apply tabSorted_map
    | with_reducible apply tabSorted_put
    | with_reducible apply tabSorted_erase
    | with_reducible apply tabSorted_filter
    | with_reducible exact tabSorted_nil
    | (show tabSorted _; assumption)
    | with_reducible exact ledgerOrdered_filter _
    | with_reducible exact fun hx => canon_filterRegs hx _
    | with_reducible exact fun _ _ => rfl
    | ((with_reducible refine fun _ _ => banks_map ?_ _ _) <;> exact fun _ _ => rfl)
    | exact fun _ => rfl
    | exact fun _ _ => rfl
    | exact fun _ _ => rfl
    | (refine fun _ => ?_; first | rfl | (dsimp only; simp; done))
    | (refine fun _ q => ?_; first | (dsimp only; simp; done) | (simp; done) | (dsimp only; split <;> first | rfl | (simp; done)))
    | with_reducible apply Kept.upd

theorem State.latchCal_kept {pv : Bool} {s0 s : State} (p frame latch g : Nat) (m : Mode) (hk : Kept pv s0 s) :
    Kept pv s0 (State.latchCal s p frame latch g m) := by
  dsimp only [State.latchCal]
  repeat' first
    | with_reducible assumption
    | with_reducible apply State.modPort_kept
    | with_reducible apply State.finish_kept
    | with_reducible apply State.takeCal_kept
    | split
    | with_reducible apply Kept.ite
    | with_reducible rfl
    | with_reducible exact fun x => x
    | with_reducible exact Nat.le_refl _
    | with_reducible exact List.prefix_rfl
    | with_reducible exact List.prefix_append _ _
    | with_reducible refine fun (hx : tabSorted _) => ?_
    | with_reducible apply tabSorted_map
    | with_reducible apply tabSorted_put
    | with_reducible apply tabSorted_erase
    | with_reducible apply tabSorted_filter
    | with_reducible exact tabSorted_nil
    | (show tabSorted _; assumption)
    | with_reducible exact ledgerOrdered_filter _
    | with_reducible exact fun hx => canon_filterRegs hx _
    | with_reducible exact fun _ _ => rfl
    | ((with_reducible refine fun _ _ => banks_map ?_ _ _) <;> exact fun _ _ => rfl)
    | exact fun _ => rfl
    | exact fun _ _ => rfl
    | exact fun _ _ => rfl
    | (refine fun _ => ?_; first | rfl | (dsimp only; simp; done))
    | (refine fun _ q => ?_; first | (dsimp only; simp; done) | (simp; done) | (dsimp only; split <;> first | rfl | (simp; done)))
    | with_reducible apply Kept.upd

theorem State.latchRay_kept {pv : Bool} {s0 s : State} (p frame latch g : Nat) (m : Mode) (changed : Bool) (hk : Kept pv s0 s) :
    Kept pv s0 (State.latchRay s p frame latch g m changed) := by
  dsimp only [State.latchRay]
  repeat' first
    | with_reducible assumption
    | with_reducible apply State.modPort_kept
    | with_reducible apply State.lensSettings_kept
    | with_reducible apply State.rayMode_kept
    | with_reducible apply State.fadeStep_kept
    | with_reducible apply State.latchCal_kept
    | split
    | with_reducible apply Kept.ite
    | with_reducible rfl
    | with_reducible exact fun x => x
    | with_reducible exact Nat.le_refl _
    | with_reducible exact List.prefix_rfl
    | with_reducible exact List.prefix_append _ _
    | with_reducible refine fun (hx : tabSorted _) => ?_
    | with_reducible apply tabSorted_map
    | with_reducible apply tabSorted_put
    | with_reducible apply tabSorted_erase
    | with_reducible apply tabSorted_filter
    | with_reducible exact tabSorted_nil
    | (show tabSorted _; assumption)
    | with_reducible exact ledgerOrdered_filter _
    | with_reducible exact fun hx => canon_filterRegs hx _
    | with_reducible exact fun _ _ => rfl
    | ((with_reducible refine fun _ _ => banks_map ?_ _ _) <;> exact fun _ _ => rfl)
    | exact fun _ => rfl
    | exact fun _ _ => rfl
    | exact fun _ _ => rfl
    | (refine fun _ => ?_; first | rfl | (dsimp only; simp; done))
    | (refine fun _ q => ?_; first | (dsimp only; simp; done) | (simp; done) | (dsimp only; split <;> first | rfl | (simp; done)))
    | with_reducible apply Kept.upd

theorem State.signalRing_kept {pv : Bool} {s0 s : State} (r : Option Nat) (hk : Kept pv s0 s) :
    Kept pv s0 (State.signalRing s r) := by
  dsimp only [State.signalRing]
  repeat' first
    | with_reducible assumption
    | with_reducible apply State.emit_kept
    | split
    | with_reducible apply Kept.ite
    | with_reducible rfl
    | with_reducible exact fun x => x
    | with_reducible exact Nat.le_refl _
    | with_reducible exact List.prefix_rfl
    | with_reducible exact List.prefix_append _ _
    | with_reducible refine fun (hx : tabSorted _) => ?_
    | with_reducible apply tabSorted_map
    | with_reducible apply tabSorted_put
    | with_reducible apply tabSorted_erase
    | with_reducible apply tabSorted_filter
    | with_reducible exact tabSorted_nil
    | (show tabSorted _; assumption)
    | with_reducible exact ledgerOrdered_filter _
    | with_reducible exact fun hx => canon_filterRegs hx _
    | with_reducible exact fun _ _ => rfl
    | ((with_reducible refine fun _ _ => banks_map ?_ _ _) <;> exact fun _ _ => rfl)
    | exact fun _ => rfl
    | exact fun _ _ => rfl
    | with_reducible apply Kept.upd

theorem State.rayMismatch_kept {pv : Bool} {s0 s : State} (p k frame intended delivered : Nat) (hk : Kept pv s0 s) :
    Kept pv s0 (State.rayMismatch s p k frame intended delivered) := by
  dsimp only [State.rayMismatch]
  repeat' first
    | with_reducible assumption
    | with_reducible apply State.setBit_kept
    | with_reducible apply State.count_kept
    | with_reducible apply State.setWbit_kept
    | with_reducible apply State.raise_kept
    | with_reducible apply State.signalRing_kept
    | split
    | with_reducible apply Kept.ite

theorem execRmapSignatureCheck_kept (pv : Bool) (s : State) (p : Fin 4) (upset : Word) :
    KeptBy pv s (execRmapSignatureCheck p upset s) := by
  dsimp only [execRmapSignatureCheck]
  have hk := Kept.refl pv s
  repeat' first
    | with_reducible apply KeptBy.next
    | with_reducible assumption
    | with_reducible apply State.setReg_kept
    | with_reducible apply State.rayMismatch_kept
    | split
    | with_reducible apply Kept.ite
    | with_reducible rfl
    | with_reducible exact fun x => x
    | with_reducible exact Nat.le_refl _
    | with_reducible exact List.prefix_rfl
    | with_reducible exact List.prefix_append _ _
    | with_reducible refine fun (hx : tabSorted _) => ?_
    | with_reducible apply tabSorted_map
    | with_reducible apply tabSorted_put
    | with_reducible apply tabSorted_erase
    | with_reducible apply tabSorted_filter
    | with_reducible exact tabSorted_nil
    | (show tabSorted _; assumption)
    | with_reducible exact ledgerOrdered_filter _
    | with_reducible exact fun hx => canon_filterRegs hx _
    | with_reducible exact fun _ _ => rfl
    | ((with_reducible refine fun _ _ => banks_map ?_ _ _) <;> exact fun _ _ => rfl)
    | exact fun _ => rfl
    | exact fun _ _ => rfl
    | with_reducible apply Kept.upd

theorem execAlmanacScrub_kept (pv : Bool) (s : State) (p : Fin 4) (damage : Fin 3 × Word) :
    KeptBy pv s (execAlmanacScrub p damage s) := by
  dsimp only [execAlmanacScrub]
  have hk := Kept.refl pv s
  repeat' first
    | with_reducible apply KeptBy.next
    | with_reducible assumption
    | with_reducible apply State.setBit_kept
    | with_reducible apply State.modPort_kept
    | with_reducible apply State.raise_kept
    | split
    | with_reducible apply Kept.ite
    | with_reducible rfl
    | with_reducible exact fun x => x
    | with_reducible exact Nat.le_refl _
    | with_reducible exact List.prefix_rfl
    | with_reducible exact List.prefix_append _ _
    | with_reducible refine fun (hx : tabSorted _) => ?_
    | with_reducible apply tabSorted_map
    | with_reducible apply tabSorted_put
    | with_reducible apply tabSorted_erase
    | with_reducible apply tabSorted_filter
    | with_reducible exact tabSorted_nil
    | (show tabSorted _; assumption)
    | with_reducible exact ledgerOrdered_filter _
    | with_reducible exact fun hx => canon_filterRegs hx _
    | with_reducible exact fun _ _ => rfl
    | ((with_reducible refine fun _ _ => banks_map ?_ _ _) <;> exact fun _ _ => rfl)
    | exact fun _ => rfl
    | exact fun _ _ => rfl
    | exact fun _ _ => rfl
    | (refine fun _ => ?_; first | rfl | (dsimp only; simp; done))
    | (refine fun _ q => ?_; first | (dsimp only; simp; done) | (simp; done) | (dsimp only; split <;> first | rfl | (simp; done)))
    | with_reducible apply Kept.upd

end Sys2Proof.Machine
end

