-- ==== Sys2Proof/Laws/KeptShepherd.lean ====
section
/-! SUPPORT. Every operation of Machine/Shepherd.lean keeps what `Kept` says. -/

set_option linter.unusedTactic false
set_option linter.unreachableTactic false
set_option maxHeartbeats 200000
namespace Sys2Proof.Machine

theorem State.installEyes_kept {pv : Bool} {s0 s : State} (p id : Nat) (eyes : List Eye) (hk : Kept pv s0 s) :
    Kept pv s0 (State.installEyes s p id eyes) := by
  dsimp only [State.installEyes]
  repeat' first
    | with_reducible assumption
    | with_reducible apply State.modPort_kept
    | with_reducible apply State.finish_kept
    | with_reducible apply State.begun_kept
    | with_reducible apply Kept.foldl
    | with_reducible apply Kept.foldlPair
    | split
    | with_reducible apply Kept.ite
    | with_reducible rfl
    | with_reducible exact fun x => x
    | with_reducible exact Nat.le_refl _
    | with_reducible exact List.prefix_rfl
    | with_reducible exact List.prefix_append _ _
    | with_reducible refine fun (hx : tabSorted _) => ?_
    | with_reducible apply tabSorted_map
    | with_reducible apply tabSorted_put
    | with_reducible apply tabSorted_erase
    | with_reducible apply tabSorted_filter
    | with_reducible exact tabSorted_nil
    | (show tabSorted _; assumption)
    | with_reducible exact ledgerOrdered_filter _
    | with_reducible exact fun hx => canon_filterRegs hx _
    | with_reducible exact fun _ _ => rfl
    | ((with_reducible refine fun _ _ => banks_map ?_ _ _) <;> exact fun _ _ => rfl)
    | exact fun _ => rfl
    | exact fun _ _ => rfl
    | exact fun _ _ => rfl
    | (refine fun _ => ?_; first | rfl | (dsimp only; simp; done))
    | (refine fun _ q => ?_; first | (dsimp only; simp; done) | (simp; done) | (dsimp only; split <;> first | rfl | (simp; done)))
    | (intro _ _ _)
    | (intro _ _)
    | dsimp only
    | dsimp only [id]
    | with_reducible apply Kept.upd

theorem startEyes_kept {pv : Bool} {s0 s : State} (e : Entry) (hk : Kept pv s0 s) :
    Kept pv s0 (startEyes e s) := by
  dsimp only [startEyes]
  repeat' first
    | with_reducible assumption
    | with_reducible apply State.installEyes_kept
    | split
    | with_reducible apply Kept.ite
    | with_reducible rfl
    | with_reducible exact fun x => x
    | with_reducible exact Nat.le_refl _
    | with_reducible exact List.prefix_rfl
    | with_reducible exact List.prefix_append _ _
    | with_reducible refine fun (hx : tabSorted _) => ?_
    | with_reducible apply tabSorted_map
    | with_reducible apply tabSorted_put
    | with_reducible apply tabSorted_erase
    | with_reducible apply tabSorted_filter
    | with_reducible exact tabSorted_nil
    | (show tabSorted _; assumption)
    | with_reducible exact ledgerOrdered_filter _
    | with_reducible exact fun hx => canon_filterRegs hx _
    | with_reducible exact fun _ _ => rfl
    | ((with_reducible refine fun _ _ => banks_map ?_ _ _) <;> exact fun _ _ => rfl)
    | exact fun _ => rfl
    | exact fun _ _ => rfl
    | with_reducible apply Kept.upd

theorem State.acceptEyes_kept {pv : Bool} {s0 s : State} (d : Desc) (table : HostRead) (mirrored : Bool) (hk : Kept pv s0 s) :
    Kept pv s0 (State.acceptEyes s d table mirrored) := by
  dsimp only [State.acceptEyes]
  repeat' first
    | with_reducible assumption
    | with_reducible apply State.logData_kept
    | with_reducible apply State.accept_kept
    | with_reducible apply State.admitNew_kept
    | with_reducible apply State.admitted_kept
    | with_reducible apply State.startIf_kept
    | with_reducible apply startEyes_kept
    | split
    | with_reducible apply Kept.ite
    | (intro _ _ _)
    | (intro _ _)
    | dsimp only
    | dsimp only [id]

theorem State.askEyes_kept {pv : Bool} {s0 s : State} (d : Desc) (hk : Kept pv s0 s) :
    Kept pv s0 (State.askEyes s d) := by
  dsimp only [State.askEyes]
  repeat' first
    | with_reducible assumption
    | with_reducible apply State.emit_kept
    | split
    | with_reducible apply Kept.ite

theorem execShepherdUpdate_kept (pv : Bool) (s : State) (r : Fin 128) (table : HostRead) :
    KeptBy pv s (execShepherdUpdate r table s) := by
  dsimp only [execShepherdUpdate]
  have hk := Kept.refl pv s
  repeat' first
    | with_reducible apply KeptBy.next
    | with_reducible assumption
    | with_reducible apply State.reject_kept
    | with_reducible apply State.withCur_kept
    | with_reducible apply State.acceptEyes_kept
    | with_reducible apply State.askEyes_kept
    | split
    | with_reducible apply Kept.ite
    | with_reducible rfl
    | with_reducible exact fun x => x
    | with_reducible exact Nat.le_refl _
    | with_reducible exact List.prefix_rfl
    | with_reducible exact List.prefix_append _ _
    | with_reducible refine fun (hx : tabSorted _) => ?_
    | with_reducible apply tabSorted_map
    | with_reducible apply tabSorted_put
    | with_reducible apply tabSorted_erase
    | with_reducible apply tabSorted_filter
    | with_reducible exact tabSorted_nil
    | (show tabSorted _; assumption)
    | with_reducible exact ledgerOrdered_filter _
    | with_reducible exact fun hx => canon_filterRegs hx _
    | with_reducible exact fun _ _ => rfl
    | ((with_reducible refine fun _ _ => banks_map ?_ _ _) <;> exact fun _ _ => rfl)
    | exact fun _ => rfl
    | exact fun _ _ => rfl
    | (intro _ _ _)
    | (intro _ _)
    | dsimp only
    | dsimp only [id]
    | with_reducible apply Kept.upd

theorem State.takeEyes_kept {pv : Bool} {s0 s : State} (p frame k tick : Nat) (hk : Kept pv s0 s) :
    Kept pv s0 (State.takeEyes s p frame k tick) := by
  dsimp only [State.takeEyes]
  repeat' first
    | with_reducible assumption
    | with_reducible apply State.modPort_kept
    | with_reducible apply State.finish_kept
    | with_reducible apply State.applyRecord_kept
    | with_reducible apply Kept.foldl
    | with_reducible apply Kept.foldlPair
    | split
    | with_reducible apply Kept.ite
    | with_reducible rfl
    | with_reducible exact fun x => x
    | with_reducible exact Nat.le_refl _
    | with_reducible exact List.prefix_rfl
    | with_reducible exact List.prefix_append _ _
    | with_reducible refine fun (hx : tabSorted _) => ?_
    | with_reducible apply tabSorted_map
    | with_reducible apply tabSorted_put
    | with_reducible apply tabSorted_erase
    | with_reducible apply tabSorted_filter
    | with_reducible exact tabSorted_nil
    | (show tabSorted _; assumption)
    | with_reducible exact ledgerOrdered_filter _
    | with_reducible exact fun hx => canon_filterRegs hx _
    | with_reducible exact fun _ _ => rfl
    | ((with_reducible refine fun _ _ => banks_map ?_ _ _) <;> exact fun _ _ => rfl)
    | exact fun _ => rfl
    | exact fun _ _ => rfl
    | exact fun _ _ => rfl
    | (refine fun _ => ?_; first | rfl | (dsimp only; simp; done))
    | (refine fun _ q => ?_; first | (dsimp only; simp; done) | (simp; done) | (dsimp only; split <;> first | rfl | (simp; done)))
    | (intro _ _ _)
    | (intro _ _)
    | dsimp only
    | dsimp only [id]
    | with_reducible apply Kept.upd

theorem State.fixEyes_kept {pv : Bool} {s0 s : State} (p : Nat) (t : Int) (h : Kept pv s0 s) : Kept pv s0 (s.fixEyes p t).2 := by
  dsimp only [State.fixEyes]
  repeat' first
    | with_reducible assumption
    | with_reducible apply State.setField_kept
    | with_reducible apply State.count_kept
    | with_reducible apply State.setReg_kept
    | with_reducible apply State.draw_kept
    | split

end Sys2Proof.Machine
end

