-- ==== Sys2Proof/Laws/KeptWeave.lean ====
section
/-! SUPPORT. Every operation of Machine/Weave.lean keeps what `Kept` says. -/

set_option linter.unusedTactic false
set_option linter.unreachableTactic false
set_option maxHeartbeats 200000
namespace Sys2Proof.Machine

theorem State.modCount_kept {pv : Bool} {s0 s : State} (p n : Nat) (f : WeaveCount → WeaveCount) (hk : Kept pv s0 s) :
    Kept pv s0 (State.modCount s p n f) := by
  dsimp only [State.modCount]
  repeat' first
    | with_reducible assumption
    | with_reducible apply State.count_kept
    | with_reducible apply State.modPort_kept
    | split
    | with_reducible apply Kept.ite
    | with_reducible rfl
    | with_reducible exact fun x => x
    | with_reducible exact Nat.le_refl _
    | with_reducible exact List.prefix_rfl
    | with_reducible exact List.prefix_append _ _
    | with_reducible refine fun (hx : tabSorted _) => ?_
    | with_reducible apply tabSorted_map
    | with_reducible apply tabSorted_put
    | with_reducible apply tabSorted_erase
    | with_reducible apply tabSorted_filter
    | with_reducible exact tabSorted_nil
    | (show tabSorted _; assumption)
    | with_reducible exact ledgerOrdered_filter _
    | with_reducible exact fun hx => canon_filterRegs hx _
    | with_reducible exact fun _ _ => rfl
    | ((with_reducible refine fun _ _ => banks_map ?_ _ _) <;> exact fun _ _ => rfl)
    | exact fun _ => rfl
    | exact fun _ _ => rfl
    | exact fun _ _ => rfl
    | (refine fun _ => ?_; first | rfl | (dsimp only; simp; done))
    | (refine fun _ q => ?_; first | (dsimp only; simp; done) | (simp; done) | (dsimp only; split <;> first | rfl | (simp; done)))
    | with_reducible apply Kept.upd

theorem State.releaseRow_kept {pv : Bool} {s0 s : State} (p : Nat) (row : TileRow) (hk : Kept pv s0 s) :
    Kept pv s0 (State.releaseRow s p row) := by
  dsimp only [State.releaseRow]
  repeat' first
    | with_reducible assumption
    | with_reducible apply State.modPort_kept
    | split
    | with_reducible apply Kept.ite
    | with_reducible rfl
    | with_reducible exact fun x => x
    | with_reducible exact Nat.le_refl _
    | with_reducible exact List.prefix_rfl
    | with_reducible exact List.prefix_append _ _
    | with_reducible refine fun (hx : tabSorted _) => ?_
    | with_reducible apply tabSorted_map
    | with_reducible apply tabSorted_put
    | with_reducible apply tabSorted_erase
    | with_reducible apply tabSorted_filter
    | with_reducible exact tabSorted_nil
    | (show tabSorted _; assumption)
    | with_reducible exact ledgerOrdered_filter _
    | with_reducible exact fun hx => canon_filterRegs hx _
    | with_reducible exact fun _ _ => rfl
    | ((with_reducible refine fun _ _ => banks_map ?_ _ _) <;> exact fun _ _ => rfl)
    | exact fun _ => rfl
    | exact fun _ _ => rfl
    | exact fun _ _ => rfl
    | (refine fun _ => ?_; first | rfl | (dsimp only; simp; done))
    | (refine fun _ q => ?_; first | (dsimp only; simp; done) | (simp; done) | (dsimp only; split <;> first | rfl | (simp; done)))
    | with_reducible apply Kept.upd

theorem State.abandonRow_kept {pv : Bool} {s0 s : State} (p : Nat) (r : TileRow) (hk : Kept pv s0 s) :
    Kept pv s0 (State.abandonRow s p r) := by
  dsimp only [State.abandonRow]
  repeat' first
    | with_reducible assumption
    | with_reducible apply State.modPort_kept
    | with_reducible apply State.modCount_kept
    | split
    | with_reducible apply Kept.ite
    | with_reducible rfl
    | with_reducible exact fun x => x
    | with_reducible exact Nat.le_refl _
    | with_reducible exact List.prefix_rfl
    | with_reducible exact List.prefix_append _ _
    | with_reducible refine fun (hx : tabSorted _) => ?_
    | with_reducible apply tabSorted_map
    | with_reducible apply tabSorted_put
    | with_reducible apply tabSorted_erase
    | with_reducible apply tabSorted_filter
    | with_reducible exact tabSorted_nil
    | (show tabSorted _; assumption)
    | with_reducible exact ledgerOrdered_filter _
    | with_reducible exact fun hx => canon_filterRegs hx _
    | with_reducible exact fun _ _ => rfl
    | ((with_reducible refine fun _ _ => banks_map ?_ _ _) <;> exact fun _ _ => rfl)
    | exact fun _ => rfl
    | exact fun _ _ => rfl
    | exact fun _ _ => rfl
    | (refine fun _ => ?_; first | rfl | (dsimp only; simp; done))
    | (refine fun _ q => ?_; first | (dsimp only; simp; done) | (simp; done) | (dsimp only; split <;> first | rfl | (simp; done)))
    | with_reducible apply Kept.upd

theorem State.abandonRows_kept {pv : Bool} {s0 s : State} (p : Nat) (hk : Kept pv s0 s) :
    Kept pv s0 (State.abandonRows s p) := by
  dsimp only [State.abandonRows]
  repeat' first
    | with_reducible assumption
    | with_reducible apply State.abandonRow_kept
    | with_reducible apply Kept.foldl
    | with_reducible apply Kept.foldlPair
    | split
    | with_reducible apply Kept.ite
    | (intro _ _ _)
    | (intro _ _)
    | dsimp only
    | dsimp only [id]

@[simp] theorem Port.startTile_banks (q : Port) (r : TileRow) : (Port.startTile q r).prot.banks = q.prot.banks := by
  unfold Port.startTile
  repeat' first
    | rfl
    | simp
    | split

theorem State.takeTile_kept {pv : Bool} {s0 s : State} (k : Nat) (sh : Shuttle) (hk : Kept pv s0 s) :
    Kept pv s0 (State.takeTile s k sh) := by
  dsimp only [State.takeTile]
  repeat' first
    | with_reducible assumption
    | with_reducible apply State.draw_kept
    | split
    | with_reducible apply Kept.ite
    | with_reducible rfl
    | with_reducible exact fun x => x
    | with_reducible exact Nat.le_refl _
    | with_reducible exact List.prefix_rfl
    | with_reducible exact List.prefix_append _ _
    | with_reducible refine fun (hx : tabSorted _) => ?_
    | with_reducible apply tabSorted_map
    | with_reducible apply tabSorted_put
    | with_reducible apply tabSorted_erase
    | with_reducible apply tabSorted_filter
    | with_reducible exact tabSorted_nil
    | (show tabSorted _; assumption)
    | with_reducible exact ledgerOrdered_filter _
    | with_reducible exact fun hx => canon_filterRegs hx _
    | with_reducible exact fun _ _ => rfl
    | ((with_reducible refine fun _ _ => banks_map ?_ _ _) <;> exact fun _ _ => rfl)
    | exact fun _ => rfl
    | exact fun _ _ => rfl
    | with_reducible apply Kept.upd

theorem State.tileStart_kept {pv : Bool} {s0 s : State} (k : Nat) (hk : Kept pv s0 s) :
    Kept pv s0 (State.tileStart s k) := by
  dsimp only [State.tileStart]
  repeat' first
    | with_reducible assumption
    | with_reducible apply State.modPort_kept
    | with_reducible apply State.abandonRows_kept
    | with_reducible apply State.takeTile_kept
    | with_reducible apply Kept.forN
    | split
    | with_reducible apply Kept.ite
    | with_reducible rfl
    | with_reducible exact fun x => x
    | with_reducible exact Nat.le_refl _
    | with_reducible exact List.prefix_rfl
    | with_reducible exact List.prefix_append _ _
    | with_reducible refine fun (hx : tabSorted _) => ?_
    | with_reducible apply tabSorted_map
    | with_reducible apply tabSorted_put
    | with_reducible apply tabSorted_erase
    | with_reducible apply tabSorted_filter
    | with_reducible exact tabSorted_nil
    | (show tabSorted _; assumption)
    | with_reducible exact ledgerOrdered_filter _
    | with_reducible exact fun hx => canon_filterRegs hx _
    | with_reducible exact fun _ _ => rfl
    | ((with_reducible refine fun _ _ => banks_map ?_ _ _) <;> exact fun _ _ => rfl)
    | exact fun _ => rfl
    | exact fun _ _ => rfl
    | exact fun _ _ => rfl
    | (refine fun _ => ?_; first | rfl | (dsimp only; simp; done))
    | (refine fun _ q => ?_; first | (dsimp only; simp; done) | (simp; done) | (dsimp only; split <;> first | rfl | (simp; done)))
    | (intro _ _ _)
    | (intro _ _)
    | dsimp only
    | dsimp only [id]
    | with_reducible apply Kept.upd

theorem execWeaveTileStart_kept (pv : Bool) (s : State) (shuttle : Fin 128) :
    KeptBy pv s (execWeaveTileStart shuttle s) := by
  dsimp only [execWeaveTileStart]
  have hk := Kept.refl pv s
  repeat' first
    | with_reducible apply KeptBy.next
    | with_reducible assumption
    | with_reducible apply State.tileStart_kept
    | split
    | with_reducible apply Kept.ite

theorem State.reportBlocks_kept {pv : Bool} {s0 s : State} (p frame : Nat) (bad : List Nat) (hk : Kept pv s0 s) :
    Kept pv s0 (State.reportBlocks s p frame bad) := by
  dsimp only [State.reportBlocks]
  repeat' first
    | with_reducible assumption
    | with_reducible apply State.modPort_kept
    | with_reducible apply State.raise_kept
    | with_reducible apply Kept.foldl
    | with_reducible apply Kept.foldlPair
    | split
    | with_reducible apply Kept.ite
    | with_reducible rfl
    | with_reducible exact fun x => x
    | with_reducible exact Nat.le_refl _
    | with_reducible exact List.prefix_rfl
    | with_reducible exact List.prefix_append _ _
    | with_reducible refine fun (hx : tabSorted _) => ?_
    | with_reducible apply tabSorted_map
    | with_reducible apply tabSorted_put
    | with_reducible apply tabSorted_erase
    | with_reducible apply tabSorted_filter
    | with_reducible exact tabSorted_nil
    | (show tabSorted _; assumption)
    | with_reducible exact ledgerOrdered_filter _
    | with_reducible exact fun hx => canon_filterRegs hx _
    | with_reducible exact fun _ _ => rfl
    | ((with_reducible refine fun _ _ => banks_map ?_ _ _) <;> exact fun _ _ => rfl)
    | exact fun _ => rfl
    | exact fun _ _ => rfl
    | exact fun _ _ => rfl
    | (refine fun _ => ?_; first | rfl | (dsimp only; simp; done))
    | (refine fun _ q => ?_; first | (dsimp only; simp; done) | (simp; done) | (dsimp only; split <;> first | rfl | (simp; done)))
    | (intro _ _ _)
    | (intro _ _)
    | dsimp only
    | dsimp only [id]
    | with_reducible apply Kept.upd

theorem State.countFills_kept {pv : Bool} {s0 s : State} (l frame : Nat) (bs : List (TillBlock × Nat)) (hk : Kept pv s0 s) :
    Kept pv s0 (State.countFills s l frame bs) := by
  dsimp only [State.countFills]
  repeat' first
    | with_reducible assumption
    | with_reducible apply State.modCount_kept
    | split
    | with_reducible apply Kept.ite
    | with_reducible rfl
    | with_reducible exact fun x => x
    | with_reducible exact Nat.le_refl _
    | with_reducible exact List.prefix_rfl
    | with_reducible exact List.prefix_append _ _
    | with_reducible refine fun (hx : tabSorted _) => ?_
    | with_reducible apply tabSorted_map
    | with_reducible apply tabSorted_put
    | with_reducible apply tabSorted_erase
    | with_reducible apply tabSorted_filter
    | with_reducible exact tabSorted_nil
    | (show tabSorted _; assumption)
    | with_reducible exact ledgerOrdered_filter _
    | with_reducible exact fun hx => canon_filterRegs hx _
    | with_reducible exact fun _ _ => rfl
    | ((with_reducible refine fun _ _ => banks_map ?_ _ _) <;> exact fun _ _ => rfl)
    | exact fun _ => rfl
    | exact fun _ _ => rfl
    | with_reducible apply Kept.upd

theorem State.fillTill_kept {pv : Bool} {s0 s : State} (k : Nat) (sh : Shuttle) (f : FrameState) (use : List TillBlock) (hit : List Nat) (hk : Kept pv s0 s) :
    Kept pv s0 (State.fillTill s k sh f use hit) := by
  dsimp only [State.fillTill]
  repeat' first
    | with_reducible assumption
    | with_reducible apply State.draw_kept
    | with_reducible apply State.countFills_kept
    | split
    | with_reducible apply Kept.ite
    | with_reducible rfl
    | with_reducible exact fun x => x
    | with_reducible exact Nat.le_refl _
    | with_reducible exact List.prefix_rfl
    | with_reducible exact List.prefix_append _ _
    | with_reducible refine fun (hx : tabSorted _) => ?_
    | with_reducible apply tabSorted_map
    | with_reducible apply tabSorted_put
    | with_reducible apply tabSorted_erase
    | with_reducible apply tabSorted_filter
    | with_reducible exact tabSorted_nil
    | (show tabSorted _; assumption)
    | with_reducible exact ledgerOrdered_filter _
    | with_reducible exact fun hx => canon_filterRegs hx _
    | with_reducible exact fun _ _ => rfl
    | ((with_reducible refine fun _ _ => banks_map ?_ _ _) <;> exact fun _ _ => rfl)
    | exact fun _ => rfl
    | exact fun _ _ => rfl
    | with_reducible apply Kept.upd

theorem State.tileDone_kept {pv : Bool} {s0 s : State} (sh : Shuttle) (hk : Kept pv s0 s) :
    Kept pv s0 (State.tileDone s sh) := by
  dsimp only [State.tileDone]
  repeat' first
    | with_reducible assumption
    | with_reducible apply State.modPort_kept
    | with_reducible apply State.modCount_kept
    | split
    | with_reducible apply Kept.ite
    | with_reducible rfl
    | with_reducible exact fun x => x
    | with_reducible exact Nat.le_refl _
    | with_reducible exact List.prefix_rfl
    | with_reducible exact List.prefix_append _ _
    | with_reducible refine fun (hx : tabSorted _) => ?_
    | with_reducible apply tabSorted_map
    | with_reducible apply tabSorted_put
    | with_reducible apply tabSorted_erase
    | with_reducible apply tabSorted_filter
    | with_reducible exact tabSorted_nil
    | (show tabSorted _; assumption)
    | with_reducible exact ledgerOrdered_filter _
    | with_reducible exact fun hx => canon_filterRegs hx _
    | with_reducible exact fun _ _ => rfl
    | ((with_reducible refine fun _ _ => banks_map ?_ _ _) <;> exact fun _ _ => rfl)
    | exact fun _ => rfl
    | exact fun _ _ => rfl
    | exact fun _ _ => rfl
    | (refine fun _ => ?_; first | rfl | (dsimp only; simp; done))
    | (refine fun _ q => ?_; first | (dsimp only; simp; done) | (simp; done) | (dsimp only; split <;> first | rfl | (simp; done)))
    | with_reducible apply Kept.upd

theorem State.shuttleNext_kept {pv : Bool} {s0 s : State} (k : Nat) (sh : Shuttle) (f : FrameState) (hk : Kept pv s0 s) :
    Kept pv s0 (State.shuttleNext s k sh f) := by
  dsimp only [State.shuttleNext]
  repeat' first
    | with_reducible assumption
    | with_reducible apply State.modCount_kept
    | with_reducible apply State.tileDone_kept
    | split
    | with_reducible apply Kept.ite
    | with_reducible rfl
    | with_reducible exact fun x => x
    | with_reducible exact Nat.le_refl _
    | with_reducible exact List.prefix_rfl
    | with_reducible exact List.prefix_append _ _
    | with_reducible refine fun (hx : tabSorted _) => ?_
    | with_reducible apply tabSorted_map
    | with_reducible apply tabSorted_put
    | with_reducible apply tabSorted_erase
    | with_reducible apply tabSorted_filter
    | with_reducible exact tabSorted_nil
    | (show tabSorted _; assumption)
    | with_reducible exact ledgerOrdered_filter _
    | with_reducible exact fun hx => canon_filterRegs hx _
    | with_reducible exact fun _ _ => rfl
    | ((with_reducible refine fun _ _ => banks_map ?_ _ _) <;> exact fun _ _ => rfl)
    | exact fun _ => rfl
    | exact fun _ _ => rfl
    | with_reducible apply Kept.upd

theorem State.segmentDone_kept {pv : Bool} {s0 s : State} (k : Nat) (sh : Shuttle) (f : FrameState) (hk : Kept pv s0 s) :
    Kept pv s0 (State.segmentDone s k sh f) := by
  dsimp only [State.segmentDone]
  repeat' first
    | with_reducible assumption
    | with_reducible apply State.modPort_kept
    | with_reducible apply State.modCount_kept
    | with_reducible apply State.reportBlocks_kept
    | with_reducible apply State.fillTill_kept
    | with_reducible apply State.shuttleNext_kept
    | split
    | with_reducible apply Kept.ite
    | with_reducible rfl
    | with_reducible exact fun x => x
    | with_reducible exact Nat.le_refl _
    | with_reducible exact List.prefix_rfl
    | with_reducible exact List.prefix_append _ _
    | with_reducible refine fun (hx : tabSorted _) => ?_
    | with_reducible apply tabSorted_map
    | with_reducible apply tabSorted_put
    | with_reducible apply tabSorted_erase
    | with_reducible apply tabSorted_filter
    | with_reducible exact tabSorted_nil
    | (show tabSorted _; assumption)
    | with_reducible exact ledgerOrdered_filter _
    | with_reducible exact fun hx => canon_filterRegs hx _
    | with_reducible exact fun _ _ => rfl
    | ((with_reducible refine fun _ _ => banks_map ?_ _ _) <;> exact fun _ _ => rfl)
    | exact fun _ => rfl
    | exact fun _ _ => rfl
    | exact fun _ _ => rfl
    | (refine fun _ => ?_; first | rfl | (dsimp only; simp; done))
    | (refine fun _ q => ?_; first | (dsimp only; simp; done) | (simp; done) | (dsimp only; split <;> first | rfl | (simp; done)))
    | with_reducible apply Kept.upd

theorem execWeaveSegmentDone_kept (pv : Bool) (s : State) (shuttle : Fin 128) :
    KeptBy pv s (execWeaveSegmentDone shuttle s) := by
  dsimp only [execWeaveSegmentDone]
  have hk := Kept.refl pv s
  repeat' first
    | with_reducible apply KeptBy.next
    | with_reducible assumption
    | with_reducible apply State.segmentDone_kept
    | split
    | with_reducible apply Kept.ite
    | with_reducible rfl
    | with_reducible exact fun x => x
    | with_reducible exact Nat.le_refl _
    | with_reducible exact List.prefix_rfl
    | with_reducible exact List.prefix_append _ _
    | with_reducible refine fun (hx : tabSorted _) => ?_
    | with_reducible apply tabSorted_map
    | with_reducible apply tabSorted_put
    | with_reducible apply tabSorted_erase
    | with_reducible apply tabSorted_filter
    | with_reducible exact tabSorted_nil
    | (show tabSorted _; assumption)
    | with_reducible exact ledgerOrdered_filter _
    | with_reducible exact fun hx => canon_filterRegs hx _
    | with_reducible exact fun _ _ => rfl
    | ((with_reducible refine fun _ _ => banks_map ?_ _ _) <;> exact fun _ _ => rfl)
    | exact fun _ => rfl
    | exact fun _ _ => rfl
    | with_reducible apply Kept.upd

theorem State.closeRows_kept {pv : Bool} {s0 s : State} (p : Nat) (f : FrameState) (hk : Kept pv s0 s) :
    Kept pv s0 (State.closeRows s p f) := by
  dsimp only [State.closeRows]
  repeat' first
    | with_reducible assumption
    | with_reducible apply State.modCount_kept
    | with_reducible apply State.abandonRows_kept
    | with_reducible apply Kept.forN
    | split
    | with_reducible apply Kept.ite
    | with_reducible rfl
    | with_reducible exact fun x => x
    | with_reducible exact Nat.le_refl _
    | with_reducible exact List.prefix_rfl
    | with_reducible exact List.prefix_append _ _
    | with_reducible refine fun (hx : tabSorted _) => ?_
    | with_reducible apply tabSorted_map
    | with_reducible apply tabSorted_put
    | with_reducible apply tabSorted_erase
    | with_reducible apply tabSorted_filter
    | with_reducible exact tabSorted_nil
    | (show tabSorted _; assumption)
    | with_reducible exact ledgerOrdered_filter _
    | with_reducible exact fun hx => canon_filterRegs hx _
    | with_reducible exact fun _ _ => rfl
    | ((with_reducible refine fun _ _ => banks_map ?_ _ _) <;> exact fun _ _ => rfl)
    | exact fun _ => rfl
    | exact fun _ _ => rfl
    | (intro _ _ _)
    | (intro _ _)
    | dsimp only
    | dsimp only [id]
    | with_reducible apply Kept.upd

theorem State.publishFrame_kept {pv : Bool} {s0 s : State} (p : Nat) (f : FrameState) (hk : Kept pv s0 s) :
    Kept pv s0 (State.publishFrame s p f) := by
  dsimp only [State.publishFrame]
  repeat' first
    | with_reducible assumption
    | with_reducible apply State.setReg_kept
    | with_reducible apply State.setField_kept
    | with_reducible apply State.count_kept
    | with_reducible apply State.modPort_kept
    | with_reducible apply State.closeRows_kept
    | split
    | with_reducible apply Kept.ite
    | with_reducible rfl
    | with_reducible exact fun x => x
    | with_reducible exact Nat.le_refl _
    | with_reducible exact List.prefix_rfl
    | with_reducible exact List.prefix_append _ _
    | with_reducible refine fun (hx : tabSorted _) => ?_
    | with_reducible apply tabSorted_map
    | with_reducible apply tabSorted_put
    | with_reducible apply tabSorted_erase
    | with_reducible apply tabSorted_filter
    | with_reducible exact tabSorted_nil
    | (show tabSorted _; assumption)
    | with_reducible exact ledgerOrdered_filter _
    | with_reducible exact fun hx => canon_filterRegs hx _
    | with_reducible exact fun _ _ => rfl
    | ((with_reducible refine fun _ _ => banks_map ?_ _ _) <;> exact fun _ _ => rfl)
    | exact fun _ => rfl
    | exact fun _ _ => rfl
    | exact fun _ _ => rfl
    | (refine fun _ => ?_; first | rfl | (dsimp only; simp; done))
    | (refine fun _ q => ?_; first | (dsimp only; simp; done) | (simp; done) | (dsimp only; split <;> first | rfl | (simp; done)))
    | with_reducible apply Kept.upd

end Sys2Proof.Machine
end

