-- ==== Sys2Proof/Laws/KeptMonitor.lean ====
section
/-! SUPPORT. Every operation of Machine/Monitor.lean keeps what `Kept` says. -/

set_option linter.unusedTactic false
set_option linter.unreachableTactic false
set_option maxHeartbeats 200000
namespace Sys2Proof.Machine

@[simp] theorem Port.setRegion_banks (q : Port) (r : Nat) (x : Region) : (Port.setRegion q r x).prot.banks = q.prot.banks := by
  unfold Port.setRegion
  repeat' first
    | rfl
    | simp
    | split

theorem State.takeWrite_kept {pv : Bool} {s0 s : State} (p : Nat) (w : Nat × Nat × Nat) (hk : Kept pv s0 s) :
    Kept pv s0 (State.takeWrite s p w) := by
  dsimp only [State.takeWrite]
  repeat' first
    | with_reducible assumption
    | with_reducible apply State.modPort_kept
    | split
    | with_reducible apply Kept.ite
    | exact fun _ _ => rfl
    | (refine fun _ => ?_; first | rfl | (dsimp only; simp; done))
    | (refine fun _ q => ?_; first | (dsimp only; simp; done) | (simp; done) | (dsimp only; split <;> first | rfl | (simp; done)))
    | with_reducible apply Kept.upd

theorem State.latchWrites_kept {pv : Bool} {s0 s : State} (p latch : Nat) (hk : Kept pv s0 s) :
    Kept pv s0 (State.latchWrites s p latch) := by
  dsimp only [State.latchWrites]
  repeat' first
    | with_reducible assumption
    | with_reducible apply State.modPort_kept
    | with_reducible apply State.takeWrite_kept
    | with_reducible apply Kept.foldl
    | with_reducible apply Kept.foldlPair
    | split
    | with_reducible apply Kept.ite
    | with_reducible rfl
    | with_reducible exact fun x => x
    | with_reducible exact Nat.le_refl _
    | with_reducible exact List.prefix_rfl
    | with_reducible exact List.prefix_append _ _
    | with_reducible refine fun (hx : tabSorted _) => ?_
    | with_reducible apply tabSorted_map
    | with_reducible apply tabSorted_put
    | with_reducible apply tabSorted_erase
    | with_reducible apply tabSorted_filter
    | with_reducible exact tabSorted_nil
    | (show tabSorted _; assumption)
    | with_reducible exact ledgerOrdered_filter _
    | with_reducible exact fun hx => canon_filterRegs hx _
    | with_reducible exact fun _ _ => rfl
    | ((with_reducible refine fun _ _ => banks_map ?_ _ _) <;> exact fun _ _ => rfl)
    | exact fun _ => rfl
    | exact fun _ _ => rfl
    | exact fun _ _ => rfl
    | (refine fun _ => ?_; first | rfl | (dsimp only; simp; done))
    | (refine fun _ q => ?_; first | (dsimp only; simp; done) | (simp; done) | (dsimp only; split <;> first | rfl | (simp; done)))
    | (intro _ _ _)
    | (intro _ _)
    | dsimp only
    | dsimp only [id]
    | with_reducible apply Kept.upd

theorem State.acceptSig_kept {pv : Bool} {s0 s : State} (d : Desc) (table : HostRead) (mirrored : Bool) (hk : Kept pv s0 s) :
    Kept pv s0 (State.acceptSig s d table mirrored) := by
  dsimp only [State.acceptSig]
  repeat' first
    | with_reducible assumption
    | with_reducible apply State.modPort_kept
    | with_reducible apply State.logData_kept
    | with_reducible apply State.accept_kept
    | with_reducible apply State.admitNew_kept
    | split
    | with_reducible apply Kept.ite
    | with_reducible rfl
    | with_reducible exact fun x => x
    | with_reducible exact Nat.le_refl _
    | with_reducible exact List.prefix_rfl
    | with_reducible exact List.prefix_append _ _
    | with_reducible refine fun (hx : tabSorted _) => ?_
    | with_reducible apply tabSorted_map
    | with_reducible apply tabSorted_put
    | with_reducible apply tabSorted_erase
    | with_reducible apply tabSorted_filter
    | with_reducible exact tabSorted_nil
    | (show tabSorted _; assumption)
    | with_reducible exact ledgerOrdered_filter _
    | with_reducible exact fun hx => canon_filterRegs hx _
    | with_reducible exact fun _ _ => rfl
    | ((with_reducible refine fun _ _ => banks_map ?_ _ _) <;> exact fun _ _ => rfl)
    | exact fun _ => rfl
    | exact fun _ _ => rfl
    | exact fun _ _ => rfl
    | (refine fun _ => ?_; first | rfl | (dsimp only; simp; done))
    | (refine fun _ q => ?_; first | (dsimp only; simp; done) | (simp; done) | (dsimp only; split <;> first | rfl | (simp; done)))
    | with_reducible apply Kept.upd

theorem State.askSig_kept {pv : Bool} {s0 s : State} (d : Desc) (hk : Kept pv s0 s) :
    Kept pv s0 (State.askSig s d) := by
  dsimp only [State.askSig]
  repeat' first
    | with_reducible assumption
    | with_reducible apply State.emit_kept
    | split
    | with_reducible apply Kept.ite

theorem execSignatureExpect_kept (pv : Bool) (s : State) (r : Fin 128) (table : HostRead) :
    KeptBy pv s (execSignatureExpect r table s) := by
  dsimp only [execSignatureExpect]
  have hk := Kept.refl pv s
  repeat' first
    | with_reducible apply KeptBy.next
    | with_reducible assumption
    | with_reducible apply State.reject_kept
    | with_reducible apply State.withCur_kept
    | with_reducible apply State.acceptSig_kept
    | with_reducible apply State.askSig_kept
    | split
    | with_reducible apply Kept.ite
    | with_reducible rfl
    | with_reducible exact fun x => x
    | with_reducible exact Nat.le_refl _
    | with_reducible exact List.prefix_rfl
    | with_reducible exact List.prefix_append _ _
    | with_reducible refine fun (hx : tabSorted _) => ?_
    | with_reducible apply tabSorted_map
    | with_reducible apply tabSorted_put
    | with_reducible apply tabSorted_erase
    | with_reducible apply tabSorted_filter
    | with_reducible exact tabSorted_nil
    | (show tabSorted _; assumption)
    | with_reducible exact ledgerOrdered_filter _
    | with_reducible exact fun hx => canon_filterRegs hx _
    | with_reducible exact fun _ _ => rfl
    | ((with_reducible refine fun _ _ => banks_map ?_ _ _) <;> exact fun _ _ => rfl)
    | exact fun _ => rfl
    | exact fun _ _ => rfl
    | (intro _ _ _)
    | (intro _ _)
    | dsimp only
    | dsimp only [id]
    | with_reducible apply Kept.upd

@[simp] theorem Port.withEntries_banks (q : Port) (es : List SigEntry) : (q.withEntries es).prot.banks = q.prot.banks := by
  unfold Port.withEntries
  induction es generalizing q with
  | nil => rfl
  | cons e es ih => rw [List.foldl_cons, ih, Port.setRegion_banks]

theorem State.applyTable_kept {pv : Bool} {s0 s : State} (p frame : Nat) (t : SigTable) (hk : Kept pv s0 s) :
    Kept pv s0 (State.applyTable s p frame t) := by
  dsimp only [State.applyTable]
  repeat' first
    | with_reducible assumption
    | with_reducible apply State.setPort_kept
    | with_reducible apply State.finish_kept
    | with_reducible apply State.applyRecord_kept
    | split
    | with_reducible apply Kept.ite
    | with_reducible rfl
    | with_reducible exact fun x => x
    | with_reducible exact Nat.le_refl _
    | with_reducible exact List.prefix_rfl
    | with_reducible exact List.prefix_append _ _
    | with_reducible refine fun (hx : tabSorted _) => ?_
    | with_reducible apply tabSorted_map
    | with_reducible apply tabSorted_put
    | with_reducible apply tabSorted_erase
    | with_reducible apply tabSorted_filter
    | with_reducible exact tabSorted_nil
    | (show tabSorted _; assumption)
    | with_reducible exact ledgerOrdered_filter _
    | with_reducible exact fun hx => canon_filterRegs hx _
    | with_reducible exact fun _ _ => rfl
    | ((with_reducible refine fun _ _ => banks_map ?_ _ _) <;> exact fun _ _ => rfl)
    | exact fun _ => rfl
    | exact fun _ _ => rfl
    | exact fun _ _ => rfl
    | (refine fun _ => ?_; first | rfl | (dsimp only; simp; done))
    | (refine fun _ q => ?_; first | (dsimp only; simp; done) | (simp; done) | (dsimp only; split <;> first | rfl | (simp; done)))
    | with_reducible apply Kept.upd

theorem State.runTables_kept {pv : Bool} {s0 : State} (p frame latch : Nat) (ts : List SigTable) {s : State} (h : Kept pv s0 s) :
    Kept pv s0 (State.runTables p frame latch ts s) := by
  induction ts generalizing s with
  | nil => exact h
  | cons t ts ih =>
    unfold State.runTables
    split
    · exact ih (State.applyTable_kept _ _ _ (State.modPort_kept _ _ (fun _ _ => rfl) h))
    · exact h

theorem State.latchRegions_kept {pv : Bool} {s0 s : State} (p frame latch : Nat) (run : List Nat) (hk : Kept pv s0 s) :
    Kept pv s0 (State.latchRegions s p frame latch run) := by
  dsimp only [State.latchRegions]
  repeat' first
    | with_reducible assumption
    | with_reducible apply State.modPort_kept
    | with_reducible apply State.run_kept
    | with_reducible apply State.latchWrites_kept
    | with_reducible apply State.runTables_kept
    | split
    | with_reducible apply Kept.ite
    | with_reducible rfl
    | with_reducible exact fun x => x
    | with_reducible exact Nat.le_refl _
    | with_reducible exact List.prefix_rfl
    | with_reducible exact List.prefix_append _ _
    | with_reducible refine fun (hx : tabSorted _) => ?_
    | with_reducible apply tabSorted_map
    | with_reducible apply tabSorted_put
    | with_reducible apply tabSorted_erase
    | with_reducible apply tabSorted_filter
    | with_reducible exact tabSorted_nil
    | (show tabSorted _; assumption)
    | with_reducible exact ledgerOrdered_filter _
    | with_reducible exact fun hx => canon_filterRegs hx _
    | with_reducible exact fun _ _ => rfl
    | ((with_reducible refine fun _ _ => banks_map ?_ _ _) <;> exact fun _ _ => rfl)
    | exact fun _ => rfl
    | exact fun _ _ => rfl
    | exact fun _ _ => rfl
    | (refine fun _ => ?_; first | rfl | (dsimp only; simp; done))
    | (refine fun _ q => ?_; first | (dsimp only; simp; done) | (simp; done) | (dsimp only; split <;> first | rfl | (simp; done)))
    | with_reducible apply Kept.upd

theorem State.setResult_kept {pv : Bool} {s0 s : State} (p r frame code : Nat) (sig : Option Nat) (hk : Kept pv s0 s) :
    Kept pv s0 (State.setResult s p r frame code sig) := by
  dsimp only [State.setResult]
  repeat' first
    | with_reducible assumption
    | with_reducible apply State.setField_kept
    | with_reducible apply State.modPort_kept
    | split
    | with_reducible apply Kept.ite
    | with_reducible rfl
    | with_reducible exact fun x => x
    | with_reducible exact Nat.le_refl _
    | with_reducible exact List.prefix_rfl
    | with_reducible exact List.prefix_append _ _
    | with_reducible refine fun (hx : tabSorted _) => ?_
    | with_reducible apply tabSorted_map
    | with_reducible apply tabSorted_put
    | with_reducible apply tabSorted_erase
    | with_reducible apply tabSorted_filter
    | with_reducible exact tabSorted_nil
    | (show tabSorted _; assumption)
    | with_reducible exact ledgerOrdered_filter _
    | with_reducible exact fun hx => canon_filterRegs hx _
    | with_reducible exact fun _ _ => rfl
    | ((with_reducible refine fun _ _ => banks_map ?_ _ _) <;> exact fun _ _ => rfl)
    | exact fun _ => rfl
    | exact fun _ _ => rfl
    | exact fun _ _ => rfl
    | (refine fun _ => ?_; first | rfl | (dsimp only; simp; done))
    | (refine fun _ q => ?_; first | (dsimp only; simp; done) | (simp; done) | (dsimp only; split <;> first | rfl | (simp; done)))
    | with_reducible apply Kept.upd

theorem State.setProtResult_kept {pv : Bool} {s0 s : State} (p frame code : Nat) (sig : Option Nat) (hk : Kept pv s0 s) :
    Kept pv s0 (State.setProtResult s p frame code sig) := by
  dsimp only [State.setProtResult]
  repeat' first
    | with_reducible assumption
    | with_reducible apply State.setField_kept
    | with_reducible apply State.modPort_kept
    | split
    | with_reducible apply Kept.ite
    | with_reducible rfl
    | with_reducible exact fun x => x
    | with_reducible exact Nat.le_refl _
    | with_reducible exact List.prefix_rfl
    | with_reducible exact List.prefix_append _ _
    | with_reducible refine fun (hx : tabSorted _) => ?_
    | with_reducible apply tabSorted_map
    | with_reducible apply tabSorted_put
    | with_reducible apply tabSorted_erase
    | with_reducible apply tabSorted_filter
    | with_reducible exact tabSorted_nil
    | (show tabSorted _; assumption)
    | with_reducible exact ledgerOrdered_filter _
    | with_reducible exact fun hx => canon_filterRegs hx _
    | with_reducible exact fun _ _ => rfl
    | ((with_reducible refine fun _ _ => banks_map ?_ _ _) <;> exact fun _ _ => rfl)
    | exact fun _ => rfl
    | exact fun _ _ => rfl
    | exact fun _ _ => rfl
    | (refine fun _ => ?_; first | rfl | (dsimp only; simp; done))
    | (refine fun _ q => ?_; first | (dsimp only; simp; done) | (simp; done) | (dsimp only; split <;> first | rfl | (simp; done)))
    | with_reducible apply Kept.upd

theorem State.releaseWitness_kept {pv : Bool} {s0 s : State} (p deadline : Nat) (f : FrameState) (hk : Kept pv s0 s) :
    Kept pv s0 (State.releaseWitness s p deadline f) := by
  dsimp only [State.releaseWitness]
  repeat' first
    | with_reducible assumption
    | with_reducible apply State.modPort_kept
    | with_reducible apply State.setResult_kept
    | with_reducible apply State.setProtResult_kept
    | with_reducible apply Kept.forN
    | split
    | with_reducible apply Kept.ite
    | with_reducible rfl
    | with_reducible exact fun x => x
    | with_reducible exact Nat.le_refl _
    | with_reducible exact List.prefix_rfl
    | with_reducible exact List.prefix_append _ _
    | with_reducible refine fun (hx : tabSorted _) => ?_
    | with_reducible apply tabSorted_map
    | with_reducible apply tabSorted_put
    | with_reducible apply tabSorted_erase
    | with_reducible apply tabSorted_filter
    | with_reducible exact tabSorted_nil
    | (show tabSorted _; assumption)
    | with_reducible exact ledgerOrdered_filter _
    | with_reducible exact fun hx => canon_filterRegs hx _
    | with_reducible exact fun _ _ => rfl
    | ((with_reducible refine fun _ _ => banks_map ?_ _ _) <;> exact fun _ _ => rfl)
    | exact fun _ => rfl
    | exact fun _ _ => rfl
    | exact fun _ _ => rfl
    | (refine fun _ => ?_; first | rfl | (dsimp only; simp; done))
    | (refine fun _ q => ?_; first | (dsimp only; simp; done) | (simp; done) | (dsimp only; split <;> first | rfl | (simp; done)))
    | (intro _ _ _)
    | (intro _ _)
    | dsimp only
    | dsimp only [id]
    | with_reducible apply Kept.upd

theorem State.sigMismatch_kept {pv : Bool} {s0 s : State} (p r frame got want : Nat) (hk : Kept pv s0 s) :
    Kept pv s0 (State.sigMismatch s p r frame got want) := by
  dsimp only [State.sigMismatch]
  repeat' first
    | with_reducible assumption
    | with_reducible apply State.count_kept
    | with_reducible apply State.setWbit_kept
    | with_reducible apply State.raise_kept
    | with_reducible apply State.signalRing_kept
    | split
    | with_reducible apply Kept.ite

theorem State.regionMissed_kept {pv : Bool} {s0 s : State} (p r frame : Nat) (hk : Kept pv s0 s) :
    Kept pv s0 (State.regionMissed s p r frame) := by
  dsimp only [State.regionMissed]
  repeat' first
    | with_reducible assumption
    | with_reducible apply State.count_kept
    | with_reducible apply State.setWbit_kept
    | with_reducible apply State.modPort_kept
    | with_reducible apply State.raise_kept
    | with_reducible apply State.run_kept
    | with_reducible apply State.signalRing_kept
    | split
    | with_reducible apply Kept.ite
    | with_reducible rfl
    | with_reducible exact fun x => x
    | with_reducible exact Nat.le_refl _
    | with_reducible exact List.prefix_rfl
    | with_reducible exact List.prefix_append _ _
    | with_reducible refine fun (hx : tabSorted _) => ?_
    | with_reducible apply tabSorted_map
    | with_reducible apply tabSorted_put
    | with_reducible apply tabSorted_erase
    | with_reducible apply tabSorted_filter
    | with_reducible exact tabSorted_nil
    | (show tabSorted _; assumption)
    | with_reducible exact ledgerOrdered_filter _
    | with_reducible exact fun hx => canon_filterRegs hx _
    | with_reducible exact fun _ _ => rfl
    | ((with_reducible refine fun _ _ => banks_map ?_ _ _) <;> exact fun _ _ => rfl)
    | exact fun _ => rfl
    | exact fun _ _ => rfl
    | exact fun _ _ => rfl
    | (refine fun _ => ?_; first | rfl | (dsimp only; simp; done))
    | (refine fun _ q => ?_; first | (dsimp only; simp; done) | (simp; done) | (dsimp only; split <;> first | rfl | (simp; done)))
    | with_reducible apply Kept.upd

theorem State.compareRegion_kept {pv : Bool} {s0 s : State} (p r : Nat) (f : FrameState) (ws : List W12) (hk : Kept pv s0 s) :
    Kept pv s0 (State.compareRegion s p r f ws) := by
  dsimp only [State.compareRegion]
  repeat' first
    | with_reducible assumption
    | with_reducible apply State.modPort_kept
    | with_reducible apply State.setResult_kept
    | with_reducible apply State.setProtResult_kept
    | with_reducible apply State.sigMismatch_kept
    | split
    | with_reducible apply Kept.ite
    | with_reducible rfl
    | with_reducible exact fun x => x
    | with_reducible exact Nat.le_refl _
    | with_reducible exact List.prefix_rfl
    | with_reducible exact List.prefix_append _ _
    | with_reducible refine fun (hx : tabSorted _) => ?_
    | with_reducible apply tabSorted_map
    | with_reducible apply tabSorted_put
    | with_reducible apply tabSorted_erase
    | with_reducible apply tabSorted_filter
    | with_reducible exact tabSorted_nil
    | (show tabSorted _; assumption)
    | with_reducible exact ledgerOrdered_filter _
    | with_reducible exact fun hx => canon_filterRegs hx _
    | with_reducible exact fun _ _ => rfl
    | ((with_reducible refine fun _ _ => banks_map ?_ _ _) <;> exact fun _ _ => rfl)
    | exact fun _ => rfl
    | exact fun _ _ => rfl
    | exact fun _ _ => rfl
    | (refine fun _ => ?_; first | rfl | (dsimp only; simp; done))
    | (refine fun _ q => ?_; first | (dsimp only; simp; done) | (simp; done) | (dsimp only; split <;> first | rfl | (simp; done)))
    | with_reducible apply Kept.upd

theorem State.witnessDone_kept {pv : Bool} {s0 s : State} (k : Nat) (sh : Shuttle) (f : FrameState) (hk : Kept pv s0 s) :
    Kept pv s0 (State.witnessDone s k sh f) := by
  dsimp only [State.witnessDone]
  repeat' first
    | with_reducible assumption
    | with_reducible apply State.modPort_kept
    | with_reducible apply State.modCount_kept
    | with_reducible apply State.reportBlocks_kept
    | with_reducible apply State.fillTill_kept
    | with_reducible apply State.compareRegion_kept
    | split
    | with_reducible apply Kept.ite
    | with_reducible rfl
    | with_reducible exact fun x => x
    | with_reducible exact Nat.le_refl _
    | with_reducible exact List.prefix_rfl
    | with_reducible exact List.prefix_append _ _
    | with_reducible refine fun (hx : tabSorted _) => ?_
    | with_reducible apply tabSorted_map
    | with_reducible apply tabSorted_put
    | with_reducible apply tabSorted_erase
    | with_reducible apply tabSorted_filter
    | with_reducible exact tabSorted_nil
    | (show tabSorted _; assumption)
    | with_reducible exact ledgerOrdered_filter _
    | with_reducible exact fun hx => canon_filterRegs hx _
    | with_reducible exact fun _ _ => rfl
    | ((with_reducible refine fun _ _ => banks_map ?_ _ _) <;> exact fun _ _ => rfl)
    | exact fun _ => rfl
    | exact fun _ _ => rfl
    | exact fun _ _ => rfl
    | (refine fun _ => ?_; first | rfl | (dsimp only; simp; done))
    | (refine fun _ q => ?_; first | (dsimp only; simp; done) | (simp; done) | (dsimp only; split <;> first | rfl | (simp; done)))
    | with_reducible apply Kept.upd

theorem execWitnessTileDone_kept (pv : Bool) (s : State) (p : Fin 4) :
    KeptBy pv s (execWitnessTileDone p s) := by
  dsimp only [execWitnessTileDone]
  have hk := Kept.refl pv s
  repeat' first
    | with_reducible apply KeptBy.next
    | with_reducible assumption
    | with_reducible apply State.witnessDone_kept
    | split
    | with_reducible apply Kept.ite
    | with_reducible rfl
    | with_reducible exact fun x => x
    | with_reducible exact Nat.le_refl _
    | with_reducible exact List.prefix_rfl
    | with_reducible exact List.prefix_append _ _
    | with_reducible refine fun (hx : tabSorted _) => ?_
    | with_reducible apply tabSorted_map
    | with_reducible apply tabSorted_put
    | with_reducible apply tabSorted_erase
    | with_reducible apply tabSorted_filter
    | with_reducible exact tabSorted_nil
    | (show tabSorted _; assumption)
    | with_reducible exact ledgerOrdered_filter _
    | with_reducible exact fun hx => canon_filterRegs hx _
    | with_reducible exact fun _ _ => rfl
    | ((with_reducible refine fun _ _ => banks_map ?_ _ _) <;> exact fun _ _ => rfl)
    | exact fun _ => rfl
    | exact fun _ _ => rfl
    | with_reducible apply Kept.upd

theorem State.closeWitness_kept {pv : Bool} {s0 s : State} (p frame : Nat) (hk : Kept pv s0 s) :
    Kept pv s0 (State.closeWitness s p frame) := by
  dsimp only [State.closeWitness]
  repeat' first
    | with_reducible assumption
    | with_reducible apply State.count_kept
    | with_reducible apply State.modPort_kept
    | with_reducible apply State.setResult_kept
    | with_reducible apply State.setProtResult_kept
    | with_reducible apply State.regionMissed_kept
    | with_reducible apply Kept.foldl
    | with_reducible apply Kept.foldlPair
    | split
    | with_reducible apply Kept.ite
    | with_reducible rfl
    | with_reducible exact fun x => x
    | with_reducible exact Nat.le_refl _
    | with_reducible exact List.prefix_rfl
    | with_reducible exact List.prefix_append _ _
    | with_reducible refine fun (hx : tabSorted _) => ?_
    | with_reducible apply tabSorted_map
    | with_reducible apply tabSorted_put
    | with_reducible apply tabSorted_erase
    | with_reducible apply tabSorted_filter
    | with_reducible exact tabSorted_nil
    | (show tabSorted _; assumption)
    | with_reducible exact ledgerOrdered_filter _
    | with_reducible exact fun hx => canon_filterRegs hx _
    | with_reducible exact fun _ _ => rfl
    | ((with_reducible refine fun _ _ => banks_map ?_ _ _) <;> exact fun _ _ => rfl)
    | exact fun _ => rfl
    | exact fun _ _ => rfl
    | exact fun _ _ => rfl
    | (refine fun _ => ?_; first | rfl | (dsimp only; simp; done))
    | (refine fun _ q => ?_; first | (dsimp only; simp; done) | (simp; done) | (dsimp only; split <;> first | rfl | (simp; done)))
    | (intro _ _ _)
    | (intro _ _)
    | dsimp only
    | dsimp only [id]
    | with_reducible apply Kept.upd

theorem State.activate_kept {pv : Bool} {s0 s : State} (p : Nat) (hk : Kept pv s0 s) :
    Kept pv s0 (State.activate s p) := by
  dsimp only [State.activate]
  repeat' first
    | with_reducible assumption
    | with_reducible apply State.setWbit_kept
    | with_reducible apply State.modPort_kept
    | split
    | with_reducible apply Kept.ite
    | with_reducible rfl
    | with_reducible exact fun x => x
    | with_reducible exact Nat.le_refl _
    | with_reducible exact List.prefix_rfl
    | with_reducible exact List.prefix_append _ _
    | with_reducible refine fun (hx : tabSorted _) => ?_
    | with_reducible apply tabSorted_map
    | with_reducible apply tabSorted_put
    | with_reducible apply tabSorted_erase
    | with_reducible apply tabSorted_filter
    | with_reducible exact tabSorted_nil
    | (show tabSorted _; assumption)
    | with_reducible exact ledgerOrdered_filter _
    | with_reducible exact fun hx => canon_filterRegs hx _
    | with_reducible exact fun _ _ => rfl
    | ((with_reducible refine fun _ _ => banks_map ?_ _ _) <;> exact fun _ _ => rfl)
    | exact fun _ => rfl
    | exact fun _ _ => rfl
    | exact fun _ _ => rfl
    | (refine fun _ => ?_; first | rfl | (dsimp only; simp; done))
    | (refine fun _ q => ?_; first | (dsimp only; simp; done) | (simp; done) | (dsimp only; split <;> first | rfl | (simp; done)))
    | with_reducible apply Kept.upd

theorem State.latchProt_kept {pv : Bool} {s0 s : State} (p latch : Nat) (hk : Kept pv s0 s) :
    Kept pv s0 (State.latchProt s p latch) := by
  dsimp only [State.latchProt]
  repeat' first
    | with_reducible assumption
    | with_reducible apply State.activate_kept
    | split
    | with_reducible apply Kept.ite

theorem State.startActivation_kept {pv : Bool} {s0 s : State} (p : Nat) (hk : Kept pv s0 s) :
    Kept pv s0 (State.startActivation s p) := by
  dsimp only [State.startActivation]
  repeat' first
    | with_reducible assumption
    | with_reducible apply State.setWbit_kept
    | with_reducible apply State.modPort_kept
    | with_reducible apply State.raise_kept
    | with_reducible apply State.activate_kept
    | split
    | with_reducible apply Kept.ite
    | with_reducible rfl
    | with_reducible exact fun x => x
    | with_reducible exact Nat.le_refl _
    | with_reducible exact List.prefix_rfl
    | with_reducible exact List.prefix_append _ _
    | with_reducible refine fun (hx : tabSorted _) => ?_
    | with_reducible apply tabSorted_map
    | with_reducible apply tabSorted_put
    | with_reducible apply tabSorted_erase
    | with_reducible apply tabSorted_filter
    | with_reducible exact tabSorted_nil
    | (show tabSorted _; assumption)
    | with_reducible exact ledgerOrdered_filter _
    | with_reducible exact fun hx => canon_filterRegs hx _
    | with_reducible exact fun _ _ => rfl
    | ((with_reducible refine fun _ _ => banks_map ?_ _ _) <;> exact fun _ _ => rfl)
    | exact fun _ => rfl
    | exact fun _ _ => rfl
    | exact fun _ _ => rfl
    | (refine fun _ => ?_; first | rfl | (dsimp only; simp; done))
    | (refine fun _ q => ?_; first | (dsimp only; simp; done) | (simp; done) | (dsimp only; split <;> first | rfl | (simp; done)))
    | with_reducible apply Kept.upd

theorem execWpActivate_kept (pv : Bool) (s : State) (p : Fin 4) :
    KeptBy pv s (execWpActivate p s) := by
  dsimp only [execWpActivate]
  have hk := Kept.refl pv s
  repeat' first
    | with_reducible apply KeptBy.next
    | with_reducible assumption
    | with_reducible apply State.startActivation_kept
    | split
    | with_reducible apply Kept.ite

theorem Power.pinSafe_min (w : Power) (level : Bool) (now : Nat) : (w.pinSafe level now).fuseMin = w.fuseMin := by
  unfold Power.pinSafe
  repeat' split
  all_goals rfl

theorem Power.pinSafe_safe (w : Power) (level : Bool) (now : Nat) : (w.pinSafe level now).safeApplied = w.safeApplied := by
  unfold Power.pinSafe
  repeat' split
  all_goals rfl

theorem execSafeStateNEdge_kept (pv : Bool) (s : State) (level : Bool) :
    KeptBy pv s (execSafeStateNEdge level s) := by
  dsimp only [execSafeStateNEdge]
  have hk := Kept.refl pv s
  repeat' first
    | with_reducible apply KeptBy.next
    | with_reducible assumption
    | split
    | with_reducible apply Kept.ite
    | with_reducible rfl
    | with_reducible exact fun x => x
    | with_reducible exact Nat.le_refl _
    | with_reducible exact List.prefix_rfl
    | with_reducible exact List.prefix_append _ _
    | with_reducible refine fun (hx : tabSorted _) => ?_
    | with_reducible apply tabSorted_map
    | with_reducible apply tabSorted_put
    | with_reducible apply tabSorted_erase
    | with_reducible apply tabSorted_filter
    | with_reducible exact tabSorted_nil
    | (show tabSorted _; assumption)
    | with_reducible exact ledgerOrdered_filter _
    | with_reducible exact fun hx => canon_filterRegs hx _
    | with_reducible exact fun _ _ => rfl
    | ((with_reducible refine fun _ _ => banks_map ?_ _ _) <;> exact fun _ _ => rfl)
    | exact fun _ => rfl
    | exact fun _ _ => rfl
    | exact Nat.le_refl _
    | (rw [Power.pinSafe_min])
    | (rw [Power.pinSafe_safe])
    | exact fun _ => Power.pinSafe_safe _ _ _
    | with_reducible apply Kept.upd

@[simp] theorem Port.applySafe_banks (q : Port) (now : Nat) : (Port.applySafe q now).prot.banks = q.prot.banks := by
  unfold Port.applySafe
  repeat' first
    | rfl
    | simp
    | split

theorem execSafeStateApply_kept (s : State)  :
    KeptBy false s (execSafeStateApply s) := by
  dsimp only [execSafeStateApply]
  have hk := Kept.refl false s
  repeat' first
    | with_reducible apply KeptBy.next
    | with_reducible assumption
    | split
    | exact fun h => Bool.noConfusion h
    | with_reducible apply Kept.ite
    | with_reducible rfl
    | with_reducible exact fun x => x
    | with_reducible exact Nat.le_refl _
    | with_reducible exact List.prefix_rfl
    | with_reducible exact List.prefix_append _ _
    | with_reducible refine fun (hx : tabSorted _) => ?_
    | with_reducible apply tabSorted_map
    | with_reducible apply tabSorted_put
    | with_reducible apply tabSorted_erase
    | with_reducible apply tabSorted_filter
    | with_reducible exact tabSorted_nil
    | (show tabSorted _; assumption)
    | with_reducible exact ledgerOrdered_filter _
    | with_reducible exact fun hx => canon_filterRegs hx _
    | with_reducible exact fun _ _ => rfl
    | ((with_reducible refine fun _ _ => banks_map ?_ _ _) <;> exact fun _ _ => rfl)
    | exact fun _ => rfl
    | exact fun _ _ => rfl
    | exact Nat.le_refl _
    | with_reducible apply Kept.upd

theorem execSafeStateCease_kept (s : State)  :
    KeptBy false s (execSafeStateCease s) := by
  dsimp only [execSafeStateCease]
  have hk := Kept.refl false s
  repeat' first
    | with_reducible apply KeptBy.next
    | with_reducible assumption
    | split
    | exact fun h => Bool.noConfusion h
    | with_reducible apply Kept.ite
    | with_reducible rfl
    | with_reducible exact fun x => x
    | with_reducible exact Nat.le_refl _
    | with_reducible exact List.prefix_rfl
    | with_reducible exact List.prefix_append _ _
    | with_reducible refine fun (hx : tabSorted _) => ?_
    | with_reducible apply tabSorted_map
    | with_reducible apply tabSorted_put
    | with_reducible apply tabSorted_erase
    | with_reducible apply tabSorted_filter
    | with_reducible exact tabSorted_nil
    | (show tabSorted _; assumption)
    | with_reducible exact ledgerOrdered_filter _
    | with_reducible exact fun hx => canon_filterRegs hx _
    | with_reducible exact fun _ _ => rfl
    | ((with_reducible refine fun _ _ => banks_map ?_ _ _) <;> exact fun _ _ => rfl)
    | exact fun _ => rfl
    | exact fun _ _ => rfl
    | exact Nat.le_refl _
    | with_reducible apply Kept.upd

theorem State.latchSafe_kept {pv : Bool} {s0 s : State} (p : Nat) (hk : Kept pv s0 s) :
    Kept pv s0 (State.latchSafe s p) := by
  dsimp only [State.latchSafe]
  repeat' first
    | with_reducible assumption
    | with_reducible apply State.modPort_kept
    | split
    | with_reducible apply Kept.ite
    | with_reducible rfl
    | with_reducible exact fun x => x
    | with_reducible exact Nat.le_refl _
    | with_reducible exact List.prefix_rfl
    | with_reducible exact List.prefix_append _ _
    | with_reducible refine fun (hx : tabSorted _) => ?_
    | with_reducible apply tabSorted_map
    | with_reducible apply tabSorted_put
    | with_reducible apply tabSorted_erase
    | with_reducible apply tabSorted_filter
    | with_reducible exact tabSorted_nil
    | (show tabSorted _; assumption)
    | with_reducible exact ledgerOrdered_filter _
    | with_reducible exact fun hx => canon_filterRegs hx _
    | with_reducible exact fun _ _ => rfl
    | ((with_reducible refine fun _ _ => banks_map ?_ _ _) <;> exact fun _ _ => rfl)
    | exact fun _ => rfl
    | exact fun _ _ => rfl
    | exact Nat.le_refl _
    | exact fun _ _ => rfl
    | (refine fun _ => ?_; first | rfl | (dsimp only; simp; done))
    | (refine fun _ q => ?_; first | (dsimp only; simp; done) | (simp; done) | (dsimp only; split <;> first | rfl | (simp; done)))
    | with_reducible apply Kept.upd

end Sys2Proof.Machine
end

