-- ==== Sys2Proof/Laws/KeptCapture.lean ====
section
/-! SUPPORT. Every operation of Machine/Capture.lean keeps what `Kept` says. -/

set_option linter.unusedTactic false
set_option linter.unreachableTactic false
set_option maxHeartbeats 200000
namespace Sys2Proof.Machine

theorem State.latchCapture_kept {pv : Bool} {s0 s : State} (p frame : Nat) (hk : Kept pv s0 s) :
    Kept pv s0 (State.latchCapture s p frame) := by
  dsimp only [State.latchCapture]
  repeat' first
    | with_reducible assumption
    | with_reducible apply State.setBit_kept
    | with_reducible apply State.modPort_kept
    | with_reducible apply State.raise_kept
    | split
    | with_reducible apply Kept.ite
    | with_reducible rfl
    | with_reducible exact fun x => x
    | with_reducible exact Nat.le_refl _
    | with_reducible exact List.prefix_rfl
    | with_reducible exact List.prefix_append _ _
    | with_reducible refine fun (hx : tabSorted _) => ?_
    | with_reducible apply tabSorted_map
    | with_reducible apply tabSorted_put
    | with_reducible apply tabSorted_erase
    | with_reducible apply tabSorted_filter
    | with_reducible exact tabSorted_nil
    | (show tabSorted _; assumption)
    | with_reducible exact ledgerOrdered_filter _
    | with_reducible exact fun hx => canon_filterRegs hx _
    | with_reducible exact fun _ _ => rfl
    | ((with_reducible refine fun _ _ => banks_map ?_ _ _) <;> exact fun _ _ => rfl)
    | exact fun _ => rfl
    | exact fun _ _ => rfl
    | exact fun _ _ => rfl
    | (refine fun _ => ?_; first | rfl | (dsimp only; simp; done))
    | (refine fun _ q => ?_; first | (dsimp only; simp; done) | (simp; done) | (dsimp only; split <;> first | rfl | (simp; done)))
    | with_reducible apply Kept.upd

theorem State.captureRecord_kept {pv : Bool} {s0 s : State} (p : Nat) (c : Capture) (status dropped : Nat) (hk : Kept pv s0 s) :
    Kept pv s0 (State.captureRecord s p c status dropped) := by
  dsimp only [State.captureRecord]
  repeat' first
    | with_reducible assumption
    | with_reducible apply State.count_kept
    | with_reducible apply State.modPort_kept
    | with_reducible apply State.emit_kept
    | split
    | with_reducible apply Kept.ite
    | with_reducible rfl
    | with_reducible exact fun x => x
    | with_reducible exact Nat.le_refl _
    | with_reducible exact List.prefix_rfl
    | with_reducible exact List.prefix_append _ _
    | with_reducible refine fun (hx : tabSorted _) => ?_
    | with_reducible apply tabSorted_map
    | with_reducible apply tabSorted_put
    | with_reducible apply tabSorted_erase
    | with_reducible apply tabSorted_filter
    | with_reducible exact tabSorted_nil
    | (show tabSorted _; assumption)
    | with_reducible exact ledgerOrdered_filter _
    | with_reducible exact fun hx => canon_filterRegs hx _
    | with_reducible exact fun _ _ => rfl
    | ((with_reducible refine fun _ _ => banks_map ?_ _ _) <;> exact fun _ _ => rfl)
    | exact fun _ => rfl
    | exact fun _ _ => rfl
    | exact fun _ _ => rfl
    | (refine fun _ => ?_; first | rfl | (dsimp only; simp; done))
    | (refine fun _ q => ?_; first | (dsimp only; simp; done) | (simp; done) | (dsimp only; split <;> first | rfl | (simp; done)))
    | with_reducible apply Kept.upd

theorem State.writeCapture_kept {pv : Bool} {s0 s : State} (p : Nat) (c : Capture) (dropped : List Nat) (h : Kept pv s0 s) :
    Kept pv s0 (s.writeCapture p c dropped).2.2 := by
  unfold State.writeCapture
  split
  · split
    · exact h
    · exact State.reportBlocks_kept _ _ _ (State.setObj_kept _ h)
  · exact h

theorem State.endCapture_kept {pv : Bool} {s0 s : State} (p : Nat) (dropped : List Nat) (h : Kept pv s0 s) :
    Kept pv s0 (s.endCapture p dropped) := by
  unfold State.endCapture
  split
  · exact h
  · rename_i c hc
    have hw := State.writeCapture_kept p c dropped
      (State.modPort_kept (s := s) p (fun q => { q with capture := none }) (fun _ _ => rfl) h)
    generalize (s.modPort p fun q => { q with capture := none }).writeCapture p c dropped = r at hw ⊢
    have hb : Kept pv s0 (if r.2.1 = 0 then r.2.2 else r.2.2.setBit (compBase p + 0x24) 2) :=
      Kept.ite hw (State.setBit_kept _ _ hw)
    dsimp only
    exact Kept.ite (State.captureRecord_kept _ _ _ _ hb) (State.modPort_kept _ _ (fun _ _ => rfl) hb)

theorem State.cutCapture_kept {pv : Bool} {s0 s : State} (p : Nat) (hk : Kept pv s0 s) :
    Kept pv s0 (State.cutCapture s p) := by
  dsimp only [State.cutCapture]
  repeat' first
    | with_reducible assumption
    | with_reducible apply State.endCapture_kept
    | split
    | with_reducible apply Kept.ite
    | with_reducible rfl
    | with_reducible exact fun x => x
    | with_reducible exact Nat.le_refl _
    | with_reducible exact List.prefix_rfl
    | with_reducible exact List.prefix_append _ _
    | with_reducible refine fun (hx : tabSorted _) => ?_
    | with_reducible apply tabSorted_map
    | with_reducible apply tabSorted_put
    | with_reducible apply tabSorted_erase
    | with_reducible apply tabSorted_filter
    | with_reducible exact tabSorted_nil
    | (show tabSorted _; assumption)
    | with_reducible exact ledgerOrdered_filter _
    | with_reducible exact fun hx => canon_filterRegs hx _
    | with_reducible exact fun _ _ => rfl
    | ((with_reducible refine fun _ _ => banks_map ?_ _ _) <;> exact fun _ _ => rfl)
    | exact fun _ => rfl
    | exact fun _ _ => rfl
    | with_reducible apply Kept.upd

theorem State.lateRecord_kept {pv : Bool} {s0 s : State} (p : Nat) (hk : Kept pv s0 s) :
    Kept pv s0 (State.lateRecord s p) := by
  dsimp only [State.lateRecord]
  repeat' first
    | with_reducible assumption
    | with_reducible apply State.captureRecord_kept
    | split
    | with_reducible apply Kept.ite
    | with_reducible rfl
    | with_reducible exact fun x => x
    | with_reducible exact Nat.le_refl _
    | with_reducible exact List.prefix_rfl
    | with_reducible exact List.prefix_append _ _
    | with_reducible refine fun (hx : tabSorted _) => ?_
    | with_reducible apply tabSorted_map
    | with_reducible apply tabSorted_put
    | with_reducible apply tabSorted_erase
    | with_reducible apply tabSorted_filter
    | with_reducible exact tabSorted_nil
    | (show tabSorted _; assumption)
    | with_reducible exact ledgerOrdered_filter _
    | with_reducible exact fun hx => canon_filterRegs hx _
    | with_reducible exact fun _ _ => rfl
    | ((with_reducible refine fun _ _ => banks_map ?_ _ _) <;> exact fun _ _ => rfl)
    | exact fun _ => rfl
    | exact fun _ _ => rfl
    | with_reducible apply Kept.upd

theorem execCaptureFrameDone_kept (pv : Bool) (s : State) (p : Fin 4) (dropped : List Nat) :
    KeptBy pv s (execCaptureFrameDone p dropped s) := by
  dsimp only [execCaptureFrameDone]
  have hk := Kept.refl pv s
  repeat' first
    | with_reducible apply KeptBy.next
    | with_reducible assumption
    | with_reducible apply State.endCapture_kept
    | split
    | with_reducible apply Kept.ite

end Sys2Proof.Machine
end

