-- ==== Sys2Proof/Laws/KeptFormation.lean ====
section
/-! SUPPORT. Every operation of Machine/Formation.lean keeps what `Kept` says. -/

set_option linter.unusedTactic false
set_option linter.unreachableTactic false
set_option maxHeartbeats 200000
namespace Sys2Proof.Machine

theorem State.sampleCtrl_kept {pv : Bool} {s0 s : State} (p : Nat) (hk : Kept pv s0 s) :
    Kept pv s0 (State.sampleCtrl s p) := by
  dsimp only [State.sampleCtrl]
  repeat' first
    | with_reducible assumption
    | with_reducible apply State.modLink_kept
    | split
    | with_reducible apply Kept.ite
    | with_reducible rfl
    | with_reducible exact fun x => x
    | with_reducible exact Nat.le_refl _
    | with_reducible exact List.prefix_rfl
    | with_reducible exact List.prefix_append _ _
    | with_reducible refine fun (hx : tabSorted _) => ?_
    | with_reducible apply tabSorted_map
    | with_reducible apply tabSorted_put
    | with_reducible apply tabSorted_erase
    | with_reducible apply tabSorted_filter
    | with_reducible exact tabSorted_nil
    | (show tabSorted _; assumption)
    | with_reducible exact ledgerOrdered_filter _
    | with_reducible exact fun hx => canon_filterRegs hx _
    | with_reducible exact fun _ _ => rfl
    | ((with_reducible refine fun _ _ => banks_map ?_ _ _) <;> exact fun _ _ => rfl)
    | exact fun _ => rfl
    | exact fun _ _ => rfl
    | with_reducible apply Kept.upd

theorem State.sendPacket_kept {pv : Bool} {s0 s : State} (p : Nat) (h : PktHead) (payload : List W12) (slot : Nat) (hk : Kept pv s0 s) :
    Kept pv s0 (State.sendPacket s p h payload slot) := by
  dsimp only [State.sendPacket]
  repeat' first
    | with_reducible assumption
    | with_reducible apply State.transmit_kept
    | split
    | with_reducible apply Kept.ite

theorem State.sendHold_kept {pv : Bool} {s0 s : State} (p phase line slot : Nat) (hk : Kept pv s0 s) :
    Kept pv s0 (State.sendHold s p phase line slot) := by
  dsimp only [State.sendHold]
  repeat' first
    | with_reducible assumption
    | with_reducible apply State.sendPacket_kept
    | split
    | with_reducible apply Kept.ite

theorem State.sendIdle_kept {pv : Bool} {s0 s : State} (p phase line slot : Nat) (hk : Kept pv s0 s) :
    Kept pv s0 (State.sendIdle s p phase line slot) := by
  dsimp only [State.sendIdle]
  repeat' first
    | with_reducible assumption
    | with_reducible apply State.sendPacket_kept
    | split
    | with_reducible apply Kept.ite

theorem State.idleAfterMarker_kept {pv : Bool} {s0 s : State} (p tick : Nat) (hk : Kept pv s0 s) :
    Kept pv s0 (State.idleAfterMarker s p tick) := by
  dsimp only [State.idleAfterMarker]
  repeat' first
    | with_reducible assumption
    | with_reducible apply State.transmit_kept
    | split
    | with_reducible apply Kept.ite

theorem State.sendMode_kept {pv : Bool} {s0 s : State} (p kind gang : Nat) (m : Mode) (id : Nat) (place : Nat × Nat) (slot : Nat) (hk : Kept pv s0 s) :
    Kept pv s0 (State.sendMode s p kind gang m id place slot) := by
  dsimp only [State.sendMode]
  repeat' first
    | with_reducible assumption
    | with_reducible apply State.transmit_kept
    | split
    | with_reducible apply Kept.ite

theorem State.sendModeFree_kept {pv : Bool} {s0 s : State} (p kind gang : Nat) (m : Mode) (id : Nat) (hk : Kept pv s0 s) :
    Kept pv s0 (State.sendModeFree s p kind gang m id) := by
  dsimp only [State.sendModeFree]
  repeat' first
    | with_reducible assumption
    | with_reducible apply State.sendFree_kept
    | split
    | with_reducible apply Kept.ite

theorem State.takeModeId_kept {pv : Bool} {s0 s : State} (p : Nat) (h : Kept pv s0 s) : Kept pv s0 (s.takeModeId p).2 :=
  State.modLink_kept p (fun l => { l with modeCount := ((s.port p).link.modeCount + 1) % 4096 }) h

theorem State.announce_kept {pv : Bool} {s0 s : State} (p : Nat) (use : ModeUse) (hk : Kept pv s0 s) :
    Kept pv s0 (State.announce s p use) := by
  dsimp only [State.announce]
  repeat' first
    | with_reducible assumption
    | with_reducible apply State.modPort_kept
    | with_reducible apply State.sendModeFree_kept
    | exact Kept.ofEq ‹_› (by apply State.takeModeId_kept; assumption)
    | with_reducible apply State.takeModeId_kept
    | split
    | with_reducible apply Kept.ite
    | with_reducible rfl
    | with_reducible exact fun x => x
    | with_reducible exact Nat.le_refl _
    | with_reducible exact List.prefix_rfl
    | with_reducible exact List.prefix_append _ _
    | with_reducible refine fun (hx : tabSorted _) => ?_
    | with_reducible apply tabSorted_map
    | with_reducible apply tabSorted_put
    | with_reducible apply tabSorted_erase
    | with_reducible apply tabSorted_filter
    | with_reducible exact tabSorted_nil
    | (show tabSorted _; assumption)
    | with_reducible exact ledgerOrdered_filter _
    | with_reducible exact fun hx => canon_filterRegs hx _
    | with_reducible exact fun _ _ => rfl
    | ((with_reducible refine fun _ _ => banks_map ?_ _ _) <;> exact fun _ _ => rfl)
    | exact fun _ => rfl
    | exact fun _ _ => rfl
    | exact fun _ _ => rfl
    | (refine fun _ => ?_; first | rfl | (dsimp only; simp; done))
    | (refine fun _ q => ?_; first | (dsimp only; simp; done) | (simp; done) | (dsimp only; split <;> first | rfl | (simp; done)))
    | with_reducible apply Kept.upd

theorem State.announceReform_kept {pv : Bool} {s0 s : State} (p : Nat) (place : Nat × Nat) (slot : Nat) (hk : Kept pv s0 s) :
    Kept pv s0 (State.announceReform s p place slot) := by
  dsimp only [State.announceReform]
  repeat' first
    | with_reducible assumption
    | with_reducible apply State.modLink_kept
    | with_reducible apply State.sendMode_kept
    | exact Kept.ofEq ‹_› (by apply State.takeModeId_kept; assumption)
    | with_reducible apply State.takeModeId_kept
    | split
    | with_reducible apply Kept.ite
    | with_reducible rfl
    | with_reducible exact fun x => x
    | with_reducible exact Nat.le_refl _
    | with_reducible exact List.prefix_rfl
    | with_reducible exact List.prefix_append _ _
    | with_reducible refine fun (hx : tabSorted _) => ?_
    | with_reducible apply tabSorted_map
    | with_reducible apply tabSorted_put
    | with_reducible apply tabSorted_erase
    | with_reducible apply tabSorted_filter
    | with_reducible exact tabSorted_nil
    | (show tabSorted _; assumption)
    | with_reducible exact ledgerOrdered_filter _
    | with_reducible exact fun hx => canon_filterRegs hx _
    | with_reducible exact fun _ _ => rfl
    | ((with_reducible refine fun _ _ => banks_map ?_ _ _) <;> exact fun _ _ => rfl)
    | exact fun _ => rfl
    | exact fun _ _ => rfl
    | with_reducible apply Kept.upd

theorem State.enterPower_kept {pv : Bool} {s0 s : State} (p : Nat) (target : LanePower) (hk : Kept pv s0 s) :
    Kept pv s0 (State.enterPower s p target) := by
  dsimp only [State.enterPower]
  repeat' first
    | with_reducible assumption
    | with_reducible apply State.modLink_kept
    | with_reducible apply State.transmit_kept
    | with_reducible apply State.later_kept
    | with_reducible apply State.powerSeptets_kept
    | with_reducible apply State.sampleCtrl_kept
    | split
    | with_reducible apply Kept.ite
    | with_reducible rfl
    | with_reducible exact fun x => x
    | with_reducible exact Nat.le_refl _
    | with_reducible exact List.prefix_rfl
    | with_reducible exact List.prefix_append _ _
    | with_reducible refine fun (hx : tabSorted _) => ?_
    | with_reducible apply tabSorted_map
    | with_reducible apply tabSorted_put
    | with_reducible apply tabSorted_erase
    | with_reducible apply tabSorted_filter
    | with_reducible exact tabSorted_nil
    | (show tabSorted _; assumption)
    | with_reducible exact ledgerOrdered_filter _
    | with_reducible exact fun hx => canon_filterRegs hx _
    | with_reducible exact fun _ _ => rfl
    | ((with_reducible refine fun _ _ => banks_map ?_ _ _) <;> exact fun _ _ => rfl)
    | exact fun _ => rfl
    | exact fun _ _ => rfl
    | exact Nat.le_refl _
    | with_reducible apply Kept.upd

theorem State.sendMarker_kept {pv : Bool} {s0 s : State} (p : Nat) (hk : Kept pv s0 s) :
    Kept pv s0 (State.sendMarker s p) := by
  dsimp only [State.sendMarker]
  repeat' first
    | with_reducible assumption
    | with_reducible apply State.modLink_kept
    | with_reducible apply State.transmit_kept
    | split
    | with_reducible apply Kept.ite
    | with_reducible rfl
    | with_reducible exact fun x => x
    | with_reducible exact Nat.le_refl _
    | with_reducible exact List.prefix_rfl
    | with_reducible exact List.prefix_append _ _
    | with_reducible refine fun (hx : tabSorted _) => ?_
    | with_reducible apply tabSorted_map
    | with_reducible apply tabSorted_put
    | with_reducible apply tabSorted_erase
    | with_reducible apply tabSorted_filter
    | with_reducible exact tabSorted_nil
    | (show tabSorted _; assumption)
    | with_reducible exact ledgerOrdered_filter _
    | with_reducible exact fun hx => canon_filterRegs hx _
    | with_reducible exact fun _ _ => rfl
    | ((with_reducible refine fun _ _ => banks_map ?_ _ _) <;> exact fun _ _ => rfl)
    | exact fun _ => rfl
    | exact fun _ _ => rfl
    | with_reducible apply Kept.upd

theorem State.startPositions_kept {pv : Bool} {s0 s : State} (p : Nat) (hk : Kept pv s0 s) :
    Kept pv s0 (State.startPositions s p) := by
  dsimp only [State.startPositions]
  repeat' first
    | with_reducible assumption
    | with_reducible apply State.modLink_kept
    | with_reducible apply State.later_kept
    | with_reducible apply State.idleAfterMarker_kept
    | with_reducible apply State.sendMarker_kept
    | split
    | with_reducible apply Kept.ite
    | with_reducible rfl
    | with_reducible exact fun x => x
    | with_reducible exact Nat.le_refl _
    | with_reducible exact List.prefix_rfl
    | with_reducible exact List.prefix_append _ _
    | with_reducible refine fun (hx : tabSorted _) => ?_
    | with_reducible apply tabSorted_map
    | with_reducible apply tabSorted_put
    | with_reducible apply tabSorted_erase
    | with_reducible apply tabSorted_filter
    | with_reducible exact tabSorted_nil
    | (show tabSorted _; assumption)
    | with_reducible exact ledgerOrdered_filter _
    | with_reducible exact fun hx => canon_filterRegs hx _
    | with_reducible exact fun _ _ => rfl
    | ((with_reducible refine fun _ _ => banks_map ?_ _ _) <;> exact fun _ _ => rfl)
    | exact fun _ => rfl
    | exact fun _ _ => rfl
    | with_reducible apply Kept.upd

theorem State.presetFfe_kept {pv : Bool} {s0 s : State} (p : Nat) (hk : Kept pv s0 s) :
    Kept pv s0 (State.presetFfe s p) := by
  dsimp only [State.presetFfe]
  repeat' first
    | with_reducible assumption
    | with_reducible apply State.setField_kept
    | with_reducible apply Kept.forN
    | split
    | with_reducible apply Kept.ite
    | (intro _ _ _)
    | (intro _ _)
    | dsimp only
    | dsimp only [id]

theorem State.trainBlocks_kept {pv : Bool} {s0 s : State} (p : Nat) (hk : Kept pv s0 s) :
    Kept pv s0 (State.trainBlocks s p) := by
  dsimp only [State.trainBlocks]
  repeat' first
    | with_reducible assumption
    | with_reducible apply State.transmit_kept
    | with_reducible apply Kept.foldl
    | with_reducible apply Kept.foldlPair
    | split
    | with_reducible apply Kept.ite
    | (intro _ _ _)
    | (intro _ _)
    | dsimp only
    | dsimp only [id]

theorem State.trainLanes_kept {pv : Bool} {s0 s : State} (p : Nat) (hk : Kept pv s0 s) :
    Kept pv s0 (State.trainLanes s p) := by
  dsimp only [State.trainLanes]
  repeat' first
    | with_reducible assumption
    | with_reducible apply State.modLink_kept
    | with_reducible apply State.later_kept
    | with_reducible apply State.presetFfe_kept
    | with_reducible apply State.trainBlocks_kept
    | split
    | with_reducible apply Kept.ite
    | with_reducible rfl
    | with_reducible exact fun x => x
    | with_reducible exact Nat.le_refl _
    | with_reducible exact List.prefix_rfl
    | with_reducible exact List.prefix_append _ _
    | with_reducible refine fun (hx : tabSorted _) => ?_
    | with_reducible apply tabSorted_map
    | with_reducible apply tabSorted_put
    | with_reducible apply tabSorted_erase
    | with_reducible apply tabSorted_filter
    | with_reducible exact tabSorted_nil
    | (show tabSorted _; assumption)
    | with_reducible exact ledgerOrdered_filter _
    | with_reducible exact fun hx => canon_filterRegs hx _
    | with_reducible exact fun _ _ => rfl
    | ((with_reducible refine fun _ _ => banks_map ?_ _ _) <;> exact fun _ _ => rfl)
    | exact fun _ => rfl
    | exact fun _ _ => rfl
    | with_reducible apply Kept.upd

theorem State.trainAt_kept {pv : Bool} {s0 s : State} (p rate : Nat) (hk : Kept pv s0 s) :
    Kept pv s0 (State.trainAt s p rate) := by
  dsimp only [State.trainAt]
  repeat' first
    | with_reducible assumption
    | with_reducible apply State.modLink_kept
    | with_reducible apply State.trainLanes_kept
    | split
    | with_reducible apply Kept.ite
    | with_reducible rfl
    | with_reducible exact fun x => x
    | with_reducible exact Nat.le_refl _
    | with_reducible exact List.prefix_rfl
    | with_reducible exact List.prefix_append _ _
    | with_reducible refine fun (hx : tabSorted _) => ?_
    | with_reducible apply tabSorted_map
    | with_reducible apply tabSorted_put
    | with_reducible apply tabSorted_erase
    | with_reducible apply tabSorted_filter
    | with_reducible exact tabSorted_nil
    | (show tabSorted _; assumption)
    | with_reducible exact ledgerOrdered_filter _
    | with_reducible exact fun hx => canon_filterRegs hx _
    | with_reducible exact fun _ _ => rfl
    | ((with_reducible refine fun _ _ => banks_map ?_ _ _) <;> exact fun _ _ => rfl)
    | exact fun _ => rfl
    | exact fun _ _ => rfl
    | exact Nat.le_refl _
    | with_reducible apply Kept.upd

theorem State.startTraining_kept {pv : Bool} {s0 s : State} (p : Nat) (hk : Kept pv s0 s) :
    Kept pv s0 (State.startTraining s p) := by
  dsimp only [State.startTraining]
  repeat' first
    | with_reducible assumption
    | with_reducible apply State.sampleCtrl_kept
    | with_reducible apply State.trainAt_kept
    | split
    | with_reducible apply Kept.ite

theorem State.beginAttempt_kept {pv : Bool} {s0 s : State} (p lane attempt : Nat) (hk : Kept pv s0 s) :
    Kept pv s0 (State.beginAttempt s p lane attempt) := by
  dsimp only [State.beginAttempt]
  repeat' first
    | with_reducible assumption
    | with_reducible apply State.modLink_kept
    | with_reducible apply State.transmit_kept
    | split
    | with_reducible apply Kept.ite
    | with_reducible rfl
    | with_reducible exact fun x => x
    | with_reducible exact Nat.le_refl _
    | with_reducible exact List.prefix_rfl
    | with_reducible exact List.prefix_append _ _
    | with_reducible refine fun (hx : tabSorted _) => ?_
    | with_reducible apply tabSorted_map
    | with_reducible apply tabSorted_put
    | with_reducible apply tabSorted_erase
    | with_reducible apply tabSorted_filter
    | with_reducible exact tabSorted_nil
    | (show tabSorted _; assumption)
    | with_reducible exact ledgerOrdered_filter _
    | with_reducible exact fun hx => canon_filterRegs hx _
    | with_reducible exact fun _ _ => rfl
    | ((with_reducible refine fun _ _ => banks_map ?_ _ _) <;> exact fun _ _ => rfl)
    | exact fun _ => rfl
    | exact fun _ _ => rfl
    | with_reducible apply Kept.upd

theorem State.retrainLost_kept {pv : Bool} {s0 s : State} (p : Nat) (hk : Kept pv s0 s) :
    Kept pv s0 (State.retrainLost s p) := by
  dsimp only [State.retrainLost]
  repeat' first
    | with_reducible assumption
    | with_reducible apply State.modLink_kept
    | with_reducible apply State.beginAttempt_kept
    | with_reducible apply Kept.foldl
    | with_reducible apply Kept.foldlPair
    | split
    | with_reducible apply Kept.ite
    | with_reducible rfl
    | with_reducible exact fun x => x
    | with_reducible exact Nat.le_refl _
    | with_reducible exact List.prefix_rfl
    | with_reducible exact List.prefix_append _ _
    | with_reducible refine fun (hx : tabSorted _) => ?_
    | with_reducible apply tabSorted_map
    | with_reducible apply tabSorted_put
    | with_reducible apply tabSorted_erase
    | with_reducible apply tabSorted_filter
    | with_reducible exact tabSorted_nil
    | (show tabSorted _; assumption)
    | with_reducible exact ledgerOrdered_filter _
    | with_reducible exact fun hx => canon_filterRegs hx _
    | with_reducible exact fun _ _ => rfl
    | ((with_reducible refine fun _ _ => banks_map ?_ _ _) <;> exact fun _ _ => rfl)
    | exact fun _ => rfl
    | exact fun _ _ => rfl
    | (intro _ _ _)
    | (intro _ _)
    | dsimp only
    | dsimp only [id]
    | with_reducible apply Kept.upd

theorem State.wake_kept {pv : Bool} {s0 s : State} (p : Nat) (hk : Kept pv s0 s) :
    Kept pv s0 (State.wake s p) := by
  dsimp only [State.wake]
  repeat' first
    | with_reducible assumption
    | with_reducible apply State.modLink_kept
    | with_reducible apply State.trainBlocks_kept
    | split
    | with_reducible apply Kept.ite
    | with_reducible rfl
    | with_reducible exact fun x => x
    | with_reducible exact Nat.le_refl _
    | with_reducible exact List.prefix_rfl
    | with_reducible exact List.prefix_append _ _
    | with_reducible refine fun (hx : tabSorted _) => ?_
    | with_reducible apply tabSorted_map
    | with_reducible apply tabSorted_put
    | with_reducible apply tabSorted_erase
    | with_reducible apply tabSorted_filter
    | with_reducible exact tabSorted_nil
    | (show tabSorted _; assumption)
    | with_reducible exact ledgerOrdered_filter _
    | with_reducible exact fun hx => canon_filterRegs hx _
    | with_reducible exact fun _ _ => rfl
    | ((with_reducible refine fun _ _ => banks_map ?_ _ _) <;> exact fun _ _ => rfl)
    | exact fun _ => rfl
    | exact fun _ _ => rfl
    | exact Nat.le_refl _
    | with_reducible apply Kept.upd

end Sys2Proof.Machine
end

