-- ==== Sys2Proof/Laws/KeptLatch.lean ====
section
/-! SUPPORT. Every operation of Machine/Latch.lean keeps what `Kept` says. -/

set_option linter.unusedTactic false
set_option linter.unreachableTactic false
set_option maxHeartbeats 200000
namespace Sys2Proof.Machine

theorem State.applyMode_kept {pv : Bool} {s0 s : State} (p frame id : Nat) (d : Desc) (hk : Kept pv s0 s) :
    Kept pv s0 (State.applyMode s p frame id d) := by
  dsimp only [State.applyMode]
  repeat' first
    | with_reducible assumption
    | with_reducible apply State.modPort_kept
    | with_reducible apply State.modLink_kept
    | with_reducible apply State.later_kept
    | with_reducible apply State.applyRecord_kept
    | with_reducible apply State.startTraining_kept
    | with_reducible apply State.wake_kept
    | with_reducible apply Kept.foldl
    | with_reducible apply Kept.foldlPair
    | split
    | with_reducible apply Kept.ite
    | with_reducible rfl
    | with_reducible exact fun x => x
    | with_reducible exact Nat.le_refl _
    | with_reducible exact List.prefix_rfl
    | with_reducible exact List.prefix_append _ _
    | with_reducible refine fun (hx : tabSorted _) => ?_
    | with_reducible apply tabSorted_map
    | with_reducible apply tabSorted_put
    | with_reducible apply tabSorted_erase
    | with_reducible apply tabSorted_filter
    | with_reducible exact tabSorted_nil
    | (show tabSorted _; assumption)
    | with_reducible exact ledgerOrdered_filter _
    | with_reducible exact fun hx => canon_filterRegs hx _
    | with_reducible exact fun _ _ => rfl
    | ((with_reducible refine fun _ _ => banks_map ?_ _ _) <;> exact fun _ _ => rfl)
    | exact fun _ => rfl
    | exact fun _ _ => rfl
    | exact Nat.le_refl _
    | exact fun _ _ => rfl
    | (refine fun _ => ?_; first | rfl | (dsimp only; simp; done))
    | (refine fun _ q => ?_; first | (dsimp only; simp; done) | (simp; done) | (dsimp only; split <;> first | rfl | (simp; done)))
    | (intro _ _ _)
    | (intro _ _)
    | dsimp only
    | dsimp only [id]
    | with_reducible apply Kept.upd

theorem State.takeModes_kept {pv : Bool} {s0 : State} (p frame : Nat) (ids : List Nat) {s : State} (h : Kept pv s0 s) :
    Kept pv s0 (State.takeModes p frame ids s) := by
  induction ids generalizing s with
  | nil => exact h
  | cons id ids ih =>
    unfold State.takeModes
    split
    · exact ih h
    · split
      · exact ih (State.finish_kept _ _ _ _ h)
      · exact State.applyMode_kept _ _ _ _ (Kept.foldl (fun t x ht => State.later_kept _ _ _ _ _ _ ht) _ h)

theorem State.sampleModes_kept {pv : Bool} {s0 s : State} (p frame latch : Nat) (hk : Kept pv s0 s) :
    Kept pv s0 (State.sampleModes s p frame latch) := by
  dsimp only [State.sampleModes]
  repeat' first
    | with_reducible assumption
    | with_reducible apply State.modPort_kept
    | with_reducible apply State.takeModes_kept
    | split
    | with_reducible apply Kept.ite
    | with_reducible rfl
    | with_reducible exact fun x => x
    | with_reducible exact Nat.le_refl _
    | with_reducible exact List.prefix_rfl
    | with_reducible exact List.prefix_append _ _
    | with_reducible refine fun (hx : tabSorted _) => ?_
    | with_reducible apply tabSorted_map
    | with_reducible apply tabSorted_put
    | with_reducible apply tabSorted_erase
    | with_reducible apply tabSorted_filter
    | with_reducible exact tabSorted_nil
    | (show tabSorted _; assumption)
    | with_reducible exact ledgerOrdered_filter _
    | with_reducible exact fun hx => canon_filterRegs hx _
    | with_reducible exact fun _ _ => rfl
    | ((with_reducible refine fun _ _ => banks_map ?_ _ _) <;> exact fun _ _ => rfl)
    | exact fun _ => rfl
    | exact fun _ _ => rfl
    | exact fun _ _ => rfl
    | (refine fun _ => ?_; first | rfl | (dsimp only; simp; done))
    | (refine fun _ q => ?_; first | (dsimp only; simp; done) | (simp; done) | (dsimp only; split <;> first | rfl | (simp; done)))
    | with_reducible apply Kept.upd

theorem State.latchMeasure_kept {pv : Bool} {s0 s : State} (p frame latch : Nat) (hk : Kept pv s0 s) :
    Kept pv s0 (State.latchMeasure s p frame latch) := by
  dsimp only [State.latchMeasure]
  repeat' first
    | with_reducible assumption
    | with_reducible apply State.modPort_kept
    | with_reducible apply State.modEntry_kept
    | with_reducible apply State.begun_kept
    | split
    | with_reducible apply Kept.ite
    | with_reducible rfl
    | with_reducible exact fun x => x
    | with_reducible exact Nat.le_refl _
    | with_reducible exact List.prefix_rfl
    | with_reducible exact List.prefix_append _ _
    | with_reducible refine fun (hx : tabSorted _) => ?_
    | with_reducible apply tabSorted_map
    | with_reducible apply tabSorted_put
    | with_reducible apply tabSorted_erase
    | with_reducible apply tabSorted_filter
    | with_reducible exact tabSorted_nil
    | (show tabSorted _; assumption)
    | with_reducible exact ledgerOrdered_filter _
    | with_reducible exact fun hx => canon_filterRegs hx _
    | with_reducible exact fun _ _ => rfl
    | ((with_reducible refine fun _ _ => banks_map ?_ _ _) <;> exact fun _ _ => rfl)
    | exact fun _ => rfl
    | exact fun _ _ => rfl
    | exact Nat.le_refl _
    | exact fun _ _ => rfl
    | (refine fun _ => ?_; first | rfl | (dsimp only; simp; done))
    | (refine fun _ q => ?_; first | (dsimp only; simp; done) | (simp; done) | (dsimp only; split <;> first | rfl | (simp; done)))
    | exact fun _ => rfl
    | with_reducible apply Kept.upd

theorem State.fixSubframe_kept {pv : Bool} {s0 s : State} (p frame k tick mid : Nat) (hk : Kept pv s0 s) :
    Kept pv s0 (State.fixSubframe s p frame k tick mid) := by
  dsimp only [State.fixSubframe]
  repeat' first
    | with_reducible assumption
    | with_reducible apply State.modPort_kept
    | with_reducible apply State.takeEyes_kept
    | exact Kept.ofEq ‹_› (by apply State.fixEyes_kept; assumption)
    | with_reducible apply State.fixEyes_kept
    | with_reducible apply Kept.foldl
    | with_reducible apply Kept.foldlPair
    | split
    | with_reducible apply Kept.ite
    | with_reducible rfl
    | with_reducible exact fun x => x
    | with_reducible exact Nat.le_refl _
    | with_reducible exact List.prefix_rfl
    | with_reducible exact List.prefix_append _ _
    | with_reducible refine fun (hx : tabSorted _) => ?_
    | with_reducible apply tabSorted_map
    | with_reducible apply tabSorted_put
    | with_reducible apply tabSorted_erase
    | with_reducible apply tabSorted_filter
    | with_reducible exact tabSorted_nil
    | (show tabSorted _; assumption)
    | with_reducible exact ledgerOrdered_filter _
    | with_reducible exact fun hx => canon_filterRegs hx _
    | with_reducible exact fun _ _ => rfl
    | ((with_reducible refine fun _ _ => banks_map ?_ _ _) <;> exact fun _ _ => rfl)
    | exact fun _ => rfl
    | exact fun _ _ => rfl
    | exact fun _ _ => rfl
    | (refine fun _ => ?_; first | rfl | (dsimp only; simp; done))
    | (refine fun _ q => ?_; first | (dsimp only; simp; done) | (simp; done) | (dsimp only; split <;> first | rfl | (simp; done)))
    | (intro _ _ _)
    | (intro _ _)
    | dsimp only
    | dsimp only [id]
    | with_reducible apply Kept.upd

theorem State.releaseRows_kept {pv : Bool} {s0 s : State} (p : Nat) (ps : List Nat) (f : FrameState) (k r tick deadline : Nat) (hk : Kept pv s0 s) :
    Kept pv s0 (State.releaseRows s p ps f k r tick deadline) := by
  dsimp only [State.releaseRows]
  repeat' first
    | with_reducible assumption
    | with_reducible apply State.releaseRow_kept
    | with_reducible apply Kept.foldl
    | with_reducible apply Kept.foldlPair
    | split
    | with_reducible apply Kept.ite
    | (intro _ _ _)
    | (intro _ _)
    | dsimp only
    | dsimp only [id]

theorem State.releaseEarly_kept {pv : Bool} {s0 s : State} (p : Nat) (ps : List Nat) (f : FrameState) (latch start : Nat) (hk : Kept pv s0 s) :
    Kept pv s0 (State.releaseEarly s p ps f latch start) := by
  dsimp only [State.releaseEarly]
  repeat' first
    | with_reducible assumption
    | with_reducible apply State.start_kept
    | with_reducible apply State.releaseRows_kept
    | with_reducible apply Kept.foldl
    | with_reducible apply Kept.foldlPair
    | split
    | with_reducible apply Kept.ite
    | (intro _ _ _)
    | (intro _ _)
    | dsimp only
    | dsimp only [id]

theorem State.fixFrame_kept {pv : Bool} {s0 s : State} (p frame g : Nat) (m : Mode) (hk : Kept pv s0 s) :
    Kept pv s0 (State.fixFrame s p frame g m) := by
  dsimp only [State.fixFrame]
  repeat' first
    | with_reducible assumption
    | with_reducible apply State.setReg_kept
    | with_reducible apply State.setField_kept
    | with_reducible apply State.modPort_kept
    | split
    | with_reducible apply Kept.ite
    | with_reducible rfl
    | with_reducible exact fun x => x
    | with_reducible exact Nat.le_refl _
    | with_reducible exact List.prefix_rfl
    | with_reducible exact List.prefix_append _ _
    | with_reducible refine fun (hx : tabSorted _) => ?_
    | with_reducible apply tabSorted_map
    | with_reducible apply tabSorted_put
    | with_reducible apply tabSorted_erase
    | with_reducible apply tabSorted_filter
    | with_reducible exact tabSorted_nil
    | (show tabSorted _; assumption)
    | with_reducible exact ledgerOrdered_filter _
    | with_reducible exact fun hx => canon_filterRegs hx _
    | with_reducible exact fun _ _ => rfl
    | ((with_reducible refine fun _ _ => banks_map ?_ _ _) <;> exact fun _ _ => rfl)
    | exact fun _ => rfl
    | exact fun _ _ => rfl
    | exact fun _ _ => rfl
    | (refine fun _ => ?_; first | rfl | (dsimp only; simp; done))
    | (refine fun _ q => ?_; first | (dsimp only; simp; done) | (simp; done) | (dsimp only; split <;> first | rfl | (simp; done)))
    | with_reducible apply Kept.upd

theorem State.latchFrame_kept {pv : Bool} {s0 s : State} (p frame latch start g : Nat) (m : Mode) (fresh changed : Bool) (hk : Kept pv s0 s) :
    Kept pv s0 (State.latchFrame s p frame latch start g m fresh changed) := by
  dsimp only [State.latchFrame]
  repeat' first
    | with_reducible assumption
    | with_reducible apply State.setWreg_kept
    | with_reducible apply State.modPort_kept
    | with_reducible apply State.start_kept
    | with_reducible apply State.run_kept
    | with_reducible apply State.takeCommits_kept
    | with_reducible apply State.latchRay_kept
    | with_reducible apply State.latchWrites_kept
    | with_reducible apply State.latchRegions_kept
    | with_reducible apply State.latchSafe_kept
    | with_reducible apply State.latchCapture_kept
    | with_reducible apply State.latchMeasure_kept
    | with_reducible apply State.fixSubframe_kept
    | with_reducible apply State.releaseRows_kept
    | with_reducible apply State.releaseEarly_kept
    | with_reducible apply State.fixFrame_kept
    | with_reducible apply Kept.foldl
    | with_reducible apply Kept.foldlPair
    | split
    | with_reducible apply Kept.ite
    | with_reducible rfl
    | with_reducible exact fun x => x
    | with_reducible exact Nat.le_refl _
    | with_reducible exact List.prefix_rfl
    | with_reducible exact List.prefix_append _ _
    | with_reducible refine fun (hx : tabSorted _) => ?_
    | with_reducible apply tabSorted_map
    | with_reducible apply tabSorted_put
    | with_reducible apply tabSorted_erase
    | with_reducible apply tabSorted_filter
    | with_reducible exact tabSorted_nil
    | (show tabSorted _; assumption)
    | with_reducible exact ledgerOrdered_filter _
    | with_reducible exact fun hx => canon_filterRegs hx _
    | with_reducible exact fun _ _ => rfl
    | ((with_reducible refine fun _ _ => banks_map ?_ _ _) <;> exact fun _ _ => rfl)
    | exact fun _ => rfl
    | exact fun _ _ => rfl
    | exact fun _ _ => rfl
    | (refine fun _ => ?_; first | rfl | (dsimp only; simp; done))
    | (refine fun _ q => ?_; first | (dsimp only; simp; done) | (simp; done) | (dsimp only; split <;> first | rfl | (simp; done)))
    | (intro _ _ _)
    | (intro _ _)
    | dsimp only
    | dsimp only [id]
    | with_reducible apply Kept.upd

theorem State.dropApplied_kept {pv : Bool} {s0 s : State} (p frame : Nat) (hk : Kept pv s0 s) :
    Kept pv s0 (State.dropApplied s p frame) := by
  dsimp only [State.dropApplied]
  repeat' first
    | with_reducible assumption
    | split
    | with_reducible apply Kept.ite
    | with_reducible rfl
    | with_reducible exact fun x => x
    | with_reducible exact Nat.le_refl _
    | with_reducible exact List.prefix_rfl
    | with_reducible exact List.prefix_append _ _
    | with_reducible refine fun (hx : tabSorted _) => ?_
    | with_reducible apply tabSorted_map
    | with_reducible apply tabSorted_put
    | with_reducible apply tabSorted_erase
    | with_reducible apply tabSorted_filter
    | with_reducible exact tabSorted_nil
    | (show tabSorted _; assumption)
    | with_reducible exact ledgerOrdered_filter _
    | with_reducible exact fun hx => canon_filterRegs hx _
    | with_reducible exact fun _ _ => rfl
    | ((with_reducible refine fun _ _ => banks_map ?_ _ _) <;> exact fun _ _ => rfl)
    | exact fun _ => rfl
    | exact fun _ _ => rfl
    | with_reducible apply Kept.upd

theorem State.latchMember_kept {pv : Bool} {s0 s : State} (m n latch start : Nat) (hk : Kept pv s0 s) :
    Kept pv s0 (State.latchMember s m n latch start) := by
  dsimp only [State.latchMember]
  repeat' first
    | with_reducible assumption
    | with_reducible apply State.modPort_kept
    | with_reducible apply State.start_kept
    | with_reducible apply State.sampleModes_kept
    | with_reducible apply State.latchFrame_kept
    | split
    | with_reducible apply Kept.ite
    | with_reducible rfl
    | with_reducible exact fun x => x
    | with_reducible exact Nat.le_refl _
    | with_reducible exact List.prefix_rfl
    | with_reducible exact List.prefix_append _ _
    | with_reducible refine fun (hx : tabSorted _) => ?_
    | with_reducible apply tabSorted_map
    | with_reducible apply tabSorted_put
    | with_reducible apply tabSorted_erase
    | with_reducible apply tabSorted_filter
    | with_reducible exact tabSorted_nil
    | (show tabSorted _; assumption)
    | with_reducible exact ledgerOrdered_filter _
    | with_reducible exact fun hx => canon_filterRegs hx _
    | with_reducible exact fun _ _ => rfl
    | ((with_reducible refine fun _ _ => banks_map ?_ _ _) <;> exact fun _ _ => rfl)
    | exact fun _ => rfl
    | exact fun _ _ => rfl
    | exact fun _ _ => rfl
    | (refine fun _ => ?_; first | rfl | (dsimp only; simp; done))
    | (refine fun _ q => ?_; first | (dsimp only; simp; done) | (simp; done) | (dsimp only; split <;> first | rfl | (simp; done)))
    | with_reducible apply Kept.upd

theorem State.latch_kept {pv : Bool} {s0 s : State} (p latch start : Nat) (hk : Kept pv s0 s) :
    Kept pv s0 (State.latch s p latch start) := by
  dsimp only [State.latch]
  repeat' first
    | with_reducible assumption
    | with_reducible apply State.modPort_kept
    | with_reducible apply State.start_kept
    | with_reducible apply State.failCommits_kept
    | with_reducible apply State.later_kept
    | with_reducible apply State.applyRecord_kept
    | with_reducible apply State.closeWitness_kept
    | with_reducible apply State.latchProt_kept
    | with_reducible apply State.latchSafe_kept
    | with_reducible apply State.cutCapture_kept
    | with_reducible apply State.sampleModes_kept
    | with_reducible apply State.latchFrame_kept
    | with_reducible apply State.dropApplied_kept
    | with_reducible apply State.latchMember_kept
    | with_reducible apply Kept.foldl
    | with_reducible apply Kept.foldlPair
    | split
    | with_reducible apply Kept.ite
    | with_reducible rfl
    | with_reducible exact fun x => x
    | with_reducible exact Nat.le_refl _
    | with_reducible exact List.prefix_rfl
    | with_reducible exact List.prefix_append _ _
    | with_reducible refine fun (hx : tabSorted _) => ?_
    | with_reducible apply tabSorted_map
    | with_reducible apply tabSorted_put
    | with_reducible apply tabSorted_erase
    | with_reducible apply tabSorted_filter
    | with_reducible exact tabSorted_nil
    | (show tabSorted _; assumption)
    | with_reducible exact ledgerOrdered_filter _
    | with_reducible exact fun hx => canon_filterRegs hx _
    | with_reducible exact fun _ _ => rfl
    | ((with_reducible refine fun _ _ => banks_map ?_ _ _) <;> exact fun _ _ => rfl)
    | exact fun _ => rfl
    | exact fun _ _ => rfl
    | exact fun _ _ => rfl
    | (refine fun _ => ?_; first | rfl | (dsimp only; simp; done))
    | (refine fun _ q => ?_; first | (dsimp only; simp; done) | (simp; done) | (dsimp only; split <;> first | rfl | (simp; done)))
    | (intro _ _ _)
    | (intro _ _)
    | dsimp only
    | dsimp only [id]
    | with_reducible apply Kept.upd

theorem State.putTime_kept {pv : Bool} {s0 s : State} (base ns : Nat) (hk : Kept pv s0 s) :
    Kept pv s0 (State.putTime s base ns) := by
  dsimp only [State.putTime]
  repeat' first
    | with_reducible assumption
    | with_reducible apply State.setReg_kept
    | split
    | with_reducible apply Kept.ite

theorem State.recordStart_kept {pv : Bool} {s0 s : State} (p tick : Nat) (hk : Kept pv s0 s) :
    Kept pv s0 (State.recordStart s p tick) := by
  dsimp only [State.recordStart]
  repeat' first
    | with_reducible assumption
    | with_reducible apply State.setReg_kept
    | with_reducible apply State.putTime_kept
    | split
    | with_reducible apply Kept.ite

@[simp] theorem Port.prune_banks (q : Port) (frame : Nat) (kept : List Nat) : (Port.prune q frame kept).prot.banks = q.prot.banks := by
  unfold Port.prune
  repeat' first
    | rfl
    | simp
    | split

theorem State.frameStart_kept {pv : Bool} {s0 s : State} (p tick : Nat) (hk : Kept pv s0 s) :
    Kept pv s0 (State.frameStart s p tick) := by
  dsimp only [State.frameStart]
  repeat' first
    | with_reducible assumption
    | with_reducible apply State.modPort_kept
    | with_reducible apply State.extraRound_kept
    | with_reducible apply State.releaseWitness_kept
    | with_reducible apply State.rebase_kept
    | with_reducible apply State.recordStart_kept
    | with_reducible apply Kept.foldl
    | with_reducible apply Kept.foldlPair
    | split
    | with_reducible apply Kept.ite
    | with_reducible rfl
    | with_reducible exact fun x => x
    | with_reducible exact Nat.le_refl _
    | with_reducible exact List.prefix_rfl
    | with_reducible exact List.prefix_append _ _
    | with_reducible refine fun (hx : tabSorted _) => ?_
    | with_reducible apply tabSorted_map
    | with_reducible apply tabSorted_put
    | with_reducible apply tabSorted_erase
    | with_reducible apply tabSorted_filter
    | with_reducible exact tabSorted_nil
    | (show tabSorted _; assumption)
    | with_reducible exact ledgerOrdered_filter _
    | with_reducible exact fun hx => canon_filterRegs hx _
    | with_reducible exact fun _ _ => rfl
    | ((with_reducible refine fun _ _ => banks_map ?_ _ _) <;> exact fun _ _ => rfl)
    | exact fun _ => rfl
    | exact fun _ _ => rfl
    | exact fun _ _ => rfl
    | (refine fun _ => ?_; first | rfl | (dsimp only; simp; done))
    | (refine fun _ q => ?_; first | (dsimp only; simp; done) | (simp; done) | (dsimp only; split <;> first | rfl | (simp; done)))
    | (intro _ _ _)
    | (intro _ _)
    | dsimp only
    | dsimp only [id]
    | with_reducible apply Kept.upd

end Sys2Proof.Machine
end

