-- ==== Sys2Proof/Laws/KeptLines.lean ====
section
/-! SUPPORT. Every operation of Machine/Lines.lean keeps what `Kept` says. -/

set_option linter.unusedTactic false
set_option linter.unreachableTactic false
set_option maxHeartbeats 200000
namespace Sys2Proof.Machine

theorem State.takeSegment_kept {pv : Bool} {s0 s : State} (p : Nat) (o : LineOpen) (key : Nat) (h : Kept pv s0 s) :
    Kept pv s0 (s.takeSegment p o key).2 := by
  unfold State.takeSegment
  dsimp only
  split
  · dsimp only; exact State.modPort_kept _ _ (fun _ _ => rfl) h
  · dsimp only
    split
    · exact h
    · exact State.setBit_kept _ _ (State.count_kept _ _ _ _ h)

theorem State.sendLine_kept {pv : Bool} {s0 s : State} (p : Nat) (h : PktHead) (o : LineOpen) (hk : Kept pv s0 s) :
    Kept pv s0 (State.sendLine s p h o) := by
  dsimp only [State.sendLine]
  repeat' first
    | with_reducible assumption
    | with_reducible apply State.modLink_kept
    | split
    | with_reducible apply Kept.ite
    | with_reducible rfl
    | with_reducible exact fun x => x
    | with_reducible exact Nat.le_refl _
    | with_reducible exact List.prefix_rfl
    | with_reducible exact List.prefix_append _ _
    | with_reducible refine fun (hx : tabSorted _) => ?_
    | with_reducible apply tabSorted_map
    | with_reducible apply tabSorted_put
    | with_reducible apply tabSorted_erase
    | with_reducible apply tabSorted_filter
    | with_reducible exact tabSorted_nil
    | (show tabSorted _; assumption)
    | with_reducible exact ledgerOrdered_filter _
    | with_reducible exact fun hx => canon_filterRegs hx _
    | with_reducible exact fun _ _ => rfl
    | ((with_reducible refine fun _ _ => banks_map ?_ _ _) <;> exact fun _ _ => rfl)
    | exact fun _ => rfl
    | exact fun _ _ => rfl
    | with_reducible apply Kept.upd

theorem State.closeLine_kept {pv : Bool} {s0 s : State} (p : Nat) (o : LineOpen) (hk : Kept pv s0 s) :
    Kept pv s0 (State.closeLine s p o) := by
  dsimp only [State.closeLine]
  repeat' first
    | with_reducible assumption
    | with_reducible apply State.modPort_kept
    | with_reducible apply State.sendLine_kept
    | split
    | with_reducible apply Kept.ite
    | with_reducible rfl
    | with_reducible exact fun x => x
    | with_reducible exact Nat.le_refl _
    | with_reducible exact List.prefix_rfl
    | with_reducible exact List.prefix_append _ _
    | with_reducible refine fun (hx : tabSorted _) => ?_
    | with_reducible apply tabSorted_map
    | with_reducible apply tabSorted_put
    | with_reducible apply tabSorted_erase
    | with_reducible apply tabSorted_filter
    | with_reducible exact tabSorted_nil
    | (show tabSorted _; assumption)
    | with_reducible exact ledgerOrdered_filter _
    | with_reducible exact fun hx => canon_filterRegs hx _
    | with_reducible exact fun _ _ => rfl
    | ((with_reducible refine fun _ _ => banks_map ?_ _ _) <;> exact fun _ _ => rfl)
    | exact fun _ => rfl
    | exact fun _ _ => rfl
    | exact fun _ _ => rfl
    | (refine fun _ => ?_; first | rfl | (dsimp only; simp; done))
    | (refine fun _ q => ?_; first | (dsimp only; simp; done) | (simp; done) | (dsimp only; split <;> first | rfl | (simp; done)))
    | with_reducible apply Kept.upd

theorem State.takeSegments_kept {pv : Bool} {s0 : State} (p n : Nat) {s : State} (h : Kept pv s0 s) : Kept pv s0 (State.takeSegments p n s) := by
  induction n generalizing s with
  | zero => exact h
  | succ n ih =>
    unfold State.takeSegments
    split
    · exact h
    · dsimp only
      split
      · split
        · exact State.closeLine_kept _ _ (State.takeSegment_kept _ _ _ h)
        · exact ih (State.modPort_kept _ _ (fun _ _ => rfl) (State.takeSegment_kept _ _ _ h))
      · exact h

theorem execSegmentSendSlot_kept (pv : Bool) (s : State) (p : Fin 4) :
    KeptBy pv s (execSegmentSendSlot p s) := by
  dsimp only [execSegmentSendSlot]
  have hk := Kept.refl pv s
  repeat' first
    | with_reducible apply KeptBy.next
    | with_reducible assumption
    | with_reducible apply State.takeSegments_kept
    | split
    | with_reducible apply Kept.ite

theorem State.flushLine_kept {pv : Bool} {s0 s : State} (p : Nat) (hk : Kept pv s0 s) :
    Kept pv s0 (State.flushLine s p) := by
  dsimp only [State.flushLine]
  repeat' first
    | with_reducible assumption
    | with_reducible apply State.takeSegments_kept
    | split
    | with_reducible apply Kept.ite
    | with_reducible rfl
    | with_reducible exact fun x => x
    | with_reducible exact Nat.le_refl _
    | with_reducible exact List.prefix_rfl
    | with_reducible exact List.prefix_append _ _
    | with_reducible refine fun (hx : tabSorted _) => ?_
    | with_reducible apply tabSorted_map
    | with_reducible apply tabSorted_put
    | with_reducible apply tabSorted_erase
    | with_reducible apply tabSorted_filter
    | with_reducible exact tabSorted_nil
    | (show tabSorted _; assumption)
    | with_reducible exact ledgerOrdered_filter _
    | with_reducible exact fun hx => canon_filterRegs hx _
    | with_reducible exact fun _ _ => rfl
    | ((with_reducible refine fun _ _ => banks_map ?_ _ _) <;> exact fun _ _ => rfl)
    | exact fun _ => rfl
    | exact fun _ _ => rfl
    | with_reducible apply Kept.upd

theorem State.noteLead_kept {pv : Bool} {s0 s : State} (p : Nat) (hk : Kept pv s0 s) :
    Kept pv s0 (State.noteLead s p) := by
  dsimp only [State.noteLead]
  repeat' first
    | with_reducible assumption
    | with_reducible apply State.modPort_kept
    | with_reducible apply Kept.foldl
    | with_reducible apply Kept.foldlPair
    | split
    | with_reducible apply Kept.ite
    | with_reducible rfl
    | with_reducible exact fun x => x
    | with_reducible exact Nat.le_refl _
    | with_reducible exact List.prefix_rfl
    | with_reducible exact List.prefix_append _ _
    | with_reducible refine fun (hx : tabSorted _) => ?_
    | with_reducible apply tabSorted_map
    | with_reducible apply tabSorted_put
    | with_reducible apply tabSorted_erase
    | with_reducible apply tabSorted_filter
    | with_reducible exact tabSorted_nil
    | (show tabSorted _; assumption)
    | with_reducible exact ledgerOrdered_filter _
    | with_reducible exact fun hx => canon_filterRegs hx _
    | with_reducible exact fun _ _ => rfl
    | ((with_reducible refine fun _ _ => banks_map ?_ _ _) <;> exact fun _ _ => rfl)
    | exact fun _ => rfl
    | exact fun _ _ => rfl
    | exact fun _ _ => rfl
    | (refine fun _ => ?_; first | rfl | (dsimp only; simp; done))
    | (refine fun _ q => ?_; first | (dsimp only; simp; done) | (simp; done) | (dsimp only; split <;> first | rfl | (simp; done)))
    | (intro _ _ _)
    | (intro _ _)
    | dsimp only
    | dsimp only [id]
    | with_reducible apply Kept.upd

theorem State.endFrame_kept {pv : Bool} {s0 s : State} (p : Nat) (hk : Kept pv s0 s) :
    Kept pv s0 (State.endFrame s p) := by
  dsimp only [State.endFrame]
  repeat' first
    | with_reducible assumption
    | with_reducible apply State.setField_kept
    | with_reducible apply State.publishFrame_kept
    | split
    | with_reducible apply Kept.ite
    | with_reducible rfl
    | with_reducible exact fun x => x
    | with_reducible exact Nat.le_refl _
    | with_reducible exact List.prefix_rfl
    | with_reducible exact List.prefix_append _ _
    | with_reducible refine fun (hx : tabSorted _) => ?_
    | with_reducible apply tabSorted_map
    | with_reducible apply tabSorted_put
    | with_reducible apply tabSorted_erase
    | with_reducible apply tabSorted_filter
    | with_reducible exact tabSorted_nil
    | (show tabSorted _; assumption)
    | with_reducible exact ledgerOrdered_filter _
    | with_reducible exact fun hx => canon_filterRegs hx _
    | with_reducible exact fun _ _ => rfl
    | ((with_reducible refine fun _ _ => banks_map ?_ _ _) <;> exact fun _ _ => rfl)
    | exact fun _ => rfl
    | exact fun _ _ => rfl
    | with_reducible apply Kept.upd

theorem State.switchMode_kept {pv : Bool} {s0 s : State} (p tick : Nat) (m : Mode) (mask : Nat) (hk : Kept pv s0 s) :
    Kept pv s0 (State.switchMode s p tick m mask) := by
  dsimp only [State.switchMode]
  repeat' first
    | with_reducible assumption
    | with_reducible apply State.modPort_kept
    | with_reducible apply State.scanStopped_kept
    | with_reducible apply State.outsFollow_kept
    | with_reducible apply Kept.foldl
    | with_reducible apply Kept.foldlPair
    | split
    | with_reducible apply Kept.ite
    | with_reducible rfl
    | with_reducible exact fun x => x
    | with_reducible exact Nat.le_refl _
    | with_reducible exact List.prefix_rfl
    | with_reducible exact List.prefix_append _ _
    | with_reducible refine fun (hx : tabSorted _) => ?_
    | with_reducible apply tabSorted_map
    | with_reducible apply tabSorted_put
    | with_reducible apply tabSorted_erase
    | with_reducible apply tabSorted_filter
    | with_reducible exact tabSorted_nil
    | (show tabSorted _; assumption)
    | with_reducible exact ledgerOrdered_filter _
    | with_reducible exact fun hx => canon_filterRegs hx _
    | with_reducible exact fun _ _ => rfl
    | ((with_reducible refine fun _ _ => banks_map ?_ _ _) <;> exact fun _ _ => rfl)
    | exact fun _ => rfl
    | exact fun _ _ => rfl
    | exact fun _ _ => rfl
    | (refine fun _ => ?_; first | rfl | (dsimp only; simp; done))
    | (refine fun _ q => ?_; first | (dsimp only; simp; done) | (simp; done) | (dsimp only; split <;> first | rfl | (simp; done)))
    | (intro _ _ _)
    | (intro _ _)
    | dsimp only
    | dsimp only [id]
    | with_reducible apply Kept.upd

theorem State.stopHere_kept {pv : Bool} {s0 s : State} (p reason tick : Nat) (hk : Kept pv s0 s) :
    Kept pv s0 (State.stopHere s p reason tick) := by
  dsimp only [State.stopHere]
  repeat' first
    | with_reducible assumption
    | with_reducible apply State.modPort_kept
    | with_reducible apply State.sendMode_kept
    | exact Kept.ofEq ‹_› (by apply State.takeModeId_kept; assumption)
    | with_reducible apply State.takeModeId_kept
    | with_reducible apply State.stopPort_kept
    | with_reducible apply Kept.foldl
    | with_reducible apply Kept.foldlPair
    | split
    | with_reducible apply Kept.ite
    | with_reducible rfl
    | with_reducible exact fun x => x
    | with_reducible exact Nat.le_refl _
    | with_reducible exact List.prefix_rfl
    | with_reducible exact List.prefix_append _ _
    | with_reducible refine fun (hx : tabSorted _) => ?_
    | with_reducible apply tabSorted_map
    | with_reducible apply tabSorted_put
    | with_reducible apply tabSorted_erase
    | with_reducible apply tabSorted_filter
    | with_reducible exact tabSorted_nil
    | (show tabSorted _; assumption)
    | with_reducible exact ledgerOrdered_filter _
    | with_reducible exact fun hx => canon_filterRegs hx _
    | with_reducible exact fun _ _ => rfl
    | ((with_reducible refine fun _ _ => banks_map ?_ _ _) <;> exact fun _ _ => rfl)
    | exact fun _ => rfl
    | exact fun _ _ => rfl
    | exact fun _ _ => rfl
    | (refine fun _ => ?_; first | rfl | (dsimp only; simp; done))
    | (refine fun _ q => ?_; first | (dsimp only; simp; done) | (simp; done) | (dsimp only; split <;> first | rfl | (simp; done)))
    | (intro _ _ _)
    | (intro _ _)
    | dsimp only
    | dsimp only [id]
    | with_reducible apply Kept.upd

theorem State.atBoundary_kept {pv : Bool} {s0 s : State} (p tick : Nat) (hk : Kept pv s0 s) :
    Kept pv s0 (State.atBoundary s p tick) := by
  dsimp only [State.atBoundary]
  repeat' first
    | with_reducible assumption
    | with_reducible apply State.modPort_kept
    | with_reducible apply State.frameStart_kept
    | with_reducible apply State.switchMode_kept
    | with_reducible apply State.stopHere_kept
    | split
    | with_reducible apply Kept.ite
    | with_reducible rfl
    | with_reducible exact fun x => x
    | with_reducible exact Nat.le_refl _
    | with_reducible exact List.prefix_rfl
    | with_reducible exact List.prefix_append _ _
    | with_reducible refine fun (hx : tabSorted _) => ?_
    | with_reducible apply tabSorted_map
    | with_reducible apply tabSorted_put
    | with_reducible apply tabSorted_erase
    | with_reducible apply tabSorted_filter
    | with_reducible exact tabSorted_nil
    | (show tabSorted _; assumption)
    | with_reducible exact ledgerOrdered_filter _
    | with_reducible exact fun hx => canon_filterRegs hx _
    | with_reducible exact fun _ _ => rfl
    | ((with_reducible refine fun _ _ => banks_map ?_ _ _) <;> exact fun _ _ => rfl)
    | exact fun _ => rfl
    | exact fun _ _ => rfl
    | exact fun _ _ => rfl
    | (refine fun _ => ?_; first | rfl | (dsimp only; simp; done))
    | (refine fun _ q => ?_; first | (dsimp only; simp; done) | (simp; done) | (dsimp only; split <;> first | rfl | (simp; done)))
    | with_reducible apply Kept.upd

theorem State.detach_kept {pv : Bool} {s0 s : State} (m : Nat) (hk : Kept pv s0 s) :
    Kept pv s0 (State.detach s m) := by
  dsimp only [State.detach]
  repeat' first
    | with_reducible assumption
    | with_reducible apply State.modPort_kept
    | split
    | with_reducible apply Kept.ite
    | with_reducible rfl
    | with_reducible exact fun x => x
    | with_reducible exact Nat.le_refl _
    | with_reducible exact List.prefix_rfl
    | with_reducible exact List.prefix_append _ _
    | with_reducible refine fun (hx : tabSorted _) => ?_
    | with_reducible apply tabSorted_map
    | with_reducible apply tabSorted_put
    | with_reducible apply tabSorted_erase
    | with_reducible apply tabSorted_filter
    | with_reducible exact tabSorted_nil
    | (show tabSorted _; assumption)
    | with_reducible exact ledgerOrdered_filter _
    | with_reducible exact fun hx => canon_filterRegs hx _
    | with_reducible exact fun _ _ => rfl
    | ((with_reducible refine fun _ _ => banks_map ?_ _ _) <;> exact fun _ _ => rfl)
    | exact fun _ => rfl
    | exact fun _ _ => rfl
    | exact fun _ _ => rfl
    | (refine fun _ => ?_; first | rfl | (dsimp only; simp; done))
    | (refine fun _ q => ?_; first | (dsimp only; simp; done) | (simp; done) | (dsimp only; split <;> first | rfl | (simp; done)))
    | with_reducible apply Kept.upd

theorem State.boundaries_kept {pv : Bool} {s0 s : State} (p tick : Nat) (hk : Kept pv s0 s) :
    Kept pv s0 (State.boundaries s p tick) := by
  dsimp only [State.boundaries]
  repeat' first
    | with_reducible assumption
    | with_reducible apply State.atBoundary_kept
    | with_reducible apply State.detach_kept
    | with_reducible apply Kept.foldl
    | with_reducible apply Kept.foldlPair
    | split
    | with_reducible apply Kept.ite
    | (intro _ _ _)
    | (intro _ _)
    | dsimp only
    | dsimp only [id]

theorem State.emptyFrame_kept {pv : Bool} {s0 s : State} (p tick : Nat) (hk : Kept pv s0 s) :
    Kept pv s0 (State.emptyFrame s p tick) := by
  dsimp only [State.emptyFrame]
  repeat' first
    | with_reducible assumption
    | with_reducible apply State.modPort_kept
    | with_reducible apply State.recordStart_kept
    | split
    | with_reducible apply Kept.ite
    | with_reducible rfl
    | with_reducible exact fun x => x
    | with_reducible exact Nat.le_refl _
    | with_reducible exact List.prefix_rfl
    | with_reducible exact List.prefix_append _ _
    | with_reducible refine fun (hx : tabSorted _) => ?_
    | with_reducible apply tabSorted_map
    | with_reducible apply tabSorted_put
    | with_reducible apply tabSorted_erase
    | with_reducible apply tabSorted_filter
    | with_reducible exact tabSorted_nil
    | (show tabSorted _; assumption)
    | with_reducible exact ledgerOrdered_filter _
    | with_reducible exact fun hx => canon_filterRegs hx _
    | with_reducible exact fun _ _ => rfl
    | ((with_reducible refine fun _ _ => banks_map ?_ _ _) <;> exact fun _ _ => rfl)
    | exact fun _ => rfl
    | exact fun _ _ => rfl
    | exact fun _ _ => rfl
    | (refine fun _ => ?_; first | rfl | (dsimp only; simp; done))
    | (refine fun _ q => ?_; first | (dsimp only; simp; done) | (simp; done) | (dsimp only; split <;> first | rfl | (simp; done)))
    | with_reducible apply Kept.upd

theorem State.releaseNow_kept {pv : Bool} {s0 s : State} (p : Nat) (j : Int) (tick : Nat) (hk : Kept pv s0 s) :
    Kept pv s0 (State.releaseNow s p j tick) := by
  dsimp only [State.releaseNow]
  repeat' first
    | with_reducible assumption
    | with_reducible apply State.fixSubframe_kept
    | with_reducible apply State.releaseRows_kept
    | with_reducible apply Kept.forN
    | split
    | with_reducible apply Kept.ite
    | with_reducible rfl
    | with_reducible exact fun x => x
    | with_reducible exact Nat.le_refl _
    | with_reducible exact List.prefix_rfl
    | with_reducible exact List.prefix_append _ _
    | with_reducible refine fun (hx : tabSorted _) => ?_
    | with_reducible apply tabSorted_map
    | with_reducible apply tabSorted_put
    | with_reducible apply tabSorted_erase
    | with_reducible apply tabSorted_filter
    | with_reducible exact tabSorted_nil
    | (show tabSorted _; assumption)
    | with_reducible exact ledgerOrdered_filter _
    | with_reducible exact fun hx => canon_filterRegs hx _
    | with_reducible exact fun _ _ => rfl
    | ((with_reducible refine fun _ _ => banks_map ?_ _ _) <;> exact fun _ _ => rfl)
    | exact fun _ => rfl
    | exact fun _ _ => rfl
    | (intro _ _ _)
    | (intro _ _)
    | dsimp only
    | dsimp only [id]
    | with_reducible apply Kept.upd

theorem State.releaseNext_kept {pv : Bool} {s0 s : State} (p : Nat) (j : Int) (tick : Nat) (hk : Kept pv s0 s) :
    Kept pv s0 (State.releaseNext s p j tick) := by
  dsimp only [State.releaseNext]
  repeat' first
    | with_reducible assumption
    | with_reducible apply State.releaseRows_kept
    | split
    | with_reducible apply Kept.ite
    | with_reducible rfl
    | with_reducible exact fun x => x
    | with_reducible exact Nat.le_refl _
    | with_reducible exact List.prefix_rfl
    | with_reducible exact List.prefix_append _ _
    | with_reducible refine fun (hx : tabSorted _) => ?_
    | with_reducible apply tabSorted_map
    | with_reducible apply tabSorted_put
    | with_reducible apply tabSorted_erase
    | with_reducible apply tabSorted_filter
    | with_reducible exact tabSorted_nil
    | (show tabSorted _; assumption)
    | with_reducible exact ledgerOrdered_filter _
    | with_reducible exact fun hx => canon_filterRegs hx _
    | with_reducible exact fun _ _ => rfl
    | ((with_reducible refine fun _ _ => banks_map ?_ _ _) <;> exact fun _ _ => rfl)
    | exact fun _ => rfl
    | exact fun _ _ => rfl
    | with_reducible apply Kept.upd

theorem State.openLine_kept {pv : Bool} {s0 s : State} (m : Nat) (j : Int) (tick : Nat) (hk : Kept pv s0 s) :
    Kept pv s0 (State.openLine s m j tick) := by
  dsimp only [State.openLine]
  repeat' first
    | with_reducible assumption
    | with_reducible apply State.modPort_kept
    | split
    | with_reducible apply Kept.ite
    | with_reducible rfl
    | with_reducible exact fun x => x
    | with_reducible exact Nat.le_refl _
    | with_reducible exact List.prefix_rfl
    | with_reducible exact List.prefix_append _ _
    | with_reducible refine fun (hx : tabSorted _) => ?_
    | with_reducible apply tabSorted_map
    | with_reducible apply tabSorted_put
    | with_reducible apply tabSorted_erase
    | with_reducible apply tabSorted_filter
    | with_reducible exact tabSorted_nil
    | (show tabSorted _; assumption)
    | with_reducible exact ledgerOrdered_filter _
    | with_reducible exact fun hx => canon_filterRegs hx _
    | with_reducible exact fun _ _ => rfl
    | ((with_reducible refine fun _ _ => banks_map ?_ _ _) <;> exact fun _ _ => rfl)
    | exact fun _ => rfl
    | exact fun _ _ => rfl
    | exact fun _ _ => rfl
    | (refine fun _ => ?_; first | rfl | (dsimp only; simp; done))
    | (refine fun _ q => ?_; first | (dsimp only; simp; done) | (simp; done) | (dsimp only; split <;> first | rfl | (simp; done)))
    | with_reducible apply Kept.upd

theorem State.sendSlot_kept {pv : Bool} {s0 s : State} (p m : Nat) (j : Int) (tick : Nat) (hk : Kept pv s0 s) :
    Kept pv s0 (State.sendSlot s p m j tick) := by
  dsimp only [State.sendSlot]
  repeat' first
    | with_reducible assumption
    | with_reducible apply State.modLink_kept
    | with_reducible apply State.sendHold_kept
    | with_reducible apply State.sendIdle_kept
    | with_reducible apply State.announceReform_kept
    | with_reducible apply State.openLine_kept
    | split
    | with_reducible apply Kept.ite

theorem State.sendChange_kept {pv : Bool} {s0 s : State} (p m : Nat) (j : Int) (hk : Kept pv s0 s) :
    Kept pv s0 (State.sendChange s p m j) := by
  dsimp only [State.sendChange]
  repeat' first
    | with_reducible assumption
    | with_reducible apply State.modPort_kept
    | with_reducible apply State.announce_kept
    | with_reducible apply Kept.foldl
    | with_reducible apply Kept.foldlPair
    | split
    | with_reducible apply Kept.ite
    | with_reducible rfl
    | with_reducible exact fun x => x
    | with_reducible exact Nat.le_refl _
    | with_reducible exact List.prefix_rfl
    | with_reducible exact List.prefix_append _ _
    | with_reducible refine fun (hx : tabSorted _) => ?_
    | with_reducible apply tabSorted_map
    | with_reducible apply tabSorted_put
    | with_reducible apply tabSorted_erase
    | with_reducible apply tabSorted_filter
    | with_reducible exact tabSorted_nil
    | (show tabSorted _; assumption)
    | with_reducible exact ledgerOrdered_filter _
    | with_reducible exact fun hx => canon_filterRegs hx _
    | with_reducible exact fun _ _ => rfl
    | ((with_reducible refine fun _ _ => banks_map ?_ _ _) <;> exact fun _ _ => rfl)
    | exact fun _ => rfl
    | exact fun _ _ => rfl
    | exact fun _ _ => rfl
    | (refine fun _ => ?_; first | rfl | (dsimp only; simp; done))
    | (refine fun _ q => ?_; first | (dsimp only; simp; done) | (simp; done) | (dsimp only; split <;> first | rfl | (simp; done)))
    | (intro _ _ _)
    | (intro _ _)
    | dsimp only
    | dsimp only [id]
    | with_reducible apply Kept.upd

theorem State.writeRecords_kept {pv : Bool} {s0 s : State} (p : Nat) (hk : Kept pv s0 s) :
    Kept pv s0 (State.writeRecords s p) := by
  dsimp only [State.writeRecords]
  repeat' first
    | with_reducible assumption
    | with_reducible apply State.lateRecord_kept
    | with_reducible apply State.flushRecords_kept
    | split
    | with_reducible apply Kept.ite

theorem State.activeSlot_kept {pv : Bool} {s0 s : State} (p : Nat) (h : Kept pv s0 s) : Kept pv s0 (s.activeSlot p) := by
  unfold State.activeSlot
  extract_lets +lift tick s1 s2 s3 q j at_ s4 s5 s6 s7 s8 s9 s10
  have h1 : Kept pv s0 s1 := Kept.foldl (fun t x ht => State.flushLine_kept _ ht) _ h
  have h2 : Kept pv s0 s2 := Kept.ite (State.endFrame_kept _ h1) h1
  have h3 : Kept pv s0 s3 := Kept.ite h2 (Kept.ite (State.emptyFrame_kept _ _ h2) (State.boundaries_kept _ _ h2))
  have h4 : Kept pv s0 s4 := Kept.ite (State.writeRecords_kept _ h3) h3
  have h5 : Kept pv s0 s5 := Kept.ite (State.latch_kept _ _ _ h4) h4
  have h6 : Kept pv s0 s6 := Kept.ite h4 (State.releaseNext_kept _ _ _ (State.releaseNow_kept _ _ _ h5))
  have h7 : Kept pv s0 s7 := Kept.ite h6 (State.scanReached_kept _ _ _ h6)
  have h8 : Kept pv s0 s8 := State.modPort_kept _ _ (fun _ _ => rfl) h7
  have h9 : Kept pv s0 s9 := Kept.foldl (fun t x ht => State.sendSlot_kept _ _ _ _ ht) _ h8
  have h10 : Kept pv s0 s10 := Kept.foldl (fun t x ht => State.sendChange_kept _ _ _ ht) _ h9
  exact Kept.ite h3 (State.noteLead_kept _ (Kept.foldl (fun t x ht => State.sendLater_kept _ ht) _ h10))

theorem State.holdSlot_kept {pv : Bool} {s0 s : State} (p : Nat) (hk : Kept pv s0 s) :
    Kept pv s0 (State.holdSlot s p) := by
  dsimp only [State.holdSlot]
  repeat' first
    | with_reducible assumption
    | with_reducible apply State.modPort_kept
    | with_reducible apply State.sendLater_kept
    | with_reducible apply State.sendHold_kept
    | split
    | with_reducible apply Kept.ite
    | with_reducible rfl
    | with_reducible exact fun x => x
    | with_reducible exact Nat.le_refl _
    | with_reducible exact List.prefix_rfl
    | with_reducible exact List.prefix_append _ _
    | with_reducible refine fun (hx : tabSorted _) => ?_
    | with_reducible apply tabSorted_map
    | with_reducible apply tabSorted_put
    | with_reducible apply tabSorted_erase
    | with_reducible apply tabSorted_filter
    | with_reducible exact tabSorted_nil
    | (show tabSorted _; assumption)
    | with_reducible exact ledgerOrdered_filter _
    | with_reducible exact fun hx => canon_filterRegs hx _
    | with_reducible exact fun _ _ => rfl
    | ((with_reducible refine fun _ _ => banks_map ?_ _ _) <;> exact fun _ _ => rfl)
    | exact fun _ => rfl
    | exact fun _ _ => rfl
    | exact fun _ _ => rfl
    | (refine fun _ => ?_; first | rfl | (dsimp only; simp; done))
    | (refine fun _ q => ?_; first | (dsimp only; simp; done) | (simp; done) | (dsimp only; split <;> first | rfl | (simp; done)))
    | with_reducible apply Kept.upd

theorem State.lineSlot_kept {pv : Bool} {s0 s : State} (p : Nat) (hk : Kept pv s0 s) :
    Kept pv s0 (State.lineSlot s p) := by
  dsimp only [State.lineSlot]
  repeat' first
    | with_reducible assumption
    | with_reducible apply State.activeSlot_kept
    | with_reducible apply State.holdSlot_kept
    | split
    | with_reducible apply Kept.ite

theorem execLineSendSlot_kept (pv : Bool) (s : State) (p : Fin 4) :
    KeptBy pv s (execLineSendSlot p s) := by
  dsimp only [execLineSendSlot]
  have hk := Kept.refl pv s
  repeat' first
    | with_reducible apply KeptBy.next
    | with_reducible assumption
    | with_reducible apply State.lineSlot_kept
    | split
    | with_reducible apply Kept.ite

theorem State.clearUnder_kept {pv : Bool} {s0 s : State} (p : Nat) (hk : Kept pv s0 s) :
    Kept pv s0 (State.clearUnder s p) := by
  dsimp only [State.clearUnder]
  repeat' first
    | with_reducible assumption
    | with_reducible apply State.setReg_kept
    | split
    | with_reducible apply Kept.ite

theorem execScanClearUnder_kept (pv : Bool) (s : State) (p : Fin 4) :
    KeptBy pv s (execScanClearUnder p s) := by
  dsimp only [execScanClearUnder]
  have hk := Kept.refl pv s
  repeat' first
    | with_reducible apply KeptBy.next
    | with_reducible assumption
    | with_reducible apply State.clearUnder_kept
    | split
    | with_reducible apply Kept.ite

end Sys2Proof.Machine
end

