-- ==== Sys2Proof/Laws/KeptMirror.lean ====
section
/-! SUPPORT. Every operation of Machine/Mirror.lean keeps what `Kept` says. -/

set_option linter.unusedTactic false
set_option linter.unreachableTactic false
set_option maxHeartbeats 200000
namespace Sys2Proof.Machine

theorem State.modCway_kept {pv : Bool} {s0 s : State} (f : Cway → Cway) (hk : Kept pv s0 s) :
    Kept pv s0 (State.modCway s f) := by
  dsimp only [State.modCway]
  repeat' first
    | with_reducible assumption
    | split
    | with_reducible apply Kept.ite
    | with_reducible rfl
    | with_reducible exact fun x => x
    | with_reducible exact Nat.le_refl _
    | with_reducible exact List.prefix_rfl
    | with_reducible exact List.prefix_append _ _
    | with_reducible refine fun (hx : tabSorted _) => ?_
    | with_reducible apply tabSorted_map
    | with_reducible apply tabSorted_put
    | with_reducible apply tabSorted_erase
    | with_reducible apply tabSorted_filter
    | with_reducible exact tabSorted_nil
    | (show tabSorted _; assumption)
    | with_reducible exact ledgerOrdered_filter _
    | with_reducible exact fun hx => canon_filterRegs hx _
    | with_reducible exact fun _ _ => rfl
    | ((with_reducible refine fun _ _ => banks_map ?_ _ _) <;> exact fun _ _ => rfl)
    | exact fun _ => rfl
    | exact fun _ _ => rfl
    | with_reducible apply Kept.upd

theorem State.modReplay_kept {pv : Bool} {s0 s : State} (ring dseq : Nat) (f : Replay → Replay) (hk : Kept pv s0 s) :
    Kept pv s0 (State.modReplay s ring dseq f) := by
  dsimp only [State.modReplay]
  repeat' first
    | with_reducible assumption
    | with_reducible apply State.modCway_kept
    | split
    | with_reducible apply Kept.ite
    | with_reducible rfl
    | with_reducible exact fun x => x
    | with_reducible exact Nat.le_refl _
    | with_reducible exact List.prefix_rfl
    | with_reducible exact List.prefix_append _ _
    | with_reducible refine fun (hx : tabSorted _) => ?_
    | with_reducible apply tabSorted_map
    | with_reducible apply tabSorted_put
    | with_reducible apply tabSorted_erase
    | with_reducible apply tabSorted_filter
    | with_reducible exact tabSorted_nil
    | (show tabSorted _; assumption)
    | with_reducible exact ledgerOrdered_filter _
    | with_reducible exact fun hx => canon_filterRegs hx _
    | with_reducible exact fun _ _ => rfl
    | ((with_reducible refine fun _ _ => banks_map ?_ _ _) <;> exact fun _ _ => rfl)
    | exact fun _ => rfl
    | exact fun _ _ => rfl
    | with_reducible apply Kept.upd

theorem State.mirrorDecode_kept {pv : Bool} {s0 s : State} (d : Desc) (hk : Kept pv s0 s) :
    Kept pv s0 (State.mirrorDecode s d) := by
  dsimp only [State.mirrorDecode]
  repeat' first
    | with_reducible assumption
    | with_reducible apply State.setCtx_kept
    | with_reducible apply State.draw_kept
    | with_reducible apply State.accept_kept
    | split
    | with_reducible apply Kept.ite

theorem State.mirrorContinue_kept {pv : Bool} {s0 s : State} (d : Desc) (hk : Kept pv s0 s) :
    Kept pv s0 (State.mirrorContinue s d) := by
  dsimp only [State.mirrorContinue]
  repeat' first
    | with_reducible assumption
    | with_reducible apply State.setCtx_kept
    | with_reducible apply State.accept_kept
    | split
    | with_reducible apply Kept.ite
    | with_reducible rfl
    | with_reducible exact fun x => x
    | with_reducible exact Nat.le_refl _
    | with_reducible exact List.prefix_rfl
    | with_reducible exact List.prefix_append _ _
    | with_reducible refine fun (hx : tabSorted _) => ?_
    | with_reducible apply tabSorted_map
    | with_reducible apply tabSorted_put
    | with_reducible apply tabSorted_erase
    | with_reducible apply tabSorted_filter
    | with_reducible exact tabSorted_nil
    | (show tabSorted _; assumption)
    | with_reducible exact ledgerOrdered_filter _
    | with_reducible exact fun hx => canon_filterRegs hx _
    | with_reducible exact fun _ _ => rfl
    | ((with_reducible refine fun _ _ => banks_map ?_ _ _) <;> exact fun _ _ => rfl)
    | exact fun _ => rfl
    | exact fun _ _ => rfl
    | with_reducible apply Kept.upd

theorem State.mirrorList_kept {pv : Bool} {s0 s : State} (d : Desc) (bs : List Byte) (hk : Kept pv s0 s) :
    Kept pv s0 (State.mirrorList s d bs) := by
  dsimp only [State.mirrorList]
  repeat' first
    | with_reducible assumption
    | with_reducible apply State.accept_kept
    | split
    | with_reducible apply Kept.ite

theorem State.mirrorDesc_kept {pv : Bool} {s0 s : State} (d : Desc) (hk : Kept pv s0 s) :
    Kept pv s0 (State.mirrorDesc s d) := by
  dsimp only [State.mirrorDesc]
  repeat' first
    | with_reducible assumption
    | with_reducible apply State.modObj_kept
    | with_reducible apply State.accept_kept
    | with_reducible apply State.startIf_kept
    | with_reducible apply State.acceptMode_kept
    | with_reducible apply startTide_kept
    | with_reducible apply startMeasure_kept
    | with_reducible apply startStore_kept
    | with_reducible apply State.mirrorDecode_kept
    | with_reducible apply State.mirrorContinue_kept
    | with_reducible apply State.mirrorList_kept
    | split
    | with_reducible apply Kept.ite
    | with_reducible rfl
    | with_reducible exact fun x => x
    | with_reducible exact Nat.le_refl _
    | with_reducible exact List.prefix_rfl
    | with_reducible exact List.prefix_append _ _
    | with_reducible refine fun (hx : tabSorted _) => ?_
    | with_reducible apply tabSorted_map
    | with_reducible apply tabSorted_put
    | with_reducible apply tabSorted_erase
    | with_reducible apply tabSorted_filter
    | with_reducible exact tabSorted_nil
    | (show tabSorted _; assumption)
    | with_reducible exact ledgerOrdered_filter _
    | with_reducible exact fun hx => canon_filterRegs hx _
    | with_reducible exact fun _ _ => rfl
    | ((with_reducible refine fun _ _ => banks_map ?_ _ _) <;> exact fun _ _ => rfl)
    | exact fun _ => rfl
    | exact fun _ _ => rfl
    | (intro _ _ _)
    | (intro _ _)
    | dsimp only
    | dsimp only [id]
    | with_reducible apply Kept.upd

theorem State.mirrorTable_kept {pv : Bool} {s0 s : State} (d : Desc) (bs : List Byte) (hk : Kept pv s0 s) :
    Kept pv s0 (State.mirrorTable s d bs) := by
  dsimp only [State.mirrorTable]
  repeat' first
    | with_reducible assumption
    | with_reducible apply State.accept_kept
    | with_reducible apply State.startIf_kept
    | with_reducible apply State.acceptCommit_kept
    | with_reducible apply State.acceptEyes_kept
    | with_reducible apply State.acceptSig_kept
    | with_reducible apply startTide_kept
    | with_reducible apply State.mirrorList_kept
    | split
    | with_reducible apply Kept.ite
    | (intro _ _ _)
    | (intro _ _)
    | dsimp only
    | dsimp only [id]

theorem State.noteAccepted_kept {pv : Bool} {s0 s : State} (r : Replay) (before : State) (hk : Kept pv s0 s) :
    Kept pv s0 (State.noteAccepted s r before) := by
  dsimp only [State.noteAccepted]
  repeat' first
    | with_reducible assumption
    | with_reducible apply State.modReplay_kept
    | split
    | with_reducible apply Kept.ite
    | with_reducible rfl
    | with_reducible exact fun x => x
    | with_reducible exact Nat.le_refl _
    | with_reducible exact List.prefix_rfl
    | with_reducible exact List.prefix_append _ _
    | with_reducible refine fun (hx : tabSorted _) => ?_
    | with_reducible apply tabSorted_map
    | with_reducible apply tabSorted_put
    | with_reducible apply tabSorted_erase
    | with_reducible apply tabSorted_filter
    | with_reducible exact tabSorted_nil
    | (show tabSorted _; assumption)
    | with_reducible exact ledgerOrdered_filter _
    | with_reducible exact fun hx => canon_filterRegs hx _
    | with_reducible exact fun _ _ => rfl
    | ((with_reducible refine fun _ _ => banks_map ?_ _ _) <;> exact fun _ _ => rfl)
    | exact fun _ => rfl
    | exact fun _ _ => rfl
    | with_reducible apply Kept.upd

theorem State.takeDesc_kept {pv : Bool} {s0 s : State} (ring dseq : Nat) (body : List Byte) (hk : Kept pv s0 s) :
    Kept pv s0 (State.takeDesc s ring dseq body) := by
  dsimp only [State.takeDesc]
  repeat' first
    | with_reducible assumption
    | with_reducible apply State.modCway_kept
    | with_reducible apply State.mirrorDesc_kept
    | with_reducible apply State.noteAccepted_kept
    | split
    | with_reducible apply Kept.ite
    | with_reducible rfl
    | with_reducible exact fun x => x
    | with_reducible exact Nat.le_refl _
    | with_reducible exact List.prefix_rfl
    | with_reducible exact List.prefix_append _ _
    | with_reducible refine fun (hx : tabSorted _) => ?_
    | with_reducible apply tabSorted_map
    | with_reducible apply tabSorted_put
    | with_reducible apply tabSorted_erase
    | with_reducible apply tabSorted_filter
    | with_reducible exact tabSorted_nil
    | (show tabSorted _; assumption)
    | with_reducible exact ledgerOrdered_filter _
    | with_reducible exact fun hx => canon_filterRegs hx _
    | with_reducible exact fun _ _ => rfl
    | ((with_reducible refine fun _ _ => banks_map ?_ _ _) <;> exact fun _ _ => rfl)
    | exact fun _ => rfl
    | exact fun _ _ => rfl
    | with_reducible apply Kept.upd

theorem State.takeData_kept {pv : Bool} {s0 s : State} (ring dseq : Nat) (last : Bool) (body : List Byte) (hk : Kept pv s0 s) :
    Kept pv s0 (State.takeData s ring dseq last body) := by
  dsimp only [State.takeData]
  repeat' first
    | with_reducible assumption
    | with_reducible apply State.modReplay_kept
    | with_reducible apply State.mirrorTable_kept
    | with_reducible apply State.noteAccepted_kept
    | split
    | with_reducible apply Kept.ite
    | with_reducible rfl
    | with_reducible exact fun x => x
    | with_reducible exact Nat.le_refl _
    | with_reducible exact List.prefix_rfl
    | with_reducible exact List.prefix_append _ _
    | with_reducible refine fun (hx : tabSorted _) => ?_
    | with_reducible apply tabSorted_map
    | with_reducible apply tabSorted_put
    | with_reducible apply tabSorted_erase
    | with_reducible apply tabSorted_filter
    | with_reducible exact tabSorted_nil
    | (show tabSorted _; assumption)
    | with_reducible exact ledgerOrdered_filter _
    | with_reducible exact fun hx => canon_filterRegs hx _
    | with_reducible exact fun _ _ => rfl
    | ((with_reducible refine fun _ _ => banks_map ?_ _ _) <;> exact fun _ _ => rfl)
    | exact fun _ => rfl
    | exact fun _ _ => rfl
    | with_reducible apply Kept.upd

theorem State.startNow_kept {pv : Bool} {s0 s : State} (id : Nat) (f : Entry → State → State) (hf : ∀ x t, Kept pv s0 t → Kept pv s0 (f x t)) (hk : Kept pv s0 s) :
    Kept pv s0 (State.startNow s id f) := by
  dsimp only [State.startNow]
  repeat' first
    | with_reducible assumption
    | with_reducible apply State.finish_kept
    | with_reducible apply hf
    | split
    | with_reducible apply Kept.ite
    | with_reducible rfl
    | with_reducible exact fun x => x
    | with_reducible exact Nat.le_refl _
    | with_reducible exact List.prefix_rfl
    | with_reducible exact List.prefix_append _ _
    | with_reducible refine fun (hx : tabSorted _) => ?_
    | with_reducible apply tabSorted_map
    | with_reducible apply tabSorted_put
    | with_reducible apply tabSorted_erase
    | with_reducible apply tabSorted_filter
    | with_reducible exact tabSorted_nil
    | (show tabSorted _; assumption)
    | with_reducible exact ledgerOrdered_filter _
    | with_reducible exact fun hx => canon_filterRegs hx _
    | with_reducible exact fun _ _ => rfl
    | ((with_reducible refine fun _ _ => banks_map ?_ _ _) <;> exact fun _ _ => rfl)
    | exact fun _ => rfl
    | exact fun _ _ => rfl
    | (intro _ _ _)
    | (intro _ _)
    | dsimp only
    | dsimp only [id]
    | with_reducible apply Kept.upd

theorem State.goOn_kept {pv : Bool} {s0 s : State} (id : Nat) (f : Entry → State → State) (hf : ∀ x t, Kept pv s0 t → Kept pv s0 (f x t)) (hk : Kept pv s0 s) :
    Kept pv s0 (State.goOn s id f) := by
  dsimp only [State.goOn]
  repeat' first
    | with_reducible assumption
    | with_reducible apply hf
    | split
    | with_reducible apply Kept.ite
    | with_reducible rfl
    | with_reducible exact fun x => x
    | with_reducible exact Nat.le_refl _
    | with_reducible exact List.prefix_rfl
    | with_reducible exact List.prefix_append _ _
    | with_reducible refine fun (hx : tabSorted _) => ?_
    | with_reducible apply tabSorted_map
    | with_reducible apply tabSorted_put
    | with_reducible apply tabSorted_erase
    | with_reducible apply tabSorted_filter
    | with_reducible exact tabSorted_nil
    | (show tabSorted _; assumption)
    | with_reducible exact ledgerOrdered_filter _
    | with_reducible exact fun hx => canon_filterRegs hx _
    | with_reducible exact fun _ _ => rfl
    | ((with_reducible refine fun _ _ => banks_map ?_ _ _) <;> exact fun _ _ => rfl)
    | exact fun _ => rfl
    | exact fun _ _ => rfl
    | (intro _ _ _)
    | (intro _ _)
    | dsimp only
    | dsimp only [id]
    | with_reducible apply Kept.upd

theorem State.replayList_kept {pv : Bool} {s0 s : State} (e : Entry) (hk : Kept pv s0 s) :
    Kept pv s0 (State.replayList s e) := by
  dsimp only [State.replayList]
  repeat' first
    | with_reducible assumption
    | with_reducible apply State.modCmd_kept
    | with_reducible apply State.sawFinish_kept
    | with_reducible apply State.sawRows_kept
    | with_reducible apply State.sawDone_kept
    | with_reducible apply Kept.forN
    | split
    | with_reducible apply Kept.ite
    | with_reducible rfl
    | with_reducible exact fun x => x
    | with_reducible exact Nat.le_refl _
    | with_reducible exact List.prefix_rfl
    | with_reducible exact List.prefix_append _ _
    | with_reducible refine fun (hx : tabSorted _) => ?_
    | with_reducible apply tabSorted_map
    | with_reducible apply tabSorted_put
    | with_reducible apply tabSorted_erase
    | with_reducible apply tabSorted_filter
    | with_reducible exact tabSorted_nil
    | (show tabSorted _; assumption)
    | with_reducible exact ledgerOrdered_filter _
    | with_reducible exact fun hx => canon_filterRegs hx _
    | with_reducible exact fun _ _ => rfl
    | ((with_reducible refine fun _ _ => banks_map ?_ _ _) <;> exact fun _ _ => rfl)
    | exact fun _ => rfl
    | exact fun _ _ => rfl
    | exact fun _ => rfl
    | (intro _ _ _)
    | (intro _ _)
    | dsimp only
    | dsimp only [id]
    | with_reducible apply Kept.upd

theorem State.replayCal_kept {pv : Bool} {s0 s : State} (id : Nat) (hk : Kept pv s0 s) :
    Kept pv s0 (State.replayCal s id) := by
  dsimp only [State.replayCal]
  repeat' first
    | with_reducible assumption
    | with_reducible apply startCal_kept
    | with_reducible apply State.calReady_kept
    | with_reducible apply State.startNow_kept
    | with_reducible apply State.goOn_kept
    | split
    | with_reducible apply Kept.ite
    | with_reducible rfl
    | with_reducible exact fun x => x
    | with_reducible exact Nat.le_refl _
    | with_reducible exact List.prefix_rfl
    | with_reducible exact List.prefix_append _ _
    | with_reducible refine fun (hx : tabSorted _) => ?_
    | with_reducible apply tabSorted_map
    | with_reducible apply tabSorted_put
    | with_reducible apply tabSorted_erase
    | with_reducible apply tabSorted_filter
    | with_reducible exact tabSorted_nil
    | (show tabSorted _; assumption)
    | with_reducible exact ledgerOrdered_filter _
    | with_reducible exact fun hx => canon_filterRegs hx _
    | with_reducible exact fun _ _ => rfl
    | ((with_reducible refine fun _ _ => banks_map ?_ _ _) <;> exact fun _ _ => rfl)
    | exact fun _ => rfl
    | exact fun _ _ => rfl
    | (intro _ _ _)
    | (intro _ _)
    | dsimp only
    | dsimp only [id]
    | with_reducible apply Kept.upd

theorem State.runReplay_kept {pv : Bool} {s0 s : State} (e : Entry) (data : List Byte) (hk : Kept pv s0 s) :
    Kept pv s0 (State.runReplay s e data) := by
  dsimp only [State.runReplay]
  repeat' first
    | with_reducible assumption
    | with_reducible apply startFree_kept
    | with_reducible apply startWrite_kept
    | with_reducible apply State.writeDone_kept
    | with_reducible apply startLoad_kept
    | with_reducible apply State.loadDone_kept
    | with_reducible apply startSawyer_kept
    | with_reducible apply startStream_kept
    | with_reducible apply State.streamEnd_kept
    | with_reducible apply State.startNow_kept
    | with_reducible apply State.goOn_kept
    | with_reducible apply State.replayList_kept
    | with_reducible apply State.replayCal_kept
    | split
    | with_reducible apply Kept.ite
    | with_reducible rfl
    | with_reducible exact fun x => x
    | with_reducible exact Nat.le_refl _
    | with_reducible exact List.prefix_rfl
    | with_reducible exact List.prefix_append _ _
    | with_reducible refine fun (hx : tabSorted _) => ?_
    | with_reducible apply tabSorted_map
    | with_reducible apply tabSorted_put
    | with_reducible apply tabSorted_erase
    | with_reducible apply tabSorted_filter
    | with_reducible exact tabSorted_nil
    | (show tabSorted _; assumption)
    | with_reducible exact ledgerOrdered_filter _
    | with_reducible exact fun hx => canon_filterRegs hx _
    | with_reducible exact fun _ _ => rfl
    | ((with_reducible refine fun _ _ => banks_map ?_ _ _) <;> exact fun _ _ => rfl)
    | exact fun _ => rfl
    | exact fun _ _ => rfl
    | (intro _ _ _)
    | (intro _ _)
    | dsimp only
    | dsimp only [id]
    | with_reducible apply Kept.upd

theorem State.mirrorAlloc_kept {pv : Bool} {s0 s t : State} {d : Desc} {handle : Nat} (e : s.mirrorAlloc d handle = some t)
    (h : Kept pv s0 s) : Kept pv s0 t := by
  unfold State.mirrorAlloc at e
  dsimp only at e
  split at e
  · cases e
  · cases e
    refine State.createAt_kept _ _ _ _ _ _ _ _ _ ?_
    (with_reducible apply Kept.upd (s := s)) <;> first | exact h | exact List.prefix_rfl | exact Nat.le_refl _ | rfl | exact fun _ => rfl | exact fun _ _ => rfl | exact id | exact fun hx => tabSorted_put hx _ _

theorem State.unqueue_kept {pv : Bool} {s0 s : State} (id : Nat) (h : Kept pv s0 s) : Kept pv s0 (s.unqueue id) := by
  have key : ∀ (t : State) (f : Nat → Port → Port), (∀ k q, (f k q).prot.banks = q.prot.banks) → Kept pv s0 t →
      Kept pv s0 { t with ports := tabMap f t.ports } := fun t f hf ht =>
    Kept.upd (s := t) List.prefix_rfl (fun x => x) (fun x => x) (Nat.le_refl _) rfl (fun _ => rfl) (fun _ => banks_map hf _)
      (fun x => x) (fun x => x) (fun x => x) (fun x => x) (fun x => x) (fun x => x) (fun x => x) (fun x => x)
      (fun x => x) (fun x => x) (fun hx => tabSorted_map hx _) (fun x => x) (fun x => x) (fun x => x) (fun x => x) ht
  refine key _ _ (fun _ _ => rfl) (Kept.forN (fun p t ht => ?_) 4 h)
  split
  · exact State.failBound_kept _ _ (State.dropCommit_kept _ _ ht)
  · exact ht

theorem State.replayFailure_kept {pv : Bool} {s0 s : State} (r : Replay) (st : Nat) (hk : Kept pv s0 s) :
    Kept pv s0 (State.replayFailure s r st) := by
  dsimp only [State.replayFailure]
  repeat' first
    | with_reducible assumption
    | with_reducible apply State.finish_kept
    | with_reducible apply State.settle_kept
    | with_reducible apply State.closeCtx_kept
    | with_reducible apply State.unqueue_kept
    | with_reducible apply Kept.foldl
    | with_reducible apply Kept.foldlPair
    | split
    | with_reducible apply Kept.ite
    | with_reducible rfl
    | with_reducible exact fun x => x
    | with_reducible exact Nat.le_refl _
    | with_reducible exact List.prefix_rfl
    | with_reducible exact List.prefix_append _ _
    | with_reducible refine fun (hx : tabSorted _) => ?_
    | with_reducible apply tabSorted_map
    | with_reducible apply tabSorted_put
    | with_reducible apply tabSorted_erase
    | with_reducible apply tabSorted_filter
    | with_reducible exact tabSorted_nil
    | (show tabSorted _; assumption)
    | with_reducible exact ledgerOrdered_filter _
    | with_reducible exact fun hx => canon_filterRegs hx _
    | with_reducible exact fun _ _ => rfl
    | ((with_reducible refine fun _ _ => banks_map ?_ _ _) <;> exact fun _ _ => rfl)
    | exact fun _ => rfl
    | exact fun _ _ => rfl
    | (intro _ _ _)
    | (intro _ _)
    | dsimp only
    | dsimp only [id]
    | with_reducible apply Kept.upd

theorem State.replayEffect_kept {pv : Bool} {s0 s : State} (r : Replay) (result0 : Nat) (hk : Kept pv s0 s) :
    Kept pv s0 (State.replayEffect s r result0) := by
  dsimp only [State.replayEffect]
  repeat' first
    | with_reducible assumption
    | with_reducible apply State.finish_kept
    | with_reducible apply State.modReplay_kept
    | with_reducible apply State.runReplay_kept
    | refine State.mirrorAlloc_kept ‹_› ?_
    | with_reducible apply State.unqueue_kept
    | split
    | with_reducible apply Kept.ite
    | with_reducible rfl
    | with_reducible exact fun x => x
    | with_reducible exact Nat.le_refl _
    | with_reducible exact List.prefix_rfl
    | with_reducible exact List.prefix_append _ _
    | with_reducible refine fun (hx : tabSorted _) => ?_
    | with_reducible apply tabSorted_map
    | with_reducible apply tabSorted_put
    | with_reducible apply tabSorted_erase
    | with_reducible apply tabSorted_filter
    | with_reducible exact tabSorted_nil
    | (show tabSorted _; assumption)
    | with_reducible exact ledgerOrdered_filter _
    | with_reducible exact fun hx => canon_filterRegs hx _
    | with_reducible exact fun _ _ => rfl
    | ((with_reducible refine fun _ _ => banks_map ?_ _ _) <;> exact fun _ _ => rfl)
    | exact fun _ => rfl
    | exact fun _ _ => rfl
    | with_reducible apply Kept.upd

theorem State.advanceOne_kept {pv : Bool} {s0 s : State} (ring : Nat) (hk : Kept pv s0 s) :
    Kept pv s0 (State.advanceOne s ring) := by
  dsimp only [State.advanceOne]
  repeat' first
    | with_reducible assumption
    | with_reducible apply State.modCway_kept
    | split
    | with_reducible apply Kept.ite
    | with_reducible rfl
    | with_reducible exact fun x => x
    | with_reducible exact Nat.le_refl _
    | with_reducible exact List.prefix_rfl
    | with_reducible exact List.prefix_append _ _
    | with_reducible refine fun (hx : tabSorted _) => ?_
    | with_reducible apply tabSorted_map
    | with_reducible apply tabSorted_put
    | with_reducible apply tabSorted_erase
    | with_reducible apply tabSorted_filter
    | with_reducible exact tabSorted_nil
    | (show tabSorted _; assumption)
    | with_reducible exact ledgerOrdered_filter _
    | with_reducible exact fun hx => canon_filterRegs hx _
    | with_reducible exact fun _ _ => rfl
    | ((with_reducible refine fun _ _ => banks_map ?_ _ _) <;> exact fun _ _ => rfl)
    | exact fun _ => rfl
    | exact fun _ _ => rfl
    | with_reducible apply Kept.upd

theorem State.advance_kept {pv : Bool} {s0 s : State} (ring : Nat) (hk : Kept pv s0 s) :
    Kept pv s0 (State.advance s ring) := by
  dsimp only [State.advance]
  repeat' first
    | with_reducible assumption
    | with_reducible apply State.advanceOne_kept
    | with_reducible apply Kept.forN
    | split
    | with_reducible apply Kept.ite
    | (intro _ _ _)
    | (intro _ _)
    | dsimp only
    | dsimp only [id]

theorem State.undo_kept {pv : Bool} {s0 s : State} (r : Replay) (hk : Kept pv s0 s) :
    Kept pv s0 (State.undo s r) := by
  dsimp only [State.undo]
  repeat' first
    | with_reducible assumption
    | with_reducible apply State.setCtx_kept
    | with_reducible apply State.setObj_kept
    | with_reducible apply State.modObj_kept
    | with_reducible apply State.dropEntry_kept
    | with_reducible apply State.closeCtx_kept
    | with_reducible apply State.unqueue_kept
    | with_reducible apply Kept.foldl
    | with_reducible apply Kept.foldlPair
    | split
    | with_reducible apply Kept.ite
    | with_reducible rfl
    | with_reducible exact fun x => x
    | with_reducible exact Nat.le_refl _
    | with_reducible exact List.prefix_rfl
    | with_reducible exact List.prefix_append _ _
    | with_reducible refine fun (hx : tabSorted _) => ?_
    | with_reducible apply tabSorted_map
    | with_reducible apply tabSorted_put
    | with_reducible apply tabSorted_erase
    | with_reducible apply tabSorted_filter
    | with_reducible exact tabSorted_nil
    | (show tabSorted _; assumption)
    | with_reducible exact ledgerOrdered_filter _
    | with_reducible exact fun hx => canon_filterRegs hx _
    | with_reducible exact fun _ _ => rfl
    | ((with_reducible refine fun _ _ => banks_map ?_ _ _) <;> exact fun _ _ => rfl)
    | exact fun _ => rfl
    | exact fun _ _ => rfl
    | (intro _ _ _)
    | (intro _ _)
    | dsimp only
    | dsimp only [id]
    | with_reducible apply Kept.upd

theorem State.discardReplays_kept {pv : Bool} {s0 s : State}  (hk : Kept pv s0 s) :
    Kept pv s0 (State.discardReplays s) := by
  dsimp only [State.discardReplays]
  repeat' first
    | with_reducible assumption
    | with_reducible apply State.sweep_kept
    | with_reducible apply State.modCway_kept
    | with_reducible apply State.undo_kept
    | with_reducible apply Kept.foldl
    | with_reducible apply Kept.foldlPair
    | split
    | with_reducible apply Kept.ite
    | with_reducible rfl
    | with_reducible exact fun x => x
    | with_reducible exact Nat.le_refl _
    | with_reducible exact List.prefix_rfl
    | with_reducible exact List.prefix_append _ _
    | with_reducible refine fun (hx : tabSorted _) => ?_
    | with_reducible apply tabSorted_map
    | with_reducible apply tabSorted_put
    | with_reducible apply tabSorted_erase
    | with_reducible apply tabSorted_filter
    | with_reducible exact tabSorted_nil
    | (show tabSorted _; assumption)
    | with_reducible exact ledgerOrdered_filter _
    | with_reducible exact fun hx => canon_filterRegs hx _
    | with_reducible exact fun _ _ => rfl
    | ((with_reducible refine fun _ _ => banks_map ?_ _ _) <;> exact fun _ _ => rfl)
    | exact fun _ => rfl
    | exact fun _ _ => rfl
    | (intro _ _ _)
    | (intro _ _)
    | dsimp only
    | dsimp only [id]
    | with_reducible apply Kept.upd

theorem State.breakMirror_kept {pv : Bool} {s0 s : State}  (hk : Kept pv s0 s) :
    Kept pv s0 (State.breakMirror s) := by
  dsimp only [State.breakMirror]
  repeat' first
    | with_reducible assumption
    | with_reducible apply State.count_kept
    | with_reducible apply State.becomeStale_kept
    | with_reducible apply State.discardReplays_kept
    | split
    | with_reducible apply Kept.ite

theorem State.takeDone_kept {pv : Bool} {s0 s : State} (ring dseq : Nat) (body : List Byte) (hk : Kept pv s0 s) :
    Kept pv s0 (State.takeDone s ring dseq body) := by
  dsimp only [State.takeDone]
  repeat' first
    | with_reducible assumption
    | with_reducible apply State.modReplay_kept
    | with_reducible apply State.replayFailure_kept
    | with_reducible apply State.replayEffect_kept
    | with_reducible apply State.advance_kept
    | with_reducible apply State.breakMirror_kept
    | split
    | with_reducible apply Kept.ite
    | with_reducible rfl
    | with_reducible exact fun x => x
    | with_reducible exact Nat.le_refl _
    | with_reducible exact List.prefix_rfl
    | with_reducible exact List.prefix_append _ _
    | with_reducible refine fun (hx : tabSorted _) => ?_
    | with_reducible apply tabSorted_map
    | with_reducible apply tabSorted_put
    | with_reducible apply tabSorted_erase
    | with_reducible apply tabSorted_filter
    | with_reducible exact tabSorted_nil
    | (show tabSorted _; assumption)
    | with_reducible exact ledgerOrdered_filter _
    | with_reducible exact fun hx => canon_filterRegs hx _
    | with_reducible exact fun _ _ => rfl
    | ((with_reducible refine fun _ _ => banks_map ?_ _ _) <;> exact fun _ _ => rfl)
    | exact fun _ => rfl
    | exact fun _ _ => rfl
    | with_reducible apply Kept.upd

theorem State.mirrorStart_kept {pv : Bool} {s0 s : State} (p frame id : Nat) (d : Desc) (hk : Kept pv s0 s) :
    Kept pv s0 (State.mirrorStart s p frame id d) := by
  dsimp only [State.mirrorStart]
  repeat' first
    | with_reducible assumption
    | with_reducible apply State.modPort_kept
    | with_reducible apply State.begun_kept
    | with_reducible apply State.startTraining_kept
    | with_reducible apply State.leadIn_kept
    | with_reducible apply Kept.foldl
    | with_reducible apply Kept.foldlPair
    | split
    | with_reducible apply Kept.ite
    | with_reducible rfl
    | with_reducible exact fun x => x
    | with_reducible exact Nat.le_refl _
    | with_reducible exact List.prefix_rfl
    | with_reducible exact List.prefix_append _ _
    | with_reducible refine fun (hx : tabSorted _) => ?_
    | with_reducible apply tabSorted_map
    | with_reducible apply tabSorted_put
    | with_reducible apply tabSorted_erase
    | with_reducible apply tabSorted_filter
    | with_reducible exact tabSorted_nil
    | (show tabSorted _; assumption)
    | with_reducible exact ledgerOrdered_filter _
    | with_reducible exact fun hx => canon_filterRegs hx _
    | with_reducible exact fun _ _ => rfl
    | ((with_reducible refine fun _ _ => banks_map ?_ _ _) <;> exact fun _ _ => rfl)
    | exact fun _ => rfl
    | exact fun _ _ => rfl
    | exact fun _ _ => rfl
    | (refine fun _ => ?_; first | rfl | (dsimp only; simp; done))
    | (refine fun _ q => ?_; first | (dsimp only; simp; done) | (simp; done) | (dsimp only; split <;> first | rfl | (simp; done)))
    | (intro _ _ _)
    | (intro _ _)
    | dsimp only
    | dsimp only [id]
    | with_reducible apply Kept.upd

theorem State.applyStart_kept {pv : Bool} {s0 s : State} (a : ApplyItem) (hk : Kept pv s0 s) :
    Kept pv s0 (State.applyStart s a) := by
  dsimp only [State.applyStart]
  repeat' first
    | with_reducible assumption
    | with_reducible apply State.modPort_kept
    | with_reducible apply State.finish_kept
    | with_reducible apply State.mirrorStart_kept
    | with_reducible apply Kept.foldl
    | with_reducible apply Kept.foldlPair
    | split
    | with_reducible apply Kept.ite
    | with_reducible rfl
    | with_reducible exact fun x => x
    | with_reducible exact Nat.le_refl _
    | with_reducible exact List.prefix_rfl
    | with_reducible exact List.prefix_append _ _
    | with_reducible refine fun (hx : tabSorted _) => ?_
    | with_reducible apply tabSorted_map
    | with_reducible apply tabSorted_put
    | with_reducible apply tabSorted_erase
    | with_reducible apply tabSorted_filter
    | with_reducible exact tabSorted_nil
    | (show tabSorted _; assumption)
    | with_reducible exact ledgerOrdered_filter _
    | with_reducible exact fun hx => canon_filterRegs hx _
    | with_reducible exact fun _ _ => rfl
    | ((with_reducible refine fun _ _ => banks_map ?_ _ _) <;> exact fun _ _ => rfl)
    | exact fun _ => rfl
    | exact fun _ _ => rfl
    | exact fun _ _ => rfl
    | (refine fun _ => ?_; first | rfl | (dsimp only; simp; done))
    | (refine fun _ q => ?_; first | (dsimp only; simp; done) | (simp; done) | (dsimp only; split <;> first | rfl | (simp; done)))
    | (intro _ _ _)
    | (intro _ _)
    | dsimp only
    | dsimp only [id]
    | with_reducible apply Kept.upd

theorem State.takeApply_kept {pv : Bool} {s0 s : State} (ring dseq : Nat) (body : List Byte) (hk : Kept pv s0 s) :
    Kept pv s0 (State.takeApply s ring dseq body) := by
  dsimp only [State.takeApply]
  repeat' first
    | with_reducible assumption
    | with_reducible apply State.setPin_kept
    | with_reducible apply State.modCway_kept
    | with_reducible apply State.replayCal_kept
    | with_reducible apply State.applyStart_kept
    | with_reducible apply Kept.foldl
    | with_reducible apply Kept.foldlPair
    | split
    | with_reducible apply Kept.ite
    | with_reducible rfl
    | with_reducible exact fun x => x
    | with_reducible exact Nat.le_refl _
    | with_reducible exact List.prefix_rfl
    | with_reducible exact List.prefix_append _ _
    | with_reducible refine fun (hx : tabSorted _) => ?_
    | with_reducible apply tabSorted_map
    | with_reducible apply tabSorted_put
    | with_reducible apply tabSorted_erase
    | with_reducible apply tabSorted_filter
    | with_reducible exact tabSorted_nil
    | (show tabSorted _; assumption)
    | with_reducible exact ledgerOrdered_filter _
    | with_reducible exact fun hx => canon_filterRegs hx _
    | with_reducible exact fun _ _ => rfl
    | ((with_reducible refine fun _ _ => banks_map ?_ _ _) <;> exact fun _ _ => rfl)
    | exact fun _ => rfl
    | exact fun _ _ => rfl
    | (intro _ _ _)
    | (intro _ _)
    | dsimp only
    | dsimp only [id]
    | with_reducible apply Kept.upd

theorem State.clearForSnapshot_kept {pv : Bool} {s0 s : State}  (hk : Kept pv s0 s) :
    Kept pv s0 (State.clearForSnapshot s) := by
  dsimp only [State.clearForSnapshot]
  repeat' first
    | with_reducible assumption
    | with_reducible apply State.sweep_kept
    | with_reducible apply State.discardReplays_kept
    | split
    | with_reducible apply Kept.ite
    | with_reducible rfl
    | with_reducible exact fun x => x
    | with_reducible exact Nat.le_refl _
    | with_reducible exact List.prefix_rfl
    | with_reducible exact List.prefix_append _ _
    | with_reducible refine fun (hx : tabSorted _) => ?_
    | with_reducible apply tabSorted_map
    | with_reducible apply tabSorted_put
    | with_reducible apply tabSorted_erase
    | with_reducible apply tabSorted_filter
    | with_reducible exact tabSorted_nil
    | (show tabSorted _; assumption)
    | with_reducible exact ledgerOrdered_filter _
    | with_reducible exact fun hx => canon_filterRegs hx _
    | with_reducible exact fun _ _ => rfl
    | ((with_reducible refine fun _ _ => banks_map ?_ _ _) <;> exact fun _ _ => rfl)
    | exact fun _ => rfl
    | exact fun _ _ => rfl
    | with_reducible apply Kept.upd

theorem State.snapPort_banks (s : State) (p base : Nat) (x : Port) : (s.snapPort p base x).prot.banks = (s.port p).prot.banks :=
  rfl

theorem indexed_cons_map {α β : Type} (x : α) (xs : List α) (f : Nat × α → β) :
    (indexed (x :: xs)).map f = f (0, x) :: (indexed xs).map fun y => f (y.1 + 1, y.2) := by
  simp [indexed, List.range_succ_eq_map, List.zip_map_left, Function.comp_def]

theorem snapLedger_ordered (xs : List Entry) (base : Nat) {l : List Entry} (h : ledgerOrdered l base) :
    ledgerOrdered (l ++ (indexed xs).map (snapEntry base)) (base + ((indexed xs).map (snapEntry base)).length) := by
  induction xs generalizing base l with
  | nil => simpa [indexed] using h
  | cons x xs ih =>
    have h1 := ih (base + 1) (ledgerOrdered_append (snapEntry base (0, x)) (by simp [snapEntry]) h)
    have e : (fun y : Nat × Entry => snapEntry base (y.1 + 1, y.2)) = snapEntry (base + 1) := by
      funext y; simp [snapEntry, Nat.add_comm, Nat.add_left_comm]
    rw [indexed_cons_map, e, List.append_cons, List.length_cons]
    rw [Nat.add_assoc, Nat.add_comm 1] at h1
    exact h1

theorem State.nextId_forN {n : Nat} {f : Nat → State → State} (hf : ∀ i t, (f i t).nextId = t.nextId) (s : State) :
    (Machine.forN n f s).nextId = s.nextId := by
  unfold Machine.forN
  generalize List.range n = l
  induction l generalizing s with
  | nil => rfl
  | cons x l ih => rw [List.foldl_cons, ih, hf]

theorem State.takeState_kept {pv : Bool} {s0 s : State} (bs : List Byte) (h : Kept pv s0 s) : Kept pv s0 (s.takeState bs) := by
  unfold State.takeState
  refine State.modCway_kept _ ?_
  have k1 := Kept.forN (pv := pv) (s0 := s0) (f := fun p (t : State) => match Config.snapPort bs p with
    | some x => t.setPort p (t.snapPort p s.nextId x)
    | none => t) (fun i t ht => by split; exacts [State.setPort_kept _ _ (fun _ => rfl) ht, ht]) 4 h
  have n1 := State.nextId_forN (n := 4) (f := fun p (t : State) => match Config.snapPort bs p with
    | some x => t.setPort p (t.snapPort p s.nextId x)
    | none => t) (fun i t => by split <;> rfl) s
  have k2 := Kept.forN (pv := pv) (s0 := s0) (f := fun m (t : State) => match Config.snapCtx bs m with
    | some c => t.setCtx m c
    | none => t) (fun i t ht => by split; exacts [State.setCtx_kept _ _ ht, ht]) 20 k1
  have n2 := (State.nextId_forN (n := 20) (f := fun m (t : State) => match Config.snapCtx bs m with
    | some c => t.setCtx m c
    | none => t) (fun i t => by split <;> rfl) _).trans n1
  refine Kept.upd List.prefix_rfl id id (Nat.le_refl _) rfl (fun _ => rfl) (fun _ _ => rfl) id id id id id id id id id id id id id id (fun hl => ?_) k2
  exact snapLedger_ordered _ _ (Eq.mp (congrArg (ledgerOrdered _) n2) hl)

theorem State.takeSnapstate_kept {pv : Bool} {s0 s : State} (body : List Byte) (hk : Kept pv s0 s) :
    Kept pv s0 (State.takeSnapstate s body) := by
  dsimp only [State.takeSnapstate]
  repeat' first
    | with_reducible assumption
    | with_reducible apply State.tryMirrored_kept
    | with_reducible apply State.modCway_kept
    | with_reducible apply State.clearForSnapshot_kept
    | with_reducible apply State.takeState_kept
    | split
    | with_reducible apply Kept.ite
    | with_reducible rfl
    | with_reducible exact fun x => x
    | with_reducible exact Nat.le_refl _
    | with_reducible exact List.prefix_rfl
    | with_reducible exact List.prefix_append _ _
    | with_reducible refine fun (hx : tabSorted _) => ?_
    | with_reducible apply tabSorted_map
    | with_reducible apply tabSorted_put
    | with_reducible apply tabSorted_erase
    | with_reducible apply tabSorted_filter
    | with_reducible exact tabSorted_nil
    | (show tabSorted _; assumption)
    | with_reducible exact ledgerOrdered_filter _
    | with_reducible exact fun hx => canon_filterRegs hx _
    | with_reducible exact fun _ _ => rfl
    | ((with_reducible refine fun _ _ => banks_map ?_ _ _) <;> exact fun _ _ => rfl)
    | exact fun _ => rfl
    | exact fun _ _ => rfl
    | with_reducible apply Kept.upd

theorem State.takeSnapobj_kept {pv : Bool} {s0 s : State} (b : List Byte) (hk : Kept pv s0 s) :
    Kept pv s0 (State.takeSnapobj s b) := by
  dsimp only [State.takeSnapobj]
  repeat' first
    | with_reducible assumption
    | with_reducible apply State.modObj_kept
    | exact Kept.ofEq ‹_› (by apply State.createAt_kept; assumption)
    | with_reducible apply State.createAt_kept
    | with_reducible apply State.modCway_kept
    | with_reducible apply State.breakMirror_kept
    | split
    | with_reducible apply Kept.ite
    | with_reducible rfl
    | with_reducible exact fun x => x
    | with_reducible exact Nat.le_refl _
    | with_reducible exact List.prefix_rfl
    | with_reducible exact List.prefix_append _ _
    | with_reducible refine fun (hx : tabSorted _) => ?_
    | with_reducible apply tabSorted_map
    | with_reducible apply tabSorted_put
    | with_reducible apply tabSorted_erase
    | with_reducible apply tabSorted_filter
    | with_reducible exact tabSorted_nil
    | (show tabSorted _; assumption)
    | with_reducible exact ledgerOrdered_filter _
    | with_reducible exact fun hx => canon_filterRegs hx _
    | with_reducible exact fun _ _ => rfl
    | ((with_reducible refine fun _ _ => banks_map ?_ _ _) <;> exact fun _ _ => rfl)
    | exact fun _ => rfl
    | exact fun _ _ => rfl
    | with_reducible apply Kept.upd

theorem State.takeSnap_kept {pv : Bool} {s0 s : State} (last : Bool) (b : List Byte) (hk : Kept pv s0 s) :
    Kept pv s0 (State.takeSnap s last b) := by
  dsimp only [State.takeSnap]
  repeat' first
    | with_reducible assumption
    | with_reducible apply State.modObj_kept
    | split
    | with_reducible apply Kept.ite
    | with_reducible rfl
    | with_reducible exact fun x => x
    | with_reducible exact Nat.le_refl _
    | with_reducible exact List.prefix_rfl
    | with_reducible exact List.prefix_append _ _
    | with_reducible refine fun (hx : tabSorted _) => ?_
    | with_reducible apply tabSorted_map
    | with_reducible apply tabSorted_put
    | with_reducible apply tabSorted_erase
    | with_reducible apply tabSorted_filter
    | with_reducible exact tabSorted_nil
    | (show tabSorted _; assumption)
    | with_reducible exact ledgerOrdered_filter _
    | with_reducible exact fun hx => canon_filterRegs hx _
    | with_reducible exact fun _ _ => rfl
    | ((with_reducible refine fun _ _ => banks_map ?_ _ _) <;> exact fun _ _ => rfl)
    | exact fun _ => rfl
    | exact fun _ _ => rfl
    | with_reducible apply Kept.upd

theorem State.forceItem_kept {pv : Bool} {s0 s : State} (a : ApplyItem) (hk : Kept pv s0 s) :
    Kept pv s0 (State.forceItem s a) := by
  dsimp only [State.forceItem]
  repeat' first
    | with_reducible assumption
    | with_reducible apply State.modPort_kept
    | with_reducible apply State.modEntry_kept
    | with_reducible apply Kept.foldl
    | with_reducible apply Kept.foldlPair
    | split
    | with_reducible apply Kept.ite
    | with_reducible rfl
    | with_reducible exact fun x => x
    | with_reducible exact Nat.le_refl _
    | with_reducible exact List.prefix_rfl
    | with_reducible exact List.prefix_append _ _
    | with_reducible refine fun (hx : tabSorted _) => ?_
    | with_reducible apply tabSorted_map
    | with_reducible apply tabSorted_put
    | with_reducible apply tabSorted_erase
    | with_reducible apply tabSorted_filter
    | with_reducible exact tabSorted_nil
    | (show tabSorted _; assumption)
    | with_reducible exact ledgerOrdered_filter _
    | with_reducible exact fun hx => canon_filterRegs hx _
    | with_reducible exact fun _ _ => rfl
    | ((with_reducible refine fun _ _ => banks_map ?_ _ _) <;> exact fun _ _ => rfl)
    | exact fun _ => rfl
    | exact fun _ _ => rfl
    | exact fun _ _ => rfl
    | (refine fun _ => ?_; first | rfl | (dsimp only; simp; done))
    | (refine fun _ q => ?_; first | (dsimp only; simp; done) | (simp; done) | (dsimp only; split <;> first | rfl | (simp; done)))
    | exact fun _ => rfl
    | (intro _ _ _)
    | (intro _ _)
    | dsimp only
    | dsimp only [id]
    | with_reducible apply Kept.upd

theorem State.wakeRunning_kept {pv : Bool} {s0 s : State}  (hk : Kept pv s0 s) :
    Kept pv s0 (State.wakeRunning s) := by
  dsimp only [State.wakeRunning]
  repeat' first
    | with_reducible assumption
    | with_reducible apply State.wake_kept
    | with_reducible apply Kept.forN
    | split
    | with_reducible apply Kept.ite
    | exact Nat.le_refl _
    | (intro _ _ _)
    | (intro _ _)
    | dsimp only
    | dsimp only [id]
    | with_reducible apply Kept.upd

theorem State.takeover_kept {pv : Bool} {s0 s : State} (cause : Nat) (hk : Kept pv s0 s) :
    Kept pv s0 (State.takeover s cause) := by
  dsimp only [State.takeover]
  repeat' first
    | with_reducible assumption
    | with_reducible apply State.setReg_kept
    | with_reducible apply State.count_kept
    | with_reducible apply State.modRing_kept
    | with_reducible apply State.takeRole_kept
    | with_reducible apply State.raise_kept
    | with_reducible apply State.modCway_kept
    | with_reducible apply State.discardReplays_kept
    | with_reducible apply State.forceItem_kept
    | with_reducible apply State.wakeRunning_kept
    | with_reducible apply Kept.forN
    | with_reducible apply Kept.foldl
    | with_reducible apply Kept.foldlPair
    | split
    | with_reducible apply Kept.ite
    | with_reducible rfl
    | with_reducible exact fun x => x
    | with_reducible exact Nat.le_refl _
    | with_reducible exact List.prefix_rfl
    | with_reducible exact List.prefix_append _ _
    | with_reducible refine fun (hx : tabSorted _) => ?_
    | with_reducible apply tabSorted_map
    | with_reducible apply tabSorted_put
    | with_reducible apply tabSorted_erase
    | with_reducible apply tabSorted_filter
    | with_reducible exact tabSorted_nil
    | (show tabSorted _; assumption)
    | with_reducible exact ledgerOrdered_filter _
    | with_reducible exact fun hx => canon_filterRegs hx _
    | with_reducible exact fun _ _ => rfl
    | ((with_reducible refine fun _ _ => banks_map ?_ _ _) <;> exact fun _ _ => rfl)
    | exact fun _ => rfl
    | exact fun _ _ => rfl
    | (intro _ _ _)
    | (intro _ _)
    | dsimp only
    | dsimp only [id]
    | with_reducible apply Kept.upd

theorem State.cannotClaim_kept {pv : Bool} {s0 s : State} (cause : Nat) (hk : Kept pv s0 s) :
    Kept pv s0 (State.cannotClaim s cause) := by
  dsimp only [State.cannotClaim]
  repeat' first
    | with_reducible assumption
    | with_reducible apply State.raiseCore_kept
    | split
    | with_reducible apply Kept.ite

theorem State.trigger_kept {pv : Bool} {s0 s : State} (cause : Nat) (hk : Kept pv s0 s) :
    Kept pv s0 (State.trigger s cause) := by
  dsimp only [State.trigger]
  repeat' first
    | with_reducible assumption
    | with_reducible apply State.becomeStale_kept
    | with_reducible apply State.discardReplays_kept
    | with_reducible apply State.takeover_kept
    | with_reducible apply State.cannotClaim_kept
    | split
    | with_reducible apply Kept.ite
    | with_reducible rfl
    | with_reducible exact fun x => x
    | with_reducible exact Nat.le_refl _
    | with_reducible exact List.prefix_rfl
    | with_reducible exact List.prefix_append _ _
    | with_reducible refine fun (hx : tabSorted _) => ?_
    | with_reducible apply tabSorted_map
    | with_reducible apply tabSorted_put
    | with_reducible apply tabSorted_erase
    | with_reducible apply tabSorted_filter
    | with_reducible exact tabSorted_nil
    | (show tabSorted _; assumption)
    | with_reducible exact ledgerOrdered_filter _
    | with_reducible exact fun hx => canon_filterRegs hx _
    | with_reducible exact fun _ _ => rfl
    | ((with_reducible refine fun _ _ => banks_map ?_ _ _) <;> exact fun _ _ => rfl)
    | exact fun _ => rfl
    | exact fun _ _ => rfl
    | with_reducible apply Kept.upd

end Sys2Proof.Machine
end

