-- ==== Sys2Proof/Laws/KeptCauseway.lean ====
section
/-! SUPPORT. Every operation of Machine/Causeway.lean keeps what `Kept` says. -/

set_option linter.unusedTactic false
set_option linter.unreachableTactic false
set_option maxHeartbeats 200000
namespace Sys2Proof.Machine

theorem State.sendPlain_kept {pv : Bool} {s0 s : State} (type : Nat) (body : List Byte) (hk : Kept pv s0 s) :
    Kept pv s0 (State.sendPlain s type body) := by
  dsimp only [State.sendPlain]
  repeat' first
    | with_reducible assumption
    | with_reducible apply State.cwaySend_kept
    | split
    | with_reducible apply Kept.ite

theorem State.sendHello_kept {pv : Bool} {s0 s : State}  (hk : Kept pv s0 s) :
    Kept pv s0 (State.sendHello s) := by
  dsimp only [State.sendHello]
  repeat' first
    | with_reducible assumption
    | with_reducible apply State.modCway_kept
    | with_reducible apply State.sendPlain_kept
    | split
    | with_reducible apply Kept.ite
    | with_reducible rfl
    | with_reducible exact fun x => x
    | with_reducible exact Nat.le_refl _
    | with_reducible exact List.prefix_rfl
    | with_reducible exact List.prefix_append _ _
    | with_reducible refine fun (hx : tabSorted _) => ?_
    | with_reducible apply tabSorted_map
    | with_reducible apply tabSorted_put
    | with_reducible apply tabSorted_erase
    | with_reducible apply tabSorted_filter
    | with_reducible exact tabSorted_nil
    | (show tabSorted _; assumption)
    | with_reducible exact ledgerOrdered_filter _
    | with_reducible exact fun hx => canon_filterRegs hx _
    | with_reducible exact fun _ _ => rfl
    | ((with_reducible refine fun _ _ => banks_map ?_ _ _) <;> exact fun _ _ => rfl)
    | exact fun _ => rfl
    | exact fun _ _ => rfl
    | with_reducible apply Kept.upd

theorem State.sendAck_kept {pv : Bool} {s0 s : State}  (hk : Kept pv s0 s) :
    Kept pv s0 (State.sendAck s) := by
  dsimp only [State.sendAck]
  repeat' first
    | with_reducible assumption
    | with_reducible apply State.modCway_kept
    | with_reducible apply State.sendPlain_kept
    | split
    | with_reducible apply Kept.ite
    | with_reducible rfl
    | with_reducible exact fun x => x
    | with_reducible exact Nat.le_refl _
    | with_reducible exact List.prefix_rfl
    | with_reducible exact List.prefix_append _ _
    | with_reducible refine fun (hx : tabSorted _) => ?_
    | with_reducible apply tabSorted_map
    | with_reducible apply tabSorted_put
    | with_reducible apply tabSorted_erase
    | with_reducible apply tabSorted_filter
    | with_reducible exact tabSorted_nil
    | (show tabSorted _; assumption)
    | with_reducible exact ledgerOrdered_filter _
    | with_reducible exact fun hx => canon_filterRegs hx _
    | with_reducible exact fun _ _ => rfl
    | ((with_reducible refine fun _ _ => banks_map ?_ _ _) <;> exact fun _ _ => rfl)
    | exact fun _ => rfl
    | exact fun _ _ => rfl
    | with_reducible apply Kept.upd

theorem State.sendBreak_kept {pv : Bool} {s0 s : State}  (hk : Kept pv s0 s) :
    Kept pv s0 (State.sendBreak s) := by
  dsimp only [State.sendBreak]
  repeat' first
    | with_reducible assumption
    | with_reducible apply State.modCway_kept
    | with_reducible apply State.sendPlain_kept
    | split
    | with_reducible apply Kept.ite
    | with_reducible rfl
    | with_reducible exact fun x => x
    | with_reducible exact Nat.le_refl _
    | with_reducible exact List.prefix_rfl
    | with_reducible exact List.prefix_append _ _
    | with_reducible refine fun (hx : tabSorted _) => ?_
    | with_reducible apply tabSorted_map
    | with_reducible apply tabSorted_put
    | with_reducible apply tabSorted_erase
    | with_reducible apply tabSorted_filter
    | with_reducible exact tabSorted_nil
    | (show tabSorted _; assumption)
    | with_reducible exact ledgerOrdered_filter _
    | with_reducible exact fun hx => canon_filterRegs hx _
    | with_reducible exact fun _ _ => rfl
    | ((with_reducible refine fun _ _ => banks_map ?_ _ _) <;> exact fun _ _ => rfl)
    | exact fun _ => rfl
    | exact fun _ _ => rfl
    | with_reducible apply Kept.upd

theorem State.cwayComesUp_kept {pv : Bool} {s0 s : State}  (hk : Kept pv s0 s) :
    Kept pv s0 (State.cwayComesUp s) := by
  dsimp only [State.cwayComesUp]
  repeat' first
    | with_reducible assumption
    | with_reducible apply State.modCway_kept
    | with_reducible apply State.sendHello_kept
    | split
    | with_reducible apply Kept.ite
    | with_reducible rfl
    | with_reducible exact fun x => x
    | with_reducible exact Nat.le_refl _
    | with_reducible exact List.prefix_rfl
    | with_reducible exact List.prefix_append _ _
    | with_reducible refine fun (hx : tabSorted _) => ?_
    | with_reducible apply tabSorted_map
    | with_reducible apply tabSorted_put
    | with_reducible apply tabSorted_erase
    | with_reducible apply tabSorted_filter
    | with_reducible exact tabSorted_nil
    | (show tabSorted _; assumption)
    | with_reducible exact ledgerOrdered_filter _
    | with_reducible exact fun hx => canon_filterRegs hx _
    | with_reducible exact fun _ _ => rfl
    | ((with_reducible refine fun _ _ => banks_map ?_ _ _) <;> exact fun _ _ => rfl)
    | exact fun _ => rfl
    | exact fun _ _ => rfl
    | with_reducible apply Kept.upd

theorem State.cwayGoesDown_kept {pv : Bool} {s0 s : State}  (hk : Kept pv s0 s) :
    Kept pv s0 (State.cwayGoesDown s) := by
  dsimp only [State.cwayGoesDown]
  repeat' first
    | with_reducible assumption
    | with_reducible apply State.setBit_kept
    | with_reducible apply State.breakLog_kept
    | with_reducible apply State.modCway_kept
    | with_reducible apply State.breakMirror_kept
    | split
    | with_reducible apply Kept.ite
    | with_reducible rfl
    | with_reducible exact fun x => x
    | with_reducible exact Nat.le_refl _
    | with_reducible exact List.prefix_rfl
    | with_reducible exact List.prefix_append _ _
    | with_reducible refine fun (hx : tabSorted _) => ?_
    | with_reducible apply tabSorted_map
    | with_reducible apply tabSorted_put
    | with_reducible apply tabSorted_erase
    | with_reducible apply tabSorted_filter
    | with_reducible exact tabSorted_nil
    | (show tabSorted _; assumption)
    | with_reducible exact ledgerOrdered_filter _
    | with_reducible exact fun hx => canon_filterRegs hx _
    | with_reducible exact fun _ _ => rfl
    | ((with_reducible refine fun _ _ => banks_map ?_ _ _) <;> exact fun _ _ => rfl)
    | exact fun _ => rfl
    | exact fun _ _ => rfl
    | with_reducible apply Kept.upd

theorem execCausewayDown_kept (pv : Bool) (s : State)  :
    KeptBy pv s (execCausewayDown s) := by
  dsimp only [execCausewayDown]
  have hk := Kept.refl pv s
  repeat' first
    | with_reducible apply KeptBy.next
    | with_reducible assumption
    | with_reducible apply State.cwayGoesDown_kept
    | split
    | with_reducible apply Kept.ite

theorem State.cwayLaneLost_kept {pv : Bool} {s0 s : State} (receive : Bool) (lane : Nat) (hk : Kept pv s0 s) :
    Kept pv s0 (State.cwayLaneLost s receive lane) := by
  dsimp only [State.cwayLaneLost]
  repeat' first
    | with_reducible assumption
    | with_reducible apply State.modCway_kept
    | with_reducible apply State.cwayGoesDown_kept
    | split
    | with_reducible apply Kept.ite
    | with_reducible rfl
    | with_reducible exact fun x => x
    | with_reducible exact Nat.le_refl _
    | with_reducible exact List.prefix_rfl
    | with_reducible exact List.prefix_append _ _
    | with_reducible refine fun (hx : tabSorted _) => ?_
    | with_reducible apply tabSorted_map
    | with_reducible apply tabSorted_put
    | with_reducible apply tabSorted_erase
    | with_reducible apply tabSorted_filter
    | with_reducible exact tabSorted_nil
    | (show tabSorted _; assumption)
    | with_reducible exact ledgerOrdered_filter _
    | with_reducible exact fun hx => canon_filterRegs hx _
    | with_reducible exact fun _ _ => rfl
    | ((with_reducible refine fun _ _ => banks_map ?_ _ _) <;> exact fun _ _ => rfl)
    | exact fun _ => rfl
    | exact fun _ _ => rfl
    | with_reducible apply Kept.upd

theorem execCausewayLaneLost_kept (pv : Bool) (s : State) (receive : Bool) (lane : Fin 2) :
    KeptBy pv s (execCausewayLaneLost receive lane s) := by
  dsimp only [execCausewayLaneLost]
  have hk := Kept.refl pv s
  repeat' first
    | with_reducible apply KeptBy.next
    | with_reducible assumption
    | with_reducible apply State.cwayLaneLost_kept
    | split
    | with_reducible apply Kept.ite

theorem State.onRecord_kept {pv : Bool} {s0 s : State} (type : Nat) (bs : List Byte) (f : State → State) (hf : ∀ t, Kept pv s0 t → Kept pv s0 (f t)) (hk : Kept pv s0 s) :
    Kept pv s0 (State.onRecord s type bs f) := by
  dsimp only [State.onRecord]
  repeat' first
    | with_reducible assumption
    | with_reducible apply State.modCway_kept
    | with_reducible apply State.breakMirror_kept
    | with_reducible apply hf
    | split
    | with_reducible apply Kept.ite
    | with_reducible rfl
    | with_reducible exact fun x => x
    | with_reducible exact Nat.le_refl _
    | with_reducible exact List.prefix_rfl
    | with_reducible exact List.prefix_append _ _
    | with_reducible refine fun (hx : tabSorted _) => ?_
    | with_reducible apply tabSorted_map
    | with_reducible apply tabSorted_put
    | with_reducible apply tabSorted_erase
    | with_reducible apply tabSorted_filter
    | with_reducible exact tabSorted_nil
    | (show tabSorted _; assumption)
    | with_reducible exact ledgerOrdered_filter _
    | with_reducible exact fun hx => canon_filterRegs hx _
    | with_reducible exact fun _ _ => rfl
    | ((with_reducible refine fun _ _ => banks_map ?_ _ _) <;> exact fun _ _ => rfl)
    | exact fun _ => rfl
    | exact fun _ _ => rfl
    | (intro _ _ _)
    | (intro _ _)
    | dsimp only
    | dsimp only [id]
    | with_reducible apply Kept.upd

theorem State.onLog_kept {pv : Bool} {s0 s : State} (type : Nat) (bs : List Byte) (f : State → State) (hf : ∀ t, Kept pv s0 t → Kept pv s0 (f t)) (hk : Kept pv s0 s) :
    Kept pv s0 (State.onLog s type bs f) := by
  dsimp only [State.onLog]
  repeat' first
    | with_reducible assumption
    | with_reducible apply State.onRecord_kept
    | with_reducible apply hf
    | split
    | with_reducible apply Kept.ite
    | (intro _ _ _)
    | (intro _ _)
    | dsimp only
    | dsimp only [id]

theorem execIdleRecord_kept (pv : Bool) (s : State) (record : List Byte) :
    KeptBy pv s (execIdleRecord record s) := by
  dsimp only [execIdleRecord]
  have hk := Kept.refl pv s
  repeat' first
    | with_reducible apply KeptBy.next
    | with_reducible assumption
    | with_reducible apply State.onRecord_kept
    | split
    | with_reducible apply Kept.ite
    | (intro _ _ _)
    | (intro _ _)
    | dsimp only
    | dsimp only [id]

theorem execDescRecord_kept (pv : Bool) (s : State) (record : List Byte) :
    KeptBy pv s (execDescRecord record s) := by
  dsimp only [execDescRecord]
  have hk := Kept.refl pv s
  repeat' first
    | with_reducible apply KeptBy.next
    | with_reducible assumption
    | with_reducible apply State.takeDesc_kept
    | with_reducible apply State.onLog_kept
    | split
    | with_reducible apply Kept.ite
    | (intro _ _ _)
    | (intro _ _)
    | dsimp only
    | dsimp only [id]

theorem execDataRecord_kept (pv : Bool) (s : State) (record : List Byte) :
    KeptBy pv s (execDataRecord record s) := by
  dsimp only [execDataRecord]
  have hk := Kept.refl pv s
  repeat' first
    | with_reducible apply KeptBy.next
    | with_reducible assumption
    | with_reducible apply State.takeData_kept
    | with_reducible apply State.onLog_kept
    | split
    | with_reducible apply Kept.ite
    | (intro _ _ _)
    | (intro _ _)
    | dsimp only
    | dsimp only [id]

theorem execDoneRecord_kept (pv : Bool) (s : State) (record : List Byte) :
    KeptBy pv s (execDoneRecord record s) := by
  dsimp only [execDoneRecord]
  have hk := Kept.refl pv s
  repeat' first
    | with_reducible apply KeptBy.next
    | with_reducible assumption
    | with_reducible apply State.takeDone_kept
    | with_reducible apply State.onLog_kept
    | split
    | with_reducible apply Kept.ite
    | (intro _ _ _)
    | (intro _ _)
    | dsimp only
    | dsimp only [id]

theorem execApplyRecord_kept (pv : Bool) (s : State) (record : List Byte) :
    KeptBy pv s (execApplyRecord record s) := by
  dsimp only [execApplyRecord]
  have hk := Kept.refl pv s
  repeat' first
    | with_reducible apply KeptBy.next
    | with_reducible assumption
    | with_reducible apply State.takeApply_kept
    | with_reducible apply State.onLog_kept
    | split
    | with_reducible apply Kept.ite
    | (intro _ _ _)
    | (intro _ _)
    | dsimp only
    | dsimp only [id]

theorem State.takeRegs_kept {pv : Bool} {s0 s : State} (body : List Byte) (hk : Kept pv s0 s) :
    Kept pv s0 (State.takeRegs s body) := by
  dsimp only [State.takeRegs]
  repeat' first
    | with_reducible assumption
    | with_reducible apply State.writeMirrored_kept
    | with_reducible apply Kept.forN
    | split
    | with_reducible apply Kept.ite
    | (intro _ _ _)
    | (intro _ _)
    | dsimp only
    | dsimp only [id]

theorem execRegRecord_kept (pv : Bool) (s : State) (record : List Byte) :
    KeptBy pv s (execRegRecord record s) := by
  dsimp only [execRegRecord]
  have hk := Kept.refl pv s
  repeat' first
    | with_reducible apply KeptBy.next
    | with_reducible assumption
    | with_reducible apply State.onLog_kept
    | with_reducible apply State.takeRegs_kept
    | split
    | with_reducible apply Kept.ite
    | (intro _ _ _)
    | (intro _ _)
    | dsimp only
    | dsimp only [id]

theorem execSnapobjRecord_kept (pv : Bool) (s : State) (record : List Byte) :
    KeptBy pv s (execSnapobjRecord record s) := by
  dsimp only [execSnapobjRecord]
  have hk := Kept.refl pv s
  repeat' first
    | with_reducible apply KeptBy.next
    | with_reducible assumption
    | with_reducible apply State.takeSnapobj_kept
    | with_reducible apply State.onLog_kept
    | split
    | with_reducible apply Kept.ite
    | (intro _ _ _)
    | (intro _ _)
    | dsimp only
    | dsimp only [id]

theorem execSnapRecord_kept (pv : Bool) (s : State) (record : List Byte) :
    KeptBy pv s (execSnapRecord record s) := by
  dsimp only [execSnapRecord]
  have hk := Kept.refl pv s
  repeat' first
    | with_reducible apply KeptBy.next
    | with_reducible assumption
    | with_reducible apply State.takeSnap_kept
    | with_reducible apply State.onLog_kept
    | split
    | with_reducible apply Kept.ite
    | (intro _ _ _)
    | (intro _ _)
    | dsimp only
    | dsimp only [id]

theorem execSnapstateRecord_kept (pv : Bool) (s : State) (record : List Byte) :
    KeptBy pv s (execSnapstateRecord record s) := by
  dsimp only [execSnapstateRecord]
  have hk := Kept.refl pv s
  repeat' first
    | with_reducible apply KeptBy.next
    | with_reducible assumption
    | with_reducible apply State.takeSnapstate_kept
    | with_reducible apply State.onLog_kept
    | split
    | with_reducible apply Kept.ite
    | (intro _ _ _)
    | (intro _ _)
    | dsimp only
    | dsimp only [id]

theorem execBreakRecord_kept (pv : Bool) (s : State) (record : List Byte) :
    KeptBy pv s (execBreakRecord record s) := by
  dsimp only [execBreakRecord]
  have hk := Kept.refl pv s
  repeat' first
    | with_reducible apply KeptBy.next
    | with_reducible assumption
    | with_reducible apply State.breakMirror_kept
    | with_reducible apply State.onLog_kept
    | split
    | with_reducible apply Kept.ite
    | (intro _ _ _)
    | (intro _ _)
    | dsimp only
    | dsimp only [id]

theorem State.takeFault_kept {pv : Bool} {s0 s : State} (b : List Byte) (hk : Kept pv s0 s) :
    Kept pv s0 (State.takeFault s b) := by
  dsimp only [State.takeFault]
  repeat' first
    | with_reducible assumption
    | with_reducible apply State.raise_kept
    | with_reducible apply State.trigger_kept
    | split
    | with_reducible apply Kept.ite

theorem execFaultRecord_kept (pv : Bool) (s : State) (record : List Byte) :
    KeptBy pv s (execFaultRecord record s) := by
  dsimp only [execFaultRecord]
  have hk := Kept.refl pv s
  repeat' first
    | with_reducible apply KeptBy.next
    | with_reducible assumption
    | with_reducible apply State.onRecord_kept
    | with_reducible apply State.takeFault_kept
    | split
    | with_reducible apply Kept.ite
    | (intro _ _ _)
    | (intro _ _)
    | dsimp only
    | dsimp only [id]

theorem execResignRecord_kept (pv : Bool) (s : State) (record : List Byte) :
    KeptBy pv s (execResignRecord record s) := by
  dsimp only [execResignRecord]
  have hk := Kept.refl pv s
  repeat' first
    | with_reducible apply KeptBy.next
    | with_reducible assumption
    | with_reducible apply State.trigger_kept
    | with_reducible apply State.onRecord_kept
    | split
    | with_reducible apply Kept.ite
    | (intro _ _ _)
    | (intro _ _)
    | dsimp only
    | dsimp only [id]

theorem State.sendContent_kept {pv : Bool} {s0 s : State} (o : Obj) (hk : Kept pv s0 s) :
    Kept pv s0 (State.sendContent s o) := by
  dsimp only [State.sendContent]
  repeat' first
    | with_reducible assumption
    | with_reducible apply State.cwaySend_kept
    | with_reducible apply Kept.forN
    | split
    | with_reducible apply Kept.ite
    | (intro _ _ _)
    | (intro _ _)
    | dsimp only
    | dsimp only [id]

theorem State.sendState_kept {pv : Bool} {s0 s : State}  (hk : Kept pv s0 s) :
    Kept pv s0 (State.sendState s) := by
  dsimp only [State.sendState]
  repeat' first
    | with_reducible assumption
    | with_reducible apply State.sendPlain_kept
    | split
    | with_reducible apply Kept.ite

theorem State.startSnapshot_kept {pv : Bool} {s0 s : State}  (hk : Kept pv s0 s) :
    Kept pv s0 (State.startSnapshot s) := by
  dsimp only [State.startSnapshot]
  repeat' first
    | with_reducible assumption
    | with_reducible apply State.modCway_kept
    | with_reducible apply State.sendPlain_kept
    | with_reducible apply State.sendContent_kept
    | with_reducible apply State.sendState_kept
    | with_reducible apply Kept.foldl
    | with_reducible apply Kept.foldlPair
    | split
    | with_reducible apply Kept.ite
    | with_reducible rfl
    | with_reducible exact fun x => x
    | with_reducible exact Nat.le_refl _
    | with_reducible exact List.prefix_rfl
    | with_reducible exact List.prefix_append _ _
    | with_reducible refine fun (hx : tabSorted _) => ?_
    | with_reducible apply tabSorted_map
    | with_reducible apply tabSorted_put
    | with_reducible apply tabSorted_erase
    | with_reducible apply tabSorted_filter
    | with_reducible exact tabSorted_nil
    | (show tabSorted _; assumption)
    | with_reducible exact ledgerOrdered_filter _
    | with_reducible exact fun hx => canon_filterRegs hx _
    | with_reducible exact fun _ _ => rfl
    | ((with_reducible refine fun _ _ => banks_map ?_ _ _) <;> exact fun _ _ => rfl)
    | exact fun _ => rfl
    | exact fun _ _ => rfl
    | (intro _ _ _)
    | (intro _ _)
    | dsimp only
    | dsimp only [id]
    | with_reducible apply Kept.upd

theorem State.serveCatchup_kept {pv : Bool} {s0 s : State} (peerRole : Nat) (hk : Kept pv s0 s) :
    Kept pv s0 (State.serveCatchup s peerRole) := by
  dsimp only [State.serveCatchup]
  repeat' first
    | with_reducible assumption
    | with_reducible apply State.startSnapshot_kept
    | split
    | with_reducible apply Kept.ite

theorem State.standDown_kept {pv : Bool} {s0 s : State} (r : Role) (hk : Kept pv s0 s) :
    Kept pv s0 (State.standDown s r) := by
  dsimp only [State.standDown]
  repeat' first
    | with_reducible assumption
    | with_reducible apply State.takeRole_kept
    | with_reducible apply State.sweep_kept
    | with_reducible apply State.dropEntry_kept
    | with_reducible apply State.enterPower_kept
    | with_reducible apply State.modCway_kept
    | with_reducible apply State.unqueue_kept
    | with_reducible apply Kept.forN
    | with_reducible apply Kept.foldl
    | with_reducible apply Kept.foldlPair
    | split
    | with_reducible apply Kept.ite
    | with_reducible rfl
    | with_reducible exact fun x => x
    | with_reducible exact Nat.le_refl _
    | with_reducible exact List.prefix_rfl
    | with_reducible exact List.prefix_append _ _
    | with_reducible refine fun (hx : tabSorted _) => ?_
    | with_reducible apply tabSorted_map
    | with_reducible apply tabSorted_put
    | with_reducible apply tabSorted_erase
    | with_reducible apply tabSorted_filter
    | with_reducible exact tabSorted_nil
    | (show tabSorted _; assumption)
    | with_reducible exact ledgerOrdered_filter _
    | with_reducible exact fun hx => canon_filterRegs hx _
    | with_reducible exact fun _ _ => rfl
    | ((with_reducible refine fun _ _ => banks_map ?_ _ _) <;> exact fun _ _ => rfl)
    | exact fun _ => rfl
    | exact fun _ _ => rfl
    | exact Nat.le_refl _
    | (refine ledgerOrdered_map fun e => ?_; split <;> first | rfl | (split <;> rfl))
    | (intro _ _ _)
    | (intro _ _)
    | dsimp only
    | dsimp only [id]
    | with_reducible apply Kept.upd

theorem State.finishResign_kept {pv : Bool} {s0 s : State} (r : Role) (hk : Kept pv s0 s) :
    Kept pv s0 (State.finishResign s r) := by
  dsimp only [State.finishResign]
  repeat' first
    | with_reducible assumption
    | with_reducible apply State.resignLease_kept
    | with_reducible apply State.sendPlain_kept
    | with_reducible apply State.standDown_kept
    | with_reducible apply Kept.forN
    | split
    | with_reducible apply Kept.ite
    | (intro _ _ _)
    | (intro _ _)
    | dsimp only
    | dsimp only [id]

theorem State.cwayResign_kept {pv : Bool} {s0 s : State}  (hk : Kept pv s0 s) :
    Kept pv s0 (State.cwayResign s) := by
  dsimp only [State.cwayResign]
  repeat' first
    | with_reducible assumption
    | with_reducible apply State.setBit_kept
    | with_reducible apply State.modCway_kept
    | split
    | with_reducible apply Kept.ite
    | with_reducible rfl
    | with_reducible exact fun x => x
    | with_reducible exact Nat.le_refl _
    | with_reducible exact List.prefix_rfl
    | with_reducible exact List.prefix_append _ _
    | with_reducible refine fun (hx : tabSorted _) => ?_
    | with_reducible apply tabSorted_map
    | with_reducible apply tabSorted_put
    | with_reducible apply tabSorted_erase
    | with_reducible apply tabSorted_filter
    | with_reducible exact tabSorted_nil
    | (show tabSorted _; assumption)
    | with_reducible exact ledgerOrdered_filter _
    | with_reducible exact fun hx => canon_filterRegs hx _
    | with_reducible exact fun _ _ => rfl
    | ((with_reducible refine fun _ _ => banks_map ?_ _ _) <;> exact fun _ _ => rfl)
    | exact fun _ => rfl
    | exact fun _ _ => rfl
    | with_reducible apply Kept.upd

theorem execCwayResign_kept (pv : Bool) (s : State)  :
    KeptBy pv s (execCwayResign s) := by
  dsimp only [execCwayResign]
  have hk := Kept.refl pv s
  repeat' first
    | with_reducible apply KeptBy.next
    | with_reducible assumption
    | with_reducible apply State.cwayResign_kept
    | split
    | with_reducible apply Kept.ite

theorem execResignWaitTimeout_kept (pv : Bool) (s : State)  :
    KeptBy pv s (execResignWaitTimeout s) := by
  dsimp only [execResignWaitTimeout]
  have hk := Kept.refl pv s
  repeat' first
    | with_reducible apply KeptBy.next
    | with_reducible assumption
    | with_reducible apply State.finishResign_kept
    | split
    | with_reducible apply Kept.ite

theorem State.takeAck_kept {pv : Bool} {s0 s : State} (b : List Byte) (hk : Kept pv s0 s) :
    Kept pv s0 (State.takeAck s b) := by
  dsimp only [State.takeAck]
  repeat' first
    | with_reducible assumption
    | with_reducible apply State.setReg_kept
    | with_reducible apply State.setField_kept
    | with_reducible apply State.later_kept
    | with_reducible apply State.modCway_kept
    | with_reducible apply State.sendBreak_kept
    | with_reducible apply State.serveCatchup_kept
    | with_reducible apply State.finishResign_kept
    | split
    | with_reducible apply Kept.ite
    | with_reducible rfl
    | with_reducible exact fun x => x
    | with_reducible exact Nat.le_refl _
    | with_reducible exact List.prefix_rfl
    | with_reducible exact List.prefix_append _ _
    | with_reducible refine fun (hx : tabSorted _) => ?_
    | with_reducible apply tabSorted_map
    | with_reducible apply tabSorted_put
    | with_reducible apply tabSorted_erase
    | with_reducible apply tabSorted_filter
    | with_reducible exact tabSorted_nil
    | (show tabSorted _; assumption)
    | with_reducible exact ledgerOrdered_filter _
    | with_reducible exact fun hx => canon_filterRegs hx _
    | with_reducible exact fun _ _ => rfl
    | ((with_reducible refine fun _ _ => banks_map ?_ _ _) <;> exact fun _ _ => rfl)
    | exact fun _ => rfl
    | exact fun _ _ => rfl
    | with_reducible apply Kept.upd

theorem execAckRecord_kept (pv : Bool) (s : State) (record : List Byte) :
    KeptBy pv s (execAckRecord record s) := by
  dsimp only [execAckRecord]
  have hk := Kept.refl pv s
  repeat' first
    | with_reducible apply KeptBy.next
    | with_reducible assumption
    | with_reducible apply State.onRecord_kept
    | with_reducible apply State.takeAck_kept
    | split
    | with_reducible apply Kept.ite
    | (intro _ _ _)
    | (intro _ _)
    | dsimp only
    | dsimp only [id]

theorem State.form_kept {pv : Bool} {s0 s : State}  (hk : Kept pv s0 s) :
    Kept pv s0 (State.form s) := by
  dsimp only [State.form]
  repeat' first
    | with_reducible assumption
    | with_reducible apply State.takeRole_kept
    | with_reducible apply State.kickAll_kept
    | with_reducible apply State.bootStart_kept
    | with_reducible apply State.startPosts_kept
    | with_reducible apply State.modCway_kept
    | split
    | with_reducible apply Kept.ite
    | with_reducible rfl
    | with_reducible exact fun x => x
    | with_reducible exact Nat.le_refl _
    | with_reducible exact List.prefix_rfl
    | with_reducible exact List.prefix_append _ _
    | with_reducible refine fun (hx : tabSorted _) => ?_
    | with_reducible apply tabSorted_map
    | with_reducible apply tabSorted_put
    | with_reducible apply tabSorted_erase
    | with_reducible apply tabSorted_filter
    | with_reducible exact tabSorted_nil
    | (show tabSorted _; assumption)
    | with_reducible exact ledgerOrdered_filter _
    | with_reducible exact fun hx => canon_filterRegs hx _
    | with_reducible exact fun _ _ => rfl
    | ((with_reducible refine fun _ _ => banks_map ?_ _ _) <;> exact fun _ _ => rfl)
    | exact fun _ => rfl
    | exact fun _ _ => rfl
    | exact Nat.le_refl _
    | with_reducible apply Kept.upd

theorem State.takeHello_kept {pv : Bool} {s0 s : State} (b : List Byte) (hk : Kept pv s0 s) :
    Kept pv s0 (State.takeHello s b) := by
  dsimp only [State.takeHello]
  repeat' first
    | with_reducible assumption
    | with_reducible apply State.takeRole_kept
    | with_reducible apply State.startPosts_kept
    | with_reducible apply State.modCway_kept
    | with_reducible apply State.serveCatchup_kept
    | with_reducible apply State.form_kept
    | split
    | with_reducible apply Kept.ite
    | with_reducible rfl
    | with_reducible exact fun x => x
    | with_reducible exact Nat.le_refl _
    | with_reducible exact List.prefix_rfl
    | with_reducible exact List.prefix_append _ _
    | with_reducible refine fun (hx : tabSorted _) => ?_
    | with_reducible apply tabSorted_map
    | with_reducible apply tabSorted_put
    | with_reducible apply tabSorted_erase
    | with_reducible apply tabSorted_filter
    | with_reducible exact tabSorted_nil
    | (show tabSorted _; assumption)
    | with_reducible exact ledgerOrdered_filter _
    | with_reducible exact fun hx => canon_filterRegs hx _
    | with_reducible exact fun _ _ => rfl
    | ((with_reducible refine fun _ _ => banks_map ?_ _ _) <;> exact fun _ _ => rfl)
    | exact fun _ => rfl
    | exact fun _ _ => rfl
    | exact Nat.le_refl _
    | with_reducible apply Kept.upd

theorem execHelloRecord_kept (pv : Bool) (s : State) (record : List Byte) :
    KeptBy pv s (execHelloRecord record s) := by
  dsimp only [execHelloRecord]
  have hk := Kept.refl pv s
  repeat' first
    | with_reducible apply KeptBy.next
    | with_reducible assumption
    | with_reducible apply State.onRecord_kept
    | with_reducible apply State.takeHello_kept
    | split
    | with_reducible apply Kept.ite
    | (intro _ _ _)
    | (intro _ _)
    | dsimp only
    | dsimp only [id]

theorem execPairHelloTimeout_kept (pv : Bool) (s : State)  :
    KeptBy pv s (execPairHelloTimeout s) := by
  dsimp only [execPairHelloTimeout]
  have hk := Kept.refl pv s
  repeat' first
    | with_reducible apply KeptBy.next
    | with_reducible assumption
    | with_reducible apply State.takeRole_kept
    | with_reducible apply State.kickAll_kept
    | with_reducible apply State.bootStart_kept
    | with_reducible apply State.modCway_kept
    | split
    | with_reducible apply Kept.ite
    | with_reducible rfl
    | with_reducible exact fun x => x
    | with_reducible exact Nat.le_refl _
    | with_reducible exact List.prefix_rfl
    | with_reducible exact List.prefix_append _ _
    | with_reducible refine fun (hx : tabSorted _) => ?_
    | with_reducible apply tabSorted_map
    | with_reducible apply tabSorted_put
    | with_reducible apply tabSorted_erase
    | with_reducible apply tabSorted_filter
    | with_reducible exact tabSorted_nil
    | (show tabSorted _; assumption)
    | with_reducible exact ledgerOrdered_filter _
    | with_reducible exact fun hx => canon_filterRegs hx _
    | with_reducible exact fun _ _ => rfl
    | ((with_reducible refine fun _ _ => banks_map ?_ _ _) <;> exact fun _ _ => rfl)
    | exact fun _ => rfl
    | exact fun _ _ => rfl
    | with_reducible apply Kept.upd

theorem execPowerOnTransmitTest_kept (pv : Bool) (s : State)  :
    KeptBy pv s (execPowerOnTransmitTest s) := by
  dsimp only [execPowerOnTransmitTest]
  have hk := Kept.refl pv s
  repeat' first
    | with_reducible apply KeptBy.next
    | with_reducible assumption
    | with_reducible apply State.startPosts_kept
    | split
    | with_reducible apply Kept.ite

theorem State.takeTrainRecord_kept {pv : Bool} {s0 s : State} (b : List Byte) (hk : Kept pv s0 s) :
    Kept pv s0 (State.takeTrainRecord s b) := by
  dsimp only [State.takeTrainRecord]
  repeat' first
    | with_reducible assumption
    | with_reducible apply State.trainRequest_kept
    | with_reducible apply State.modCway_kept
    | with_reducible apply State.cwayComesUp_kept
    | split
    | with_reducible apply Kept.ite
    | with_reducible rfl
    | with_reducible exact fun x => x
    | with_reducible exact Nat.le_refl _
    | with_reducible exact List.prefix_rfl
    | with_reducible exact List.prefix_append _ _
    | with_reducible refine fun (hx : tabSorted _) => ?_
    | with_reducible apply tabSorted_map
    | with_reducible apply tabSorted_put
    | with_reducible apply tabSorted_erase
    | with_reducible apply tabSorted_filter
    | with_reducible exact tabSorted_nil
    | (show tabSorted _; assumption)
    | with_reducible exact ledgerOrdered_filter _
    | with_reducible exact fun hx => canon_filterRegs hx _
    | with_reducible exact fun _ _ => rfl
    | ((with_reducible refine fun _ _ => banks_map ?_ _ _) <;> exact fun _ _ => rfl)
    | exact fun _ => rfl
    | exact fun _ _ => rfl
    | with_reducible apply Kept.upd

theorem execTrainRecord_kept (pv : Bool) (s : State) (record : List Byte) :
    KeptBy pv s (execTrainRecord record s) := by
  dsimp only [execTrainRecord]
  have hk := Kept.refl pv s
  repeat' first
    | with_reducible apply KeptBy.next
    | with_reducible assumption
    | with_reducible apply State.onRecord_kept
    | with_reducible apply State.takeTrainRecord_kept
    | split
    | with_reducible apply Kept.ite
    | exact Nat.le_refl _
    | (intro _ _ _)
    | (intro _ _)
    | dsimp only
    | dsimp only [id]
    | with_reducible apply Kept.upd

theorem execCausewayIdleTimer_kept (pv : Bool) (s : State)  :
    KeptBy pv s (execCausewayIdleTimer s) := by
  dsimp only [execCausewayIdleTimer]
  have hk := Kept.refl pv s
  repeat' first
    | with_reducible apply KeptBy.next
    | with_reducible assumption
    | with_reducible apply State.sendPlain_kept
    | split
    | with_reducible apply Kept.ite

theorem execAckTimer_kept (pv : Bool) (s : State)  :
    KeptBy pv s (execAckTimer s) := by
  dsimp only [execAckTimer]
  have hk := Kept.refl pv s
  repeat' first
    | with_reducible apply KeptBy.next
    | with_reducible assumption
    | with_reducible apply State.tryMirrored_kept
    | with_reducible apply State.sendAck_kept
    | split
    | with_reducible apply Kept.ite

theorem execHelloTimer_kept (pv : Bool) (s : State)  :
    KeptBy pv s (execHelloTimer s) := by
  dsimp only [execHelloTimer]
  have hk := Kept.refl pv s
  repeat' first
    | with_reducible apply KeptBy.next
    | with_reducible assumption
    | with_reducible apply State.sendHello_kept
    | split
    | with_reducible apply Kept.ite

theorem execPeerOkToggle_kept (pv : Bool) (s : State)  :
    KeptBy pv s (execPeerOkToggle s) := by
  dsimp only [execPeerOkToggle]
  have hk := Kept.refl pv s
  repeat' first
    | with_reducible apply KeptBy.next
    | with_reducible assumption
    | with_reducible apply State.modCway_kept
    | split
    | with_reducible apply Kept.ite
    | with_reducible rfl
    | with_reducible exact fun x => x
    | with_reducible exact Nat.le_refl _
    | with_reducible exact List.prefix_rfl
    | with_reducible exact List.prefix_append _ _
    | with_reducible refine fun (hx : tabSorted _) => ?_
    | with_reducible apply tabSorted_map
    | with_reducible apply tabSorted_put
    | with_reducible apply tabSorted_erase
    | with_reducible apply tabSorted_filter
    | with_reducible exact tabSorted_nil
    | (show tabSorted _; assumption)
    | with_reducible exact ledgerOrdered_filter _
    | with_reducible exact fun hx => canon_filterRegs hx _
    | with_reducible exact fun _ _ => rfl
    | ((with_reducible refine fun _ _ => banks_map ?_ _ _) <;> exact fun _ _ => rfl)
    | exact fun _ => rfl
    | exact fun _ _ => rfl
    | exact Nat.le_refl _
    | with_reducible apply Kept.upd

theorem execPeerOkInEdge_kept (pv : Bool) (s : State)  :
    KeptBy pv s (execPeerOkInEdge s) := by
  dsimp only [execPeerOkInEdge]
  have hk := Kept.refl pv s
  repeat' first
    | with_reducible apply KeptBy.next
    | with_reducible assumption
    | with_reducible apply State.modCway_kept
    | split
    | with_reducible apply Kept.ite

theorem execHeartbeatLost_kept (pv : Bool) (s : State)  :
    KeptBy pv s (execHeartbeatLost s) := by
  dsimp only [execHeartbeatLost]
  have hk := Kept.refl pv s
  repeat' first
    | with_reducible apply KeptBy.next
    | with_reducible assumption
    | with_reducible apply State.modCway_kept
    | with_reducible apply State.trigger_kept
    | split
    | with_reducible apply Kept.ite
    | with_reducible rfl
    | with_reducible exact fun x => x
    | with_reducible exact Nat.le_refl _
    | with_reducible exact List.prefix_rfl
    | with_reducible exact List.prefix_append _ _
    | with_reducible refine fun (hx : tabSorted _) => ?_
    | with_reducible apply tabSorted_map
    | with_reducible apply tabSorted_put
    | with_reducible apply tabSorted_erase
    | with_reducible apply tabSorted_filter
    | with_reducible exact tabSorted_nil
    | (show tabSorted _; assumption)
    | with_reducible exact ledgerOrdered_filter _
    | with_reducible exact fun hx => canon_filterRegs hx _
    | with_reducible exact fun _ _ => rfl
    | ((with_reducible refine fun _ _ => banks_map ?_ _ _) <;> exact fun _ _ => rfl)
    | exact fun _ => rfl
    | exact fun _ _ => rfl
    | with_reducible apply Kept.upd

theorem State.cwayRejoin_kept {pv : Bool} {s0 s : State}  (hk : Kept pv s0 s) :
    Kept pv s0 (State.cwayRejoin s) := by
  dsimp only [State.cwayRejoin]
  repeat' first
    | with_reducible assumption
    | with_reducible apply State.takeRole_kept
    | with_reducible apply State.modCway_kept
    | split
    | with_reducible apply Kept.ite
    | with_reducible rfl
    | with_reducible exact fun x => x
    | with_reducible exact Nat.le_refl _
    | with_reducible exact List.prefix_rfl
    | with_reducible exact List.prefix_append _ _
    | with_reducible refine fun (hx : tabSorted _) => ?_
    | with_reducible apply tabSorted_map
    | with_reducible apply tabSorted_put
    | with_reducible apply tabSorted_erase
    | with_reducible apply tabSorted_filter
    | with_reducible exact tabSorted_nil
    | (show tabSorted _; assumption)
    | with_reducible exact ledgerOrdered_filter _
    | with_reducible exact fun hx => canon_filterRegs hx _
    | with_reducible exact fun _ _ => rfl
    | ((with_reducible refine fun _ _ => banks_map ?_ _ _) <;> exact fun _ _ => rfl)
    | exact fun _ => rfl
    | exact fun _ _ => rfl
    | with_reducible apply Kept.upd

theorem execCwayRejoin_kept (pv : Bool) (s : State)  :
    KeptBy pv s (execCwayRejoin s) := by
  dsimp only [execCwayRejoin]
  have hk := Kept.refl pv s
  repeat' first
    | with_reducible apply KeptBy.next
    | with_reducible assumption
    | with_reducible apply State.cwayRejoin_kept
    | split
    | with_reducible apply Kept.ite

theorem State.cwayPromote_kept {pv : Bool} {s0 s : State}  (hk : Kept pv s0 s) :
    Kept pv s0 (State.cwayPromote s) := by
  dsimp only [State.cwayPromote]
  repeat' first
    | with_reducible assumption
    | with_reducible apply State.takeRole_kept
    | with_reducible apply State.kickAll_kept
    | with_reducible apply State.bootStart_kept
    | with_reducible apply State.discardReplays_kept
    | with_reducible apply State.wakeRunning_kept
    | split
    | with_reducible apply Kept.ite

theorem execCwayPromote_kept (pv : Bool) (s : State)  :
    KeptBy pv s (execCwayPromote s) := by
  dsimp only [execCwayPromote]
  have hk := Kept.refl pv s
  repeat' first
    | with_reducible apply KeptBy.next
    | with_reducible assumption
    | with_reducible apply State.cwayPromote_kept
    | split
    | with_reducible apply Kept.ite

end Sys2Proof.Machine
end

