-- ==== Sys2Proof/Laws/KeptPcie.lean ====
section
/-! SUPPORT. Every operation of Machine/Pcie.lean keeps what `Kept` says. -/

set_option linter.unusedTactic false
set_option linter.unreachableTactic false
set_option maxHeartbeats 200000
namespace Sys2Proof.Machine

theorem Pcie.take_table (x : Pcie) (e : Egress) : (x.take e).table = x.table := by cases e <;> rfl

theorem State.takeIssued_table (s : State) : s.takeIssued.table = s.pcie.table := by
  have : ∀ (l : List Egress) (x : Pcie), (l.foldl Pcie.take x).table = x.table := fun l => by
    induction l with
    | nil => exact fun _ => rfl
    | cons e l ih => exact fun x => (ih _).trans (x.take_table e)
  exact this _ _

theorem Pcie.postOne_table (x : Pcie) : x.postOne.1.table = x.table := by
  unfold Pcie.postOne
  repeat' split
  all_goals first
    | rfl
    | (unfold Pcie.sendRecord; repeat' split
       all_goals rfl)

theorem Pcie.readOne_table (x : Pcie) (a b : List Tlp) : (x.readOne a b).table = x.table := by
  induction b generalizing a with
  | nil => rfl
  | cons y ys ih =>
    unfold Pcie.readOne
    repeat' split
    all_goals first
      | rfl
      | exact ih _

theorem State.credits_table (s : State) (x : Pcie) : (s.credits x).table = x.table := by unfold State.credits; split <;> rfl

theorem Kept.pcie {pv : Bool} {s0 s : State} (x : Pcie) (hx : tabSorted s.pcie.table → tabSorted x.table) (h : Kept pv s0 s) :
    Kept pv s0 { s with pcie := x } :=
  Kept.upd (s := s) List.prefix_rfl id id (Nat.le_refl _) rfl (fun _ => rfl) (fun _ _ => rfl) id id id id id id id id id hx id id id id id h

theorem State.pcieTick_kept {pv : Bool} {s0 s : State} (h : Kept pv s0 s) : Kept pv s0 s.pcieTick := by
  unfold State.pcieTick
  extract_lets x x' y
  have hx : x'.table = s.pcie.table := (s.credits_table _).trans s.takeIssued_table
  have hy : y.1.table = x'.table := x'.postOne_table
  split
  · refine Kept.pcie _ (fun ht => ?_) h
    split
    · rw [hy, hx]; exact ht
    · rw [Pcie.readOne_table, hy, hx]; exact ht
  · exact Kept.pcie _ (fun ht => by rw [hx]; exact ht) h

theorem State.dropFunction_kept {pv : Bool} {s0 s : State} (fn : Nat) (h : Kept pv s0 s) : Kept pv s0 (s.dropFunction fn) :=
  Kept.pcie _ (fun ht => tabSorted_filter (by rw [State.takeIssued_table]; exact ht) _) h

theorem State.resetPcie_kept {pv : Bool} {s0 s : State} (keepLink : Bool) (h : Kept pv s0 s) : Kept pv s0 (s.resetPcie keepLink) :=
  Kept.pcie _ (fun _ => by split <;> exact tabSorted_nil) h

end Sys2Proof.Machine
end

