-- ==== Sys2Proof/Laws/KeptFaults.lean ====
section
/-! SUPPORT. Every operation of Machine/Faults.lean keeps what `Kept` says. -/

set_option linter.unusedTactic false
set_option linter.unreachableTactic false
set_option maxHeartbeats 200000
namespace Sys2Proof.Machine

theorem State.modFlt_kept {pv : Bool} {s0 s : State} (f : Flt → Flt) (hf : (f s.flt).fatalHold = s.flt.fatalHold)
    (hp : s.flt.fatalHold = true → (f s.flt).pin = s.flt.pin) (h : Kept pv s0 s) : Kept pv s0 (s.modFlt f) := by
  unfold State.modFlt
  exact Kept.upd (s := s) List.prefix_rfl (fun x => by rw [hf]; exact x) (fun x y => by rw [hf] at y; rw [hp y]; exact x y) (Nat.le_refl _) rfl (fun _ => rfl) (fun _ _ => rfl) id id id id id id id id id id id id id id id h

theorem State.fltAck_kept {pv : Bool} {s0 s : State} (seq : Nat) (hk : Kept pv s0 s) :
    Kept pv s0 (State.fltAck s seq) := by
  dsimp only [State.fltAck]
  repeat' first
    | with_reducible assumption
    | with_reducible apply State.setBit_kept
    | with_reducible apply State.modFlt_kept
    | split
    | with_reducible apply Kept.ite
    | with_reducible rfl
    | with_reducible exact fun x => x
    | with_reducible exact Nat.le_refl _
    | with_reducible exact List.prefix_rfl
    | with_reducible exact List.prefix_append _ _
    | with_reducible refine fun (hx : tabSorted _) => ?_
    | with_reducible apply tabSorted_map
    | with_reducible apply tabSorted_put
    | with_reducible apply tabSorted_erase
    | with_reducible apply tabSorted_filter
    | with_reducible exact tabSorted_nil
    | (show tabSorted _; assumption)
    | with_reducible exact ledgerOrdered_filter _
    | with_reducible exact fun hx => canon_filterRegs hx _
    | with_reducible exact fun _ _ => rfl
    | ((with_reducible refine fun _ _ => banks_map ?_ _ _) <;> exact fun _ _ => rfl)
    | exact fun _ => rfl
    | exact fun _ _ => rfl
    | exact fun hx => absurd hx ‹_›
    | with_reducible apply Kept.upd

theorem execFltAck_kept (pv : Bool) (s : State) (seq : Word) :
    KeptBy pv s (execFltAck seq s) := by
  dsimp only [execFltAck]
  have hk := Kept.refl pv s
  repeat' first
    | with_reducible apply KeptBy.next
    | with_reducible assumption
    | with_reducible apply State.fltAck_kept
    | split
    | with_reducible apply Kept.ite

theorem State.fltPinRelease_kept {pv : Bool} {s0 s : State}  (hk : Kept pv s0 s) :
    Kept pv s0 (State.fltPinRelease s) := by
  dsimp only [State.fltPinRelease]
  repeat' first
    | with_reducible assumption
    | with_reducible apply State.modFlt_kept
    | split
    | with_reducible apply Kept.ite
    | with_reducible rfl
    | with_reducible exact fun x => x
    | with_reducible exact Nat.le_refl _
    | with_reducible exact List.prefix_rfl
    | with_reducible exact List.prefix_append _ _
    | with_reducible refine fun (hx : tabSorted _) => ?_
    | with_reducible apply tabSorted_map
    | with_reducible apply tabSorted_put
    | with_reducible apply tabSorted_erase
    | with_reducible apply tabSorted_filter
    | with_reducible exact tabSorted_nil
    | (show tabSorted _; assumption)
    | with_reducible exact ledgerOrdered_filter _
    | with_reducible exact fun hx => canon_filterRegs hx _
    | with_reducible exact fun _ _ => rfl
    | ((with_reducible refine fun _ _ => banks_map ?_ _ _) <;> exact fun _ _ => rfl)
    | exact fun _ => rfl
    | exact fun _ _ => rfl
    | exact fun hx => absurd hx ‹_›
    | with_reducible apply Kept.upd

theorem execFltPinRelease_kept (pv : Bool) (s : State)  :
    KeptBy pv s (execFltPinRelease s) := by
  dsimp only [execFltPinRelease]
  have hk := Kept.refl pv s
  repeat' first
    | with_reducible apply KeptBy.next
    | with_reducible assumption
    | with_reducible apply State.fltPinRelease_kept
    | split
    | with_reducible apply Kept.ite

theorem State.abortCalibration_kept {pv : Bool} {s0 s : State}  (hk : Kept pv s0 s) :
    Kept pv s0 (State.abortCalibration s) := by
  dsimp only [State.abortCalibration]
  repeat' first
    | with_reducible assumption
    | with_reducible apply State.finish_kept
    | with_reducible apply State.modSense_kept
    | with_reducible apply Kept.foldl
    | with_reducible apply Kept.foldlPair
    | split
    | with_reducible apply Kept.ite
    | with_reducible rfl
    | with_reducible exact fun x => x
    | with_reducible exact Nat.le_refl _
    | with_reducible exact List.prefix_rfl
    | with_reducible exact List.prefix_append _ _
    | with_reducible refine fun (hx : tabSorted _) => ?_
    | with_reducible apply tabSorted_map
    | with_reducible apply tabSorted_put
    | with_reducible apply tabSorted_erase
    | with_reducible apply tabSorted_filter
    | with_reducible exact tabSorted_nil
    | (show tabSorted _; assumption)
    | with_reducible exact ledgerOrdered_filter _
    | with_reducible exact fun hx => canon_filterRegs hx _
    | with_reducible exact fun _ _ => rfl
    | ((with_reducible refine fun _ _ => banks_map ?_ _ _) <;> exact fun _ _ => rfl)
    | exact fun _ => rfl
    | exact fun _ _ => rfl
    | (intro _ _ _)
    | (intro _ _)
    | dsimp only
    | dsimp only [id]
    | with_reducible apply Kept.upd

theorem State.wdogExpires_kept {pv : Bool} {s0 s : State}  (hk : Kept pv s0 s) :
    Kept pv s0 (State.wdogExpires s) := by
  dsimp only [State.wdogExpires]
  repeat' first
    | with_reducible assumption
    | with_reducible apply State.raise_kept
    | with_reducible apply State.modPower_kept
    | with_reducible apply State.modFlt_kept
    | with_reducible apply State.abortCalibration_kept
    | split
    | with_reducible apply Kept.ite
    | with_reducible rfl
    | with_reducible exact fun x => x
    | with_reducible exact Nat.le_refl _
    | with_reducible exact List.prefix_rfl
    | with_reducible exact List.prefix_append _ _
    | with_reducible refine fun (hx : tabSorted _) => ?_
    | with_reducible apply tabSorted_map
    | with_reducible apply tabSorted_put
    | with_reducible apply tabSorted_erase
    | with_reducible apply tabSorted_filter
    | with_reducible exact tabSorted_nil
    | (show tabSorted _; assumption)
    | with_reducible exact ledgerOrdered_filter _
    | with_reducible exact fun hx => canon_filterRegs hx _
    | with_reducible exact fun _ _ => rfl
    | ((with_reducible refine fun _ _ => banks_map ?_ _ _) <;> exact fun _ _ => rfl)
    | exact fun _ => rfl
    | exact fun _ _ => rfl
    | exact Nat.le_refl _
    | exact fun hx => absurd hx ‹_›
    | with_reducible apply Kept.upd

theorem execWatchdogExpiry_kept (pv : Bool) (s : State)  :
    KeptBy pv s (execWatchdogExpiry s) := by
  dsimp only [execWatchdogExpiry]
  have hk := Kept.refl pv s
  repeat' first
    | with_reducible apply KeptBy.next
    | with_reducible assumption
    | with_reducible apply State.wdogExpires_kept
    | split
    | with_reducible apply Kept.ite
    | exact Nat.le_refl _
    | with_reducible apply Kept.upd

theorem State.resumeRetraining_kept {pv : Bool} {s0 s : State}  (hk : Kept pv s0 s) :
    Kept pv s0 (State.resumeRetraining s) := by
  dsimp only [State.resumeRetraining]
  repeat' first
    | with_reducible assumption
    | with_reducible apply State.modLink_kept
    | with_reducible apply State.settle_kept
    | with_reducible apply State.beginAttempt_kept
    | with_reducible apply Kept.forN
    | with_reducible apply Kept.foldl
    | with_reducible apply Kept.foldlPair
    | split
    | with_reducible apply Kept.ite
    | exact Nat.le_refl _
    | (intro _ _ _)
    | (intro _ _)
    | dsimp only
    | dsimp only [id]
    | with_reducible apply Kept.upd

theorem State.purserRestarted_kept {pv : Bool} {s0 s : State}  (hk : Kept pv s0 s) :
    Kept pv s0 (State.purserRestarted s) := by
  dsimp only [State.purserRestarted]
  repeat' first
    | with_reducible assumption
    | with_reducible apply State.setBit_kept
    | with_reducible apply State.raise_kept
    | with_reducible apply State.modPower_kept
    | with_reducible apply State.modCway_kept
    | with_reducible apply State.modFlt_kept
    | with_reducible apply State.resumeRetraining_kept
    | split
    | with_reducible apply Kept.ite
    | with_reducible rfl
    | with_reducible exact fun x => x
    | with_reducible exact Nat.le_refl _
    | with_reducible exact List.prefix_rfl
    | with_reducible exact List.prefix_append _ _
    | with_reducible refine fun (hx : tabSorted _) => ?_
    | with_reducible apply tabSorted_map
    | with_reducible apply tabSorted_put
    | with_reducible apply tabSorted_erase
    | with_reducible apply tabSorted_filter
    | with_reducible exact tabSorted_nil
    | (show tabSorted _; assumption)
    | with_reducible exact ledgerOrdered_filter _
    | with_reducible exact fun hx => canon_filterRegs hx _
    | with_reducible exact fun _ _ => rfl
    | ((with_reducible refine fun _ _ => banks_map ?_ _ _) <;> exact fun _ _ => rfl)
    | exact fun _ => rfl
    | exact fun _ _ => rfl
    | exact Nat.le_refl _
    | exact fun hx => absurd hx ‹_›
    | with_reducible apply Kept.upd

theorem execPurserRestartDone_kept (pv : Bool) (s : State)  :
    KeptBy pv s (execPurserRestartDone s) := by
  dsimp only [execPurserRestartDone]
  have hk := Kept.refl pv s
  repeat' first
    | with_reducible apply KeptBy.next
    | with_reducible assumption
    | with_reducible apply State.purserRestarted_kept
    | split
    | with_reducible apply Kept.ite

theorem execInternalConsistencyFailure_kept (pv : Bool) (s : State) (unit : Byte) :
    KeptBy pv s (execInternalConsistencyFailure unit s) := by
  dsimp only [execInternalConsistencyFailure]
  have hk := Kept.refl pv s
  repeat' first
    | with_reducible apply KeptBy.next
    | with_reducible assumption
    | with_reducible apply State.raise_kept
    | split
    | with_reducible apply Kept.ite

end Sys2Proof.Machine
end

