-- ==== Sys2Proof/Laws/KeptWatch.lean ====
section
/-! SUPPORT. Every operation of Machine/Watch.lean keeps what `Kept` says. -/

set_option linter.unusedTactic false
set_option linter.unreachableTactic false
set_option maxHeartbeats 200000
namespace Sys2Proof.Machine

theorem State.setWcapt_kept {pv : Bool} {s0 s : State} (a v : Nat) (hk : Kept pv s0 s) :
    Kept pv s0 (State.setWcapt s a v) := by
  dsimp only [State.setWcapt]
  repeat' first
    | with_reducible assumption
    | split
    | with_reducible apply Kept.ite
    | with_reducible rfl
    | with_reducible exact fun x => x
    | with_reducible exact Nat.le_refl _
    | with_reducible exact List.prefix_rfl
    | with_reducible exact List.prefix_append _ _
    | with_reducible refine fun (hx : tabSorted _) => ?_
    | with_reducible apply tabSorted_map
    | with_reducible apply tabSorted_put
    | with_reducible apply tabSorted_erase
    | with_reducible apply tabSorted_filter
    | with_reducible exact tabSorted_nil
    | (show tabSorted _; assumption)
    | with_reducible exact ledgerOrdered_filter _
    | with_reducible exact fun hx => canon_filterRegs hx _
    | with_reducible exact fun _ _ => rfl
    | ((with_reducible refine fun _ _ => banks_map ?_ _ _) <;> exact fun _ _ => rfl)
    | exact fun _ => rfl
    | exact fun _ _ => rfl
    | with_reducible apply Kept.upd

theorem State.captureRmsig_kept {pv : Bool} {s0 s : State} (p : Nat) (hk : Kept pv s0 s) :
    Kept pv s0 (State.captureRmsig s p) := by
  dsimp only [State.captureRmsig]
  repeat' first
    | with_reducible assumption
    | with_reducible apply State.setWcapt_kept
    | split
    | with_reducible apply Kept.ite

theorem State.captureRegion_kept {pv : Bool} {s0 s : State} (p r : Nat) (hk : Kept pv s0 s) :
    Kept pv s0 (State.captureRegion s p r) := by
  dsimp only [State.captureRegion]
  repeat' first
    | with_reducible assumption
    | with_reducible apply State.setWcapt_kept
    | split
    | with_reducible apply Kept.ite

theorem State.watchCapture_kept {pv : Bool} {s0 s : State} (a : Nat) (hk : Kept pv s0 s) :
    Kept pv s0 (State.watchCapture s a) := by
  dsimp only [State.watchCapture]
  repeat' first
    | with_reducible assumption
    | with_reducible apply State.captureRmsig_kept
    | with_reducible apply State.captureRegion_kept
    | split
    | with_reducible apply Kept.ite
    | with_reducible rfl
    | with_reducible exact fun x => x
    | with_reducible exact Nat.le_refl _
    | with_reducible exact List.prefix_rfl
    | with_reducible exact List.prefix_append _ _
    | with_reducible refine fun (hx : tabSorted _) => ?_
    | with_reducible apply tabSorted_map
    | with_reducible apply tabSorted_put
    | with_reducible apply tabSorted_erase
    | with_reducible apply tabSorted_filter
    | with_reducible exact tabSorted_nil
    | (show tabSorted _; assumption)
    | with_reducible exact ledgerOrdered_filter _
    | with_reducible exact fun hx => canon_filterRegs hx _
    | with_reducible exact fun _ _ => rfl
    | ((with_reducible refine fun _ _ => banks_map ?_ _ _) <;> exact fun _ _ => rfl)
    | exact fun _ => rfl
    | exact fun _ _ => rfl
    | with_reducible apply Kept.upd

theorem execWpRmsigRead_kept (pv : Bool) (s : State) (p : Fin 4) :
    KeptBy pv s (execWpRmsigRead p s) := by
  dsimp only [execWpRmsigRead]
  have hk := Kept.refl pv s
  repeat' first
    | with_reducible apply KeptBy.next
    | with_reducible assumption
    | with_reducible apply State.captureRmsig_kept
    | split
    | with_reducible apply Kept.ite

theorem execWpRegionSignatureRead_kept (pv : Bool) (s : State) (p : Fin 4) (region : Fin 32) :
    KeptBy pv s (execWpRegionSignatureRead p region s) := by
  dsimp only [execWpRegionSignatureRead]
  have hk := Kept.refl pv s
  repeat' first
    | with_reducible apply KeptBy.next
    | with_reducible assumption
    | with_reducible apply State.captureRegion_kept
    | split
    | with_reducible apply Kept.ite

theorem State.watchReads_kept {pv : Bool} {s0 : State} (as : List Nat) {s : State} (h : Kept pv s0 s) : Kept pv s0 (State.watchReads as s).2 := by
  induction as generalizing s with
  | nil => exact h
  | cons a as ih => exact ih (State.watchCapture_kept _ h)

theorem State.writeRegsrc_kept {pv : Bool} {s0 s : State} (p v : Nat) (hk : Kept pv s0 s) :
    Kept pv s0 (State.writeRegsrc s p v) := by
  dsimp only [State.writeRegsrc]
  repeat' first
    | with_reducible assumption
    | with_reducible apply State.setWreg_kept
    | with_reducible apply State.modPort_kept
    | split
    | with_reducible apply Kept.ite
    | with_reducible rfl
    | with_reducible exact fun x => x
    | with_reducible exact Nat.le_refl _
    | with_reducible exact List.prefix_rfl
    | with_reducible exact List.prefix_append _ _
    | with_reducible refine fun (hx : tabSorted _) => ?_
    | with_reducible apply tabSorted_map
    | with_reducible apply tabSorted_put
    | with_reducible apply tabSorted_erase
    | with_reducible apply tabSorted_filter
    | with_reducible exact tabSorted_nil
    | (show tabSorted _; assumption)
    | with_reducible exact ledgerOrdered_filter _
    | with_reducible exact fun hx => canon_filterRegs hx _
    | with_reducible exact fun _ _ => rfl
    | ((with_reducible refine fun _ _ => banks_map ?_ _ _) <;> exact fun _ _ => rfl)
    | exact fun _ => rfl
    | exact fun _ _ => rfl
    | exact fun _ _ => rfl
    | (refine fun _ => ?_; first | rfl | (dsimp only; simp; done))
    | (refine fun _ q => ?_; first | (dsimp only; simp; done) | (simp; done) | (dsimp only; split <;> first | rfl | (simp; done)))
    | with_reducible apply Kept.upd

theorem State.watchPut_kept {s0 s : State} (a v : Nat) (hk : Kept false s0 s) :
    Kept false s0 (State.watchPut s a v) := by
  dsimp only [State.watchPut]
  repeat' first
    | with_reducible assumption
    | with_reducible apply State.setWreg_kept
    | with_reducible apply State.modPort_kept
    | with_reducible apply State.startActivation_kept
    | with_reducible apply State.writeRegsrc_kept
    | split
    | exact fun h => Bool.noConfusion h
    | with_reducible apply Kept.ite
    | with_reducible rfl
    | with_reducible exact fun x => x
    | with_reducible exact Nat.le_refl _
    | with_reducible exact List.prefix_rfl
    | with_reducible exact List.prefix_append _ _
    | with_reducible refine fun (hx : tabSorted _) => ?_
    | with_reducible apply tabSorted_map
    | with_reducible apply tabSorted_put
    | with_reducible apply tabSorted_erase
    | with_reducible apply tabSorted_filter
    | with_reducible exact tabSorted_nil
    | (show tabSorted _; assumption)
    | with_reducible exact ledgerOrdered_filter _
    | with_reducible exact fun hx => canon_filterRegs hx _
    | with_reducible exact fun _ _ => rfl
    | ((with_reducible refine fun _ _ => banks_map ?_ _ _) <;> exact fun _ _ => rfl)
    | exact fun _ => rfl
    | exact fun _ _ => rfl
    | exact fun _ _ => rfl
    | (refine fun _ => ?_; first | rfl | (dsimp only; simp; done))
    | (refine fun _ q => ?_; first | (dsimp only; simp; done) | (simp; done) | (dsimp only; split <;> first | rfl | (simp; done)))
    | with_reducible apply Kept.upd

theorem State.discardFrame_kept {pv : Bool} {s0 s : State}  (hk : Kept pv s0 s) :
    Kept pv s0 (State.discardFrame s) := by
  dsimp only [State.discardFrame]
  repeat' first
    | with_reducible assumption
    | with_reducible apply State.setWreg_kept
    | with_reducible apply State.setWbit_kept
    | with_reducible apply State.raise_kept
    | with_reducible apply State.run_kept
    | split
    | with_reducible apply Kept.ite

theorem State.frameEffect_kept {s0 s : State} (mosi : List Byte) (h : Kept false s0 s) : Kept false s0 (s.frameEffect mosi).2.2 := by
  unfold State.frameEffect
  dsimp only
  repeat' first
    | with_reducible assumption
    | exact State.watchReads_kept _ h
    | exact Kept.foldl (fun t x ht => State.watchPut_kept _ _ ht) _ h
    | split

theorem State.watchFrame_kept {s0 s : State} (mosi : List Byte) (hk : Kept false s0 s) :
    Kept false s0 (State.watchFrame s mosi) := by
  dsimp only [State.watchFrame]
  repeat' first
    | with_reducible assumption
    | with_reducible apply State.setWreg_kept
    | with_reducible apply State.discardFrame_kept
    | exact Kept.ofEq ‹_› (by apply State.frameEffect_kept; assumption)
    | with_reducible apply State.frameEffect_kept
    | split
    | exact fun h => Bool.noConfusion h
    | with_reducible apply Kept.ite
    | with_reducible rfl
    | with_reducible exact fun x => x
    | with_reducible exact Nat.le_refl _
    | with_reducible exact List.prefix_rfl
    | with_reducible exact List.prefix_append _ _
    | with_reducible refine fun (hx : tabSorted _) => ?_
    | with_reducible apply tabSorted_map
    | with_reducible apply tabSorted_put
    | with_reducible apply tabSorted_erase
    | with_reducible apply tabSorted_filter
    | with_reducible exact tabSorted_nil
    | (show tabSorted _; assumption)
    | with_reducible exact ledgerOrdered_filter _
    | with_reducible exact fun hx => canon_filterRegs hx _
    | with_reducible exact fun _ _ => rfl
    | ((with_reducible refine fun _ _ => banks_map ?_ _ _) <;> exact fun _ _ => rfl)
    | exact fun _ => rfl
    | exact fun _ _ => rfl
    | with_reducible apply Kept.upd

theorem execWatchNop_kept (s : State) (mosi : List Byte) :
    KeptBy false s (execWatchNop mosi s) := by
  dsimp only [execWatchNop]
  have hk := Kept.refl false s
  repeat' first
    | with_reducible apply KeptBy.next
    | with_reducible assumption
    | with_reducible apply State.watchFrame_kept
    | split
    | exact fun h => Bool.noConfusion h
    | with_reducible apply Kept.ite

theorem execWatchRead_kept (s : State) (mosi : List Byte) :
    KeptBy false s (execWatchRead mosi s) := by
  dsimp only [execWatchRead]
  have hk := Kept.refl false s
  repeat' first
    | with_reducible apply KeptBy.next
    | with_reducible assumption
    | with_reducible apply State.watchFrame_kept
    | split
    | exact fun h => Bool.noConfusion h
    | with_reducible apply Kept.ite

theorem execWatchWrite_kept (s : State) (mosi : List Byte) :
    KeptBy false s (execWatchWrite mosi s) := by
  dsimp only [execWatchWrite]
  have hk := Kept.refl false s
  repeat' first
    | with_reducible apply KeptBy.next
    | with_reducible assumption
    | with_reducible apply State.watchFrame_kept
    | split
    | exact fun h => Bool.noConfusion h
    | with_reducible apply Kept.ite

theorem execWatchBadOpcodeFrame_kept (s : State) (mosi : List Byte) :
    KeptBy false s (execWatchBadOpcodeFrame mosi s) := by
  dsimp only [execWatchBadOpcodeFrame]
  have hk := Kept.refl false s
  repeat' first
    | with_reducible apply KeptBy.next
    | with_reducible assumption
    | with_reducible apply State.watchFrame_kept
    | split
    | exact fun h => Bool.noConfusion h
    | with_reducible apply Kept.ite

end Sys2Proof.Machine
end

