-- ==== Sys2Proof/Laws/KeptRegs.lean ====
section
/-! SUPPORT. Every operation of Machine/Regs.lean keeps what `Kept` says. -/

set_option linter.unusedTactic false
set_option linter.unreachableTactic false
set_option maxHeartbeats 200000
namespace Sys2Proof.Machine

theorem State.writeShared_kept {pv : Bool} {s0 s : State} (off v : Nat) (hk : Kept pv s0 s) :
    Kept pv s0 (State.writeShared s off v) := by
  dsimp only [State.writeShared]
  repeat' first
    | with_reducible assumption
    | with_reducible apply State.logRecord_kept
    | with_reducible apply State.writeMirrored_kept
    | with_reducible apply Kept.ite
    | split
    | exact Nat.le_refl _
    | rfl
    | with_reducible apply Kept.upd

theorem State.writeLoop_kept {pv : Bool} {s0 s : State} (off v : Nat) (hk : Kept pv s0 s) :
    Kept pv s0 (State.writeLoop s off v) := by
  dsimp only [State.writeLoop]
  repeat' first
    | with_reducible assumption
    | with_reducible apply State.maskWrite_kept
    | with_reducible apply State.startLoop_kept
    | with_reducible apply Kept.ite
    | split
    | exact Nat.le_refl _
    | rfl
    | with_reducible apply Kept.upd

theorem State.writeCwayCtrl_kept {pv : Bool} {s0 s : State} (v : Nat) (hk : Kept pv s0 s) :
    Kept pv s0 (State.writeCwayCtrl s v) := by
  dsimp only [State.writeCwayCtrl]
  repeat' first
    | with_reducible assumption
    | with_reducible apply State.maskWrite_kept
    | with_reducible apply State.cwayResign_kept
    | with_reducible apply State.cwayRejoin_kept
    | with_reducible apply State.cwayPromote_kept
    | with_reducible apply Kept.ite
    | split
    | exact Nat.le_refl _
    | rfl
    | with_reducible apply Kept.upd

theorem State.writeTideCtrl_kept {pv : Bool} {s0 s : State} (v : Nat) (hk : Kept pv s0 s) :
    Kept pv s0 (State.writeTideCtrl s v) := by
  dsimp only [State.writeTideCtrl]
  repeat' first
    | with_reducible assumption
    | with_reducible apply State.maskWrite_kept
    | with_reducible apply State.tideCtrl_kept
    | with_reducible apply State.resume_kept
    | with_reducible apply Kept.ite
    | split
    | exact Nat.le_refl _
    | rfl
    | with_reducible apply Kept.upd

theorem State.writeRate_kept {pv : Bool} {s0 s : State} (v : Nat) (hk : Kept pv s0 s) :
    Kept pv s0 (State.writeRate s v) := by
  dsimp only [State.writeRate]
  repeat' first
    | with_reducible assumption
    | with_reducible apply Kept.ite
    | split
    | with_reducible rfl
    | with_reducible exact fun x => x
    | with_reducible exact Nat.le_refl _
    | with_reducible exact List.prefix_rfl
    | with_reducible exact List.prefix_append _ _
    | with_reducible refine fun (hx : tabSorted _) => ?_
    | with_reducible apply tabSorted_map
    | with_reducible apply tabSorted_put
    | with_reducible apply tabSorted_erase
    | with_reducible apply tabSorted_filter
    | with_reducible exact tabSorted_nil
    | (show tabSorted _; assumption)
    | with_reducible exact ledgerOrdered_filter _
    | with_reducible exact fun hx => canon_filterRegs hx _
    | with_reducible exact fun _ _ => rfl
    | ((with_reducible refine fun _ _ => banks_map ?_ _ _) <;> exact fun _ _ => rfl)
    | exact fun _ => rfl
    | exact fun _ _ => rfl
    | rfl
    | with_reducible apply Kept.upd

theorem State.writeGroup_kept {pv : Bool} {s0 s : State} (off v : Nat) (hk : Kept pv s0 s) :
    Kept pv s0 (State.writeGroup s off v) := by
  dsimp only [State.writeGroup]
  repeat' first
    | with_reducible assumption
    | with_reducible apply State.maskWrite_kept
    | with_reducible apply Kept.ite
    | split
    | exact Nat.le_refl _
    | rfl
    | with_reducible apply Kept.upd

theorem State.writeFltCtrl_kept {pv : Bool} {s0 s : State} (v : Nat) (hk : Kept pv s0 s) :
    Kept pv s0 (State.writeFltCtrl s v) := by
  dsimp only [State.writeFltCtrl]
  repeat' first
    | with_reducible assumption
    | with_reducible apply State.setReg_kept
    | with_reducible apply Kept.ite
    | split
    | rfl
    | with_reducible apply Kept.upd

theorem State.writeKill_kept {pv : Bool} {s0 s : State} (v : Nat) (hk : Kept pv s0 s) :
    Kept pv s0 (State.writeKill s v) := by
  dsimp only [State.writeKill]
  repeat' first
    | with_reducible assumption
    | with_reducible apply State.killCtx_kept
    | with_reducible apply State.maskWrite_kept
    | with_reducible apply Kept.ite
    | split
    | exact Nat.le_refl _
    | rfl
    | with_reducible apply Kept.upd

theorem State.clearPeaks_kept {pv : Bool} {s0 s : State}  (hk : Kept pv s0 s) :
    Kept pv s0 (State.clearPeaks s) := by
  dsimp only [State.clearPeaks]
  repeat' first
    | with_reducible assumption
    | with_reducible apply Kept.ite
    | split
    | with_reducible rfl
    | with_reducible exact fun x => x
    | with_reducible exact Nat.le_refl _
    | with_reducible exact List.prefix_rfl
    | with_reducible exact List.prefix_append _ _
    | with_reducible refine fun (hx : tabSorted _) => ?_
    | with_reducible apply tabSorted_map
    | with_reducible apply tabSorted_put
    | with_reducible apply tabSorted_erase
    | with_reducible apply tabSorted_filter
    | with_reducible exact tabSorted_nil
    | (show tabSorted _; assumption)
    | with_reducible exact ledgerOrdered_filter _
    | with_reducible exact fun hx => canon_filterRegs hx _
    | with_reducible exact fun _ _ => rfl
    | ((with_reducible refine fun _ _ => banks_map ?_ _ _) <;> exact fun _ _ => rfl)
    | exact fun _ => rfl
    | exact fun _ _ => rfl
    | rfl
    | with_reducible apply Kept.upd

theorem State.writePf_kept {pv : Bool} {s0 s : State} (off v : Nat) (hk : Kept pv s0 s) :
    Kept pv s0 (State.writePf s off v) := by
  dsimp only [State.writePf]
  repeat' first
    | with_reducible assumption
    | with_reducible apply State.clearUnder_kept
    | with_reducible apply State.maskWrite_kept
    | with_reducible apply State.clearDram_kept
    | with_reducible apply State.fltAck_kept
    | with_reducible apply State.fltPinRelease_kept
    | with_reducible apply State.setLock_kept
    | with_reducible apply State.writeShared_kept
    | with_reducible apply State.writeLoop_kept
    | with_reducible apply State.writeCwayCtrl_kept
    | with_reducible apply State.writeTideCtrl_kept
    | with_reducible apply State.writeRate_kept
    | with_reducible apply State.writeGroup_kept
    | with_reducible apply State.writeFltCtrl_kept
    | with_reducible apply State.writeKill_kept
    | with_reducible apply State.clearPeaks_kept
    | with_reducible apply Kept.ite
    | split
    | exact Nat.le_refl _
    | rfl
    | with_reducible apply Kept.upd

theorem Pcie.setBar2_table {x : Pcie} (h : tabSorted x.table) (fn off v : Nat) : tabSorted (x.setBar2 fn off v).table := by
  unfold Pcie.setBar2
  split
  · extract_lets w y k
    have hy : tabSorted y.table := tabSorted_set h _ _ _
    split <;> exact hy
  · exact h

theorem State.hostWrite_kept {pv : Bool} {s0 s : State} (f off size v : Nat) (h : Kept pv s0 s) :
    Kept pv s0 (s.hostWrite f off size v) := by
  unfold State.hostWrite
  refine Kept.ite h (Kept.ite (Kept.pcie _ (fun ht => Pcie.setBar2_table ht _ _ _) h) (Kept.ite (Kept.ite ?_ h) (Kept.ite ?_ ?_)))
  · exact State.writeRing_kept _ _ _ h
  · exact State.writeRing_kept _ _ _ h
  · exact State.writePf_kept _ _ h

theorem execRegisterWrite_kept (pv : Bool) (s : State) (f : Fin 16) (off size : Nat) (value : Word) :
    KeptBy pv s (execRegisterWrite f off size value s) := by
  dsimp only [execRegisterWrite]
  have hk := Kept.refl pv s
  repeat' first
    | with_reducible apply KeptBy.next
    | with_reducible assumption
    | with_reducible apply State.hostWrite_kept
    | with_reducible apply Kept.ite
    | split
    | rfl
    | with_reducible apply Kept.upd

theorem State.setCapt_kept {pv : Bool} {s0 s : State} (off v : Nat) (hk : Kept pv s0 s) :
    Kept pv s0 (State.setCapt s off v) := by
  dsimp only [State.setCapt]
  repeat' first
    | with_reducible assumption
    | with_reducible apply Kept.ite
    | split
    | with_reducible rfl
    | with_reducible exact fun x => x
    | with_reducible exact Nat.le_refl _
    | with_reducible exact List.prefix_rfl
    | with_reducible exact List.prefix_append _ _
    | with_reducible refine fun (hx : tabSorted _) => ?_
    | with_reducible apply tabSorted_map
    | with_reducible apply tabSorted_put
    | with_reducible apply tabSorted_erase
    | with_reducible apply tabSorted_filter
    | with_reducible exact tabSorted_nil
    | (show tabSorted _; assumption)
    | with_reducible exact ledgerOrdered_filter _
    | with_reducible exact fun hx => canon_filterRegs hx _
    | with_reducible exact fun _ _ => rfl
    | ((with_reducible refine fun _ _ => banks_map ?_ _ _) <;> exact fun _ _ => rfl)
    | exact fun _ => rfl
    | exact fun _ _ => rfl
    | rfl
    | with_reducible apply Kept.upd

theorem State.captureRegs_kept {pv : Bool} {s0 s : State} (base : Nat) (l : List Nat) (hk : Kept pv s0 s) :
    Kept pv s0 (State.captureRegs s base l) := by
  dsimp only [State.captureRegs]
  repeat' first
    | with_reducible assumption
    | with_reducible apply State.setCapt_kept
    | with_reducible apply Kept.foldl
    | with_reducible apply Kept.foldlPair
    | with_reducible apply Kept.ite
    | split
    | rfl
    | (intro _ _ _)
    | (intro _ _)
    | dsimp only
    | dsimp only [id]
    | with_reducible apply Kept.upd

theorem State.captureScan_kept {pv : Bool} {s0 s : State} (p sub : Nat) (hk : Kept pv s0 s) :
    Kept pv s0 (State.captureScan s p sub) := by
  dsimp only [State.captureScan]
  repeat' first
    | with_reducible assumption
    | with_reducible apply State.setCapt_kept
    | with_reducible apply State.captureRegs_kept
    | with_reducible apply Kept.ite
    | split
    | rfl
    | with_reducible apply Kept.upd

theorem State.captureTide_kept {pv : Bool} {s0 s : State}  (hk : Kept pv s0 s) :
    Kept pv s0 (State.captureTide s) := by
  dsimp only [State.captureTide]
  repeat' first
    | with_reducible assumption
    | with_reducible apply State.setCapt_kept
    | with_reducible apply Kept.ite
    | split
    | rfl
    | with_reducible apply Kept.upd

theorem State.captureSig_kept {pv : Bool} {s0 s : State} (p : Nat) (hk : Kept pv s0 s) :
    Kept pv s0 (State.captureSig s p) := by
  dsimp only [State.captureSig]
  repeat' first
    | with_reducible assumption
    | with_reducible apply State.setCapt_kept
    | with_reducible apply Kept.ite
    | split
    | rfl
    | with_reducible apply Kept.upd

theorem State.captureAge_kept {pv : Bool} {s0 s : State} (p : Nat) (hk : Kept pv s0 s) :
    Kept pv s0 (State.captureAge s p) := by
  dsimp only [State.captureAge]
  repeat' first
    | with_reducible assumption
    | with_reducible apply State.setCapt_kept
    | with_reducible apply Kept.ite
    | split
    | rfl
    | with_reducible apply Kept.upd

theorem State.captureFirst_kept {pv : Bool} {s0 s : State}  (hk : Kept pv s0 s) :
    Kept pv s0 (State.captureFirst s) := by
  dsimp only [State.captureFirst]
  repeat' first
    | with_reducible assumption
    | with_reducible apply State.setCapt_kept
    | with_reducible apply Kept.forN
    | with_reducible apply Kept.ite
    | split
    | rfl
    | (intro _ _ _)
    | (intro _ _)
    | dsimp only
    | dsimp only [id]
    | with_reducible apply Kept.upd

theorem State.capture_kept {pv : Bool} {s0 s : State} (off : Nat) (hk : Kept pv s0 s) :
    Kept pv s0 (State.capture s off) := by
  dsimp only [State.capture]
  repeat' first
    | with_reducible assumption
    | with_reducible apply State.captureRun_kept
    | with_reducible apply State.captureRegs_kept
    | with_reducible apply State.captureScan_kept
    | with_reducible apply State.captureTide_kept
    | with_reducible apply State.captureSig_kept
    | with_reducible apply State.captureAge_kept
    | with_reducible apply State.captureFirst_kept
    | with_reducible apply Kept.ite
    | split
    | rfl
    | with_reducible apply Kept.upd

theorem State.hostRead_kept {pv : Bool} {s0 s : State} (f off size : Nat) (hk : Kept pv s0 s) :
    Kept pv s0 (State.hostRead s f off size) := by
  dsimp only [State.hostRead]
  repeat' first
    | with_reducible assumption
    | with_reducible apply State.emit_kept
    | with_reducible apply State.capture_kept
    | with_reducible apply Kept.foldl
    | with_reducible apply Kept.foldlPair
    | with_reducible apply Kept.ite
    | split
    | rfl
    | (intro _ _ _)
    | (intro _ _)
    | dsimp only
    | dsimp only [id]
    | with_reducible apply Kept.upd

theorem execWideRegisterRead_kept (pv : Bool) (s : State) (f : Fin 16) (off size : Nat) :
    KeptBy pv s (execWideRegisterRead f off size s) := by
  dsimp only [execWideRegisterRead]
  have hk := Kept.refl pv s
  repeat' first
    | with_reducible apply KeptBy.next
    | with_reducible assumption
    | with_reducible apply State.hostRead_kept
    | with_reducible apply Kept.ite
    | split
    | rfl
    | with_reducible apply Kept.upd

theorem execTallyUnitRead_kept (pv : Bool) (s : State) (k : Fin 8) :
    KeptBy pv s (execTallyUnitRead k s) := by
  dsimp only [execTallyUnitRead]
  have hk := Kept.refl pv s
  repeat' first
    | with_reducible apply KeptBy.next
    | with_reducible assumption
    | with_reducible apply State.hostRead_kept
    | with_reducible apply Kept.ite
    | split
    | rfl
    | with_reducible apply Kept.upd

theorem execRmapSigRead_kept (pv : Bool) (s : State) (p : Fin 4) :
    KeptBy pv s (execRmapSigRead p s) := by
  dsimp only [execRmapSigRead]
  have hk := Kept.refl pv s
  repeat' first
    | with_reducible apply KeptBy.next
    | with_reducible assumption
    | with_reducible apply State.hostRead_kept
    | with_reducible apply Kept.ite
    | split
    | rfl
    | with_reducible apply Kept.upd

theorem execShepStatRead_kept (pv : Bool) (s : State) (p : Fin 4) :
    KeptBy pv s (execShepStatRead p s) := by
  dsimp only [execShepStatRead]
  have hk := Kept.refl pv s
  repeat' first
    | with_reducible apply KeptBy.next
    | with_reducible assumption
    | with_reducible apply State.hostRead_kept
    | with_reducible apply Kept.ite
    | split
    | rfl
    | with_reducible apply Kept.upd

theorem execTideNowRead_kept (pv : Bool) (s : State)  :
    KeptBy pv s (execTideNowRead s) := by
  dsimp only [execTideNowRead]
  have hk := Kept.refl pv s
  repeat' first
    | with_reducible apply KeptBy.next
    | with_reducible assumption
    | with_reducible apply State.hostRead_kept
    | with_reducible apply Kept.ite
    | split
    | rfl
    | with_reducible apply Kept.upd

theorem execFltFirstRead_kept (pv : Bool) (s : State)  :
    KeptBy pv s (execFltFirstRead s) := by
  dsimp only [execFltFirstRead]
  have hk := Kept.refl pv s
  repeat' first
    | with_reducible apply KeptBy.next
    | with_reducible assumption
    | with_reducible apply State.hostRead_kept
    | with_reducible apply Kept.ite
    | split
    | rfl
    | with_reducible apply Kept.upd

end Sys2Proof.Machine
end

