-- ==== Sys2Proof/Laws/State.lean ====
section
/-! SUPPORT. What each update of the state leaves as it was, one lemma per field and update, and what the accessors read after it. -/

namespace Sys2Proof.Machine

/-! ### State.setReg -/

@[simp] theorem State.setReg_pending (s : State) (off v : Nat) : (s.setReg off v).pending = s.pending := rfl
@[simp] theorem State.setReg_now (s : State) (off v : Nat) : (s.setReg off v).now = s.now := rfl
@[simp] theorem State.setReg_fresh (s : State) (off v : Nat) : (s.setReg off v).fresh = s.fresh := rfl
@[simp] theorem State.setReg_capts (s : State) (off v : Nat) : (s.setReg off v).capts = s.capts := rfl
@[simp] theorem State.setReg_wregs (s : State) (off v : Nat) : (s.setReg off v).wregs = s.wregs := rfl
@[simp] theorem State.setReg_wcapts (s : State) (off v : Nat) : (s.setReg off v).wcapts = s.wcapts := rfl
@[simp] theorem State.setReg_wpSeq (s : State) (off v : Nat) : (s.setReg off v).wpSeq = s.wpSeq := rfl
@[simp] theorem State.setReg_miso (s : State) (off v : Nat) : (s.setReg off v).miso = s.miso := rfl
@[simp] theorem State.setReg_power (s : State) (off v : Nat) : (s.setReg off v).power = s.power := rfl
@[simp] theorem State.setReg_rings (s : State) (off v : Nat) : (s.setReg off v).rings = s.rings := rfl
@[simp] theorem State.setReg_pollAt (s : State) (off v : Nat) : (s.setReg off v).pollAt = s.pollAt := rfl
@[simp] theorem State.setReg_turnAt (s : State) (off v : Nat) : (s.setReg off v).turnAt = s.turnAt := rfl
@[simp] theorem State.setReg_ledger (s : State) (off v : Nat) : (s.setReg off v).ledger = s.ledger := rfl
@[simp] theorem State.setReg_nextId (s : State) (off v : Nat) : (s.setReg off v).nextId = s.nextId := rfl
@[simp] theorem State.setReg_ledgerPeak (s : State) (off v : Nat) : (s.setReg off v).ledgerPeak = s.ledgerPeak := rfl
@[simp] theorem State.setReg_objs (s : State) (off v : Nat) : (s.setReg off v).objs = s.objs := rfl
@[simp] theorem State.setReg_gens (s : State) (off v : Nat) : (s.setReg off v).gens = s.gens := rfl
@[simp] theorem State.setReg_harb (s : State) (off v : Nat) : (s.setReg off v).harb = s.harb := rfl
@[simp] theorem State.setReg_ctxs (s : State) (off v : Nat) : (s.setReg off v).ctxs = s.ctxs := rfl
@[simp] theorem State.setReg_units (s : State) (off v : Nat) : (s.setReg off v).units = s.units := rfl
@[simp] theorem State.setReg_shuttles (s : State) (off v : Nat) : (s.setReg off v).shuttles = s.shuttles := rfl
@[simp] theorem State.setReg_tills (s : State) (off v : Nat) : (s.setReg off v).tills = s.tills := rfl
@[simp] theorem State.setReg_ports (s : State) (off v : Nat) : (s.setReg off v).ports = s.ports := rfl
@[simp] theorem State.setReg_chans (s : State) (off v : Nat) : (s.setReg off v).chans = s.chans := rfl
@[simp] theorem State.setReg_dramReady (s : State) (off v : Nat) : (s.setReg off v).dramReady = s.dramReady := rfl
@[simp] theorem State.setReg_strdCodes (s : State) (off v : Nat) : (s.setReg off v).strdCodes = s.strdCodes := rfl
@[simp] theorem State.setReg_sawyPixels (s : State) (off v : Nat) : (s.setReg off v).sawyPixels = s.sawyPixels := rfl
@[simp] theorem State.setReg_tide (s : State) (off v : Nat) : (s.setReg off v).tide = s.tide := rfl
@[simp] theorem State.setReg_outs (s : State) (off v : Nat) : (s.setReg off v).outs = s.outs := rfl
@[simp] theorem State.setReg_tcaps (s : State) (off v : Nat) : (s.setReg off v).tcaps = s.tcaps := rfl
@[simp] theorem State.setReg_sense (s : State) (off v : Nat) : (s.setReg off v).sense = s.sense := rfl
@[simp] theorem State.setReg_cway (s : State) (off v : Nat) : (s.setReg off v).cway = s.cway := rfl
@[simp] theorem State.setReg_flt (s : State) (off v : Nat) : (s.setReg off v).flt = s.flt := rfl
@[simp] theorem State.setReg_egress (s : State) (off v : Nat) : (s.setReg off v).egress = s.egress := rfl
@[simp] theorem State.setReg_pcie (s : State) (off v : Nat) : (s.setReg off v).pcie = s.pcie := rfl

/-! ### State.setField -/

@[simp] theorem State.setField_pending (s : State) (off hi lo v : Nat) : (s.setField off hi lo v).pending = s.pending := rfl
@[simp] theorem State.setField_now (s : State) (off hi lo v : Nat) : (s.setField off hi lo v).now = s.now := rfl
@[simp] theorem State.setField_fresh (s : State) (off hi lo v : Nat) : (s.setField off hi lo v).fresh = s.fresh := rfl
@[simp] theorem State.setField_capts (s : State) (off hi lo v : Nat) : (s.setField off hi lo v).capts = s.capts := rfl
@[simp] theorem State.setField_wregs (s : State) (off hi lo v : Nat) : (s.setField off hi lo v).wregs = s.wregs := rfl
@[simp] theorem State.setField_wcapts (s : State) (off hi lo v : Nat) : (s.setField off hi lo v).wcapts = s.wcapts := rfl
@[simp] theorem State.setField_wpSeq (s : State) (off hi lo v : Nat) : (s.setField off hi lo v).wpSeq = s.wpSeq := rfl
@[simp] theorem State.setField_miso (s : State) (off hi lo v : Nat) : (s.setField off hi lo v).miso = s.miso := rfl
@[simp] theorem State.setField_power (s : State) (off hi lo v : Nat) : (s.setField off hi lo v).power = s.power := rfl
@[simp] theorem State.setField_rings (s : State) (off hi lo v : Nat) : (s.setField off hi lo v).rings = s.rings := rfl
@[simp] theorem State.setField_pollAt (s : State) (off hi lo v : Nat) : (s.setField off hi lo v).pollAt = s.pollAt := rfl
@[simp] theorem State.setField_turnAt (s : State) (off hi lo v : Nat) : (s.setField off hi lo v).turnAt = s.turnAt := rfl
@[simp] theorem State.setField_ledger (s : State) (off hi lo v : Nat) : (s.setField off hi lo v).ledger = s.ledger := rfl
@[simp] theorem State.setField_nextId (s : State) (off hi lo v : Nat) : (s.setField off hi lo v).nextId = s.nextId := rfl
@[simp] theorem State.setField_ledgerPeak (s : State) (off hi lo v : Nat) : (s.setField off hi lo v).ledgerPeak = s.ledgerPeak := rfl
@[simp] theorem State.setField_objs (s : State) (off hi lo v : Nat) : (s.setField off hi lo v).objs = s.objs := rfl
@[simp] theorem State.setField_gens (s : State) (off hi lo v : Nat) : (s.setField off hi lo v).gens = s.gens := rfl
@[simp] theorem State.setField_harb (s : State) (off hi lo v : Nat) : (s.setField off hi lo v).harb = s.harb := rfl
@[simp] theorem State.setField_ctxs (s : State) (off hi lo v : Nat) : (s.setField off hi lo v).ctxs = s.ctxs := rfl
@[simp] theorem State.setField_units (s : State) (off hi lo v : Nat) : (s.setField off hi lo v).units = s.units := rfl
@[simp] theorem State.setField_shuttles (s : State) (off hi lo v : Nat) : (s.setField off hi lo v).shuttles = s.shuttles := rfl
@[simp] theorem State.setField_tills (s : State) (off hi lo v : Nat) : (s.setField off hi lo v).tills = s.tills := rfl
@[simp] theorem State.setField_ports (s : State) (off hi lo v : Nat) : (s.setField off hi lo v).ports = s.ports := rfl
@[simp] theorem State.setField_chans (s : State) (off hi lo v : Nat) : (s.setField off hi lo v).chans = s.chans := rfl
@[simp] theorem State.setField_dramReady (s : State) (off hi lo v : Nat) : (s.setField off hi lo v).dramReady = s.dramReady := rfl
@[simp] theorem State.setField_strdCodes (s : State) (off hi lo v : Nat) : (s.setField off hi lo v).strdCodes = s.strdCodes := rfl
@[simp] theorem State.setField_sawyPixels (s : State) (off hi lo v : Nat) : (s.setField off hi lo v).sawyPixels = s.sawyPixels := rfl
@[simp] theorem State.setField_tide (s : State) (off hi lo v : Nat) : (s.setField off hi lo v).tide = s.tide := rfl
@[simp] theorem State.setField_outs (s : State) (off hi lo v : Nat) : (s.setField off hi lo v).outs = s.outs := rfl
@[simp] theorem State.setField_tcaps (s : State) (off hi lo v : Nat) : (s.setField off hi lo v).tcaps = s.tcaps := rfl
@[simp] theorem State.setField_sense (s : State) (off hi lo v : Nat) : (s.setField off hi lo v).sense = s.sense := rfl
@[simp] theorem State.setField_cway (s : State) (off hi lo v : Nat) : (s.setField off hi lo v).cway = s.cway := rfl
@[simp] theorem State.setField_flt (s : State) (off hi lo v : Nat) : (s.setField off hi lo v).flt = s.flt := rfl
@[simp] theorem State.setField_egress (s : State) (off hi lo v : Nat) : (s.setField off hi lo v).egress = s.egress := rfl
@[simp] theorem State.setField_pcie (s : State) (off hi lo v : Nat) : (s.setField off hi lo v).pcie = s.pcie := rfl

/-! ### State.setBit -/

@[simp] theorem State.setBit_pending (s : State) (off b : Nat) : (s.setBit off b).pending = s.pending := rfl
@[simp] theorem State.setBit_now (s : State) (off b : Nat) : (s.setBit off b).now = s.now := rfl
@[simp] theorem State.setBit_fresh (s : State) (off b : Nat) : (s.setBit off b).fresh = s.fresh := rfl
@[simp] theorem State.setBit_capts (s : State) (off b : Nat) : (s.setBit off b).capts = s.capts := rfl
@[simp] theorem State.setBit_wregs (s : State) (off b : Nat) : (s.setBit off b).wregs = s.wregs := rfl
@[simp] theorem State.setBit_wcapts (s : State) (off b : Nat) : (s.setBit off b).wcapts = s.wcapts := rfl
@[simp] theorem State.setBit_wpSeq (s : State) (off b : Nat) : (s.setBit off b).wpSeq = s.wpSeq := rfl
@[simp] theorem State.setBit_miso (s : State) (off b : Nat) : (s.setBit off b).miso = s.miso := rfl
@[simp] theorem State.setBit_power (s : State) (off b : Nat) : (s.setBit off b).power = s.power := rfl
@[simp] theorem State.setBit_rings (s : State) (off b : Nat) : (s.setBit off b).rings = s.rings := rfl
@[simp] theorem State.setBit_pollAt (s : State) (off b : Nat) : (s.setBit off b).pollAt = s.pollAt := rfl
@[simp] theorem State.setBit_turnAt (s : State) (off b : Nat) : (s.setBit off b).turnAt = s.turnAt := rfl
@[simp] theorem State.setBit_ledger (s : State) (off b : Nat) : (s.setBit off b).ledger = s.ledger := rfl
@[simp] theorem State.setBit_nextId (s : State) (off b : Nat) : (s.setBit off b).nextId = s.nextId := rfl
@[simp] theorem State.setBit_ledgerPeak (s : State) (off b : Nat) : (s.setBit off b).ledgerPeak = s.ledgerPeak := rfl
@[simp] theorem State.setBit_objs (s : State) (off b : Nat) : (s.setBit off b).objs = s.objs := rfl
@[simp] theorem State.setBit_gens (s : State) (off b : Nat) : (s.setBit off b).gens = s.gens := rfl
@[simp] theorem State.setBit_harb (s : State) (off b : Nat) : (s.setBit off b).harb = s.harb := rfl
@[simp] theorem State.setBit_ctxs (s : State) (off b : Nat) : (s.setBit off b).ctxs = s.ctxs := rfl
@[simp] theorem State.setBit_units (s : State) (off b : Nat) : (s.setBit off b).units = s.units := rfl
@[simp] theorem State.setBit_shuttles (s : State) (off b : Nat) : (s.setBit off b).shuttles = s.shuttles := rfl
@[simp] theorem State.setBit_tills (s : State) (off b : Nat) : (s.setBit off b).tills = s.tills := rfl
@[simp] theorem State.setBit_ports (s : State) (off b : Nat) : (s.setBit off b).ports = s.ports := rfl
@[simp] theorem State.setBit_chans (s : State) (off b : Nat) : (s.setBit off b).chans = s.chans := rfl
@[simp] theorem State.setBit_dramReady (s : State) (off b : Nat) : (s.setBit off b).dramReady = s.dramReady := rfl
@[simp] theorem State.setBit_strdCodes (s : State) (off b : Nat) : (s.setBit off b).strdCodes = s.strdCodes := rfl
@[simp] theorem State.setBit_sawyPixels (s : State) (off b : Nat) : (s.setBit off b).sawyPixels = s.sawyPixels := rfl
@[simp] theorem State.setBit_tide (s : State) (off b : Nat) : (s.setBit off b).tide = s.tide := rfl
@[simp] theorem State.setBit_outs (s : State) (off b : Nat) : (s.setBit off b).outs = s.outs := rfl
@[simp] theorem State.setBit_tcaps (s : State) (off b : Nat) : (s.setBit off b).tcaps = s.tcaps := rfl
@[simp] theorem State.setBit_sense (s : State) (off b : Nat) : (s.setBit off b).sense = s.sense := rfl
@[simp] theorem State.setBit_cway (s : State) (off b : Nat) : (s.setBit off b).cway = s.cway := rfl
@[simp] theorem State.setBit_flt (s : State) (off b : Nat) : (s.setBit off b).flt = s.flt := rfl
@[simp] theorem State.setBit_egress (s : State) (off b : Nat) : (s.setBit off b).egress = s.egress := rfl
@[simp] theorem State.setBit_pcie (s : State) (off b : Nat) : (s.setBit off b).pcie = s.pcie := rfl

/-! ### State.count -/

@[simp] theorem State.count_pending (s : State) (off hi lo n : Nat) : (s.count off hi lo n).pending = s.pending := rfl
@[simp] theorem State.count_now (s : State) (off hi lo n : Nat) : (s.count off hi lo n).now = s.now := rfl
@[simp] theorem State.count_fresh (s : State) (off hi lo n : Nat) : (s.count off hi lo n).fresh = s.fresh := rfl
@[simp] theorem State.count_capts (s : State) (off hi lo n : Nat) : (s.count off hi lo n).capts = s.capts := rfl
@[simp] theorem State.count_wregs (s : State) (off hi lo n : Nat) : (s.count off hi lo n).wregs = s.wregs := rfl
@[simp] theorem State.count_wcapts (s : State) (off hi lo n : Nat) : (s.count off hi lo n).wcapts = s.wcapts := rfl
@[simp] theorem State.count_wpSeq (s : State) (off hi lo n : Nat) : (s.count off hi lo n).wpSeq = s.wpSeq := rfl
@[simp] theorem State.count_miso (s : State) (off hi lo n : Nat) : (s.count off hi lo n).miso = s.miso := rfl
@[simp] theorem State.count_power (s : State) (off hi lo n : Nat) : (s.count off hi lo n).power = s.power := rfl
@[simp] theorem State.count_rings (s : State) (off hi lo n : Nat) : (s.count off hi lo n).rings = s.rings := rfl
@[simp] theorem State.count_pollAt (s : State) (off hi lo n : Nat) : (s.count off hi lo n).pollAt = s.pollAt := rfl
@[simp] theorem State.count_turnAt (s : State) (off hi lo n : Nat) : (s.count off hi lo n).turnAt = s.turnAt := rfl
@[simp] theorem State.count_ledger (s : State) (off hi lo n : Nat) : (s.count off hi lo n).ledger = s.ledger := rfl
@[simp] theorem State.count_nextId (s : State) (off hi lo n : Nat) : (s.count off hi lo n).nextId = s.nextId := rfl
@[simp] theorem State.count_ledgerPeak (s : State) (off hi lo n : Nat) : (s.count off hi lo n).ledgerPeak = s.ledgerPeak := rfl
@[simp] theorem State.count_objs (s : State) (off hi lo n : Nat) : (s.count off hi lo n).objs = s.objs := rfl
@[simp] theorem State.count_gens (s : State) (off hi lo n : Nat) : (s.count off hi lo n).gens = s.gens := rfl
@[simp] theorem State.count_harb (s : State) (off hi lo n : Nat) : (s.count off hi lo n).harb = s.harb := rfl
@[simp] theorem State.count_ctxs (s : State) (off hi lo n : Nat) : (s.count off hi lo n).ctxs = s.ctxs := rfl
@[simp] theorem State.count_units (s : State) (off hi lo n : Nat) : (s.count off hi lo n).units = s.units := rfl
@[simp] theorem State.count_shuttles (s : State) (off hi lo n : Nat) : (s.count off hi lo n).shuttles = s.shuttles := rfl
@[simp] theorem State.count_tills (s : State) (off hi lo n : Nat) : (s.count off hi lo n).tills = s.tills := rfl
@[simp] theorem State.count_ports (s : State) (off hi lo n : Nat) : (s.count off hi lo n).ports = s.ports := rfl
@[simp] theorem State.count_chans (s : State) (off hi lo n : Nat) : (s.count off hi lo n).chans = s.chans := rfl
@[simp] theorem State.count_dramReady (s : State) (off hi lo n : Nat) : (s.count off hi lo n).dramReady = s.dramReady := rfl
@[simp] theorem State.count_strdCodes (s : State) (off hi lo n : Nat) : (s.count off hi lo n).strdCodes = s.strdCodes := rfl
@[simp] theorem State.count_sawyPixels (s : State) (off hi lo n : Nat) : (s.count off hi lo n).sawyPixels = s.sawyPixels := rfl
@[simp] theorem State.count_tide (s : State) (off hi lo n : Nat) : (s.count off hi lo n).tide = s.tide := rfl
@[simp] theorem State.count_outs (s : State) (off hi lo n : Nat) : (s.count off hi lo n).outs = s.outs := rfl
@[simp] theorem State.count_tcaps (s : State) (off hi lo n : Nat) : (s.count off hi lo n).tcaps = s.tcaps := rfl
@[simp] theorem State.count_sense (s : State) (off hi lo n : Nat) : (s.count off hi lo n).sense = s.sense := rfl
@[simp] theorem State.count_cway (s : State) (off hi lo n : Nat) : (s.count off hi lo n).cway = s.cway := rfl
@[simp] theorem State.count_flt (s : State) (off hi lo n : Nat) : (s.count off hi lo n).flt = s.flt := rfl
@[simp] theorem State.count_egress (s : State) (off hi lo n : Nat) : (s.count off hi lo n).egress = s.egress := rfl
@[simp] theorem State.count_pcie (s : State) (off hi lo n : Nat) : (s.count off hi lo n).pcie = s.pcie := rfl

/-! ### State.setWreg -/

@[simp] theorem State.setWreg_pending (s : State) (addr v : Nat) : (s.setWreg addr v).pending = s.pending := rfl
@[simp] theorem State.setWreg_now (s : State) (addr v : Nat) : (s.setWreg addr v).now = s.now := rfl
@[simp] theorem State.setWreg_fresh (s : State) (addr v : Nat) : (s.setWreg addr v).fresh = s.fresh := rfl
@[simp] theorem State.setWreg_regs (s : State) (addr v : Nat) : (s.setWreg addr v).regs = s.regs := rfl
@[simp] theorem State.setWreg_capts (s : State) (addr v : Nat) : (s.setWreg addr v).capts = s.capts := rfl
@[simp] theorem State.setWreg_wcapts (s : State) (addr v : Nat) : (s.setWreg addr v).wcapts = s.wcapts := rfl
@[simp] theorem State.setWreg_wpSeq (s : State) (addr v : Nat) : (s.setWreg addr v).wpSeq = s.wpSeq := rfl
@[simp] theorem State.setWreg_miso (s : State) (addr v : Nat) : (s.setWreg addr v).miso = s.miso := rfl
@[simp] theorem State.setWreg_power (s : State) (addr v : Nat) : (s.setWreg addr v).power = s.power := rfl
@[simp] theorem State.setWreg_rings (s : State) (addr v : Nat) : (s.setWreg addr v).rings = s.rings := rfl
@[simp] theorem State.setWreg_pollAt (s : State) (addr v : Nat) : (s.setWreg addr v).pollAt = s.pollAt := rfl
@[simp] theorem State.setWreg_turnAt (s : State) (addr v : Nat) : (s.setWreg addr v).turnAt = s.turnAt := rfl
@[simp] theorem State.setWreg_ledger (s : State) (addr v : Nat) : (s.setWreg addr v).ledger = s.ledger := rfl
@[simp] theorem State.setWreg_nextId (s : State) (addr v : Nat) : (s.setWreg addr v).nextId = s.nextId := rfl
@[simp] theorem State.setWreg_ledgerPeak (s : State) (addr v : Nat) : (s.setWreg addr v).ledgerPeak = s.ledgerPeak := rfl
@[simp] theorem State.setWreg_objs (s : State) (addr v : Nat) : (s.setWreg addr v).objs = s.objs := rfl
@[simp] theorem State.setWreg_gens (s : State) (addr v : Nat) : (s.setWreg addr v).gens = s.gens := rfl
@[simp] theorem State.setWreg_harb (s : State) (addr v : Nat) : (s.setWreg addr v).harb = s.harb := rfl
@[simp] theorem State.setWreg_ctxs (s : State) (addr v : Nat) : (s.setWreg addr v).ctxs = s.ctxs := rfl
@[simp] theorem State.setWreg_units (s : State) (addr v : Nat) : (s.setWreg addr v).units = s.units := rfl
@[simp] theorem State.setWreg_shuttles (s : State) (addr v : Nat) : (s.setWreg addr v).shuttles = s.shuttles := rfl
@[simp] theorem State.setWreg_tills (s : State) (addr v : Nat) : (s.setWreg addr v).tills = s.tills := rfl
@[simp] theorem State.setWreg_ports (s : State) (addr v : Nat) : (s.setWreg addr v).ports = s.ports := rfl
@[simp] theorem State.setWreg_chans (s : State) (addr v : Nat) : (s.setWreg addr v).chans = s.chans := rfl
@[simp] theorem State.setWreg_dramReady (s : State) (addr v : Nat) : (s.setWreg addr v).dramReady = s.dramReady := rfl
@[simp] theorem State.setWreg_strdCodes (s : State) (addr v : Nat) : (s.setWreg addr v).strdCodes = s.strdCodes := rfl
@[simp] theorem State.setWreg_sawyPixels (s : State) (addr v : Nat) : (s.setWreg addr v).sawyPixels = s.sawyPixels := rfl
@[simp] theorem State.setWreg_tide (s : State) (addr v : Nat) : (s.setWreg addr v).tide = s.tide := rfl
@[simp] theorem State.setWreg_outs (s : State) (addr v : Nat) : (s.setWreg addr v).outs = s.outs := rfl
@[simp] theorem State.setWreg_tcaps (s : State) (addr v : Nat) : (s.setWreg addr v).tcaps = s.tcaps := rfl
@[simp] theorem State.setWreg_sense (s : State) (addr v : Nat) : (s.setWreg addr v).sense = s.sense := rfl
@[simp] theorem State.setWreg_cway (s : State) (addr v : Nat) : (s.setWreg addr v).cway = s.cway := rfl
@[simp] theorem State.setWreg_flt (s : State) (addr v : Nat) : (s.setWreg addr v).flt = s.flt := rfl
@[simp] theorem State.setWreg_egress (s : State) (addr v : Nat) : (s.setWreg addr v).egress = s.egress := rfl
@[simp] theorem State.setWreg_pcie (s : State) (addr v : Nat) : (s.setWreg addr v).pcie = s.pcie := rfl

/-! ### State.setWbit -/

@[simp] theorem State.setWbit_pending (s : State) (addr b : Nat) : (s.setWbit addr b).pending = s.pending := rfl
@[simp] theorem State.setWbit_now (s : State) (addr b : Nat) : (s.setWbit addr b).now = s.now := rfl
@[simp] theorem State.setWbit_fresh (s : State) (addr b : Nat) : (s.setWbit addr b).fresh = s.fresh := rfl
@[simp] theorem State.setWbit_regs (s : State) (addr b : Nat) : (s.setWbit addr b).regs = s.regs := rfl
@[simp] theorem State.setWbit_capts (s : State) (addr b : Nat) : (s.setWbit addr b).capts = s.capts := rfl
@[simp] theorem State.setWbit_wcapts (s : State) (addr b : Nat) : (s.setWbit addr b).wcapts = s.wcapts := rfl
@[simp] theorem State.setWbit_wpSeq (s : State) (addr b : Nat) : (s.setWbit addr b).wpSeq = s.wpSeq := rfl
@[simp] theorem State.setWbit_miso (s : State) (addr b : Nat) : (s.setWbit addr b).miso = s.miso := rfl
@[simp] theorem State.setWbit_power (s : State) (addr b : Nat) : (s.setWbit addr b).power = s.power := rfl
@[simp] theorem State.setWbit_rings (s : State) (addr b : Nat) : (s.setWbit addr b).rings = s.rings := rfl
@[simp] theorem State.setWbit_pollAt (s : State) (addr b : Nat) : (s.setWbit addr b).pollAt = s.pollAt := rfl
@[simp] theorem State.setWbit_turnAt (s : State) (addr b : Nat) : (s.setWbit addr b).turnAt = s.turnAt := rfl
@[simp] theorem State.setWbit_ledger (s : State) (addr b : Nat) : (s.setWbit addr b).ledger = s.ledger := rfl
@[simp] theorem State.setWbit_nextId (s : State) (addr b : Nat) : (s.setWbit addr b).nextId = s.nextId := rfl
@[simp] theorem State.setWbit_ledgerPeak (s : State) (addr b : Nat) : (s.setWbit addr b).ledgerPeak = s.ledgerPeak := rfl
@[simp] theorem State.setWbit_objs (s : State) (addr b : Nat) : (s.setWbit addr b).objs = s.objs := rfl
@[simp] theorem State.setWbit_gens (s : State) (addr b : Nat) : (s.setWbit addr b).gens = s.gens := rfl
@[simp] theorem State.setWbit_harb (s : State) (addr b : Nat) : (s.setWbit addr b).harb = s.harb := rfl
@[simp] theorem State.setWbit_ctxs (s : State) (addr b : Nat) : (s.setWbit addr b).ctxs = s.ctxs := rfl
@[simp] theorem State.setWbit_units (s : State) (addr b : Nat) : (s.setWbit addr b).units = s.units := rfl
@[simp] theorem State.setWbit_shuttles (s : State) (addr b : Nat) : (s.setWbit addr b).shuttles = s.shuttles := rfl
@[simp] theorem State.setWbit_tills (s : State) (addr b : Nat) : (s.setWbit addr b).tills = s.tills := rfl
@[simp] theorem State.setWbit_ports (s : State) (addr b : Nat) : (s.setWbit addr b).ports = s.ports := rfl
@[simp] theorem State.setWbit_chans (s : State) (addr b : Nat) : (s.setWbit addr b).chans = s.chans := rfl
@[simp] theorem State.setWbit_dramReady (s : State) (addr b : Nat) : (s.setWbit addr b).dramReady = s.dramReady := rfl
@[simp] theorem State.setWbit_strdCodes (s : State) (addr b : Nat) : (s.setWbit addr b).strdCodes = s.strdCodes := rfl
@[simp] theorem State.setWbit_sawyPixels (s : State) (addr b : Nat) : (s.setWbit addr b).sawyPixels = s.sawyPixels := rfl
@[simp] theorem State.setWbit_tide (s : State) (addr b : Nat) : (s.setWbit addr b).tide = s.tide := rfl
@[simp] theorem State.setWbit_outs (s : State) (addr b : Nat) : (s.setWbit addr b).outs = s.outs := rfl
@[simp] theorem State.setWbit_tcaps (s : State) (addr b : Nat) : (s.setWbit addr b).tcaps = s.tcaps := rfl
@[simp] theorem State.setWbit_sense (s : State) (addr b : Nat) : (s.setWbit addr b).sense = s.sense := rfl
@[simp] theorem State.setWbit_cway (s : State) (addr b : Nat) : (s.setWbit addr b).cway = s.cway := rfl
@[simp] theorem State.setWbit_flt (s : State) (addr b : Nat) : (s.setWbit addr b).flt = s.flt := rfl
@[simp] theorem State.setWbit_egress (s : State) (addr b : Nat) : (s.setWbit addr b).egress = s.egress := rfl
@[simp] theorem State.setWbit_pcie (s : State) (addr b : Nat) : (s.setWbit addr b).pcie = s.pcie := rfl

/-! ### State.setCapt -/

@[simp] theorem State.setCapt_pending (s : State) (off v : Nat) : (s.setCapt off v).pending = s.pending := rfl
@[simp] theorem State.setCapt_now (s : State) (off v : Nat) : (s.setCapt off v).now = s.now := rfl
@[simp] theorem State.setCapt_fresh (s : State) (off v : Nat) : (s.setCapt off v).fresh = s.fresh := rfl
@[simp] theorem State.setCapt_regs (s : State) (off v : Nat) : (s.setCapt off v).regs = s.regs := rfl
@[simp] theorem State.setCapt_capts (s : State) (off v : Nat) : (s.setCapt off v).capts = tabPut s.capts off (BitVec.ofNat 32 v) := rfl
@[simp] theorem State.setCapt_wregs (s : State) (off v : Nat) : (s.setCapt off v).wregs = s.wregs := rfl
@[simp] theorem State.setCapt_wcapts (s : State) (off v : Nat) : (s.setCapt off v).wcapts = s.wcapts := rfl
@[simp] theorem State.setCapt_wpSeq (s : State) (off v : Nat) : (s.setCapt off v).wpSeq = s.wpSeq := rfl
@[simp] theorem State.setCapt_miso (s : State) (off v : Nat) : (s.setCapt off v).miso = s.miso := rfl
@[simp] theorem State.setCapt_power (s : State) (off v : Nat) : (s.setCapt off v).power = s.power := rfl
@[simp] theorem State.setCapt_rings (s : State) (off v : Nat) : (s.setCapt off v).rings = s.rings := rfl
@[simp] theorem State.setCapt_pollAt (s : State) (off v : Nat) : (s.setCapt off v).pollAt = s.pollAt := rfl
@[simp] theorem State.setCapt_turnAt (s : State) (off v : Nat) : (s.setCapt off v).turnAt = s.turnAt := rfl
@[simp] theorem State.setCapt_ledger (s : State) (off v : Nat) : (s.setCapt off v).ledger = s.ledger := rfl
@[simp] theorem State.setCapt_nextId (s : State) (off v : Nat) : (s.setCapt off v).nextId = s.nextId := rfl
@[simp] theorem State.setCapt_ledgerPeak (s : State) (off v : Nat) : (s.setCapt off v).ledgerPeak = s.ledgerPeak := rfl
@[simp] theorem State.setCapt_objs (s : State) (off v : Nat) : (s.setCapt off v).objs = s.objs := rfl
@[simp] theorem State.setCapt_gens (s : State) (off v : Nat) : (s.setCapt off v).gens = s.gens := rfl
@[simp] theorem State.setCapt_harb (s : State) (off v : Nat) : (s.setCapt off v).harb = s.harb := rfl
@[simp] theorem State.setCapt_ctxs (s : State) (off v : Nat) : (s.setCapt off v).ctxs = s.ctxs := rfl
@[simp] theorem State.setCapt_units (s : State) (off v : Nat) : (s.setCapt off v).units = s.units := rfl
@[simp] theorem State.setCapt_shuttles (s : State) (off v : Nat) : (s.setCapt off v).shuttles = s.shuttles := rfl
@[simp] theorem State.setCapt_tills (s : State) (off v : Nat) : (s.setCapt off v).tills = s.tills := rfl
@[simp] theorem State.setCapt_ports (s : State) (off v : Nat) : (s.setCapt off v).ports = s.ports := rfl
@[simp] theorem State.setCapt_chans (s : State) (off v : Nat) : (s.setCapt off v).chans = s.chans := rfl
@[simp] theorem State.setCapt_dramReady (s : State) (off v : Nat) : (s.setCapt off v).dramReady = s.dramReady := rfl
@[simp] theorem State.setCapt_strdCodes (s : State) (off v : Nat) : (s.setCapt off v).strdCodes = s.strdCodes := rfl
@[simp] theorem State.setCapt_sawyPixels (s : State) (off v : Nat) : (s.setCapt off v).sawyPixels = s.sawyPixels := rfl
@[simp] theorem State.setCapt_tide (s : State) (off v : Nat) : (s.setCapt off v).tide = s.tide := rfl
@[simp] theorem State.setCapt_outs (s : State) (off v : Nat) : (s.setCapt off v).outs = s.outs := rfl
@[simp] theorem State.setCapt_tcaps (s : State) (off v : Nat) : (s.setCapt off v).tcaps = s.tcaps := rfl
@[simp] theorem State.setCapt_sense (s : State) (off v : Nat) : (s.setCapt off v).sense = s.sense := rfl
@[simp] theorem State.setCapt_cway (s : State) (off v : Nat) : (s.setCapt off v).cway = s.cway := rfl
@[simp] theorem State.setCapt_flt (s : State) (off v : Nat) : (s.setCapt off v).flt = s.flt := rfl
@[simp] theorem State.setCapt_egress (s : State) (off v : Nat) : (s.setCapt off v).egress = s.egress := rfl
@[simp] theorem State.setCapt_pcie (s : State) (off v : Nat) : (s.setCapt off v).pcie = s.pcie := rfl

/-! ### State.setRing -/

@[simp] theorem State.setRing_pending (s : State) (r : Nat) (x : Ring) : (s.setRing r x).pending = s.pending := rfl
@[simp] theorem State.setRing_now (s : State) (r : Nat) (x : Ring) : (s.setRing r x).now = s.now := rfl
@[simp] theorem State.setRing_fresh (s : State) (r : Nat) (x : Ring) : (s.setRing r x).fresh = s.fresh := rfl
@[simp] theorem State.setRing_regs (s : State) (r : Nat) (x : Ring) : (s.setRing r x).regs = s.regs := rfl
@[simp] theorem State.setRing_capts (s : State) (r : Nat) (x : Ring) : (s.setRing r x).capts = s.capts := rfl
@[simp] theorem State.setRing_wregs (s : State) (r : Nat) (x : Ring) : (s.setRing r x).wregs = s.wregs := rfl
@[simp] theorem State.setRing_wcapts (s : State) (r : Nat) (x : Ring) : (s.setRing r x).wcapts = s.wcapts := rfl
@[simp] theorem State.setRing_wpSeq (s : State) (r : Nat) (x : Ring) : (s.setRing r x).wpSeq = s.wpSeq := rfl
@[simp] theorem State.setRing_miso (s : State) (r : Nat) (x : Ring) : (s.setRing r x).miso = s.miso := rfl
@[simp] theorem State.setRing_power (s : State) (r : Nat) (x : Ring) : (s.setRing r x).power = s.power := rfl
@[simp] theorem State.setRing_rings (s : State) (r : Nat) (x : Ring) : (s.setRing r x).rings = tabPut s.rings r x := rfl
@[simp] theorem State.setRing_pollAt (s : State) (r : Nat) (x : Ring) : (s.setRing r x).pollAt = s.pollAt := rfl
@[simp] theorem State.setRing_turnAt (s : State) (r : Nat) (x : Ring) : (s.setRing r x).turnAt = s.turnAt := rfl
@[simp] theorem State.setRing_ledger (s : State) (r : Nat) (x : Ring) : (s.setRing r x).ledger = s.ledger := rfl
@[simp] theorem State.setRing_nextId (s : State) (r : Nat) (x : Ring) : (s.setRing r x).nextId = s.nextId := rfl
@[simp] theorem State.setRing_ledgerPeak (s : State) (r : Nat) (x : Ring) : (s.setRing r x).ledgerPeak = s.ledgerPeak := rfl
@[simp] theorem State.setRing_objs (s : State) (r : Nat) (x : Ring) : (s.setRing r x).objs = s.objs := rfl
@[simp] theorem State.setRing_gens (s : State) (r : Nat) (x : Ring) : (s.setRing r x).gens = s.gens := rfl
@[simp] theorem State.setRing_harb (s : State) (r : Nat) (x : Ring) : (s.setRing r x).harb = s.harb := rfl
@[simp] theorem State.setRing_ctxs (s : State) (r : Nat) (x : Ring) : (s.setRing r x).ctxs = s.ctxs := rfl
@[simp] theorem State.setRing_units (s : State) (r : Nat) (x : Ring) : (s.setRing r x).units = s.units := rfl
@[simp] theorem State.setRing_shuttles (s : State) (r : Nat) (x : Ring) : (s.setRing r x).shuttles = s.shuttles := rfl
@[simp] theorem State.setRing_tills (s : State) (r : Nat) (x : Ring) : (s.setRing r x).tills = s.tills := rfl
@[simp] theorem State.setRing_ports (s : State) (r : Nat) (x : Ring) : (s.setRing r x).ports = s.ports := rfl
@[simp] theorem State.setRing_chans (s : State) (r : Nat) (x : Ring) : (s.setRing r x).chans = s.chans := rfl
@[simp] theorem State.setRing_dramReady (s : State) (r : Nat) (x : Ring) : (s.setRing r x).dramReady = s.dramReady := rfl
@[simp] theorem State.setRing_strdCodes (s : State) (r : Nat) (x : Ring) : (s.setRing r x).strdCodes = s.strdCodes := rfl
@[simp] theorem State.setRing_sawyPixels (s : State) (r : Nat) (x : Ring) : (s.setRing r x).sawyPixels = s.sawyPixels := rfl
@[simp] theorem State.setRing_tide (s : State) (r : Nat) (x : Ring) : (s.setRing r x).tide = s.tide := rfl
@[simp] theorem State.setRing_outs (s : State) (r : Nat) (x : Ring) : (s.setRing r x).outs = s.outs := rfl
@[simp] theorem State.setRing_tcaps (s : State) (r : Nat) (x : Ring) : (s.setRing r x).tcaps = s.tcaps := rfl
@[simp] theorem State.setRing_sense (s : State) (r : Nat) (x : Ring) : (s.setRing r x).sense = s.sense := rfl
@[simp] theorem State.setRing_cway (s : State) (r : Nat) (x : Ring) : (s.setRing r x).cway = s.cway := rfl
@[simp] theorem State.setRing_flt (s : State) (r : Nat) (x : Ring) : (s.setRing r x).flt = s.flt := rfl
@[simp] theorem State.setRing_egress (s : State) (r : Nat) (x : Ring) : (s.setRing r x).egress = s.egress := rfl
@[simp] theorem State.setRing_pcie (s : State) (r : Nat) (x : Ring) : (s.setRing r x).pcie = s.pcie := rfl

/-! ### State.modRing -/

@[simp] theorem State.modRing_pending (s : State) (r : Nat) (f : Ring → Ring) : (s.modRing r f).pending = s.pending := rfl
@[simp] theorem State.modRing_now (s : State) (r : Nat) (f : Ring → Ring) : (s.modRing r f).now = s.now := rfl
@[simp] theorem State.modRing_fresh (s : State) (r : Nat) (f : Ring → Ring) : (s.modRing r f).fresh = s.fresh := rfl
@[simp] theorem State.modRing_regs (s : State) (r : Nat) (f : Ring → Ring) : (s.modRing r f).regs = s.regs := rfl
@[simp] theorem State.modRing_capts (s : State) (r : Nat) (f : Ring → Ring) : (s.modRing r f).capts = s.capts := rfl
@[simp] theorem State.modRing_wregs (s : State) (r : Nat) (f : Ring → Ring) : (s.modRing r f).wregs = s.wregs := rfl
@[simp] theorem State.modRing_wcapts (s : State) (r : Nat) (f : Ring → Ring) : (s.modRing r f).wcapts = s.wcapts := rfl
@[simp] theorem State.modRing_wpSeq (s : State) (r : Nat) (f : Ring → Ring) : (s.modRing r f).wpSeq = s.wpSeq := rfl
@[simp] theorem State.modRing_miso (s : State) (r : Nat) (f : Ring → Ring) : (s.modRing r f).miso = s.miso := rfl
@[simp] theorem State.modRing_power (s : State) (r : Nat) (f : Ring → Ring) : (s.modRing r f).power = s.power := rfl
@[simp] theorem State.modRing_rings (s : State) (r : Nat) (f : Ring → Ring) : (s.modRing r f).rings = tabPut s.rings r (f (s.ring r)) := rfl
@[simp] theorem State.modRing_pollAt (s : State) (r : Nat) (f : Ring → Ring) : (s.modRing r f).pollAt = s.pollAt := rfl
@[simp] theorem State.modRing_turnAt (s : State) (r : Nat) (f : Ring → Ring) : (s.modRing r f).turnAt = s.turnAt := rfl
@[simp] theorem State.modRing_ledger (s : State) (r : Nat) (f : Ring → Ring) : (s.modRing r f).ledger = s.ledger := rfl
@[simp] theorem State.modRing_nextId (s : State) (r : Nat) (f : Ring → Ring) : (s.modRing r f).nextId = s.nextId := rfl
@[simp] theorem State.modRing_ledgerPeak (s : State) (r : Nat) (f : Ring → Ring) : (s.modRing r f).ledgerPeak = s.ledgerPeak := rfl
@[simp] theorem State.modRing_objs (s : State) (r : Nat) (f : Ring → Ring) : (s.modRing r f).objs = s.objs := rfl
@[simp] theorem State.modRing_gens (s : State) (r : Nat) (f : Ring → Ring) : (s.modRing r f).gens = s.gens := rfl
@[simp] theorem State.modRing_harb (s : State) (r : Nat) (f : Ring → Ring) : (s.modRing r f).harb = s.harb := rfl
@[simp] theorem State.modRing_ctxs (s : State) (r : Nat) (f : Ring → Ring) : (s.modRing r f).ctxs = s.ctxs := rfl
@[simp] theorem State.modRing_units (s : State) (r : Nat) (f : Ring → Ring) : (s.modRing r f).units = s.units := rfl
@[simp] theorem State.modRing_shuttles (s : State) (r : Nat) (f : Ring → Ring) : (s.modRing r f).shuttles = s.shuttles := rfl
@[simp] theorem State.modRing_tills (s : State) (r : Nat) (f : Ring → Ring) : (s.modRing r f).tills = s.tills := rfl
@[simp] theorem State.modRing_ports (s : State) (r : Nat) (f : Ring → Ring) : (s.modRing r f).ports = s.ports := rfl
@[simp] theorem State.modRing_chans (s : State) (r : Nat) (f : Ring → Ring) : (s.modRing r f).chans = s.chans := rfl
@[simp] theorem State.modRing_dramReady (s : State) (r : Nat) (f : Ring → Ring) : (s.modRing r f).dramReady = s.dramReady := rfl
@[simp] theorem State.modRing_strdCodes (s : State) (r : Nat) (f : Ring → Ring) : (s.modRing r f).strdCodes = s.strdCodes := rfl
@[simp] theorem State.modRing_sawyPixels (s : State) (r : Nat) (f : Ring → Ring) : (s.modRing r f).sawyPixels = s.sawyPixels := rfl
@[simp] theorem State.modRing_tide (s : State) (r : Nat) (f : Ring → Ring) : (s.modRing r f).tide = s.tide := rfl
@[simp] theorem State.modRing_outs (s : State) (r : Nat) (f : Ring → Ring) : (s.modRing r f).outs = s.outs := rfl
@[simp] theorem State.modRing_tcaps (s : State) (r : Nat) (f : Ring → Ring) : (s.modRing r f).tcaps = s.tcaps := rfl
@[simp] theorem State.modRing_sense (s : State) (r : Nat) (f : Ring → Ring) : (s.modRing r f).sense = s.sense := rfl
@[simp] theorem State.modRing_cway (s : State) (r : Nat) (f : Ring → Ring) : (s.modRing r f).cway = s.cway := rfl
@[simp] theorem State.modRing_flt (s : State) (r : Nat) (f : Ring → Ring) : (s.modRing r f).flt = s.flt := rfl
@[simp] theorem State.modRing_egress (s : State) (r : Nat) (f : Ring → Ring) : (s.modRing r f).egress = s.egress := rfl
@[simp] theorem State.modRing_pcie (s : State) (r : Nat) (f : Ring → Ring) : (s.modRing r f).pcie = s.pcie := rfl

/-! ### State.setPort -/

@[simp] theorem State.setPort_pending (s : State) (p : Nat) (x : Port) : (s.setPort p x).pending = s.pending := rfl
@[simp] theorem State.setPort_now (s : State) (p : Nat) (x : Port) : (s.setPort p x).now = s.now := rfl
@[simp] theorem State.setPort_fresh (s : State) (p : Nat) (x : Port) : (s.setPort p x).fresh = s.fresh := rfl
@[simp] theorem State.setPort_regs (s : State) (p : Nat) (x : Port) : (s.setPort p x).regs = s.regs := rfl
@[simp] theorem State.setPort_capts (s : State) (p : Nat) (x : Port) : (s.setPort p x).capts = s.capts := rfl
@[simp] theorem State.setPort_wregs (s : State) (p : Nat) (x : Port) : (s.setPort p x).wregs = s.wregs := rfl
@[simp] theorem State.setPort_wcapts (s : State) (p : Nat) (x : Port) : (s.setPort p x).wcapts = s.wcapts := rfl
@[simp] theorem State.setPort_wpSeq (s : State) (p : Nat) (x : Port) : (s.setPort p x).wpSeq = s.wpSeq := rfl
@[simp] theorem State.setPort_miso (s : State) (p : Nat) (x : Port) : (s.setPort p x).miso = s.miso := rfl
@[simp] theorem State.setPort_power (s : State) (p : Nat) (x : Port) : (s.setPort p x).power = s.power := rfl
@[simp] theorem State.setPort_rings (s : State) (p : Nat) (x : Port) : (s.setPort p x).rings = s.rings := rfl
@[simp] theorem State.setPort_pollAt (s : State) (p : Nat) (x : Port) : (s.setPort p x).pollAt = s.pollAt := rfl
@[simp] theorem State.setPort_turnAt (s : State) (p : Nat) (x : Port) : (s.setPort p x).turnAt = s.turnAt := rfl
@[simp] theorem State.setPort_ledger (s : State) (p : Nat) (x : Port) : (s.setPort p x).ledger = s.ledger := rfl
@[simp] theorem State.setPort_nextId (s : State) (p : Nat) (x : Port) : (s.setPort p x).nextId = s.nextId := rfl
@[simp] theorem State.setPort_ledgerPeak (s : State) (p : Nat) (x : Port) : (s.setPort p x).ledgerPeak = s.ledgerPeak := rfl
@[simp] theorem State.setPort_objs (s : State) (p : Nat) (x : Port) : (s.setPort p x).objs = s.objs := rfl
@[simp] theorem State.setPort_gens (s : State) (p : Nat) (x : Port) : (s.setPort p x).gens = s.gens := rfl
@[simp] theorem State.setPort_harb (s : State) (p : Nat) (x : Port) : (s.setPort p x).harb = s.harb := rfl
@[simp] theorem State.setPort_ctxs (s : State) (p : Nat) (x : Port) : (s.setPort p x).ctxs = s.ctxs := rfl
@[simp] theorem State.setPort_units (s : State) (p : Nat) (x : Port) : (s.setPort p x).units = s.units := rfl
@[simp] theorem State.setPort_shuttles (s : State) (p : Nat) (x : Port) : (s.setPort p x).shuttles = s.shuttles := rfl
@[simp] theorem State.setPort_tills (s : State) (p : Nat) (x : Port) : (s.setPort p x).tills = s.tills := rfl
@[simp] theorem State.setPort_ports (s : State) (p : Nat) (x : Port) : (s.setPort p x).ports = tabPut s.ports p x := rfl
@[simp] theorem State.setPort_chans (s : State) (p : Nat) (x : Port) : (s.setPort p x).chans = s.chans := rfl
@[simp] theorem State.setPort_dramReady (s : State) (p : Nat) (x : Port) : (s.setPort p x).dramReady = s.dramReady := rfl
@[simp] theorem State.setPort_strdCodes (s : State) (p : Nat) (x : Port) : (s.setPort p x).strdCodes = s.strdCodes := rfl
@[simp] theorem State.setPort_sawyPixels (s : State) (p : Nat) (x : Port) : (s.setPort p x).sawyPixels = s.sawyPixels := rfl
@[simp] theorem State.setPort_tide (s : State) (p : Nat) (x : Port) : (s.setPort p x).tide = s.tide := rfl
@[simp] theorem State.setPort_outs (s : State) (p : Nat) (x : Port) : (s.setPort p x).outs = s.outs := rfl
@[simp] theorem State.setPort_tcaps (s : State) (p : Nat) (x : Port) : (s.setPort p x).tcaps = s.tcaps := rfl
@[simp] theorem State.setPort_sense (s : State) (p : Nat) (x : Port) : (s.setPort p x).sense = s.sense := rfl
@[simp] theorem State.setPort_cway (s : State) (p : Nat) (x : Port) : (s.setPort p x).cway = s.cway := rfl
@[simp] theorem State.setPort_flt (s : State) (p : Nat) (x : Port) : (s.setPort p x).flt = s.flt := rfl
@[simp] theorem State.setPort_egress (s : State) (p : Nat) (x : Port) : (s.setPort p x).egress = s.egress := rfl
@[simp] theorem State.setPort_pcie (s : State) (p : Nat) (x : Port) : (s.setPort p x).pcie = s.pcie := rfl

/-! ### State.modPort -/

@[simp] theorem State.modPort_pending (s : State) (p : Nat) (f : Port → Port) : (s.modPort p f).pending = s.pending := rfl
@[simp] theorem State.modPort_now (s : State) (p : Nat) (f : Port → Port) : (s.modPort p f).now = s.now := rfl
@[simp] theorem State.modPort_fresh (s : State) (p : Nat) (f : Port → Port) : (s.modPort p f).fresh = s.fresh := rfl
@[simp] theorem State.modPort_regs (s : State) (p : Nat) (f : Port → Port) : (s.modPort p f).regs = s.regs := rfl
@[simp] theorem State.modPort_capts (s : State) (p : Nat) (f : Port → Port) : (s.modPort p f).capts = s.capts := rfl
@[simp] theorem State.modPort_wregs (s : State) (p : Nat) (f : Port → Port) : (s.modPort p f).wregs = s.wregs := rfl
@[simp] theorem State.modPort_wcapts (s : State) (p : Nat) (f : Port → Port) : (s.modPort p f).wcapts = s.wcapts := rfl
@[simp] theorem State.modPort_wpSeq (s : State) (p : Nat) (f : Port → Port) : (s.modPort p f).wpSeq = s.wpSeq := rfl
@[simp] theorem State.modPort_miso (s : State) (p : Nat) (f : Port → Port) : (s.modPort p f).miso = s.miso := rfl
@[simp] theorem State.modPort_power (s : State) (p : Nat) (f : Port → Port) : (s.modPort p f).power = s.power := rfl
@[simp] theorem State.modPort_rings (s : State) (p : Nat) (f : Port → Port) : (s.modPort p f).rings = s.rings := rfl
@[simp] theorem State.modPort_pollAt (s : State) (p : Nat) (f : Port → Port) : (s.modPort p f).pollAt = s.pollAt := rfl
@[simp] theorem State.modPort_turnAt (s : State) (p : Nat) (f : Port → Port) : (s.modPort p f).turnAt = s.turnAt := rfl
@[simp] theorem State.modPort_ledger (s : State) (p : Nat) (f : Port → Port) : (s.modPort p f).ledger = s.ledger := rfl
@[simp] theorem State.modPort_nextId (s : State) (p : Nat) (f : Port → Port) : (s.modPort p f).nextId = s.nextId := rfl
@[simp] theorem State.modPort_ledgerPeak (s : State) (p : Nat) (f : Port → Port) : (s.modPort p f).ledgerPeak = s.ledgerPeak := rfl
@[simp] theorem State.modPort_objs (s : State) (p : Nat) (f : Port → Port) : (s.modPort p f).objs = s.objs := rfl
@[simp] theorem State.modPort_gens (s : State) (p : Nat) (f : Port → Port) : (s.modPort p f).gens = s.gens := rfl
@[simp] theorem State.modPort_harb (s : State) (p : Nat) (f : Port → Port) : (s.modPort p f).harb = s.harb := rfl
@[simp] theorem State.modPort_ctxs (s : State) (p : Nat) (f : Port → Port) : (s.modPort p f).ctxs = s.ctxs := rfl
@[simp] theorem State.modPort_units (s : State) (p : Nat) (f : Port → Port) : (s.modPort p f).units = s.units := rfl
@[simp] theorem State.modPort_shuttles (s : State) (p : Nat) (f : Port → Port) : (s.modPort p f).shuttles = s.shuttles := rfl
@[simp] theorem State.modPort_tills (s : State) (p : Nat) (f : Port → Port) : (s.modPort p f).tills = s.tills := rfl
@[simp] theorem State.modPort_ports (s : State) (p : Nat) (f : Port → Port) : (s.modPort p f).ports = tabPut s.ports p (f (s.port p)) := rfl
@[simp] theorem State.modPort_chans (s : State) (p : Nat) (f : Port → Port) : (s.modPort p f).chans = s.chans := rfl
@[simp] theorem State.modPort_dramReady (s : State) (p : Nat) (f : Port → Port) : (s.modPort p f).dramReady = s.dramReady := rfl
@[simp] theorem State.modPort_strdCodes (s : State) (p : Nat) (f : Port → Port) : (s.modPort p f).strdCodes = s.strdCodes := rfl
@[simp] theorem State.modPort_sawyPixels (s : State) (p : Nat) (f : Port → Port) : (s.modPort p f).sawyPixels = s.sawyPixels := rfl
@[simp] theorem State.modPort_tide (s : State) (p : Nat) (f : Port → Port) : (s.modPort p f).tide = s.tide := rfl
@[simp] theorem State.modPort_outs (s : State) (p : Nat) (f : Port → Port) : (s.modPort p f).outs = s.outs := rfl
@[simp] theorem State.modPort_tcaps (s : State) (p : Nat) (f : Port → Port) : (s.modPort p f).tcaps = s.tcaps := rfl
@[simp] theorem State.modPort_sense (s : State) (p : Nat) (f : Port → Port) : (s.modPort p f).sense = s.sense := rfl
@[simp] theorem State.modPort_cway (s : State) (p : Nat) (f : Port → Port) : (s.modPort p f).cway = s.cway := rfl
@[simp] theorem State.modPort_flt (s : State) (p : Nat) (f : Port → Port) : (s.modPort p f).flt = s.flt := rfl
@[simp] theorem State.modPort_egress (s : State) (p : Nat) (f : Port → Port) : (s.modPort p f).egress = s.egress := rfl
@[simp] theorem State.modPort_pcie (s : State) (p : Nat) (f : Port → Port) : (s.modPort p f).pcie = s.pcie := rfl

/-! ### State.modLink -/

@[simp] theorem State.modLink_pending (s : State) (p : Nat) (f : Link → Link) : (s.modLink p f).pending = s.pending := rfl
@[simp] theorem State.modLink_now (s : State) (p : Nat) (f : Link → Link) : (s.modLink p f).now = s.now := rfl
@[simp] theorem State.modLink_fresh (s : State) (p : Nat) (f : Link → Link) : (s.modLink p f).fresh = s.fresh := rfl
@[simp] theorem State.modLink_regs (s : State) (p : Nat) (f : Link → Link) : (s.modLink p f).regs = s.regs := rfl
@[simp] theorem State.modLink_capts (s : State) (p : Nat) (f : Link → Link) : (s.modLink p f).capts = s.capts := rfl
@[simp] theorem State.modLink_wregs (s : State) (p : Nat) (f : Link → Link) : (s.modLink p f).wregs = s.wregs := rfl
@[simp] theorem State.modLink_wcapts (s : State) (p : Nat) (f : Link → Link) : (s.modLink p f).wcapts = s.wcapts := rfl
@[simp] theorem State.modLink_wpSeq (s : State) (p : Nat) (f : Link → Link) : (s.modLink p f).wpSeq = s.wpSeq := rfl
@[simp] theorem State.modLink_miso (s : State) (p : Nat) (f : Link → Link) : (s.modLink p f).miso = s.miso := rfl
@[simp] theorem State.modLink_power (s : State) (p : Nat) (f : Link → Link) : (s.modLink p f).power = s.power := rfl
@[simp] theorem State.modLink_rings (s : State) (p : Nat) (f : Link → Link) : (s.modLink p f).rings = s.rings := rfl
@[simp] theorem State.modLink_pollAt (s : State) (p : Nat) (f : Link → Link) : (s.modLink p f).pollAt = s.pollAt := rfl
@[simp] theorem State.modLink_turnAt (s : State) (p : Nat) (f : Link → Link) : (s.modLink p f).turnAt = s.turnAt := rfl
@[simp] theorem State.modLink_ledger (s : State) (p : Nat) (f : Link → Link) : (s.modLink p f).ledger = s.ledger := rfl
@[simp] theorem State.modLink_nextId (s : State) (p : Nat) (f : Link → Link) : (s.modLink p f).nextId = s.nextId := rfl
@[simp] theorem State.modLink_ledgerPeak (s : State) (p : Nat) (f : Link → Link) : (s.modLink p f).ledgerPeak = s.ledgerPeak := rfl
@[simp] theorem State.modLink_objs (s : State) (p : Nat) (f : Link → Link) : (s.modLink p f).objs = s.objs := rfl
@[simp] theorem State.modLink_gens (s : State) (p : Nat) (f : Link → Link) : (s.modLink p f).gens = s.gens := rfl
@[simp] theorem State.modLink_harb (s : State) (p : Nat) (f : Link → Link) : (s.modLink p f).harb = s.harb := rfl
@[simp] theorem State.modLink_ctxs (s : State) (p : Nat) (f : Link → Link) : (s.modLink p f).ctxs = s.ctxs := rfl
@[simp] theorem State.modLink_units (s : State) (p : Nat) (f : Link → Link) : (s.modLink p f).units = s.units := rfl
@[simp] theorem State.modLink_shuttles (s : State) (p : Nat) (f : Link → Link) : (s.modLink p f).shuttles = s.shuttles := rfl
@[simp] theorem State.modLink_tills (s : State) (p : Nat) (f : Link → Link) : (s.modLink p f).tills = s.tills := rfl
@[simp] theorem State.modLink_chans (s : State) (p : Nat) (f : Link → Link) : (s.modLink p f).chans = s.chans := rfl
@[simp] theorem State.modLink_dramReady (s : State) (p : Nat) (f : Link → Link) : (s.modLink p f).dramReady = s.dramReady := rfl
@[simp] theorem State.modLink_strdCodes (s : State) (p : Nat) (f : Link → Link) : (s.modLink p f).strdCodes = s.strdCodes := rfl
@[simp] theorem State.modLink_sawyPixels (s : State) (p : Nat) (f : Link → Link) : (s.modLink p f).sawyPixels = s.sawyPixels := rfl
@[simp] theorem State.modLink_tide (s : State) (p : Nat) (f : Link → Link) : (s.modLink p f).tide = s.tide := rfl
@[simp] theorem State.modLink_outs (s : State) (p : Nat) (f : Link → Link) : (s.modLink p f).outs = s.outs := rfl
@[simp] theorem State.modLink_tcaps (s : State) (p : Nat) (f : Link → Link) : (s.modLink p f).tcaps = s.tcaps := rfl
@[simp] theorem State.modLink_sense (s : State) (p : Nat) (f : Link → Link) : (s.modLink p f).sense = s.sense := rfl
@[simp] theorem State.modLink_cway (s : State) (p : Nat) (f : Link → Link) : (s.modLink p f).cway = s.cway := rfl
@[simp] theorem State.modLink_flt (s : State) (p : Nat) (f : Link → Link) : (s.modLink p f).flt = s.flt := rfl
@[simp] theorem State.modLink_egress (s : State) (p : Nat) (f : Link → Link) : (s.modLink p f).egress = s.egress := rfl
@[simp] theorem State.modLink_pcie (s : State) (p : Nat) (f : Link → Link) : (s.modLink p f).pcie = s.pcie := rfl

/-! ### State.setChan -/

@[simp] theorem State.setChan_pending (s : State) (c : Nat) (x : Chan) : (s.setChan c x).pending = s.pending := rfl
@[simp] theorem State.setChan_now (s : State) (c : Nat) (x : Chan) : (s.setChan c x).now = s.now := rfl
@[simp] theorem State.setChan_fresh (s : State) (c : Nat) (x : Chan) : (s.setChan c x).fresh = s.fresh := rfl
@[simp] theorem State.setChan_regs (s : State) (c : Nat) (x : Chan) : (s.setChan c x).regs = s.regs := rfl
@[simp] theorem State.setChan_capts (s : State) (c : Nat) (x : Chan) : (s.setChan c x).capts = s.capts := rfl
@[simp] theorem State.setChan_wregs (s : State) (c : Nat) (x : Chan) : (s.setChan c x).wregs = s.wregs := rfl
@[simp] theorem State.setChan_wcapts (s : State) (c : Nat) (x : Chan) : (s.setChan c x).wcapts = s.wcapts := rfl
@[simp] theorem State.setChan_wpSeq (s : State) (c : Nat) (x : Chan) : (s.setChan c x).wpSeq = s.wpSeq := rfl
@[simp] theorem State.setChan_miso (s : State) (c : Nat) (x : Chan) : (s.setChan c x).miso = s.miso := rfl
@[simp] theorem State.setChan_power (s : State) (c : Nat) (x : Chan) : (s.setChan c x).power = s.power := rfl
@[simp] theorem State.setChan_rings (s : State) (c : Nat) (x : Chan) : (s.setChan c x).rings = s.rings := rfl
@[simp] theorem State.setChan_pollAt (s : State) (c : Nat) (x : Chan) : (s.setChan c x).pollAt = s.pollAt := rfl
@[simp] theorem State.setChan_turnAt (s : State) (c : Nat) (x : Chan) : (s.setChan c x).turnAt = s.turnAt := rfl
@[simp] theorem State.setChan_ledger (s : State) (c : Nat) (x : Chan) : (s.setChan c x).ledger = s.ledger := rfl
@[simp] theorem State.setChan_nextId (s : State) (c : Nat) (x : Chan) : (s.setChan c x).nextId = s.nextId := rfl
@[simp] theorem State.setChan_ledgerPeak (s : State) (c : Nat) (x : Chan) : (s.setChan c x).ledgerPeak = s.ledgerPeak := rfl
@[simp] theorem State.setChan_objs (s : State) (c : Nat) (x : Chan) : (s.setChan c x).objs = s.objs := rfl
@[simp] theorem State.setChan_gens (s : State) (c : Nat) (x : Chan) : (s.setChan c x).gens = s.gens := rfl
@[simp] theorem State.setChan_harb (s : State) (c : Nat) (x : Chan) : (s.setChan c x).harb = s.harb := rfl
@[simp] theorem State.setChan_ctxs (s : State) (c : Nat) (x : Chan) : (s.setChan c x).ctxs = s.ctxs := rfl
@[simp] theorem State.setChan_units (s : State) (c : Nat) (x : Chan) : (s.setChan c x).units = s.units := rfl
@[simp] theorem State.setChan_shuttles (s : State) (c : Nat) (x : Chan) : (s.setChan c x).shuttles = s.shuttles := rfl
@[simp] theorem State.setChan_tills (s : State) (c : Nat) (x : Chan) : (s.setChan c x).tills = s.tills := rfl
@[simp] theorem State.setChan_ports (s : State) (c : Nat) (x : Chan) : (s.setChan c x).ports = s.ports := rfl
@[simp] theorem State.setChan_chans (s : State) (c : Nat) (x : Chan) : (s.setChan c x).chans = tabPut s.chans c x := rfl
@[simp] theorem State.setChan_dramReady (s : State) (c : Nat) (x : Chan) : (s.setChan c x).dramReady = s.dramReady := rfl
@[simp] theorem State.setChan_strdCodes (s : State) (c : Nat) (x : Chan) : (s.setChan c x).strdCodes = s.strdCodes := rfl
@[simp] theorem State.setChan_sawyPixels (s : State) (c : Nat) (x : Chan) : (s.setChan c x).sawyPixels = s.sawyPixels := rfl
@[simp] theorem State.setChan_tide (s : State) (c : Nat) (x : Chan) : (s.setChan c x).tide = s.tide := rfl
@[simp] theorem State.setChan_outs (s : State) (c : Nat) (x : Chan) : (s.setChan c x).outs = s.outs := rfl
@[simp] theorem State.setChan_tcaps (s : State) (c : Nat) (x : Chan) : (s.setChan c x).tcaps = s.tcaps := rfl
@[simp] theorem State.setChan_sense (s : State) (c : Nat) (x : Chan) : (s.setChan c x).sense = s.sense := rfl
@[simp] theorem State.setChan_cway (s : State) (c : Nat) (x : Chan) : (s.setChan c x).cway = s.cway := rfl
@[simp] theorem State.setChan_flt (s : State) (c : Nat) (x : Chan) : (s.setChan c x).flt = s.flt := rfl
@[simp] theorem State.setChan_egress (s : State) (c : Nat) (x : Chan) : (s.setChan c x).egress = s.egress := rfl
@[simp] theorem State.setChan_pcie (s : State) (c : Nat) (x : Chan) : (s.setChan c x).pcie = s.pcie := rfl

/-! ### State.modChan -/

@[simp] theorem State.modChan_pending (s : State) (c : Nat) (f : Chan → Chan) : (s.modChan c f).pending = s.pending := rfl
@[simp] theorem State.modChan_now (s : State) (c : Nat) (f : Chan → Chan) : (s.modChan c f).now = s.now := rfl
@[simp] theorem State.modChan_fresh (s : State) (c : Nat) (f : Chan → Chan) : (s.modChan c f).fresh = s.fresh := rfl
@[simp] theorem State.modChan_regs (s : State) (c : Nat) (f : Chan → Chan) : (s.modChan c f).regs = s.regs := rfl
@[simp] theorem State.modChan_capts (s : State) (c : Nat) (f : Chan → Chan) : (s.modChan c f).capts = s.capts := rfl
@[simp] theorem State.modChan_wregs (s : State) (c : Nat) (f : Chan → Chan) : (s.modChan c f).wregs = s.wregs := rfl
@[simp] theorem State.modChan_wcapts (s : State) (c : Nat) (f : Chan → Chan) : (s.modChan c f).wcapts = s.wcapts := rfl
@[simp] theorem State.modChan_wpSeq (s : State) (c : Nat) (f : Chan → Chan) : (s.modChan c f).wpSeq = s.wpSeq := rfl
@[simp] theorem State.modChan_miso (s : State) (c : Nat) (f : Chan → Chan) : (s.modChan c f).miso = s.miso := rfl
@[simp] theorem State.modChan_power (s : State) (c : Nat) (f : Chan → Chan) : (s.modChan c f).power = s.power := rfl
@[simp] theorem State.modChan_rings (s : State) (c : Nat) (f : Chan → Chan) : (s.modChan c f).rings = s.rings := rfl
@[simp] theorem State.modChan_pollAt (s : State) (c : Nat) (f : Chan → Chan) : (s.modChan c f).pollAt = s.pollAt := rfl
@[simp] theorem State.modChan_turnAt (s : State) (c : Nat) (f : Chan → Chan) : (s.modChan c f).turnAt = s.turnAt := rfl
@[simp] theorem State.modChan_ledger (s : State) (c : Nat) (f : Chan → Chan) : (s.modChan c f).ledger = s.ledger := rfl
@[simp] theorem State.modChan_nextId (s : State) (c : Nat) (f : Chan → Chan) : (s.modChan c f).nextId = s.nextId := rfl
@[simp] theorem State.modChan_ledgerPeak (s : State) (c : Nat) (f : Chan → Chan) : (s.modChan c f).ledgerPeak = s.ledgerPeak := rfl
@[simp] theorem State.modChan_objs (s : State) (c : Nat) (f : Chan → Chan) : (s.modChan c f).objs = s.objs := rfl
@[simp] theorem State.modChan_gens (s : State) (c : Nat) (f : Chan → Chan) : (s.modChan c f).gens = s.gens := rfl
@[simp] theorem State.modChan_harb (s : State) (c : Nat) (f : Chan → Chan) : (s.modChan c f).harb = s.harb := rfl
@[simp] theorem State.modChan_ctxs (s : State) (c : Nat) (f : Chan → Chan) : (s.modChan c f).ctxs = s.ctxs := rfl
@[simp] theorem State.modChan_units (s : State) (c : Nat) (f : Chan → Chan) : (s.modChan c f).units = s.units := rfl
@[simp] theorem State.modChan_shuttles (s : State) (c : Nat) (f : Chan → Chan) : (s.modChan c f).shuttles = s.shuttles := rfl
@[simp] theorem State.modChan_tills (s : State) (c : Nat) (f : Chan → Chan) : (s.modChan c f).tills = s.tills := rfl
@[simp] theorem State.modChan_ports (s : State) (c : Nat) (f : Chan → Chan) : (s.modChan c f).ports = s.ports := rfl
@[simp] theorem State.modChan_chans (s : State) (c : Nat) (f : Chan → Chan) : (s.modChan c f).chans = tabPut s.chans c (f (s.chan c)) := rfl
@[simp] theorem State.modChan_dramReady (s : State) (c : Nat) (f : Chan → Chan) : (s.modChan c f).dramReady = s.dramReady := rfl
@[simp] theorem State.modChan_strdCodes (s : State) (c : Nat) (f : Chan → Chan) : (s.modChan c f).strdCodes = s.strdCodes := rfl
@[simp] theorem State.modChan_sawyPixels (s : State) (c : Nat) (f : Chan → Chan) : (s.modChan c f).sawyPixels = s.sawyPixels := rfl
@[simp] theorem State.modChan_tide (s : State) (c : Nat) (f : Chan → Chan) : (s.modChan c f).tide = s.tide := rfl
@[simp] theorem State.modChan_outs (s : State) (c : Nat) (f : Chan → Chan) : (s.modChan c f).outs = s.outs := rfl
@[simp] theorem State.modChan_tcaps (s : State) (c : Nat) (f : Chan → Chan) : (s.modChan c f).tcaps = s.tcaps := rfl
@[simp] theorem State.modChan_sense (s : State) (c : Nat) (f : Chan → Chan) : (s.modChan c f).sense = s.sense := rfl
@[simp] theorem State.modChan_cway (s : State) (c : Nat) (f : Chan → Chan) : (s.modChan c f).cway = s.cway := rfl
@[simp] theorem State.modChan_flt (s : State) (c : Nat) (f : Chan → Chan) : (s.modChan c f).flt = s.flt := rfl
@[simp] theorem State.modChan_egress (s : State) (c : Nat) (f : Chan → Chan) : (s.modChan c f).egress = s.egress := rfl
@[simp] theorem State.modChan_pcie (s : State) (c : Nat) (f : Chan → Chan) : (s.modChan c f).pcie = s.pcie := rfl

/-! ### State.setCtx -/

@[simp] theorem State.setCtx_pending (s : State) (m : Nat) (x : Ctx) : (s.setCtx m x).pending = s.pending := rfl
@[simp] theorem State.setCtx_now (s : State) (m : Nat) (x : Ctx) : (s.setCtx m x).now = s.now := rfl
@[simp] theorem State.setCtx_fresh (s : State) (m : Nat) (x : Ctx) : (s.setCtx m x).fresh = s.fresh := rfl
@[simp] theorem State.setCtx_regs (s : State) (m : Nat) (x : Ctx) : (s.setCtx m x).regs = s.regs := rfl
@[simp] theorem State.setCtx_capts (s : State) (m : Nat) (x : Ctx) : (s.setCtx m x).capts = s.capts := rfl
@[simp] theorem State.setCtx_wregs (s : State) (m : Nat) (x : Ctx) : (s.setCtx m x).wregs = s.wregs := rfl
@[simp] theorem State.setCtx_wcapts (s : State) (m : Nat) (x : Ctx) : (s.setCtx m x).wcapts = s.wcapts := rfl
@[simp] theorem State.setCtx_wpSeq (s : State) (m : Nat) (x : Ctx) : (s.setCtx m x).wpSeq = s.wpSeq := rfl
@[simp] theorem State.setCtx_miso (s : State) (m : Nat) (x : Ctx) : (s.setCtx m x).miso = s.miso := rfl
@[simp] theorem State.setCtx_power (s : State) (m : Nat) (x : Ctx) : (s.setCtx m x).power = s.power := rfl
@[simp] theorem State.setCtx_rings (s : State) (m : Nat) (x : Ctx) : (s.setCtx m x).rings = s.rings := rfl
@[simp] theorem State.setCtx_pollAt (s : State) (m : Nat) (x : Ctx) : (s.setCtx m x).pollAt = s.pollAt := rfl
@[simp] theorem State.setCtx_turnAt (s : State) (m : Nat) (x : Ctx) : (s.setCtx m x).turnAt = s.turnAt := rfl
@[simp] theorem State.setCtx_ledger (s : State) (m : Nat) (x : Ctx) : (s.setCtx m x).ledger = s.ledger := rfl
@[simp] theorem State.setCtx_nextId (s : State) (m : Nat) (x : Ctx) : (s.setCtx m x).nextId = s.nextId := rfl
@[simp] theorem State.setCtx_ledgerPeak (s : State) (m : Nat) (x : Ctx) : (s.setCtx m x).ledgerPeak = s.ledgerPeak := rfl
@[simp] theorem State.setCtx_objs (s : State) (m : Nat) (x : Ctx) : (s.setCtx m x).objs = s.objs := rfl
@[simp] theorem State.setCtx_gens (s : State) (m : Nat) (x : Ctx) : (s.setCtx m x).gens = s.gens := rfl
@[simp] theorem State.setCtx_harb (s : State) (m : Nat) (x : Ctx) : (s.setCtx m x).harb = s.harb := rfl
@[simp] theorem State.setCtx_ctxs (s : State) (m : Nat) (x : Ctx) : (s.setCtx m x).ctxs = tabPut s.ctxs m x := rfl
@[simp] theorem State.setCtx_units (s : State) (m : Nat) (x : Ctx) : (s.setCtx m x).units = s.units := rfl
@[simp] theorem State.setCtx_shuttles (s : State) (m : Nat) (x : Ctx) : (s.setCtx m x).shuttles = s.shuttles := rfl
@[simp] theorem State.setCtx_tills (s : State) (m : Nat) (x : Ctx) : (s.setCtx m x).tills = s.tills := rfl
@[simp] theorem State.setCtx_ports (s : State) (m : Nat) (x : Ctx) : (s.setCtx m x).ports = s.ports := rfl
@[simp] theorem State.setCtx_chans (s : State) (m : Nat) (x : Ctx) : (s.setCtx m x).chans = s.chans := rfl
@[simp] theorem State.setCtx_dramReady (s : State) (m : Nat) (x : Ctx) : (s.setCtx m x).dramReady = s.dramReady := rfl
@[simp] theorem State.setCtx_strdCodes (s : State) (m : Nat) (x : Ctx) : (s.setCtx m x).strdCodes = s.strdCodes := rfl
@[simp] theorem State.setCtx_sawyPixels (s : State) (m : Nat) (x : Ctx) : (s.setCtx m x).sawyPixels = s.sawyPixels := rfl
@[simp] theorem State.setCtx_tide (s : State) (m : Nat) (x : Ctx) : (s.setCtx m x).tide = s.tide := rfl
@[simp] theorem State.setCtx_outs (s : State) (m : Nat) (x : Ctx) : (s.setCtx m x).outs = s.outs := rfl
@[simp] theorem State.setCtx_tcaps (s : State) (m : Nat) (x : Ctx) : (s.setCtx m x).tcaps = s.tcaps := rfl
@[simp] theorem State.setCtx_sense (s : State) (m : Nat) (x : Ctx) : (s.setCtx m x).sense = s.sense := rfl
@[simp] theorem State.setCtx_cway (s : State) (m : Nat) (x : Ctx) : (s.setCtx m x).cway = s.cway := rfl
@[simp] theorem State.setCtx_flt (s : State) (m : Nat) (x : Ctx) : (s.setCtx m x).flt = s.flt := rfl
@[simp] theorem State.setCtx_egress (s : State) (m : Nat) (x : Ctx) : (s.setCtx m x).egress = s.egress := rfl
@[simp] theorem State.setCtx_pcie (s : State) (m : Nat) (x : Ctx) : (s.setCtx m x).pcie = s.pcie := rfl

/-! ### State.setUnit -/

@[simp] theorem State.setUnit_pending (s : State) (k : Nat) (x : TallyUnit) : (s.setUnit k x).pending = s.pending := rfl
@[simp] theorem State.setUnit_now (s : State) (k : Nat) (x : TallyUnit) : (s.setUnit k x).now = s.now := rfl
@[simp] theorem State.setUnit_fresh (s : State) (k : Nat) (x : TallyUnit) : (s.setUnit k x).fresh = s.fresh := rfl
@[simp] theorem State.setUnit_regs (s : State) (k : Nat) (x : TallyUnit) : (s.setUnit k x).regs = s.regs := rfl
@[simp] theorem State.setUnit_capts (s : State) (k : Nat) (x : TallyUnit) : (s.setUnit k x).capts = s.capts := rfl
@[simp] theorem State.setUnit_wregs (s : State) (k : Nat) (x : TallyUnit) : (s.setUnit k x).wregs = s.wregs := rfl
@[simp] theorem State.setUnit_wcapts (s : State) (k : Nat) (x : TallyUnit) : (s.setUnit k x).wcapts = s.wcapts := rfl
@[simp] theorem State.setUnit_wpSeq (s : State) (k : Nat) (x : TallyUnit) : (s.setUnit k x).wpSeq = s.wpSeq := rfl
@[simp] theorem State.setUnit_miso (s : State) (k : Nat) (x : TallyUnit) : (s.setUnit k x).miso = s.miso := rfl
@[simp] theorem State.setUnit_power (s : State) (k : Nat) (x : TallyUnit) : (s.setUnit k x).power = s.power := rfl
@[simp] theorem State.setUnit_rings (s : State) (k : Nat) (x : TallyUnit) : (s.setUnit k x).rings = s.rings := rfl
@[simp] theorem State.setUnit_pollAt (s : State) (k : Nat) (x : TallyUnit) : (s.setUnit k x).pollAt = s.pollAt := rfl
@[simp] theorem State.setUnit_turnAt (s : State) (k : Nat) (x : TallyUnit) : (s.setUnit k x).turnAt = s.turnAt := rfl
@[simp] theorem State.setUnit_ledger (s : State) (k : Nat) (x : TallyUnit) : (s.setUnit k x).ledger = s.ledger := rfl
@[simp] theorem State.setUnit_nextId (s : State) (k : Nat) (x : TallyUnit) : (s.setUnit k x).nextId = s.nextId := rfl
@[simp] theorem State.setUnit_ledgerPeak (s : State) (k : Nat) (x : TallyUnit) : (s.setUnit k x).ledgerPeak = s.ledgerPeak := rfl
@[simp] theorem State.setUnit_objs (s : State) (k : Nat) (x : TallyUnit) : (s.setUnit k x).objs = s.objs := rfl
@[simp] theorem State.setUnit_gens (s : State) (k : Nat) (x : TallyUnit) : (s.setUnit k x).gens = s.gens := rfl
@[simp] theorem State.setUnit_harb (s : State) (k : Nat) (x : TallyUnit) : (s.setUnit k x).harb = s.harb := rfl
@[simp] theorem State.setUnit_ctxs (s : State) (k : Nat) (x : TallyUnit) : (s.setUnit k x).ctxs = s.ctxs := rfl
@[simp] theorem State.setUnit_units (s : State) (k : Nat) (x : TallyUnit) : (s.setUnit k x).units = tabPut s.units k x := rfl
@[simp] theorem State.setUnit_shuttles (s : State) (k : Nat) (x : TallyUnit) : (s.setUnit k x).shuttles = s.shuttles := rfl
@[simp] theorem State.setUnit_tills (s : State) (k : Nat) (x : TallyUnit) : (s.setUnit k x).tills = s.tills := rfl
@[simp] theorem State.setUnit_ports (s : State) (k : Nat) (x : TallyUnit) : (s.setUnit k x).ports = s.ports := rfl
@[simp] theorem State.setUnit_chans (s : State) (k : Nat) (x : TallyUnit) : (s.setUnit k x).chans = s.chans := rfl
@[simp] theorem State.setUnit_dramReady (s : State) (k : Nat) (x : TallyUnit) : (s.setUnit k x).dramReady = s.dramReady := rfl
@[simp] theorem State.setUnit_strdCodes (s : State) (k : Nat) (x : TallyUnit) : (s.setUnit k x).strdCodes = s.strdCodes := rfl
@[simp] theorem State.setUnit_sawyPixels (s : State) (k : Nat) (x : TallyUnit) : (s.setUnit k x).sawyPixels = s.sawyPixels := rfl
@[simp] theorem State.setUnit_tide (s : State) (k : Nat) (x : TallyUnit) : (s.setUnit k x).tide = s.tide := rfl
@[simp] theorem State.setUnit_outs (s : State) (k : Nat) (x : TallyUnit) : (s.setUnit k x).outs = s.outs := rfl
@[simp] theorem State.setUnit_tcaps (s : State) (k : Nat) (x : TallyUnit) : (s.setUnit k x).tcaps = s.tcaps := rfl
@[simp] theorem State.setUnit_sense (s : State) (k : Nat) (x : TallyUnit) : (s.setUnit k x).sense = s.sense := rfl
@[simp] theorem State.setUnit_cway (s : State) (k : Nat) (x : TallyUnit) : (s.setUnit k x).cway = s.cway := rfl
@[simp] theorem State.setUnit_flt (s : State) (k : Nat) (x : TallyUnit) : (s.setUnit k x).flt = s.flt := rfl
@[simp] theorem State.setUnit_egress (s : State) (k : Nat) (x : TallyUnit) : (s.setUnit k x).egress = s.egress := rfl
@[simp] theorem State.setUnit_pcie (s : State) (k : Nat) (x : TallyUnit) : (s.setUnit k x).pcie = s.pcie := rfl

/-! ### State.setOut -/

@[simp] theorem State.setOut_pending (s : State) (n : Nat) (x : TideOut) : (s.setOut n x).pending = s.pending := rfl
@[simp] theorem State.setOut_now (s : State) (n : Nat) (x : TideOut) : (s.setOut n x).now = s.now := rfl
@[simp] theorem State.setOut_fresh (s : State) (n : Nat) (x : TideOut) : (s.setOut n x).fresh = s.fresh := rfl
@[simp] theorem State.setOut_regs (s : State) (n : Nat) (x : TideOut) : (s.setOut n x).regs = s.regs := rfl
@[simp] theorem State.setOut_capts (s : State) (n : Nat) (x : TideOut) : (s.setOut n x).capts = s.capts := rfl
@[simp] theorem State.setOut_wregs (s : State) (n : Nat) (x : TideOut) : (s.setOut n x).wregs = s.wregs := rfl
@[simp] theorem State.setOut_wcapts (s : State) (n : Nat) (x : TideOut) : (s.setOut n x).wcapts = s.wcapts := rfl
@[simp] theorem State.setOut_wpSeq (s : State) (n : Nat) (x : TideOut) : (s.setOut n x).wpSeq = s.wpSeq := rfl
@[simp] theorem State.setOut_miso (s : State) (n : Nat) (x : TideOut) : (s.setOut n x).miso = s.miso := rfl
@[simp] theorem State.setOut_power (s : State) (n : Nat) (x : TideOut) : (s.setOut n x).power = s.power := rfl
@[simp] theorem State.setOut_rings (s : State) (n : Nat) (x : TideOut) : (s.setOut n x).rings = s.rings := rfl
@[simp] theorem State.setOut_pollAt (s : State) (n : Nat) (x : TideOut) : (s.setOut n x).pollAt = s.pollAt := rfl
@[simp] theorem State.setOut_turnAt (s : State) (n : Nat) (x : TideOut) : (s.setOut n x).turnAt = s.turnAt := rfl
@[simp] theorem State.setOut_ledger (s : State) (n : Nat) (x : TideOut) : (s.setOut n x).ledger = s.ledger := rfl
@[simp] theorem State.setOut_nextId (s : State) (n : Nat) (x : TideOut) : (s.setOut n x).nextId = s.nextId := rfl
@[simp] theorem State.setOut_ledgerPeak (s : State) (n : Nat) (x : TideOut) : (s.setOut n x).ledgerPeak = s.ledgerPeak := rfl
@[simp] theorem State.setOut_objs (s : State) (n : Nat) (x : TideOut) : (s.setOut n x).objs = s.objs := rfl
@[simp] theorem State.setOut_gens (s : State) (n : Nat) (x : TideOut) : (s.setOut n x).gens = s.gens := rfl
@[simp] theorem State.setOut_harb (s : State) (n : Nat) (x : TideOut) : (s.setOut n x).harb = s.harb := rfl
@[simp] theorem State.setOut_ctxs (s : State) (n : Nat) (x : TideOut) : (s.setOut n x).ctxs = s.ctxs := rfl
@[simp] theorem State.setOut_units (s : State) (n : Nat) (x : TideOut) : (s.setOut n x).units = s.units := rfl
@[simp] theorem State.setOut_shuttles (s : State) (n : Nat) (x : TideOut) : (s.setOut n x).shuttles = s.shuttles := rfl
@[simp] theorem State.setOut_tills (s : State) (n : Nat) (x : TideOut) : (s.setOut n x).tills = s.tills := rfl
@[simp] theorem State.setOut_ports (s : State) (n : Nat) (x : TideOut) : (s.setOut n x).ports = s.ports := rfl
@[simp] theorem State.setOut_chans (s : State) (n : Nat) (x : TideOut) : (s.setOut n x).chans = s.chans := rfl
@[simp] theorem State.setOut_dramReady (s : State) (n : Nat) (x : TideOut) : (s.setOut n x).dramReady = s.dramReady := rfl
@[simp] theorem State.setOut_strdCodes (s : State) (n : Nat) (x : TideOut) : (s.setOut n x).strdCodes = s.strdCodes := rfl
@[simp] theorem State.setOut_sawyPixels (s : State) (n : Nat) (x : TideOut) : (s.setOut n x).sawyPixels = s.sawyPixels := rfl
@[simp] theorem State.setOut_tide (s : State) (n : Nat) (x : TideOut) : (s.setOut n x).tide = s.tide := rfl
@[simp] theorem State.setOut_outs (s : State) (n : Nat) (x : TideOut) : (s.setOut n x).outs = tabPut s.outs n x := rfl
@[simp] theorem State.setOut_tcaps (s : State) (n : Nat) (x : TideOut) : (s.setOut n x).tcaps = s.tcaps := rfl
@[simp] theorem State.setOut_sense (s : State) (n : Nat) (x : TideOut) : (s.setOut n x).sense = s.sense := rfl
@[simp] theorem State.setOut_cway (s : State) (n : Nat) (x : TideOut) : (s.setOut n x).cway = s.cway := rfl
@[simp] theorem State.setOut_flt (s : State) (n : Nat) (x : TideOut) : (s.setOut n x).flt = s.flt := rfl
@[simp] theorem State.setOut_egress (s : State) (n : Nat) (x : TideOut) : (s.setOut n x).egress = s.egress := rfl
@[simp] theorem State.setOut_pcie (s : State) (n : Nat) (x : TideOut) : (s.setOut n x).pcie = s.pcie := rfl

/-! ### State.setCap -/

@[simp] theorem State.setCap_pending (s : State) (n : Nat) (x : TideCap) : (s.setCap n x).pending = s.pending := rfl
@[simp] theorem State.setCap_now (s : State) (n : Nat) (x : TideCap) : (s.setCap n x).now = s.now := rfl
@[simp] theorem State.setCap_fresh (s : State) (n : Nat) (x : TideCap) : (s.setCap n x).fresh = s.fresh := rfl
@[simp] theorem State.setCap_regs (s : State) (n : Nat) (x : TideCap) : (s.setCap n x).regs = s.regs := rfl
@[simp] theorem State.setCap_capts (s : State) (n : Nat) (x : TideCap) : (s.setCap n x).capts = s.capts := rfl
@[simp] theorem State.setCap_wregs (s : State) (n : Nat) (x : TideCap) : (s.setCap n x).wregs = s.wregs := rfl
@[simp] theorem State.setCap_wcapts (s : State) (n : Nat) (x : TideCap) : (s.setCap n x).wcapts = s.wcapts := rfl
@[simp] theorem State.setCap_wpSeq (s : State) (n : Nat) (x : TideCap) : (s.setCap n x).wpSeq = s.wpSeq := rfl
@[simp] theorem State.setCap_miso (s : State) (n : Nat) (x : TideCap) : (s.setCap n x).miso = s.miso := rfl
@[simp] theorem State.setCap_power (s : State) (n : Nat) (x : TideCap) : (s.setCap n x).power = s.power := rfl
@[simp] theorem State.setCap_rings (s : State) (n : Nat) (x : TideCap) : (s.setCap n x).rings = s.rings := rfl
@[simp] theorem State.setCap_pollAt (s : State) (n : Nat) (x : TideCap) : (s.setCap n x).pollAt = s.pollAt := rfl
@[simp] theorem State.setCap_turnAt (s : State) (n : Nat) (x : TideCap) : (s.setCap n x).turnAt = s.turnAt := rfl
@[simp] theorem State.setCap_ledger (s : State) (n : Nat) (x : TideCap) : (s.setCap n x).ledger = s.ledger := rfl
@[simp] theorem State.setCap_nextId (s : State) (n : Nat) (x : TideCap) : (s.setCap n x).nextId = s.nextId := rfl
@[simp] theorem State.setCap_ledgerPeak (s : State) (n : Nat) (x : TideCap) : (s.setCap n x).ledgerPeak = s.ledgerPeak := rfl
@[simp] theorem State.setCap_objs (s : State) (n : Nat) (x : TideCap) : (s.setCap n x).objs = s.objs := rfl
@[simp] theorem State.setCap_gens (s : State) (n : Nat) (x : TideCap) : (s.setCap n x).gens = s.gens := rfl
@[simp] theorem State.setCap_harb (s : State) (n : Nat) (x : TideCap) : (s.setCap n x).harb = s.harb := rfl
@[simp] theorem State.setCap_ctxs (s : State) (n : Nat) (x : TideCap) : (s.setCap n x).ctxs = s.ctxs := rfl
@[simp] theorem State.setCap_units (s : State) (n : Nat) (x : TideCap) : (s.setCap n x).units = s.units := rfl
@[simp] theorem State.setCap_shuttles (s : State) (n : Nat) (x : TideCap) : (s.setCap n x).shuttles = s.shuttles := rfl
@[simp] theorem State.setCap_tills (s : State) (n : Nat) (x : TideCap) : (s.setCap n x).tills = s.tills := rfl
@[simp] theorem State.setCap_ports (s : State) (n : Nat) (x : TideCap) : (s.setCap n x).ports = s.ports := rfl
@[simp] theorem State.setCap_chans (s : State) (n : Nat) (x : TideCap) : (s.setCap n x).chans = s.chans := rfl
@[simp] theorem State.setCap_dramReady (s : State) (n : Nat) (x : TideCap) : (s.setCap n x).dramReady = s.dramReady := rfl
@[simp] theorem State.setCap_strdCodes (s : State) (n : Nat) (x : TideCap) : (s.setCap n x).strdCodes = s.strdCodes := rfl
@[simp] theorem State.setCap_sawyPixels (s : State) (n : Nat) (x : TideCap) : (s.setCap n x).sawyPixels = s.sawyPixels := rfl
@[simp] theorem State.setCap_tide (s : State) (n : Nat) (x : TideCap) : (s.setCap n x).tide = s.tide := rfl
@[simp] theorem State.setCap_outs (s : State) (n : Nat) (x : TideCap) : (s.setCap n x).outs = s.outs := rfl
@[simp] theorem State.setCap_tcaps (s : State) (n : Nat) (x : TideCap) : (s.setCap n x).tcaps = tabPut s.tcaps n x := rfl
@[simp] theorem State.setCap_sense (s : State) (n : Nat) (x : TideCap) : (s.setCap n x).sense = s.sense := rfl
@[simp] theorem State.setCap_cway (s : State) (n : Nat) (x : TideCap) : (s.setCap n x).cway = s.cway := rfl
@[simp] theorem State.setCap_flt (s : State) (n : Nat) (x : TideCap) : (s.setCap n x).flt = s.flt := rfl
@[simp] theorem State.setCap_egress (s : State) (n : Nat) (x : TideCap) : (s.setCap n x).egress = s.egress := rfl
@[simp] theorem State.setCap_pcie (s : State) (n : Nat) (x : TideCap) : (s.setCap n x).pcie = s.pcie := rfl

/-! ### State.setObj -/

@[simp] theorem State.setObj_pending (s : State) (o : Obj) : (s.setObj o).pending = s.pending := rfl
@[simp] theorem State.setObj_now (s : State) (o : Obj) : (s.setObj o).now = s.now := rfl
@[simp] theorem State.setObj_fresh (s : State) (o : Obj) : (s.setObj o).fresh = s.fresh := rfl
@[simp] theorem State.setObj_regs (s : State) (o : Obj) : (s.setObj o).regs = s.regs := rfl
@[simp] theorem State.setObj_capts (s : State) (o : Obj) : (s.setObj o).capts = s.capts := rfl
@[simp] theorem State.setObj_wregs (s : State) (o : Obj) : (s.setObj o).wregs = s.wregs := rfl
@[simp] theorem State.setObj_wcapts (s : State) (o : Obj) : (s.setObj o).wcapts = s.wcapts := rfl
@[simp] theorem State.setObj_wpSeq (s : State) (o : Obj) : (s.setObj o).wpSeq = s.wpSeq := rfl
@[simp] theorem State.setObj_miso (s : State) (o : Obj) : (s.setObj o).miso = s.miso := rfl
@[simp] theorem State.setObj_power (s : State) (o : Obj) : (s.setObj o).power = s.power := rfl
@[simp] theorem State.setObj_rings (s : State) (o : Obj) : (s.setObj o).rings = s.rings := rfl
@[simp] theorem State.setObj_pollAt (s : State) (o : Obj) : (s.setObj o).pollAt = s.pollAt := rfl
@[simp] theorem State.setObj_turnAt (s : State) (o : Obj) : (s.setObj o).turnAt = s.turnAt := rfl
@[simp] theorem State.setObj_ledger (s : State) (o : Obj) : (s.setObj o).ledger = s.ledger := rfl
@[simp] theorem State.setObj_nextId (s : State) (o : Obj) : (s.setObj o).nextId = s.nextId := rfl
@[simp] theorem State.setObj_ledgerPeak (s : State) (o : Obj) : (s.setObj o).ledgerPeak = s.ledgerPeak := rfl
@[simp] theorem State.setObj_objs (s : State) (o : Obj) : (s.setObj o).objs = tabPut s.objs (handleIndex o.handle) o := rfl
@[simp] theorem State.setObj_gens (s : State) (o : Obj) : (s.setObj o).gens = s.gens := rfl
@[simp] theorem State.setObj_harb (s : State) (o : Obj) : (s.setObj o).harb = s.harb := rfl
@[simp] theorem State.setObj_ctxs (s : State) (o : Obj) : (s.setObj o).ctxs = s.ctxs := rfl
@[simp] theorem State.setObj_units (s : State) (o : Obj) : (s.setObj o).units = s.units := rfl
@[simp] theorem State.setObj_shuttles (s : State) (o : Obj) : (s.setObj o).shuttles = s.shuttles := rfl
@[simp] theorem State.setObj_tills (s : State) (o : Obj) : (s.setObj o).tills = s.tills := rfl
@[simp] theorem State.setObj_ports (s : State) (o : Obj) : (s.setObj o).ports = s.ports := rfl
@[simp] theorem State.setObj_chans (s : State) (o : Obj) : (s.setObj o).chans = s.chans := rfl
@[simp] theorem State.setObj_dramReady (s : State) (o : Obj) : (s.setObj o).dramReady = s.dramReady := rfl
@[simp] theorem State.setObj_strdCodes (s : State) (o : Obj) : (s.setObj o).strdCodes = s.strdCodes := rfl
@[simp] theorem State.setObj_sawyPixels (s : State) (o : Obj) : (s.setObj o).sawyPixels = s.sawyPixels := rfl
@[simp] theorem State.setObj_tide (s : State) (o : Obj) : (s.setObj o).tide = s.tide := rfl
@[simp] theorem State.setObj_outs (s : State) (o : Obj) : (s.setObj o).outs = s.outs := rfl
@[simp] theorem State.setObj_tcaps (s : State) (o : Obj) : (s.setObj o).tcaps = s.tcaps := rfl
@[simp] theorem State.setObj_sense (s : State) (o : Obj) : (s.setObj o).sense = s.sense := rfl
@[simp] theorem State.setObj_cway (s : State) (o : Obj) : (s.setObj o).cway = s.cway := rfl
@[simp] theorem State.setObj_flt (s : State) (o : Obj) : (s.setObj o).flt = s.flt := rfl
@[simp] theorem State.setObj_egress (s : State) (o : Obj) : (s.setObj o).egress = s.egress := rfl
@[simp] theorem State.setObj_pcie (s : State) (o : Obj) : (s.setObj o).pcie = s.pcie := rfl

/-! ### State.modEntry -/

@[simp] theorem State.modEntry_pending (s : State) (id : Nat) (f : Entry → Entry) : (s.modEntry id f).pending = s.pending := rfl
@[simp] theorem State.modEntry_now (s : State) (id : Nat) (f : Entry → Entry) : (s.modEntry id f).now = s.now := rfl
@[simp] theorem State.modEntry_fresh (s : State) (id : Nat) (f : Entry → Entry) : (s.modEntry id f).fresh = s.fresh := rfl
@[simp] theorem State.modEntry_regs (s : State) (id : Nat) (f : Entry → Entry) : (s.modEntry id f).regs = s.regs := rfl
@[simp] theorem State.modEntry_capts (s : State) (id : Nat) (f : Entry → Entry) : (s.modEntry id f).capts = s.capts := rfl
@[simp] theorem State.modEntry_wregs (s : State) (id : Nat) (f : Entry → Entry) : (s.modEntry id f).wregs = s.wregs := rfl
@[simp] theorem State.modEntry_wcapts (s : State) (id : Nat) (f : Entry → Entry) : (s.modEntry id f).wcapts = s.wcapts := rfl
@[simp] theorem State.modEntry_wpSeq (s : State) (id : Nat) (f : Entry → Entry) : (s.modEntry id f).wpSeq = s.wpSeq := rfl
@[simp] theorem State.modEntry_miso (s : State) (id : Nat) (f : Entry → Entry) : (s.modEntry id f).miso = s.miso := rfl
@[simp] theorem State.modEntry_power (s : State) (id : Nat) (f : Entry → Entry) : (s.modEntry id f).power = s.power := rfl
@[simp] theorem State.modEntry_rings (s : State) (id : Nat) (f : Entry → Entry) : (s.modEntry id f).rings = s.rings := rfl
@[simp] theorem State.modEntry_pollAt (s : State) (id : Nat) (f : Entry → Entry) : (s.modEntry id f).pollAt = s.pollAt := rfl
@[simp] theorem State.modEntry_turnAt (s : State) (id : Nat) (f : Entry → Entry) : (s.modEntry id f).turnAt = s.turnAt := rfl
@[simp] theorem State.modEntry_ledger (s : State) (id : Nat) (f : Entry → Entry) : (s.modEntry id f).ledger = s.ledger.map fun e => if e.id = id then f e else e := rfl
@[simp] theorem State.modEntry_nextId (s : State) (id : Nat) (f : Entry → Entry) : (s.modEntry id f).nextId = s.nextId := rfl
@[simp] theorem State.modEntry_ledgerPeak (s : State) (id : Nat) (f : Entry → Entry) : (s.modEntry id f).ledgerPeak = s.ledgerPeak := rfl
@[simp] theorem State.modEntry_objs (s : State) (id : Nat) (f : Entry → Entry) : (s.modEntry id f).objs = s.objs := rfl
@[simp] theorem State.modEntry_gens (s : State) (id : Nat) (f : Entry → Entry) : (s.modEntry id f).gens = s.gens := rfl
@[simp] theorem State.modEntry_harb (s : State) (id : Nat) (f : Entry → Entry) : (s.modEntry id f).harb = s.harb := rfl
@[simp] theorem State.modEntry_ctxs (s : State) (id : Nat) (f : Entry → Entry) : (s.modEntry id f).ctxs = s.ctxs := rfl
@[simp] theorem State.modEntry_units (s : State) (id : Nat) (f : Entry → Entry) : (s.modEntry id f).units = s.units := rfl
@[simp] theorem State.modEntry_shuttles (s : State) (id : Nat) (f : Entry → Entry) : (s.modEntry id f).shuttles = s.shuttles := rfl
@[simp] theorem State.modEntry_tills (s : State) (id : Nat) (f : Entry → Entry) : (s.modEntry id f).tills = s.tills := rfl
@[simp] theorem State.modEntry_ports (s : State) (id : Nat) (f : Entry → Entry) : (s.modEntry id f).ports = s.ports := rfl
@[simp] theorem State.modEntry_chans (s : State) (id : Nat) (f : Entry → Entry) : (s.modEntry id f).chans = s.chans := rfl
@[simp] theorem State.modEntry_dramReady (s : State) (id : Nat) (f : Entry → Entry) : (s.modEntry id f).dramReady = s.dramReady := rfl
@[simp] theorem State.modEntry_strdCodes (s : State) (id : Nat) (f : Entry → Entry) : (s.modEntry id f).strdCodes = s.strdCodes := rfl
@[simp] theorem State.modEntry_sawyPixels (s : State) (id : Nat) (f : Entry → Entry) : (s.modEntry id f).sawyPixels = s.sawyPixels := rfl
@[simp] theorem State.modEntry_tide (s : State) (id : Nat) (f : Entry → Entry) : (s.modEntry id f).tide = s.tide := rfl
@[simp] theorem State.modEntry_outs (s : State) (id : Nat) (f : Entry → Entry) : (s.modEntry id f).outs = s.outs := rfl
@[simp] theorem State.modEntry_tcaps (s : State) (id : Nat) (f : Entry → Entry) : (s.modEntry id f).tcaps = s.tcaps := rfl
@[simp] theorem State.modEntry_sense (s : State) (id : Nat) (f : Entry → Entry) : (s.modEntry id f).sense = s.sense := rfl
@[simp] theorem State.modEntry_cway (s : State) (id : Nat) (f : Entry → Entry) : (s.modEntry id f).cway = s.cway := rfl
@[simp] theorem State.modEntry_flt (s : State) (id : Nat) (f : Entry → Entry) : (s.modEntry id f).flt = s.flt := rfl
@[simp] theorem State.modEntry_egress (s : State) (id : Nat) (f : Entry → Entry) : (s.modEntry id f).egress = s.egress := rfl
@[simp] theorem State.modEntry_pcie (s : State) (id : Nat) (f : Entry → Entry) : (s.modEntry id f).pcie = s.pcie := rfl

/-! ### State.dropEntry -/

@[simp] theorem State.dropEntry_pending (s : State) (id : Nat) : (s.dropEntry id).pending = s.pending := rfl
@[simp] theorem State.dropEntry_now (s : State) (id : Nat) : (s.dropEntry id).now = s.now := rfl
@[simp] theorem State.dropEntry_fresh (s : State) (id : Nat) : (s.dropEntry id).fresh = s.fresh := rfl
@[simp] theorem State.dropEntry_regs (s : State) (id : Nat) : (s.dropEntry id).regs = s.regs := rfl
@[simp] theorem State.dropEntry_capts (s : State) (id : Nat) : (s.dropEntry id).capts = s.capts := rfl
@[simp] theorem State.dropEntry_wregs (s : State) (id : Nat) : (s.dropEntry id).wregs = s.wregs := rfl
@[simp] theorem State.dropEntry_wcapts (s : State) (id : Nat) : (s.dropEntry id).wcapts = s.wcapts := rfl
@[simp] theorem State.dropEntry_wpSeq (s : State) (id : Nat) : (s.dropEntry id).wpSeq = s.wpSeq := rfl
@[simp] theorem State.dropEntry_miso (s : State) (id : Nat) : (s.dropEntry id).miso = s.miso := rfl
@[simp] theorem State.dropEntry_power (s : State) (id : Nat) : (s.dropEntry id).power = s.power := rfl
@[simp] theorem State.dropEntry_rings (s : State) (id : Nat) : (s.dropEntry id).rings = s.rings := rfl
@[simp] theorem State.dropEntry_pollAt (s : State) (id : Nat) : (s.dropEntry id).pollAt = s.pollAt := rfl
@[simp] theorem State.dropEntry_turnAt (s : State) (id : Nat) : (s.dropEntry id).turnAt = s.turnAt := rfl
@[simp] theorem State.dropEntry_nextId (s : State) (id : Nat) : (s.dropEntry id).nextId = s.nextId := rfl
@[simp] theorem State.dropEntry_ledgerPeak (s : State) (id : Nat) : (s.dropEntry id).ledgerPeak = s.ledgerPeak := rfl
@[simp] theorem State.dropEntry_objs (s : State) (id : Nat) : (s.dropEntry id).objs = s.objs := rfl
@[simp] theorem State.dropEntry_gens (s : State) (id : Nat) : (s.dropEntry id).gens = s.gens := rfl
@[simp] theorem State.dropEntry_harb (s : State) (id : Nat) : (s.dropEntry id).harb = s.harb := rfl
@[simp] theorem State.dropEntry_ctxs (s : State) (id : Nat) : (s.dropEntry id).ctxs = s.ctxs := rfl
@[simp] theorem State.dropEntry_units (s : State) (id : Nat) : (s.dropEntry id).units = s.units := rfl
@[simp] theorem State.dropEntry_shuttles (s : State) (id : Nat) : (s.dropEntry id).shuttles = s.shuttles := rfl
@[simp] theorem State.dropEntry_tills (s : State) (id : Nat) : (s.dropEntry id).tills = s.tills := rfl
@[simp] theorem State.dropEntry_ports (s : State) (id : Nat) : (s.dropEntry id).ports = s.ports := rfl
@[simp] theorem State.dropEntry_chans (s : State) (id : Nat) : (s.dropEntry id).chans = s.chans := rfl
@[simp] theorem State.dropEntry_dramReady (s : State) (id : Nat) : (s.dropEntry id).dramReady = s.dramReady := rfl
@[simp] theorem State.dropEntry_strdCodes (s : State) (id : Nat) : (s.dropEntry id).strdCodes = s.strdCodes := rfl
@[simp] theorem State.dropEntry_sawyPixels (s : State) (id : Nat) : (s.dropEntry id).sawyPixels = s.sawyPixels := rfl
@[simp] theorem State.dropEntry_tide (s : State) (id : Nat) : (s.dropEntry id).tide = s.tide := rfl
@[simp] theorem State.dropEntry_outs (s : State) (id : Nat) : (s.dropEntry id).outs = s.outs := rfl
@[simp] theorem State.dropEntry_tcaps (s : State) (id : Nat) : (s.dropEntry id).tcaps = s.tcaps := rfl
@[simp] theorem State.dropEntry_sense (s : State) (id : Nat) : (s.dropEntry id).sense = s.sense := rfl
@[simp] theorem State.dropEntry_cway (s : State) (id : Nat) : (s.dropEntry id).cway = s.cway := rfl
@[simp] theorem State.dropEntry_flt (s : State) (id : Nat) : (s.dropEntry id).flt = s.flt := rfl
@[simp] theorem State.dropEntry_egress (s : State) (id : Nat) : (s.dropEntry id).egress = s.egress := rfl
@[simp] theorem State.dropEntry_pcie (s : State) (id : Nat) : (s.dropEntry id).pcie = s.pcie := rfl

/-! ### State.emit -/

@[simp] theorem State.emit_pending (s : State) (e : Egress) : (s.emit e).pending = s.pending := rfl
@[simp] theorem State.emit_now (s : State) (e : Egress) : (s.emit e).now = s.now := rfl
@[simp] theorem State.emit_fresh (s : State) (e : Egress) : (s.emit e).fresh = s.fresh := rfl
@[simp] theorem State.emit_regs (s : State) (e : Egress) : (s.emit e).regs = s.regs := rfl
@[simp] theorem State.emit_capts (s : State) (e : Egress) : (s.emit e).capts = s.capts := rfl
@[simp] theorem State.emit_wregs (s : State) (e : Egress) : (s.emit e).wregs = s.wregs := rfl
@[simp] theorem State.emit_wcapts (s : State) (e : Egress) : (s.emit e).wcapts = s.wcapts := rfl
@[simp] theorem State.emit_wpSeq (s : State) (e : Egress) : (s.emit e).wpSeq = s.wpSeq := rfl
@[simp] theorem State.emit_miso (s : State) (e : Egress) : (s.emit e).miso = s.miso := rfl
@[simp] theorem State.emit_power (s : State) (e : Egress) : (s.emit e).power = s.power := rfl
@[simp] theorem State.emit_rings (s : State) (e : Egress) : (s.emit e).rings = s.rings := rfl
@[simp] theorem State.emit_pollAt (s : State) (e : Egress) : (s.emit e).pollAt = s.pollAt := rfl
@[simp] theorem State.emit_turnAt (s : State) (e : Egress) : (s.emit e).turnAt = s.turnAt := rfl
@[simp] theorem State.emit_ledger (s : State) (e : Egress) : (s.emit e).ledger = s.ledger := rfl
@[simp] theorem State.emit_nextId (s : State) (e : Egress) : (s.emit e).nextId = s.nextId := rfl
@[simp] theorem State.emit_ledgerPeak (s : State) (e : Egress) : (s.emit e).ledgerPeak = s.ledgerPeak := rfl
@[simp] theorem State.emit_objs (s : State) (e : Egress) : (s.emit e).objs = s.objs := rfl
@[simp] theorem State.emit_gens (s : State) (e : Egress) : (s.emit e).gens = s.gens := rfl
@[simp] theorem State.emit_harb (s : State) (e : Egress) : (s.emit e).harb = s.harb := rfl
@[simp] theorem State.emit_ctxs (s : State) (e : Egress) : (s.emit e).ctxs = s.ctxs := rfl
@[simp] theorem State.emit_units (s : State) (e : Egress) : (s.emit e).units = s.units := rfl
@[simp] theorem State.emit_shuttles (s : State) (e : Egress) : (s.emit e).shuttles = s.shuttles := rfl
@[simp] theorem State.emit_tills (s : State) (e : Egress) : (s.emit e).tills = s.tills := rfl
@[simp] theorem State.emit_ports (s : State) (e : Egress) : (s.emit e).ports = s.ports := rfl
@[simp] theorem State.emit_chans (s : State) (e : Egress) : (s.emit e).chans = s.chans := rfl
@[simp] theorem State.emit_dramReady (s : State) (e : Egress) : (s.emit e).dramReady = s.dramReady := rfl
@[simp] theorem State.emit_strdCodes (s : State) (e : Egress) : (s.emit e).strdCodes = s.strdCodes := rfl
@[simp] theorem State.emit_sawyPixels (s : State) (e : Egress) : (s.emit e).sawyPixels = s.sawyPixels := rfl
@[simp] theorem State.emit_tide (s : State) (e : Egress) : (s.emit e).tide = s.tide := rfl
@[simp] theorem State.emit_outs (s : State) (e : Egress) : (s.emit e).outs = s.outs := rfl
@[simp] theorem State.emit_tcaps (s : State) (e : Egress) : (s.emit e).tcaps = s.tcaps := rfl
@[simp] theorem State.emit_sense (s : State) (e : Egress) : (s.emit e).sense = s.sense := rfl
@[simp] theorem State.emit_cway (s : State) (e : Egress) : (s.emit e).cway = s.cway := rfl
@[simp] theorem State.emit_flt (s : State) (e : Egress) : (s.emit e).flt = s.flt := rfl
@[simp] theorem State.emit_egress (s : State) (e : Egress) : (s.emit e).egress = s.egress ++ [e] := rfl
@[simp] theorem State.emit_pcie (s : State) (e : Egress) : (s.emit e).pcie = s.pcie := rfl

/-! ### State.transmit -/

@[simp] theorem State.transmit_pending (s : State) (p : Nat) (x : LinkTx) : (s.transmit p x).pending = s.pending := rfl
@[simp] theorem State.transmit_now (s : State) (p : Nat) (x : LinkTx) : (s.transmit p x).now = s.now := rfl
@[simp] theorem State.transmit_fresh (s : State) (p : Nat) (x : LinkTx) : (s.transmit p x).fresh = s.fresh := rfl
@[simp] theorem State.transmit_regs (s : State) (p : Nat) (x : LinkTx) : (s.transmit p x).regs = s.regs := rfl
@[simp] theorem State.transmit_capts (s : State) (p : Nat) (x : LinkTx) : (s.transmit p x).capts = s.capts := rfl
@[simp] theorem State.transmit_wregs (s : State) (p : Nat) (x : LinkTx) : (s.transmit p x).wregs = s.wregs := rfl
@[simp] theorem State.transmit_wcapts (s : State) (p : Nat) (x : LinkTx) : (s.transmit p x).wcapts = s.wcapts := rfl
@[simp] theorem State.transmit_wpSeq (s : State) (p : Nat) (x : LinkTx) : (s.transmit p x).wpSeq = s.wpSeq := rfl
@[simp] theorem State.transmit_miso (s : State) (p : Nat) (x : LinkTx) : (s.transmit p x).miso = s.miso := rfl
@[simp] theorem State.transmit_power (s : State) (p : Nat) (x : LinkTx) : (s.transmit p x).power = s.power := rfl
@[simp] theorem State.transmit_rings (s : State) (p : Nat) (x : LinkTx) : (s.transmit p x).rings = s.rings := rfl
@[simp] theorem State.transmit_pollAt (s : State) (p : Nat) (x : LinkTx) : (s.transmit p x).pollAt = s.pollAt := rfl
@[simp] theorem State.transmit_turnAt (s : State) (p : Nat) (x : LinkTx) : (s.transmit p x).turnAt = s.turnAt := rfl
@[simp] theorem State.transmit_ledger (s : State) (p : Nat) (x : LinkTx) : (s.transmit p x).ledger = s.ledger := rfl
@[simp] theorem State.transmit_nextId (s : State) (p : Nat) (x : LinkTx) : (s.transmit p x).nextId = s.nextId := rfl
@[simp] theorem State.transmit_ledgerPeak (s : State) (p : Nat) (x : LinkTx) : (s.transmit p x).ledgerPeak = s.ledgerPeak := rfl
@[simp] theorem State.transmit_objs (s : State) (p : Nat) (x : LinkTx) : (s.transmit p x).objs = s.objs := rfl
@[simp] theorem State.transmit_gens (s : State) (p : Nat) (x : LinkTx) : (s.transmit p x).gens = s.gens := rfl
@[simp] theorem State.transmit_harb (s : State) (p : Nat) (x : LinkTx) : (s.transmit p x).harb = s.harb := rfl
@[simp] theorem State.transmit_ctxs (s : State) (p : Nat) (x : LinkTx) : (s.transmit p x).ctxs = s.ctxs := rfl
@[simp] theorem State.transmit_units (s : State) (p : Nat) (x : LinkTx) : (s.transmit p x).units = s.units := rfl
@[simp] theorem State.transmit_shuttles (s : State) (p : Nat) (x : LinkTx) : (s.transmit p x).shuttles = s.shuttles := rfl
@[simp] theorem State.transmit_tills (s : State) (p : Nat) (x : LinkTx) : (s.transmit p x).tills = s.tills := rfl
@[simp] theorem State.transmit_chans (s : State) (p : Nat) (x : LinkTx) : (s.transmit p x).chans = s.chans := rfl
@[simp] theorem State.transmit_dramReady (s : State) (p : Nat) (x : LinkTx) : (s.transmit p x).dramReady = s.dramReady := rfl
@[simp] theorem State.transmit_strdCodes (s : State) (p : Nat) (x : LinkTx) : (s.transmit p x).strdCodes = s.strdCodes := rfl
@[simp] theorem State.transmit_sawyPixels (s : State) (p : Nat) (x : LinkTx) : (s.transmit p x).sawyPixels = s.sawyPixels := rfl
@[simp] theorem State.transmit_tide (s : State) (p : Nat) (x : LinkTx) : (s.transmit p x).tide = s.tide := rfl
@[simp] theorem State.transmit_outs (s : State) (p : Nat) (x : LinkTx) : (s.transmit p x).outs = s.outs := rfl
@[simp] theorem State.transmit_tcaps (s : State) (p : Nat) (x : LinkTx) : (s.transmit p x).tcaps = s.tcaps := rfl
@[simp] theorem State.transmit_sense (s : State) (p : Nat) (x : LinkTx) : (s.transmit p x).sense = s.sense := rfl
@[simp] theorem State.transmit_cway (s : State) (p : Nat) (x : LinkTx) : (s.transmit p x).cway = s.cway := rfl
@[simp] theorem State.transmit_flt (s : State) (p : Nat) (x : LinkTx) : (s.transmit p x).flt = s.flt := rfl
@[simp] theorem State.transmit_egress (s : State) (p : Nat) (x : LinkTx) : (s.transmit p x).egress = s.egress := rfl
@[simp] theorem State.transmit_pcie (s : State) (p : Nat) (x : LinkTx) : (s.transmit p x).pcie = s.pcie := rfl

/-! ### State.draw -/

@[simp] theorem State.draw_pending (s : State) : (s.draw).pending = s.pending := rfl
@[simp] theorem State.draw_now (s : State) : (s.draw).now = s.now := rfl
@[simp] theorem State.draw_fresh (s : State) : (s.draw).fresh = s.fresh + 1 := rfl
@[simp] theorem State.draw_regs (s : State) : (s.draw).regs = s.regs := rfl
@[simp] theorem State.draw_capts (s : State) : (s.draw).capts = s.capts := rfl
@[simp] theorem State.draw_wregs (s : State) : (s.draw).wregs = s.wregs := rfl
@[simp] theorem State.draw_wcapts (s : State) : (s.draw).wcapts = s.wcapts := rfl
@[simp] theorem State.draw_wpSeq (s : State) : (s.draw).wpSeq = s.wpSeq := rfl
@[simp] theorem State.draw_miso (s : State) : (s.draw).miso = s.miso := rfl
@[simp] theorem State.draw_power (s : State) : (s.draw).power = s.power := rfl
@[simp] theorem State.draw_rings (s : State) : (s.draw).rings = s.rings := rfl
@[simp] theorem State.draw_pollAt (s : State) : (s.draw).pollAt = s.pollAt := rfl
@[simp] theorem State.draw_turnAt (s : State) : (s.draw).turnAt = s.turnAt := rfl
@[simp] theorem State.draw_ledger (s : State) : (s.draw).ledger = s.ledger := rfl
@[simp] theorem State.draw_nextId (s : State) : (s.draw).nextId = s.nextId := rfl
@[simp] theorem State.draw_ledgerPeak (s : State) : (s.draw).ledgerPeak = s.ledgerPeak := rfl
@[simp] theorem State.draw_objs (s : State) : (s.draw).objs = s.objs := rfl
@[simp] theorem State.draw_gens (s : State) : (s.draw).gens = s.gens := rfl
@[simp] theorem State.draw_harb (s : State) : (s.draw).harb = s.harb := rfl
@[simp] theorem State.draw_ctxs (s : State) : (s.draw).ctxs = s.ctxs := rfl
@[simp] theorem State.draw_units (s : State) : (s.draw).units = s.units := rfl
@[simp] theorem State.draw_shuttles (s : State) : (s.draw).shuttles = s.shuttles := rfl
@[simp] theorem State.draw_tills (s : State) : (s.draw).tills = s.tills := rfl
@[simp] theorem State.draw_ports (s : State) : (s.draw).ports = s.ports := rfl
@[simp] theorem State.draw_chans (s : State) : (s.draw).chans = s.chans := rfl
@[simp] theorem State.draw_dramReady (s : State) : (s.draw).dramReady = s.dramReady := rfl
@[simp] theorem State.draw_strdCodes (s : State) : (s.draw).strdCodes = s.strdCodes := rfl
@[simp] theorem State.draw_sawyPixels (s : State) : (s.draw).sawyPixels = s.sawyPixels := rfl
@[simp] theorem State.draw_tide (s : State) : (s.draw).tide = s.tide := rfl
@[simp] theorem State.draw_outs (s : State) : (s.draw).outs = s.outs := rfl
@[simp] theorem State.draw_tcaps (s : State) : (s.draw).tcaps = s.tcaps := rfl
@[simp] theorem State.draw_sense (s : State) : (s.draw).sense = s.sense := rfl
@[simp] theorem State.draw_cway (s : State) : (s.draw).cway = s.cway := rfl
@[simp] theorem State.draw_flt (s : State) : (s.draw).flt = s.flt := rfl
@[simp] theorem State.draw_egress (s : State) : (s.draw).egress = s.egress := rfl
@[simp] theorem State.draw_pcie (s : State) : (s.draw).pcie = s.pcie := rfl

/-! ### State.modPower -/

@[simp] theorem State.modPower_pending (s : State) (f : Power → Power) : (s.modPower f).pending = s.pending := rfl
@[simp] theorem State.modPower_now (s : State) (f : Power → Power) : (s.modPower f).now = s.now := rfl
@[simp] theorem State.modPower_fresh (s : State) (f : Power → Power) : (s.modPower f).fresh = s.fresh := rfl
@[simp] theorem State.modPower_regs (s : State) (f : Power → Power) : (s.modPower f).regs = s.regs := rfl
@[simp] theorem State.modPower_capts (s : State) (f : Power → Power) : (s.modPower f).capts = s.capts := rfl
@[simp] theorem State.modPower_wregs (s : State) (f : Power → Power) : (s.modPower f).wregs = s.wregs := rfl
@[simp] theorem State.modPower_wcapts (s : State) (f : Power → Power) : (s.modPower f).wcapts = s.wcapts := rfl
@[simp] theorem State.modPower_wpSeq (s : State) (f : Power → Power) : (s.modPower f).wpSeq = s.wpSeq := rfl
@[simp] theorem State.modPower_miso (s : State) (f : Power → Power) : (s.modPower f).miso = s.miso := rfl
@[simp] theorem State.modPower_power (s : State) (f : Power → Power) : (s.modPower f).power = f s.power := rfl
@[simp] theorem State.modPower_rings (s : State) (f : Power → Power) : (s.modPower f).rings = s.rings := rfl
@[simp] theorem State.modPower_pollAt (s : State) (f : Power → Power) : (s.modPower f).pollAt = s.pollAt := rfl
@[simp] theorem State.modPower_turnAt (s : State) (f : Power → Power) : (s.modPower f).turnAt = s.turnAt := rfl
@[simp] theorem State.modPower_ledger (s : State) (f : Power → Power) : (s.modPower f).ledger = s.ledger := rfl
@[simp] theorem State.modPower_nextId (s : State) (f : Power → Power) : (s.modPower f).nextId = s.nextId := rfl
@[simp] theorem State.modPower_ledgerPeak (s : State) (f : Power → Power) : (s.modPower f).ledgerPeak = s.ledgerPeak := rfl
@[simp] theorem State.modPower_objs (s : State) (f : Power → Power) : (s.modPower f).objs = s.objs := rfl
@[simp] theorem State.modPower_gens (s : State) (f : Power → Power) : (s.modPower f).gens = s.gens := rfl
@[simp] theorem State.modPower_harb (s : State) (f : Power → Power) : (s.modPower f).harb = s.harb := rfl
@[simp] theorem State.modPower_ctxs (s : State) (f : Power → Power) : (s.modPower f).ctxs = s.ctxs := rfl
@[simp] theorem State.modPower_units (s : State) (f : Power → Power) : (s.modPower f).units = s.units := rfl
@[simp] theorem State.modPower_shuttles (s : State) (f : Power → Power) : (s.modPower f).shuttles = s.shuttles := rfl
@[simp] theorem State.modPower_tills (s : State) (f : Power → Power) : (s.modPower f).tills = s.tills := rfl
@[simp] theorem State.modPower_ports (s : State) (f : Power → Power) : (s.modPower f).ports = s.ports := rfl
@[simp] theorem State.modPower_chans (s : State) (f : Power → Power) : (s.modPower f).chans = s.chans := rfl
@[simp] theorem State.modPower_dramReady (s : State) (f : Power → Power) : (s.modPower f).dramReady = s.dramReady := rfl
@[simp] theorem State.modPower_strdCodes (s : State) (f : Power → Power) : (s.modPower f).strdCodes = s.strdCodes := rfl
@[simp] theorem State.modPower_sawyPixels (s : State) (f : Power → Power) : (s.modPower f).sawyPixels = s.sawyPixels := rfl
@[simp] theorem State.modPower_tide (s : State) (f : Power → Power) : (s.modPower f).tide = s.tide := rfl
@[simp] theorem State.modPower_outs (s : State) (f : Power → Power) : (s.modPower f).outs = s.outs := rfl
@[simp] theorem State.modPower_tcaps (s : State) (f : Power → Power) : (s.modPower f).tcaps = s.tcaps := rfl
@[simp] theorem State.modPower_sense (s : State) (f : Power → Power) : (s.modPower f).sense = s.sense := rfl
@[simp] theorem State.modPower_cway (s : State) (f : Power → Power) : (s.modPower f).cway = s.cway := rfl
@[simp] theorem State.modPower_flt (s : State) (f : Power → Power) : (s.modPower f).flt = s.flt := rfl
@[simp] theorem State.modPower_egress (s : State) (f : Power → Power) : (s.modPower f).egress = s.egress := rfl
@[simp] theorem State.modPower_pcie (s : State) (f : Power → Power) : (s.modPower f).pcie = s.pcie := rfl

/-! ### State.modFlt -/

@[simp] theorem State.modFlt_pending (s : State) (f : Flt → Flt) : (s.modFlt f).pending = s.pending := rfl
@[simp] theorem State.modFlt_now (s : State) (f : Flt → Flt) : (s.modFlt f).now = s.now := rfl
@[simp] theorem State.modFlt_fresh (s : State) (f : Flt → Flt) : (s.modFlt f).fresh = s.fresh := rfl
@[simp] theorem State.modFlt_regs (s : State) (f : Flt → Flt) : (s.modFlt f).regs = s.regs := rfl
@[simp] theorem State.modFlt_capts (s : State) (f : Flt → Flt) : (s.modFlt f).capts = s.capts := rfl
@[simp] theorem State.modFlt_wregs (s : State) (f : Flt → Flt) : (s.modFlt f).wregs = s.wregs := rfl
@[simp] theorem State.modFlt_wcapts (s : State) (f : Flt → Flt) : (s.modFlt f).wcapts = s.wcapts := rfl
@[simp] theorem State.modFlt_wpSeq (s : State) (f : Flt → Flt) : (s.modFlt f).wpSeq = s.wpSeq := rfl
@[simp] theorem State.modFlt_miso (s : State) (f : Flt → Flt) : (s.modFlt f).miso = s.miso := rfl
@[simp] theorem State.modFlt_power (s : State) (f : Flt → Flt) : (s.modFlt f).power = s.power := rfl
@[simp] theorem State.modFlt_rings (s : State) (f : Flt → Flt) : (s.modFlt f).rings = s.rings := rfl
@[simp] theorem State.modFlt_pollAt (s : State) (f : Flt → Flt) : (s.modFlt f).pollAt = s.pollAt := rfl
@[simp] theorem State.modFlt_turnAt (s : State) (f : Flt → Flt) : (s.modFlt f).turnAt = s.turnAt := rfl
@[simp] theorem State.modFlt_ledger (s : State) (f : Flt → Flt) : (s.modFlt f).ledger = s.ledger := rfl
@[simp] theorem State.modFlt_nextId (s : State) (f : Flt → Flt) : (s.modFlt f).nextId = s.nextId := rfl
@[simp] theorem State.modFlt_ledgerPeak (s : State) (f : Flt → Flt) : (s.modFlt f).ledgerPeak = s.ledgerPeak := rfl
@[simp] theorem State.modFlt_objs (s : State) (f : Flt → Flt) : (s.modFlt f).objs = s.objs := rfl
@[simp] theorem State.modFlt_gens (s : State) (f : Flt → Flt) : (s.modFlt f).gens = s.gens := rfl
@[simp] theorem State.modFlt_harb (s : State) (f : Flt → Flt) : (s.modFlt f).harb = s.harb := rfl
@[simp] theorem State.modFlt_ctxs (s : State) (f : Flt → Flt) : (s.modFlt f).ctxs = s.ctxs := rfl
@[simp] theorem State.modFlt_units (s : State) (f : Flt → Flt) : (s.modFlt f).units = s.units := rfl
@[simp] theorem State.modFlt_shuttles (s : State) (f : Flt → Flt) : (s.modFlt f).shuttles = s.shuttles := rfl
@[simp] theorem State.modFlt_tills (s : State) (f : Flt → Flt) : (s.modFlt f).tills = s.tills := rfl
@[simp] theorem State.modFlt_ports (s : State) (f : Flt → Flt) : (s.modFlt f).ports = s.ports := rfl
@[simp] theorem State.modFlt_chans (s : State) (f : Flt → Flt) : (s.modFlt f).chans = s.chans := rfl
@[simp] theorem State.modFlt_dramReady (s : State) (f : Flt → Flt) : (s.modFlt f).dramReady = s.dramReady := rfl
@[simp] theorem State.modFlt_strdCodes (s : State) (f : Flt → Flt) : (s.modFlt f).strdCodes = s.strdCodes := rfl
@[simp] theorem State.modFlt_sawyPixels (s : State) (f : Flt → Flt) : (s.modFlt f).sawyPixels = s.sawyPixels := rfl
@[simp] theorem State.modFlt_tide (s : State) (f : Flt → Flt) : (s.modFlt f).tide = s.tide := rfl
@[simp] theorem State.modFlt_outs (s : State) (f : Flt → Flt) : (s.modFlt f).outs = s.outs := rfl
@[simp] theorem State.modFlt_tcaps (s : State) (f : Flt → Flt) : (s.modFlt f).tcaps = s.tcaps := rfl
@[simp] theorem State.modFlt_sense (s : State) (f : Flt → Flt) : (s.modFlt f).sense = s.sense := rfl
@[simp] theorem State.modFlt_cway (s : State) (f : Flt → Flt) : (s.modFlt f).cway = s.cway := rfl
@[simp] theorem State.modFlt_flt (s : State) (f : Flt → Flt) : (s.modFlt f).flt = f s.flt := rfl
@[simp] theorem State.modFlt_egress (s : State) (f : Flt → Flt) : (s.modFlt f).egress = s.egress := rfl
@[simp] theorem State.modFlt_pcie (s : State) (f : Flt → Flt) : (s.modFlt f).pcie = s.pcie := rfl

/-! ### State.modCway -/

@[simp] theorem State.modCway_pending (s : State) (f : Cway → Cway) : (s.modCway f).pending = s.pending := rfl
@[simp] theorem State.modCway_now (s : State) (f : Cway → Cway) : (s.modCway f).now = s.now := rfl
@[simp] theorem State.modCway_fresh (s : State) (f : Cway → Cway) : (s.modCway f).fresh = s.fresh := rfl
@[simp] theorem State.modCway_regs (s : State) (f : Cway → Cway) : (s.modCway f).regs = s.regs := rfl
@[simp] theorem State.modCway_capts (s : State) (f : Cway → Cway) : (s.modCway f).capts = s.capts := rfl
@[simp] theorem State.modCway_wregs (s : State) (f : Cway → Cway) : (s.modCway f).wregs = s.wregs := rfl
@[simp] theorem State.modCway_wcapts (s : State) (f : Cway → Cway) : (s.modCway f).wcapts = s.wcapts := rfl
@[simp] theorem State.modCway_wpSeq (s : State) (f : Cway → Cway) : (s.modCway f).wpSeq = s.wpSeq := rfl
@[simp] theorem State.modCway_miso (s : State) (f : Cway → Cway) : (s.modCway f).miso = s.miso := rfl
@[simp] theorem State.modCway_power (s : State) (f : Cway → Cway) : (s.modCway f).power = s.power := rfl
@[simp] theorem State.modCway_rings (s : State) (f : Cway → Cway) : (s.modCway f).rings = s.rings := rfl
@[simp] theorem State.modCway_pollAt (s : State) (f : Cway → Cway) : (s.modCway f).pollAt = s.pollAt := rfl
@[simp] theorem State.modCway_turnAt (s : State) (f : Cway → Cway) : (s.modCway f).turnAt = s.turnAt := rfl
@[simp] theorem State.modCway_ledger (s : State) (f : Cway → Cway) : (s.modCway f).ledger = s.ledger := rfl
@[simp] theorem State.modCway_nextId (s : State) (f : Cway → Cway) : (s.modCway f).nextId = s.nextId := rfl
@[simp] theorem State.modCway_ledgerPeak (s : State) (f : Cway → Cway) : (s.modCway f).ledgerPeak = s.ledgerPeak := rfl
@[simp] theorem State.modCway_objs (s : State) (f : Cway → Cway) : (s.modCway f).objs = s.objs := rfl
@[simp] theorem State.modCway_gens (s : State) (f : Cway → Cway) : (s.modCway f).gens = s.gens := rfl
@[simp] theorem State.modCway_harb (s : State) (f : Cway → Cway) : (s.modCway f).harb = s.harb := rfl
@[simp] theorem State.modCway_ctxs (s : State) (f : Cway → Cway) : (s.modCway f).ctxs = s.ctxs := rfl
@[simp] theorem State.modCway_units (s : State) (f : Cway → Cway) : (s.modCway f).units = s.units := rfl
@[simp] theorem State.modCway_shuttles (s : State) (f : Cway → Cway) : (s.modCway f).shuttles = s.shuttles := rfl
@[simp] theorem State.modCway_tills (s : State) (f : Cway → Cway) : (s.modCway f).tills = s.tills := rfl
@[simp] theorem State.modCway_ports (s : State) (f : Cway → Cway) : (s.modCway f).ports = s.ports := rfl
@[simp] theorem State.modCway_chans (s : State) (f : Cway → Cway) : (s.modCway f).chans = s.chans := rfl
@[simp] theorem State.modCway_dramReady (s : State) (f : Cway → Cway) : (s.modCway f).dramReady = s.dramReady := rfl
@[simp] theorem State.modCway_strdCodes (s : State) (f : Cway → Cway) : (s.modCway f).strdCodes = s.strdCodes := rfl
@[simp] theorem State.modCway_sawyPixels (s : State) (f : Cway → Cway) : (s.modCway f).sawyPixels = s.sawyPixels := rfl
@[simp] theorem State.modCway_tide (s : State) (f : Cway → Cway) : (s.modCway f).tide = s.tide := rfl
@[simp] theorem State.modCway_outs (s : State) (f : Cway → Cway) : (s.modCway f).outs = s.outs := rfl
@[simp] theorem State.modCway_tcaps (s : State) (f : Cway → Cway) : (s.modCway f).tcaps = s.tcaps := rfl
@[simp] theorem State.modCway_sense (s : State) (f : Cway → Cway) : (s.modCway f).sense = s.sense := rfl
@[simp] theorem State.modCway_cway (s : State) (f : Cway → Cway) : (s.modCway f).cway = f s.cway := rfl
@[simp] theorem State.modCway_flt (s : State) (f : Cway → Cway) : (s.modCway f).flt = s.flt := rfl
@[simp] theorem State.modCway_egress (s : State) (f : Cway → Cway) : (s.modCway f).egress = s.egress := rfl
@[simp] theorem State.modCway_pcie (s : State) (f : Cway → Cway) : (s.modCway f).pcie = s.pcie := rfl

/-! ### State.modSense -/

@[simp] theorem State.modSense_pending (s : State) (f : Sense → Sense) : (s.modSense f).pending = s.pending := rfl
@[simp] theorem State.modSense_now (s : State) (f : Sense → Sense) : (s.modSense f).now = s.now := rfl
@[simp] theorem State.modSense_fresh (s : State) (f : Sense → Sense) : (s.modSense f).fresh = s.fresh := rfl
@[simp] theorem State.modSense_regs (s : State) (f : Sense → Sense) : (s.modSense f).regs = s.regs := rfl
@[simp] theorem State.modSense_capts (s : State) (f : Sense → Sense) : (s.modSense f).capts = s.capts := rfl
@[simp] theorem State.modSense_wregs (s : State) (f : Sense → Sense) : (s.modSense f).wregs = s.wregs := rfl
@[simp] theorem State.modSense_wcapts (s : State) (f : Sense → Sense) : (s.modSense f).wcapts = s.wcapts := rfl
@[simp] theorem State.modSense_wpSeq (s : State) (f : Sense → Sense) : (s.modSense f).wpSeq = s.wpSeq := rfl
@[simp] theorem State.modSense_miso (s : State) (f : Sense → Sense) : (s.modSense f).miso = s.miso := rfl
@[simp] theorem State.modSense_power (s : State) (f : Sense → Sense) : (s.modSense f).power = s.power := rfl
@[simp] theorem State.modSense_rings (s : State) (f : Sense → Sense) : (s.modSense f).rings = s.rings := rfl
@[simp] theorem State.modSense_pollAt (s : State) (f : Sense → Sense) : (s.modSense f).pollAt = s.pollAt := rfl
@[simp] theorem State.modSense_turnAt (s : State) (f : Sense → Sense) : (s.modSense f).turnAt = s.turnAt := rfl
@[simp] theorem State.modSense_ledger (s : State) (f : Sense → Sense) : (s.modSense f).ledger = s.ledger := rfl
@[simp] theorem State.modSense_nextId (s : State) (f : Sense → Sense) : (s.modSense f).nextId = s.nextId := rfl
@[simp] theorem State.modSense_ledgerPeak (s : State) (f : Sense → Sense) : (s.modSense f).ledgerPeak = s.ledgerPeak := rfl
@[simp] theorem State.modSense_objs (s : State) (f : Sense → Sense) : (s.modSense f).objs = s.objs := rfl
@[simp] theorem State.modSense_gens (s : State) (f : Sense → Sense) : (s.modSense f).gens = s.gens := rfl
@[simp] theorem State.modSense_harb (s : State) (f : Sense → Sense) : (s.modSense f).harb = s.harb := rfl
@[simp] theorem State.modSense_ctxs (s : State) (f : Sense → Sense) : (s.modSense f).ctxs = s.ctxs := rfl
@[simp] theorem State.modSense_units (s : State) (f : Sense → Sense) : (s.modSense f).units = s.units := rfl
@[simp] theorem State.modSense_shuttles (s : State) (f : Sense → Sense) : (s.modSense f).shuttles = s.shuttles := rfl
@[simp] theorem State.modSense_tills (s : State) (f : Sense → Sense) : (s.modSense f).tills = s.tills := rfl
@[simp] theorem State.modSense_ports (s : State) (f : Sense → Sense) : (s.modSense f).ports = s.ports := rfl
@[simp] theorem State.modSense_chans (s : State) (f : Sense → Sense) : (s.modSense f).chans = s.chans := rfl
@[simp] theorem State.modSense_dramReady (s : State) (f : Sense → Sense) : (s.modSense f).dramReady = s.dramReady := rfl
@[simp] theorem State.modSense_strdCodes (s : State) (f : Sense → Sense) : (s.modSense f).strdCodes = s.strdCodes := rfl
@[simp] theorem State.modSense_sawyPixels (s : State) (f : Sense → Sense) : (s.modSense f).sawyPixels = s.sawyPixels := rfl
@[simp] theorem State.modSense_tide (s : State) (f : Sense → Sense) : (s.modSense f).tide = s.tide := rfl
@[simp] theorem State.modSense_outs (s : State) (f : Sense → Sense) : (s.modSense f).outs = s.outs := rfl
@[simp] theorem State.modSense_tcaps (s : State) (f : Sense → Sense) : (s.modSense f).tcaps = s.tcaps := rfl
@[simp] theorem State.modSense_sense (s : State) (f : Sense → Sense) : (s.modSense f).sense = f s.sense := rfl
@[simp] theorem State.modSense_cway (s : State) (f : Sense → Sense) : (s.modSense f).cway = s.cway := rfl
@[simp] theorem State.modSense_flt (s : State) (f : Sense → Sense) : (s.modSense f).flt = s.flt := rfl
@[simp] theorem State.modSense_egress (s : State) (f : Sense → Sense) : (s.modSense f).egress = s.egress := rfl
@[simp] theorem State.modSense_pcie (s : State) (f : Sense → Sense) : (s.modSense f).pcie = s.pcie := rfl

end Sys2Proof.Machine
end

