-- ==== Sys2Proof/Machine/Pins.lean ====
section
/-! DEFINITION. What the pins show (21_power_reset_boot.md, R554; R307, R449, R469, R491, R510, R511, R547): functions of the state, which
no command reads. -/

namespace Sys2Proof.Machine

/-- The output pins of R554 and R578. -/
inductive Pin where
  | peTx | opTx (port : Fin 4) (lane : Fin 12) | opBc (port : Fin 4) | cwTx (lane : Fin 2) | cwRx (lane : Fin 2)
  | dramData (ch : Fin 16) | dramReset (ch : Fin 16)
  | qspi | wpMiso | wpIrq | tideOut (n : Fin 8) | peerOkOut | faultN | thermTripN | jtagTdo
deriving DecidableEq, Repr

/-- What a pin does: `used` is driven by its unit as that unit's own rules say. -/
inductive PinState where
  | highZ | low | high | released | terminated | used
deriving DecidableEq, Repr

/-- A push-pull level. -/
def levelOf (b : Bool) : PinState := if b then .high else .low

/-- An open-drain pin. -/
def drainOf (asserted : Bool) : PinState := if asserted then .low else .released

/-- A transmitter that has nothing to send yet has no common-mode drive (R554). -/
def usedIf (b : Bool) : PinState := if b then .used else .highZ

/-- TIDE_OUT (R469, R511): off while its programme is, and on a unit that may not drive it; a counted series that is over holds its
inactive level (R470). -/
def State.tidePin (s : State) (n : Nat) : PinState :=
  let o := s.out n
  if !s.cway.role.drives || (decide (o.prog.mode = 0) && decide (o.next = 0)) then .highZ else levelOf (o.active != o.prog.low)

/-- A pin of a running device. -/
def State.pinRunning (s : State) : Pin → PinState
  | .peTx => usedIf s.power.linkUp
  | .opTx p l => usedIf ((s.port p).link.useOf l != .quiet)
  | .opBc _ => .terminated
  | .cwTx l => usedIf (s.cway.wire.useOf l != .quiet)
  | .cwRx _ => .terminated
  | .dramData c => usedIf (s.dramReady && decide ((s.chan c).phase ≠ .absent))
  | .dramReset c => if s.dramReady && decide ((s.chan c).phase ≠ .absent) then .used else .low
  | .qspi => .used
  | .wpMiso => .used
  | .wpIrq => drainOf s.wpIrqLow
  | .tideOut n => s.tidePin n
  | .peerOkOut => levelOf s.cway.okOut
  | .faultN => drainOf s.flt.pin
  | .thermTripN => drainOf s.power.thermTrip
  | .jtagTdo => .highZ

/-- A pin while a reset holds the device, or without power (R554). -/
def State.pinInReset (s : State) : Pin → PinState
  | .peerOkOut => if s.power.railsLow then .highZ else .low
  | .wpIrq => .released
  | .faultN => .released
  | .thermTripN => .released
  | _ => .highZ

/-- The state of a pin (R554). -/
def State.pin (s : State) (x : Pin) : PinState := if s.running then s.pinRunning x else s.pinInReset x

end Sys2Proof.Machine
end

