-- ==== Sys2Proof/WellFormed.lean ====
section
/-! DEFINITION. Which commands can be given at all: the operand limits that the types of Syntax do not carry. The meanings
are total and do not rest on it. -/

namespace Sys2Proof

/-- A register access has one byte at least and any number, within BAR0 and the BAR2 that follows it in the model's offsets (R11, log 63). -/
def accessSize (off n : Nat) : Bool := decide (1 ≤ n) && decide (off + n ≤ 0x11000)

/-- A ΔV reading is a 16-bit number of quarter LSBs (R481). -/
def deltaV (n : Nat) : Bool := decide (n < 65536)

/-- A temperature in s8.8 (R482). -/
def s8p8 (t : Int) : Bool := decide (-32768 ≤ t) && decide (t < 32768)

/-- A burst of 64 bytes, where one is written (R435). -/
def burstOk : Option (List Byte) → Bool
  | some bs => decide (bs.length = 64)
  | none => true

/-- Averages of a calibration measurement are u12.4 (R495). -/
def calReadingOk (r : CalReading) : Bool := decide (r.a < 65536) && decide (r.b < 65536) && decide (r.c < 65536)

/-- The operand limits of a command. -/
def Instr.wellFormed : Instr → Bool
  | .registerWrite _ off size _ => accessSize off size
  | .wideRegisterRead _ off size => accessSize off size
  | .bootConfigRead record => decide (record.length ≤ 1048576)
  | .calMeasureRepeat _ first => first.all calReadingOk
  | .calMeasureDone _ second => second.all calReadingOk
  | .caps _ msg => decide (msg.length = 16)
  | .status _ msg => decide (msg.length = 16)
  | .laneLoss _ msg => decide (msg.length = 16)
  | .modeAck _ msg => decide (msg.length = 16)
  | .train _ msg => decide (msg.length = 16)
  | .tally _ msg => decide (msg.length = 16)
  | .leaseEvent _ msg => decide (msg.length = 16)
  | .loopbackEnd _ errors => decide (errors.length ≤ 12)
  | .dramRequestArrive _ _ _ row _ write => decide (row < 262144) && burstOk write
  | .periodicRetrainSlice _ temp _ => s8p8 temp
  | .recoveryRetrainDone _ temp _ => s8p8 temp
  | .remoteDiodeSample _ dv => deltaV dv
  | .boardSensorSample dv => deltaV dv
  | _ => true

end Sys2Proof
end

