-- ==== Sys2Proof/Tests/Slice0.lean ====
section
/-! SUPPORT. Tests: a smoke test of each check of WellFormed, and for each statement concrete states and operands that meet the
hypotheses of its clauses, one part of the test for each clause. -/

set_option Elab.async false
set_option linter.unusedVariables false

namespace Sys2Proof.Tests

open Sys2Proof Sys2Proof.Machine

/-! ### WellFormed refuses an ill-formed command for each of its checks -/

theorem test_registerWrite_size_refused : Instr.wellFormed (.registerWrite 0 0 0 0) = false := by decide
theorem test_registerWrite_beyond_refused : Instr.wellFormed (.registerWrite 0 69629 4 0) = false := by decide
theorem test_registerWrite_accepted : Instr.wellFormed (.registerWrite 0 69628 4 0) = true := by decide
theorem test_wideRegisterRead_size_refused : Instr.wellFormed (.wideRegisterRead 0 0 0) = false := by decide
theorem test_wideRegisterRead_beyond_refused : Instr.wellFormed (.wideRegisterRead 0 69625 8) = false := by decide
theorem test_bootConfigRead_refused (record : List Byte) (h : record.length = 1048577) :
    Instr.wellFormed (.bootConfigRead record) = false := by
  simp only [Instr.wellFormed, h]; decide
theorem test_calMeasureRepeat_refused :
    Instr.wellFormed (.calMeasureRepeat 0 [{ chan := 0, a := 65536, b := 0, c := 0 }]) = false := by decide
theorem test_calMeasureDone_refused :
    Instr.wellFormed (.calMeasureDone 0 [{ chan := 0, a := 0, b := 0, c := 65536 }]) = false := by decide
theorem test_backChannel_lengths_refused :
    ([Instr.caps 0 [], .status 0 [], .laneLoss 0 [], .modeAck 0 [], .train 0 [], .tally 0 [], .leaseEvent 0 []].all
      fun i => !i.wellFormed) = true := by decide
theorem test_loopbackEnd_refused : Instr.wellFormed (.loopbackEnd 0 (List.replicate 13 0)) = false := by decide
theorem test_dramRequestArrive_row_refused : Instr.wellFormed (.dramRequestArrive 0 0 0 262144 0 none) = false := by decide
theorem test_dramRequestArrive_burst_refused : Instr.wellFormed (.dramRequestArrive 0 0 0 0 0 (some [1])) = false := by decide
theorem test_retrainTemperatures_refused :
    ([Instr.periodicRetrainSlice 0 32768 false, .recoveryRetrainDone 0 (-32769) false].all fun i => !i.wellFormed) = true := by decide
theorem test_deltaV_refused : ([Instr.remoteDiodeSample 0 65536, .boardSensorSample 65536].all fun i => !i.wellFormed) = true := by decide

/-! ### The states and operands of the witnesses -/

/-- A running device, configured and ready, at a CLK_TIME edge. -/
def live : State := { State.reset with
  now := 1200, dramReady := true
  power := { Power.reset with railsLow := false, boot := .configured, bootReady := true, dramDone := true, storeDone := true, linkUp := true
                              purserUp := true } }

/-- A running ring of 64 entries. -/
def ring0 : Ring := { Ring.reset with enable := true, state := .running, cpl := 4096, db := 512, base := 65536, vector := 3 }

/-- A descriptor of ring 0: opcode, opflags, and words from word 2 on. -/
def descOf (op flags : Nat) (ws : List Nat) : Desc := { ring := 0, count := 0, words := [op * 2 ^ 24 + flags, 0] ++ ws ++ List.replicate (14 - ws.length) 0 }

/-- The descriptor has been compared on ring 0 and waits for its acceptance. -/
def taking (s : State) (d : Desc) : State := s.setRing 0 { ring0 with cur := some d }

/-- An entry of the ledger. -/
def entryOf (id : Nat) (d : Desc) (job : Job) (started : Bool) : Entry :=
  { id := id, fn := 0, desc := d, started := started, readyAt := none, versions := [], job := job, tiles := [], work := [], muted := false
    mirrored := false, wrote := [], shared := [] }

def holding (s : State) (es : List Entry) : State := { s.setRing 0 ring0 with ledger := es, nextId := 9 }

def off : State := State.reset
def pwr : State := { State.reset with power := { Power.reset with railsLow := false, pwrLow := true } }
def perst : State := { live with power := { live.power with perstLow := true, linkUp := false } }
def nolink : State := { live with power := { live.power with linkUp := false }, tcaps := [(1, { TideCap.reset with buffered := [(16, [1,2])] })] }
def rom : State := { live with power := { live.power with boot := .rom, bootReady := false } }
def img : BootImage := { magic := 0x50F1AC01, version := 3, length := 100, commitVersion := true, signatureOk := true }

def fw : State := { live with power := { live.power with boot := .firmware, bootReady := false, dramDone := false, storeDone := false } }
def cfgHead : List Byte := leBytes 4 0x50BC0F01 ++ leBytes 4 1 ++ leBytes 1 1 ++ leBytes 1 0x13 ++ List.replicate 50 0
def cfgRec : List Byte := cfgHead ++ leBytes 4 (crc32c 0 cfgHead)
def cfgd : State := { live with power := { live.power with bootReady := false, dramDone := false, storeDone := false, bootConfig := cfgRec }, dramReady := false }
def plated : State := { cfgd with power := { cfgd.power with bootConfig := leBytes 36 0 ++ leBytes 2 9000 ++ leBytes 2 8 ++ leBytes 24 0 } }
def plated2 : State := { cfgd with power := { cfgd.power with bootConfig := leBytes 36 0 ++ leBytes 2 8 ++ leBytes 2 8 ++ leBytes 24 0 } }
def fwc (d s c : Bool) : State := { cfgd with power := { cfgd.power with dramDone := d, storeDone := s, commitVersion := c, fwVersion := 7 } }

def wd : State := { live with flt := { live.flt with wdogAt := some 0 }, now := 15000000001 }
def wd2 : State := { wd with now := 15000000000 }
def pairA : State := { live with regs := [(0x7000, 1)], cway := { live.cway with role := .active } }
def pairM : State := { live with regs := [(0x7000, 1)], cway := { live.cway with role := .mirrored, linkPhase := 3 } }
def rst : State := { live with flt := { live.flt with restarting := true, expiries := 1 }, power := { live.power with purserUp := false } }

def flt1 : State := { live with flt := { live.flt with first := some [5, 2, 0, 0, 0, 0, 0, 0], seq := 6 } }
def flt3 : State := { live with flt := { live.flt with first := some [5, 3, 0, 0, 0, 0, 0, 0], seq := 6, fatalHold := true, pin := true } }
def pol : State := { live with regs := [(0xE028, 0x80)], flt := { live.flt with seq := 2^32 - 1 } }

def chact : State := { live with chans := [(0, { Chan.reset with phase := .active }), (3, { Chan.reset with phase := .recovery }), (5, {Chan.reset with phase := .retiring })] }

def nopD (seq : Nat) : Desc := { ring := 0, count := 0, words := [0, seq] ++ List.replicate 14 0 }
def ringS (x : Ring) : State := live.setRing 0 x
def rDis : State := ringS { ring0 with enable := false, state := .disabled }
def rRead : State := ringS { ring0 with state := .disabled, enableRead := true }
def rReadT : State := { ringS { ring0 with state := .disabled, enableRead := true, afterTakeover := true } with cway := { live.cway with recents := [(0, 3, [1]), (1, 3, [2])] } }
def rDrop : State := ringS { ring0 with state := .disabled, enableRead := true, enableDrop := true }
def rBig : State := ringS { ring0 with enable := false, state := .disabled, sizeLog := 11 }
def rRun : State := holding (live) [entryOf 1 (descOf 0 0 []) .plain false, entryOf 2 (descOf 0x30 0 []) (.sawyer []) true, entryOf 3 (descOf 0x60 0 []) .plain false]
def rRun1 : State := holding (live) [entryOf 1 (descOf 0 0 []) .plain false]
def rPoll : State := ringS { ring0 with polling := true, consumed := 2^32 - 1, tail := 5 }
def rFetch : State := ringS { ring0 with fetching := some (0, 2), tail := 2 }
def rTail : State := ringS { ring0 with tail := 3, buf := [nopD 0] }
def rTail2 : State := ringS { ring0 with tail := 63, consumed := 62 }
def twoDesc : HostRead := { bytes := (List.range 2).flatMap fun i => (leBytes 4 0 ++ leBytes 4 i ++ List.replicate 56 0), fail := none }
def seqS (n : Nat) : State := ringS { ring0 with nextSeq := n }

def v1 : Version := { num := 0, valid := true, bytes := [(3, 7)], tiles := [0], unwritten := [], opacity := [] }
def bufO : Obj := { handle := 1281, cls := 4, hint := 0, format := 0, width := 0, height := 0, size := 256, fill := .zeros, versions := [v1], given := 1, invalid := false, lost := none, freeing := none, released := false }
def plateO : Obj := { handle := 1537, cls := 0, hint := 0, format := fmtRgba, width := 96, height := 2, size := 0, fill := .blocks 0, versions := [{ v1 with num := 1, tiles := [1], bytes := [], opacity := [0,0] }], given := 1, invalid := false, lost := none, freeing := none, released := false }
def imgO : Obj := { handle := 1793, cls := 1, hint := 0, format := 4, width := 16, height := 4, size := 0, fill := .zeros, versions := [{ v1 with bytes := [(0, 9), (7, 1)] }], given := 1, invalid := false, lost := none, freeing := none, released := false }
def stocked : State := { live with objs := [(5, bufO), (6, plateO), (7, imgO)], regs := [(0x2080, 100)], harb := { Harb.reset with places := [(0, .chandlery), (1, .chandlery)], nextTile := 2, capacity := 65536 } }
def withD (s : State) (d : Desc) : State := taking s d
def busyS (s : State) : State := { s with ledger := [entryOf 1 (descOf 0x61 0 [9]) .plain true], nextId := 9 }
def allocD : Desc := descOf 0x01 0x200000 [4, 0, 4096]
def allocP : Desc := descOf 0x01 0 [0x1000, 96 + 2 * 65536, 0]
def freeD : Desc := descOf 0x02 0 [1281]
def wrD : Desc := descOf 0x03 0x800000 [1281, 8, 0x1000, 0, 16]
def wrP : Desc := descOf 0x03 0 [1537, 0, 0x1000, 0, 16]
def rdD : Desc := descOf 0x04 0 [1281, 0, 0x1000, 0, 16]
def rdL : Desc := descOf 0x04 0 [1281, 248, 0x1000, 0, 16]
def waitP : Desc := descOf 0x61 0 [0, 0, 0]
def waitF : Desc := descOf 0x61 0 [9, 0, 0]
def nopF : Desc := descOf 0 0x400000 []

def loadD : Desc := descOf 0x10 0 [1537, 0, 0x1000, 0, 8 + 2 * 65536, 32, 4, 65536, 0, 8 + 2 * 65536, 0]
def loadI : Desc := descOf 0x10 0 [1537, 1793, 0, 0, 8 + 2 * 65536, 0, 4, 65536, 0, 8 + 2 * 65536, 0]
def bdbO : Obj := { imgO with handle := 2049, format := fmtRgba, versions := [{ v1 with bytes := [(0, 255), (1, 255)] }] }
def loadB : Desc := descOf 0x10 0 [1537, 2049, 0, 0, 8 + 2 * 65536, 0, fmtRgba, 65536, 0, 8 + 2 * 65536, 0]
def stock2 : State := { stocked with objs := stocked.objs ++ [(8, bdbO)] }
def ldEntry (d : Desc) (j : Job) (st : Bool) : Entry := { entryOf 1 d j st with readyAt := some 0, versions := [(1537, 2)] }
def loads : List State := [holding stock2 [ldEntry loadD .plain false], holding stock2 [ldEntry loadD (.load 3 [0] 2) true]] ++
  [loadD, loadI, loadB].map fun d => holding stock2 [ldEntry d (.load 1 [] 0) true]
def src64 : HostRead := { bytes := List.replicate 64 5, fail := none }
def sdD (more : Nat) : Desc := descOf 0x11 (more * 2^21) [1281, 16, 0x1000, 0, 8, 77]
def sdDef : Desc := descOf 0x11 (2^20) [1281, 16, 0x1000, 0, 8, 77]
def scD : Desc := descOf 0x12 0 [77, 0, 0, 0x1000, 0, 8]
def scN : Desc := descOf 0x12 0 [77, 1281, 32, 0x1000, 0, 8]
def scE : Desc := descOf 0x12 0 [77, 0, 0, 0, 0, 0]
def scX : Desc := descOf 0x12 0 [78, 0, 0, 0, 0, 0]
def openC : Machine.Ctx := { Ctx.reset with open_ := true, fn := 0, streamId := 77, opener := 1, dst := 1281, dstOff := 16 }
def ctxed : State := { stocked with ctxs := [(2, openC)] }
def fullC : State := { stocked with ctxs := (List.range 20).map fun i => (i, { openC with streamId := i }) }
def strS : List State := [sdD 0, sdD 1, sdDef, scD, scN, scE, scX].flatMap fun d => [withD stocked d, withD ctxed d, withD fullC d]
def strE (d : Desc) (st run : Bool) : State := holding { stocked with ctxs := [(2, { openC with running := run })] } [{ entryOf 1 d (.stream 2 1281 1 1 16) st with readyAt := some 0 }]
def inp : HostRead := { bytes := [0x10,0x11,0x12,0,0,0,0,0], fail := none }
def strR : List State := [sdD 0, sdD 1, scN, scE, scD].flatMap fun d => [strE d false false, strE d true true]

def fillW (sig : Nat) : List Nat := [2^28 + sig * 2^27 + 9, 0, 1793, 0, 4 + 2 * 65536, 0, 0, 0x11223344, 0,0,0,0, sig, 0, 0x2000 * sig, 0]
def cmdOf (ws : List Nat) (ph : SawyerPhase) (mark : Nat) : SawyerCmd := { words := ws, phase := ph, mark := mark, signalled := false, fail := none, upward := false }
def copyW : List Nat := [2 * 2^28, 0, 1793, 0, 4 + 2 * 65536, 1793, 8 + 65536, 0,0,0,0,0,0,0,0,0]
def convW : List Nat := [3 * 2^28, 0, 1537, 0, 4 + 65536, 1793, 0, 0, 65536,0,0,0,0,0,0,0]
def blendW : List Nat := [4 * 2^28, 0, 1537, 0, 4 + 65536, 2049, 0, 0, 0,0,4095,0,0,0,0,0]
def maskW : List Nat := [5 * 2^28, 0, 1537, 0, 4 + 65536, 2049, 0, 65536, 0,0,4095,0,0,0,0,0]
def scanW : List Nat := [6 * 2^28, 0, 0, 5, 0, 0, 0, 0, 0,0,0,0,0,0,0,0]
def slD : Desc := descOf 0x30 0 [0, 0x1000, 0, 1, 0]
def slO : Desc := descOf 0x30 0 [1281, 0, 0, 1, 0]
def listOf (ws : List Nat) : HostRead := { bytes := ws.flatMap (leBytes 4), fail := none }
def port0 : Port := { Port.reset with phase := .running, mode := { hActive := 96, vActive := 8, vBlank := 8, subframes := 1, raceLead := 2, ticksFrac := 0, ticksInt := 3000 }, lineTicks := 3000 * 2^33, subEff := 1, frameAt := 0, next := 1 }
def sawS (cs : List SawyerCmd) (st : Bool) : State := holding (stock2.setPort 0 port0) [{ entryOf 1 slD (.sawyer cs) st with readyAt := some 0 }]
def sawL : List State := [slD, slO].map (withD stock2) ++ [holding stock2 [{ entryOf 1 slD (.sawyer []) false with readyAt := none }]]
def sawR : List State := [fillW 0, copyW, convW, blendW, maskW, scanW].map fun ws => sawS [cmdOf ws .waiting 0] true
def sawRun : List State := [sawS [cmdOf (fillW 1) .running 0] true, sawS [cmdOf (fillW 0) .running 1] true, sawS [cmdOf blendW .running 0, cmdOf (fillW 1) .done 2] true,
  sawS [cmdOf (fillW 0) .running 2] true, sawS [cmdOf (fillW 0) .running 2, cmdOf copyW .done 2] true, sawS [cmdOf (fillW 0) .running 2, cmdOf copyW .running 0] true,
  { sawS [cmdOf convW .running 0] true with ledger := [{ entryOf 1 slD (.sawyer [cmdOf convW .running 0]) true with readyAt := some 0, work := [(1537, [])], versions := [(1537, 2)] }] }]
def rowsOf (s : State) : List (Tab Byte) := s.ledger.flatMap fun e => (indexed e.cmds).filterMap fun kc =>
  let c := kc.2
  match s.img e c.dst with
  | none => none
  | some d => 
    let row := if c.upward then c.height - 1 - c.mark else c.mark
    ({ cmd := c, dst := d, src := if c.hasSrc then s.img e c.src else none, y := c.dstY + row, sy := c.srcY + row } : RowJob).run

def tjD (cmp : Nat) : Desc := descOf 0x31 0 [cmp * 256, 0, 0, 0x1000, 0, 4, 0, 5]
def tjO : Desc := descOf 0x31 0 [1, 0, 1281, 0, 0, 8, 0, 5]
def tjs : List State := [holding stocked [entryOf 1 (tjD 0) .plain false], holding { stocked with units := [(0, {TallyUnit.reset with busy := true})] } [entryOf 1 (tjD 0) .plain false]] ++
  [tjD 0, tjD 1, tjO].map fun d => holding { stocked with units := [(2, { TallyUnit.reset with busy := true, poly := d.poly })] } [{ entryOf 1 d (.tally 2) true with readyAt := some 0 }]
def four : HostRead := { bytes := [1,2,3,4], fail := none }
def scenD (n tone : Nat) : Desc := descOf 0x20 0 [0, 0x1000, 0, n, 0, 0, 0, tone]
def ent (plate ver : Nat) : List Nat := [plate, ver, 4095 * 0, 0, 0, 0, 0, 0, 0, 0,0,0,0,0,0,0]

def toneO : Obj := { handle := 2049, cls := 5, hint := 0, format := 0, width := 0, height := 0, size := 1804, fill := .zeros, versions := [v1], given := 1, invalid := false, lost := none, freeing := none, released := false }
def entB (plate ver mask : Nat) : List Nat := [plate, ver, 0x0FFF0010, mask, 0, 5, 65536, 0, 0, 0, 65536, 0, 0,0,0,0]
def ent1 (g : Nat) : List Nat := [0,0,1,0,0,0,0,0,0,0,0,0,g,0,0,0]
def stockT : State := { stocked with objs := stocked.objs ++ [(8, toneO)] }
def tableOf (es : List (List Nat)) : HostRead := { bytes := es.flatMap fun e => e.flatMap (leBytes 4), fail := none }
def scS (d : Desc) (p : Port) : State := taking (stockT.setPort 0 p) d
def scSs : List State := [scS (scenD 0 0) port0, scS (scenD 1 0) port0, scS (scenD 2 2049) Port.reset, scS (scenD 1 2049) port0, scS (scenD 1 1281) port0,
  { scS (scenD 1 0) Port.reset with power := { stockT.power with bootState := true }, tide := { stockT.tide with armed := true } }]
def scReads : List HostRead := [tableOf [], tableOf [entB 1537 0 0], tableOf [entB 1537 1 0, ent1 5], tableOf [ent1 1, ent1 2], tableOf [entB 1281 0 0], tableOf [entB 9999 0 0], { bytes := [], fail := some .poisoned }]
def scT : List State := scSs.flatMap fun s => scReads.filterMap fun t => match execSceneCommit 0 t s with
   | .next t => some t
   | _ => none

def eyeW : List Nat := [0, 65536, 600 * 65536, 5, 2^32-5, 0, 1, 0, 17, 0x00200010, 0, 0]
def eyeD (n p : Nat) : Desc := descOf 0x22 0 [p + n * 256, 0x1000, 0]
def sigW (r : Nat) : List Nat := [256 + r, 3 + 4 * 65536, 16 + 8 * 65536, 99, 0,0,0,0]
def sigD (op n b : Nat) : Desc := descOf op (b * 2^21) [1 + n * 256, 0x1000, 0, 7, 1]
def egS : List State := [taking (live.setPort 0 port0) (eyeD 1 0), taking live (eyeD 2 1), taking live (eyeD 0 1), taking (live.setPort 1 port0) (eyeD 1 1)] ++
  [sigD opSignatureExpect 2 0, sigD opSignatureExpect 1 1, sigD opSignatureExpect 0 1].map fun d => taking (live.setPort 1 port0) d
def egR : List HostRead := [tableOf [eyeW, eyeW], tableOf [eyeW], tableOf [], tableOf [sigW 3, sigW 4]]
def modeW (p stop mask : Nat) : Desc := descOf opModeSet 0 [p + stop + mask * 256, 96 + 64 * 65536, 8 + 65536 + 16 * 2^24, 0, 30000]
def trainedL : Link := { Link.reset with trained := true, power := .l0, nd := 11, rate := 3 }
def pT : Port := { Port.reset with link := trainedL }
def msS : List State := [taking (live.setPort 0 port0) (modeW 0 0 0), taking (live.setPort 0 port0) (modeW 0 65536 0), taking live (modeW 0 0 0), taking live (modeW 0 65536 0), taking live (modeW 1 65536 0),
  taking live (modeW 0 0 3), taking (live.setPort 0 pT) (modeW 0 0 0), taking (live.setPort 0 pT) (modeW 0 0 1), taking ((live.setPort 0 pT).setPort 1 pT) (modeW 0 0 3), 
  { taking (live.setPort 0 port0) (modeW 0 0 0) with power := { live.power with bootState := true } }]

def mwS (p : Port) : State := live.setPort 0 p
def linkR : Link := { Link.reset with trained := true, power := .l0, phase := .up, nd := 11, rate := 3 }
def waitP1 (u : ModeUse) : Port := { port0 with link := linkR, modeWait := some { modeId := 3, use := u, since := 0, resend := 100 } }
def late : State := { live with now := 3 * 10^9 }
def startE : Entry := { entryOf 1 (modeW 0 0 0) .plain true with readyAt := some 0 }
def mtS : List State := [mwS (waitP1 .start), mwS (waitP1 .change), late.setPort 0 (waitP1 .change), late.setPort 0 (waitP1 .reform),
  (holding late [startE]).setPort 0 { Port.reset with phase := .starting, startBy := some 100, startId := some 1, modeNext := some ((modeW 0 0 0).mode, 0), link := linkR },
  ((holding late [startE]).setPort 0 { Port.reset with phase := .starting, gang := 3, startBy := some 100, startId := some 1, modeNext := some ((modeW 0 0 3).mode, 3), link := linkR }).setPort 1 { Port.reset with phase := .starting, gang := 3 },
  live.setPort 2 { Port.reset with link := { linkR with holdEnd := some 5, holds := true } },
  { live.setPort 2 { Port.reset with link := { linkR with holdEnd := some 5, holds := true } } with regs := [(linkBase 2, 256)] }]
def tpD (n : Nat) : Desc := descOf 0x46 0 [n, 0x1000, 0]

def tpD2 (n : Nat) : Desc := descOf opTideProgram 0 [n, 0x1000, 0]
def blockOf (ws : List Nat) : HostRead := { bytes := ws.flatMap (leBytes 4), fail := none }
def bOut1 := blockOf [1 + 16, 100, 0, 0, 5000, 0, 0, 0]
def bOut2 := blockOf [2, 100, 0, 0, 5000, 300, 7, 1]
def bOut3 := blockOf [3 + 2^12, 100, 0, 0, 0, 5, 7, 0]
def bCap := blockOf [1 + 5 * 256, 3, 0x40000, 1, 0,0,0,0]
def tpS : List State := [tpD2 0, tpD2 1, tpD2 9, tpD2 12].flatMap fun d => [taking (live.setPort 0 Port.reset) d, taking ((live.setOut 0 { TideOut.reset with active := true, ends := some 77 }).setCap 1 { TideCap.reset with seq := 4, buffered := [(3,[1])] }) d]
def g1 := outProg bOut1.bytes
def g2 := outProg bOut2.bytes
def tick (n : Nat) : State := { live with now := n, tide := { live.tide with ns := 500000 } }
def caps : List TideCap := [{ TideCap.reset with edge := 1, addr := 64 }, { TideCap.reset with edge := 3, addr := 64, seq := 65535, droppedSince := 3, lastEdge := some 1000, sizeLog := 2 },
  { TideCap.reset with edge := 3, buffered := (List.range 16).map fun i => (i, [1]), dropped := 0xFFFF }]
def tq : List State := [g1, g2, { g2 with count := 5 }, { g2 with count := 0 }].flatMap (fun g => [tick 1200, tick 600000].flatMap fun s => [s.setOut 0 { TideOut.reset with prog := g },
   s.setOut 0 { TideOut.reset with prog := g, active := true, ends := some (6000 * 2^32), next := 1, pulses := 0xFFFF }]) ++
  caps.flatMap fun c => [live.setCap 0 c, { live.setCap 0 c with power := { live.power with linkUp := false } }]
def td (t : Tide) (regs : List (Nat × Word)) : State := { live with now := 600000, tide := t, regs := regs }
def tt : Tide := { live.tide with ns := 500000 }
def tdS : List State := [td { tt with dialogueAt := some 0 } [(0x8010, 1 + 256 + 65536 * 10)]] ++
  ([0, 6, 7].flatMap fun b => [TidePhase.track, .acquire, .discont, .holdover].flatMap fun ph =>
    [td { tt with phase := ph, bad := b, valid := 3, dialogue := some (1000, 400000 * 2^32) } [(0x8010, 3 + 256 + 65536 * 10)],
     td { tt with phase := ph, bad := 8, valid := 3, dialogue := some (599000, 499900 * 2^32), base := some { master := 1, local_ := 2, offset := 3 } } [(0x8010, 3 + 256 + 65536 * 10)]])

def cmD (kind port mask : Nat) : Desc := descOf opCalMeasure 0 [kind + port * 16, mask]
def rd (c : Nat) (a b d : Nat) : CalReading := { chan := Fin.ofNat 16 c, a := a, b := b, c := d }
def goodR : List CalReading := [rd 0 1024 32768 64512, rd 8 1000 40000 0]
def badR : List CalReading := [rd 0 5000 32768 64512, rd 8 1000 1001 0]
def farR : List CalReading := [rd 0 1100 32800 64512, rd 8 1000 60000 0]
def mS : List State := [taking (live.setPort 0 port0) (cmD 0 0 1), taking (live.setPort 0 port0) (cmD 1 0 256), taking { live.setPort 0 port0 with regs := [(0x9020, 4)] } (cmD 1 0 256)] ++
  ([cmD 0 0 1, cmD 1 0 256].flatMap fun d => [0,2,4].flatMap fun n => [[], goodR].flatMap fun xs => [true,false].map fun sf =>
    { holding (live.setPort 0 port0) [{ entryOf 1 d (.calMeasure xs (some 4) n 4 sf) true with readyAt := some 0 }] with regs := [(0x900C, 100)] })
def csD (k : Nat) : Desc := descOf opCalStore 0 [k, 0]
def brd (v : Int) (ok : Bool) (s : State) : State := { s with sense := { s.sense with board := { s.sense.board with value := v, sampled := ok } } }
def csS : List State := [csD 1, csD 2].flatMap fun d => [brd (25*256) true (taking live d), brd (90*256) true (taking live d), brd 0 false (taking live d),
  brd 5 true { taking live d with sense := { live.sense with gen := 3, slot := false, flashA := [(0,1)], flashB := [(0,2)] } }, 
   brd 5 true { taking live d with sense := { live.sense with gen := 3, slot := true, flashA := [(0,1)], flashB := [(0,2)], pending := some StoreData.reset } }]
def csW : List State := [true, false].flatMap fun sl => [0, 6].map fun g => { holding live [{ entryOf 1 (csD 1) .calStore true with readyAt := some 0 }] with sense := { live.sense with
   gen := g, slot := !sl, board := { live.sense.board with value := 5, sampled := true }, boardRun := 20, writing := some (some 1, { StoreData.reset with alms := [⟨1,2,3,4,5⟩] }, sl), pending := some StoreData.reset } }
def fs0 : FrameState := { frame := 5, mode := port0.mode, gang := 0, scene := [], tone := none, gated := [], dark := [], ctrl := 0, atlasGated := false, subframes := 1, safe := false, grey := none, new := none, old := none, fadeF := 0, fadeLen := 0, eu := 0, ev := 0, fixes := [(0, { shepherd := false, eyes := [], geom := 0, pitch := 0 })], prot := Prot.reset, reported := [], skipped := 0 }
def alm0 : Almanac := { bytes := [1,2,3], handle := 3, sens := [], maxRu := [], maxRv := [], tau := 0, scrubBad := false }
def rmS : List State := [live.setPort 0 { port0 with frames := [fs0] }, live.setPort 0 { port0 with ray := { RayMap.reset with new := some alm0 } }, live.setPort 0 { port0 with frames := [fs0], lastTableRing := some 3, ray := { RayMap.reset with new := some { alm0 with scrubBad := true } } }]
def clD : Desc := descOf opCalLoad 0 [1281, 0]
def clS : List State := [holding stocked [entryOf 1 clD .plain false], holding (stocked.setPort 0 port0) [entryOf 1 { clD with words := [0x40 * 2^24, 0, 1793] ++ List.replicate 13 0 } .plain false],
  holding stocked [entryOf 1 clD (.calLoad [1,2,3] 9) true], holding (stocked.setPort 0 port0) [entryOf 1 clD (.calLoad [1,2,3] 9) true],
   holding (stocked.setPort 0 { Port.reset with ray := { RayMap.reset with new := some alm0, old := some alm0, fadeF := 3, fadeLen := 9, fadeId := some 1, fadeFrom := 5 } }) [entryOf 1 clD (.calLoad [1,2,3] 9) true],
   holding (stocked.setPort 0 { Port.reset with ray := { RayMap.reset with new := some alm0, old := some alm0, fadeF := 3, fadeLen := 9, fadeId := some 2, fadeFrom := 5 } }) [entryOf 1 clD (.calLoad [1,2,3] 9) true, entryOf 2 clD (.calLoad [1] 9) true]]

def hb (pl : Tab Place) (un rel : List Nat) (chs : Tab Chan) (s : State) : State := { s with harb := { s.harb with places := pl, unreadable := un, relocating := rel, nextTile := 5, peakChn := 9 }, chans := chs }
def cAct : Chan := { Chan.reset with phase := .active }
def cRet : Chan := { Chan.reset with phase := .retiring, queue := [] }
def hS : List State := [hb [(0, .chandlery), (1, .chandlery)] [] [] [(0, cAct), (1, cAct)] stocked, hb [(0, .dram 0), (1, .dram 0)] [] [0] [(0, cRet), (1, cAct)] stocked,
  hb [(0, .dram 0), (1, .dram 1)] [0] [0] [(0, cRet), (1, cAct)] stocked, hb [(3, .dram 0)] [] [0,1] [(0, cRet), (1, cRet)] stocked]
def slotP (n : Int) (ph : PortPhase) : Port := { port0 with phase := ph, next := n, link := { linkR with holdEnd := if ph = .stopped then some 9999999 else none } }
def lineP (seg : Nat) (lead : Bool) (under : Bool) : Port := { port0 with mode := { port0.mode with hActive := 288 }, next := 1, link := linkR, line := some { slot := 0, pos := 0, seg := seg, words := [[], []].flatten, under := under }, lead := if lead then [(segKey 0 0 0 seg, [1,2,3].map (BitVec.ofNat 12)), (segKey 0 0 0 (seg+1), [4,5,6].map (BitVec.ofNat 12))] else [] }
def at_ (n : Nat) : State := { live with now := n }
def slS : List State := [ (at_ 100000).setPort 0 (slotP 1 .running), (at_ 100000).setPort 0 (slotP 7 .running), (at_ 100000).setPort 0 (slotP 8 .running), (at_ 100000).setPort 0 (slotP 14 .running), (at_ 100000).setPort 0 (slotP 1 .stopped),
   (at_ 100000).setPort 0 { slotP 3 .running with gang := 0, subEff := 1, link := { linkR with trained := false } }]
def slL : List State := [0,1,2].flatMap fun seg => [true,false].flatMap fun l => [true,false].map fun u => (at_ 200000).setPort 0 (lineP seg l u)

def fsC : FrameState := { fs0 with subframes := 1, ctrl := 0 }
def rowW : TileRow := { lead := 0, frame := 5, sub := 0, row := 0, next := 0, at_ := 0, deadline := 9, safe := false, left := 1 }
def shW (wit : Bool) (fr : Nat) : Shuttle := { port := 0, lead := 0, frame := fr, sub := 0, row := 0, col := 0, line := 0, safe := false, witness := wit, from_ := 3 }
def wvP : Port := { port0 with frames := [fsC], frame := 5, rows := [rowW, { rowW with row := 1, deadline := 8 }], next := 0 }
def wvS : List State := [live.setPort 0 wvP, { live.setPort 0 wvP with shuttles := [(0, shW false 5), (3, shW false 5)] }, { (at_ 50000).setPort 0 { wvP with next := 3 } with shuttles := [(0, shW false 5)] },
   { live.setPort 0 wvP with shuttles := [(0, shW true 5), (3, shW false 6)] }, { live.setPort 0 wvP with shuttles := [(1, shW true 6)] }]
def capO : Obj := { handle := 2049, cls := 2, hint := 0, format := 4, width := 16, height := 4, size := 0, fill := .zeros, versions := [{ v1 with bytes := [] }], given := 1, invalid := false, lost := none, freeing := none, released := false }
def capC : Capture := { frame := 5, count := 3, handle := 2049, height := 4, second := false, safe := false, transfer := 0, tone := false, white := 1, recAddr := 4096 }
def cpS : List State := [({ live with objs := [(8, capO)] }).setPort 0 { wvP with capture := some capC }, { ({ live with objs := [(8, capO)] }).setPort 0 { wvP with capture := some capC, next := 2 } with sense := { live.sense with level := 3, ebbs := [(.sawyer, false, some 5), (.decoders, true, some 5), (.scalers, false, none)] } }]
def frameOf_ (seq : Nat) (b : List Byte) : List Byte := b ++ leBytes 4 (crc32c seq b)
def wf (op z len addr : Nat) (d : List Byte) : List Byte := leBytes 1 op ++ leBytes 1 z ++ leBytes 2 len ++ leBytes 4 addr ++ d
def sN : State := { live with wpSeq := 2^32 - 1, wregs := [(8, BitVec.ofNat 32 0x30002)] }
def wfs : List (List Byte) := [wf 0 0 0 0 [], wf 1 0 4 8 [], wf 1 0 4 0x1034 [], wf 1 0 4 0x1030 [], wf 2 0 4 0x1000000 [1,2,3,4], wf 2 0 4 0x1200004 [1,2,3,4], wf 7 0 0 0 [], wf 2 0 4 0x1600000 [5,0,0,9]].map (frameOf_ (2^32-1)) ++ [[], [1,2,3], wf 0 0 0 0 [1,2,3,4]]
def actS (p : Port) : State := live.setPort 0 p
def safeS : List State := [live, { live with power := { live.power with safeLevel := false, safeEdge := some 5 } }, { (live.setPort 0 { wvP with rows := [rowW, {rowW with at_ := 9999999}] }) with power := { live.power with safeLevel := false, safeEdge := some 1200 } }, { live with power := { live.power with safeLevel := true, safeApplied := true, safeEdge := some 5 } }, { live with wregs := [(0x1000, 5)] }] ++ ([Port.reset, port0].map fun p => let s := live.setPort 0 p; { s with wregs := [(0x1008, BitVec.ofNat 32 (p.prot.stagingCrc 0 0)), (0x100C, 77)] })

def bcMsg (ty : Nat) (b : List Byte) : List Byte := let m := leBytes 1 ty ++ leBytes 1 0 ++ bytesAt b 0 12; m ++ leBytes 2 (crcRun 2 0xFFFF m)
def lkS (l : Link) (s : State := live) : State := s.setPort 0 { Port.reset with link := l }
def L0 : Link := Link.reset
def forml (te : Timer) (locks : Tab Nat) : Link := { L0 with phase := .training, trainEnd := te, rate := 1, locks := locks, bcLockBy := some 100, retryAt := some 1000 }
def all12 (v : Nat) : Tab Nat := (List.range 12).map fun i => (i, v)
def upL : Link := { L0 with phase := .up, power := .l0, trained := true, nd := 11, keel := true, glass := true, rate := 2, service := 0xFFF, map := List.range 12, bcHeard := some 0, posAt := 0, pos := 1 }
def rt0 (lane att : Nat) (ae pe : Timer) (lk : Bool) : Retrain := { lane := lane, attempt := att, attemptEnd := ae, pauseEnd := pe, locked := lk }
def ltS : List State := [lkS (forml none []), lkS (forml (some 100) (all12 7)), lkS (forml (some 100) [(3, 7), (4, 15)]), lkS (forml (some 1200) ((all12 7).take 11)), lkS (forml (some 99999999) [(2, 8)]),
   lkS { forml none [] with map := List.range 12, service := 0xFFF }, lkS upL, lkS { upL with phase := .down, power := .l2 }, lkS (forml (some 5) [])]
def ltM : List (List Byte) := [bcMsg 1 [BitVec.ofNat 8 7, 1], bcMsg 1 [BitVec.ofNat 8 1], bcMsg 5 [3, 5, 7], bcMsg 5 [11, 1, 3], bcMsg 2 ([0xFF, 0x0F, 0,0,0,0,0,0,0,9,3].map (BitVec.ofNat 8)), bcMsg 2 [1], bcMsg 3 [0, 1], bcMsg 3 [11, 2], bcMsg 3 [4, 3]]
def lostL (r : Retrain) (lk : Bool) : Link := { upL with phase := .retraining, service := 0xFFF - 2 ^ r.lane, lost := 2 ^ r.lane, retrains := [{ r with locked := lk }] }
def llS : List State := [lkS upL, lkS (lostL (rt0 3 1 (some 5) none false) false), lkS (lostL (rt0 3 3 (some 5) none false) false), lkS (lostL (rt0 0 2 none (some 7) false) false), { live with now := 9000000 }.setPort 0 { Port.reset with link := upL },
  { live with now := 900000 }.setPort 0 { Port.reset with link := { upL with power := .l1, phase := .down } }, { live with now := 900000 }.setPort 0 { port0 with link := lostL (rt0 3 1 none none false) true },
  { live with now := 900000 }.setPort 0 { Port.reset with link := { upL with phase := .training, trained := false } }, lkS { upL with power := .l2, phase := .down, wakeTo := some .l0, wakeEnd := some 99999999 }, lkS { upL with power := .l1, phase := .down, wakeTo := some .l0, wakeEnd := some 5 },
  lkS { upL with bcHeard := some 0 } ({ live with now := 2000000 })]

def maS : List State := [lkS { upL with reformWait := some { modeId := 3, use := .reform, since := 0, resend := 9 }, phase := .reforming }, live.setPort 0 (waitP1 .change), live.setPort 0 port0, lkS upL,
  { lkS upL with regs := [(linkBase 0 + 0x80, BitVec.ofNat 32 (1 + 0xF * 65536))] }, { lkS upL with regs := [(linkBase 0 + 0x80, BitVec.ofNat 32 2), (linkBase 0 + 0x84, 5)] }, lkS { upL with phase := .loopback, loop := some (1, 0xF0F) },
   lkS { upL with power := .l2, phase := .loopback, loop := some (2, 0xFFF) }, lkS { upL with phase := .loopback, loop := some (3, 0xF) }]
def maM : List (List Byte) := [bcMsg 4 [3, 0, 0], bcMsg 6 [3, 1, 2, 3, BitVec.ofNat 8 200], bcMsg 6 [0, 1]]
def laS : List State := [lkS { upL with holds := true, nextLease := some 5 }, lkS { upL with claim := some 7, nextLease := some 5 }, lkS { upL with claim := some 7, refusedSince := some 5, nextLease := some 5 } ({ live with now := 9000000 }),
  (lkS { upL with claim := some 7, refusedSince := some 5, nextLease := some 5 } ({ live with now := 9000000 })).setPort 2 { Port.reset with link := { upL with holds := true } },
  lkS { upL with claim := some 7, refusedSince := some 5, nextLease := some 5 } { live with now := 9000000, regs := [(0x7000, 1)], rings := [(0, ring0), (3, ring0)], cway := { live.cway with role := .active } },
  { lkS { upL with holds := true } with regs := [(0x7040, 7)] }]
def laM : List (List Byte) := [bcMsg 7 [1, 7, 0, 0, 1], bcMsg 7 [1, 7, 0, 0, 0], bcMsg 7 [4, 7, 0, 0, 1], bcMsg 7 [1, 8, 0, 0, 0]]
def rq (p : Nat) (w : Option (List Byte)) : DramReq := { port := p, bank := 1, row := 2, col := 3, write := w, at_ := 0, target := 0, reserved := false, repeats := 0, passed := 0, ebbEnd := none }
def chS (c : Chan) (s : State := live) : State := s.setChan 0 c
def opened : Chan := { cAct with openRows := [(1, 2)] }
def dqS : List State := [chS cAct, chS { cAct with queue := List.replicate 16 { rq 0 none with reserved := true } }, chS { cAct with queue := List.replicate 48 (rq 2 none), idleAt := some 5 },
  chS { cAct with phase := .selfRefresh, srSince := some 1100 }, chS { cAct with phase := .selfRefresh, srSince := some 3 }, chS { opened with queue := [rq 2 none] }, chS { opened with queue := [rq 2 (some (List.replicate 64 7))] },
  chS { opened with queue := [{ rq 2 none with repeats := 2 }] } ]
def drS : List State := [chS { cAct with mr4At := some 5, windows := [(0, 1200)], acts := [(3, 4), (2^21 + 5, 6)], holds := [(0, 5), (1, 7), (9, 4)], openRows := [(0, 3), (1, 4)], refresh := [(0, 1)] },
  chS { cAct with phase := .retiring, windows := [(1, 1200)], refreshDouble := true, acts := [(2^21 + 5, 6)] },
  { chS { cAct with idleAt := some 1200, openRows := [(1, 2)] } with regs := [(0xA00C, BitVec.ofNat 32 (2^31 + 5))] }, chS { cAct with phase := .selfRefresh, srSince := some 4, exitFrom := some 5, queue := [rq 2 none] },
  chS { cAct with phase := .selfRefresh, srSince := some 4, exitFrom := some 5, exitSlice := true }, chS { cAct with sliceAt := some 5 }, chS { cAct with sliceAt := some 5, recoveries := 0xFFFF } ({ live with now := 5 + 75000 }), chS { cAct with phase := .recovery }, 
  (chS { cAct with phase := .recovery } { live with harb := { live.harb with retired := 0xF0, capacity := 99999999 } }).setChan 3 cAct,
  { (chS { cAct with ebbs := 600, recoveries := 3 } live).setChan 3 cAct with regs := [(0xA104, 5), (0xA108, 5), (0xA10C, BitVec.ofNat 32 (2^20 + 3))] }]

def withDie (d : Die) (s : State := live) : State := { s with sense := { s.sense with dies := [(0, d), (5, { Die.reset with value := 60 * 256, sampled := true })] } }
def seS : List State := [live, withDie { Die.reset with value := 128 * 256, sampled := true, hot := 1 }, withDie { Die.reset with value := 20 * 256, sampled := true, hot := 1 } (live.setPort 0 { port0 with ray := { RayMap.reset with weights := 1 + 16 * 2 } }),
  { live with sense := { live.sense with tripped := true } }, { live with sense := { live.sense with ains := [(5, { Ain.reset with out := 2 }), (6, { Ain.reset with out := 2, alarm := true })], boardRun := 10, diodes := [(0, { Diode.reset with sampled := true })] } },
  holding (live.setPort 0 port0) [{ entryOf 1 (cmD 0 0 0x21) (.calMeasure [] (some 4) 0 4 false) true with readyAt := some 0 }]]
def cw (f : Cway → Cway) (s : State := live) : State := { s with cway := f s.cway }
def paired_ (s : State) : State := { s with regs := [(0x7000, 1)] }
def rp (ring dseq : Nat) (ws : List Nat) (res : Option Nat) : Replay := { ring := ring, dseq := dseq, slot := 2, words := ws, data := [], dataDone := false, result := res, done := none, versions := [], made := none, freed := none, ctx := none }
def up2 (r : Role) (f : Cway → Cway := id) : State := cw (fun c => f { c with role := r, linkPhase := 3, txLanes := 3, rxLanes := 3, heard := some 0 }) { live with now := 2000000, regs := [(0x7000, 1)] }
def hbS : List State := [up2 .solo fun c => { c with okNext := some 5, idleAt := some 5, helloAt := some 5 }] ++ [Role.solo, .active, .failed, .stale, .mirrored].flatMap (fun r => [up2 r fun c => { c with heartbeat := true, peerEdge := some 5, ackAt := some 5, recvSeq := some 9, applied := 9 }])
def clS2 : List State := [Role.solo, .active, .failed, .stale, .mirrored, .catchup].map (fun r => up2 r fun c => { c with log := [(3, [])], logging := true }) ++ [up2 .solo (fun c => { c with rxLanes := 1 }), up2 .solo (fun c => { c with rxLanes := 2 }),
  cw (fun c => { c with helloBy := some 5 }) { live with regs := [(0x7000, 1)] }, (cw (fun c => { c with testAt := some 5 }) { live with regs := [(0x7000, 1)] }).setPort 2 { Port.reset with link := upL }]
def recB (seq ty : Nat) (last : Bool) (ring dseq : Nat) (b : List Byte) : List Byte := recordBytes { seq := seq, type := ty, last := last, ring := ring, dseq := dseq } b
def rcB : List (List Byte) := [recB 10 0 false 255 0 [], recB 12 0 false 255 0 [], [1,2,3,4,0,6], recB 10 0x10 false 255 0 (leBytes 4 4 ++ leBytes 4 3 ++ leBytes 1 2), recB 10 0x11 false 255 0 [1,0,1,2,0xB0,1], recB 10 0x0A false 255 0 [3, 1,0,0,0, 2,0,0,0], recB 10 0x0A false 255 0 [1, 1,0,0,0, 2,0,0,0], recB 10 0x0B false 255 0 [], recB 10 0x12 false 255 0 [0, 0, 7], recB 10 0x12 false 255 0 [1, 0, 7]]
def rcS : List State := [Role.solo, .active, .failed, .stale, .mirrored, .catchup].map (fun r => up2 r fun c => { c with recvSeq := some 9, log := [(3, []), (5, [])], logging := true }) ++ [cw (fun c => c) { live with regs := [(0x7000, 1)] }]
def lgD (op : Nat) (ws : List Nat) : List Byte := ((descOf op 0 ws).words.flatMap (leBytes 4)) ++ leBytes 4 2
def lgB : List (List Byte) := [recB 10 1 false 3 7 (lgD 0 []), recB 10 1 false 3 7 (lgD 3 [1281, 8, 0x1000, 0, 16]), recB 10 1 false 3 7 (lgD 0x10 [1537]), recB 10 2 false 3 7 (leBytes 4 2 ++ [1,2,3,4]), recB 10 3 false 3 7 (List.replicate 32 1),
   recB 10 4 false 3 7 ([1,3,0,0] ++ leBytes 8 5), recB 10 4 false 3 7 ([0,1,0,0] ++ leBytes 8 5), recB 10 5 false 3 7 (leBytes 4 0x4200 ++ leBytes 4 5), recB 10 5 false 3 7 (leBytes 4 0x4600 ++ leBytes 4 257), recB 10 9 false 3 7 [],
   recB 10 6 false 3 7 (leBytes 4 (256 * 9 + 1) ++ [4,1,0,1,0,0,0,0] ++ leBytes 4 256 ++ leBytes 4 3 ++ List.replicate 12 0), recB 10 7 false 3 7 (leBytes 4 1281 ++ leBytes 4 8 ++ [5,6,7,8]), recB 10 8 true 3 7 [1,2]]
def lgS : List State := [up2 .mirrored fun c => { c with recvSeq := some 9 }, up2 .mirrored fun c => { c with recvSeq := some 9, replays := [rp 3 7 (descOf 0 0 []).words (some 0)] }, { up2 .mirrored (fun c => { c with recvSeq := some 9, replays := [rp 3 7 (descOf 0 0 []).words (some 0)] }) with objs := stocked.objs, harb := stocked.harb },
  { up2 .catchup (fun c => { c with recvSeq := some 9, finalStates := 1 }) with objs := stocked.objs, harb := stocked.harb }]
def roS : List State := [up2 .active fun c => { c with resigning := true, resign := some 5, logging := true }, { up2 .active (fun c => { c with ackRole := 2, resigning := true, resign := some 5 }) with rings := [(0, ring0)], ledger := [entryOf 1 (descOf 0x61 0 [9]) .plain true], nextId := 9, shuttles := [(0, shW false 5)] },
  up2 .active fun c => { c with ackRole := 2 }, up2 .stale fun c => { c with peerRole := 1 }, up2 .stale, up2 .catchup, up2 .solo, up2 .catchup fun c => { c with heartbeat := true }]

/-- The entry of a job number, and the descriptor that a ring has in hand. -/
def the (s : State) (id : Nat) : Entry := (s.entry id).getD (entryOf 0 (nopD 0) .plain false)
def curOf (s : State) (r : Nat) : Desc := (s.ring r).cur.getD (nopD 0)
def regd : State := { live with regs := [(0x18, 0xFFFF), (0x7000, 2)] }
def locked : State := { live with power := { live.power with setupLock := true } }
def ds : List Desc := [descOf 0 0 [], nopF, descOf 0x60 0 [], waitP, waitF, allocD, allocP, freeD, wrD, wrP, rdD, rdL, descOf 0x31 0 [0,0,0,0,0,4], descOf 0x40 0 [1281]]
def noroom : State := { stocked with regs := [(0x2080, 1)] }
def lostS : State := { stocked with objs := [(5, { bufO with lost := some 1 }), (6, plateO)] }
def invS : State := { stocked with objs := [(5, { bufO with invalid := true }), (6, plateO)] }
def allS : List State := ([stocked, busyS stocked, noroom].flatMap fun s => ds.map fun d => withD s d)
def sta : List State := [lostS, invS, stocked].flatMap fun s => [rdD, wrD].map fun d => holding s [entryOf 1 d .plain false]
def sr : HostRead := { bytes := List.replicate 16 5, fail := none }
def exps : List State := [holding stocked [{ entryOf 1 waitF .plain false with readyAt := some 0 }], holding { stocked with tide := { Tide.reset with sec := 10 } } [{ entryOf 1 waitF .plain false with readyAt := some 0 }]]
def rdS : List State := [holding stocked [{ entryOf 1 rdD (.read [1,2,3]) true with readyAt := some 0 }], holding stocked [{ entryOf 1 rdD (.read (List.replicate 16 4)) true with readyAt := some 0 }]]
def wrS : List State := [wrD, wrP].map fun d => holding stocked [{ entryOf 1 d (.write (d.w 2) 0) true with readyAt := some 0 }]
def mb : List State := [lkS { upL with phase := .loopback, loop := some (1, 5) }, lkS { upL with power := .l2, phase := .loopback, loop := some (2, 6) }, lkS { upL with phase := .loopback, loop := some (3, 9) }]
/-- Canonical form as a check that can be evaluated. -/
def canonB (s : State) : Bool :=
  let sorted := fun (l : List Nat) => decide (l.Pairwise (· < ·))
  sorted (s.regs.map (·.1)) && s.regs.all (fun e => decide (e.2 ≠ resetWord e.1)) &&
  sorted (s.wregs.map (·.1)) && s.wregs.all (fun e => decide (e.2 ≠ watchReset e.1)) &&
  sorted (s.rings.map (·.1)) && sorted (s.ports.map (·.1)) && sorted (s.chans.map (·.1)) && sorted (s.ctxs.map (·.1)) &&
  sorted (s.units.map (·.1)) && sorted (s.shuttles.map (·.1)) && sorted (s.outs.map (·.1)) && sorted (s.tcaps.map (·.1)) &&
  sorted (s.objs.map (·.1)) && sorted (s.gens.map (·.1)) && sorted (s.tills.map (·.1)) && sorted (s.pcie.table.map (·.1)) &&
  sorted (s.ledger.map (·.id)) &&
  s.ledger.all (fun e => decide (e.id < s.nextId))

theorem canonOf {s : State} (h : canonB s = true) : Canon s := by
  simp only [canonB, Bool.and_eq_true, decide_eq_true_eq, List.all_eq_true, List.pairwise_map] at h
  obtain ⟨⟨⟨⟨⟨⟨⟨⟨⟨⟨⟨⟨⟨⟨⟨⟨⟨h1, h2⟩, h3⟩, h4⟩, h5⟩, h6⟩, h7⟩, h8⟩, h9⟩, h10⟩, h11⟩, h12⟩, h13⟩, h14⟩, h15⟩, h16⟩, h17⟩, h18⟩ := h
  exact ⟨⟨h1, h2⟩, ⟨h3, h4⟩, h5, h6, h7, h8, h9, h10, h11, h12, h13, h14, h15, h16, h17, h18⟩
def plateStream : List Byte := leBytes 4 0x505A7D01 ++ [1, 13, 0, 0, 1, 16] ++ leBytes 4 bootCtx.trailer
def platedOk : State := { cfgd with power := { cfgd.power with bootConfig := leBytes 36 0 ++ leBytes 2 8 ++ leBytes 2 8 ++ leBytes 4 0 ++ leBytes 4 14 ++ leBytes 16 0 } }
def measuring8 : State := holding (live.setPort 0 port0) [{ entryOf 1 (cmD 0 0 256) (.calMeasure [] (some 4) 0 4 false) true with readyAt := some 0 }]
/-- The image behind a handle. -/
def imgAt (s : State) (e : Entry) (h : Nat) : Img := (s.img e h).getD { obj := bufO, v := v1, bad := fun _ _ => false, badRow := fun _ _ _ => false }

theorem imgHas {s : State} {e : Entry} {h : Nat} (hs : (s.img e h).isSome = true) : s.img e h = some (imgAt s e h) := by
  unfold imgAt
  cases hi : s.img e h with
  | none => simp [hi] at hs
  | some _ => rfl

def cmd0 (s : State) : SawyerCmd := (the s 1).cmds.getD 0 (cmdOf [] .done 0)
def armS : State := taking live (descOf opTideProgram 0 [12])
def lostW : State := holding lostS [{ entryOf 1 wrD (.write (wrD.w 2) 0) true with readyAt := some 0 }]
def lostP : State := holding { stock2 with objs := [(5, bufO), (6, { plateO with lost := some 1 }), (7, imgO), (8, bdbO)] } [ldEntry loadD (.load 1 [] 0) true]
def lostC : State := holding { stocked with objs := [(5, { bufO with lost := some 1 })], ctxs := [(2, { openC with running := true })] }
  [{ entryOf 1 (sdD 0) (.stream 2 1281 1 1 16) true with readyAt := some 0 }]
def eyeHeld : State := { taking (live.setPort 0 port0) (descOf opShepherdUpdate 0x400000 [256, 0x1000, 0]) with
  ledger := [entryOf 1 (descOf 0x61 0 [9]) .plain true], nextId := 9 }
def wtTile : WitTile := { region := 3, idx := 0, frame := 5, deadline := 8, safe := false }
def wvS2 : List State := [live, live.setPort 0 { wvP with rows := [], witTiles := [wtTile] },
  { (at_ 10).setPort 0 { wvP with next := 0 } with shuttles := [(0, { shW false 5 with line := 4 })] },
  { (at_ 10).setPort 0 { wvP with next := 0, lead := [(9, [])] } with shuttles := [(0, { shW false 5 with line := 4 })] }]
def safeLow : State := { (live.setPort 0 { wvP with rows := [rowW, { rowW with at_ := 9999999 }] }) with
  now := 3000, power := { live.power with safeLevel := false, safeEdge := some 1200 } }
def safeHigh : State := { live with now := 3000, power := { live.power with safeLevel := true, safeApplied := true, safeEdge := some 5 } }
def pulse : State := up2 .solo fun c => { c with heartbeat := true, peerEdge := some 1999900, peerRaw := some 1999900, peerPrev := some 5 }
def ebbD : State := { chS cAct with sense := { live.sense with level := 3, ebbs := [(.sawyer, true, some 99999), (.decoders, true, some 99999), (.scalers, true, some 99999)] } }
/-- The premises of a descriptor that waits for its acceptance, and of one that completes, as checks that can be evaluated. -/
def takenB (s : State) (r op : Nat) (d : Desc) : Bool :=
  decide ((s.ring r).cur = some d) && decide (d.ring = r) && decide (d.opcode = op) && decide ((s.ring r).state = .running) &&
  decide (s.staticFail d = none) && s.slotFree d.fn

theorem takenOf {s : State} {r op : Nat} {d : Desc} (h : takenB s r op d = true) : Taken s r op d := by
  simp only [takenB, Bool.and_eq_true, decide_eq_true_eq] at h
  exact ⟨h.1.1.1.1.1, h.1.1.1.1.2, h.1.1.1.2, h.1.1.2, h.1.2, h.2⟩

theorem completingOf {s : State} {id : Nat} {e : Entry}
    (h : (decide (s.entry id = some e) && !e.muted && !e.mirrored && !s.flt.fatalHold) = true) : Completing s id e := by
  simp only [Bool.and_eq_true, decide_eq_true_eq, Bool.not_eq_true'] at h
  exact ⟨h.1.1.1, h.1.1.2, h.1.2, h.2⟩

theorem single {l : List SawyerCmd} (h : l.length = 1) : ∀ i x, i ≠ 0 → l[i]? = some x → x.phase = .done := by
  intro i x hi hx
  have := (List.getElem?_eq_some_iff.mp hx).1
  omega


def S_FullResets : List State := [live, off, pwr]
def S_ReleasesAndHostResets : List State := [off, pwr, live, perst, nolink]
def S_FirmwareImageChosen : List State := [rom]
def S_BootConfigurationAndReady : List State := [fw, cfgd, plated, plated2, fwc true false true, fwc false true true, fwc true true false, live, rom]
def B_BootConfigurationAndReady : List (List Byte) := [cfgRec, [], List.replicate 8 0]
def S_Watchdog : List State := [wd, wd2, rst, { wd with flt := { wd.flt with expiries := 1, lastAt := [] } }, pairA]
def S_RaisedRecord : List State := [live, flt1, flt3, pol, pairA, pairM]
def S_FatalFailureAndFaultPin : List State := [live, flt1, flt3, pol, pairA, pairM, chact]
def S_FirstFaultAcknowledged : List State := [live, flt1, flt3, pol, pairA, pairM]
def S_RegisterWrites : List State := [live, regd, locked]
def S_RegisterReads : List State := [live, regd]
def S_RingsEnabledAndDisabled : List State := [live, rDis, rRead, rReadT, rDrop, rBig, rRun, rRun1, rPoll, rTail, pairM]
def S_RingsFed : List State := [live, rRun, rPoll, rFetch, rTail, rTail2, rDis, rTail.run, rTail2.run]
def R_RingsFed : List HostRead := [twoDesc, {twoDesc with bytes := []}, { bytes := [], fail := some .poisoned }]
def S_SequenceCompared : List State := [0, 4, 5, 6, 2^31, 2^31+5, 2^31+6].map fun n => (seqS 5).setRing 0 { (seqS 5).ring 0 with cur := some (nopD n) }
def S_DescriptorsWaitAndStart : List State := allS ++ sta
def S_NopFenceAndWaitTime : List State := allS ++ exps
def S_ObjectsAllocatedAndFreed : List State := allS
def S_ObjectRead : List State := allS ++ rdS
def S_ObjectWrites : List State := allS ++ wrS ++ [lostW]
def R_ObjectWrites : List HostRead := [sr, { sr with bytes := [1,2,3,4]}, { bytes := [1,2,3,4], fail := some .poisoned }]
def S_PlateLoads : List State := [loadD, loadI, loadB].map (withD stock2) ++ loads ++ [lostP]
def R_PlateLoads : List HostRead := [src64, { src64 with fail := some .poisoned }]
def S_Streams : List State := strS ++ strR ++ [lostC]
def R_Streams : List HostRead := [inp, { inp with bytes := [] }, { inp with fail := some .poisoned }]
def S_SawyerListsStart : List State := sawL ++ sawR
def R_SawyerListsStart : List HostRead := [listOf (fillW 0), { (listOf (fillW 0)) with fail := some .poisoned }, listOf (0 :: copyW)]
def S_SawyerCommandsRun : List State := sawRun
def S_TallyJobs : List State := tjs
def R_TallyJobs : List HostRead := [four, { four with fail := some .poisoned }, { four with bytes := [1] }]
def S_SceneCommits : List State := scSs ++ scT
def R_SceneCommits : List HostRead := scReads
def S_EyesAndSignatures : List State := egS ++ [eyeHeld]
def R_EyesAndSignatures : List HostRead := egR
def S_ModeSets : List State := msS
def S_ModeTimers : List State := mtS
def S_AlmanacLoads : List State := clS
def B_AlmanacLoads : List (List Byte) := [[1,2,3],[1]]
def S_CalibrationMeasures : List State := mS
def S_CalibrationStores : List State := csS ++ csW
def S_RayMapChecks : List State := rmS
def S_TideProgramsAndPulses : List State := tpS ++ tq ++ [armS]
def R_TideProgramsAndPulses : List HostRead := [bOut1, bOut2, bOut3, bCap]
def S_TideDiscipline : List State := tdS
def S_HarbourmasterMoves : List State := hS
def S_SlotsSent : List State := slS ++ slL
def S_TilesWoven : List State := wvS ++ wvS2
def S_WeaveAndCaptures : List State := wvS ++ cpS
def S_SafeStateAndActivation : List State := safeS ++ [off, safeLow, safeHigh]
def S_WatchFrames : List State := [sN]
def B_WatchFrames : List (List Byte) := wfs
def S_LinksTrain : List State := ltS
def B_LinksTrain : List (List Byte) := ltM
def S_LanesLostAndRegained : List State := llS
def B_LanesLostAndRegained : List (List Byte) := ltM
def S_ModeAnswersAndLoopbacks : List State := maS.take 6 ++ mb
def B_ModeAnswersAndLoopbacks : List (List Byte) := maM
def S_LeasesHeld : List State := laS
def B_LeasesHeld : List (List Byte) := laM
def S_DramRequests : List State := dqS ++ [ebbD]
def B_DramRequests : List (List Byte) := [List.replicate 64 7]
def S_DramRefreshAndPhases : List State := drS
def S_SensorSamples : List State := seS
def S_HeartbeatAndTimers : List State := hbS ++ [pulse]
def S_CausewayLinkAndForming : List State := clS2
def S_RecordsHeard : List State := rcS
def B_RecordsHeard : List (List Byte) := rcB
def S_LogAndSnapshotApplied : List State := lgS
def B_LogAndSnapshotApplied : List (List Byte) := lgB
def S_RolesChanged : List State := roS

/-! ### Statements about every command -/

/-- A state in the fatal state, with a record sent. -/
def fatalS : State := { live with flt := { live.flt with fatalHold := true, pin := true }, egress := [.msix 0 8] }

theorem test_IdleStepIsOneTick :
    (∃ s : State, s.pending = [] ∧ (s.now + 1) % 6 = 0 ∧ s.power.boot ≠ .inReset) ∧
    (∃ s : State, s.pending = [] ∧ (s.now + 1) % 2 = 1 ∧ s.flt.raised ≠ []) ∧
    (∃ s : State, s.pending = [] ∧ (s.now + 1) % 2 = 0 ∧ s.flt.raised = []) :=
  ⟨⟨{ live with now := 1205 }, by decide⟩, ⟨live.raiseCore false (err 1 1 1 0 0 0 0), by decide⟩, ⟨{ live with now := 1201 }, by decide⟩⟩

theorem test_CanonicalFormKept :
    (∃ s t : State, Canon s ∧ s.pending = [] ∧ step s = .next t) ∧
    (∃ s t : State, Canon s ∧ s.pending = [.railDrop] ∧ step s = .next t) :=
  ⟨⟨live, _, canonOf (by decide +kernel), rfl, rfl⟩, ⟨{ live with pending := [.railDrop] }, _, canonOf (by decide +kernel), rfl, rfl⟩⟩

theorem test_FatalPinKept :
    (∃ s t : State, FatalPinned s ∧ s.flt.fatalHold = true ∧ step s = .next t) ∧
    (∃ s t : State, FatalPinned s ∧ s.flt.fatalHold = false ∧ step s = .next t) :=
  ⟨⟨fatalS, _, fun _ => rfl, rfl, rfl⟩, ⟨live, _, fun h => absurd h (by decide), rfl, rfl⟩⟩

theorem test_FatalStateAndFuseMinimumKept :
    (∃ (c : Instr) (s t : State), fullReset c = false ∧ s.flt.fatalHold = true ∧ exec c s = .next t) ∧
    (∃ (c : Instr) (s t : State), fullReset c = true ∧ s.power.fuseMin = 5 ∧ exec c s = .next t) :=
  ⟨⟨.safeStateApply, fatalS, _, rfl, rfl, rfl⟩,
   ⟨.railDrop, { live with power := { live.power with fuseMin := 5 } }, _, rfl, rfl, rfl⟩⟩

theorem test_SentStaysSent :
    ∃ (c : Instr) (s t : State), fullReset c = false ∧ s.egress ≠ [] ∧ exec c s = .next t :=
  ⟨.registerWrite 0 8 4 1, fatalS, _, rfl, by decide, rfl⟩

theorem test_SafetyContentIsolated :
    ∃ (c : Instr) (s t : State), fullReset c = false ∧ watchSide c = false ∧ exec c s = .next t :=
  ⟨.registerWrite 0 8 4 1, live, _, rfl, rfl, rfl⟩

theorem test_CommandsLeaveQueueAndClock :
    ∃ (c : Instr) (s t : State), s.pending ≠ [] ∧ exec c s = .next t :=
  ⟨.registerWrite 0 8 4 1, { live with pending := [.railDrop] }, _, by decide, rfl⟩

/-! ### Statements about the commands -/

theorem test_ReleasesAndHostResets :
    (∃ (pref : Bool) (mode : Fin 4) (s : State), Canon s ∧ s.power.railsLow = true ∧ s.power.pwrLow = false) ∧
    (∃ (pref : Bool) (mode : Fin 4) (s : State), Canon s ∧ s.power.pwrLow = true ∧ s.power.railsLow = false) ∧
    (∃ (s : State), s.power.boot ≠ .inReset ∧ s.power.perstLow = false) ∧
    (∃ (s : State), s.power.boot ≠ .inReset ∧ s.power.perstLow = true) ∧
    (∃ (s : State), s.power.boot ≠ .inReset) ∧
    (∃ (s : State), s.power.boot ≠ .inReset ∧ ∃ (f : Fin 16), f.val ≠ 0) ∧
    (∃ (s : State), s.power.boot ≠ .inReset ∧ s.power.perstLow = false ∧ s.power.linkUp = false) :=
  ⟨⟨false, 0, (S_ReleasesAndHostResets.getD 0 live), canonOf (by decide +kernel), by decide +kernel, by decide +kernel⟩,
   ⟨false, 0, (S_ReleasesAndHostResets.getD 1 live), canonOf (by decide +kernel), by decide +kernel, by decide +kernel⟩,
   ⟨(S_ReleasesAndHostResets.getD 2 live), by decide +kernel, by decide +kernel⟩,
   ⟨(S_ReleasesAndHostResets.getD 3 live), by decide +kernel, by decide +kernel⟩,
   ⟨(S_ReleasesAndHostResets.getD 2 live), by decide +kernel⟩,
   ⟨(S_ReleasesAndHostResets.getD 2 live), by decide +kernel, 1, by decide +kernel⟩,
   ⟨(S_ReleasesAndHostResets.getD 4 live), by decide +kernel, by decide +kernel, by decide +kernel⟩⟩

theorem test_FirmwareImageChosen :
    (∃ (a : BootImage) (b : BootImage) (s : State), s.power.boot = .rom) ∧
    (∃ (a : BootImage) (b : BootImage) (s : State), s.power.boot = .rom ∧ (let valid (x : BootImage) : Prop :=
  (x.magic = 0x50F1AC01 ∧ x.length.toNat ≤ 1048576 ∧ s.power.fuseMin ≤ x.version.toNat ∧ x.signatureOk = true); ¬ valid a ∧ ¬ valid b)) ∧
    (∃ (a : BootImage) (b : BootImage) (s : State), s.power.boot = .rom ∧ (let valid (x : BootImage) : Prop :=
  (x.magic = 0x50F1AC01 ∧ x.length.toNat ≤ 1048576 ∧ s.power.fuseMin ≤ x.version.toNat ∧ x.signatureOk = true); (let bFirst : Prop :=
  (s.power.bootMode = 2 ∨ a.version.toNat < b.version.toNat); ¬ bFirst ∧ valid a))) ∧
    (∃ (a : BootImage) (b : BootImage) (s : State), s.power.boot = .rom ∧ (let valid (x : BootImage) : Prop :=
  (x.magic = 0x50F1AC01 ∧ x.length.toNat ≤ 1048576 ∧ s.power.fuseMin ≤ x.version.toNat ∧ x.signatureOk = true); (let bFirst : Prop :=
  (s.power.bootMode = 2 ∨ a.version.toNat < b.version.toNat); ¬ bFirst ∧ ¬ valid a ∧ valid b))) ∧
    (∃ (a : BootImage) (b : BootImage) (s : State), s.power.boot = .rom ∧ (let valid (x : BootImage) : Prop :=
  (x.magic = 0x50F1AC01 ∧ x.length.toNat ≤ 1048576 ∧ s.power.fuseMin ≤ x.version.toNat ∧ x.signatureOk = true); (let bFirst : Prop :=
  (s.power.bootMode = 2 ∨ a.version.toNat < b.version.toNat); bFirst ∧ valid b))) ∧
    (∃ (a : BootImage) (b : BootImage) (s : State), s.power.boot = .rom ∧ (let valid (x : BootImage) : Prop :=
  (x.magic = 0x50F1AC01 ∧ x.length.toNat ≤ 1048576 ∧ s.power.fuseMin ≤ x.version.toNat ∧ x.signatureOk = true); (let bFirst : Prop :=
  (s.power.bootMode = 2 ∨ a.version.toNat < b.version.toNat); bFirst ∧ ¬ valid b ∧ valid a))) :=
  ⟨⟨img, ({ img with signatureOk := false } : BootImage), rom, by decide +kernel⟩,
   ⟨({ img with signatureOk := false } : BootImage), ({ img with signatureOk := false } : BootImage), rom, by decide +kernel,
  by decide +kernel, by decide +kernel⟩,
   ⟨img, ({ img with signatureOk := false } : BootImage), rom, by decide +kernel, by decide +kernel, by decide +kernel⟩,
   ⟨({ img with signatureOk := false } : BootImage), ({ img with version := 3 } : BootImage), rom, by decide +kernel,
  by decide +kernel, by decide +kernel, by decide +kernel⟩,
   ⟨({ img with version := 1 } : BootImage), img, rom, by decide +kernel, by decide +kernel, by decide +kernel⟩,
   ⟨({ img with version := 1 } : BootImage), ({ img with signatureOk := false } : BootImage), rom, by decide +kernel,
  by decide +kernel, by decide +kernel, by decide +kernel⟩⟩

theorem test_BootConfigurationAndReady :
    (∃ (s : State), s.power.boot = .firmware ∧ ∃ (record : List Byte), (let ok :=
  (64 ≤ record.length ∧ leAt record 0 4 = 0x50BC0F01 ∧ leAt record 4 4 = 1 ∧ leAt record 60 4 = crc32c 0 (record.take 60)); ¬ ok)) ∧
    (∃ (s : State), s.power.boot = .firmware ∧ ∃ (record : List Byte), (let ok :=
  (64 ≤ record.length ∧ leAt record 0 4 = 0x50BC0F01 ∧ leAt record 4 4 = 1 ∧ leAt record 60 4 = crc32c 0 (record.take 60)); ok)) ∧
    (∃ (s : State), s.power.boot = .configured ∧ s.power.bootMode = 0 ∧ s.power.plateTried = false ∧ ∃ (stream : List Byte),
  s.power.hasPlate = false) ∧
    (∃ (s : State), s.power.boot = .configured ∧ s.power.bootMode = 0 ∧ s.power.plateTried = false ∧ ∃ (stream : List Byte),
  s.power.hasPlate = true ∧ s.power.plateOk = false) ∧
    (∃ (s : State), s.power.boot = .configured ∧ s.power.bootMode = 0 ∧ s.power.plateTried = false ∧ ∃ (stream : List Byte), (let tried :
  State := ({ s with power := { s.power with plateTried := true } }); s.power.hasPlate = true ∧ s.power.plateOk = true ∧ ∃ u,
  tried.decodePlate stream = some u)) ∧
    (∃ (s : State), s.power.boot = .configured ∧ s.power.dramDone = false) ∧
    (∃ (s : State), s.power.boot = .configured ∧ s.power.storeDone = false) ∧
    (∃ (s : State), s.power.boot ≠ .inReset ∧ s.power.boot ≠ .rom) ∧
    (∃ (s : State), (s.power.boot = .rom ∨ s.power.boot = .inReset)) :=
  ⟨⟨(S_BootConfigurationAndReady.getD 0 live), by decide +kernel, (B_BootConfigurationAndReady.getD 1 []), by decide +kernel⟩,
   ⟨(S_BootConfigurationAndReady.getD 0 live), by decide +kernel, (B_BootConfigurationAndReady.getD 0 []), by decide +kernel⟩,
   ⟨(S_BootConfigurationAndReady.getD 1 live), by decide +kernel, by decide +kernel, by decide +kernel,
  (B_BootConfigurationAndReady.getD 0 []), by decide +kernel⟩,
   ⟨(S_BootConfigurationAndReady.getD 2 live), by decide +kernel, by decide +kernel, by decide +kernel,
  (B_BootConfigurationAndReady.getD 0 []), by decide +kernel, by decide +kernel⟩,
   ⟨platedOk, by decide +kernel, by decide +kernel, by decide +kernel, plateStream, by decide +kernel, by decide +kernel,
  ((({ platedOk with power := { platedOk.power with plateTried := true } } : State).decodePlate plateStream).get (by decide +kernel)),
  (Option.some_get _).symm⟩,
   ⟨(S_BootConfigurationAndReady.getD 1 live), by decide +kernel, by decide +kernel⟩,
   ⟨(S_BootConfigurationAndReady.getD 1 live), by decide +kernel, by decide +kernel⟩,
   ⟨(S_BootConfigurationAndReady.getD 0 live), by decide +kernel, by decide +kernel⟩,
   ⟨(S_BootConfigurationAndReady.getD 8 live), by decide +kernel⟩⟩

theorem test_Watchdog :
    (∃ (s : State), (let restarts : Prop :=
  ((s.paired = false ∨ s.cway.role = .solo) ∧ (∀ t, s.flt.wdogAt = some t → t + 15000000000 < s.now)); s.power.boot ≠ .inReset ∧
  s.power.purserUp = true ∧ restarts)) ∧
    (∃ (s : State), (let restarts : Prop :=
  ((s.paired = false ∨ s.cway.role = .solo) ∧ (∀ t, s.flt.wdogAt = some t → t + 15000000000 < s.now)); s.power.boot ≠ .inReset ∧
  s.power.purserUp = true ∧ ¬ restarts)) ∧
    (∃ (s : State), s.flt.restarting = true) :=
  ⟨⟨(S_Watchdog.getD 0 live), by decide +kernel, by decide +kernel, by decide +kernel⟩,
   ⟨(S_Watchdog.getD 1 live), by decide +kernel, by decide +kernel, by decide +kernel⟩,
   ⟨(S_Watchdog.getD 2 live), by decide +kernel⟩⟩

theorem test_RaisedRecord :
    (∃ (e : ErrRec) (s : State), e.sev ≠ 3) ∧
    (∃ (e : ErrRec) (s : State), e.sev = 3) ∧
    (∃ (e : ErrRec) (ns : Nat) (force : Bool) (s : State), e.sev < 4) ∧
    (∃ (e : ErrRec) (ns : Nat) (force : Bool) (s : State), e.sev < 4 ∧ (let nested :=
  (1 ≤ e.sev ∧ ∃ ws, s.flt.first = some ws ∧ e.sev ≤ ws.getD 1 0 % 4); (e.sev = 0 ∨ nested))) ∧
    (∃ (e : ErrRec) (ns : Nat) (force : Bool) (s : State), e.sev < 4 ∧ (let nested :=
  (1 ≤ e.sev ∧ ∃ ws, s.flt.first = some ws ∧ e.sev ≤ ws.getD 1 0 % 4); 1 ≤ e.sev ∧ ¬ nested)) ∧
    (∃ (e : ErrRec) (ns : Nat) (force : Bool) (s : State), e.sev < 4) ∧
    (∃ (e : ErrRec) (ns : Nat) (force : Bool) (s : State), e.sev < 4) :=
  ⟨⟨({ sev := 2, source := 7, code := 5, inst := 0, fn := 1, i0 := 2, i1 := 3, i2 := 4 } : ErrRec), live, by decide +kernel⟩,
   ⟨({ sev := 3, source := 7, code := 5, inst := 0, fn := 1, i0 := 2, i1 := 3, i2 := 4 } : ErrRec), live, by decide +kernel⟩,
   ⟨({ sev := 1, source := 7, code := 5, inst := 0, fn := 1, i0 := 2, i1 := 3, i2 := 4 } : ErrRec), 0, false, live, by decide +kernel⟩,
   ⟨({ sev := 0, source := 7, code := 5, inst := 0, fn := 1, i0 := 2, i1 := 3, i2 := 4 } : ErrRec), 0, false, live, by decide +kernel,
  .inl (by decide +kernel)⟩,
   ⟨({ sev := 1, source := 7, code := 5, inst := 0, fn := 1, i0 := 2, i1 := 3, i2 := 4 } : ErrRec), 0, false, live, by decide +kernel,
  by decide +kernel, by rintro ⟨-, ws, h, -⟩; rw [show live.flt.first = none by decide +kernel] at h; cases h⟩,
   ⟨({ sev := 2, source := 7, code := 5, inst := 0, fn := 1, i0 := 2, i1 := 3, i2 := 4 } : ErrRec), 0, false, live, by decide +kernel⟩,
   ⟨({ sev := 3, source := 7, code := 5, inst := 0, fn := 1, i0 := 2, i1 := 3, i2 := 4 } : ErrRec), 0, false, live, by decide +kernel⟩⟩

theorem test_FatalFailureAndFaultPin :
    (∃ (unit : Byte) (s : State), FatalPinned s ∧ s.power.boot ≠ .inReset) ∧
    (∃ (s : State), s.flt.fatalHold = false) ∧
    (∃ (s : State), s.flt.fatalHold = true) ∧
    (∃ (s : State), s.power.boot ≠ .inReset) :=
  ⟨⟨0, (S_FatalFailureAndFaultPin.getD 0 live), by unfold FatalPinned; decide +kernel, by decide +kernel⟩,
   ⟨(S_FatalFailureAndFaultPin.getD 0 live), by decide +kernel⟩,
   ⟨(S_FatalFailureAndFaultPin.getD 2 live), by decide +kernel⟩,
   ⟨(S_FatalFailureAndFaultPin.getD 0 live), by decide +kernel⟩⟩

theorem test_FirstFaultAcknowledged :
    (∃ (seq : Word) (s : State), s.power.boot ≠ .inReset ∧ ∃ ws, s.flt.first = some ws ∧ ws.getD 0 0 = seq.toNat ∧ ws.getD 1 0 % 4 ≠ 3) ∧
    (∃ (seq : Word) (s : State), s.power.boot ≠ .inReset ∧ ∃ ws, s.flt.first = some ws ∧ ws.getD 0 0 = seq.toNat ∧ ws.getD 1 0 % 4 = 3) ∧
    (∃ (seq : Word) (s : State), s.power.boot ≠ .inReset ∧ ∃ ws, s.flt.first = some ws ∧ ws.getD 0 0 ≠ seq.toNat) ∧
    (∃ (seq : Word) (s : State), s.power.boot ≠ .inReset ∧ s.flt.first = none) :=
  ⟨⟨5, (S_FirstFaultAcknowledged.getD 1 live), by decide +kernel, [5, 2, 0, 0, 0, 0, 0, 0], by decide +kernel, by decide +kernel,
  by decide +kernel⟩,
   ⟨5, (S_FirstFaultAcknowledged.getD 2 live), by decide +kernel, [5, 3, 0, 0, 0, 0, 0, 0], by decide +kernel, by decide +kernel,
  by decide +kernel⟩,
   ⟨0, (S_FirstFaultAcknowledged.getD 1 live), by decide +kernel, [5, 2, 0, 0, 0, 0, 0, 0], by decide +kernel, by decide +kernel⟩,
   ⟨0, (S_FirstFaultAcknowledged.getD 0 live), by decide +kernel, by decide +kernel⟩⟩

theorem test_RegisterWrites :
    (∃ (s : State), Canon s ∧ s.power.boot ≠ .inReset ∧ ∃ (off : Nat) (row : RegRow) (v : Word), off % 4 = 0 ∧ plainOffset off = true ∧
  pfRow off = some row) ∧
    (∃ (s : State), Canon s ∧ s.power.boot ≠ .inReset ∧ ∃ (off : Nat) (v : Word), plainOffset off = true ∧ pfRow off = none) ∧
    (∃ (s : State), Canon s ∧ s.power.boot ≠ .inReset ∧ ∃ (f : Fin 16) (off : Nat) (size : Nat) (v : Word), (size ≠ 4 ∨ off % 4 ≠ 0)) ∧
    (∃ (s : State), Canon s ∧ s.power.boot ≠ .inReset ∧ ∃ (f : Fin 16) (off : Nat) (v : Word), f ≠ 0 ∧ (off < 0x100 ∨ 0x200 ≤ off) ∧
  inBar2 off = false) ∧
    (∃ (s : State), Canon s ∧ s.power.boot ≠ .inReset ∧ ∃ (f : Fin 16) (off : Nat) (v : Word), off % 4 = 0 ∧ off < 16 * msixEntries f) ∧
    (∃ (s : State), Canon s ∧ s.power.boot ≠ .inReset) :=
  ⟨⟨(S_RegisterWrites.getD 0 live), canonOf (by decide +kernel), by decide +kernel, 8196, ((pfRow 8196).get (by decide +kernel)), 0,
  by decide +kernel, by decide +kernel, by decide +kernel⟩,
   ⟨(S_RegisterWrites.getD 0 live), canonOf (by decide +kernel), by decide +kernel, 65532, 0, by decide +kernel, by decide +kernel⟩,
   ⟨(S_RegisterWrites.getD 0 live), canonOf (by decide +kernel), by decide +kernel, 0, 0, 0, 0, by decide +kernel⟩,
   ⟨(S_RegisterWrites.getD 0 live), canonOf (by decide +kernel), by decide +kernel, 4, 0, 0, by decide +kernel, by decide +kernel,
  by decide +kernel⟩,
   ⟨(S_RegisterWrites.getD 0 live), canonOf (by decide +kernel), by decide +kernel, 0, 0, 0, by decide +kernel, by decide +kernel⟩,
   ⟨(S_RegisterWrites.getD 0 live), canonOf (by decide +kernel), by decide +kernel⟩⟩

theorem test_RegisterReads :
    (∃ (s : State), s.power.boot ≠ .inReset ∧ ∃ (f : Fin 16) (off : Nat) (size : Nat), f ≠ 0) ∧
    (∃ (s : State), s.power.boot ≠ .inReset) ∧
    (∃ (s : State), s.power.boot ≠ .inReset) ∧
    (∃ (s : State), s.power.boot ≠ .inReset) ∧
    (∃ (s : State), s.power.boot ≠ .inReset) ∧
    (∃ (s : State), s.power.boot ≠ .inReset) :=
  ⟨⟨(S_RegisterReads.getD 0 live), by decide +kernel, 4, 0, 0, by decide +kernel⟩,
   ⟨(S_RegisterReads.getD 0 live), by decide +kernel⟩,
   ⟨(S_RegisterReads.getD 0 live), by decide +kernel⟩,
   ⟨(S_RegisterReads.getD 0 live), by decide +kernel⟩,
   ⟨(S_RegisterReads.getD 0 live), by decide +kernel⟩,
   ⟨(S_RegisterReads.getD 0 live), by decide +kernel⟩⟩

theorem test_RingsEnabledAndDisabled :
    (∃ (r : Fin 128) (s : State), (let x := (s.ring r); s.power.boot ≠ .inReset ∧ x.state = .disabled ∧ x.enableRead = false ∧ x.sizeLog
  ≤ 10 ∧ (s.cway.role = .solo ∨ s.cway.role = .active))) ∧
    (∃ (r : Fin 128) (s : State), (let x := (s.ring r); (x.state ≠ .disabled ∨ x.enableRead = true ∨ 10 < x.sizeLog ∨ s.cway.role.drives
  = false))) ∧
    (∃ (r : Fin 128) (s : State), (let x := (s.ring r); x.enableRead = true ∧ x.enableDrop = false)) ∧
    (∃ (r : Fin 128) (s : State), (let x := (s.ring r); x.enableRead = true ∧ x.enableDrop = true)) ∧
    (∃ (r : Fin 128) (s : State), (let x := (s.ring r); x.enableRead = true ∧ x.enableDrop = false)) ∧
    (∃ (r : Fin 128) (s : State), Canon s ∧ s.power.boot ≠ .inReset ∧ (let x := (s.ring r); x.enableRead = false ∧ (x.state = .running ∨
  x.state = .stopped))) ∧
    (∃ (r : Fin 128) (s : State), Canon s ∧ s.power.boot ≠ .inReset ∧ (let x := (s.ring r); x.enableRead = true)) :=
  ⟨⟨0, (S_RingsEnabledAndDisabled.getD 0 live), by decide +kernel, by decide +kernel, by decide +kernel, by decide +kernel,
  by decide +kernel⟩,
   ⟨0, (S_RingsEnabledAndDisabled.getD 2 live), by decide +kernel⟩,
   ⟨0, (S_RingsEnabledAndDisabled.getD 2 live), by decide +kernel, by decide +kernel⟩,
   ⟨0, (S_RingsEnabledAndDisabled.getD 4 live), by decide +kernel, by decide +kernel⟩,
   ⟨0, (S_RingsEnabledAndDisabled.getD 2 live), by decide +kernel, by decide +kernel⟩,
   ⟨0, (S_RingsEnabledAndDisabled.getD 6 live), canonOf (by decide +kernel), by decide +kernel, by decide +kernel, by decide +kernel⟩,
   ⟨0, (S_RingsEnabledAndDisabled.getD 2 live), canonOf (by decide +kernel), by decide +kernel, by decide +kernel⟩⟩

theorem test_RingsFed :
    (∃ (s : State), Canon s ∧ s.power.boot ≠ .inReset ∧ s.power.bootReady = true ∧ s.roundDue = true ∧ ((∀ r, r < 128 → (s.ring
  r).polling = false))) ∧
    (∃ (s : State), Canon s ∧ ∃ (r : Fin 128) (v : Word), (s.ring r).polling = true ∧ (s.ring r).pollDrop = false ∧ (s.ring r).state =
  .running ∧ (let x := (s.ring r); (let w := ((v.toNat + 2 ^ 32 - x.consumed % 2 ^ 32) % 2 ^ 32); w ≤ 2 ^ (x.sizeLog + 6)))) ∧
    (∃ (s : State), Canon s ∧ ∃ (r : Fin 128) (v : Word), (s.ring r).polling = true ∧ (s.ring r).pollDrop = false ∧ (s.ring r).state =
  .running ∧ (let x := (s.ring r); (let w := ((v.toNat + 2 ^ 32 - x.consumed % 2 ^ 32) % 2 ^ 32); 2 ^ (x.sizeLog + 6) < w))) ∧
    (∃ (r : Fin 128) (s : State), ∃ u n, u = s.run ∧ n = u.fetchable r ∧ 0 < n) ∧
    (∃ (r : Fin 128) (s : State), ∃ (c : Nat) (n : Nat) (data : HostRead), (s.ring r).fetching = some (c, n) ∧ (s.ring r).state =
  .running ∧ data.fail = none) ∧
    (∃ (r : Fin 128) (s : State), ∃ (c : Nat) (n : Nat) (data : HostRead), (s.ring r).fetching = some (c, n) ∧ (s.ring r).state =
  .running ∧ ∃ f, data.fail = some f) :=
  ⟨⟨(S_RingsFed.getD 0 live), canonOf (by decide +kernel), by decide +kernel, by decide +kernel, by decide +kernel, by decide +kernel⟩,
   ⟨(S_RingsFed.getD 2 live), canonOf (by decide +kernel), 0, 0, by decide +kernel, by decide +kernel, by decide +kernel,
  by decide +kernel⟩,
   ⟨(S_RingsFed.getD 2 live), canonOf (by decide +kernel), 0, 64, by decide +kernel, by decide +kernel, by decide +kernel,
  by decide +kernel⟩,
   ⟨0, (S_RingsFed.getD 5 live), (S_RingsFed.getD 5 live).run, ((S_RingsFed.getD 5 live).run.fetchable 0), rfl, rfl, by decide +kernel⟩,
   ⟨0, (S_RingsFed.getD 3 live), 0, 2, (R_RingsFed.getD 0 { bytes := [], fail := none }), by decide +kernel, by decide +kernel,
  by decide +kernel⟩,
   ⟨0, (S_RingsFed.getD 3 live), 0, 2, (R_RingsFed.getD 2 { bytes := [], fail := none }), by decide +kernel, by decide +kernel,
  (((R_RingsFed.getD 2 { bytes := [], fail := none }).fail).get (by decide +kernel)), by decide +kernel⟩⟩

theorem test_SequenceCompared :
    (∃ (r : Nat) (d : Desc) (s : State), d.ring = r ∧ d.seq < 2 ^ 32 ∧ (s.ring r).nextSeq < 2 ^ 32 ∧ s.flt.fatalHold = false ∧ (let x :=
  (s.ring r); d.seq = x.nextSeq)) ∧
    (∃ (r : Nat) (d : Desc) (s : State), d.ring = r ∧ d.seq < 2 ^ 32 ∧ (s.ring r).nextSeq < 2 ^ 32 ∧ s.flt.fatalHold = false ∧ (let x :=
  (s.ring r); d.seq = x.nextSeq)) ∧
    (∃ (r : Nat) (d : Desc) (s : State), d.ring = r ∧ d.seq < 2 ^ 32 ∧ (s.ring r).nextSeq < 2 ^ 32 ∧ s.flt.fatalHold = false ∧ (let x :=
  (s.ring r); d.seq = x.nextSeq ∧ s.staticFail d = none)) ∧
    (∃ (r : Nat) (d : Desc) (s : State), d.ring = r ∧ d.seq < 2 ^ 32 ∧ (s.ring r).nextSeq < 2 ^ 32 ∧ s.flt.fatalHold = false ∧ (let x :=
  (s.ring r); d.seq = x.nextSeq ∧ ∃ f, s.staticFail d = some f)) ∧
    (∃ (r : Nat) (d : Desc) (s : State), d.ring = r ∧ d.seq < 2 ^ 32 ∧ (s.ring r).nextSeq < 2 ^ 32 ∧ s.flt.fatalHold = false ∧ (let x :=
  (s.ring r); 1 ≤ (x.nextSeq + 2 ^ 32 - d.seq) % 2 ^ 32 ∧ (x.nextSeq + 2 ^ 32 - d.seq) % 2 ^ 32 ≤ 2 ^ 31)) ∧
    (∃ (r : Nat) (d : Desc) (s : State), d.ring = r ∧ d.seq < 2 ^ 32 ∧ (s.ring r).nextSeq < 2 ^ 32 ∧ s.flt.fatalHold = false ∧ (let x :=
  (s.ring r); 2 ^ 31 < (x.nextSeq + 2 ^ 32 - d.seq) % 2 ^ 32)) ∧
    (∃ (r : Nat) (d : Desc) (s : State), d.ring = r ∧ d.seq < 2 ^ 32 ∧ (s.ring r).nextSeq < 2 ^ 32 ∧ s.flt.fatalHold = false ∧ (let x :=
  (s.ring r); 2 ^ 31 < (x.nextSeq + 2 ^ 32 - d.seq) % 2 ^ 32)) ∧
    (∃ (r : Nat) (d : Desc) (s : State), d.ring = r ∧ d.seq < 2 ^ 32 ∧ (s.ring r).nextSeq < 2 ^ 32 ∧ s.flt.fatalHold = false ∧ (let x :=
  (s.ring r); 2 ^ 31 < (x.nextSeq + 2 ^ 32 - d.seq) % 2 ^ 32)) ∧
    (∃ (r : Nat) (d : Desc) (s : State), d.ring = r ∧ d.seq < 2 ^ 32 ∧ (s.ring r).nextSeq < 2 ^ 32 ∧ s.flt.fatalHold = false ∧ (let x :=
  (s.ring r); 2 ^ 31 < (x.nextSeq + 2 ^ 32 - d.seq) % 2 ^ 32)) ∧
    (∃ (r : Nat) (d : Desc) (s : State), d.ring = r ∧ d.seq < 2 ^ 32 ∧ (s.ring r).nextSeq < 2 ^ 32 ∧ s.flt.fatalHold = false ∧ (let x :=
  (s.ring r); 2 ^ 31 < (x.nextSeq + 2 ^ 32 - d.seq) % 2 ^ 32)) :=
  ⟨⟨0, nopD 5, seqS 5, by decide +kernel, by decide +kernel, by decide +kernel, by decide +kernel, by decide +kernel⟩,
   ⟨0, nopD 5, seqS 5, by decide +kernel, by decide +kernel, by decide +kernel, by decide +kernel, by decide +kernel⟩,
   ⟨0, nopD 5, seqS 5, by decide +kernel, by decide +kernel, by decide +kernel, by decide +kernel, by decide +kernel,
  by decide +kernel⟩,
   ⟨0, ({ ring := 0, count := 0, words := [127 * 2 ^ 24, 5] ++ List.replicate 14 0 } : Desc), seqS 5, by decide +kernel,
  by decide +kernel, by decide +kernel, by decide +kernel, by decide +kernel,
  (((seqS 5).staticFail ({ ring := 0, count := 0, words := [127 * 2 ^ 24, 5] ++ List.replicate 14 0 } : Desc)).get (by decide +kernel)),
  by decide +kernel⟩,
   ⟨0, nopD 4, seqS 5, by decide +kernel, by decide +kernel, by decide +kernel, by decide +kernel, by decide +kernel,
  by decide +kernel⟩,
   ⟨0, nopD 6, seqS 5, by decide +kernel, by decide +kernel, by decide +kernel, by decide +kernel, by decide +kernel⟩,
   ⟨0, nopD 6, seqS 5, by decide +kernel, by decide +kernel, by decide +kernel, by decide +kernel, by decide +kernel⟩,
   ⟨0, nopD 6, seqS 5, by decide +kernel, by decide +kernel, by decide +kernel, by decide +kernel, by decide +kernel⟩,
   ⟨0, nopD 6, seqS 5, by decide +kernel, by decide +kernel, by decide +kernel, by decide +kernel, by decide +kernel⟩,
   ⟨0, nopD 6, seqS 5, by decide +kernel, by decide +kernel, by decide +kernel, by decide +kernel, by decide +kernel⟩⟩

theorem test_DescriptorsWaitAndStart :
    (∃ (r : Fin 128) (d : Desc) (s : State), Canon s ∧ Taken s r opTallyJob d) ∧
    (∃ (r : Fin 128) (d : Desc) (s : State), Canon s ∧ Taken s r opCalLoad d) ∧
    (∃ (r : Fin 128) (d : Desc) (s : State), Canon s ∧ (let held : Prop :=
  (∃ x ∈ s.ledger, (s.newEntry d .plain []).waitsFor x = true); held ∧ Taken s r opNop d)) ∧
    (∃ (r : Fin 128) (d : Desc) (s : State), Canon s ∧ (let held : Prop :=
  (∃ x ∈ s.ledger, (s.newEntry d .plain []).waitsFor x = true); held ∧ Taken s r opFence d)) ∧
    (∃ (r : Fin 128) (d : Desc) (s : State), Canon s ∧ (let held : Prop :=
  (∃ x ∈ s.ledger, (s.newEntry d .plain []).waitsFor x = true); held ∧ Taken s r opWaitTime d)) ∧
    (∃ (r : Fin 128) (d : Desc) (s : State), Canon s ∧ (let held : Prop :=
  (∃ x ∈ s.ledger, (s.newEntry d .plain []).waitsFor x = true); held ∧ Taken s r opObjAlloc d)) ∧
    (∃ (r : Fin 128) (d : Desc) (s : State), Canon s ∧ (let held : Prop :=
  (∃ x ∈ s.ledger, (s.newEntry d .plain []).waitsFor x = true); held ∧ Taken s r opObjRead d)) ∧
    (∃ (id : Nat) (e : Entry) (f : Entry → State → State) (s : State), Completing s id e ∧ e.started = false ∧ e.readyAt = none ∧
  s.noWait e = true ∧ startOf e.desc.opcode = some f ∧ s.startFail e = none) ∧
    (∃ (id : Nat) (e : Entry) (f : Entry → State → State) (s : State), Completing s id e ∧ e.started = false ∧ e.readyAt = none ∧
  s.noWait e = true ∧ startOf e.desc.opcode = some f ∧ ∃ x, s.startFail e = some x) :=
  ⟨⟨0, (curOf (S_DescriptorsWaitAndStart.getD 12 live) (0 : Fin 128)), (S_DescriptorsWaitAndStart.getD 12 live),
  canonOf (by decide +kernel), takenOf (by decide +kernel)⟩,
   ⟨0, (curOf (S_DescriptorsWaitAndStart.getD 13 live) (0 : Fin 128)), (S_DescriptorsWaitAndStart.getD 13 live),
  canonOf (by decide +kernel), takenOf (by decide +kernel)⟩,
   ⟨0, (curOf (S_DescriptorsWaitAndStart.getD 14 live) (0 : Fin 128)), (S_DescriptorsWaitAndStart.getD 14 live),
  canonOf (by decide +kernel), by decide +kernel, takenOf (by decide +kernel)⟩,
   ⟨0, (curOf (S_DescriptorsWaitAndStart.getD 16 live) (0 : Fin 128)), (S_DescriptorsWaitAndStart.getD 16 live),
  canonOf (by decide +kernel), by decide +kernel, takenOf (by decide +kernel)⟩,
   ⟨0, (curOf (S_DescriptorsWaitAndStart.getD 17 live) (0 : Fin 128)), (S_DescriptorsWaitAndStart.getD 17 live),
  canonOf (by decide +kernel), by decide +kernel, takenOf (by decide +kernel)⟩,
   ⟨0, (curOf (S_DescriptorsWaitAndStart.getD 19 live) (0 : Fin 128)), (S_DescriptorsWaitAndStart.getD 19 live),
  canonOf (by decide +kernel), by decide +kernel, takenOf (by decide +kernel)⟩,
   ⟨0, (curOf (S_DescriptorsWaitAndStart.getD 24 live) (0 : Fin 128)), (S_DescriptorsWaitAndStart.getD 24 live),
  canonOf (by decide +kernel), by decide +kernel, takenOf (by decide +kernel)⟩,
   ⟨1, (the (S_DescriptorsWaitAndStart.getD 46 live) 1),
  (startOf (the (S_DescriptorsWaitAndStart.getD 46 live) 1).desc.opcode).get (by decide +kernel),
  (S_DescriptorsWaitAndStart.getD 46 live), completingOf (by decide +kernel), by decide +kernel, by decide +kernel, by decide +kernel,
  (Option.some_get _).symm, by decide +kernel⟩,
   ⟨1, (the (S_DescriptorsWaitAndStart.getD 42 live) 1),
  (startOf (the (S_DescriptorsWaitAndStart.getD 42 live) 1).desc.opcode).get (by decide +kernel),
  (S_DescriptorsWaitAndStart.getD 42 live), completingOf (by decide +kernel), by decide +kernel, by decide +kernel, by decide +kernel,
  (Option.some_get _).symm, (((S_DescriptorsWaitAndStart.getD 42 live).startFail (the (S_DescriptorsWaitAndStart.getD 42 live) 1)).get
  (by decide +kernel)), by decide +kernel⟩⟩

theorem test_NopFenceAndWaitTime :
    (∃ (r : Fin 128) (d : Desc) (s : State), Canon s ∧ s.flt.fatalHold = false ∧ s.goesAtOnce d ∧ Taken s r opNop d) ∧
    (∃ (r : Fin 128) (d : Desc) (s : State), Canon s ∧ s.flt.fatalHold = false ∧ s.goesAtOnce d ∧ Taken s r opFence d) ∧
    (∃ (r : Fin 128) (d : Desc) (s : State), Canon s ∧ s.flt.fatalHold = false ∧ s.goesAtOnce d ∧ Taken s r opWaitTime d ∧ d.until ≤
  s.tideNs) ∧
    (∃ (r : Fin 128) (d : Desc) (s : State), Canon s ∧ s.flt.fatalHold = false ∧ s.goesAtOnce d ∧ Taken s r opWaitTime d ∧ s.tideNs <
  d.until) ∧
    (∃ (r : Fin 128) (d : Desc) (s : State), Canon s ∧ s.flt.fatalHold = false ∧ ∃ (id : Nat) (e : Entry), Completing s id e ∧
  e.desc.opcode = opWaitTime ∧ e.readyAt.isSome = true ∧ s.now % 6 = 0 ∧ e.desc.until ≤ s.tideNs) :=
  ⟨⟨0, (curOf (S_NopFenceAndWaitTime.getD 0 live) (0 : Fin 128)), (S_NopFenceAndWaitTime.getD 0 live), canonOf (by decide +kernel),
  by decide +kernel, by unfold State.goesAtOnce; decide +kernel, takenOf (by decide +kernel)⟩,
   ⟨0, (curOf (S_NopFenceAndWaitTime.getD 2 live) (0 : Fin 128)), (S_NopFenceAndWaitTime.getD 2 live), canonOf (by decide +kernel),
  by decide +kernel, by unfold State.goesAtOnce; decide +kernel, takenOf (by decide +kernel)⟩,
   ⟨0, (curOf (S_NopFenceAndWaitTime.getD 3 live) (0 : Fin 128)), (S_NopFenceAndWaitTime.getD 3 live), canonOf (by decide +kernel),
  by decide +kernel, by unfold State.goesAtOnce; decide +kernel, takenOf (by decide +kernel), by decide +kernel⟩,
   ⟨0, (curOf (S_NopFenceAndWaitTime.getD 4 live) (0 : Fin 128)), (S_NopFenceAndWaitTime.getD 4 live), canonOf (by decide +kernel),
  by decide +kernel, by unfold State.goesAtOnce; decide +kernel, takenOf (by decide +kernel), by decide +kernel⟩,
   ⟨0, nopD 0, (S_NopFenceAndWaitTime.getD 43 live), canonOf (by decide +kernel), by decide +kernel, 1,
  (the (S_NopFenceAndWaitTime.getD 43 live) 1), completingOf (by decide +kernel), by decide +kernel, by decide +kernel,
  by decide +kernel, by decide +kernel⟩⟩

theorem test_ObjectsAllocatedAndFreed :
    (∃ (r : Fin 128) (d : Desc) (s : State), Canon s ∧ s.flt.fatalHold = false ∧ Taken s r opObjAlloc d ∧ s.goesAtOnce d ∧ ∃ reason,
  s.allocFails d.fn d.allocTiles = some reason) ∧
    (∃ (r : Fin 128) (d : Desc) (s : State), Canon s ∧ s.flt.fatalHold = false ∧ Taken s r opObjAlloc d ∧ s.goesAtOnce d ∧ s.allocFails
  d.fn d.allocTiles = none) ∧
    (∃ (r : Fin 128) (d : Desc) (s : State), Canon s ∧ s.flt.fatalHold = false ∧ Taken s r opObjFree d ∧ s.goesAtOnce d) :=
  ⟨⟨0, (curOf (S_ObjectsAllocatedAndFreed.getD 33 live) (0 : Fin 128)), (S_ObjectsAllocatedAndFreed.getD 33 live),
  canonOf (by decide +kernel), by decide +kernel, takenOf (by decide +kernel), by unfold State.goesAtOnce; decide +kernel,
  (((S_ObjectsAllocatedAndFreed.getD 33 live).allocFails (curOf (S_ObjectsAllocatedAndFreed.getD 33 live) (0 : Fin 128)).fn (curOf
  (S_ObjectsAllocatedAndFreed.getD 33 live) (0 : Fin 128)).allocTiles).get (by decide +kernel)), by decide +kernel⟩,
   ⟨0, (curOf (S_ObjectsAllocatedAndFreed.getD 5 live) (0 : Fin 128)), (S_ObjectsAllocatedAndFreed.getD 5 live),
  canonOf (by decide +kernel), by decide +kernel, takenOf (by decide +kernel), by unfold State.goesAtOnce; decide +kernel,
  by decide +kernel⟩,
   ⟨0, (curOf (S_ObjectsAllocatedAndFreed.getD 7 live) (0 : Fin 128)), (S_ObjectsAllocatedAndFreed.getD 7 live),
  canonOf (by decide +kernel), by decide +kernel, takenOf (by decide +kernel), by unfold State.goesAtOnce; decide +kernel⟩⟩

theorem test_ObjectRead :
    (∃ (s : State), Canon s ∧ ∃ (r : Fin 128) (d : Desc) (o : Obj), Taken s r opObjRead d ∧ s.goesAtOnce d ∧ s.objOf (d.w 2) = some o) ∧
    (∃ (s : State), Canon s ∧ ∃ (id : Nat) (e : Entry) (bs : List Byte) (poisoned : Bool), Completing s id e ∧ e.job = .read bs) :=
  ⟨⟨(S_ObjectRead.getD 10 live), canonOf (by decide +kernel), 0, (curOf (S_ObjectRead.getD 10 live) (0 : Fin 128)),
  (((S_ObjectRead.getD 10 live).objOf ((curOf (S_ObjectRead.getD 10 live) (0 : Fin 128)).w 2)).get (by decide +kernel)),
  takenOf (by decide +kernel), by unfold State.goesAtOnce; decide +kernel, by decide +kernel⟩,
   ⟨(S_ObjectRead.getD 42 live), canonOf (by decide +kernel), 1, (the (S_ObjectRead.getD 42 live) 1), [1, 2, 3], true,
  completingOf (by decide +kernel), by decide +kernel⟩⟩

theorem test_ObjectWrites :
    (∃ (r : Fin 128) (d : Desc) (o : Obj) (s : State), Canon s ∧ Taken s r opObjWrite d ∧ s.goesAtOnce d ∧ s.objOf (d.w 2) = some o ∧ (∀
  x ∈ s.ledger, (s.newEntry d .plain [(d.w 2, o.given + 1)]).waitsFor x = false) ∧ o.cls ≠ 0) ∧
    (∃ (r : Fin 128) (d : Desc) (o : Obj) (s : State), Canon s ∧ Taken s r opObjWrite d ∧ s.goesAtOnce d ∧ s.objOf (d.w 2) = some o ∧
  (let n := (min (d.w 6) (o.layout - d.w 3)); (∀ x ∈ s.ledger, (s.newEntry d .plain [(d.w 2, o.given + 1)]).waitsFor x = false) ∧
  o.cls = 0 ∧ s.reserveFails o (o.byteTiles (d.w 3) n).length = none)) ∧
    (∃ (id : Nat) (e : Entry) (data : HostRead) (o : Obj) (v : Version) (s : State), Canon s ∧ Completing s id e ∧ e.desc.opcode =
  opObjWrite ∧ e.started = true ∧ s.objOf (e.desc.w 2) = some o ∧ o.cls ≠ 0 ∧ o.released = false ∧ o.versions = [v] ∧ v.valid = true ∧
  tabSorted v.bytes ∧ ∃ reason, o.lost = some reason) ∧
    (∃ (id : Nat) (e : Entry) (data : HostRead) (o : Obj) (v : Version) (s : State), Canon s ∧ Completing s id e ∧ e.desc.opcode =
  opObjWrite ∧ e.started = true ∧ s.objOf (e.desc.w 2) = some o ∧ o.cls ≠ 0 ∧ o.released = false ∧ o.versions = [v] ∧ v.valid = true ∧
  tabSorted v.bytes ∧ o.lost = none) :=
  ⟨⟨0, (curOf (S_ObjectWrites.getD 8 live) (0 : Fin 128)), (((S_ObjectWrites.getD 8 live).objOf ((curOf (S_ObjectWrites.getD 8 live) (0
  : Fin 128)).w 2)).get (by decide +kernel)), (S_ObjectWrites.getD 8 live), canonOf (by decide +kernel), takenOf (by decide +kernel),
  by unfold State.goesAtOnce; decide +kernel, by decide +kernel, by decide +kernel, by decide +kernel⟩,
   ⟨0, (curOf (S_ObjectWrites.getD 9 live) (0 : Fin 128)), (((S_ObjectWrites.getD 9 live).objOf ((curOf (S_ObjectWrites.getD 9 live) (0
  : Fin 128)).w 2)).get (by decide +kernel)), (S_ObjectWrites.getD 9 live), canonOf (by decide +kernel), takenOf (by decide +kernel),
  by unfold State.goesAtOnce; decide +kernel, by decide +kernel, by decide +kernel, by decide +kernel, by decide +kernel⟩,
   ⟨1, (the (S_ObjectWrites.getD 44 live) 1), (R_ObjectWrites.getD 0 { bytes := [], fail := none }), (((S_ObjectWrites.getD 44
  live).objOf ((the (S_ObjectWrites.getD 44 live) 1).desc.w 2)).get (by decide +kernel)), v1, (S_ObjectWrites.getD 44 live),
  canonOf (by decide +kernel), completingOf (by decide +kernel), by decide +kernel, by decide +kernel, by decide +kernel,
  by decide +kernel, by decide +kernel, by decide +kernel, by decide +kernel, by unfold tabSorted; decide +kernel, 1,
  by decide +kernel⟩,
   ⟨1, (the (S_ObjectWrites.getD 42 live) 1), (R_ObjectWrites.getD 0 { bytes := [], fail := none }), (((S_ObjectWrites.getD 42
  live).objOf ((the (S_ObjectWrites.getD 42 live) 1).desc.w 2)).get (by decide +kernel)), v1, (S_ObjectWrites.getD 42 live),
  canonOf (by decide +kernel), completingOf (by decide +kernel), by decide +kernel, by decide +kernel, by decide +kernel,
  by decide +kernel, by decide +kernel, by decide +kernel, by decide +kernel, by unfold tabSorted; decide +kernel, by decide +kernel⟩⟩

theorem test_PlateLoads :
    (∃ (s : State), Canon s ∧ ∃ (r : Fin 128) (d : Desc), Taken s r opPlateLoad d ∧ firstFail [d.loadRange, s.permFail d, s.handleFail d,
  s.loadObjects d] = none) ∧
    (∃ (s : State), Canon s ∧ ∃ (id : Nat) (e : Entry), s.entry id = some e ∧ e.desc.opcode = opPlateLoad ∧ e.started = false ∧ s.noWait
  e = true ∧ s.inEbb .scalers = false ∧ (s.before e).any (fun x => x.wantsScaler && s.noWait x) = false ∧ s.busyScalers.length < 8 ∧
  s.startFail e = none) ∧
    (∃ (s : State), Canon s ∧ ∃ (id : Nat) (n : Nat) (waiting : Nat) (scalers : List Nat) (e : Entry) (k : Nat), s.entry id = some e ∧
  e.desc.opcode = opPlateLoad ∧ e.started = true ∧ e.job = .load n scalers (waiting + 1) ∧ s.inEbb .scalers = false ∧ (s.before e).any
  (fun x => x.wantsScaler && s.noWait x) = false ∧ (List.range 8).find? (fun k => !(s.busyScalers.contains k)) = some k) ∧
    (∃ (s : State), Canon s ∧ ∃ (id : Nat) (n : Nat) (scalers : List Nat) (e : Entry) (o : Obj) (data : HostRead), Completing s id e ∧
  e.job = .load n scalers 0 ∧ s.objOf (e.desc.w 2) = some o ∧ o.cls = 0 ∧ ∃ reason, o.lost = some reason) ∧
    (∃ (s : State), Canon s ∧ ∃ (id : Nat) (n : Nat) (scalers : List Nat) (e : Entry) (o : Obj) (data : HostRead), Completing s id e ∧
  e.job = .load n scalers 0 ∧ s.objOf (e.desc.w 2) = some o ∧ o.cls = 0 ∧ o.lost = none ∧ (let src :=
  (s.loadSource e.desc data); (let fail := (if e.desc.w 3 = 0 then data.fail else none); (let rows :=
  (if fail.isSome then e.desc.rowsWithin src.2 data.bytes.length else e.desc.dstH); (let bad :=
  (sourceBad src.1 src.2 e.desc rows = true ∨ s.sourcePoisoned e.desc rows = true); bad))))) ∧
    (∃ (s : State), Canon s ∧ ∃ (id : Nat) (n : Nat) (scalers : List Nat) (e : Entry) (o : Obj) (data : HostRead), Completing s id e ∧
  e.job = .load n scalers 0 ∧ s.objOf (e.desc.w 2) = some o ∧ o.cls = 0 ∧ o.lost = none ∧ (let src :=
  (s.loadSource e.desc data); (let fail := (if e.desc.w 3 = 0 then data.fail else none); (let rows :=
  (if fail.isSome then e.desc.rowsWithin src.2 data.bytes.length else e.desc.dstH); (let bad :=
  (sourceBad src.1 src.2 e.desc rows = true ∨ s.sourcePoisoned e.desc rows = true); ¬ bad ∧ ∃ f, fail = some f))))) ∧
    (∃ (s : State), Canon s ∧ ∃ (id : Nat) (n : Nat) (scalers : List Nat) (e : Entry) (o : Obj) (data : HostRead), Completing s id e ∧
  e.job = .load n scalers 0 ∧ s.objOf (e.desc.w 2) = some o ∧ o.cls = 0 ∧ o.lost = none ∧ (let src :=
  (s.loadSource e.desc data); (let fail := (if e.desc.w 3 = 0 then data.fail else none); (let rows :=
  (if fail.isSome then e.desc.rowsWithin src.2 data.bytes.length else e.desc.dstH); (let bad :=
  (sourceBad src.1 src.2 e.desc rows = true ∨ s.sourcePoisoned e.desc rows = true); ¬ bad ∧ fail = none))))) :=
  ⟨⟨(S_PlateLoads.getD 0 live), canonOf (by decide +kernel), 0, (curOf (S_PlateLoads.getD 0 live) (0 : Fin 128)),
  takenOf (by decide +kernel), by decide +kernel⟩,
   ⟨(S_PlateLoads.getD 3 live), canonOf (by decide +kernel), 1, (the (S_PlateLoads.getD 3 live) 1), by decide +kernel,
  by decide +kernel, by decide +kernel, by decide +kernel, by decide +kernel, by decide +kernel, by decide +kernel, by decide +kernel⟩,
   ⟨(S_PlateLoads.getD 4 live), canonOf (by decide +kernel), 1, 3, 1, [0], (the (S_PlateLoads.getD 4 live) 1), 1, by decide +kernel,
  by decide +kernel, by decide +kernel, by decide +kernel, by decide +kernel, by decide +kernel, by decide +kernel⟩,
   ⟨(S_PlateLoads.getD 8 live), canonOf (by decide +kernel), 1, 1, [], (the (S_PlateLoads.getD 8 live) 1),
  (((S_PlateLoads.getD 8 live).objOf ((the (S_PlateLoads.getD 8 live) 1).desc.w 2)).get (by decide +kernel)),
  (R_PlateLoads.getD 0 { bytes := [], fail := none }), completingOf (by decide +kernel), by decide +kernel, by decide +kernel,
  by decide +kernel, 1, by decide +kernel⟩,
   ⟨(S_PlateLoads.getD 7 live), canonOf (by decide +kernel), 1, 1, [], (the (S_PlateLoads.getD 7 live) 1),
  (((S_PlateLoads.getD 7 live).objOf ((the (S_PlateLoads.getD 7 live) 1).desc.w 2)).get (by decide +kernel)),
  (R_PlateLoads.getD 0 { bytes := [], fail := none }), completingOf (by decide +kernel), by decide +kernel, by decide +kernel,
  by decide +kernel, by decide +kernel, by decide +kernel⟩,
   ⟨(S_PlateLoads.getD 5 live), canonOf (by decide +kernel), 1, 1, [], (the (S_PlateLoads.getD 5 live) 1),
  (((S_PlateLoads.getD 5 live).objOf ((the (S_PlateLoads.getD 5 live) 1).desc.w 2)).get (by decide +kernel)),
  (R_PlateLoads.getD 1 { bytes := [], fail := none }), completingOf (by decide +kernel), by decide +kernel, by decide +kernel,
  by decide +kernel, by decide +kernel, by decide +kernel,
  (((if (the (S_PlateLoads.getD 5 live) 1).desc.w 3 = 0 then (R_PlateLoads.getD 1 { bytes := [], fail := none }).fail else none)).get (by decide +kernel)),
  by decide +kernel⟩,
   ⟨(S_PlateLoads.getD 5 live), canonOf (by decide +kernel), 1, 1, [], (the (S_PlateLoads.getD 5 live) 1),
  (((S_PlateLoads.getD 5 live).objOf ((the (S_PlateLoads.getD 5 live) 1).desc.w 2)).get (by decide +kernel)),
  (R_PlateLoads.getD 0 { bytes := [], fail := none }), completingOf (by decide +kernel), by decide +kernel, by decide +kernel,
  by decide +kernel, by decide +kernel, by decide +kernel, by decide +kernel⟩⟩

theorem test_Streams :
    (∃ (r : Fin 128) (d : Desc) (s : State), Canon s ∧ s.flt.fatalHold = false ∧ Taken s r opStreamDecode d ∧ s.sixtyFail (d.w 2) (d.w 3)
  3 = none ∧ s.openCtx (d.fn, d.f 7 15 0) = none ∧ s.freeCtxs d.flag20 = []) ∧
    (∃ (r : Fin 128) (d : Desc) (s : State), Canon s ∧ s.flt.fatalHold = false ∧ Taken s r opStreamDecode d ∧ s.sixtyFail (d.w 2) (d.w 3)
  3 = none ∧ s.openCtx (d.fn, d.f 7 15 0) = none ∧ s.freeCtxs d.flag20 ≠ []) ∧
    (∃ (r : Fin 128) (d : Desc) (s : State), Canon s ∧ s.flt.fatalHold = false ∧ Taken s r opStreamContinue d ∧ ((d.w 3 ≠ 0 → s.sixtyFail
  (d.w 3) (d.w 4) 4 = none)) ∧ s.openCtx (d.fn, d.f 2 15 0) = none) ∧
    (∃ (r : Fin 128) (d : Desc) (s : State), Canon s ∧ s.flt.fatalHold = false ∧ Taken s r opStreamContinue d ∧ ((d.w 3 ≠ 0 → s.sixtyFail
  (d.w 3) (d.w 4) 4 = none)) ∧ ∃ m c, s.openCtx (d.fn, d.f 2 15 0) = some (m, c)) ∧
    (∃ (s : State), Canon s ∧ ∃ (id : Nat) (e : Entry), s.entry id = some e ∧ e.started = false ∧ e.mirrored = false ∧ ∃ (m : Nat) (h :
  Nat) (opener : Nat) (namer : Nat) (off : Nat) (o : Obj), e.job = .stream m h opener namer off ∧ s.noWait e = true ∧ s.inEbb
  .decoders = false ∧ (s.ctx m).open_ = true ∧ (s.ctx m).opener = opener ∧ s.objOf h = some o ∧ o.lost = none ∧ o.cls ≠ 0) ∧
    (∃ (s : State), Canon s ∧ ∃ (id : Nat) (e : Entry), Completing s id e ∧ e.started = true ∧ ∃ (m : Nat) (h : Nat) (opener : Nat)
  (namer : Nat) (off : Nat) (o : Obj) (data : HostRead), e.job = .stream m h opener namer off ∧ s.objOf h = some o ∧ ∃ reason, o.lost
  = some reason) ∧
    (∃ (s : State), Canon s ∧ ∃ (id : Nat) (e : Entry), Completing s id e ∧ e.started = true ∧ ∃ (m : Nat) (h : Nat) (opener : Nat)
  (namer : Nat) (off : Nat) (o : Obj) (data : HostRead), e.job = .stream m h opener namer off ∧ s.objOf h = some o ∧ o.lost = none ∧
  (let d := (e.desc); (let closing := (d.opcode = opStreamContinue ∧ d.srcLen = 0 ∧ d.flag21 = false); closing))) ∧
    (∃ (s : State), Canon s ∧ ∃ (id : Nat) (e : Entry), Completing s id e ∧ e.started = true ∧ ∃ (m : Nat) (h : Nat) (opener : Nat)
  (namer : Nat) (off : Nat) (o : Obj) (data : HostRead), e.job = .stream m h opener namer off ∧ s.objOf h = some o ∧ o.lost = none ∧
  (let d := (e.desc); (let closing := (d.opcode = opStreamContinue ∧ d.srcLen = 0 ∧ d.flag21 = false); ¬ closing))) ∧
    (∃ (s : State), Canon s ∧ ∃ (k : Fin 32), s.power.boot ≠ .inReset ∧ (s.ctx k).open_ = true ∧ (s.ctx k).running = false) ∧
    (∃ (s : State), Canon s ∧ ∃ (k : Fin 32), s.power.boot ≠ .inReset ∧ ((s.ctx k).open_ = false ∨ (s.ctx k).running = true)) :=
  ⟨⟨0, (curOf (S_Streams.getD 2 live) (0 : Fin 128)), (S_Streams.getD 2 live), canonOf (by decide +kernel), by decide +kernel,
  takenOf (by decide +kernel), by decide +kernel, by decide +kernel, by decide +kernel⟩,
   ⟨0, (curOf (S_Streams.getD 0 live) (0 : Fin 128)), (S_Streams.getD 0 live), canonOf (by decide +kernel), by decide +kernel,
  takenOf (by decide +kernel), by decide +kernel, by decide +kernel, by decide +kernel⟩,
   ⟨0, (curOf (S_Streams.getD 9 live) (0 : Fin 128)), (S_Streams.getD 9 live), canonOf (by decide +kernel), by decide +kernel,
  takenOf (by decide +kernel), by decide +kernel, by decide +kernel⟩,
   ⟨0, (curOf (S_Streams.getD 10 live) (0 : Fin 128)), (S_Streams.getD 10 live), canonOf (by decide +kernel), by decide +kernel,
  takenOf (by decide +kernel), by decide +kernel, 2, (((S_Streams.getD 10 live).openCtx ((curOf (S_Streams.getD 10 live) (0 : Fin
  128)).fn, (curOf (S_Streams.getD 10 live) (0 : Fin 128)).f 2 15 0)).get (by decide +kernel)).2, by decide +kernel⟩,
   ⟨(S_Streams.getD 21 live), canonOf (by decide +kernel), 1, (the (S_Streams.getD 21 live) 1), by decide +kernel, by decide +kernel,
  by decide +kernel, 2, 1281, 1, 1, 16, (((S_Streams.getD 21 live).objOf 1281).get (by decide +kernel)), by decide +kernel,
  by decide +kernel, by decide +kernel, by decide +kernel, by decide +kernel, by decide +kernel, by decide +kernel, by decide +kernel⟩,
   ⟨(S_Streams.getD 31 live), canonOf (by decide +kernel), 1, (the (S_Streams.getD 31 live) 1), completingOf (by decide +kernel),
  by decide +kernel, 2, 1281, 1, 1, 16, (((S_Streams.getD 31 live).objOf 1281).get (by decide +kernel)),
  (R_Streams.getD 0 { bytes := [], fail := none }), by decide +kernel, by decide +kernel, 1, by decide +kernel⟩,
   ⟨(S_Streams.getD 28 live), canonOf (by decide +kernel), 1, (the (S_Streams.getD 28 live) 1), completingOf (by decide +kernel),
  by decide +kernel, 2, 1281, 1, 1, 16, (((S_Streams.getD 28 live).objOf 1281).get (by decide +kernel)),
  (R_Streams.getD 0 { bytes := [], fail := none }), by decide +kernel, by decide +kernel, by decide +kernel, by decide +kernel⟩,
   ⟨(S_Streams.getD 22 live), canonOf (by decide +kernel), 1, (the (S_Streams.getD 22 live) 1), completingOf (by decide +kernel),
  by decide +kernel, 2, 1281, 1, 1, 16, (((S_Streams.getD 22 live).objOf 1281).get (by decide +kernel)),
  (R_Streams.getD 0 { bytes := [], fail := none }), by decide +kernel, by decide +kernel, by decide +kernel, by decide +kernel⟩,
   ⟨(S_Streams.getD 1 live), canonOf (by decide +kernel), 2, by decide +kernel, by decide +kernel, by decide +kernel⟩,
   ⟨(S_Streams.getD 0 live), canonOf (by decide +kernel), 0, by decide +kernel, by decide +kernel⟩⟩

theorem test_SawyerListsStart :
    (∃ (s : State), Canon s ∧ ∃ (r : Fin 128) (d : Desc) (list : HostRead), Taken s r opSawyerList d ∧ s.listObject d = none ∧ (d.w 2 ≠ 0
  ∨ list.fail = none)) ∧
    (∃ (s : State), Canon s ∧ ∃ (id : Nat) (e : Entry) (list : HostRead), Completing s id e ∧ e.desc.opcode = opSawyerList ∧ s.inEbb
  .sawyer = false ∧ e.started = false ∧ s.noWait e = true ∧ s.startFail e = none ∧ ∃ f, e.desc.w 2 = 0 ∧ list.fail = some f) ∧
    (∃ (s : State), Canon s ∧ ∃ (id : Nat) (e : Entry) (list : HostRead), Completing s id e ∧ e.desc.opcode = opSawyerList ∧ s.inEbb
  .sawyer = false ∧ e.started = false ∧ s.noWait e = true ∧ s.startFail e = none ∧ (e.desc.w 2 ≠ 0 ∨ list.fail = none) ∧ (let cmds :=
  (s.listCmds e.desc list); ∃ i f, s.listFail id e.desc.fn (e.versions.map (·.1)) cmds = some (i, f))) ∧
    (∃ (s : State), Canon s ∧ ∃ (id : Nat) (e : Entry) (list : HostRead), Completing s id e ∧ e.desc.opcode = opSawyerList ∧ s.inEbb
  .sawyer = false ∧ e.started = false ∧ s.noWait e = true ∧ s.startFail e = none ∧ (e.desc.w 2 ≠ 0 ∨ list.fail = none) ∧ (let cmds :=
  (s.listCmds e.desc list); s.listFail id e.desc.fn (e.versions.map (·.1)) cmds = none ∧ s.listInvalid cmds = false ∧ e.versions = [])) ∧
    (∃ (id : Nat) (k : Nat) (e : Entry) (c : SawyerCmd) (s : State), s.entry id = some e ∧ e.started = true ∧ e.cmds[k]? = some c ∧
  s.inEbb .sawyer = false ∧ s.sawBusy < 4 ∧ mayStart e.cmds k = true ∧ (s.before e).any Entry.sawReady = false ∧ c.op = 1) ∧
    (∃ (id : Nat) (k : Nat) (e : Entry) (c : SawyerCmd) (s : State), s.entry id = some e ∧ e.started = true ∧ e.cmds[k]? = some c ∧
  s.inEbb .sawyer = false ∧ s.sawBusy < 4 ∧ mayStart e.cmds k = true ∧ (s.before e).any Entry.sawReady = false ∧ c.op = 2) ∧
    (∃ (id : Nat) (k : Nat) (e : Entry) (c : SawyerCmd) (s : State), s.entry id = some e ∧ e.started = true ∧ e.cmds[k]? = some c ∧
  s.inEbb .sawyer = false ∧ s.sawBusy < 4 ∧ mayStart e.cmds k = true ∧ (s.before e).any Entry.sawReady = false ∧ c.op = 3) ∧
    (∃ (id : Nat) (k : Nat) (e : Entry) (c : SawyerCmd) (s : State), s.entry id = some e ∧ e.started = true ∧ e.cmds[k]? = some c ∧
  s.inEbb .sawyer = false ∧ s.sawBusy < 4 ∧ mayStart e.cmds k = true ∧ (s.before e).any Entry.sawReady = false ∧ c.op = 4) ∧
    (∃ (id : Nat) (k : Nat) (e : Entry) (c : SawyerCmd) (s : State), s.entry id = some e ∧ e.started = true ∧ e.cmds[k]? = some c ∧
  s.inEbb .sawyer = false ∧ s.sawBusy < 4 ∧ mayStart e.cmds k = true ∧ (s.before e).any Entry.sawReady = false ∧ c.op = 5) ∧
    (∃ (id : Nat) (k : Nat) (e : Entry) (c : SawyerCmd) (s : State), s.entry id = some e ∧ e.started = true ∧ e.cmds[k]? = some c ∧
  s.inEbb .sawyer = false ∧ s.sawBusy < 4 ∧ mayStart e.cmds k = true ∧ (s.before e).any Entry.sawReady = false ∧ c.op = 6 ∧
  s.scanPasses c = false) :=
  ⟨⟨(S_SawyerListsStart.getD 0 live), canonOf (by decide +kernel), 0, (curOf (S_SawyerListsStart.getD 0 live) (0 : Fin 128)),
  (R_SawyerListsStart.getD 0 { bytes := [], fail := none }), takenOf (by decide +kernel), by decide +kernel, by decide +kernel⟩,
   ⟨(S_SawyerListsStart.getD 2 live), canonOf (by decide +kernel), 1, (the (S_SawyerListsStart.getD 2 live) 1),
  (R_SawyerListsStart.getD 1 { bytes := [], fail := none }), completingOf (by decide +kernel), by decide +kernel, by decide +kernel,
  by decide +kernel, by decide +kernel, by decide +kernel,
  (((R_SawyerListsStart.getD 1 { bytes := [], fail := none }).fail).get (by decide +kernel)), by decide +kernel, by decide +kernel⟩,
   ⟨(S_SawyerListsStart.getD 2 live), canonOf (by decide +kernel), 1, (the (S_SawyerListsStart.getD 2 live) 1),
  (R_SawyerListsStart.getD 2 { bytes := [], fail := none }), completingOf (by decide +kernel), by decide +kernel, by decide +kernel,
  by decide +kernel, by decide +kernel, by decide +kernel, by decide +kernel, 0,
  (((S_SawyerListsStart.getD 2 live).listFail 1 (the (S_SawyerListsStart.getD 2 live) 1).desc.fn ((the (S_SawyerListsStart.getD 2 live) 1).versions.map (·.1)) ((S_SawyerListsStart.getD 2 live).listCmds (the (S_SawyerListsStart.getD 2 live) 1).desc (R_SawyerListsStart.getD 2 { bytes := [], fail := none }))).get (by decide +kernel)).2,
  by decide +kernel⟩,
   ⟨(S_SawyerListsStart.getD 2 live), canonOf (by decide +kernel), 1, (the (S_SawyerListsStart.getD 2 live) 1),
  (R_SawyerListsStart.getD 0 { bytes := [], fail := none }), completingOf (by decide +kernel), by decide +kernel, by decide +kernel,
  by decide +kernel, by decide +kernel, by decide +kernel, by decide +kernel, by decide +kernel, by decide +kernel, by decide +kernel⟩,
   ⟨1, 0, (the (S_SawyerListsStart.getD 3 live) 1), (((the (S_SawyerListsStart.getD 3 live) 1).cmds[0]?).get (by decide +kernel)),
  (S_SawyerListsStart.getD 3 live), by decide +kernel, by decide +kernel, by decide +kernel, by decide +kernel, by decide +kernel,
  by decide +kernel, by decide +kernel, by decide +kernel⟩,
   ⟨1, 0, (the (S_SawyerListsStart.getD 4 live) 1), (((the (S_SawyerListsStart.getD 4 live) 1).cmds[0]?).get (by decide +kernel)),
  (S_SawyerListsStart.getD 4 live), by decide +kernel, by decide +kernel, by decide +kernel, by decide +kernel, by decide +kernel,
  by decide +kernel, by decide +kernel, by decide +kernel⟩,
   ⟨1, 0, (the (S_SawyerListsStart.getD 5 live) 1), (((the (S_SawyerListsStart.getD 5 live) 1).cmds[0]?).get (by decide +kernel)),
  (S_SawyerListsStart.getD 5 live), by decide +kernel, by decide +kernel, by decide +kernel, by decide +kernel, by decide +kernel,
  by decide +kernel, by decide +kernel, by decide +kernel⟩,
   ⟨1, 0, (the (S_SawyerListsStart.getD 6 live) 1), (((the (S_SawyerListsStart.getD 6 live) 1).cmds[0]?).get (by decide +kernel)),
  (S_SawyerListsStart.getD 6 live), by decide +kernel, by decide +kernel, by decide +kernel, by decide +kernel, by decide +kernel,
  by decide +kernel, by decide +kernel, by decide +kernel⟩,
   ⟨1, 0, (the (S_SawyerListsStart.getD 7 live) 1), (((the (S_SawyerListsStart.getD 7 live) 1).cmds[0]?).get (by decide +kernel)),
  (S_SawyerListsStart.getD 7 live), by decide +kernel, by decide +kernel, by decide +kernel, by decide +kernel, by decide +kernel,
  by decide +kernel, by decide +kernel, by decide +kernel⟩,
   ⟨1, 0, (the (S_SawyerListsStart.getD 8 live) 1), (((the (S_SawyerListsStart.getD 8 live) 1).cmds[0]?).get (by decide +kernel)),
  (S_SawyerListsStart.getD 8 live), by decide +kernel, by decide +kernel, by decide +kernel, by decide +kernel, by decide +kernel,
  by decide +kernel, by decide +kernel, by decide +kernel, by decide +kernel⟩⟩

theorem test_SawyerCommandsRun :
    (∃ (id : Nat) (k : Nat) (e : Entry) (c : SawyerCmd) (d : Img) (s : State), Canon s ∧ s.entry id = some e ∧ e.mirrored = false ∧
  e.started = true ∧ e.cmds[k]? = some c ∧ c.phase = .running ∧ c.op ≠ 6 ∧ c.mark < c.height ∧ c.waitOn = 0 ∧ s.cmdLost c = none ∧
  s.img e c.dst = some d ∧ (let row := (if c.upward then c.height - 1 - c.mark else c.mark); (let job : RowJob :=
  ({ cmd := c, dst := d, src := if c.hasSrc then s.img e c.src else none, y := c.dstY + row, sy := c.srcY + row }); job.run = none))) ∧
    (∃ (id : Nat) (k : Nat) (e : Entry) (c : SawyerCmd) (d : Img) (s : State), Canon s ∧ s.entry id = some e ∧ e.mirrored = false ∧
  e.started = true ∧ e.cmds[k]? = some c ∧ c.phase = .running ∧ c.op ≠ 6 ∧ c.mark < c.height ∧ c.waitOn = 0 ∧ s.cmdLost c = none ∧
  s.img e c.dst = some d ∧ (let row := (if c.upward then c.height - 1 - c.mark else c.mark); (let job : RowJob :=
  ({ cmd := c, dst := d, src := if c.hasSrc then s.img e c.src else none, y := c.dstY + row, sy := c.srcY + row }); ∃ bytes, job.run =
  some bytes))) ∧
    (∃ (id : Nat) (k : Nat) (e : Entry) (c : SawyerCmd) (s : State), Canon s ∧ Completing s id e ∧ e.started = true ∧ e.cmds[k]? = some c
  ∧ c.phase = .running ∧ c.op ≠ 6 ∧ c.mark = c.height ∧ ((∀ (i : Nat) (x : SawyerCmd), i ≠ k → e.cmds[i]? = some x → x.phase = .done))) ∧
    (∃ (id : Nat) (k : Nat) (e : Entry) (c : SawyerCmd) (s : State), Canon s ∧ Completing s id e ∧ e.started = true ∧ e.cmds[k]? = some c
  ∧ c.phase = .running ∧ c.op ≠ 6 ∧ c.mark = c.height ∧ (∃ (i : Nat) (x : SawyerCmd), i ≠ k ∧ e.cmds[i]? = some x ∧ x.phase =
  .running)) :=
  ⟨⟨1, 0, (the (S_SawyerCommandsRun.getD 2 live) 1), (cmd0 (S_SawyerCommandsRun.getD 2 live)), (imgAt (S_SawyerCommandsRun.getD 2 live)
  (the (S_SawyerCommandsRun.getD 2 live) 1) (cmd0 (S_SawyerCommandsRun.getD 2 live)).dst), (S_SawyerCommandsRun.getD 2 live),
  canonOf (by decide +kernel), by decide +kernel, by decide +kernel, by decide +kernel, by decide +kernel, by decide +kernel,
  by decide +kernel, by decide +kernel, by decide +kernel, by decide +kernel, imgHas (by decide +kernel), by decide +kernel⟩,
   ⟨1, 0, (the (S_SawyerCommandsRun.getD 0 live) 1), (cmd0 (S_SawyerCommandsRun.getD 0 live)), (imgAt (S_SawyerCommandsRun.getD 0 live)
  (the (S_SawyerCommandsRun.getD 0 live) 1) (cmd0 (S_SawyerCommandsRun.getD 0 live)).dst), (S_SawyerCommandsRun.getD 0 live),
  canonOf (by decide +kernel), by decide +kernel, by decide +kernel, by decide +kernel, by decide +kernel, by decide +kernel,
  by decide +kernel, by decide +kernel, by decide +kernel, by decide +kernel, imgHas (by decide +kernel),
  (rowsOf (S_SawyerCommandsRun.getD 0 live)).getD 0 [], by decide +kernel⟩,
   ⟨1, 0, (the (S_SawyerCommandsRun.getD 3 live) 1), (((the (S_SawyerCommandsRun.getD 3 live) 1).cmds[0]?).get (by decide +kernel)),
  (S_SawyerCommandsRun.getD 3 live), canonOf (by decide +kernel), completingOf (by decide +kernel), by decide +kernel,
  by decide +kernel, by decide +kernel, by decide +kernel, by decide +kernel, single (by decide +kernel)⟩,
   ⟨1, 0, (the (S_SawyerCommandsRun.getD 5 live) 1), (((the (S_SawyerCommandsRun.getD 5 live) 1).cmds[0]?).get (by decide +kernel)),
  (S_SawyerCommandsRun.getD 5 live), canonOf (by decide +kernel), completingOf (by decide +kernel), by decide +kernel,
  by decide +kernel, by decide +kernel, by decide +kernel, by decide +kernel, ⟨1, cmdOf copyW .running 0, by decide +kernel,
  by decide +kernel, by decide +kernel⟩⟩⟩

theorem test_TallyJobs :
    (∃ (s : State), Canon s ∧ ∃ (id : Nat) (k : Nat) (e : Entry), s.entry id = some e ∧ s.idleUnit = some k ∧ s.tallyReady e = true ∧
  (s.before e).any s.tallyReady = false ∧ e.desc.w 4 = 0) ∧
    (∃ (s : State), Canon s ∧ ∃ (id : Nat) (k : Nat) (e : Entry) (data : HostRead) (poisoned : Bool), Completing s id e ∧ e.job = .tally
  k) :=
  ⟨⟨(S_TallyJobs.getD 0 live), canonOf (by decide +kernel), 1, 0, (the (S_TallyJobs.getD 0 live) 1), by decide +kernel,
  by decide +kernel, by decide +kernel, by decide +kernel, by decide +kernel⟩,
   ⟨(S_TallyJobs.getD 2 live), canonOf (by decide +kernel), 1, 2, (the (S_TallyJobs.getD 2 live) 1),
  (R_TallyJobs.getD 0 { bytes := [], fail := none }), false, completingOf (by decide +kernel), by decide +kernel⟩⟩

theorem test_SceneCommits :
    (∃ (s : State), Canon s ∧ ∃ (r : Fin 128) (d : Desc) (table : HostRead), Taken s r opSceneCommit d ∧ ∃ f, s.sceneFail d table = some
  f ∧ s.flt.fatalHold = false) ∧
    (∃ (s : State), Canon s ∧ ∃ (r : Fin 128) (d : Desc) (table : HostRead), Taken s r opSceneCommit d ∧ s.sceneFail d table = none) ∧
    (∃ (s : State), Canon s ∧ ∃ (id : Nat) (c : Commit) (e : Entry), (s.ports.flatMap fun x => x.2.commits).find? (fun c => decide (c.id
  = id)) = some c ∧ c.pin = .waiting ∧ s.entry id = some e ∧ s.noWait e = true) :=
  ⟨⟨(S_SceneCommits.getD 3 live), canonOf (by decide +kernel), 0, (curOf (S_SceneCommits.getD 3 live) (0 : Fin 128)),
  (R_SceneCommits.getD 5 { bytes := [], fail := none }), takenOf (by decide +kernel),
  (((S_SceneCommits.getD 3 live).sceneFail (curOf (S_SceneCommits.getD 3 live) (0 : Fin 128)) (R_SceneCommits.getD 5 { bytes := [], fail := none })).get (by decide +kernel)),
  by decide +kernel, by decide +kernel⟩,
   ⟨(S_SceneCommits.getD 1 live), canonOf (by decide +kernel), 0, (curOf (S_SceneCommits.getD 1 live) (0 : Fin 128)),
  (R_SceneCommits.getD 0 { bytes := [], fail := none }), takenOf (by decide +kernel), by decide +kernel⟩,
   ⟨(S_SceneCommits.getD 20 live), canonOf (by decide +kernel), 0, ((((S_SceneCommits.getD 20 live).ports.flatMap fun x =>
  x.2.commits).find? (fun c => decide (c.id = 0))).get (by decide +kernel)), (the (S_SceneCommits.getD 20 live) 0), by decide +kernel,
  by decide +kernel, by decide +kernel, by decide +kernel⟩⟩

theorem test_EyesAndSignatures :
    (∃ (r : Fin 128) (d : Desc) (table : HostRead) (s : State), Canon s ∧ s.flt.fatalHold = false ∧ (let held : Prop :=
  (∃ x ∈ s.ledger, (s.newEntry d .plain []).waitsFor x = true); Taken s r opShepherdUpdate d ∧ s.eyeFail d table = none ∧ held)) ∧
    (∃ (r : Fin 128) (d : Desc) (table : HostRead) (s : State), Canon s ∧ s.flt.fatalHold = false ∧ (let p := (d.f 2 1 0); (let first :
  Prop := (∀ x ∈ s.ledger, x.desc.opcode = opShepherdUpdate → x.desc.f 2 1 0 = p → x.started = true); Taken s r opShepherdUpdate d ∧
  s.eyeFail d table = none ∧ s.goesAtOnce d ∧ first ∧ (s.port p).phase = .stopped))) ∧
    (∃ (r : Fin 128) (d : Desc) (table : HostRead) (s : State), Canon s ∧ s.flt.fatalHold = false ∧ (let p := (d.f 2 1 0); (let first :
  Prop := (∀ x ∈ s.ledger, x.desc.opcode = opShepherdUpdate → x.desc.f 2 1 0 = p → x.started = true); Taken s r opShepherdUpdate d ∧
  s.eyeFail d table = none ∧ s.goesAtOnce d ∧ first ∧ (s.port p).phase ≠ .stopped))) ∧
    (∃ (r : Fin 128) (d : Desc) (table : HostRead) (s : State), Canon s ∧ s.flt.fatalHold = false ∧ Taken s r opSignatureExpect d ∧
  s.sigFail d table = none) :=
  ⟨⟨0, (curOf (S_EyesAndSignatures.getD 7 live) (0 : Fin 128)), (R_EyesAndSignatures.getD 0 { bytes := [], fail := none }),
  (S_EyesAndSignatures.getD 7 live), canonOf (by decide +kernel), by decide +kernel, takenOf (by decide +kernel), by decide +kernel,
  by decide +kernel⟩,
   ⟨0, (curOf (S_EyesAndSignatures.getD 1 live) (0 : Fin 128)), (R_EyesAndSignatures.getD 0 { bytes := [], fail := none }),
  (S_EyesAndSignatures.getD 1 live), canonOf (by decide +kernel), by decide +kernel, takenOf (by decide +kernel), by decide +kernel,
  by unfold State.goesAtOnce; decide +kernel, by decide +kernel, by decide +kernel⟩,
   ⟨0, (curOf (S_EyesAndSignatures.getD 0 live) (0 : Fin 128)), (R_EyesAndSignatures.getD 0 { bytes := [], fail := none }),
  (S_EyesAndSignatures.getD 0 live), canonOf (by decide +kernel), by decide +kernel, takenOf (by decide +kernel), by decide +kernel,
  by unfold State.goesAtOnce; decide +kernel, by decide +kernel, by decide +kernel⟩,
   ⟨0, (curOf (S_EyesAndSignatures.getD 4 live) (0 : Fin 128)), (R_EyesAndSignatures.getD 3 { bytes := [], fail := none }),
  (S_EyesAndSignatures.getD 4 live), canonOf (by decide +kernel), by decide +kernel, takenOf (by decide +kernel), by decide +kernel⟩⟩

theorem test_ModeSets :
    (∃ (r : Fin 128) (d : Desc) (s : State), Canon s ∧ Taken s r opModeSet d ∧ s.modeFail d = none ∧ ((∀ q, q < 4 → (s.port q).phase =
  .stopped → (s.port q).modeQueue = [])) ∧ (let p := (d.modePort); (s.port p).phase ≠ .stopped)) ∧
    (∃ (r : Fin 128) (d : Desc) (s : State), Canon s ∧ Taken s r opModeSet d ∧ s.modeFail d = none ∧ ((∀ q, q < 4 → (s.port q).phase =
  .stopped → (s.port q).modeQueue = [])) ∧ (let p := (d.modePort); (s.port p).phase = .stopped ∧ s.cway.role.drives = true ∧ s.formed
  = true ∧ s.power.bootState = false ∧ s.looping (gangPorts p d.gangMask) = false ∧ (∀ x ∈ s.ledger, (s.newEntry d .plain []).waitsFor
  x = false) ∧ d.stops = true ∧ s.flt.fatalHold = false)) ∧
    (∃ (r : Fin 128) (d : Desc) (s : State), Canon s ∧ Taken s r opModeSet d ∧ s.modeFail d = none ∧ ((∀ q, q < 4 → (s.port q).phase =
  .stopped → (s.port q).modeQueue = [])) ∧ (let p := (d.modePort); (s.port p).phase = .stopped ∧ s.cway.role.drives = true ∧ s.formed
  = true ∧ s.power.bootState = false ∧ s.looping (gangPorts p d.gangMask) = false ∧ (∀ x ∈ s.ledger, (s.newEntry d .plain []).waitsFor
  x = false) ∧ d.stops = false ∧ s.modeFailAgain d = none)) :=
  ⟨⟨0, (curOf (S_ModeSets.getD 0 live) (0 : Fin 128)), (S_ModeSets.getD 0 live), canonOf (by decide +kernel),
  takenOf (by decide +kernel), by decide +kernel, by decide +kernel, by decide +kernel⟩,
   ⟨0, (curOf (S_ModeSets.getD 3 live) (0 : Fin 128)), (S_ModeSets.getD 3 live), canonOf (by decide +kernel),
  takenOf (by decide +kernel), by decide +kernel, by decide +kernel, by decide +kernel, by decide +kernel, by decide +kernel,
  by decide +kernel, by decide +kernel, by decide +kernel, by decide +kernel, by decide +kernel⟩,
   ⟨0, (curOf (S_ModeSets.getD 2 live) (0 : Fin 128)), (S_ModeSets.getD 2 live), canonOf (by decide +kernel),
  takenOf (by decide +kernel), by decide +kernel, by decide +kernel, by decide +kernel, by decide +kernel, by decide +kernel,
  by decide +kernel, by decide +kernel, by decide +kernel, by decide +kernel, by decide +kernel⟩⟩

theorem test_ModeTimers :
    (∃ (p : Fin 4) (s : State), Canon s ∧ ∃ w, (s.port p).modeWait = some w ∧ w.resend ≤ s.now ∧ (s.port p).link.reformWait = none ∧
  s.sends p = true) ∧
    (∃ (p : Fin 4) (s : State), Canon s ∧ ∃ w, (s.port p).modeWait = some w ∧ w.use = ModeUse.change ∧ w.since + msTicks 1000 ≤ s.now ∧
  (s.port p).link.reformWait = none) ∧
    (∃ (p : Fin 4) (s : State), Canon s ∧ (s.port p).phase = .starting ∧ due (s.port p).startBy s.now = true ∧ ((∀ q, q < 4 → (s.port
  q).modeQueue = [])) ∧ ((∀ x ∈ s.ledger, ∀ c ∈ x.cmds, c.op = 6 → c.phase ≠ .running)) ∧ ∃ (id : Nat) (e : Entry), (s.port p).startId
  = some id ∧ Completing s id e) ∧
    (∃ (p : Fin 4) (s : State), Canon s ∧ due (s.port p).link.holdEnd s.now = true) :=
  ⟨⟨0, (S_ModeTimers.getD 0 live), canonOf (by decide +kernel),
  ((((S_ModeTimers.getD 0 live).port (0 : Fin 4)).modeWait).get (by decide +kernel)), by decide +kernel, by decide +kernel,
  by decide +kernel, by decide +kernel⟩,
   ⟨0, (S_ModeTimers.getD 2 live), canonOf (by decide +kernel),
  ((((S_ModeTimers.getD 2 live).port (0 : Fin 4)).modeWait).get (by decide +kernel)), by decide +kernel, by decide +kernel,
  by decide +kernel, by decide +kernel⟩,
   ⟨0, (S_ModeTimers.getD 4 live), canonOf (by decide +kernel), by decide +kernel, by decide +kernel, by decide +kernel,
  by decide +kernel, 1, (the (S_ModeTimers.getD 4 live) 1), by decide +kernel, completingOf (by decide +kernel)⟩,
   ⟨2, (S_ModeTimers.getD 6 live), canonOf (by decide +kernel), by decide +kernel⟩⟩

theorem test_AlmanacLoads :
    (∃ (id : Nat) (e : Entry) (s : State), Canon s ∧ Completing s id e ∧ ∃ o, e.desc.opcode = opCalLoad ∧ e.started = false ∧ s.noWait e
  = true ∧ s.objOf (e.desc.w 2) = some o ∧ ∃ f, s.calFail e.desc o = some f) ∧
    (∃ (id : Nat) (e : Entry) (s : State), Canon s ∧ Completing s id e ∧ (let p := (e.desc.calPort); ∃ bs h, e.job = .calLoad bs h ∧
  (s.port p).calLoads.contains id = false ∧ (s.port p).ray.fadeId ≠ some id ∧ (s.port p).phase = .stopped)) ∧
    (∃ (id : Nat) (e : Entry) (s : State), Canon s ∧ Completing s id e ∧ (let p := (e.desc.calPort); ∃ bs h, e.job = .calLoad bs h ∧
  (s.port p).calLoads.contains id = false ∧ (s.port p).ray.fadeId ≠ some id ∧ (s.port p).phase ≠ .stopped)) :=
  ⟨⟨1, (the (S_AlmanacLoads.getD 0 live) 1), (S_AlmanacLoads.getD 0 live), canonOf (by decide +kernel),
  completingOf (by decide +kernel), (((S_AlmanacLoads.getD 0 live).objOf ((the (S_AlmanacLoads.getD 0 live) 1).desc.w 2)).get
  (by decide +kernel)), by decide +kernel, by decide +kernel, by decide +kernel, by decide +kernel, (((S_AlmanacLoads.getD 0
  live).calFail (the (S_AlmanacLoads.getD 0 live) 1).desc (((S_AlmanacLoads.getD 0 live).objOf ((the (S_AlmanacLoads.getD 0 live)
  1).desc.w 2)).get (by decide +kernel))).get (by decide +kernel)), by decide +kernel⟩,
   ⟨1, (the (S_AlmanacLoads.getD 2 live) 1), (S_AlmanacLoads.getD 2 live), canonOf (by decide +kernel),
  completingOf (by decide +kernel), [1, 2, 3], 9, by decide +kernel, by decide +kernel, by decide +kernel, by decide +kernel⟩,
   ⟨1, (the (S_AlmanacLoads.getD 3 live) 1), (S_AlmanacLoads.getD 3 live), canonOf (by decide +kernel),
  completingOf (by decide +kernel), [1, 2, 3], 9, by decide +kernel, by decide +kernel, by decide +kernel, by decide +kernel⟩⟩

theorem test_CalibrationMeasures :
    (∃ (s : State), Canon s ∧ ∃ (r : Fin 128) (d : Desc), Taken s r opCalMeasure d ∧ s.goesAtOnce d ∧ d.calKind = 0) ∧
    (∃ (s : State), Canon s ∧ ∃ (r : Fin 128) (d : Desc), Taken s r opCalMeasure d ∧ s.goesAtOnce d ∧ d.calKind = 1 ∧ s.photoFail d =
  none) ∧
    (∃ (s : State), Canon s ∧ ∃ (id : Nat) (n : Nat) (f0 : Nat) (e : Entry) (rep : Timer) (safe : Bool) (x : CalReading) (xs : List
  CalReading), s.entry id = some e ∧ e.job = .calMeasure [] rep n f0 safe ∧ (if e.desc.calKind = 0 then e.started && due rep s.now
  else decide (n = 2)) = true) ∧
    (∃ (s : State), Canon s ∧ ∃ (id : Nat) (n : Nat) (f0 : Nat) (e : Entry) (rep : Timer) (safe : Bool) (x : CalReading) (xs : List
  CalReading) (ys : List CalReading), Completing s id e ∧ e.job = .calMeasure (x :: xs) rep n f0 safe ∧ ((e.desc.calKind ≠ 0 → 4 ≤ n))
  ∧ (let fails :=
  (if e.desc.calKind = 0 then measureFail e.desc.channels electricalWindow electricalRepeat (x :: xs) ys
                else measureFail e.desc.channels (photoWindow (s.field 0x900C 11 0)) photoRepeat (x :: xs) ys); ∃
  reason c, fails = some (reason, c))) ∧
    (∃ (s : State), Canon s ∧ ∃ (id : Nat) (n : Nat) (f0 : Nat) (e : Entry) (rep : Timer) (safe : Bool) (x : CalReading) (xs : List
  CalReading) (ys : List CalReading), Completing s id e ∧ e.job = .calMeasure (x :: xs) rep n f0 safe ∧ ((e.desc.calKind ≠ 0 → 4 ≤ n))
  ∧ (let fails :=
  (if e.desc.calKind = 0 then measureFail e.desc.channels electricalWindow electricalRepeat (x :: xs) ys
                else measureFail e.desc.channels (photoWindow (s.field 0x900C 11 0)) photoRepeat (x :: xs) ys); fails
  = none ∧ e.desc.calKind = 0)) ∧
    (∃ (s : State), Canon s ∧ ∃ (id : Nat) (n : Nat) (f0 : Nat) (e : Entry) (rep : Timer) (safe : Bool) (x : CalReading) (xs : List
  CalReading) (ys : List CalReading), Completing s id e ∧ e.job = .calMeasure (x :: xs) rep n f0 safe ∧ ((e.desc.calKind ≠ 0 → 4 ≤ n))
  ∧ (let fails :=
  (if e.desc.calKind = 0 then measureFail e.desc.channels electricalWindow electricalRepeat (x :: xs) ys
                else measureFail e.desc.channels (photoWindow (s.field 0x900C 11 0)) photoRepeat (x :: xs) ys); fails
  = none ∧ e.desc.calKind ≠ 0 ∧ safe = false)) :=
  ⟨⟨(S_CalibrationMeasures.getD 0 live), canonOf (by decide +kernel), 0, (curOf (S_CalibrationMeasures.getD 0 live) (0 : Fin 128)),
  takenOf (by decide +kernel), by unfold State.goesAtOnce; decide +kernel, by decide +kernel⟩,
   ⟨(S_CalibrationMeasures.getD 2 live), canonOf (by decide +kernel), 0, (curOf (S_CalibrationMeasures.getD 2 live) (0 : Fin 128)),
  takenOf (by decide +kernel), by unfold State.goesAtOnce; decide +kernel, by decide +kernel, by decide +kernel⟩,
   ⟨(S_CalibrationMeasures.getD 11 live), canonOf (by decide +kernel), 1, 4, 4, (the (S_CalibrationMeasures.getD 11 live) 1), (some 4),
  true, goodR.head (by decide +kernel), [], by decide +kernel, by decide +kernel, by decide +kernel⟩,
   ⟨(S_CalibrationMeasures.getD 13 live), canonOf (by decide +kernel), 1, 4, 4, (the (S_CalibrationMeasures.getD 13 live) 1), (some 4),
  true, rd 0 1024 32768 64512, [rd 8 1000 40000 0], badR, completingOf (by decide +kernel), by decide +kernel, by decide +kernel,
  (((if (the (S_CalibrationMeasures.getD 13 live) 1).desc.calKind = 0 then measureFail (the (S_CalibrationMeasures.getD 13 live) 1).desc.channels electricalWindow electricalRepeat ((rd 0 1024 32768 64512) :: ([rd 8 1000 40000 0])) badR
                else measureFail (the (S_CalibrationMeasures.getD 13 live) 1).desc.channels (photoWindow ((S_CalibrationMeasures.getD 13 live).field 0x900C 11 0)) photoRepeat ((rd 0 1024 32768 64512) :: ([rd 8 1000 40000 0])) badR)).get
  (by decide +kernel)).1,
  (((if (the (S_CalibrationMeasures.getD 13 live) 1).desc.calKind = 0 then measureFail (the (S_CalibrationMeasures.getD 13 live) 1).desc.channels electricalWindow electricalRepeat ((rd 0 1024 32768 64512) :: ([rd 8 1000 40000 0])) badR
                else measureFail (the (S_CalibrationMeasures.getD 13 live) 1).desc.channels (photoWindow ((S_CalibrationMeasures.getD 13 live).field 0x900C 11 0)) photoRepeat ((rd 0 1024 32768 64512) :: ([rd 8 1000 40000 0])) badR)).get
  (by decide +kernel)).2, by decide +kernel⟩,
   ⟨(S_CalibrationMeasures.getD 13 live), canonOf (by decide +kernel), 1, 4, 4, (the (S_CalibrationMeasures.getD 13 live) 1), (some 4),
  true, rd 0 1024 32768 64512, [rd 8 1000 40000 0], goodR, completingOf (by decide +kernel), by decide +kernel, by decide +kernel,
  by decide +kernel, by decide +kernel⟩,
   ⟨(S_CalibrationMeasures.getD 26 live), canonOf (by decide +kernel), 1, 4, 4, (the (S_CalibrationMeasures.getD 26 live) 1), (some 4),
  false, rd 0 1024 32768 64512, [rd 8 1000 40000 0], goodR, completingOf (by decide +kernel), by decide +kernel, by decide +kernel,
  by decide +kernel, by decide +kernel, by decide +kernel⟩⟩

theorem test_CalibrationStores :
    (∃ (s : State), Canon s ∧ ∃ (r : Fin 128) (d : Desc), Taken s r opCalStore d ∧ s.goesAtOnce d ∧ d.f 2 3 0 ≠ 0 ∧ s.sense.writing =
  none ∧ s.boardInside = true) ∧
    (∃ (s : State), Canon s ∧ ∃ (r : Fin 128) (d : Desc), Taken s r opCalStore d ∧ s.goesAtOnce d ∧ d.f 2 3 0 ≠ 0 ∧ s.sense.writing =
  none ∧ s.boardInside = false ∧ s.sense.boardRun < 10 ∧ s.flt.fatalHold = false) ∧
    (∃ (s : State), Canon s ∧ ∃ (id : Nat) (e : Entry) (d : StoreData) (slot : Bool), Completing s id e ∧ s.sense.writing = some (some
  id, d, slot)) ∧
    (∃ (s : State), Canon s ∧ ∃ (id : Nat) (e : Entry) (d : StoreData) (slot : Bool), Completing s id e ∧ s.sense.writing = some (some
  id, d, slot)) ∧
    (∃ (s : State), Canon s ∧ ∃ (id : Nat) (e : Entry) (d : StoreData) (slot : Bool), Completing s id e ∧ s.sense.writing = some (some
  id, d, slot)) :=
  ⟨⟨(S_CalibrationStores.getD 0 live), canonOf (by decide +kernel), 0, (curOf (S_CalibrationStores.getD 0 live) (0 : Fin 128)),
  takenOf (by decide +kernel), by unfold State.goesAtOnce; decide +kernel, by decide +kernel, by decide +kernel, by decide +kernel⟩,
   ⟨(S_CalibrationStores.getD 1 live), canonOf (by decide +kernel), 0, (curOf (S_CalibrationStores.getD 1 live) (0 : Fin 128)),
  takenOf (by decide +kernel), by unfold State.goesAtOnce; decide +kernel, by decide +kernel, by decide +kernel, by decide +kernel,
  by decide +kernel, by decide +kernel⟩,
   ⟨(S_CalibrationStores.getD 10 live), canonOf (by decide +kernel), 1, (the (S_CalibrationStores.getD 10 live) 1),
  ({ StoreData.reset with alms := [⟨1, 2, 3, 4, 5⟩] } : StoreData), true, completingOf (by decide +kernel), by decide +kernel⟩,
   ⟨(S_CalibrationStores.getD 10 live), canonOf (by decide +kernel), 1, (the (S_CalibrationStores.getD 10 live) 1),
  ({ StoreData.reset with alms := [⟨1, 2, 3, 4, 5⟩] } : StoreData), true, completingOf (by decide +kernel), by decide +kernel⟩,
   ⟨(S_CalibrationStores.getD 10 live), canonOf (by decide +kernel), 1, (the (S_CalibrationStores.getD 10 live) 1),
  ({ StoreData.reset with alms := [⟨1, 2, 3, 4, 5⟩] } : StoreData), true, completingOf (by decide +kernel), by decide +kernel⟩⟩

theorem test_RayMapChecks :
    (∃ (p : Fin 4) (s : State), Canon s ∧ ∃ f k, (s.port p).lastFixed = some (f, k)) ∧
    (∃ (p : Fin 4) (s : State), Canon s ∧ ∃ f k, (s.port p).lastFixed = some (f, k) ∧ ∃ (upset : Word), upset ≠ 0) ∧
    (∃ (p : Fin 4) (s : State), Canon s ∧ ∃ (which : Fin 3) (a : Almanac), (s.port p).ray.copy which = some a) ∧
    (∃ (p : Fin 4) (s : State), Canon s ∧ ∃ (which : Fin 3) (a : Almanac), (s.port p).ray.copy which = some a ∧ ∃ (damage : Word), damage
  ≠ 0) :=
  ⟨⟨0, (S_RayMapChecks.getD 2 live), canonOf (by decide +kernel),
  ((((S_RayMapChecks.getD 2 live).port (0 : Fin 4)).lastFixed).get (by decide +kernel)).1, 0, by decide +kernel⟩,
   ⟨0, (S_RayMapChecks.getD 0 live), canonOf (by decide +kernel),
  ((((S_RayMapChecks.getD 0 live).port (0 : Fin 4)).lastFixed).get (by decide +kernel)).1, 0, by decide +kernel, 1, by decide +kernel⟩,
   ⟨0, (S_RayMapChecks.getD 1 live), canonOf (by decide +kernel), 0,
  ((((S_RayMapChecks.getD 1 live).port (0 : Fin 4)).ray.copy (0 : Fin 3)).get (by decide +kernel)), by decide +kernel⟩,
   ⟨0, (S_RayMapChecks.getD 1 live), canonOf (by decide +kernel), 0,
  ((((S_RayMapChecks.getD 1 live).port (0 : Fin 4)).ray.copy (0 : Fin 3)).get (by decide +kernel)), by decide +kernel, 1,
  by decide +kernel⟩⟩

theorem test_TideProgramsAndPulses :
    (∃ (r : Fin 128) (d : Desc) (block : HostRead) (s : State), Canon s ∧ s.flt.fatalHold = false ∧ Taken s r opTideProgram d ∧
  s.goesAtOnce d ∧ (let n := (d.tideTarget); (let g := (outProg (bytesAt block.bytes 0 32)); n < 8 ∧ block.fail = none ∧ outFail
  block.bytes = none ∧ s.outLineFail g = none ∧ (s.out n).active = false))) ∧
    (∃ (r : Fin 128) (d : Desc) (block : HostRead) (s : State), Canon s ∧ s.flt.fatalHold = false ∧ Taken s r opTideProgram d ∧
  s.goesAtOnce d ∧ (let n := (d.tideTarget); (let g := (outProg (bytesAt block.bytes 0 32)); n < 8 ∧ block.fail = none ∧ outFail
  block.bytes = none ∧ s.outLineFail g = none ∧ (s.out n).active = true))) ∧
    (∃ (r : Fin 128) (d : Desc) (block : HostRead) (s : State), Canon s ∧ s.flt.fatalHold = false ∧ Taken s r opTideProgram d ∧
  s.goesAtOnce d ∧ (let n := (d.tideTarget); 8 ≤ n ∧ n < 12 ∧ block.fail = none ∧ capFail block.bytes = none)) ∧
    (∃ (r : Fin 128) (d : Desc) (block : HostRead) (s : State), Canon s ∧ s.flt.fatalHold = false ∧ Taken s r opTideProgram d ∧
  s.goesAtOnce d ∧ (let n := (d.tideTarget); n = 12 ∧ s.armFail = none ∧ s.tide.valid < 8)) ∧
    (∃ (s : State), Canon s ∧ ∃ (n : Fin 8) (u : Nat), (s.out n).active = false ∧ (s.out n).prog.mode ≠ 3 ∧ (s.out n).nextAt = some u ∧
  s.tideReached u = true ∧ ¬ ((s.out n).prog.mode = 1 ∧ s.field (0x8040 + 4 * n) 8 8 = 1)) ∧
    (∃ (s : State), Canon s ∧ ∃ (n : Fin 8) (u : Nat), (s.out n).active = true ∧ (s.out n).ends = some u ∧ s.tideReached u = true ∧
  (s.out n).waiting = []) ∧
    (∃ (s : State), Canon s ∧ ∃ (n : Fin 4) (rising : Bool), (s.cap n).takes rising = true ∧ ((∀ x, (s.cap n).lastEdge = some x → x + 24
  ≤ s.now))) :=
  ⟨⟨0, (curOf (S_TideProgramsAndPulses.getD 0 live) (0 : Fin 128)), (R_TideProgramsAndPulses.getD 0 { bytes := [], fail := none }),
  (S_TideProgramsAndPulses.getD 0 live), canonOf (by decide +kernel), by decide +kernel, takenOf (by decide +kernel),
  by unfold State.goesAtOnce; decide +kernel, by decide +kernel, by decide +kernel, by decide +kernel, by decide +kernel,
  by decide +kernel⟩,
   ⟨0, (curOf (S_TideProgramsAndPulses.getD 1 live) (0 : Fin 128)), (R_TideProgramsAndPulses.getD 0 { bytes := [], fail := none }),
  (S_TideProgramsAndPulses.getD 1 live), canonOf (by decide +kernel), by decide +kernel, takenOf (by decide +kernel),
  by unfold State.goesAtOnce; decide +kernel, by decide +kernel, by decide +kernel, by decide +kernel, by decide +kernel,
  by decide +kernel⟩,
   ⟨0, (curOf (S_TideProgramsAndPulses.getD 4 live) (0 : Fin 128)), (R_TideProgramsAndPulses.getD 3 { bytes := [], fail := none }),
  (S_TideProgramsAndPulses.getD 4 live), canonOf (by decide +kernel), by decide +kernel, takenOf (by decide +kernel),
  by unfold State.goesAtOnce; decide +kernel, by decide +kernel, by decide +kernel, by decide +kernel, by decide +kernel⟩,
   ⟨0, (curOf (S_TideProgramsAndPulses.getD 30 live) (0 : Fin 128)), (R_TideProgramsAndPulses.getD 0 { bytes := [], fail := none }),
  (S_TideProgramsAndPulses.getD 30 live), canonOf (by decide +kernel), by decide +kernel, takenOf (by decide +kernel),
  by unfold State.goesAtOnce; decide +kernel, by decide +kernel, by decide +kernel, by decide +kernel⟩,
   ⟨(S_TideProgramsAndPulses.getD 8 live), canonOf (by decide +kernel), 0, 21474836480000, by decide +kernel, by decide +kernel,
  by decide +kernel, by decide +kernel, by decide +kernel⟩,
   ⟨(S_TideProgramsAndPulses.getD 9 live), canonOf (by decide +kernel), 0, 25769803776000, by decide +kernel, by decide +kernel,
  by decide +kernel, by decide +kernel⟩,
   ⟨(S_TideProgramsAndPulses.getD 24 live), canonOf (by decide +kernel), 0, true, by decide +kernel, by decide +kernel⟩⟩

theorem test_TideDiscipline :
    (∃ (s : State), Canon s ∧ s.power.boot ≠ .inReset ∧ s.ptmEnabled = true ∧ s.tide.dialogue = none ∧ due s.tide.dialogueAt s.now = true) ∧
    (∃ (s : State), Canon s ∧ ∃ at_ sent, s.tide.dialogue = some (at_, sent) ∧ at_ + 150000 ≤ s.now) ∧
    (∃ (s : State), Canon s ∧ ∃ (at_ : Nat) (sent : Nat) (master : Nat) (turnaround : Nat), s.tide.dialogue = some (at_, sent) ∧ (let rtt
  : Int := ((s.tideUnits : Int) - sent - turnaround * 2 ^ 32); (s.rttMax * 2 ^ 32 : Nat) < rtt)) ∧
    (∃ (s : State), Canon s ∧ ∃ (at_ : Nat) (sent : Nat) (master : Nat) (turnaround : Nat), s.tide.dialogue = some (at_, sent) ∧ (let rtt
  : Int := ((s.tideUnits : Int) - sent - turnaround * 2 ^ 32); rtt ≤ (s.rttMax * 2 ^ 32 : Nat))) ∧
    (∃ (s : State), Canon s ∧ s.tide.phase = .discont) :=
  ⟨⟨(S_TideDiscipline.getD 0 live), canonOf (by decide +kernel), by decide +kernel, by decide +kernel, by decide +kernel,
  by decide +kernel⟩,
   ⟨(S_TideDiscipline.getD 1 live), canonOf (by decide +kernel), 1000, 1717986918400000, by decide +kernel, by decide +kernel⟩,
   ⟨(S_TideDiscipline.getD 1 live), canonOf (by decide +kernel), 1000, 1717986918400000, 0, 0, by decide +kernel, by decide +kernel⟩,
   ⟨(S_TideDiscipline.getD 1 live), canonOf (by decide +kernel), 1000, 1717986918400000, 0, 599000, by decide +kernel,
  by decide +kernel⟩,
   ⟨(S_TideDiscipline.getD 5 live), canonOf (by decide +kernel), by decide +kernel⟩⟩

theorem test_HarbourmasterMoves :
    (∃ (s : State), Canon s ∧ s.flt.fatalHold = false ∧ s.sense.tripped = false ∧ ∃ (tile : Nat) (src : Place) (dest : Place), tabFind
  s.harb.places tile = some src ∧ s.harb.unreadable.contains tile = false ∧ s.moveTurn tile src = true ∧ s.roomAt src dest = true) ∧
    (∃ (s : State), Canon s ∧ s.flt.fatalHold = false ∧ s.sense.tripped = false ∧ ∃ (tile : Nat) (c : Fin 16) (dest : Place), tabFind
  s.harb.places tile = some (.dram c) ∧ s.harb.unreadable.contains tile = false ∧ s.moveTurn tile (.dram c) = true ∧ (s.chan c).phase
  = .retiring) ∧
    (∃ (s : State), Canon s ∧ s.flt.fatalHold = false ∧ s.sense.tripped = false ∧ ∃ (c : Fin 16), s.harb.relocating.contains c.val = true
  ∧ (s.readableTiles c = [] ∨ s.channelRoom = false)) ∧
    (∃ (s : State), Canon s ∧ s.flt.fatalHold = false ∧ s.sense.tripped = false) :=
  ⟨⟨(S_HarbourmasterMoves.getD 0 live), canonOf (by decide +kernel), by decide +kernel, by decide +kernel, 0,
  (Sys2Proof.Place.chandlery), (Sys2Proof.Place.dram 0), by decide +kernel, by decide +kernel, by decide +kernel, by decide +kernel⟩,
   ⟨(S_HarbourmasterMoves.getD 1 live), canonOf (by decide +kernel), by decide +kernel, by decide +kernel, 0, 0,
  (Sys2Proof.Place.chandlery), by decide +kernel, by decide +kernel, by decide +kernel, by decide +kernel⟩,
   ⟨(S_HarbourmasterMoves.getD 2 live), canonOf (by decide +kernel), by decide +kernel, by decide +kernel, 0, by decide +kernel,
  by decide +kernel⟩,
   ⟨(S_HarbourmasterMoves.getD 0 live), canonOf (by decide +kernel), by decide +kernel, by decide +kernel⟩⟩

theorem test_SlotsSent :
    (∃ (p : Fin 4) (s : State), Canon s ∧ s.power.boot ≠ .inReset ∧ s.follower p = false ∧ (let q := (s.port p); q.phase = .running ∧
  q.slotTick q.next ≤ s.now ∧ q.next ≠ q.boundary)) ∧
    (∃ (p : Fin 4) (s : State), Canon s ∧ s.power.boot ≠ .inReset ∧ s.follower p = false ∧ (let q := (s.port p); q.phase = .stopped ∧
  q.link.holdEnd ≠ none ∧ q.slotTick q.next ≤ s.now ∧ q.link.later = [])) ∧
    (∃ (p : Fin 4) (s : State), Canon s ∧ s.power.boot ≠ .inReset ∧ s.follower p = false ∧ (let q := (s.port p); ∃ o, q.line = some o ∧
  o.seg + 1 < q.mode.segments ∧ q.slotTick o.slot + q.link.segTicks o.seg ≤ s.now ∧ o.under = false ∧ (let key :=
  (segKey q.frame (q.placeOf o.slot).1 (q.placeOf o.slot).2 o.seg); ∃ ws, tabFind q.lead key = some ws))) ∧
    (∃ (p : Fin 4) (s : State), Canon s ∧ s.power.boot ≠ .inReset ∧ s.follower p = false ∧ (let q := (s.port p); ∃ o, q.line = some o ∧
  o.seg + 1 < q.mode.segments ∧ q.slotTick o.slot + q.link.segTicks o.seg ≤ s.now ∧ o.under = false ∧ (let key :=
  (segKey q.frame (q.placeOf o.slot).1 (q.placeOf o.slot).2 o.seg); tabFind q.lead key = none))) ∧
    (∃ (p : Fin 4) (s : State), Canon s ∧ s.power.boot ≠ .inReset ∧ s.follower p = false) :=
  ⟨⟨0, (S_SlotsSent.getD 0 live), canonOf (by decide +kernel), by decide +kernel, by decide +kernel, by decide +kernel,
  by decide +kernel, by decide +kernel⟩,
   ⟨0, (S_SlotsSent.getD 4 live), canonOf (by decide +kernel), by decide +kernel, by decide +kernel, by decide +kernel,
  by decide +kernel, by decide +kernel, by decide +kernel⟩,
   ⟨0, (S_SlotsSent.getD 7 live), canonOf (by decide +kernel), by decide +kernel, by decide +kernel,
  ((((S_SlotsSent.getD 7 live).port (0 : Fin 4)).line).get (by decide +kernel)), by decide +kernel, by decide +kernel,
  by decide +kernel, by decide +kernel, ((tabFind ((S_SlotsSent.getD 7 live).port (0 : Fin 4)).lead
  (segKey ((S_SlotsSent.getD 7 live).port (0 : Fin 4)).frame (((S_SlotsSent.getD 7 live).port (0 : Fin 4)).placeOf ((((S_SlotsSent.getD 7 live).port (0 : Fin 4)).line).get (by decide +kernel)).slot).1 (((S_SlotsSent.getD 7 live).port (0 : Fin 4)).placeOf ((((S_SlotsSent.getD 7 live).port (0 : Fin 4)).line).get (by decide +kernel)).slot).2 ((((S_SlotsSent.getD 7 live).port (0 : Fin 4)).line).get (by decide +kernel)).seg)).get
  (by decide +kernel)), by decide +kernel⟩,
   ⟨0, (S_SlotsSent.getD 9 live), canonOf (by decide +kernel), by decide +kernel, by decide +kernel,
  ((((S_SlotsSent.getD 9 live).port (0 : Fin 4)).line).get (by decide +kernel)), by decide +kernel, by decide +kernel,
  by decide +kernel, by decide +kernel, by decide +kernel⟩,
   ⟨0, (S_SlotsSent.getD 0 live), canonOf (by decide +kernel), by decide +kernel, by decide +kernel⟩⟩

theorem test_TilesWoven :
    (∃ (s : State), Canon s ∧ s.weaves = true ∧ ∃ (k : Fin 128), tabFind s.shuttles k = none ∧ (let u :=
  (forN 4 (fun p s => s.abandonRows p) s); ∃ (dl : Nat) (p : Nat) (r : TileRow), earliest u.candidates = some (dl, p, some r))) ∧
    (∃ (s : State), Canon s ∧ s.weaves = true ∧ ∃ (k : Fin 128), tabFind s.shuttles k = none ∧ (let u :=
  (forN 4 (fun p s => s.abandonRows p) s); ∃ (dl : Nat) (p : Nat), earliest u.candidates = some (dl, p, none))) ∧
    (∃ (s : State), Canon s ∧ s.weaves = true ∧ ∃ (k : Fin 128), tabFind s.shuttles k = none ∧ (let u :=
  (forN 4 (fun p s => s.abandonRows p) s); earliest u.candidates = none)) ∧
    (∃ (s : State), Canon s ∧ s.weaves = true ∧ ∃ (k : Fin 128) (sh : Shuttle) (f : FrameState), tabFind s.shuttles k = some sh ∧
  sh.witness = false ∧ sh.from_ ≤ s.now ∧ (s.port sh.port).lead.length < leadRoom ∧ (s.port sh.lead).frameOf sh.frame = some f) ∧
    (∃ (s : State), Canon s ∧ s.weaves = true ∧ ∃ (p : Fin 4) (k : Nat) (sh : Shuttle), s.shuttles.find? (fun x => x.2.witness && decide
  (x.2.port = p.val) && decide (x.2.from_ ≤ s.now)) = some (k, sh) ∧ (s.port p).frameOf sh.frame = none) ∧
    (∃ (s : State), Canon s ∧ s.weaves = true ∧ ∃ (p : Fin 4) (k : Nat) (sh : Shuttle), s.shuttles.find? (fun x => x.2.witness && decide
  (x.2.port = p.val) && decide (x.2.from_ ≤ s.now)) = some (k, sh) ∧ ∃ f, (s.port p).frameOf sh.frame = some f) :=
  ⟨⟨(S_TilesWoven.getD 0 live), canonOf (by decide +kernel), by decide +kernel, 0, by decide +kernel, 8, 0,
  ({ rowW with row := 1, deadline := 8 } : TileRow), by decide +kernel⟩,
   ⟨(S_TilesWoven.getD 6 live), canonOf (by decide +kernel), by decide +kernel, 0, by decide +kernel, 8, 0, by decide +kernel⟩,
   ⟨(S_TilesWoven.getD 5 live), canonOf (by decide +kernel), by decide +kernel, 0, by decide +kernel, by decide +kernel⟩,
   ⟨(S_TilesWoven.getD 7 live), canonOf (by decide +kernel), by decide +kernel, 0,
  ((tabFind (S_TilesWoven.getD 7 live).shuttles (0 : Fin 128)).get (by decide +kernel)), ((((S_TilesWoven.getD 7 live).port ((tabFind
  (S_TilesWoven.getD 7 live).shuttles (0 : Fin 128)).get (by decide +kernel)).lead).frameOf ((tabFind (S_TilesWoven.getD 7
  live).shuttles (0 : Fin 128)).get (by decide +kernel)).frame).get (by decide +kernel)), by decide +kernel, by decide +kernel,
  by decide +kernel, by decide +kernel, by decide +kernel⟩,
   ⟨(S_TilesWoven.getD 4 live), canonOf (by decide +kernel), by decide +kernel, 0, 1, (((S_TilesWoven.getD 4 live).shuttles.find? (fun
  x => x.2.witness && decide (x.2.port = (0 : Fin 4).val) && decide (x.2.from_ ≤ (S_TilesWoven.getD 4 live).now))).get
  (by decide +kernel)).2, by decide +kernel, by decide +kernel⟩,
   ⟨(S_TilesWoven.getD 3 live), canonOf (by decide +kernel), by decide +kernel, 0, 0, (((S_TilesWoven.getD 3 live).shuttles.find? (fun
  x => x.2.witness && decide (x.2.port = (0 : Fin 4).val) && decide (x.2.from_ ≤ (S_TilesWoven.getD 3 live).now))).get
  (by decide +kernel)).2, by decide +kernel, ((((S_TilesWoven.getD 3 live).port (0 : Fin 4)).frameOf ((((S_TilesWoven.getD 3
  live).shuttles.find? (fun x => x.2.witness && decide (x.2.port = (0 : Fin 4).val) && decide (x.2.from_ ≤ (S_TilesWoven.getD 3
  live).now))).get (by decide +kernel)).2).frame).get (by decide +kernel)), by decide +kernel⟩⟩

theorem test_WeaveAndCaptures :
    (∃ (s : State), Canon s ∧ ∃ (p : Fin 4) (dropped : List Nat) (c : Capture) (o : Obj) (f : FrameState), (s.port p).capture = some c ∧
  s.objOf c.handle = some o ∧ (s.port p).frameOf c.frame = some f ∧ o.lost = none ∧ (∀ j ∈ dropped, j < o.height)) ∧
    (∃ (s : State), Canon s ∧ ∃ (p : Fin 4) (dropped : List Nat), (s.port p).capture = none) ∧
    (∃ (s : State), Canon s) :=
  ⟨⟨(S_WeaveAndCaptures.getD 5 live), canonOf (by decide +kernel), 0, [],
  ((((S_WeaveAndCaptures.getD 5 live).port (0 : Fin 4)).capture).get (by decide +kernel)), (((S_WeaveAndCaptures.getD 5 live).objOf
  ((((S_WeaveAndCaptures.getD 5 live).port (0 : Fin 4)).capture).get (by decide +kernel)).handle).get (by decide +kernel)),
  ((((S_WeaveAndCaptures.getD 5 live).port (0 : Fin 4)).frameOf ((((S_WeaveAndCaptures.getD 5 live).port (0 : Fin 4)).capture).get
  (by decide +kernel)).frame).get (by decide +kernel)), by decide +kernel, by decide +kernel, by decide +kernel, by decide +kernel,
  by decide +kernel⟩,
   ⟨(S_WeaveAndCaptures.getD 0 live), canonOf (by decide +kernel), 0, [], by decide +kernel⟩,
   ⟨(S_WeaveAndCaptures.getD 0 live), canonOf (by decide +kernel)⟩⟩

theorem test_SafeStateAndActivation :
    (∃ (s : State), ∃ (level : Bool), s.power.boot ≠ .inReset ∧ level ≠ s.power.safeLevel ∧ ((∀ e, s.power.safeEdge = some e → e <
  s.now))) ∧
    (∃ (s : State), ∃ (level : Bool), s.power.boot ≠ .inReset ∧ level ≠ s.power.safeLevel ∧ ∃ e, s.power.safeEdge = some e ∧ s.now ≤ e) ∧
    (∃ (s : State), ∃ (level : Bool), s.power.boot = .inReset) ∧
    (∃ (s : State), ∃ x, s.power.safeEdge = some x ∧ x + 1500 ≤ s.now ∧ s.power.safeLevel = false ∧ s.power.safeApplied = false) ∧
    (∃ (s : State), ∃ x, s.power.safeEdge = some x ∧ x + 1500 ≤ s.now ∧ s.power.safeLevel = true ∧ s.power.safeApplied = true) ∧
    (∃ (p : Fin 4) (s : State), Canon s ∧ tabSorted s.wcapts ∧ s.activationResult p = 1 ∧ (s.port p).phase ≠ .stopped) ∧
    (∃ (p : Fin 4) (s : State), Canon s ∧ tabSorted s.wcapts ∧ s.activationResult p = 1 ∧ (s.port p).phase = .stopped) ∧
    (∃ (p : Fin 4) (s : State), Canon s ∧ tabSorted s.wcapts ∧ s.activationResult p ≠ 1) ∧
    (∃ (p : Fin 4) (s : State), Canon s ∧ tabSorted s.wcapts) ∧
    (∃ (p : Fin 4) (s : State), Canon s ∧ tabSorted s.wcapts) :=
  ⟨⟨(S_SafeStateAndActivation.getD 0 live), false, by decide +kernel, by decide +kernel, by decide +kernel⟩,
   ⟨(S_SafeStateAndActivation.getD 2 live), true, by decide +kernel, by decide +kernel, 1200, by decide +kernel, by decide +kernel⟩,
   ⟨(S_SafeStateAndActivation.getD 7 live), false, by decide +kernel⟩,
   ⟨(S_SafeStateAndActivation.getD 8 live), 1200, by decide +kernel, by decide +kernel, by decide +kernel, by decide +kernel⟩,
   ⟨(S_SafeStateAndActivation.getD 9 live), 5, by decide +kernel, by decide +kernel, by decide +kernel, by decide +kernel⟩,
   ⟨0, (S_SafeStateAndActivation.getD 6 live), canonOf (by decide +kernel), by unfold tabSorted; decide +kernel, by decide +kernel,
  by decide +kernel⟩,
   ⟨0, (S_SafeStateAndActivation.getD 5 live), canonOf (by decide +kernel), by unfold tabSorted; decide +kernel, by decide +kernel,
  by decide +kernel⟩,
   ⟨0, (S_SafeStateAndActivation.getD 0 live), canonOf (by decide +kernel), by unfold tabSorted; decide +kernel, by decide +kernel⟩,
   ⟨0, (S_SafeStateAndActivation.getD 0 live), canonOf (by decide +kernel), by unfold tabSorted; decide +kernel⟩,
   ⟨0, (S_SafeStateAndActivation.getD 0 live), canonOf (by decide +kernel), by unfold tabSorted; decide +kernel⟩⟩

theorem test_WatchFrames :
    (∃ (mosi : List Byte) (s : State), Canon s ∧ s.power.boot ≠ .inReset ∧ s.power.boot ≠ .failed ∧ s.power.purserUp = true ∧ (let op :=
  (leAt mosi 0 1); (let len := (leAt mosi 2 2); (let addr := (leAt mosi 4 4); (let n := (8 + (if op = 2 then len else 0)); (let good
  := (n + 4 ≤ mosi.length ∧ crc32c s.wpSeq (mosi.take n) = leAt mosi n 4); good ∧ op = 0 ∧ leAt mosi 1 1 = 0 ∧ len = 0 ∧ addr % 4 =
  0)))))) ∧
    (∃ (mosi : List Byte) (s : State), Canon s ∧ s.power.boot ≠ .inReset ∧ s.power.boot ≠ .failed ∧ s.power.purserUp = true ∧ (let op :=
  (leAt mosi 0 1); (let len := (leAt mosi 2 2); (let addr := (leAt mosi 4 4); (let n := (8 + (if op = 2 then len else 0)); (let good
  := (n + 4 ≤ mosi.length ∧ crc32c s.wpSeq (mosi.take n) = leAt mosi n 4); good ∧ op = 1 ∧ leAt mosi 1 1 = 0 ∧ len = 4 ∧ addr % 4 = 0
  ∧ (watchPlace addr).isSome = true)))))) ∧
    (∃ (mosi : List Byte) (s : State), Canon s ∧ s.power.boot ≠ .inReset ∧ s.power.boot ≠ .failed ∧ s.power.purserUp = true ∧ (let op :=
  (leAt mosi 0 1); (let len := (leAt mosi 2 2); (let addr := (leAt mosi 4 4); (let n := (8 + (if op = 2 then len else 0)); (let good
  := (n + 4 ≤ mosi.length ∧ crc32c s.wpSeq (mosi.take n) = leAt mosi n 4); ∃ p b off, good ∧ op = 2 ∧ leAt mosi 1 1 = 0 ∧ len = 4 ∧
  addr % 4 = 0 ∧ watchPlace addr = some (.bank p b off) ∧ s.readOnly addr = true)))))) ∧
    (∃ (mosi : List Byte) (s : State), Canon s ∧ s.power.boot ≠ .inReset ∧ s.power.boot ≠ .failed ∧ s.power.purserUp = true ∧ (let op :=
  (leAt mosi 0 1); (let len := (leAt mosi 2 2); (let addr := (leAt mosi 4 4); (let n := (8 + (if op = 2 then len else 0)); (let good
  := (n + 4 ≤ mosi.length ∧ crc32c s.wpSeq (mosi.take n) = leAt mosi n 4); ∃ p b off, good ∧ op = 2 ∧ leAt mosi 1 1 = 0 ∧ len = 4 ∧
  addr % 4 = 0 ∧ watchPlace addr = some (.bank p b off) ∧ s.readOnly addr = false)))))) ∧
    (∃ (mosi : List Byte) (s : State), Canon s ∧ s.power.boot ≠ .inReset ∧ s.power.boot ≠ .failed ∧ s.power.purserUp = true ∧ (let op :=
  (leAt mosi 0 1); (let len := (leAt mosi 2 2); (let addr := (leAt mosi 4 4); (let n := (8 + (if op = 2 then len else 0)); (let good
  := (n + 4 ≤ mosi.length ∧ crc32c s.wpSeq (mosi.take n) = leAt mosi n 4); ∃ p b off, good ∧ op = 2 ∧ leAt mosi 1 1 = 0 ∧ len = 4 ∧
  addr % 4 = 0 ∧ watchPlace addr = some (.bank p b off) ∧ s.readOnly addr = false ∧ b ≠ 0)))))) ∧
    (∃ (mosi : List Byte) (s : State), Canon s ∧ s.power.boot ≠ .inReset ∧ s.power.boot ≠ .failed ∧ s.power.purserUp = true ∧ (let op :=
  (leAt mosi 0 1); (let len := (leAt mosi 2 2); (let addr := (leAt mosi 4 4); (let n := (8 + (if op = 2 then len else 0)); (let good
  := (n + 4 ≤ mosi.length ∧ crc32c s.wpSeq (mosi.take n) = leAt mosi n 4); ∃ p b off, good ∧ op = 2 ∧ leAt mosi 1 1 = 0 ∧ len = 4 ∧
  addr % 4 = 0 ∧ watchPlace addr = some (.bank p b off) ∧ s.readOnly addr = false ∧ ∃ q, q ≠ p)))))) ∧
    (∃ (mosi : List Byte) (s : State), Canon s ∧ s.power.boot ≠ .inReset ∧ s.power.boot ≠ .failed ∧ s.power.purserUp = true ∧ (let op :=
  (leAt mosi 0 1); (let len := (leAt mosi 2 2); (let addr := (leAt mosi 4 4); (let n := (8 + (if op = 2 then len else 0)); (let good
  := (n + 4 ≤ mosi.length ∧ crc32c s.wpSeq (mosi.take n) = leAt mosi n 4); ∃ p b off, good ∧ op = 2 ∧ leAt mosi 1 1 = 0 ∧ len = 4 ∧
  addr % 4 = 0 ∧ watchPlace addr = some (.bank p b off) ∧ s.readOnly addr = false)))))) ∧
    (∃ (mosi : List Byte) (s : State), Canon s ∧ s.power.boot ≠ .inReset ∧ s.power.boot ≠ .failed ∧ s.power.purserUp = true ∧ (let op :=
  (leAt mosi 0 1); (let len := (leAt mosi 2 2); (let n := (8 + (if op = 2 then len else 0)); (let good :=
  (n + 4 ≤ mosi.length ∧ crc32c s.wpSeq (mosi.take n) = leAt mosi n 4); good ∧ 2 < op))))) ∧
    (∃ (mosi : List Byte) (s : State), Canon s ∧ s.power.boot ≠ .inReset ∧ s.power.boot ≠ .failed ∧ s.power.purserUp = true ∧ (let op :=
  (leAt mosi 0 1); (let len := (leAt mosi 2 2); (let n := (8 + (if op = 2 then len else 0)); mosi.length < n + 4)))) ∧
    (∃ (mosi : List Byte) (s : State), Canon s ∧ s.power.boot ≠ .inReset ∧ s.power.boot ≠ .failed ∧ s.power.purserUp = true ∧ (let op :=
  (leAt mosi 0 1); (let len := (leAt mosi 2 2); (let n := (8 + (if op = 2 then len else 0)); n + 4 ≤ mosi.length ∧ crc32c s.wpSeq
  (mosi.take n) ≠ leAt mosi n 4)))) :=
  ⟨⟨(B_WatchFrames.getD 0 []), (S_WatchFrames.getD 0 live), canonOf (by decide +kernel), by decide +kernel, by decide +kernel,
  by decide +kernel, by decide +kernel, by decide +kernel, by decide +kernel, by decide +kernel, by decide +kernel⟩,
   ⟨(B_WatchFrames.getD 1 []), (S_WatchFrames.getD 0 live), canonOf (by decide +kernel), by decide +kernel, by decide +kernel,
  by decide +kernel, by decide +kernel, by decide +kernel, by decide +kernel, by decide +kernel, by decide +kernel, by decide +kernel⟩,
   ⟨(B_WatchFrames.getD 4 []), (S_WatchFrames.getD 0 live), canonOf (by decide +kernel), by decide +kernel, by decide +kernel,
  by decide +kernel, 0, 0, 0, by decide +kernel, by decide +kernel, by decide +kernel, by decide +kernel, by decide +kernel,
  by decide +kernel, by decide +kernel⟩,
   ⟨(B_WatchFrames.getD 5 []), (S_WatchFrames.getD 0 live), canonOf (by decide +kernel), by decide +kernel, by decide +kernel,
  by decide +kernel, 0, 1, 4, by decide +kernel, by decide +kernel, by decide +kernel, by decide +kernel, by decide +kernel,
  by decide +kernel, by decide +kernel⟩,
   ⟨(B_WatchFrames.getD 5 []), (S_WatchFrames.getD 0 live), canonOf (by decide +kernel), by decide +kernel, by decide +kernel,
  by decide +kernel, 0, 1, 4, by decide +kernel, by decide +kernel, by decide +kernel, by decide +kernel, by decide +kernel,
  by decide +kernel, by decide +kernel, by decide +kernel⟩,
   ⟨(B_WatchFrames.getD 5 []), (S_WatchFrames.getD 0 live), canonOf (by decide +kernel), by decide +kernel, by decide +kernel,
  by decide +kernel, 0, 1, 4, by decide +kernel, by decide +kernel, by decide +kernel, by decide +kernel, by decide +kernel,
  by decide +kernel, by decide +kernel, 1, by decide +kernel⟩,
   ⟨(B_WatchFrames.getD 5 []), (S_WatchFrames.getD 0 live), canonOf (by decide +kernel), by decide +kernel, by decide +kernel,
  by decide +kernel, 0, 1, 4, by decide +kernel, by decide +kernel, by decide +kernel, by decide +kernel, by decide +kernel,
  by decide +kernel, by decide +kernel⟩,
   ⟨(B_WatchFrames.getD 6 []), (S_WatchFrames.getD 0 live), canonOf (by decide +kernel), by decide +kernel, by decide +kernel,
  by decide +kernel, by decide +kernel, by decide +kernel⟩,
   ⟨(B_WatchFrames.getD 8 []), (S_WatchFrames.getD 0 live), canonOf (by decide +kernel), by decide +kernel, by decide +kernel,
  by decide +kernel, by decide +kernel⟩,
   ⟨(B_WatchFrames.getD 10 []), (S_WatchFrames.getD 0 live), canonOf (by decide +kernel), by decide +kernel, by decide +kernel,
  by decide +kernel, by decide +kernel, by decide +kernel⟩⟩

theorem test_LinksTrain :
    (∃ (p : Fin 4) (s : State), Canon s ∧ s.power.boot ≠ .inReset ∧ (let l := ((s.port p).link); (let forming : Prop :=
  (l.phase = .training ∧ l.map = []); ∃ (msg : List Byte), bcOk msg = true ∧ leAt msg 0 1 = 1 ∧ (¬ forming ∨ l.trainEnd ≠ none)))) ∧
    (∃ (p : Fin 4) (s : State), Canon s ∧ s.power.boot ≠ .inReset ∧ (let l := ((s.port p).link); (let forming : Prop :=
  (l.phase = .training ∧ l.map = []); ∃ (msg : List Byte), bcOk msg = true ∧ leAt msg 0 1 = 1 ∧ (let b := (bytesAt msg 2 12); forming
  ∧ l.trainEnd = none ∧ l.rate < 3 ∧ leAt b 0 1 / 2 ^ l.rate % 2 = 1)))) ∧
    (∃ (p : Fin 4) (s : State), Canon s ∧ s.power.boot ≠ .inReset ∧ (let l := ((s.port p).link); (let forming : Prop :=
  (l.phase = .training ∧ l.map = []); ∃ (msg : List Byte) (lane : Nat) (x : Nat), bcOk msg = true ∧ leAt msg 0 1 = 5 ∧ lane = leAt
  (bytesAt msg 2 12) 0 1 ∧ lane < 12 ∧ forming ∧ l.trainEnd ≠ none ∧ tabSorted l.locks ∧ x < 12 ∧ x ≠ lane ∧ tabGet 0 l.locks x < 8))) ∧
    (∃ (p : Fin 4) (s : State), Canon s ∧ s.power.boot ≠ .inReset ∧ (let l := ((s.port p).link); (let forming : Prop :=
  (l.phase = .training ∧ l.map = []); forming ∧ due l.trainEnd s.now = true ∧ (s.port p).phase = .stopped))) ∧
    (∃ (p : Fin 4) (s : State), Canon s ∧ s.power.boot ≠ .inReset ∧ (let l := ((s.port p).link); l.phase = .training ∧ due l.retryAt
  s.now = true)) ∧
    (∃ (p : Fin 4) (s : State), Canon s ∧ s.power.boot ≠ .inReset ∧ (let l := ((s.port p).link); l.phase = .training ∧ due l.bcLockBy
  s.now = true)) ∧
    (∃ (p : Fin 4) (s : State), Canon s ∧ s.power.boot ≠ .inReset ∧ (let l := ((s.port p).link); ∃ (msg : List Byte), bcOk msg = true ∧
  leAt msg 0 1 = 2 ∧ (s.port p).phase = .stopped ∧ l.phase ≠ .training)) ∧
    (∃ (p : Fin 4) (s : State), Canon s ∧ s.power.boot ≠ .inReset ∧ (let l := ((s.port p).link); ∃ (msg : List Byte), bcOk msg = true ∧
  leAt msg 0 1 = 2 ∧ (s.port p).phase = .stopped ∧ (let b := (bytesAt msg 2 12); l.phase = .training ∧ l.map ≠ [] ∧ (∀ x ∈ lanesOf
  l.service, leAt b 0 2 / 2 ^ x % 2 = 1) ∧ s.cway.role.standby = false ∧ s.cway.posts.contains p.val = false ∧ l.lost = 0))) :=
  ⟨⟨0, (S_LinksTrain.getD 1 live), canonOf (by decide +kernel), by decide +kernel, (B_LinksTrain.getD 0 []), by decide +kernel,
  by decide +kernel, by decide +kernel⟩,
   ⟨0, (S_LinksTrain.getD 0 live), canonOf (by decide +kernel), by decide +kernel, (B_LinksTrain.getD 0 []), by decide +kernel,
  by decide +kernel, by decide +kernel, by decide +kernel, by decide +kernel, by decide +kernel⟩,
   ⟨0, (S_LinksTrain.getD 1 live), canonOf (by decide +kernel), by decide +kernel, (B_LinksTrain.getD 2 []), 3, 0, by decide +kernel,
  by decide +kernel, by decide +kernel, by decide +kernel, by decide +kernel, by decide +kernel, by unfold tabSorted; decide +kernel,
  by decide +kernel, by decide +kernel, by decide +kernel⟩,
   ⟨0, (S_LinksTrain.getD 1 live), canonOf (by decide +kernel), by decide +kernel, by decide +kernel, by decide +kernel,
  by decide +kernel⟩,
   ⟨0, (S_LinksTrain.getD 0 live), canonOf (by decide +kernel), by decide +kernel, by decide +kernel, by decide +kernel⟩,
   ⟨0, (S_LinksTrain.getD 0 live), canonOf (by decide +kernel), by decide +kernel, by decide +kernel, by decide +kernel⟩,
   ⟨0, (S_LinksTrain.getD 6 live), canonOf (by decide +kernel), by decide +kernel, (B_LinksTrain.getD 4 []), by decide +kernel,
  by decide +kernel, by decide +kernel, by decide +kernel⟩,
   ⟨0, (S_LinksTrain.getD 5 live), canonOf (by decide +kernel), by decide +kernel, (B_LinksTrain.getD 4 []), by decide +kernel,
  by decide +kernel, by decide +kernel, by decide +kernel, by decide +kernel, by decide +kernel, by decide +kernel, by decide +kernel,
  by decide +kernel⟩⟩

theorem test_LanesLostAndRegained :
    (∃ (p : Fin 4) (s : State), Canon s ∧ s.power.boot ≠ .inReset ∧ (let l := ((s.port p).link); ∃ (msg : List Byte) (lane : Nat), bcOk
  msg = true ∧ leAt msg 0 1 = 3 ∧ lane = leAt (bytesAt msg 2 12) 0 1 ∧ (lanesOf l.service).contains lane = true ∧ l.phase = .up ∧
  l.map.Nodup ∧ l.missing = [] ∧ l.keel = true ∧ l.reform = none ∧ l.reformWait = none ∧ s.flt.restarting = false)) ∧
    (∃ (p : Fin 4) (s : State), Canon s ∧ s.power.boot ≠ .inReset ∧ (let l := ((s.port p).link); ∃ (lane : Fin 12) (r : Retrain),
  l.retrains.find? (fun r => decide (r.lane = lane.val) && due r.attemptEnd s.now && !s.flt.restarting) = some r ∧ r.attempt < 3)) ∧
    (∃ (p : Fin 4) (s : State), Canon s ∧ s.power.boot ≠ .inReset ∧ (let l := ((s.port p).link); ∃ (lane : Fin 12) (r : Retrain),
  l.retrains.find? (fun r => decide (r.lane = lane.val) && due r.attemptEnd s.now && !s.flt.restarting) = some r ∧ 3 ≤ r.attempt ∧
  l.missing = [lane.val] ∧ l.keel = true ∧ l.map.getLast? ≠ some lane.val)) ∧
    (∃ (p : Fin 4) (s : State), Canon s ∧ s.power.boot ≠ .inReset ∧ (let l := ((s.port p).link); ∃ (lane : Fin 12) (r : Retrain),
  l.retrains.find? (fun r => decide (r.lane = lane.val) && due r.pauseEnd s.now && !s.flt.restarting) = some r)) ∧
    (∃ (p : Fin 4) (s : State), Canon s ∧ s.power.boot ≠ .inReset ∧ (let l := ((s.port p).link); l.glass = true ∧ due (l.bcHeard.map (· +
  msTicks 1)) s.now = true)) ∧
    (∃ (p : Fin 4) (s : State), Canon s ∧ s.power.boot ≠ .inReset ∧ (let l := ((s.port p).link); l.markerDue ≤ 20 * s.now ∧ l.power =
  .l1)) ∧
    (∃ (p : Fin 4) (s : State), Canon s ∧ s.power.boot ≠ .inReset ∧ (let l := ((s.port p).link); l.markerDue ≤ 20 * s.now ∧ l.power = .l0
  ∧ l.phase = .training ∧ l.map ≠ [] ∧ l.retrains = [] ∧ (s.port (s.lead p)).slots = false ∧ l.holdEnd = none)) ∧
    (∃ (p : Fin 4) (s : State), Canon s ∧ s.power.boot ≠ .inReset ∧ (let l := ((s.port p).link); l.markerDue ≤ 20 * s.now ∧ l.power = .l0
  ∧ l.phase = .retraining ∧ (s.port (s.lead p)).slots = true)) ∧
    (∃ (p : Fin 4) (s : State), Canon s ∧ s.power.boot ≠ .inReset ∧ (let l := ((s.port p).link); l.wakeTo ≠ none ∧ l.phase ≠ .loopback ∧
  l.power = .l2)) ∧
    (∃ (p : Fin 4) (s : State), Canon s ∧ s.power.boot ≠ .inReset ∧ (let l := ((s.port p).link); l.wakeTo ≠ none ∧ l.phase ≠ .loopback ∧
  l.power ≠ .l2 ∧ due l.wakeEnd s.now = true ∧ s.cway.role.standby = false ∧ s.cway.posts.contains p.val = false ∧ l.lost = 0 ∧
  (s.port p).phase = .stopped)) :=
  ⟨⟨0, (S_LanesLostAndRegained.getD 0 live), canonOf (by decide +kernel), by decide +kernel, (B_LanesLostAndRegained.getD 6 []), 0,
  by decide +kernel, by decide +kernel, by decide +kernel, by decide +kernel, by decide +kernel, by decide +kernel, by decide +kernel,
  by decide +kernel, by decide +kernel, by decide +kernel, by decide +kernel⟩,
   ⟨0, (S_LanesLostAndRegained.getD 1 live), canonOf (by decide +kernel), by decide +kernel, 3,
  (((((S_LanesLostAndRegained.getD 1 live).port (0 : Fin 4)).link).retrains.find? (fun r => decide (r.lane = (3 : Fin 12).val) && due
  r.attemptEnd (S_LanesLostAndRegained.getD 1 live).now && !(S_LanesLostAndRegained.getD 1 live).flt.restarting)).get
  (by decide +kernel)), by decide +kernel, by decide +kernel⟩,
   ⟨0, (S_LanesLostAndRegained.getD 2 live), canonOf (by decide +kernel), by decide +kernel, 3,
  (((((S_LanesLostAndRegained.getD 2 live).port (0 : Fin 4)).link).retrains.find? (fun r => decide (r.lane = (3 : Fin 12).val) && due
  r.attemptEnd (S_LanesLostAndRegained.getD 2 live).now && !(S_LanesLostAndRegained.getD 2 live).flt.restarting)).get
  (by decide +kernel)), by decide +kernel, by decide +kernel, by decide +kernel, by decide +kernel, by decide +kernel⟩,
   ⟨0, (S_LanesLostAndRegained.getD 3 live), canonOf (by decide +kernel), by decide +kernel, 0,
  (((((S_LanesLostAndRegained.getD 3 live).port (0 : Fin 4)).link).retrains.find? (fun r => decide (r.lane = (0 : Fin 12).val) && due
  r.pauseEnd (S_LanesLostAndRegained.getD 3 live).now && !(S_LanesLostAndRegained.getD 3 live).flt.restarting)).get
  (by decide +kernel)), by decide +kernel⟩,
   ⟨0, (S_LanesLostAndRegained.getD 4 live), canonOf (by decide +kernel), by decide +kernel, by decide +kernel, by decide +kernel⟩,
   ⟨0, (S_LanesLostAndRegained.getD 5 live), canonOf (by decide +kernel), by decide +kernel, by decide +kernel, by decide +kernel⟩,
   ⟨0, (S_LanesLostAndRegained.getD 7 live), canonOf (by decide +kernel), by decide +kernel, by decide +kernel, by decide +kernel,
  by decide +kernel, by decide +kernel, by decide +kernel, by decide +kernel, by decide +kernel⟩,
   ⟨0, (S_LanesLostAndRegained.getD 6 live), canonOf (by decide +kernel), by decide +kernel, by decide +kernel, by decide +kernel,
  by decide +kernel, by decide +kernel⟩,
   ⟨0, (S_LanesLostAndRegained.getD 8 live), canonOf (by decide +kernel), by decide +kernel, by decide +kernel, by decide +kernel,
  by decide +kernel⟩,
   ⟨0, (S_LanesLostAndRegained.getD 9 live), canonOf (by decide +kernel), by decide +kernel, by decide +kernel, by decide +kernel,
  by decide +kernel, by decide +kernel, by decide +kernel, by decide +kernel, by decide +kernel, by decide +kernel⟩⟩

theorem test_ModeAnswersAndLoopbacks :
    (∃ (p : Fin 4) (s : State), Canon s ∧ s.power.boot ≠ .inReset ∧ (let l := ((s.port p).link); ∃ (msg : List Byte) (w : ModeWait), bcOk
  msg = true ∧ leAt msg 0 1 = 4 ∧ w.modeId = leAt (bytesAt msg 2 12) 0 2 ∧ l.reformWait = some w)) ∧
    (∃ (p : Fin 4) (s : State), Canon s ∧ s.power.boot ≠ .inReset ∧ (let l := ((s.port p).link); ∃ (msg : List Byte) (w : ModeWait), bcOk
  msg = true ∧ leAt msg 0 1 = 4 ∧ w.modeId = leAt (bytesAt msg 2 12) 0 2 ∧ l.reformWait = none ∧ (s.port p).modeWait = some w ∧ w.use
  = ModeUse.change ∧ leAt (bytesAt msg 2 12) 2 1 = 0)) ∧
    (∃ (p : Fin 4) (s : State), Canon s ∧ s.power.boot ≠ .inReset ∧ (s.port p).phase ≠ .stopped) ∧
    (∃ (p : Fin 4) (s : State), Canon s ∧ s.power.boot ≠ .inReset ∧ (s.port p).phase = .stopped ∧ (s.field (linkBase p + 0x80) 2 0 = 1 ∨
  s.field (linkBase p + 0x80) 2 0 = 2)) ∧
    (∃ (p : Fin 4) (s : State), Canon s ∧ s.power.boot ≠ .inReset ∧ (let l := ((s.port p).link); ∃ (errors : List Nat) (mode : Nat)
  (lanes : Nat), l.loop = some (mode, lanes) ∧ mode ≠ 3 ∧ s.cway.posts.contains p.val = false ∧ ((∀ q, q < 4 → (s.port q).modeQueue =
  [])) ∧ l.wakeTo = none ∧ (l.loopFrom = .down ∨ (l.loopFrom = .up ∧ l.lost = 0)))) ∧
    (∃ (p : Fin 4) (s : State), Canon s ∧ s.power.boot ≠ .inReset ∧ (let l := ((s.port p).link); ∃ (msg : List Byte) (lanes : Nat), bcOk
  msg = true ∧ leAt msg 0 1 = 6 ∧ l.loop = some (3, lanes) ∧ (let lane := (leAt (bytesAt msg 2 12) 0 1); lane < 12 ∧ lanes.testBit
  lane = true))) :=
  ⟨⟨0, (S_ModeAnswersAndLoopbacks.getD 0 live), canonOf (by decide +kernel), by decide +kernel, (B_ModeAnswersAndLoopbacks.getD 0 []),
  (((((S_ModeAnswersAndLoopbacks.getD 0 live).port (0 : Fin 4)).link).reformWait).get (by decide +kernel)), by decide +kernel,
  by decide +kernel, by decide +kernel, by decide +kernel⟩,
   ⟨0, (S_ModeAnswersAndLoopbacks.getD 1 live), canonOf (by decide +kernel), by decide +kernel, (B_ModeAnswersAndLoopbacks.getD 0 []),
  ((((S_ModeAnswersAndLoopbacks.getD 1 live).port (0 : Fin 4)).modeWait).get (by decide +kernel)), by decide +kernel,
  by decide +kernel, by decide +kernel, by decide +kernel, by decide +kernel, by decide +kernel, by decide +kernel⟩,
   ⟨0, (S_ModeAnswersAndLoopbacks.getD 1 live), canonOf (by decide +kernel), by decide +kernel, by decide +kernel⟩,
   ⟨0, (S_ModeAnswersAndLoopbacks.getD 4 live), canonOf (by decide +kernel), by decide +kernel, by decide +kernel, by decide +kernel⟩,
   ⟨0, (S_ModeAnswersAndLoopbacks.getD 6 live), canonOf (by decide +kernel), by decide +kernel, [], 1, 5, by decide +kernel,
  by decide +kernel, by decide +kernel, by decide +kernel, by decide +kernel, by decide +kernel⟩,
   ⟨0, (S_ModeAnswersAndLoopbacks.getD 8 live), canonOf (by decide +kernel), by decide +kernel, (B_ModeAnswersAndLoopbacks.getD 1 []),
  9, by decide +kernel, by decide +kernel, by decide +kernel, by decide +kernel, by decide +kernel⟩⟩

theorem test_LeasesHeld :
    (∃ (p : Fin 4) (s : State), Canon s) ∧
    (∃ (p : Fin 4) (s : State), Canon s ∧ (let l := ((s.port p).link); ∃ e, l.claim = some e ∧ due l.nextLease s.now = true ∧ s.sends p =
  true)) ∧
    (∃ (p : Fin 4) (s : State), Canon s ∧ (let l := ((s.port p).link); ∃ (msg : List Byte), s.power.boot ≠ .inReset ∧ bcOk msg = true ∧
  leAt msg 0 1 = 7 ∧ (let b := (bytesAt msg 2 12); ∃ e, l.claim = some e ∧ leAt b 0 1 = 1 ∧ leAt b 1 3 = e ∧ s.ours (leAt b 4 1) =
  true))) ∧
    (∃ (p : Fin 4) (s : State), Canon s ∧ (let l := ((s.port p).link); (let epoch := (s.reg (0x7040 + 4 * p)); ∃ (msg : List Byte),
  s.power.boot ≠ .inReset ∧ bcOk msg = true ∧ leAt msg 0 1 = 7 ∧ (let b := (bytesAt msg 2 12); l.claim = none ∧ leAt b 0 1 = 4 ∧
  l.holds = true ∧ leAt b 1 3 = epoch ∧ s.cway.role.drives = true ∧ s.formed = true ∧ max epoch l.seenEpoch + 1 < 2 ^ 24 - 1)))) ∧
    (∃ (p : Fin 4) (s : State), Canon s ∧ (let l := ((s.port p).link); l.claim ≠ none ∧ due (l.refusedSince.map (· + msTicks 2)) s.now =
  true ∧ (∃ q, q < 4 ∧ (s.port q).link.holds = true))) ∧
    (∃ (p : Fin 4) (s : State), Canon s ∧ (let l := ((s.port p).link); l.claim ≠ none ∧ due (l.refusedSince.map (· + msTicks 2)) s.now =
  true ∧ ((∀ q, q < 4 → (s.port q).link.holds = false)) ∧ s.paired = true)) :=
  ⟨⟨0, (S_LeasesHeld.getD 0 live), canonOf (by decide +kernel)⟩,
   ⟨0, (S_LeasesHeld.getD 1 live), canonOf (by decide +kernel), 7, by decide +kernel, by decide +kernel, by decide +kernel⟩,
   ⟨0, (S_LeasesHeld.getD 1 live), canonOf (by decide +kernel), (B_LeasesHeld.getD 0 []), by decide +kernel, by decide +kernel,
  by decide +kernel, 7, by decide +kernel, by decide +kernel, by decide +kernel, by decide +kernel⟩,
   ⟨0, (S_LeasesHeld.getD 5 live), canonOf (by decide +kernel), (B_LeasesHeld.getD 2 []), by decide +kernel, by decide +kernel,
  by decide +kernel, by decide +kernel, by decide +kernel, by decide +kernel, by decide +kernel, by decide +kernel, by decide +kernel,
  by decide +kernel⟩,
   ⟨0, (S_LeasesHeld.getD 3 live), canonOf (by decide +kernel), by decide +kernel, by decide +kernel, by decide +kernel⟩,
   ⟨0, (S_LeasesHeld.getD 4 live), canonOf (by decide +kernel), by decide +kernel, by decide +kernel, by decide +kernel,
  by decide +kernel⟩⟩

theorem test_DramRequests :
    (∃ (c : Fin 16) (s : State), Canon s ∧ s.power.boot ≠ .inReset ∧ ∃ (port : Fin 8) (bank : Fin 16) (row : Nat) (col : Fin 32) (write :
  Option (List Byte)), row < s.dramRows ∧ (portUnit port).any s.inEbb = true) ∧
    (∃ (c : Fin 16) (s : State), Canon s ∧ s.power.boot ≠ .inReset ∧ (let ch := (s.chan c); ∃ (port : Fin 8) (bank : Fin 16) (row : Nat)
  (col : Fin 32) (write : Option (List Byte)), row < s.dramRows ∧ (portUnit port).any s.inEbb = false ∧ ch.phase = .active)) ∧
    (∃ (c : Fin 16) (s : State), Canon s ∧ s.power.boot ≠ .inReset ∧ (let ch := (s.chan c); ∃ (port : Fin 8) (bank : Fin 16) (row : Nat)
  (col : Fin 32) (write : Option (List Byte)), row < s.dramRows ∧ ∃ since, (portUnit port).any s.inEbb = false ∧ ch.phase =
  .selfRefresh ∧ ch.exitFrom = none ∧ ch.srSince = some since ∧ s.halted = false)) ∧
    (∃ (c : Fin 16) (s : State), Canon s ∧ s.power.boot ≠ .inReset ∧ (let ch := (s.chan c); ∃ (r : DramReq), ch.phase = .active ∧
  ch.queue = [r] ∧ ch.held = [] ∧ r.hits ch = true ∧ r.ebbEnd = none ∧ r.port ≠ 0 ∧ tabSorted ch.mem ∧ ∃ (d : List Byte) (res :
  DramResult), r.write = some d)) ∧
    (∃ (c : Fin 16) (s : State), Canon s ∧ s.power.boot ≠ .inReset ∧ (let ch := (s.chan c); ∃ (r : DramReq), ch.phase = .active ∧
  ch.queue = [r] ∧ ch.held = [] ∧ r.hits ch = true ∧ r.ebbEnd = none ∧ r.port ≠ 0 ∧ tabSorted ch.mem ∧ r.write = none)) ∧
    (∃ (c : Fin 16) (s : State), Canon s ∧ s.power.boot ≠ .inReset ∧ (let ch := (s.chan c); ∃ (r : DramReq), ch.phase = .active ∧
  ch.queue = [r] ∧ ch.held = [] ∧ r.hits ch = true ∧ r.ebbEnd = none ∧ r.port ≠ 0 ∧ tabSorted ch.mem ∧ r.write = none ∧ r.repeats < 2)) :=
  ⟨⟨0, (S_DramRequests.getD 8 live), canonOf (by decide +kernel), by decide +kernel, 1, 0, 0, 0, none, by decide +kernel,
  by decide +kernel⟩,
   ⟨0, (S_DramRequests.getD 0 live), canonOf (by decide +kernel), by decide +kernel, 0, 0, 0, 0, none, by decide +kernel,
  by decide +kernel, by decide +kernel⟩,
   ⟨0, (S_DramRequests.getD 3 live), canonOf (by decide +kernel), by decide +kernel, 0, 0, 0, 0, none, by decide +kernel, 1100,
  by decide +kernel, by decide +kernel, by decide +kernel, by decide +kernel, by decide +kernel⟩,
   ⟨0, (S_DramRequests.getD 6 live), canonOf (by decide +kernel), by decide +kernel, rq 2 (some (List.replicate 64 7)),
  by decide +kernel, by decide +kernel, by decide +kernel, by decide +kernel, by decide +kernel, by decide +kernel,
  by unfold tabSorted; decide +kernel, (B_DramRequests.getD 0 []), .clean, by decide +kernel⟩,
   ⟨0, (S_DramRequests.getD 5 live), canonOf (by decide +kernel), by decide +kernel, rq 2 none, by decide +kernel, by decide +kernel,
  by decide +kernel, by decide +kernel, by decide +kernel, by decide +kernel, by unfold tabSorted; decide +kernel, by decide +kernel⟩,
   ⟨0, (S_DramRequests.getD 5 live), canonOf (by decide +kernel), by decide +kernel, rq 2 none, by decide +kernel, by decide +kernel,
  by decide +kernel, by decide +kernel, by decide +kernel, by decide +kernel, by unfold tabSorted; decide +kernel, by decide +kernel,
  by decide +kernel⟩⟩

theorem test_DramRefreshAndPhases :
    (∃ (c : Fin 16) (bank : Fin 16) (s : State), Canon s ∧ (let ch := (s.chan c); ∃ (mr4 : Byte), ch.phase = .active ∧ due ch.mr4At s.now
  = true)) ∧
    (∃ (c : Fin 16) (bank : Fin 16) (s : State), Canon s ∧ (let ch := (s.chan c); (ch.phase = .active ∨ ch.phase = .retiring))) ∧
    (∃ (c : Fin 16) (bank : Fin 16) (s : State), Canon s ∧ (let ch := (s.chan c); due (tabFind ch.windows bank) s.now = true)) ∧
    (∃ (c : Fin 16) (bank : Fin 16) (s : State), Canon s ∧ (let ch := (s.chan c); ∃ (port : Fin 8), tabSorted ch.holds ∧ due (tabFind
  ch.holds (bank.val * 8 + port.val)) s.now = true)) ∧
    (∃ (c : Fin 16) (s : State), Canon s ∧ (let ch := (s.chan c); ch.phase = .active ∧ ch.queue = [] ∧ ch.held = [] ∧ due ch.idleAt s.now
  = true ∧ s.field 0xA00C 31 31 = 1 ∧ s.slicePending c = false)) ∧
    (∃ (c : Fin 16) (s : State), Canon s ∧ (let ch := (s.chan c); ch.phase = .selfRefresh ∧ due ch.exitFrom s.now = true ∧ s.halted =
  false)) ∧
    (∃ (c : Fin 16) (s : State), Canon s ∧ (let ch := (s.chan c); ∃ (temp : Int), ch.phase = .active ∧ ((∀ x, ch.sliceAt = some x → x +
  usTicks 50 ≤ s.now)))) ∧
    (∃ (c : Fin 16) (s : State), Canon s ∧ (let ch := (s.chan c); ∃ (temp : Int), ch.phase = .active ∧ ((∀ x, ch.sliceAt = some x → x +
  usTicks 50 ≤ s.now)))) ∧
    (∃ (c : Fin 16) (s : State), Canon s ∧ (let ch := (s.chan c); ∃ (temp : Int), ch.phase = .recovery)) ∧
    (∃ (c : Fin 16) (s : State), Canon s ∧ (let ch := (s.chan c); ∃ (temp : Int), ch.phase = .recovery)) ∧
    (∃ (c : Fin 16) (s : State), Canon s ∧ s.power.boot ≠ .inReset) :=
  ⟨⟨0, 0, (S_DramRefreshAndPhases.getD 0 live), canonOf (by decide +kernel), 0, by decide +kernel, by decide +kernel⟩,
   ⟨0, 0, (S_DramRefreshAndPhases.getD 0 live), canonOf (by decide +kernel), by decide +kernel⟩,
   ⟨0, 0, (S_DramRefreshAndPhases.getD 0 live), canonOf (by decide +kernel), by decide +kernel⟩,
   ⟨0, 0, (S_DramRefreshAndPhases.getD 0 live), canonOf (by decide +kernel), 0, by unfold tabSorted; decide +kernel, by decide +kernel⟩,
   ⟨0, (S_DramRefreshAndPhases.getD 2 live), canonOf (by decide +kernel), by decide +kernel, by decide +kernel, by decide +kernel,
  by decide +kernel, by decide +kernel, by decide +kernel⟩,
   ⟨0, (S_DramRefreshAndPhases.getD 3 live), canonOf (by decide +kernel), by decide +kernel, by decide +kernel, by decide +kernel⟩,
   ⟨0, (S_DramRefreshAndPhases.getD 0 live), canonOf (by decide +kernel), (0), by decide +kernel, by decide +kernel⟩,
   ⟨0, (S_DramRefreshAndPhases.getD 0 live), canonOf (by decide +kernel), (0), by decide +kernel, by decide +kernel⟩,
   ⟨0, (S_DramRefreshAndPhases.getD 7 live), canonOf (by decide +kernel), (0), by decide +kernel⟩,
   ⟨0, (S_DramRefreshAndPhases.getD 7 live), canonOf (by decide +kernel), (0), by decide +kernel⟩,
   ⟨0, (S_DramRefreshAndPhases.getD 0 live), canonOf (by decide +kernel), by decide +kernel⟩⟩

theorem test_SensorSamples :
    (∃ (s : State), Canon s ∧ s.power.boot ≠ .inReset) ∧
    (∃ (s : State), Canon s ∧ s.power.boot ≠ .inReset ∧ s.sense.tripped = false) ∧
    (∃ (s : State), Canon s ∧ s.power.boot ≠ .inReset ∧ s.sense.tripped = true) ∧
    (∃ (s : State), Canon s ∧ s.power.boot ≠ .inReset ∧ ∃ (n : Fin 8) (dv : Nat), s.measuring n = true) ∧
    (∃ (s : State), Canon s ∧ s.power.boot ≠ .inReset ∧ ∃ (n : Fin 8) (dv : Nat), s.measuring n = false) ∧
    (∃ (s : State), Canon s ∧ s.power.boot ≠ .inReset ∧ ∃ (dv : Nat), s.sense.pending = none) ∧
    (∃ (s : State), Canon s ∧ s.power.boot ≠ .inReset ∧ ∃ (n : Fin 8) (raw : BitVec 12), s.measuring (8 + n) = true) ∧
    (∃ (s : State), Canon s ∧ s.power.boot ≠ .inReset ∧ ∃ (n : Fin 8) (raw : BitVec 12), s.measuring (8 + n) = false) :=
  ⟨⟨(S_SensorSamples.getD 0 live), canonOf (by decide +kernel), by decide +kernel⟩,
   ⟨(S_SensorSamples.getD 0 live), canonOf (by decide +kernel), by decide +kernel, by decide +kernel⟩,
   ⟨(S_SensorSamples.getD 3 live), canonOf (by decide +kernel), by decide +kernel, by decide +kernel⟩,
   ⟨(S_SensorSamples.getD 5 live), canonOf (by decide +kernel), by decide +kernel, 0, 0, by decide +kernel⟩,
   ⟨(S_SensorSamples.getD 0 live), canonOf (by decide +kernel), by decide +kernel, 0, 0, by decide +kernel⟩,
   ⟨(S_SensorSamples.getD 0 live), canonOf (by decide +kernel), by decide +kernel, 0, by decide +kernel⟩,
   ⟨measuring8, canonOf (by decide +kernel), by decide +kernel, 0, 0, by decide +kernel⟩,
   ⟨(S_SensorSamples.getD 0 live), canonOf (by decide +kernel), by decide +kernel, 0, 0, by decide +kernel⟩⟩

theorem test_HeartbeatAndTimers :
    (∃ (s : State), s.power.purserUp = true ∧ s.cway.role ≠ .failed ∧ due s.cway.okNext s.now = true) ∧
    (∃ (s : State), s.power.boot ≠ .inReset ∧ ((∀ x, s.cway.peerRaw = some x → x + usTicks 1 ≤ s.now))) ∧
    (∃ (s : State), s.power.boot ≠ .inReset ∧ ∃ x, s.cway.peerRaw = some x ∧ s.now < x + usTicks 1) ∧
    (∃ (s : State), s.cway.heartbeat = true ∧ due (s.cway.peerEdge.map (· + msTicks 1)) s.now = true ∧ (s.cway.role = .solo ∨ s.cway.role
  = .active ∨ s.cway.role = .failed)) ∧
    (∃ (s : State), s.cway.heartbeat = true ∧ due (s.cway.peerEdge.map (· + msTicks 1)) s.now = true ∧ s.cway.role = .stale) ∧
    (∃ (s : State), s.cway.heartbeat = true ∧ due (s.cway.peerEdge.map (· + msTicks 1)) s.now = true ∧ s.cway.role = .mirrored) ∧
    (∃ (s : State), 2 ≤ s.cway.linkPhase ∧ due s.cway.idleAt s.now = true) ∧
    (∃ (s : State), 2 ≤ s.cway.linkPhase ∧ (s.cway.role = .mirrored ∨ s.cway.role = .stale) ∧ due s.cway.ackAt s.now = true) ∧
    (∃ (s : State), 2 ≤ s.cway.linkPhase ∧ due s.cway.helloAt s.now = true) :=
  ⟨⟨(S_HeartbeatAndTimers.getD 0 live), by decide +kernel, by decide +kernel, by decide +kernel⟩,
   ⟨(S_HeartbeatAndTimers.getD 0 live), by decide +kernel, by decide +kernel⟩,
   ⟨(S_HeartbeatAndTimers.getD 6 live), by decide +kernel, 1999900, by decide +kernel, by decide +kernel⟩,
   ⟨(S_HeartbeatAndTimers.getD 1 live), by decide +kernel, by decide +kernel, by decide +kernel⟩,
   ⟨(S_HeartbeatAndTimers.getD 4 live), by decide +kernel, by decide +kernel, by decide +kernel⟩,
   ⟨(S_HeartbeatAndTimers.getD 5 live), by decide +kernel, by decide +kernel, by decide +kernel⟩,
   ⟨(S_HeartbeatAndTimers.getD 0 live), by decide +kernel, by decide +kernel⟩,
   ⟨(S_HeartbeatAndTimers.getD 4 live), by decide +kernel, by decide +kernel, by decide +kernel⟩,
   ⟨(S_HeartbeatAndTimers.getD 0 live), by decide +kernel, by decide +kernel⟩⟩

theorem test_CausewayLinkAndForming :
    (∃ (s : State), Canon s ∧ 2 ≤ s.cway.linkPhase ∧ due (s.cway.heard.map (· + msTicks 1)) s.now = true) ∧
    (∃ (s : State), Canon s ∧ ∃ (lane : Fin 2), 2 ≤ s.cway.linkPhase ∧ s.cway.txLanes = 3 ∧ s.cway.rxLanes = 3) ∧
    (∃ (s : State), Canon s ∧ ∃ (lane : Fin 2), 2 ≤ s.cway.linkPhase ∧ s.cway.rxLanes = 2 ^ lane.val ∧ s.cway.role = .solo) ∧
    (∃ (s : State), Canon s ∧ due s.cway.helloBy s.now = true) ∧
    (∃ (s : State), Canon s ∧ due s.cway.testAt s.now = true ∧ s.cway.testing = false ∧ (∃ p, p < 4 ∧ (s.port p).link.glass = true)) :=
  ⟨⟨(S_CausewayLinkAndForming.getD 1 live), canonOf (by decide +kernel), by decide +kernel, by decide +kernel⟩,
   ⟨(S_CausewayLinkAndForming.getD 0 live), canonOf (by decide +kernel), 0, by decide +kernel, by decide +kernel, by decide +kernel⟩,
   ⟨(S_CausewayLinkAndForming.getD 6 live), canonOf (by decide +kernel), 0, by decide +kernel, by decide +kernel, by decide +kernel⟩,
   ⟨(S_CausewayLinkAndForming.getD 8 live), canonOf (by decide +kernel), by decide +kernel⟩,
   ⟨(S_CausewayLinkAndForming.getD 9 live), canonOf (by decide +kernel), by decide +kernel, by decide +kernel, by decide +kernel⟩⟩

theorem test_RecordsHeard :
    (∃ (bs : List Byte) (s : State), Canon s ∧ s.power.boot ≠ .inReset ∧ 2 ≤ s.cway.linkPhase ∧ s.cway.discarding = false ∧ recordOk bs =
  false ∧ s.mirrors = true ∧ recType bs = 0) ∧
    (∃ (bs : List Byte) (s : State), Canon s ∧ s.power.boot ≠ .inReset ∧ 2 ≤ s.cway.linkPhase ∧ s.cway.discarding = false ∧ recordOk bs =
  true ∧ s.seqGap bs = true ∧ recType bs = 0) ∧
    (∃ (bs : List Byte) (s : State), Canon s ∧ s.power.boot ≠ .inReset ∧ 2 ≤ s.cway.linkPhase ∧ s.cway.discarding = false ∧ recordOk bs =
  true ∧ s.seqGap bs = false ∧ recType bs = 0) ∧
    (∃ (bs : List Byte) (s : State), Canon s ∧ s.power.boot ≠ .inReset ∧ 2 ≤ s.cway.linkPhase ∧ s.cway.discarding = false ∧ recordOk bs =
  true ∧ s.seqGap bs = false ∧ recType bs = 0x10 ∧ s.cway.role ≠ .active) ∧
    (∃ (bs : List Byte) (s : State), Canon s ∧ s.power.boot ≠ .inReset ∧ 2 ≤ s.cway.linkPhase ∧ s.cway.discarding = false ∧ recordOk bs =
  true ∧ s.seqGap bs = false ∧ recType bs = 0x10 ∧ s.cway.role = .active ∧ s.cway.resigning = false ∧ s.cway.breakDue = false ∧
  s.cway.logging = true) ∧
    (∃ (bs : List Byte) (s : State), Canon s ∧ s.power.boot ≠ .inReset ∧ 2 ≤ s.cway.linkPhase ∧ s.cway.discarding = false ∧ recordOk bs =
  true ∧ s.seqGap bs = false ∧ recType bs = 0x11 ∧ s.cway.helloBy = none ∧ s.cway.testAt = none ∧ s.cway.role ≠ .active ∧ s.cway.role
  ≠ .solo) ∧
    (∃ (bs : List Byte) (s : State), Canon s ∧ s.power.boot ≠ .inReset ∧ 2 ≤ s.cway.linkPhase ∧ s.cway.discarding = false ∧ (let b :=
  (recordBody bs); recordOk bs = true ∧ s.seqGap bs = false ∧ recType bs = 0x0A ∧ (s.cway.role = .solo ∨ s.cway.role = .active ∨ leAt
  b 0 1 % 4 < 2))) ∧
    (∃ (bs : List Byte) (s : State), Canon s ∧ s.power.boot ≠ .inReset ∧ 2 ≤ s.cway.linkPhase ∧ s.cway.discarding = false ∧ (let b :=
  (recordBody bs); recordOk bs = true ∧ s.seqGap bs = false ∧ recType bs = 0x0A ∧ s.cway.role = .mirrored ∧ leAt b 0 1 % 4 = 3)) ∧
    (∃ (bs : List Byte) (s : State), Canon s ∧ s.power.boot ≠ .inReset ∧ 2 ≤ s.cway.linkPhase ∧ s.cway.discarding = false ∧ recordOk bs =
  true ∧ s.seqGap bs = false ∧ recType bs = 0x0B ∧ s.cway.role = .mirrored) ∧
    (∃ (bs : List Byte) (s : State), Canon s ∧ s.power.boot ≠ .inReset ∧ 2 ≤ s.cway.linkPhase ∧ s.cway.discarding = false ∧ recordOk bs =
  true ∧ s.seqGap bs = false ∧ recType bs = 0x0B ∧ s.cway.role = .stale) ∧
    (∃ (bs : List Byte) (s : State), Canon s ∧ s.power.boot ≠ .inReset ∧ 2 ≤ s.cway.linkPhase ∧ s.cway.discarding = false ∧ (let b :=
  (recordBody bs); ∃ (u : State), u.power.boot = .configured ∧ u.paired = true ∧ u.cway.linkPhase = 0 ∧ u.cway.txLanes = 0 ∧
  u.cway.rxLanes = 0 ∧ recordOk bs = true ∧ recType bs = 0x12 ∧ leAt b 0 1 < 2 ∧ leAt b 2 1 % 8 = 7)) :=
  ⟨⟨(B_RecordsHeard.getD 2 []), (S_RecordsHeard.getD 4 live), canonOf (by decide +kernel), by decide +kernel, by decide +kernel,
  by decide +kernel, by decide +kernel, by decide +kernel, by decide +kernel⟩,
   ⟨(B_RecordsHeard.getD 1 []), (S_RecordsHeard.getD 4 live), canonOf (by decide +kernel), by decide +kernel, by decide +kernel,
  by decide +kernel, by decide +kernel, by decide +kernel, by decide +kernel⟩,
   ⟨(B_RecordsHeard.getD 0 []), (S_RecordsHeard.getD 0 live), canonOf (by decide +kernel), by decide +kernel, by decide +kernel,
  by decide +kernel, by decide +kernel, by decide +kernel, by decide +kernel⟩,
   ⟨(B_RecordsHeard.getD 3 []), (S_RecordsHeard.getD 0 live), canonOf (by decide +kernel), by decide +kernel, by decide +kernel,
  by decide +kernel, by decide +kernel, by decide +kernel, by decide +kernel, by decide +kernel⟩,
   ⟨(B_RecordsHeard.getD 3 []), (S_RecordsHeard.getD 1 live), canonOf (by decide +kernel), by decide +kernel, by decide +kernel,
  by decide +kernel, by decide +kernel, by decide +kernel, by decide +kernel, by decide +kernel, by decide +kernel, by decide +kernel,
  by decide +kernel⟩,
   ⟨(B_RecordsHeard.getD 4 []), (S_RecordsHeard.getD 2 live), canonOf (by decide +kernel), by decide +kernel, by decide +kernel,
  by decide +kernel, by decide +kernel, by decide +kernel, by decide +kernel, by decide +kernel, by decide +kernel, by decide +kernel,
  by decide +kernel⟩,
   ⟨(B_RecordsHeard.getD 5 []), (S_RecordsHeard.getD 0 live), canonOf (by decide +kernel), by decide +kernel, by decide +kernel,
  by decide +kernel, by decide +kernel, by decide +kernel, by decide +kernel, by decide +kernel⟩,
   ⟨(B_RecordsHeard.getD 5 []), (S_RecordsHeard.getD 4 live), canonOf (by decide +kernel), by decide +kernel, by decide +kernel,
  by decide +kernel, by decide +kernel, by decide +kernel, by decide +kernel, by decide +kernel, by decide +kernel⟩,
   ⟨(B_RecordsHeard.getD 7 []), (S_RecordsHeard.getD 4 live), canonOf (by decide +kernel), by decide +kernel, by decide +kernel,
  by decide +kernel, by decide +kernel, by decide +kernel, by decide +kernel, by decide +kernel⟩,
   ⟨(B_RecordsHeard.getD 7 []), (S_RecordsHeard.getD 3 live), canonOf (by decide +kernel), by decide +kernel, by decide +kernel,
  by decide +kernel, by decide +kernel, by decide +kernel, by decide +kernel, by decide +kernel⟩,
   ⟨(B_RecordsHeard.getD 8 []), (S_RecordsHeard.getD 0 live), canonOf (by decide +kernel), by decide +kernel, by decide +kernel,
  by decide +kernel, (S_RecordsHeard.getD 6 live), by decide +kernel, by decide +kernel, by decide +kernel, by decide +kernel,
  by decide +kernel, by decide +kernel, by decide +kernel, by decide +kernel, by decide +kernel⟩⟩

theorem test_LogAndSnapshotApplied :
    (∃ (bs : List Byte) (s : State), Canon s ∧ s.power.boot ≠ .inReset ∧ 2 ≤ s.cway.linkPhase ∧ s.cway.discarding = false ∧ s.mirrors =
  true ∧ recordOk bs = true ∧ s.seqGap bs = false ∧ (let b := (recordBody bs); recType bs = 0x01 ∧ (let ws :=
  ((List.range 16).map fun i => leAt b (4 * i) 4); (let d : Desc :=
  ({ ring := recRing bs, count := leAt b 64 4, words := ws }); d.sequenceOnly = true)))) ∧
    (∃ (bs : List Byte) (s : State), Canon s ∧ s.power.boot ≠ .inReset ∧ 2 ≤ s.cway.linkPhase ∧ s.cway.discarding = false ∧ s.mirrors =
  true ∧ recordOk bs = true ∧ s.seqGap bs = false ∧ (let b := (recordBody bs); recType bs = 0x01 ∧ (let ws :=
  ((List.range 16).map fun i => leAt b (4 * i) 4); (let d : Desc :=
  ({ ring := recRing bs, count := leAt b 64 4, words := ws }); (d.opcode = opObjWrite ∨ d.opcode = opPlateLoad))))) ∧
    (∃ (bs : List Byte) (s : State), Canon s ∧ s.power.boot ≠ .inReset ∧ 2 ≤ s.cway.linkPhase ∧ s.cway.discarding = false ∧ s.mirrors =
  true ∧ recordOk bs = true ∧ s.seqGap bs = false ∧ recType bs = 0x02 ∧ recLast bs = false) ∧
    (∃ (bs : List Byte) (s : State), Canon s ∧ s.power.boot ≠ .inReset ∧ 2 ≤ s.cway.linkPhase ∧ s.cway.discarding = false ∧ s.mirrors =
  true ∧ recordOk bs = true ∧ s.seqGap bs = false ∧ recType bs = 0x03 ∧ ∃ (r : Replay), s.cway.replays = [r] ∧ r.ring = recRing bs ∧
  r.dseq = recDseq bs ∧ r.desc.sequenceOnly = true ∧ r.result = some stOk) ∧
    (∃ (bs : List Byte) (s : State), Canon s ∧ s.power.boot ≠ .inReset ∧ 2 ≤ s.cway.linkPhase ∧ s.cway.discarding = false ∧ s.mirrors =
  true ∧ recordOk bs = true ∧ s.seqGap bs = false ∧ (let b := (recordBody bs); recType bs = 0x04 ∧ (let a : ApplyItem :=
  ({ port := leAt b 0 1 % 4, kind := leAt b 1 1, frame := leAt b 4 8, ring := recRing bs, dseq := recDseq bs }); a.kind ≠ 0 ∧ a.kind ≠
  2 ∧ ((a.kind = 1 → (s.port a.port).phase ≠ .stopped))))) ∧
    (∃ (bs : List Byte) (s : State), Canon s ∧ s.power.boot ≠ .inReset ∧ 2 ≤ s.cway.linkPhase ∧ s.cway.discarding = false ∧ s.mirrors =
  true ∧ recordOk bs = true ∧ s.seqGap bs = false ∧ (let b := (recordBody bs); recType bs = 0x05 ∧ b.length = 8 ∧ mirroredReg (leAt b
  0 4) = true ∧ leAt b 0 4 % 4 = 0)) ∧
    (∃ (bs : List Byte) (s : State), Canon s ∧ s.power.boot ≠ .inReset ∧ 2 ≤ s.cway.linkPhase ∧ s.cway.discarding = false ∧ s.mirrors =
  true ∧ recordOk bs = true ∧ s.seqGap bs = false ∧ recType bs = 0x09) ∧
    (∃ (bs : List Byte) (s : State), Canon s ∧ s.power.boot ≠ .inReset ∧ 2 ≤ s.cway.linkPhase ∧ s.cway.discarding = false ∧ s.cway.role =
  .catchup ∧ recordOk bs = true ∧ s.seqGap bs = false ∧ (let b := (recordBody bs); recType bs = 0x06 ∧ (let h := (leAt b 0 4); (let n
  := (tileCount (leAt b 4 1) (leAt b 6 1) (leAt b 8 2) (leAt b 10 2) (leAt b 12 4)); tabFind s.objs (handleIndex h) = none ∧
  s.allocFails (handleFn h) n = none)))) ∧
    (∃ (bs : List Byte) (s : State), Canon s ∧ s.power.boot ≠ .inReset ∧ 2 ≤ s.cway.linkPhase ∧ s.cway.discarding = false ∧ s.cway.role =
  .catchup ∧ recordOk bs = true ∧ s.seqGap bs = false ∧ (let b := (recordBody bs); recType bs = 0x07 ∧ recLast bs = false ∧ ∃ o,
  s.objOf (leAt b 0 4) = some o)) ∧
    (∃ (bs : List Byte) (s : State), Canon s ∧ s.power.boot ≠ .inReset ∧ 2 ≤ s.cway.linkPhase ∧ s.cway.discarding = false ∧ s.cway.role =
  .catchup ∧ recordOk bs = true ∧ s.seqGap bs = false ∧ recType bs = 0x08 ∧ s.cway.finalStates ≠ 0) :=
  ⟨⟨(B_LogAndSnapshotApplied.getD 0 []), (S_LogAndSnapshotApplied.getD 0 live), canonOf (by decide +kernel), by decide +kernel,
  by decide +kernel, by decide +kernel, by decide +kernel, by decide +kernel, by decide +kernel, by decide +kernel, by decide +kernel⟩,
   ⟨(B_LogAndSnapshotApplied.getD 1 []), (S_LogAndSnapshotApplied.getD 0 live), canonOf (by decide +kernel), by decide +kernel,
  by decide +kernel, by decide +kernel, by decide +kernel, by decide +kernel, by decide +kernel, by decide +kernel, by decide +kernel⟩,
   ⟨(B_LogAndSnapshotApplied.getD 3 []), (S_LogAndSnapshotApplied.getD 0 live), canonOf (by decide +kernel), by decide +kernel,
  by decide +kernel, by decide +kernel, by decide +kernel, by decide +kernel, by decide +kernel, by decide +kernel, by decide +kernel⟩,
   ⟨(B_LogAndSnapshotApplied.getD 4 []), (S_LogAndSnapshotApplied.getD 1 live), canonOf (by decide +kernel), by decide +kernel,
  by decide +kernel, by decide +kernel, by decide +kernel, by decide +kernel, by decide +kernel, by decide +kernel,
  rp 3 7 (descOf 0 0 []).words (some 0), by decide +kernel, by decide +kernel, by decide +kernel, by decide +kernel,
  by decide +kernel⟩,
   ⟨(B_LogAndSnapshotApplied.getD 5 []), (S_LogAndSnapshotApplied.getD 0 live), canonOf (by decide +kernel), by decide +kernel,
  by decide +kernel, by decide +kernel, by decide +kernel, by decide +kernel, by decide +kernel, by decide +kernel, by decide +kernel,
  by decide +kernel, by decide +kernel⟩,
   ⟨(B_LogAndSnapshotApplied.getD 7 []), (S_LogAndSnapshotApplied.getD 0 live), canonOf (by decide +kernel), by decide +kernel,
  by decide +kernel, by decide +kernel, by decide +kernel, by decide +kernel, by decide +kernel, by decide +kernel, by decide +kernel,
  by decide +kernel, by decide +kernel⟩,
   ⟨(B_LogAndSnapshotApplied.getD 9 []), (S_LogAndSnapshotApplied.getD 0 live), canonOf (by decide +kernel), by decide +kernel,
  by decide +kernel, by decide +kernel, by decide +kernel, by decide +kernel, by decide +kernel, by decide +kernel⟩,
   ⟨(B_LogAndSnapshotApplied.getD 10 []), (S_LogAndSnapshotApplied.getD 3 live), canonOf (by decide +kernel), by decide +kernel,
  by decide +kernel, by decide +kernel, by decide +kernel, by decide +kernel, by decide +kernel, by decide +kernel, by decide +kernel,
  by decide +kernel⟩,
   ⟨(B_LogAndSnapshotApplied.getD 11 []), (S_LogAndSnapshotApplied.getD 3 live), canonOf (by decide +kernel), by decide +kernel,
  by decide +kernel, by decide +kernel, by decide +kernel, by decide +kernel, by decide +kernel, by decide +kernel, by decide +kernel,
  (((S_LogAndSnapshotApplied.getD 3 live).objOf (leAt (recordBody (B_LogAndSnapshotApplied.getD 11 [])) 0 4)).get
  (by decide +kernel)), by decide +kernel⟩,
   ⟨(B_LogAndSnapshotApplied.getD 12 []), (S_LogAndSnapshotApplied.getD 3 live), canonOf (by decide +kernel), by decide +kernel,
  by decide +kernel, by decide +kernel, by decide +kernel, by decide +kernel, by decide +kernel, by decide +kernel, by decide +kernel⟩⟩

theorem test_RolesChanged :
    (∃ (s : State), Canon s ∧ s.cway.resigning = true ∧ due s.cway.resign s.now = true) ∧
    (∃ (s : State), Canon s ∧ s.power.boot ≠ .inReset ∧ s.cway.role = .active ∧ s.cway.ackRole = 2 ∧ 2 ≤ s.cway.linkPhase) ∧
    (∃ (s : State), Canon s ∧ s.power.boot ≠ .inReset ∧ (s.cway.role ≠ .active ∨ s.cway.ackRole ≠ 2 ∨ s.cway.linkPhase < 2)) ∧
    (∃ (s : State), Canon s ∧ s.power.boot ≠ .inReset ∧ s.cway.role = .stale ∧ s.cway.peerRole = 1) ∧
    (∃ (s : State), Canon s ∧ s.power.boot ≠ .inReset ∧ (s.cway.role ≠ .stale ∨ s.cway.peerRole ≠ 1)) ∧
    (∃ (s : State), Canon s ∧ s.power.boot ≠ .inReset ∧ (s.cway.role = .stale ∨ s.cway.role = .catchup) ∧ s.cway.heartbeat = false) ∧
    (∃ (s : State), Canon s ∧ s.power.boot ≠ .inReset ∧ ((s.cway.role ≠ .stale ∧ s.cway.role ≠ .catchup) ∨ s.cway.heartbeat = true)) :=
  ⟨⟨(S_RolesChanged.getD 0 live), canonOf (by decide +kernel), by decide +kernel, by decide +kernel⟩,
   ⟨(S_RolesChanged.getD 1 live), canonOf (by decide +kernel), by decide +kernel, by decide +kernel, by decide +kernel,
  by decide +kernel⟩,
   ⟨(S_RolesChanged.getD 0 live), canonOf (by decide +kernel), by decide +kernel, by decide +kernel⟩,
   ⟨(S_RolesChanged.getD 3 live), canonOf (by decide +kernel), by decide +kernel, by decide +kernel, by decide +kernel⟩,
   ⟨(S_RolesChanged.getD 0 live), canonOf (by decide +kernel), by decide +kernel, by decide +kernel⟩,
   ⟨(S_RolesChanged.getD 3 live), canonOf (by decide +kernel), by decide +kernel, by decide +kernel, by decide +kernel⟩,
   ⟨(S_RolesChanged.getD 0 live), canonOf (by decide +kernel), by decide +kernel, by decide +kernel⟩⟩

/-! An almanac that passes its checks (R236 to R242): 8,240 bytes, all zero behind its set table. -/

def almTab : Tab Byte :=
  [(0, 0x01), (1, 0xAC), (2, 0xA1), (3, 0x50), (4, 1), (8, 0x30), (9, 0x20), (12, 0x4D), (13, 0x7B), (14, 0x07), (15, 0xF5), (16, 32), (18, 32),
   (20, 17), (24, 2), (26, 2), (28, 0xF8), (135, 1)]
def almO : Obj := { bufO with handle := 2305, cls := 3, size := 8240, versions := [{ v1 with bytes := almTab }] }
def almHead : List Byte := (List.range 256).map fun k => tabGet 0 almTab k
def almBs : List Byte := almHead ++ List.replicate 7984 0
def almS : State := holding { stocked with objs := stocked.objs ++ [(9, almO)] } [entryOf 1 (descOf opCalLoad 0 [2305, 0]) .plain false]

theorem alm_read : almO.read 0 almO.layout = almBs := by
  have h0 : almO.layout = 256 + 7984 := by decide
  have hz : ∀ k, tabGet (0 : Byte) almTab (256 + k) = 0 := by
    intro k
    have : ∀ a v, (a, v) ∈ almTab → a ≠ 256 + k := by
      intro a v h
      simp only [almTab, List.mem_cons, Prod.mk.injEq, List.not_mem_nil, or_false] at h
      omega
    have hf : ∀ t : Tab Byte, (∀ a v, (a, v) ∈ t → a ≠ 256 + k) → tabFind t (256 + k) = none := by
      intro t
      induction t with
      | nil => intro _; rfl
      | cons x t ih =>
        intro h
        obtain ⟨a, v⟩ := x
        simp only [tabFind, if_neg (h a v (by simp))]
        exact ih fun a v hv => h a v (by simp [hv])
    simp [tabGet, hf almTab this]
  have hb : ∀ k, almO.byte k = tabGet 0 almTab k := fun k => rfl
  unfold Obj.read almBs almHead
  rw [h0]
  simp only [Nat.sub_zero, Nat.min_self, Nat.zero_add, hb]
  rw [List.range_add, List.map_append, List.map_map]
  refine congrArg (List.map (tabGet 0 almTab) (List.range 256) ++ ·) ?_
  refine List.eq_replicate_iff.mpr ⟨?_, ?_⟩
  · rw [List.length_map, List.length_range]
  · intro b h
    obtain ⟨k, -, rfl⟩ := List.mem_map.mp h
    exact hz k

theorem crcRun_append (p : Nat) (a b : List Byte) : ∀ r, crcRun p r (a ++ b) = crcRun p (crcRun p r a) b := by
  induction a with
  | nil => intro r; rfl
  | cons x a ih => intro r; exact ih _

theorem times_add (f : Nat → Nat) (a b : Nat) : ∀ r, times f (a + b) r = times f b (times f a r) := by
  induction a with
  | zero => intro r; simp [times]
  | succ a ih => intro r; rw [Nat.succ_add]; exact ih _

theorem crcRun_zeros (n : Nat) : ∀ r, crcRun 0 r (List.replicate n 0) = times (crcBitR 0x82F63B78) (8 * n) r := by
  induction n with
  | zero => intro r; rfl
  | succ n ih =>
    intro r
    rw [List.replicate_succ, Nat.mul_succ, Nat.add_comm, times_add]
    show crcRun 0 (times (crcBitR 0x82F63B78) 8 (r ^^^ 0)) (List.replicate n 0) = _
    rw [ih, Nat.xor_zero]

theorem bytesAt_append (a b : List Byte) (n : Nat) (k : Nat) (hk : k ≤ a.length) (hn : k + n = a.length + b.length) :
    bytesAt (a ++ b) k n = a.drop k ++ b := by
  apply List.ext_getElem?
  intro i
  by_cases hi : i < n
  · simp only [bytesAt, List.getElem?_map, List.getElem?_range hi, Option.map_some, List.getD_eq_getElem?_getD]
    rw [← List.drop_append_of_le_length hk, List.getElem?_drop, List.getElem?_eq_getElem (by simp; omega)]
    rfl
  · rw [List.getElem?_eq_none (by simp [bytesAt]; omega), List.getElem?_eq_none (by simp; omega)]

/-- The running value after every 1,996 of the 63,872 steps over the zeros. -/
def almSteps : List Nat :=
  [1917986325, 2771116541, 1434268757, 3732955476, 2512152142, 2581133278, 301259897, 3024525439, 3946744543, 2118919672,
   3684537163, 376190214, 3058565636, 2042490940, 2181924124, 3818825518, 2660237562, 2579886823, 570603538, 2462154513,
   789870645, 4263840229, 3812866186, 1836984378, 3648655686, 455497716, 1784157307, 2452508183, 2162682354, 6679739,
   3439567286, 184059058]

/-- Checkpoints 1,996 steps apart. -/
def stepsOk : Nat → List Nat → Bool
  | _, [] => true
  | a, b :: l => decide (times (crcBitR 0x82F63B78) 1996 a = b) && stepsOk b l

theorem times_steps (l : List Nat) : ∀ a, stepsOk a l = true → times (crcBitR 0x82F63B78) (1996 * l.length) a = l.getLast?.getD a := by
  induction l with
  | nil => intro a _; rfl
  | cons b l ih =>
    intro a h
    simp only [stepsOk, Bool.and_eq_true, decide_eq_true_eq] at h
    rw [List.length_cons, Nat.mul_succ, Nat.add_comm, times_add, h.1, ih b h.2, List.getLast?_cons]
    rfl

theorem crc_parts (fold n v : Nat) (a : List Byte) (h : crcRun 0 (crcFold 0 fold) a = v) :
    crc32c fold (a ++ List.replicate n 0) = times (crcBitR 0x82F63B78) (8 * n) v ^^^ crcXorout 0 := by
  unfold crc32c crcOf
  rw [crcRun_append, h, crcRun_zeros]

theorem crc_of_parts {size n v w : Nat} {hd : List Byte} (hs : almSize (hd ++ List.replicate n 0) = size) (hl : 16 ≤ hd.length)
    (hn : 16 + (size - 16) = hd.length + n) (h1 : crcRun 0 (crcFold 0 size) (hd.drop 16) = v)
    (h2 : times (crcBitR 0x82F63B78) (8 * n) v = w) : almCrc (hd ++ List.replicate n 0) = w ^^^ crcXorout 0 := by
  unfold almCrc
  rw [hs, bytesAt_append _ _ _ _ hl (by rw [List.length_replicate]; exact hn), crc_parts _ _ _ _ h1, h2]

/-- The CRC of the bytes behind the identity, a run of zeros at a time. -/
theorem alm_crc : almCrc almBs = 4110908237 := by
  have hl : almHead.length = 256 := by rw [almHead, List.length_map, List.length_range]
  have h2 := times_steps almSteps 539188444 (by decide +kernel)
  rw [show 1996 * almSteps.length = 8 * 7984 by decide +kernel] at h2
  have h3 := crc_of_parts (size := 8240) (hd := almHead) (by decide +kernel) (by rw [hl]; omega) (by rw [hl]) (by decide +kernel) h2
  exact h3.trans (by decide +kernel)

theorem leAt_zeros (a : List Byte) (n k : Nat) (hk : a.length ≤ k) (m : Nat) : leAt (a ++ List.replicate n 0) k m = 0 := by
  have h : bytesAt (a ++ List.replicate n 0) k m = List.replicate m 0 := by
    apply List.eq_replicate_iff.mpr
    refine ⟨by simp [bytesAt], ?_⟩
    intro b hb
    obtain ⟨i, -, rfl⟩ := List.mem_map.mp hb
    rw [List.getD_eq_getElem?_getD, List.getElem?_append_right (by omega), List.getElem?_replicate]
    split <;> rfl
  rw [leAt, h]
  clear h
  induction m with
  | zero => rfl
  | succ m ih => rw [List.replicate_succ, leNat, ih]; rfl

theorem alm_items : firstItem (rangeItems almBs) = none := by
  have hz : (List.range 1786).findSome? (fun i => if (nonZero almBs (6406 + i)).2 then some (nonZero almBs (6406 + i)).1 else none) = none := by
    rw [List.findSome?_eq_none_iff]
    intro i _
    have : leAt almBs (6406 + i) 1 = 0 := leAt_zeros _ _ _ (by rw [almHead, List.length_map, List.length_range]; omega) _
    simp [nonZero, this]
  have hl : ∀ xs ys : List (Nat × Bool), firstItem (xs ++ ys) = (firstItem xs <|> firstItem ys) := by
    intro xs ys
    simp [firstItem, List.findSome?_append]
  have hm : firstItem ((List.range 1786).map fun i => nonZero almBs (6406 + i)) = none := by
    unfold firstItem
    rw [List.findSome?_map]
    exact hz
  unfold rangeItems
  simp only [hl, hm]
  decide +kernel

/-- CAL_LOAD_START's checks pass (R242). -/
theorem alm_passes : almS.calFail (the almS 1).desc almO = none := by
  have h1 : almS.follower (the almS 1).desc.calPort = false := by decide +kernel
  have h2 : (firstItem (shapeItems almBs almBs.length)).map (almFail 4) = none := by
    rw [show almBs.length = 8240 by rw [almBs, List.length_append, almHead, List.length_map, List.length_range, List.length_replicate]]
    decide +kernel
  have h3 : (firstItem (nodeItems almBs)).map (almFail 4) = none := by decide +kernel
  have h4 : (almS.port (the almS 1).desc.calPort).everStarted = false := by decide +kernel
  have h5 : almSize almBs = 8240 := by decide +kernel
  have h6 : failIf (decide (almS.chnCapacity < almS.chnUse + pinTiles 8240)) (noSpace 3) = none := by decide +kernel
  have h7 : almIdent almBs = 4110908237 := by decide +kernel
  unfold State.calFail State.almChecks
  simp only [h1, alm_read, h2, h3, h4, h5, h6, h7, alm_items, alm_crc]
  decide +kernel

theorem test_AlmanacLoads_passing :
  ∃ (id : Nat) (e : Entry) (s : State), Canon s ∧ Completing s id e ∧ ∃ o, e.desc.opcode = opCalLoad ∧ e.started = false ∧ s.noWait e = true ∧
    s.objOf (e.desc.w 2) = some o ∧ s.calFail e.desc o = none :=
  ⟨1, the almS 1, almS, canonOf (by decide +kernel), completingOf (by decide +kernel), almO, by decide +kernel, by decide +kernel,
   by decide +kernel, by decide +kernel, alm_passes⟩

end Sys2Proof.Tests
end

/-! What a tick with nothing waiting changes and what it leaves alone (O2): lemmas about the sending lanes, the end of a CLK_FAB cycle
and the PCIe side, each in the terms of the state before it. -/

namespace Sys2Proof.Machine

/-! ### The sending lanes of the ports -/

/-- Link `m` is `l` but for what its sending lanes have done. -/
structure Link.LanesMoved (l m : Link) : Prop where
  frame : { m with coder := l.coder, precode := l.precode, precodeNext := l.precodeNext } = l

theorem Link.LanesMoved.refl (l : Link) : l.LanesMoved l := ⟨rfl⟩

theorem Link.LanesMoved.trans {l m n : Link} (h : l.LanesMoved m) (k : m.LanesMoved n) : l.LanesMoved n :=
  ⟨(congrArg (fun x : Link => { x with coder := l.coder, precode := l.precode, precodeNext := l.precodeNext }) k.frame).trans h.frame⟩

theorem Link.noteUses_lanesMoved (l : Link) (t : Nat) : l.LanesMoved (l.noteUses t) := by
  unfold Link.noteUses
  extract_lets
  split <;> exact ⟨rfl⟩

theorem Link.takePrecode_lanesMoved (l : Link) (us : List LaneUse) : l.LanesMoved (l.takePrecode us) := by
  unfold Link.takePrecode
  split
  · split <;> exact ⟨rfl⟩
  · exact ⟨rfl⟩

theorem Link.position_lanesMoved (port : Nat) (ffe : Nat → Ffe) (forced : Option Septet) (l : Link) :
    l.LanesMoved (l.position port ffe forced) :=
  (l.takePrecode_lanesMoved _).trans ⟨rfl⟩

theorem Link.positionsTo_lanesMoved (port : Nat) (ffe : Nat → Ffe) (limit n : Nat) (l : Link) :
    l.LanesMoved (l.positionsTo port ffe limit n) := by
  induction n generalizing l with
  | zero => exact .refl l
  | succ n ih =>
    unfold Link.positionsTo
    split
    · exact (l.position_lanesMoved port ffe none).trans (ih _)
    · exact .refl l

/-- State `t` is `s` but for what the sending lanes of the ports have done. -/
structure State.LanesMoved (s t : State) : Prop where
  frame : t = { s with ports := t.ports }
  port  : ∀ p, { t.port p with link := (s.port p).link } = s.port p
  link  : ∀ p, (s.port p).link.LanesMoved (t.port p).link

theorem State.LanesMoved.refl (s : State) : s.LanesMoved s := ⟨rfl, fun _ => rfl, fun _ => .refl _⟩

theorem State.LanesMoved.trans {s t u : State} (h : s.LanesMoved t) (k : t.LanesMoved u) : s.LanesMoved u where
  frame := k.frame.trans (congrArg (fun x : State => { x with ports := u.ports }) h.frame)
  port p := (congrArg (fun q : Port => { q with link := (s.port p).link }) (k.port p)).trans (h.port p)
  link p := (h.link p).trans (k.link p)

theorem State.modLink_lanesMoved (s : State) (p : Nat) {f : Link → Link} (hf : ∀ l : Link, l.LanesMoved (f l)) :
    s.LanesMoved (s.modLink p f) := by
  have here : (s.modLink p f).port p = { s.port p with link := f (s.port p).link } := s.port_modPort p _
  have other : ∀ {j}, j ≠ p → (s.modLink p f).port j = s.port j := fun h => s.port_modPort_ne _ h
  refine ⟨rfl, fun j => ?_, fun j => ?_⟩ <;> by_cases hj : j = p
  · subst hj; rw [here]
  · rw [other hj]
  · subst hj; rw [here]; exact hf _
  · rw [other hj]; exact .refl _

theorem State.laneTick_lanesMoved (s : State) (p : Nat) : s.LanesMoved (s.laneTick p) := by
  unfold State.laneTick
  extract_lets l idle
  split
  · exact .refl s
  · refine (s.modLink_lanesMoved p fun l => ?_).trans (State.modLink_lanesMoved _ p fun l => l.positionsTo_lanesMoved _ _ _ _)
    split
    · exact Link.LanesMoved.trans (⟨rfl⟩ : l.LanesMoved (l.resumeAt s.now)) (Link.noteUses_lanesMoved _ _)
    · exact l.noteUses_lanesMoved _

/-- The sending lanes of the four ports through a tick change nothing but what they have sent (R347). -/
theorem State.laneTicks_lanesMoved (s : State) : s.LanesMoved (forN 4 (fun p s => s.laneTick p) s) :=
  List.foldlRecOn (List.range 4) (motive := s.LanesMoved) (fun t p => t.laneTick p) (.refl s) fun t h p _ => h.trans (t.laneTick_lanesMoved p)

/-! ### The sending lanes of the Causeway -/

/-- State `t` is `s` but for what the sending lanes of the Causeway have done. -/
structure State.WireMoved (s t : State) : Prop where
  frame : t = { s with cway := t.cway }
  cway  : { t.cway with wire := s.cway.wire, placed := s.cway.placed } = s.cway

theorem State.WireMoved.trans {s t u : State} (h : s.WireMoved t) (k : t.WireMoved u) : s.WireMoved u where
  frame := k.frame.trans (congrArg (fun x : State => { x with cway := u.cway }) h.frame)
  cway := (congrArg (fun c : Cway => { c with wire := s.cway.wire, placed := s.cway.placed }) k.cway).trans h.cway

/-- Whatever the lanes do and however many records they have taken, only that has changed. -/
theorem State.wireMoved_of_update (s : State) (w : Link) (n : Nat) :
    s.WireMoved { s with cway := { s.cway with wire := w, placed := n } } := ⟨rfl, rfl⟩

theorem State.placeRecord_wireMoved (s : State) : s.WireMoved s.placeRecord := by
  unfold State.placeRecord
  split
  · split
    · split
      · exact s.wireMoved_of_update _ _
      · exact s.wireMoved_of_update _ _
    · exact s.wireMoved_of_update _ _
  · exact s.wireMoved_of_update _ _

/-- The Causeway's sending lanes through a tick change nothing but what they have sent (R509). -/
theorem State.wireTick_wireMoved (s : State) : s.WireMoved s.wireTick := by
  unfold State.wireTick
  extract_lets w
  split
  · exact s.wireMoved_of_update _ _
  · exact ((s.wireMoved_of_update _ _).trans (State.placeRecord_wireMoved _)).trans (State.wireMoved_of_update _ _ _)

/-! ### The end of a CLK_FAB cycle -/

/-- State `t` is `s` but for what the making of records changes: the error block and its registers, what is issued, and the
Causeway's records (R537 to R547). -/
structure State.Recorded (s t : State) : Prop where
  frame : t = { s with flt := t.flt, regs := t.regs, egress := t.egress, cway := t.cway }

theorem State.Recorded.refl (s : State) : s.Recorded s := ⟨rfl⟩

theorem State.Recorded.trans {s t u : State} (h : s.Recorded t) (k : t.Recorded u) : s.Recorded u :=
  ⟨k.frame.trans (congrArg (fun x : State => { x with flt := u.flt, regs := u.regs, egress := u.egress, cway := u.cway }) h.frame)⟩

theorem State.recorded_of_update (s : State) (f : Flt) (r : Tab Word) (e : List Egress) (c : Cway) :
    s.Recorded { s with flt := f, regs := r, egress := e, cway := c } := ⟨rfl⟩

theorem State.fltStore_recorded (s : State) (sev : Nat) (bytes : List Byte) : s.Recorded (s.fltStore sev bytes) := by
  unfold State.fltStore
  split
  · exact s.recorded_of_update _ _ _ _
  · split
    · extract_lets n
      split
      · exact s.recorded_of_update _ _ _ _
      · exact s.recorded_of_update _ _ _ _
    · exact s.recorded_of_update _ _ _ _

theorem State.cwaySend_recorded (s : State) (type : Nat) (last : Bool) (ring dseq : Nat) (body : List Byte) :
    s.Recorded (s.cwaySend type last ring dseq body) := by
  unfold State.cwaySend
  split
  · exact s.recorded_of_update _ _ _ _
  · exact .refl s

theorem State.makeRecord_recorded (s : State) (r : Raised) : s.Recorded (s.makeRecord r) := by
  unfold State.makeRecord
  extract_lets e nested pin ws bytes latch first s1 s2 s3 s4 s5
  have numbered : s.Recorded s1 := s.recorded_of_update _ _ _ _
  have nestCounted : s1.Recorded s2 := by
    unfold s2
    split
    · exact s1.recorded_of_update _ _ _ _
    · exact .refl s1
  have counted : s2.Recorded s3 := s2.recorded_of_update _ _ _ _
  have signalled : s4.Recorded s5 :=
    List.foldlRecOn (motive := s4.Recorded) _ _ (.refl s4) fun t h _ _ => h.trans (t.recorded_of_update _ _ _ _)
  have made : s.Recorded s5 := (((numbered.trans nestCounted).trans counted).trans (s3.fltStore_recorded _ _)).trans signalled
  split
  · exact made.trans (s5.cwaySend_recorded _ _ _ _ _)
  · exact made

theorem State.endCycle_recorded (s : State) : s.Recorded s.endCycle :=
  List.foldlRecOn (motive := s.Recorded) _ _ (s.recorded_of_update _ _ _ _) fun t h r _ => h.trans (t.makeRecord_recorded r)

/-- A cycle in which nothing was raised ends without a trace. -/
theorem State.endCycle_of_raised_nil {s : State} (h : s.flt.raised = []) : s.endCycle = s := by
  have cleared : { s with flt := { s.flt with raised := [] } } = s := by rw [← h]
  unfold State.endCycle
  rw [cleared, h]
  rfl

/-! ### The PCIe side -/

theorem State.pcieTick_eq (s : State) : ∃ x, s.pcieTick = { s with pcie := x } := by
  unfold State.pcieTick
  extract_lets
  split
  · exact ⟨_, rfl⟩
  · exact ⟨_, rfl⟩

/-! ### The tick -/

/-- The end of a tick: the CLK_FAB cycle that ends with an even one (R538, R601). -/
theorem State.evenEndCycle_recorded (s : State) : s.Recorded (if s.now % 2 = 0 then s.endCycle else s) := by
  split
  · exact s.endCycle_recorded
  · exact .refl s

theorem State.evenEndCycle_eq {s : State} (h : s.now % 2 = 1 ∨ s.flt.raised = []) : (if s.now % 2 = 0 then s.endCycle else s) = s := by
  split
  · exact State.endCycle_of_raised_nil (h.resolve_left (by omega))
  · rfl

/-- The Tide advances at every sixth tick of a running device and stands otherwise (R455, R601). -/
theorem State.tideEdge_eq (s : State) : (if s.now % 6 = 0 ∧ s.running then { s with tide := s.tide.edge } else s) =
    { s with tide := if s.now % 6 = 0 ∧ s.power.boot ≠ .inReset then s.tide.edge else s.tide } := by
  simp only [State.running, decide_eq_true_eq]
  split <;> rfl

/-- The state after the lanes, the Causeway's lanes and the end of the cycle, written over the state before them. -/
theorem State.LanesMoved.then_wire_then_records {s a b c : State} (lanes : s.LanesMoved a) (wire : a.WireMoved b)
    (cycle : State.Recorded { b with now := s.now + 1 } c) :
    c = { s with now := s.now + 1, ports := a.ports, cway := c.cway, flt := c.flt, regs := c.regs, egress := c.egress } :=
  calc c = { b with now := s.now + 1, flt := c.flt, regs := c.regs, egress := c.egress, cway := c.cway } := cycle.frame
    _ = { a with now := s.now + 1, flt := c.flt, regs := c.regs, egress := c.egress, cway := c.cway } :=
      congrArg (fun x : State => { x with now := s.now + 1, flt := c.flt, regs := c.regs, egress := c.egress, cway := c.cway }) wire.frame
    _ = _ :=
      congrArg (fun x : State => { x with now := s.now + 1, flt := c.flt, regs := c.regs, egress := c.egress, cway := c.cway }) lanes.frame

/-- A tick, part by part: the lanes, the clock and the Tide, the end of the CLK_FAB cycle, the PCIe side (log 1). -/
theorem State.tick_eq (s : State) : ∃ (a b c : State) (x : Pcie), s.LanesMoved a ∧ a.WireMoved b ∧
    State.Recorded { b with now := s.now + 1 } c ∧ ((s.now + 1) % 2 = 1 ∨ b.flt.raised = [] → c = { b with now := s.now + 1 }) ∧
    s.tick = { s with
      now := s.now + 1, tide := if (s.now + 1) % 6 = 0 ∧ s.power.boot ≠ .inReset then s.tide.edge else s.tide
      ports := a.ports, cway := c.cway, flt := c.flt, regs := c.regs, egress := c.egress, pcie := x } := by
  unfold State.tick
  extract_lets b d c e
  have lanes := s.laneTicks_lanesMoved
  have wire : State.WireMoved _ b := State.wireTick_wireMoved (forN 4 (fun p s => s.laneTick p) s)
  have clock : d = { b with now := s.now + 1 } := by
    unfold d
    rw [wire.frame, lanes.frame]
  have cycle : d.Recorded c := d.evenEndCycle_recorded
  obtain ⟨x, pcie⟩ := e.pcieTick_eq
  refine ⟨_, b, c, x, lanes, wire, clock ▸ cycle, fun quiet => ?_, ?_⟩
  · rw [← clock]
    refine State.evenEndCycle_eq ?_
    rw [clock]
    exact quiet
  · have parts := lanes.then_wire_then_records wire (clock ▸ cycle)
    have tide : e = { c with tide := _ } := c.tideEdge_eq
    clear_value e c
    rw [pcie, tide, parts]

/-- Settles O2: the lanes, the end of the cycle and the PCIe side are taken in turn, each by the frame of its own. -/
theorem idleStepIsOneTick : Obligations.IdleStepIsOneTick := by
  intro s idle
  obtain ⟨a, b, c, x, lanes, wire, cycle, quiet, made⟩ := s.tick_eq
  refine ⟨s.tick, by rw [step, idle], ?_⟩
  rw [made]
  refine ⟨rfl, rfl, fun p => ⟨lanes.port p, (lanes.link p).frame⟩, rfl, fun h => ?_⟩
  have flt : b.flt = s.flt := by rw [wire.frame, lanes.frame]
  have regs : b.regs = s.regs := by rw [wire.frame, lanes.frame]
  have egress : b.egress = s.egress := by rw [wire.frame, lanes.frame]
  have cway : a.cway = s.cway := by rw [lanes.frame]
  rw [quiet (flt ▸ h)]
  exact ⟨flt, regs, egress, cway ▸ wire.cway⟩

end Sys2Proof.Machine

/-! What a host write of a register changes and what it leaves alone (O18): the new value of a word bit by bit, the words that only the
plain write answers for, and the MSI-X tables. -/

namespace Sys2Proof.Machine

theorem State.running_eq_true {s : State} (h : s.power.boot ≠ .inReset) : s.running = true := decide_eq_true h

/-! ### The plain write (R7) -/

theorem testBit_without (x mask : Nat) {b : Nat} (hb : b < 32) : (without x mask).testBit b = (x.testBit b && !mask.testBit b) := by
  have ones : (0xFFFFFFFF : Nat).testBit b = true := by
    rw [show (0xFFFFFFFF : Nat) = 2 ^ 32 - 1 from rfl, Nat.testBit_two_pow_sub_one]
    exact decide_eq_true hb
  simp [without, ones]

theorem RegRow.testBit_next (r : RegRow) (locked : Bool) (old v : Nat) {b : Nat} (hb : b < 32) :
    (r.next locked old v).testBit b =
      ((if r.rw.testBit b || (r.rwl.testBit b && !locked) then v.testBit b else old.testBit b) && !(r.w1c.testBit b && v.testBit b)) := by
  have free : (if locked then r.rw else r.rw ||| r.rwl).testBit b = (r.rw.testBit b || (r.rwl.testBit b && !locked)) := by
    cases locked <;> simp
  unfold RegRow.next
  extract_lets mask
  rw [testBit_without _ _ hb, Nat.testBit_or, testBit_without _ _ hb, Nat.testBit_and, Nat.testBit_and, free]
  cases (r.rw.testBit b || (r.rwl.testBit b && !locked)) <;> simp [Bool.and_comm]

theorem State.maskWrite_of_some {s : State} {off : Nat} {row : RegRow} (h : pfRow off = some row) (locked : Bool) (v : Nat) :
    s.maskWrite locked off v = s.setReg off (row.next locked (s.reg off) v) := by
  rw [State.maskWrite, h]

theorem State.maskWrite_of_none {off : Nat} (h : pfRow off = none) (s : State) (locked : Bool) (v : Nat) :
    s.maskWrite locked off v = s := by
  rw [State.maskWrite, h]

/-! ### A host write by where it goes (R11, R75, R76, R79) -/

theorem State.hostWrite_unaligned {off size : Nat} (h : size ≠ 4 ∨ off % 4 ≠ 0) (s : State) (f v : Nat) : s.hostWrite f off size v = s := by
  rw [State.hostWrite, if_pos h]

/-- No register of a plain offset acts on a write: the plain write is all of it. -/
theorem State.writePf_plain {off : Nat} (plain : plainOffset off = true) (s : State) (v : Nat) :
    s.writePf off v = s.maskWrite s.power.setupLock off v := by
  have under : ¬(0x5000 ≤ off ∧ off < 0x6000 ∧ off % 0x400 = 0x4C) := by rintro ⟨h1, h2, h3⟩; simp [plainOffset, h1, h2, h3] at plain
  have loop : ¬(0x6000 ≤ off ∧ off < 0x7000 ∧ off % 0x400 = 0x80) := by rintro ⟨h1, h2, h3⟩; simp [plainOffset, h1, h2, h3] at plain
  have group : ¬(0x8080 ≤ off ∧ off ≤ 0x8098) := by rintro ⟨h1, h2⟩; simp [plainOffset, h1, h2] at plain
  simp only [plainOffset, Bool.and_eq_true, Bool.not_eq_true', List.contains_cons, Bool.or_eq_false_iff, beq_eq_false_iff_ne] at plain
  obtain ⟨⟨⟨⟨⟨⟨-, mirrored⟩, -⟩, acting⟩, -⟩, -⟩, -⟩ := plain
  simp [State.writePf, mirrored, acting, under, loop, group]

theorem State.hostWrite_plain {off : Nat} (aligned : off % 4 = 0) (plain : plainOffset off = true) (s : State) (v : Nat) :
    s.hostWrite 0 off 4 v = s.maskWrite s.power.setupLock off v := by
  have bar2 : inBar2 off = false := by
    cases h : inBar2 off with
    | false => rfl
    | true => simp [plainOffset, h] at plain
  have rings : ¬(0x1000 ≤ off ∧ off < 0x2000) := by rintro ⟨h1, h2⟩; simp [plainOffset, h1, h2] at plain
  simp [State.hostWrite, aligned, bar2, rings, State.writePf_plain plain]

/-- A VF's BAR0 has its rings only (R79, R80). -/
theorem State.hostWrite_vf_outside {f off : Nat} (vf : f ≠ 0) (outside : off < 0x100 ∨ 0x200 ≤ off) (bar2 : inBar2 off = false) (s : State)
    (v : Nat) : s.hostWrite f off 4 v = s := by
  have rings : ¬(0x100 ≤ off ∧ off < 0x200) := by omega
  simp [State.hostWrite, bar2, vf, rings]

theorem msixEntries_le (f : Nat) : msixEntries f ≤ 16 := by
  unfold msixEntries
  split <;> omega

theorem State.hostWrite_bar2 {f off : Nat} (aligned : off % 4 = 0) (inTable : off < 16 * msixEntries f) (s : State) (v : Nat) :
    s.hostWrite f (0x10000 + off) 4 v = { s with pcie := s.pcie.setBar2 f off v } := by
  have bar2 : inBar2 (0x10000 + off) = true := by
    have := msixEntries_le f
    simp only [inBar2, Bool.and_eq_true, decide_eq_true_eq]
    omega
  have word : (0x10000 + off) % 4 = 0 := by omega
  simp [State.hostWrite, word, bar2]

/-! ### The MSI-X tables (R75, log 63) -/

theorem Pcie.setBar2_table_of_mem {f off : Nat} (inTable : off < 16 * msixEntries f) (x : Pcie) (v : Nat) :
    (x.setBar2 f off v).table =
      tabSet (entryReset off) x.table (4096 * f + off) (BitVec.ofNat 32 (if off % 16 = 12 then v % 2 else v)) := by
  unfold Pcie.setBar2
  rw [if_pos inTable]
  extract_lets w y k
  split <;> rfl

theorem Pcie.entryWord_setBar2 {f off : Nat} (inTable : off < 16 * msixEntries f) {x : Pcie} (sorted : tabSorted x.table) (v : Nat) :
    (x.setBar2 f off v).entryWord f off = (if off % 16 = 12 then v % 2 else v) % 2 ^ 32 := by
  rw [Pcie.entryWord, Pcie.setBar2_table_of_mem inTable, tabGet_set _ sorted, BitVec.toNat_ofNat]

theorem Pcie.entryWord_setBar2_ne {f off : Nat} (inTable : off < 16 * msixEntries f) (x : Pcie) (v : Nat) {g o : Nat} (page : o < 4096)
    (other : g ≠ f ∨ o ≠ off) : (x.setBar2 f off v).entryWord g o = x.entryWord g o := by
  have := msixEntries_le f
  have key : 4096 * g + o ≠ 4096 * f + off := by omega
  rw [Pcie.entryWord, Pcie.entryWord, Pcie.setBar2_table_of_mem inTable, tabGet_set_ne _ _ _ _ key]

theorem exec_registerWrite {s : State} (h : s.power.boot ≠ .inReset) (f : Fin 16) (off size : Nat) (v : Word) :
    exec (.registerWrite f off size v) s = .next (s.hostWrite f off size v.toNat) :=
  if_pos (State.running_eq_true h)

/-- Settles O18: each clause is the host write of one kind of place. -/
theorem registerWrites : Obligations.RegisterWrites := by
  intro s canon run
  refine ⟨fun off row v aligned plain hrow => ⟨_, exec_registerWrite run 0 off 4 v, ?_⟩, fun off v plain hrow => ?_, fun f off size v h => ?_,
    fun f off v vf outside bar2 => ?_, fun f off v aligned inTable => ⟨_, exec_registerWrite run f _ 4 v, ?_⟩,
    if_pos (State.running_eq_true run)⟩
  · rw [Fin.val_zero, State.hostWrite_plain aligned plain, State.maskWrite_of_some hrow]
    refine ⟨fun b hb => ?_, fun o ho => s.reg_setReg_ne _ ho, rfl⟩
    rw [State.reg_setReg canon.regs.1, Nat.testBit_mod_two_pow, RegRow.testBit_next _ _ _ _ hb]
    simp [hb, BitVec.testBit_toNat]
  · rw [exec_registerWrite run]
    by_cases aligned : off % 4 = 0
    · rw [Fin.val_zero, State.hostWrite_plain aligned plain, State.maskWrite_of_none hrow]
    · rw [State.hostWrite_unaligned (.inr aligned)]
  · rw [exec_registerWrite run, State.hostWrite_unaligned h]
  · rw [exec_registerWrite run, State.hostWrite_vf_outside (fun h => vf (Fin.ext h)) outside bar2]
  · rw [State.hostWrite_bar2 aligned inTable]
    refine ⟨?_, fun g o _ page other => Pcie.entryWord_setBar2_ne inTable _ _ page other, rfl⟩
    have small : (if off % 16 = 12 then v.toNat % 2 else v.toNat) < 2 ^ 32 := by
      split <;> omega
    exact (Pcie.entryWord_setBar2 inTable canon.table _).trans (Nat.mod_eq_of_lt small)

end Sys2Proof.Machine

/-! What a host read captures and returns (O19): captures change the captured words alone, and each first word captures what stands
behind it. -/

namespace Sys2Proof.Machine

/-! ### Captures change nothing else (R10) -/

/-- State `t` is `s` but for the captured words. -/
structure State.Captured (s t : State) : Prop where
  frame : t = { s with capts := t.capts }

theorem State.Captured.refl (s : State) : s.Captured s := ⟨rfl⟩

theorem State.Captured.trans {s t u : State} (h : s.Captured t) (k : t.Captured u) : s.Captured u :=
  ⟨k.frame.trans (congrArg (fun x : State => { x with capts := u.capts }) h.frame)⟩

theorem State.setCapt_captured (s : State) (off v : Nat) : s.Captured (s.setCapt off v) := ⟨rfl⟩

theorem State.captureRegs_captured (s : State) (base : Nat) (l : List Nat) : s.Captured (s.captureRegs base l) :=
  List.foldlRecOn (motive := s.Captured) l _ (.refl s) fun t h _ _ => h.trans (t.setCapt_captured _ _)

theorem State.captureScan_captured (s : State) (p sub : Nat) : s.Captured (s.captureScan p sub) := by
  unfold State.captureScan
  split_ifs
  · exact s.setCapt_captured _ _
  · exact s.setCapt_captured _ _
  · exact s.captureRegs_captured _ _
  · exact s.captureRegs_captured _ _
  · exact .refl s

theorem State.captureFirst_captured (s : State) : s.Captured s.captureFirst :=
  List.foldlRecOn (motive := s.Captured) _ _ (.refl s) fun t h _ _ => h.trans (t.setCapt_captured _ _)

theorem State.capture_captured (s : State) (off : Nat) : s.Captured (s.capture off) := by
  unfold State.capture
  split_ifs
  · exact s.captureScan_captured _ _
  · exact ⟨rfl⟩
  · exact s.captureRegs_captured _ _
  · exact s.captureRegs_captured _ _
  · exact ⟨rfl⟩
  · exact s.setCapt_captured _ _
  · exact s.setCapt_captured _ _
  · exact s.captureFirst_captured
  · exact .refl s

/-- The captures of all the words a read of the PF touches. -/
theorem State.captures_captured (s : State) (off size : Nat) : s.Captured ((touched off size).foldl State.capture s) :=
  List.foldlRecOn (motive := s.Captured) _ _ (.refl s) fun t h _ _ => h.trans (t.capture_captured _)

/-! ### What each first word captures -/

theorem State.capture_tallyUnit (s : State) (k : Fin 8) : s.capture (0xB040 + 8 * k) = s.captureRun k := by
  have word : 0xB040 ≤ 0xB040 + 8 * (k : Nat) ∧ 0xB040 + 8 * (k : Nat) < 0xB080 ∧ (0xB040 + 8 * (k : Nat)) % 8 = 0 := by omega
  have unit : (0xB040 + 8 * (k : Nat) - 0xB040) / 8 = k := by omega
  unfold State.capture
  rw [if_neg (by omega), if_neg (by omega), if_neg (by omega), if_neg (by omega), if_pos word, unit]

theorem State.capture_rmapSig (s : State) (p : Fin 4) : s.capture (0x4424 + 0x80 * p) = s.captureSig p := by
  have word : 0x4400 ≤ 0x4424 + 0x80 * (p : Nat) ∧ 0x4424 + 0x80 * (p : Nat) < 0x4600 ∧ (0x4424 + 0x80 * (p : Nat)) % 0x80 = 0x24 := by omega
  have port : (0x4424 + 0x80 * (p : Nat) - 0x4400) / 0x80 = p := by omega
  unfold State.capture
  rw [if_neg (by omega), if_neg (by omega), if_neg (by omega), if_neg (by omega), if_neg (by omega), if_pos word, port]

theorem State.capture_shepStat (s : State) (p : Fin 4) : s.capture (0x4614 + 0x40 * p) = s.captureAge p := by
  have word : 0x4600 ≤ 0x4614 + 0x40 * (p : Nat) ∧ 0x4614 + 0x40 * (p : Nat) < 0x4700 ∧ (0x4614 + 0x40 * (p : Nat)) % 0x40 = 0x14 := by omega
  have port : (0x4614 + 0x40 * (p : Nat) - 0x4600) / 0x40 = p := by omega
  unfold State.capture
  rw [if_neg (by omega), if_neg (by omega), if_neg (by omega), if_neg (by omega), if_neg (by omega), if_neg (by omega), if_pos word, port]

theorem State.capture_tideNow (s : State) : s.capture 0x8000 = s.captureTide := rfl

/-! ### What a read returns -/

/-- A read of one word of the PF touches that word alone and returns its bytes as they stand after its capture. -/
theorem State.hostRead_word (s : State) {off : Nat} (aligned : off % 4 = 0) (bar0 : off < 0x10000) :
    s.hostRead 0 off 4 = (s.capture off).emit (.readReturn 0 off (leBytes 4 ((s.capture off).readWord off))) := by
  have alone : touched off 4 = [off] := by
    have one : (off + 4 + 3) / 4 - off / 4 = 1 := by omega
    have whole : 4 * (off / 4) = off := by omega
    simp [touched, one, whole]
  have low : inBar2 off = false := by simp [inBar2]; omega
  have byte : ∀ i, i < 4 → (s.capture off).readByte 0 (off + i) = BitVec.ofNat 8 ((s.capture off).readWord off / 256 ^ i) := by
    intro i hi
    have word : (off + i) / 4 * 4 = off := by omega
    have place : (off + i) % 4 = i := by omega
    simp [State.readByte, State.readBar, word, place, low]
  simp only [State.hostRead, alone, if_true, List.foldl_cons, List.foldl_nil]
  congr 2
  have first : (s.capture off).readByte 0 off = BitVec.ofNat 8 ((s.capture off).readWord off) := by simpa using byte 0 (by omega)
  simp [List.range_succ, leBytes, first, byte, Nat.div_div_eq_div_mul]

/-- A read by a VF makes no captures (R79). -/
theorem State.hostRead_vf {f : Nat} (vf : f ≠ 0) (s : State) (off size : Nat) :
    s.hostRead f off size = s.emit (.readReturn f off ((List.range size).map fun i => s.readByte f (off + i))) := by
  simp only [State.hostRead, if_neg vf]

/-- A read of the PF returns the bytes as they stand once every capture is made (R10, R12). -/
theorem State.hostRead_pf_egress (s : State) (off size : Nat) : (s.hostRead 0 off size).egress = s.egress ++
    [.readReturn 0 off ((List.range size).map fun i => State.readByte { s with capts := (s.hostRead 0 off size).capts } 0 (off + i))] := by
  obtain ⟨frame⟩ := s.captures_captured off size
  simp only [State.hostRead, if_true, State.emit_egress, State.emit_capts]
  generalize (touched off size).foldl State.capture s = u at frame ⊢
  have out : u.egress = s.egress := by rw [frame]
  rw [← frame, out]

theorem State.hostRead_frame (s : State) (f off size : Nat) : { s.hostRead f off size with capts := s.capts, egress := s.egress } = s := by
  unfold State.hostRead
  split
  · exact congrArg (fun x : State => { x with capts := s.capts, egress := s.egress }) (s.captures_captured off size).frame
  · rfl

/-! ### The first words (R266, R285, R432, R479) -/

theorem State.readWord_tallyUnit (s : State) (k : Fin 8) : s.readWord (0xB040 + 8 * k) =
    if (s.unit k).busy then (s.unit k).fn % 16 * 2 ^ 28 + 256 + (s.unit k).poly % 4 else 0 := by
  have row : ∀ k : Fin 8, (pfRow (0xB040 + 8 * k)).isNone = false := by decide
  have block : (0xB040 + 8 * (k : Nat)) / 0x1000 = 11 := by omega
  have unit : (0xB040 + 8 * (k : Nat) - 0xB040) / 8 = k := by omega
  have even : ¬(0xB040 + 8 * (k : Nat)) % 8 = 4 := by omega
  rw [State.readWord, row k, block]
  change s.readTally (0xB040 + 8 * k) = _
  unfold State.readTally
  rw [if_neg (by omega), if_neg (by omega), unit, if_neg even]

theorem State.captureTide_readWord (s : State) : s.captureTide.readWord 0x8000 = s.tide.ns := rfl

theorem State.captureTide_sec (s : State) : tabFind s.captureTide.capts 0x8004 = some (BitVec.ofNat 32 s.tide.sec) := by
  rw [State.captureTide, State.setCapt_capts, tabFind_put_ne _ _ (by decide), State.setCapt_capts, tabFind_put_ne _ _ (by decide),
    State.setCapt_capts, tabFind_put]
  exact congrArg some (BitVec.eq_of_toNat_eq (by simp))

theorem State.captureTide_secHigh (s : State) : tabFind s.captureTide.capts 0x8008 = some (BitVec.ofNat 32 (s.tide.sec / 2 ^ 32)) := by
  rw [State.captureTide, State.setCapt_capts, tabFind_put_ne _ _ (by decide), State.setCapt_capts, tabFind_put]

theorem State.captureTide_frac (s : State) : tabFind s.captureTide.capts 0x800C = some (BitVec.ofNat 32 s.tide.frac) := tabFind_put _ _ _

theorem exec_wideRegisterRead {s : State} (h : s.power.boot ≠ .inReset) (f : Fin 16) (off size : Nat) :
    exec (.wideRegisterRead f off size) s = .next (s.hostRead f off size) := if_pos (State.running_eq_true h)

/-- Settles O19: a read of a first word is a read of that one word, whose capture is its own. -/
theorem registerReads : Obligations.RegisterReads := by
  intro s run
  have on := State.running_eq_true run
  have tide : s.hostRead 0 0x8000 4 = s.captureTide.emit (.readReturn 0 0x8000 (leBytes 4 s.tide.ns)) := by
    rw [s.hostRead_word (by decide) (by decide), s.capture_tideNow, s.captureTide_readWord]
  refine ⟨fun f off size vf => ?_, fun off size => ⟨_, exec_wideRegisterRead run 0 off size, s.hostRead_pf_egress _ _, s.hostRead_frame _ _ _⟩,
    fun k => ⟨_, if_pos on, exec_wideRegisterRead run 0 _ 4, ?_, ?_, s.hostRead_frame _ _ _⟩,
    fun p => ⟨_, if_pos on, exec_wideRegisterRead run 0 _ 4, ?_, s.hostRead_frame _ _ _⟩,
    fun p => ⟨_, if_pos on, exec_wideRegisterRead run 0 _ 4, ?_, s.hostRead_frame _ _ _⟩,
    ⟨_, if_pos on, exec_wideRegisterRead run 0 _ 4, ?_, ?_, ?_, ?_, s.hostRead_frame _ _ _⟩⟩
  · rw [exec_wideRegisterRead run, State.hostRead_vf (fun h => vf (Fin.ext h))]
    rfl
  · rw [s.hostRead_word (by omega) (by omega), s.capture_tallyUnit]
    exact tabFind_put _ _ _
  · rw [s.hostRead_word (by omega) (by omega), s.capture_tallyUnit, State.readWord_tallyUnit]
    rfl
  · rw [s.hostRead_word (by omega) (by omega), s.capture_rmapSig]
    exact tabFind_put _ _ _
  · rw [s.hostRead_word (by omega) (by omega), s.capture_shepStat]
    exact tabFind_put _ _ _
  · rw [tide]
    exact s.captureTide_sec
  · rw [tide]
    exact s.captureTide_secHigh
  · rw [tide]
    exact s.captureTide_frac
  · rw [tide]
    rfl

end Sys2Proof.Machine

/-! Requests to a DRAM channel (O53): a request changes its own channel and nothing else, so each command is told by the one channel it
puts in place of the old. -/

namespace Sys2Proof.Machine

/-! ### One channel put in place of another -/

theorem tabPut_tabPut {α : Type} (t : Tab α) (k : Nat) (v w : α) : tabPut (tabPut t k v) k w = tabPut t k w := by
  induction t with
  | nil => simp [tabPut]
  | cons x t ih =>
    obtain ⟨a, y⟩ := x
    rcases Nat.lt_trichotomy k a with below | rfl | above
    · simp [tabPut, below]
    · simp [tabPut]
    · have apart : ¬k < a ∧ k ≠ a := by omega
      simp [tabPut, apart, ih]

@[simp] theorem State.setChan_setChan (s : State) (c : Nat) (x y : Chan) : (s.setChan c x).setChan c y = s.setChan c y := by
  simp only [State.setChan, tabPut_tabPut]

@[simp] theorem State.modChan_setChan (s : State) (c : Nat) (x : Chan) (f : Chan → Chan) :
    (s.setChan c x).modChan c f = s.setChan c (f x) := by
  rw [State.modChan, State.chan_setChan, State.setChan_setChan]

/-- A channel put in place leaves the other channels and the rest of the state as they were. -/
theorem State.setChan_rest (s : State) (c : Nat) (x : Chan) :
    (∀ k, k ≠ c → (s.setChan c x).chan k = s.chan k) ∧ { s.setChan c x with chans := s.chans } = s :=
  ⟨fun _ h => s.chan_setChan_ne x h, rfl⟩

/-! ### Arrival (R31, R435, R447, R488) -/

/-- The phase of a channel that takes whatever request comes to it. -/
def ChanPhase.takesAll : ChanPhase → Bool
  | .active => true
  | .selfRefresh => true
  | _ => false

/-- The channel with the request in the entry it finds, or held back. -/
def State.withRequest (s : State) (ch : Chan) (r : DramReq) : Chan := match ch.entryFor r.port with
  | some own => { ch with idleAt := none, queue := ch.queue ++ [s.acceptReq r own] }
  | none => { ch with idleAt := none, held := ch.held ++ [r] }

theorem State.withRequest_of_some {ch : Chan} {r : DramReq} {own : Bool} (h : ch.entryFor r.port = some own) (s : State) :
    s.withRequest ch r = { ch with idleAt := none, queue := ch.queue ++ [s.acceptReq r own] } := by
  rw [State.withRequest, h]

theorem State.withRequest_of_none {ch : Chan} {r : DramReq} (h : ch.entryFor r.port = none) (s : State) :
    s.withRequest ch r = { ch with idleAt := none, held := ch.held ++ [r] } := by
  rw [State.withRequest, h]

theorem State.dramArrive_ebb {s : State} {r : DramReq} (ebb : (portUnit r.port).any s.inEbb = true) (c : Nat) : s.dramArrive c r = s := by
  unfold State.dramArrive
  exact if_pos (.inr (.inr (.inr ebb)))

theorem State.dramArrive_takes {s : State} {c : Nat} {r : DramReq} (run : s.power.boot ≠ .inReset)
    (takes : (s.chan c).phase.takesAll = true) (row : r.row < s.dramRows) (quiet : (portUnit r.port).any s.inEbb = false) :
    s.dramArrive c r = s.setChan c (s.startExit c (s.withRequest (s.chan c) r)) := by
  unfold State.dramArrive
  extract_lets ch free idle queued
  have taken : free = true := by
    unfold ChanPhase.takesAll at takes
    split at takes
    · next h => simp [free, ch, h]
    · next h => simp [free, ch, h]
    · exact absurd takes Bool.false_ne_true
  exact if_neg (by simp [State.running_eq_true run, taken, row, quiet])

@[simp] theorem State.withRequest_phase (s : State) (ch : Chan) (r : DramReq) : (s.withRequest ch r).phase = ch.phase := by
  unfold State.withRequest
  split <;> rfl

@[simp] theorem State.withRequest_exitFrom (s : State) (ch : Chan) (r : DramReq) : (s.withRequest ch r).exitFrom = ch.exitFrom := by
  unfold State.withRequest
  split <;> rfl

@[simp] theorem State.withRequest_srSince (s : State) (ch : Chan) (r : DramReq) : (s.withRequest ch r).srSince = ch.srSince := by
  unfold State.withRequest
  split <;> rfl

theorem State.startExit_active (s : State) (c : Nat) {ch : Chan} (h : ch.phase = .active) : s.startExit c ch = ch := by
  unfold State.startExit
  exact if_neg (by simp [h])

theorem State.startExit_exitFrom {s : State} {ch : Chan} {since : Nat} (asleep : ch.phase = .selfRefresh) (first : ch.exitFrom = none)
    (from_ : ch.srSince = some since) (live : s.halted = false) (c : Nat) :
    (s.startExit c ch).exitFrom = some (max s.now (since + nsTicks 60)) := by
  unfold State.startExit
  rw [if_pos (by simp [asleep, first, live])]
  simp [from_]

/-- The entries of the channel that RAY holds of its own (R31). -/
def Chan.own (ch : Chan) : Nat := (ch.queue.filter fun r => r.reserved).length

theorem Chan.entryFor_own {ch : Chan} (free : ch.own < 16) : ch.entryFor 0 = some true := if_pos ⟨rfl, free⟩

theorem Chan.entryFor_shared {ch : Chan} {port : Nat} (other : port ≠ 0 ∨ 16 ≤ ch.own) (free : ch.queue.length - ch.own < 48) :
    ch.entryFor port = some false := by
  have notOwn : ¬(port = 0 ∧ ch.own < 16) := by omega
  exact (if_neg notOwn).trans (if_pos free)

theorem Chan.entryFor_full {ch : Chan} {port : Nat} (other : port ≠ 0 ∨ 16 ≤ ch.own) (full : 48 ≤ ch.queue.length - ch.own) :
    ch.entryFor port = none := by
  have notOwn : ¬(port = 0 ∧ ch.own < 16) := by omega
  exact (if_neg notOwn).trans (if_neg (Nat.not_lt.mpr full))

/-! ### The one request of a channel is chosen (R438, R439, R444) -/

theorem headOf_single (r : DramReq) : headOf [r] 0 = 0 := by simp [headOf]

theorem blocker_first (r : DramReq) : blocker [r] 0 = none := rfl

theorem Chan.choose_single {ch : Chan} {r : DramReq} (one : ch.queue = [r]) (now : Nat) (hit : r.hits ch = true) :
    ch.choose now [0] = some 0 := by
  by_cases urgent : r.urgent now = true
  · simp [Chan.choose, one, urgent, headOf_single]
  · simp [Chan.choose, one, urgent, hit, blocker_first, headOf_single]

/-- A request to an open row, out of any ebb slot, is chosen at once, and nothing of the channel changes. -/
theorem State.chooseReq_single {ch : Chan} {r : DramReq} (one : ch.queue = [r]) (hit : r.hits ch = true) (free : r.ebbEnd = none)
    (s : State) (n : Nat) : s.chooseReq (n + 1) ch = (some 0, ch) := by
  have waits : r.ebbing s.now = false := by simp [DramReq.ebbing, free]
  have places : ((List.range ch.queue.length).filter fun i =>
      !((ch.queue[headOf ch.queue i]?).toList.any fun r => r.ebbing s.now)) = [0] := by
    simp [one, List.range_succ, headOf_single, waits]
  have throttled : r.throttled ch s.now = false := by simp [DramReq.throttled, hit]
  have here : ch.queue[0]? = some r := by simp [one]
  unfold State.chooseReq
  extract_lets free'
  have at0 : free' = [0] := places
  rw [at0, ch.choose_single one s.now hit]
  simp [here, waits, throttled]

/-! ### Bytes of a channel (R436) -/

theorem tabGet_storeBytes (seed c : Nat) (d : List Byte) {m : Tab Byte} (sorted : tabSorted m) (a b : Nat) :
    tabGet (Config.dramByte seed c b) (storeBytes seed c m a d) b =
      if a ≤ b ∧ b < a + d.length then d.getD (b - a) 0 else tabGet (Config.dramByte seed c b) m b := by
  induction d generalizing m a with
  | nil => simp [storeBytes]
  | cons x xs ih =>
    rw [storeBytes, ih (tabSorted_set sorted _ _ _), List.length_cons]
    rcases Nat.lt_trichotomy b a with below | rfl | above
    · rw [if_neg (by omega), if_neg (by omega), tabGet_set_ne _ _ _ _ (by omega)]
    · rw [if_neg (by omega), if_pos (by omega), tabGet_set _ sorted, Nat.sub_self, List.getD_cons_zero]
    · have step : b - a = (b - (a + 1)) + 1 := by omega
      rw [tabGet_set_ne _ _ _ _ (by omega), step, List.getD_cons_succ]
      exact if_congr (by omega) rfl rfl

/-! ### Service of the one request (R435, R436, R446, R452) -/

/-- The channel is active, and has one request left, to a row that is open, from a unit other than RAY. -/
structure Chan.LastRequest (ch : Chan) (r : DramReq) : Prop where
  active : ch.phase = .active
  one : ch.queue = [r]
  none_held : ch.held = []
  hit : r.hits ch = true
  free : r.ebbEnd = none
  notRay : r.port ≠ 0

theorem Chan.passOlder_first {ch : Chan} {r : DramReq} (one : ch.queue = [r]) : ch.passOlder 0 r = ch := by
  unfold Chan.passOlder
  split
  · rw [show (ch.queue.mapIdx fun k x => if k < 0 ∧ x.bank = r.bank then { x with passed := x.passed + 1 } else x) = ch.queue by
      simp [one]]
  · rfl

theorem State.dramDone_last {s : State} {c : Nat} {r : DramReq} (last : (s.chan c).LastRequest r) (res : DramResult) :
    s.dramDone c res = (s.setChan c (s.chan c)).serve c 0 r res := by
  have serves : (s.chan c).serves = true := by simp [Chan.serves, last.active]
  simp [State.dramDone, serves, State.chooseReq_single last.one last.hit last.free, last.one]

/-- A read that link ECC cannot correct goes back to its place (R452). -/
theorem State.serve_repeats {s : State} {c : Nat} {ch : Chan} {r : DramReq} (last : ch.LastRequest r) (read : r.write = none)
    (again : r.repeats < 2) : (s.setChan c ch).serve c 0 r .uncorrectable =
      s.setChan c { ch with queue := [{ r with repeats := r.repeats + 1 }] } := by
  simp [State.serve, Chan.passOlder_first last.one, last.hit, read, again, last.one]

/-- What the last request leaves in its channel when it completes: its data moved, nothing waiting, the idle time running. -/
def Chan.served (ch : Chan) (c : Nat) (r : DramReq) (idle : Nat) : Chan :=
  { ch.transfer c r false with
    queue := [], held := [], poisoned := ch.poisoned.filter fun x => decide (x.1 ≠ r.addr), idleAt := some idle }

theorem Chan.transfer_poisoned (ch : Chan) (c : Nat) (r : DramReq) (bad : Bool) : (ch.transfer c r bad).poisoned = ch.poisoned := by
  unfold Chan.transfer
  split
  · split <;> rfl
  · rfl

theorem Chan.transfer_phase (ch : Chan) (c : Nat) (r : DramReq) (bad : Bool) : (ch.transfer c r bad).phase = ch.phase := by
  unfold Chan.transfer
  split
  · split <;> rfl
  · rfl

theorem Chan.transfer_held (ch : Chan) (c : Nat) (r : DramReq) (bad : Bool) : (ch.transfer c r bad).held = ch.held := by
  unfold Chan.transfer
  split
  · split <;> rfl
  · rfl

theorem State.admitHeld_none (s : State) {ch : Chan} (h : ch.held = []) : s.admitHeld ch = ch := by
  cases ch
  cases h
  rfl

theorem State.notePoison_clean (s : State) (c addr : Nat) : s.notePoison c addr false =
    s.modChan c fun ch => { ch with poisoned := ch.poisoned.filter fun x => decide (x.1 ≠ addr) } := by
  simp [State.notePoison]

theorem State.serve_completes {s : State} {c : Nat} {ch : Chan} {r : DramReq} {res : DramResult} (last : ch.LastRequest r)
    (good : r.write.isNone = true → res = .clean) : (s.setChan c ch).serve c 0 r res = s.setChan c (ch.served c r (s.now + s.srIdle)) := by
  have clean : (r.write.isNone && decide (res = .uncorrectable)) = false := by
    cases h : r.write.isNone
    · rfl
    · rw [good h]; rfl
  have uncorrected : (r.write.isNone && decide (res = .corrected)) = false := by
    cases h : r.write.isNone
    · rfl
    · rw [good h]; rfl
  simp [State.serve, Chan.passOlder_first last.one, last.hit, clean, uncorrected, State.admitHeld_none,
    State.notePoison_clean, last.notRay, State.idleFrom, Chan.served, last.one, Chan.transfer_held, last.none_held, Chan.transfer_phase,
    last.active, Chan.transfer_poisoned, State.srIdle, State.field, State.reg]

theorem Chan.served_read {ch : Chan} {r : DramReq} (last : ch.LastRequest r) (read : r.write = none) (c idle : Nat) :
    ch.served c r idle = { ch with
      queue := [], lastRead := ch.burst c r.addr, lastPoison := false, idleAt := some idle
      poisoned := ch.poisoned.filter fun x => decide (x.1 ≠ r.addr) } := by
  simp [Chan.served, Chan.transfer, read, last.none_held]

theorem Chan.byte_served {ch : Chan} {r : DramReq} {d : List Byte} (last : ch.LastRequest r) (write : r.write = some d)
    (sorted : tabSorted ch.mem) (c idle a : Nat) : (ch.served c r idle).byte c a =
      if r.addr ≤ a ∧ a < r.addr + d.length then d.getD (a - r.addr) 0 else ch.byte c a := by
  have stored : ch.transfer c r false = { ch with mem := storeBytes ch.seed c ch.mem r.addr d } := by
    simp [Chan.transfer, write, last.active]
  rw [Chan.served, stored]
  exact tabGet_storeBytes _ _ _ sorted _ _

/-- Settles O53: a request is told by the channel it leaves, and the last request of an active channel is the one chosen. -/
theorem dramRequests : Obligations.DramRequests := by
  intro c s _ run ch rest
  have moved : ∀ x, rest (s.setChan c x) := s.setChan_rest c
  refine ⟨fun port bank row col write small => ?_, fun r active one noneHeld hit free notRay sorted => ?_⟩
  · intro r own accepted
    refine ⟨fun ebb => ?_, fun quiet active => ?_, fun since quiet asleep first from_ live => ?_⟩
    · exact congrArg Host.Outcome.next (State.dramArrive_ebb (r := r) ebb c)
    · have left := State.dramArrive_takes (r := r) run (congrArg ChanPhase.takesAll active) small quiet
      rw [State.startExit_active _ _ ((s.withRequest_phase _ _).trans active)] at left
      refine ⟨_, congrArg Host.Outcome.next left, moved _, fun ray room => ?_, fun other room => ?_, fun other full => ?_⟩
      · subst ray
        exact (s.chan_setChan _ _).trans (State.withRequest_of_some (Chan.entryFor_own room) s)
      · exact (s.chan_setChan _ _).trans (State.withRequest_of_some (Chan.entryFor_shared (other.imp_left fun ne h => ne (Fin.ext h)) room) s)
      · exact (s.chan_setChan _ _).trans (State.withRequest_of_none (Chan.entryFor_full (other.imp_left fun ne h => ne (Fin.ext h)) full) s)
    · have left := State.dramArrive_takes (r := r) run (congrArg ChanPhase.takesAll asleep) small quiet
      refine ⟨_, congrArg Host.Outcome.next left, moved _, ?_⟩
      rw [State.chan_setChan]
      exact State.startExit_exitFrom (by simpa using asleep) (by simpa using first) (by simpa using from_) live c
  · have last : ch.LastRequest r := ⟨active, one, noneHeld, hit, free, notRay⟩
    have done : ∀ res, exec (.dramRequestDone c res) s = .next ((s.setChan c ch).serve c 0 r res) := fun res =>
      congrArg Host.Outcome.next (State.dramDone_last last res)
    refine ⟨fun d res write => ?_, fun read => ?_, fun read again => ?_⟩
    · have served := State.serve_completes (s := s) (c := c) (res := res) last (by simp [write])
      refine ⟨_, served ▸ done res, moved _, ?_⟩
      rw [State.chan_setChan]
      exact ⟨rfl, rfl, Chan.byte_served last write sorted c _⟩
    · have served := State.serve_completes (s := s) (c := c) (res := .clean) last fun _ => rfl
      refine ⟨_, served ▸ done .clean, moved _, ?_⟩
      rw [State.chan_setChan]
      exact Chan.served_read last read _ _
    · have repeats := State.serve_repeats (s := s) (c := c) last read again
      exact ⟨_, repeats ▸ done .uncorrectable, moved _, s.chan_setChan _ _⟩

end Sys2Proof.Machine

/-! A descriptor's way from its ring to its completion record, step by step (R96 to R117): what the ring engine, the log of the Causeway, the
ledger slot, the start and the completion change, and what they leave alone. -/

namespace Sys2Proof.Machine

/-! ### The ring engine goes on (R92 to R96) -/

/-- State `t` is `s` but for what the ring engine has done: the rings, whose turn it is, and what it has sent behind the rest. -/
structure State.EngineMoved (s t : State) : Prop where
  frame : ∃ rings turn sent, t = { s with rings := rings, turnAt := turn, egress := s.egress ++ sent }

theorem State.EngineMoved.refl (s : State) : s.EngineMoved s := ⟨s.rings, s.turnAt, [], by rw [List.append_nil]⟩

theorem State.EngineMoved.trans {s t u : State} (h : s.EngineMoved t) (k : t.EngineMoved u) : s.EngineMoved u := by
  obtain ⟨_, _, _, rfl⟩ := h
  obtain ⟨_, _, _, rfl⟩ := k
  exact ⟨_, _, _, by rw [List.append_assoc]⟩

theorem State.modRing_engineMoved (s : State) (r : Nat) (f : Ring → Ring) : s.EngineMoved (s.modRing r f) :=
  ⟨_, s.turnAt, [], by rw [List.append_nil]; rfl⟩

theorem State.writeCpl_engineMoved (s : State) (d : Desc) (signal : Bool) (status detail ns r0 r1 : Nat) :
    s.EngineMoved (s.writeCpl d signal status detail ns r0 r1) := by
  have emits : ∀ (t : State) x, t.EngineMoved (t.emit x) := fun t x => ⟨_, _, _, rfl⟩
  unfold State.writeCpl
  split
  · exact .refl s
  · split
    · exact (emits _ _).trans (emits _ _)
    · exact emits _ _

theorem State.reject_engineMoved (s : State) (d : Desc) (f : Fail) : s.EngineMoved (s.reject d f) :=
  (s.modRing_engineMoved _ _).trans (State.writeCpl_engineMoved _ _ _ _ _ _ _ _)

theorem State.compare_engineMoved (s : State) (r : Nat) (d : Desc) : s.EngineMoved (s.compare r d) := by
  unfold State.compare
  extract_lets x taken diff numbered
  have took : s.EngineMoved taken := s.modRing_engineMoved _ _
  split
  · have counted : s.EngineMoved numbered := took.trans (taken.modRing_engineMoved _ _)
    split
    · exact counted.trans (State.reject_engineMoved _ _ _)
    · exact counted.trans (State.modRing_engineMoved _ _ _)
  · split
    · exact took.trans (State.reject_engineMoved _ _ _)
    · exact (took.trans (State.reject_engineMoved _ _ _)).trans (State.modRing_engineMoved _ _ _)

theorem State.engage_engineMoved (n : Nat) (s : State) : s.EngineMoved (s.engage n) := by
  have turns : ∀ (t : State) r, t.EngineMoved { t with turnAt := r } := fun t r => ⟨t.rings, r, [], by rw [List.append_nil]⟩
  induction n generalizing s with
  | zero => exact .refl s
  | succ n ih =>
    unfold State.engage
    split
    · exact .refl s
    · split
      · split
        · exact ((turns s _).trans (State.compare_engineMoved _ _ _)).trans (ih _)
        · exact turns s _
      · split
        · have restored : s.EngineMoved s.restoreAllowances := ⟨_, _, [], by rw [List.append_nil]; rfl⟩
          exact restored.trans (ih _)
        · exact .refl s

theorem State.run_engineMoved (s : State) : s.EngineMoved s.run := s.engage_engineMoved _

/-- A descriptor that waits for its acceptance is taken through it, and the engine goes on (R92, R96). -/
theorem State.withCur_taken {s : State} {r op : Nat} {d : Desc} (h : Taken s r op d) (f : Desc → State → State) :
    s.withCur r op f = (f d s).run := by
  simp [State.withCur, h.cur, h.op, h.runs, h.room, h.sound]

/-! ### The log of the Causeway (R515, R520) -/

/-- State `t` is `s` but for what logging changes: the Causeway's records and its registers. -/
structure State.Logged (s t : State) : Prop where
  frame : ∃ regs cway, t = { s with regs := regs, cway := cway }

theorem State.Logged.refl (s : State) : s.Logged s := ⟨_, _, rfl⟩

theorem State.Logged.trans {s t u : State} (h : s.Logged t) (k : t.Logged u) : s.Logged u := by
  obtain ⟨_, _, rfl⟩ := h
  obtain ⟨_, _, rfl⟩ := k
  exact ⟨_, _, rfl⟩

theorem State.cwaySend_logged (s : State) (type : Nat) (last : Bool) (ring dseq : Nat) (body : List Byte) :
    s.Logged (s.cwaySend type last ring dseq body) := by
  unfold State.cwaySend
  split
  · exact ⟨_, _, rfl⟩
  · exact .refl s

theorem State.breakLog_logged (s : State) : s.Logged s.breakLog := by
  unfold State.breakLog
  split
  · exact ⟨_, _, rfl⟩
  · exact .refl s

theorem State.logRecord_logged (s : State) (type : Nat) (last : Bool) (ring dseq : Nat) (body : List Byte) :
    s.Logged (s.logRecord type last ring dseq body) := by
  unfold State.logRecord
  split
  · split
    · exact s.breakLog_logged
    · extract_lets seq bs sent kept kb
      have sends : s.Logged sent := s.cwaySend_logged _ _ _ _ _
      exact sends.trans ⟨_, _, rfl⟩
  · exact .refl s

theorem State.logData_logged (s : State) (d : Desc) (off : Nat) (data : List Byte) : s.Logged (s.logData d off data) :=
  List.foldlRecOn (motive := s.Logged) _ _ (.refl s) fun t h _ _ => h.trans (t.logRecord_logged _ _ _ _ _)

/-! ### The slots of the ledger (R96, R97) -/

theorem State.id_of_entry {s : State} {id : Nat} {e : Entry} (h : s.entry id = some e) : e.id = id := by
  simpa using List.find?_some h

/-- Every entry of the ledger stands under an id given before the next one. -/
theorem ne_next_of_mem {l : List Entry} {next : Nat} (ordered : ledgerOrdered l next) {x : Entry} (h : x ∈ l) : x.id ≠ next :=
  Nat.ne_of_lt (ordered.2 x h)

section NewSlot

variable {l : List Entry} {next : Nat} {e : Entry} (ordered : ledgerOrdered l next) (named : e.id = next)
include ordered named

theorem find?_newSlot : (l ++ [e]).find? (fun x => decide (x.id = next)) = some e := by
  have old : l.find? (fun x => decide (x.id = next)) = none := by
    simpa using fun x hx => ne_next_of_mem ordered hx
  simp [List.find?_append, old, named]

theorem filter_before_newSlot : (l ++ [e]).filter (fun x => decide (x.id < e.id)) = l := by
  have old : l.filter (fun x => decide (x.id < e.id)) = l := by
    simpa [named] using ordered.2
  simp [List.filter_append, old]

theorem filter_drop_newSlot : (l ++ [e]).filter (fun x => decide (x.id ≠ next)) = l := by
  have old : ∀ x ∈ l, x.id ≠ next := fun x hx => ne_next_of_mem ordered hx
  simpa [List.filter_append, named] using old

theorem map_newSlot (f : Entry → Entry) : (l ++ [e]).map (fun x => if x.id = next then f x else x) = l ++ [f e] := by
  have old : l.map (fun x => if x.id = next then f x else x) = l :=
    (List.map_congr_left fun x hx => if_neg (ne_next_of_mem ordered hx)).trans (List.map_id _)
  simp [old, named]

end NewSlot

/-- The state as a descriptor has just taken its slot as the entry `e` (R92, R96, R129): its ring has one allowance less and goes on to its
next descriptor, and the surfaces have given their version numbers. -/
def State.entered (s : State) (d : Desc) (e : Entry) (objs : Tab Obj) : State :=
  { s with
    rings := tabPut s.rings d.ring { s.ring d.ring with allowance := (s.ring d.ring).allowance - 1, cur := none }
    ledger := s.ledger ++ [e], nextId := s.nextId + 1, ledgerPeak := max s.ledgerPeak (s.ledger.length + 1), objs := objs }

/-- Surfaces give version numbers, which they keep (R129); nothing else changes. -/
theorem State.foldl_modObj_eq (s : State) (vs : List (Nat × Nat)) (f : Nat × Nat → Obj → Obj) :
    ∃ objs, vs.foldl (fun s v => s.modObj v.1 (f v)) s = { s with objs := objs } :=
  List.foldlRecOn (motive := fun t => ∃ objs, t = { s with objs := objs }) vs _ ⟨_, rfl⟩ fun t h v _ => by
    obtain ⟨objs, rfl⟩ := h
    unfold State.modObj
    split
    · exact ⟨_, rfl⟩
    · exact ⟨_, rfl⟩

/-- A descriptor accepted takes a slot; with no surface to write it gets no version number and no object changes (R96, R129). -/
theorem State.admitNew_logged (s : State) (d : Desc) (job : Job) (surfaces : List Nat) :
    ∃ vs objs, (surfaces = [] → vs = [] ∧ objs = s.objs) ∧ (s.entered d (s.newEntry d job vs) objs).Logged (s.admitNew d job surfaces) := by
  unfold State.admitNew State.accept
  extract_lets plates vs e given placed next
  obtain ⟨objs, hobjs⟩ := State.foldl_modObj_eq (s.modRing d.ring fun x => { x with allowance := x.allowance - 1 }) vs
    fun v o => { o with given := v.2 }
  have numbered : given = { s.modRing d.ring fun x => { x with allowance := x.allowance - 1 } with objs := objs } := hobjs
  have here : next = s.entered d (s.newEntry d job vs) objs := by
    unfold next placed e
    rw [numbered]
    simp [State.entered, State.newEntry, State.modRing, State.setRing, State.ring, tabPut_tabPut]
  refine ⟨vs, objs, fun none_written => ?_, here ▸ next.logRecord_logged _ _ _ _ _⟩
  subst none_written
  exact ⟨rfl, (congrArg State.objs numbered).symm⟩

/-! ### The start (R105 to R108, R146, R400) -/

theorem State.startIf_starts {s : State} {id : Nat} {e : Entry} (here : s.entry id = some e) (waiting : e.started = false)
    (free : s.noWait e = true) (sound : s.startFail e = none) (f : Entry → State → State) : s.startIf id f = f e s := by
  simp [State.startIf, here, waiting, free, sound]

/-- The job names no object beside the descriptor's own words. -/
def Job.namesNone (job : Job) : Prop := ∀ e : Entry, e.job = job →
  e.reads = { e with job := .plain }.reads ∧ e.writes = { e with job := .plain }.writes

/-- Which descriptors an entry waits for does not depend on a job that names no object. -/
theorem Entry.waitsFor_plain {e : Entry} (named : e.job.namesNone) (x : Entry) : e.waitsFor x = { e with job := .plain }.waitsFor x := by
  obtain ⟨reads, writes⟩ := named e rfl
  simp [Entry.waitsFor, reads, writes]

theorem State.startFail_plain (s : State) {e : Entry} (named : e.job.namesNone) : s.startFail e = s.startFail { e with job := .plain } := by
  obtain ⟨reads, -⟩ := named e rfl
  simp [State.startFail, State.invalidFail, reads]

/-- A descriptor that nothing holds back starts as soon as it has its slot. -/
theorem State.startIf_entered {s t : State} {d : Desc} {job : Job} (ordered : ledgerOrdered s.ledger s.nextId) (named : job.namesNone)
    (atOnce : s.goesAtOnce d) (h : (s.entered d (s.newEntry d job []) s.objs).Logged t) (f : Entry → State → State) :
    t.startIf s.nextId f = f (s.newEntry d job []) t := by
  obtain ⟨_, _, rfl⟩ := h
  obtain ⟨free, sound⟩ := atOnce
  have here : (s.ledger ++ [s.newEntry d job []]).find? (fun x => decide (x.id = s.nextId)) = some (s.newEntry d job []) :=
    find?_newSlot ordered rfl
  refine State.startIf_starts ?_ rfl ?_ ?_ f
  · exact here
  · refine List.all_eq_true.2 fun x hx => ?_
    rw [State.before, State.entered, filter_before_newSlot ordered rfl] at hx
    rw [Entry.waitsFor_plain named]
    exact Bool.not_eq_true' _ |>.mpr (free x hx)
  · exact (State.startFail_plain _ named).trans sound

/-- Accept, do what the acceptance brings, start: a descriptor that nothing holds back starts in the state that acceptance leaves. -/
theorem State.admitStart_atOnce {s : State} {d : Desc} {job : Job} {prep : State → State} (ordered : ledgerOrdered s.ledger s.nextId)
    (named : job.namesNone) (atOnce : s.goesAtOnce d) (prepared : ∀ t : State, t.Logged (prep t)) (f : Entry → State → State) :
    ∃ t, (s.entered d (s.newEntry d job []) s.objs).Logged t ∧ s.admitStart d job [] prep f = f (s.newEntry d job []) t := by
  obtain ⟨vs, objs, plain, entered⟩ := s.admitNew_logged d job []
  obtain ⟨rfl, rfl⟩ := plain rfl
  have logged := entered.trans (prepared _)
  exact ⟨_, logged, State.startIf_entered ordered named atOnce logged f⟩

/-! ### The completion (R110 to R117) -/

/-- What leaves the device when a descriptor completes with a time of its own: its record, then the ring's message (R110, R111, R116). -/
def State.completionAt (s : State) (d : Desc) (ns : Nat) (signal : Bool) (f : Fail) (r0 r1 : Nat) : List Egress :=
  Egress.write d.fn ((s.ring d.ring).cpl + 32 * s.slotOf d) (cplBytes d f.1 f.2 ns r0 r1) ::
    (if d.irq || signal then [Egress.msix d.fn (s.ringVector d.ring)] else [])

theorem State.writeCpl_live {s : State} (live : s.flt.fatalHold = false) (d : Desc) (signal : Bool) (f : Fail) (ns r0 r1 : Nat) :
    s.writeCpl d signal f.1 f.2 ns r0 r1 = { s with egress := s.egress ++ s.completionAt d ns signal f r0 r1 } := by
  cases asks : d.irq || signal <;> simp [State.writeCpl, live, asks, State.completionAt, State.emit, State.cplAddr]
  rfl

/-- State `t` is `s` but for what the completion of a descriptor looks at again: the log, objects and their storage, pending commits and a
draining ring (R117, R131, R133, R163, R172, R515). -/
structure State.LookedOver (s t : State) : Prop where
  frame : ∃ regs cway objs ports rings harb,
    t = { s with regs := regs, cway := cway, objs := objs, ports := ports, rings := rings, harb := harb }

theorem State.LookedOver.refl (s : State) : s.LookedOver s := ⟨_, _, _, _, _, _, rfl⟩

theorem State.LookedOver.trans {s t u : State} (h : s.LookedOver t) (k : t.LookedOver u) : s.LookedOver u := by
  obtain ⟨_, _, _, _, _, _, rfl⟩ := h
  obtain ⟨_, _, _, _, _, _, rfl⟩ := k
  exact ⟨_, _, _, _, _, _, rfl⟩

theorem State.Logged.lookedOver {s t : State} (h : s.Logged t) : s.LookedOver t := by
  obtain ⟨_, _, rfl⟩ := h
  exact ⟨_, _, _, _, _, _, rfl⟩

theorem State.LookedOver.dropEntry {s t : State} (h : s.LookedOver t) (id : Nat) : (s.dropEntry id).LookedOver (t.dropEntry id) := by
  obtain ⟨_, _, _, _, _, _, rfl⟩ := h
  exact ⟨_, _, _, _, _, _, rfl⟩

theorem State.spoilVersions_lookedOver (s : State) (e : Entry) (status : Nat) : s.LookedOver (s.spoilVersions e status) := by
  unfold State.spoilVersions
  split
  · obtain ⟨_, frame⟩ := s.foldl_modObj_eq e.versions fun v o =>
      if (o.version v.2).isSome then o else o.addVersion (o.newVersion v.2 false o.content [] [])
    exact ⟨_, _, _, _, _, _, frame⟩
  · exact .refl s

theorem State.drained_lookedOver (s : State) (r : Nat) : s.LookedOver (s.drained r) := by
  unfold State.drained
  split
  · exact ⟨_, _, _, _, _, _, rfl⟩
  · exact .refl s

/-- The host's own descriptor completes while the device may write: its entry leaves the ledger and its record goes out behind everything
sent before (R96, R110). -/
theorem State.finishAt_lookedOver {s : State} {id : Nat} {e : Entry} (h : Completing s id e) (ns : Nat) (signal : Bool) (f : Fail) (r0 r1 : Nat) :
    State.LookedOver { s with ledger := s.ledger.filter fun x => decide (x.id ≠ id)
                              egress := s.egress ++ s.completionAt e.desc ns signal f r0 r1 } (s.finishAt id ns signal f r0 r1) := by
  unfold State.finishAt
  split
  · next gone => exact absurd (h.here.symm.trans gone) (Option.some_ne_none e)
  · next x here =>
    obtain rfl : e = x := Option.some.inj (h.here.symm.trans here)
    extract_lets told dropped marked
    have recorded : told = State.logRecord { s with egress := s.egress ++ s.completionAt e.desc ns signal f r0 r1 } 0x03 false e.desc.ring
        e.desc.seq (cplBytes e.desc f.1 f.2 ns r0 r1) := by
      simp [told, h.own, h.loud, State.writeCpl_live h.live]
    have written : State.LookedOver _ told := recorded ▸ (State.logRecord_logged _ _ _ _ _ _).lookedOver
    have left : State.LookedOver _ dropped := (written.trans (told.spoilVersions_lookedOver e f.1)).dropEntry id
    have named : dropped.LookedOver marked.refreshCommits := ⟨_, _, _, _, _, _, rfl⟩
    have swept : ∀ t : State, t.LookedOver t.sweep := fun _ => ⟨_, _, _, _, _, _, rfl⟩
    exact ((left.trans named).trans (State.drained_lookedOver _ _)).trans (swept _)

end Sys2Proof.Machine

/-! SAWYER_LIST at its acceptance and its start, and a command of a list taking one of the four places (O30). -/

namespace Sys2Proof.Machine

/-! ### Entries changed in their place -/

section ModEntry

variable {f : Entry → Entry} (named : ∀ e, (f e).id = e.id)
include named

theorem State.entry_modEntry (s : State) (id j : Nat) :
    (s.modEntry id f).entry j = (s.entry j).map fun e => if e.id = id then f e else e := by
  have same : ((fun x : Entry => decide (x.id = j)) ∘ fun x => if x.id = id then f x else x) = fun x : Entry => decide (x.id = j) := by
    funext x
    by_cases hx : x.id = id <;> simp [hx, named]
  rw [State.entry, State.modEntry, List.find?_map, same]
  rfl

theorem State.entry_modEntry_self {s : State} {id : Nat} {e : Entry} (h : s.entry id = some e) : (s.modEntry id f).entry id = some (f e) := by
  rw [State.entry_modEntry named, h, Option.map_some, if_pos (State.id_of_entry h)]

theorem State.entry_modEntry_ne (s : State) {id j : Nat} (h : j ≠ id) : (s.modEntry id f).entry j = s.entry j := by
  have kept : ∀ e, s.entry j = some e → (if e.id = id then f e else e) = e := fun e he =>
    if_neg fun hid => h ((State.id_of_entry he).symm.trans hid)
  rw [State.entry_modEntry named]
  exact (Option.map_congr kept).trans Option.map_id'

end ModEntry

/-! ### The descriptor that completes -/

theorem Completing.of_logged {s t : State} {id : Nat} {e : Entry} (h : Completing s id e) (k : s.Logged t) : Completing t id e := by
  obtain ⟨_, _, rfl⟩ := k
  exact ⟨h.here, h.loud, h.own, h.live⟩

theorem State.finish_completed {s : State} {id : Nat} {e : Entry} (h : Completing s id e) (f : Fail) (r0 r1 : Nat) :
    Completed s (s.finish id f r0 r1) e false f r0 r1 := by
  obtain ⟨_, _, _, _, _, _, left⟩ := State.finishAt_lookedOver h s.tideNs false f r0 r1
  rw [State.finish, left, Completed, State.id_of_entry h.here]
  exact ⟨rfl, rfl⟩

/-- What is logged before a completion leaves the completion as it is. -/
theorem State.Logged.completed {s t u : State} {e : Entry} {signal : Bool} {f : Fail} {r0 r1 : Nat} (h : s.Logged t)
    (k : Completed t u e signal f r0 r1) : Completed s u e signal f r0 r1 := by
  obtain ⟨_, _, rfl⟩ := h
  exact k

/-! ### A list read at acceptance and again at the start (R24, R129, R404, R405) -/

theorem State.askList_eq (s : State) (d : Desc) : ∃ sent, s.askList d = { s with egress := s.egress ++ sent } := by
  unfold State.askList
  split
  · exact ⟨_, rfl⟩
  · exact ⟨[], by rw [List.append_nil]⟩

/-- The commands and their checks rest on the objects, which neither the read nor the log touches. -/
theorem State.askList_logged_reads {s t : State} {d : Desc} (h : (s.askList d).Logged t) :
    t.listCmds = s.listCmds ∧ t.listFail = s.listFail ∧ t.listInvalid = s.listInvalid := by
  obtain ⟨_, asked⟩ := s.askList_eq d
  obtain ⟨_, _, rfl⟩ := h
  rw [asked]
  exact ⟨rfl, rfl, rfl⟩

theorem Completing.askList {s : State} {id : Nat} {e : Entry} (h : Completing s id e) (d : Desc) : Completing (s.askList d) id e := by
  obtain ⟨_, asked⟩ := s.askList_eq d
  rw [asked]
  exact ⟨h.here, h.loud, h.own, h.live⟩

/-- A list in an object needs no read, so no read of it fails. -/
theorem listRead_none {d : Desc} {list : HostRead} (good : d.w 2 ≠ 0 ∨ list.fail = none) :
    (if d.w 2 = 0 then list.fail else none) = none := by
  split
  · next host => exact good.resolve_left (not_not_intro host)
  · rfl

/-- A list that has been read from host memory enters the log (R521). -/
def State.logList (s : State) (d : Desc) (list : HostRead) : State := if d.w 2 = 0 then s.logData d 0 list.bytes else s

theorem State.logList_logged (s : State) (d : Desc) (list : HostRead) : s.Logged (s.logList d list) := by
  unfold State.logList
  split
  · exact s.logData_logged _ _ _
  · exact .refl s

/-- A list that can be read is accepted: it takes a slot as its commands, its surfaces number them, and the read is logged. -/
theorem exec_sawyerList {s : State} {r : Fin 128} {d : Desc} {list : HostRead} (taken : Taken s r opSawyerList d)
    (object : s.listObject d = none) (good : d.w 2 ≠ 0 ∨ list.fail = none) : ∃ vs objs t,
      ((s.askList d).entered d (s.newEntry d (.sawyer (s.listCmds d list)) vs) objs).Logged t ∧ exec (.sawyerList r list) s = .next t.run := by
  have asked : ∀ job vs, (s.askList d).newEntry d job vs = s.newEntry d job vs := by
    obtain ⟨_, asked⟩ := s.askList_eq d
    simp [asked, State.newEntry]
  obtain ⟨cmds, -⟩ := State.askList_logged_reads (.refl (s.askList d))
  obtain ⟨vs, objs, -, entered⟩ := (s.askList d).admitNew_logged d (.sawyer (s.listCmds d list)) (listSurfaces d.fn (s.listCmds d list))
  rw [asked] at entered
  refine ⟨vs, objs, _, entered.trans (State.logList_logged _ d list), ?_⟩
  refine congrArg Host.Outcome.next ((State.withCur_taken taken _).trans (congrArg State.run ?_))
  simp only [object, listRead_none good, cmds]
  rfl

section Start

variable {s : State} {id : Nat} {e : Entry} {list : HostRead}

theorem exec_sawyerListStart (h : Completing s id e) (op : e.desc.opcode = opSawyerList) (awake : s.inEbb .sawyer = false)
    (waiting : e.started = false) (free : s.noWait e = true) (sound : s.startFail e = none) :
    exec (.sawyerListStart id list) s = .next (startSawyer list e s) := by
  have starts : execSawyerListStart id list s = .next (s.startIf id (startSawyer list)) := by
    simp [execSawyerListStart, h.here, op, awake]
  exact starts.trans (congrArg Host.Outcome.next (State.startIf_starts h.here waiting free sound _))

theorem startSawyer_timeout (own : e.mirrored = false) (host : e.desc.w 2 = 0) {f : ReadFail} (bad : list.fail = some f) :
    startSawyer list e s = (s.askList e.desc).finish e.id (timeoutOf f) 0 0 := by
  simp [startSawyer, own, host, bad]

/-- The first command that fails its checks ends the list (R405). -/
theorem startSawyer_fails (own : e.mirrored = false) (good : e.desc.w 2 ≠ 0 ∨ list.fail = none) {i : Nat} {f : CmdFail}
    (bad : s.listFail e.id e.desc.fn (e.versions.map (·.1)) (s.listCmds e.desc list) = some (i, f)) :
    ∃ t, (s.askList e.desc).Logged t ∧
      startSawyer list e s = t.finish e.id (f.1, f.2.1 * 65536 + 4096 + f.2.2) 0 (e.desc.listFirst + i) := by
  obtain ⟨cmds, -⟩ := State.askList_logged_reads (.refl (s.askList e.desc))
  have logged := (s.askList e.desc).logList_logged e.desc list
  obtain ⟨-, checks, -⟩ := State.askList_logged_reads logged
  refine ⟨((s.askList e.desc).logList e.desc list).count 0xD00C 15 0 1, logged.trans ⟨_, _, rfl⟩, ?_⟩
  unfold State.logList at checks ⊢
  simp [startSawyer, own, listRead_none good, cmds, checks, bad]

/-- A list whose commands all pass and that writes no surface starts with its commands as they have been read (R405). -/
theorem startSawyer_starts (own : e.mirrored = false) (good : e.desc.w 2 ≠ 0 ∨ list.fail = none)
    (sound : s.listFail e.id e.desc.fn (e.versions.map (·.1)) (s.listCmds e.desc list) = none)
    (valid : s.listInvalid (s.listCmds e.desc list) = false) (none_written : e.versions = []) :
    ∃ t, (s.askList e.desc).Logged t ∧ startSawyer list e s =
      (t.start e.id (.sawyer (s.listCmds e.desc list))).modEntry e.id fun x => { x with work := t.listWork (s.listCmds e.desc list) } := by
  obtain ⟨cmds, -⟩ := State.askList_logged_reads (.refl (s.askList e.desc))
  have logged := (s.askList e.desc).logList_logged e.desc list
  obtain ⟨-, checks, sources⟩ := State.askList_logged_reads logged
  refine ⟨(s.askList e.desc).logList e.desc list, logged, ?_⟩
  unfold State.logList at checks sources ⊢
  rw [none_written, List.map_nil] at sound
  simp [startSawyer, own, listRead_none good, cmds, checks, sources, sound, valid, none_written, reserveAll]

end Start

/-! ### A command takes a place (R413, R415, R418, R419) -/

/-- The list may give one of the four places to its command `k`, which is `c`. -/
structure State.Places (s : State) (id k : Nat) (e : Entry) (c : SawyerCmd) : Prop where
  here : s.entry id = some e
  started : e.started = true
  cmd : e.cmds[k]? = some c
  awake : s.inEbb .sawyer = false
  room : s.sawBusy < 4
  free : mayStart e.cmds k = true
  first : (s.before e).any Entry.sawReady = false

/-- The list with its command `k` running. -/
def Entry.placed (e : Entry) (k : Nat) (c : SawyerCmd) : Entry :=
  { e with job := .sawyer (e.cmds.set k { c with phase := .running, upward := c.upwardNow }) }

theorem mapIdx_eq_set {α : Type} {l : List α} {k : Nat} {x : α} (h : l[k]? = some x) (f : α → α) :
    l.mapIdx (fun i y => if i = k then f y else y) = l.set k (f x) := by
  apply List.ext_getElem?
  intro i
  rw [List.getElem?_mapIdx, List.getElem?_set]
  by_cases hi : k = i
  · subst hi
    obtain ⟨small, rfl⟩ := List.getElem?_eq_some_iff.1 h
    simp [small]
  · simp [hi, Ne.symm hi]

section Place

variable {s : State} {id k : Nat} {e : Entry} {c : SawyerCmd} (h : s.Places id k e c)
include h

theorem State.sawTake_eq : s.sawTake id k c.op = s.modCmd id k fun c => { c with phase := .running, upward := c.upwardNow } := by
  obtain ⟨here, started, cmd, awake, room, free, first⟩ := h
  simp [State.sawTake, here, started, cmd, awake, room, free, first]

/-- The command runs, and nothing but its place has changed. -/
theorem State.sawTake_places : (s.sawTake id k c.op).entry id = some (e.placed k c) ∧
    (∀ j, j ≠ id → (s.sawTake id k c.op).entry j = s.entry j) ∧ { s.sawTake id k c.op with ledger := s.ledger } = s := by
  rw [State.sawTake_eq h, State.modCmd]
  refine ⟨?_, fun j other => State.entry_modEntry_ne (by exact fun _ => rfl) s other, rfl⟩
  rw [State.entry_modEntry_self (by exact fun _ => rfl) h.here, mapIdx_eq_set h.cmd]
  rfl

/-- A WAIT_SCAN whose line is still to come waits in its place (R418). -/
theorem exec_waitScan (op : c.op = sawWait) (later : s.scanPasses c = false) : exec (.waitScan id k) s = .next (s.sawTake id k sawWait) := by
  obtain ⟨took, -⟩ := State.sawTake_places h
  rw [op] at took
  have runs : (e.placed k c).cmds[k]? = some { c with phase := .running, upward := c.upwardNow } :=
    List.getElem?_set_self (List.getElem?_eq_some_iff.1 h.cmd).1
  have waits : s.scanPasses { c with phase := .running, upward := c.upwardNow } = false := later
  change execWaitScan id k s = _
  simp [execWaitScan, took, runs, waits]

end Place

/-- The read, its record in the log and the start of one entry leave every other entry as it was. -/
theorem State.entry_start_ne {s t : State} {d : Desc} (h : (s.askList d).Logged t) (id : Nat) (job : Job) (work : List (Nat × Tab Byte))
    {j : Nat} (other : j ≠ id) : ((t.start id job).modEntry id fun x => { x with work := work }).entry j = s.entry j := by
  have logged : t.entry j = s.entry j := by
    obtain ⟨_, asked⟩ := s.askList_eq d
    obtain ⟨_, _, rfl⟩ := h
    rw [asked]
    rfl
  rw [State.entry_modEntry_ne (by exact fun _ => rfl) _ other, State.start, State.entry_modEntry_ne (by exact fun _ => rfl) _ other, logged]

/-- Settles O30: a list goes through its acceptance, its start and the start of its commands. -/
theorem sawyerListsStart : Obligations.SawyerListsStart := by
  refine ⟨fun s _ => ⟨fun r d list taken object good => ?_, fun id e list own op awake waiting free sound => ?_⟩,
    fun id k e c s here started cmd awake room free first => ?_⟩
  · obtain ⟨vs, objs, t, accepted, ran⟩ := exec_sawyerList taken object good
    obtain ⟨_, _, _, moved⟩ := t.run_engineMoved
    obtain ⟨_, _, rfl⟩ := accepted
    obtain ⟨_, asked⟩ := s.askList_eq d
    rw [moved, asked] at ran
    rw [asked]
    exact ⟨_, _, ran, rfl, rfl, rfl, rfl, rfl, List.prefix_append _ _⟩
  · obtain rfl : e.id = id := State.id_of_entry own.here
    have starts : exec (.sawyerListStart e.id list) s = _ := exec_sawyerListStart own op awake waiting free sound
    refine ⟨fun f host bad => ⟨_, starts, ?_⟩, fun good => ⟨fun i f bad => ?_, fun sound valid none_written => ?_⟩⟩
    · rw [startSawyer_timeout own.own host bad]
      exact State.finish_completed (own.askList _) _ _ _
    · obtain ⟨t, logged, ends⟩ := startSawyer_fails own.own good bad
      refine ⟨_, starts, logged.completed ?_⟩
      rw [ends]
      exact State.finish_completed ((own.askList _).of_logged logged) _ _ _
    · obtain ⟨t, logged, begun⟩ := startSawyer_starts own.own good sound valid none_written
      have here := ((own.askList _).of_logged logged).here
      rw [begun] at starts
      refine ⟨_, _, starts, State.entry_modEntry_self (by exact fun _ => rfl) (State.entry_modEntry_self (by exact fun _ => rfl) here), rfl, rfl,
        fun j other => State.entry_start_ne logged _ _ _ other⟩
  · intro runs
    have places : s.Places id k e c := ⟨here, started, cmd, awake, room, free, first⟩
    have takes : ∀ i : Instr, exec i s = .next (s.sawTake id k c.op) → runs i := fun i h => ⟨_, h, State.sawTake_places places⟩
    refine ⟨fun op => takes _ ?_, fun op => takes _ ?_, fun op => takes _ ?_, fun op => takes _ ?_, fun op => takes _ ?_,
      fun op later => takes _ ?_⟩ <;> rw [op]
    case refine_6 => exact exec_waitScan places op later
    all_goals rfl

end Sys2Proof.Machine

/-! TIDE_PROGRAM from its acceptance to its completion, output pulses and captured edges (O41). -/

namespace Sys2Proof.Machine

/-! ### A descriptor that completes as it starts -/

/-- State `t` holds the slot that `s` has just given as the entry `e`, and has issued nothing since: what its completion rests on is as `s`
has it. -/
structure State.Holds (s t : State) (e : Entry) : Prop where
  ledger : t.ledger = s.ledger ++ [e]
  egress : t.egress = s.egress
  flt : t.flt = s.flt
  place : (t.ring e.desc.ring).cpl = (s.ring e.desc.ring).cpl ∧ (t.ring e.desc.ring).sizeLog = (s.ring e.desc.ring).sizeLog ∧
    (t.ring e.desc.ring).vector = (s.ring e.desc.ring).vector

theorem State.holds_of_entered {s t : State} {d : Desc} {e : Entry} {objs : Tab Obj} (home : e.desc = d) (h : (s.entered d e objs).Logged t) :
    s.Holds t e := by
  obtain ⟨_, _, rfl⟩ := h
  subst home
  exact ⟨rfl, rfl, rfl, by simp [State.ring, State.entered]⟩

theorem State.Holds.completionAt {s t : State} {e : Entry} (h : s.Holds t e) (ns : Nat) (signal : Bool) (f : Fail) (r0 r1 : Nat) :
    t.completionAt e.desc ns signal f r0 r1 = s.completionAt e.desc ns signal f r0 r1 := by
  obtain ⟨cpl, size, vector⟩ := h.place
  simp [State.completionAt, State.slotOf, Ring.entries, State.ringVector, cpl, size, vector]

/-- A descriptor that completes as it starts leaves the ledger as it was before its acceptance, and its record has gone out (R96, R110). -/
theorem State.Holds.finishAt {s t : State} {e : Entry} (h : s.Holds t e) (ordered : ledgerOrdered s.ledger s.nextId) (named : e.id = s.nextId)
    (own : e.mirrored = false) (loud : e.muted = false) (live : s.flt.fatalHold = false) (ns : Nat) (signal : Bool) (f : Fail) (r0 r1 : Nat) :
    State.LookedOver { t with ledger := s.ledger, egress := s.egress ++ s.completionAt e.desc ns signal f r0 r1 }
      (t.finishAt e.id ns signal f r0 r1) := by
  have here : t.entry e.id = some e := by
    rw [State.entry, h.ledger, named]
    exact find?_newSlot ordered named
  have left := State.finishAt_lookedOver ⟨here, loud, own, h.flt ▸ live⟩ ns signal f r0 r1
  rwa [h.ledger, h.egress, h.completionAt, named, filter_drop_newSlot ordered named, ← named] at left

theorem State.LookedOver.tide {s t : State} (h : s.LookedOver t) : t.tide = s.tide := by
  obtain ⟨_, _, _, _, _, _, rfl⟩ := h
  rfl

/-- The same, once the engine has gone on: outputs, captures and the Tide are as the start left them. -/
theorem State.Holds.completes {s t : State} {e : Entry} (h : s.Holds t e) (ordered : ledgerOrdered s.ledger s.nextId) (named : e.id = s.nextId)
    (own : e.mirrored = false) (loud : e.muted = false) (live : s.flt.fatalHold = false) (ns : Nat) (signal : Bool) (f : Fail) (r0 r1 : Nat) :
    let u := (t.finishAt e.id ns signal f r0 r1).run
    u.ledger = s.ledger ∧ s.egress ++ s.completionAt e.desc ns signal f r0 r1 <+: u.egress ∧ u.outs = t.outs ∧ u.tcaps = t.tcaps ∧
      u.tide = t.tide := by
  obtain ⟨_, _, _, _, _, _, left⟩ := h.finishAt ordered named own loud live ns signal f r0 r1
  obtain ⟨_, _, _, moved⟩ := (t.finishAt e.id ns signal f r0 r1).run_engineMoved
  rw [moved, left]
  exact ⟨rfl, List.prefix_append _ _, rfl, rfl, rfl⟩

/-! ### Output programmes (R467 to R470) -/

theorem TideOut.nextAt_eq_none {o : TideOut} (series : o.prog.mode = 2) : o.nextAt = none ↔ o.prog.count ≠ 0 ∧ o.prog.count ≤ o.next := by
  simp [TideOut.nextAt, series]

/-- A series with no pulse left is off once its last pulse has ended (R470). -/
theorem TideOut.spent_of_nextAt_none {o : TideOut} (inactive : o.active = false) (gone : o.prog.mode = 2 ∧ o.nextAt = none) :
    o.spent = { o with prog := { o.prog with mode := 0 } } := by
  obtain ⟨series, last⟩ := gone
  obtain ⟨counted, reached⟩ := (TideOut.nextAt_eq_none series).1 last
  exact if_pos ⟨series, counted, reached, by rw [inactive]; rfl⟩

theorem TideOut.spent_of_goes_on {o : TideOut} (on : ¬(o.prog.mode = 2 ∧ o.nextAt = none)) : o.spent = o :=
  if_neg fun ⟨series, counted, reached, _⟩ => on ⟨series, (TideOut.nextAt_eq_none series).2 ⟨counted, reached⟩⟩

theorem TideOut.spent_eq {o : TideOut} (inactive : o.active = false) : o.spent =
    { o with prog := if o.prog.mode = 2 ∧ o.nextAt = none then { o.prog with mode := 0 } else o.prog } := by
  by_cases gone : o.prog.mode = 2 ∧ o.nextAt = none
  · rw [TideOut.spent_of_nextAt_none inactive gone, if_pos gone]
  · rw [TideOut.spent_of_goes_on gone, if_neg gone]

/-- Whether the series of a programme had a pulse left can be read from the output it leaves. -/
theorem TideOut.spent_prog {o : TideOut} (inactive : o.active = false) : o.spent.prog =
    if o.prog.mode = 2 ∧ o.spent.nextAt = none then { o.prog with mode := 0 } else o.prog := by
  by_cases gone : o.prog.mode = 2 ∧ o.nextAt = none
  · rw [TideOut.spent_of_nextAt_none inactive gone]
    exact (if_pos ⟨gone.1, rfl⟩).symm
  · rw [TideOut.spent_of_goes_on gone, if_neg gone]

/-- The output with a programme in force from the Tide time `u` on. -/
def TideOut.installed (o : TideOut) (g : OutProg) (u now : Nat) : TideOut :=
  TideOut.spent { o with
    prog := g, active := false, ends := none, lastAt := now, pulses := 0
    next := if g.mode = 2 then ceilDiv (u - g.start * 2 ^ 32) (g.period * 2 ^ 32 + g.frac) else 0 }

theorem TideOut.installed_prog (o : TideOut) (g : OutProg) (u now : Nat) : (o.installed g u now).prog =
    if g.mode = 2 ∧ (o.installed g u now).nextAt = none then { g with mode := 0 } else g := TideOut.spent_prog rfl

theorem TideOut.installed_idle (o : TideOut) (g : OutProg) (u now : Nat) :
    (o.installed g u now).active = false ∧ (o.installed g u now).ends = none ∧ (o.installed g u now).pulses = 0 := by
  rw [TideOut.installed, TideOut.spent_eq rfl]
  exact ⟨rfl, rfl, rfl⟩

theorem State.installOut_eq (s : State) (n : Nat) (g : OutProg) (u : Nat) :
    ∃ regs, s.installOut n g u = { s.setOut n ((s.out n).installed g u s.now) with regs := regs } := by
  unfold State.installOut
  extract_lets o start next placed
  split
  · exact ⟨_, rfl⟩
  · exact ⟨_, rfl⟩

theorem State.out_of_outs {s t : State} {n : Nat} {x : TideOut} (h : t.outs = tabPut s.outs n x) :
    t.out n = x ∧ ∀ k, k ≠ n → t.out k = s.out k := by
  simp only [State.out, h]
  exact ⟨tabGet_put _ _ _ _, fun k other => tabGet_put_ne _ _ _ other⟩

theorem State.cap_of_tcaps {s t : State} {n : Nat} {x : TideCap} (h : t.tcaps = tabPut s.tcaps n x) :
    t.cap n = x ∧ ∀ k, k ≠ n → t.cap k = s.cap k := by
  simp only [State.cap, h]
  exact ⟨tabGet_put _ _ _ _, fun k other => tabGet_put_ne _ _ _ other⟩

/-! ### TIDE_PROGRAM (R461, R466 to R471) -/

theorem tide_namesNone (b : List Byte) : (Job.tide b).namesNone := by
  rintro ⟨⟩ rfl
  exact ⟨rfl, rfl⟩

theorem plain_namesNone : Job.plain.namesNone := by
  rintro ⟨⟩ rfl
  exact ⟨rfl, rfl⟩

/-- The state as the block of the programme is being read (R24, R25, R466). -/
def State.askBlock (s : State) (d : Desc) : State := s.emit (.readRequest d.fn (d.addr 3) 32 (.table d.ring))

/-- The 32 bytes of the parameter block that the read returned (R466). -/
def blockOf (block : HostRead) : List Byte := bytesAt block.bytes 0 32

/-- The slot of a TIDE_PROGRAM with its block. -/
def State.tideEntry (s : State) (d : Desc) (block : HostRead) : Entry := s.newEntry d (.tide (blockOf block)) []

/-- A programme whose block passes its checks starts at once. -/
theorem State.takeTide_starts {s : State} {d : Desc} {block : HostRead} {check : List Byte → Option Fail}
    (ordered : ledgerOrdered s.ledger s.nextId) (atOnce : s.goesAtOnce d) (good : block.fail = none) (passes : check block.bytes = none) :
    ∃ t, ((s.askBlock d).entered d (s.tideEntry d block) s.objs).Logged t ∧
      s.takeTide d block check = startTide (s.tideEntry d block) t := by
  obtain ⟨t, logged, starts⟩ := State.admitStart_atOnce (s := s.askBlock d) ordered (tide_namesNone (blockOf block)) atOnce
    (fun t => t.logData_logged d 0 (blockOf block)) startTide
  have sound : firstFail [block.fail.map timeoutOf, check block.bytes] = none := by
    rw [good, passes]
    rfl
  refine ⟨t, logged, ?_⟩
  unfold State.takeTide
  simp only [sound]
  exact starts

theorem exec_tideProgramOut {s : State} {r : Fin 128} {d : Desc} {block : HostRead} (taken : Taken s r opTideProgram d)
    (target : d.tideTarget < 8) : exec (.tideProgramOut r block) s = .next (s.takeTide d block outFail).run := by
  refine congrArg Host.Outcome.next ((State.withCur_taken taken _).trans (congrArg State.run ?_))
  exact if_pos target

theorem exec_tideProgramCap {s : State} {r : Fin 128} {d : Desc} {block : HostRead} (taken : Taken s r opTideProgram d)
    (target : 8 ≤ d.tideTarget ∧ d.tideTarget < 12) : exec (.tideProgramCap r block) s = .next (s.takeTide d block capFail).run := by
  refine congrArg Host.Outcome.next ((State.withCur_taken taken _).trans (congrArg State.run ?_))
  exact if_pos target

theorem exec_tideStepArm {s : State} {r : Fin 128} {d : Desc} (taken : Taken s r opTideProgram d) (target : d.tideTarget = 12)
    (allowed : s.armFail = none) : exec (.tideStepArm r) s = .next (s.admitStart d .plain [] id startTide).run := by
  refine congrArg Host.Outcome.next ((State.withCur_taken taken _).trans (congrArg State.run ?_))
  simp [target, allowed]

theorem startTide_out {s : State} {e : Entry} {b : List Byte} (job : e.job = .tide b) (target : e.desc.tideTarget < 8) :
    startTide e s = startOut b e s := by
  have other : e.desc.tideTarget ≠ 12 := by omega
  simp [startTide, job, other, target]

theorem startTide_cap {s : State} {e : Entry} {b : List Byte} (job : e.job = .tide b) (target : 8 ≤ e.desc.tideTarget ∧ e.desc.tideTarget < 12) :
    startTide e s = startCap b e s := by
  have other : e.desc.tideTarget ≠ 12 := by omega
  have notOut : ¬e.desc.tideTarget < 8 := by omega
  simp [startTide, job, other, notOut]

theorem startOut_inactive {s : State} {e : Entry} {b : List Byte} (idle : (s.out e.desc.tideTarget).active = false)
    (line : s.outLineFail (outProg b) = none) : startOut b e s =
      (s.installOut e.desc.tideTarget (outProg b) (s.tideAt6 s.nextEdge / 6).toNat).finishAt e.id (s.tideNsAt s.nextEdge) false (stOk, 0) 0 0 := by
  simp [startOut, idle, line]

theorem startOut_active {s : State} {e : Entry} {b : List Byte} (busy : (s.out e.desc.tideTarget).active = true) : startOut b e s =
    (s.setOut e.desc.tideTarget { s.out e.desc.tideTarget with
      waiting := (s.out e.desc.tideTarget).waiting ++ [(e.id, outProg b)] }).start e.id e.job := by
  simp [startOut, busy]

/-- The step is armed (R461). -/
def State.armed (s : State) : State := { s with tide := { s.tide with armed := true } }

theorem startArm_eq (e : Entry) (s : State) : startArm e s = (s.armed.finish e.id (stOk, 0) 0 0).tryStep := rfl

theorem startTide_arm {s : State} {e : Entry} (target : e.desc.tideTarget = 12) : startTide e s = startArm e s := if_pos target

theorem State.tryStep_waits {s : State} (few : s.tide.valid < 8) : s.tryStep = s := by
  have notYet : ¬8 ≤ s.tide.valid := by omega
  simp [State.tryStep, notYet]

/-- What a start of TIDE_PROGRAM goes by is in `t` as it is in `s`. -/
structure State.TideAsIn (s t : State) : Prop where
  outs : t.outs = s.outs
  tcaps : t.tcaps = s.tcaps
  tide : t.tide = s.tide
  now : t.now = s.now
  line : t.outLineFail = s.outLineFail

theorem State.tideAsIn_of_entered {s t : State} {d : Desc} {e : Entry} (h : (s.entered d e s.objs).Logged t) : s.TideAsIn t := by
  obtain ⟨_, _, rfl⟩ := h
  exact ⟨rfl, rfl, rfl, rfl, rfl⟩

/-- The read of a block changes none of it. -/
theorem State.TideAsIn.of_askBlock {s t : State} {d : Desc} (h : (s.askBlock d).TideAsIn t) : s.TideAsIn t :=
  ⟨h.outs, h.tcaps, h.tide, h.now, h.line⟩

theorem State.TideAsIn.out {s t : State} (h : s.TideAsIn t) (n : Nat) : t.out n = s.out n := by
  rw [State.out, h.outs]
  rfl

theorem State.TideAsIn.cap {s t : State} (h : s.TideAsIn t) (n : Nat) : t.cap n = s.cap n := by
  rw [State.cap, h.tcaps]
  rfl

theorem State.TideAsIn.edge {s t : State} (h : s.TideAsIn t) : t.tideAt6 t.nextEdge = s.tideAt6 s.nextEdge := by
  simp [State.tideAt6, State.nextEdge, h.tide, h.now]

theorem State.TideAsIn.edgeNs {s t : State} (h : s.TideAsIn t) : t.tideNsAt t.nextEdge = s.tideNsAt s.nextEdge := by
  simp [State.tideNsAt, h.edge]

section AtOnce

variable {s : State} {r : Fin 128} {d : Desc} {block : HostRead} (canon : Canon s) (taken : Taken s r opTideProgram d)
  (atOnce : s.goesAtOnce d)
include canon taken atOnce

/-- A programme for an idle output is in force at the next CLK_TIME edge and completes with that time (R466, R470). -/
theorem tideProgramOut_idle (live : s.flt.fatalHold = false) (target : d.tideTarget < 8) (good : block.fail = none)
    (passes : outFail block.bytes = none) (line : s.outLineFail (outProg (blockOf block)) = none) (idle : (s.out d.tideTarget).active = false) :
    ∃ t, exec (.tideProgramOut r block) s = .next t ∧ t.ledger = s.ledger ∧
      (s.askBlock d).egress ++ s.completionAt d (s.tideNsAt s.nextEdge) false (stOk, 0) 0 0 <+: t.egress ∧ t.outs = tabPut s.outs d.tideTarget
        ((s.out d.tideTarget).installed (outProg (blockOf block)) (s.tideAt6 s.nextEdge / 6).toNat s.now) := by
  obtain ⟨t, logged, starts⟩ := State.takeTide_starts canon.ledger atOnce good passes
  have same := (State.tideAsIn_of_entered (s := s.askBlock d) logged).of_askBlock
  have held := State.holds_of_entered (e := s.tideEntry d block) rfl logged
  have ran := exec_tideProgramOut (block := block) taken target
  rw [starts, startTide_out rfl target, startOut_inactive (by rw [same.out]; exact idle) (by rw [same.line]; exact line), same.edge,
    same.edgeNs] at ran
  obtain ⟨_, placed⟩ := t.installOut_eq d.tideTarget (outProg (blockOf block)) (s.tideAt6 s.nextEdge / 6).toNat
  have kept : (s.askBlock d).Holds (t.installOut d.tideTarget (outProg (blockOf block)) (s.tideAt6 s.nextEdge / 6).toNat)
      (s.tideEntry d block) := by
    rw [placed]
    exact ⟨held.ledger, held.egress, held.flt, held.place⟩
  obtain ⟨ledger, sent, outs, -⟩ := kept.completes canon.ledger rfl rfl rfl live (s.tideNsAt s.nextEdge) false (stOk, 0) 0 0
  refine ⟨_, ran, ledger, sent, outs.trans ?_⟩
  rw [placed, ← same.outs, ← same.out, ← same.now]
  rfl

/-- A programme for an output at its active level waits for the end of the pulse (R470). -/
theorem tideProgramOut_busy (target : d.tideTarget < 8) (good : block.fail = none) (passes : outFail block.bytes = none)
    (busy : (s.out d.tideTarget).active = true) :
    ∃ t, exec (.tideProgramOut r block) s = .next t ∧
      t.ledger = s.ledger ++ [{ s.tideEntry d block with started := true, readyAt := some s.now }] ∧
      t.outs = tabPut s.outs d.tideTarget { s.out d.tideTarget with
        waiting := (s.out d.tideTarget).waiting ++ [(s.nextId, outProg (blockOf block))] } := by
  obtain ⟨t, logged, starts⟩ := State.takeTide_starts canon.ledger atOnce good passes
  have same := (State.tideAsIn_of_entered (s := s.askBlock d) logged).of_askBlock
  have held := State.holds_of_entered (e := s.tideEntry d block) rfl logged
  have ran := exec_tideProgramOut (block := block) taken target
  rw [starts, startTide_out rfl target, startOut_active (by rw [same.out]; exact busy)] at ran
  obtain ⟨_, _, _, moved⟩ := State.run_engineMoved ((t.setOut d.tideTarget { t.out d.tideTarget with
    waiting := (t.out d.tideTarget).waiting ++ [(s.nextId, outProg (blockOf block))] }).start s.nextId (.tide (blockOf block)))
  refine ⟨_, ran.trans (congrArg Host.Outcome.next moved), ?_, ?_⟩
  · rw [← same.now]
    exact (congrArg (List.map _) held.ledger).trans (map_newSlot (e := s.tideEntry d block) canon.ledger rfl _)
  · rw [← same.outs, ← same.out]
    rfl

/-- A capture input starts anew with its programme; what it has buffered for the host stays (R466, R471). -/
theorem tideProgramCap_starts (live : s.flt.fatalHold = false) (target : 8 ≤ d.tideTarget ∧ d.tideTarget < 12) (good : block.fail = none)
    (passes : capFail block.bytes = none) : ∃ t, exec (.tideProgramCap r block) s = .next t ∧ t.ledger = s.ledger ∧
      (s.askBlock d).egress ++ s.completionAt d (s.tideNsAt s.nextEdge) false (stOk, 0) 0 0 <+: t.egress ∧
      t.tcaps = tabPut s.tcaps (d.tideTarget - 8) { TideCap.reset with
        edge := fieldOf (blockWord (blockOf block) 0) 1 0, filter := fieldOf (blockWord (blockOf block) 0) 15 8
        sizeLog := fieldOf (blockWord (blockOf block) 1) 3 0, addr := blockWord (blockOf block) 2 + 2 ^ 32 * blockWord (blockOf block) 3
        buffered := (s.cap (d.tideTarget - 8)).buffered } := by
  obtain ⟨t, logged, starts⟩ := State.takeTide_starts canon.ledger atOnce good passes
  have same := (State.tideAsIn_of_entered (s := s.askBlock d) logged).of_askBlock
  have held := State.holds_of_entered (e := s.tideEntry d block) rfl logged
  have ran := exec_tideProgramCap (block := block) taken target
  rw [starts, startTide_cap rfl target, startCap, same.edgeNs, same.cap] at ran
  have kept : ∀ n c, (s.askBlock d).Holds (t.setCap n c) (s.tideEntry d block) := fun _ _ =>
    ⟨held.ledger, held.egress, held.flt, held.place⟩
  obtain ⟨ledger, sent, -, caps, -⟩ := (kept _ _).completes canon.ledger rfl rfl rfl live (s.tideNsAt s.nextEdge) false (stOk, 0) 0 0
  refine ⟨_, ran, ledger, sent, caps.trans ?_⟩
  rw [← same.tcaps]
  rfl

/-- Target 12 arms the step, which with fewer than eight valid samples is not made yet (R461). -/
theorem tideStepArm_waits (live : s.flt.fatalHold = false) (target : d.tideTarget = 12) (allowed : s.armFail = none)
    (few : s.tide.valid < 8) : ∃ t, exec (.tideStepArm r) s = .next t ∧ t.ledger = s.ledger ∧ t.tide = { s.tide with armed := true } ∧
      s.egress ++ s.completion d false (stOk, 0) 0 0 <+: t.egress := by
  obtain ⟨t, logged, starts⟩ := State.admitStart_atOnce (prep := id) canon.ledger plain_namesNone atOnce (fun t => .refl t) startTide
  have same := State.tideAsIn_of_entered logged
  have held := State.holds_of_entered (e := s.newEntry d .plain []) rfl logged
  have armed : s.Holds t.armed (s.newEntry d .plain []) := ⟨held.ledger, held.egress, held.flt, held.place⟩
  have time : t.armed.tideNs = s.tideNs := by
    simp [State.armed, State.tideNs, State.tideNsAt, State.tideAt6, Tide.units, same.tide, same.now]
  obtain ⟨ledger, sent, -, -, tide⟩ := armed.completes canon.ledger rfl rfl rfl live s.tideNs false (stOk, 0) 0 0
  have early : (t.armed.finishAt (s.newEntry d .plain []).id s.tideNs false (stOk, 0) 0 0).tide.valid < 8 := by
    rw [(armed.finishAt canon.ledger rfl rfl rfl live s.tideNs false (stOk, 0) 0 0).tide]
    exact (congrArg Tide.valid same.tide).trans_lt few
  have ran := exec_tideStepArm taken target allowed
  rw [starts, startTide_arm target, startArm_eq, State.finish, time, State.tryStep_waits early] at ran
  refine ⟨_, ran, ledger, tide.trans ?_, sent⟩
  rw [← same.tide]
  rfl

end AtOnce

theorem bytesAt_bytesAt (bs : List Byte) {off n m : Nat} (h : off + m ≤ n) : bytesAt (bytesAt bs 0 n) off m = bytesAt bs off m := by
  refine List.map_congr_left fun i hi => ?_
  have small : off + i < n := by have := List.mem_range.1 hi; omega
  simp [bytesAt, small]

/-- The words of a block are those of the bytes that the read returned. -/
theorem blockWord_blockOf (block : HostRead) {i : Nat} (small : i < 8) : blockWord (blockOf block) i = leAt block.bytes (4 * i) 4 :=
  congrArg leNat (bytesAt_bytesAt block.bytes (by omega))

/-! ### Output pulses (R468 to R470) -/

/-- An output put in place leaves the other outputs and the rest of the state as they were. -/
theorem State.setOut_rest (s : State) (n : Nat) (x : TideOut) :
    (∀ k, k ≠ n → (s.setOut n x).out k = s.out k) ∧ { s.setOut n x with outs := s.outs } = s :=
  ⟨fun _ h => s.out_setOut_ne x h, rfl⟩

/-- A pulse that is due on time begins at its time of the programme (R468, R469). -/
theorem State.pulseStart_onTime {s : State} {n u : Nat} (idle : (s.out n).active = false) (own : (s.out n).prog.mode ≠ 3)
    (next : (s.out n).nextAt = some u) (reached : s.tideReached u = true)
    (onTime : ¬((s.out n).prog.mode = 1 ∧ s.field (0x8040 + 4 * n) 8 8 = 1)) : s.pulseStart n = s.beginPulse n u := by
  simp only [State.pulseStart, idle, own, next, reached, if_neg onTime, Bool.false_eq_true, if_false, Bool.not_true]

/-- With no programme waiting the end of a pulse installs none. -/
theorem State.installWaiting_none (s : State) (n : Nat) {x : TideOut} (h : x.waiting = []) :
    (s.setOut n x).installWaiting n = s.setOut n x := by
  cases x
  cases h
  simp only [State.installWaiting, State.out_setOut, List.foldl_nil]
  simp only [State.setOut, tabPut_tabPut]

/-- A pulse that is over, with no programme waiting for its end, leaves its output inactive (R469, R470). -/
theorem State.pulseEnd_alone {s : State} {n u : Nat} (busy : (s.out n).active = true) (ends : (s.out n).ends = some u)
    (reached : s.tideReached u = true) (alone : (s.out n).waiting = []) :
    s.pulseEnd n = s.setOut n { s.out n with
      active := false, ends := none
      prog := if (s.out n).prog.mode = 2 ∧ (s.out n).nextAt = none then { (s.out n).prog with mode := 0 } else (s.out n).prog } := by
  have finished : ((s.out n).active && ((s.out n).ends.map s.tideReached).getD false) = true := by simp [busy, ends, reached]
  have left := TideOut.spent_eq (o := { s.out n with active := false, ends := none }) rfl
  unfold State.pulseEnd
  rw [if_pos finished, left]
  exact s.installWaiting_none n alone

/-! ### Captured edges (R472, R473) -/

/-- An input put in place leaves the other inputs and the rest of the state as they were. -/
theorem State.setCap_rest (s : State) (n : Nat) (x : TideCap) :
    (∀ k, k ≠ n → (s.setCap n x).cap k = s.cap k) ∧ { s.setCap n x with tcaps := s.tcaps } = s :=
  ⟨fun _ h => s.cap_setCap_ne x h, rfl⟩

/-- The input with an edge dropped and counted (R473). -/
def TideCap.dropsEdge (c : TideCap) (now : Nat) : TideCap :=
  { c with lastEdge := some now, droppedSince := satNat (c.droppedSince + 1) 4095, dropped := satNat (c.dropped + 1) 0xFFFF }

/-- The record of an edge, at its address in the ring (R472). -/
def State.capRecord (s : State) (n : Nat) (rising : Bool) : Nat × List Byte :=
  ((s.cap n).addr + 16 * ((s.cap n).seq % 2 ^ ((s.cap n).sizeLog + 4)), capBytes n (s.cap n) s.tideNs rising)

/-- The input with the edge's record behind those that wait (R472, R473). -/
def State.takesEdge (s : State) (n : Nat) (rising : Bool) : TideCap :=
  { s.cap n with lastEdge := some s.now, seq := ((s.cap n).seq + 1) % 65536, droppedSince := 0
                 buffered := (s.cap n).buffered ++ [s.capRecord n rising] }

section Edge

variable {s : State} {n : Nat} {rising : Bool} (takes : (s.cap n).takes rising = true)
  (apart : ∀ x, (s.cap n).lastEdge = some x → x + 24 ≤ s.now)
include takes apart

theorem State.capEdge_eq : s.capEdge n rising = if 16 ≤ (s.cap n).buffered.length + s.capWaiting (s.cap n) then
    s.setCap n ((s.cap n).dropsEdge s.now) else (s.setCap n (s.takesEdge n rising)).drainCap n := by
  unfold State.capEdge
  extract_lets c near a kept
  have far : near = false := by
    cases last : (s.cap n).lastEdge with
    | none => simp [near, c, last]
    | some x => simpa [near, c, last] using apart x last
  rw [if_neg (by simp [takes, far, c])]
  rfl

end Edge

theorem State.foldl_emit (s : State) (f : Nat × List Byte → Egress) (bs : List (Nat × List Byte)) :
    bs.foldl (fun s b => s.emit (f b)) s = { s with egress := s.egress ++ bs.map f } := by
  induction bs generalizing s with
  | nil => simp
  | cons b bs ih => rw [List.foldl_cons, ih]; simp [State.emit]

/-- Records that wait go out in their order while the host can be reached (R473). -/
theorem State.drainCap_up {s : State} (up : s.power.linkUp = true) (n : Nat) : s.drainCap n =
    { s.setCap n { s.cap n with buffered := [] } with egress := s.egress ++ (s.cap n).buffered.map fun b => .data 0 b.1 b.2 0 } := by
  unfold State.drainCap
  rw [if_pos up]
  exact State.foldl_emit _ (fun b => .data 0 b.1 b.2 0) _

theorem State.drainCap_down {s : State} (down : s.power.linkUp = false) (n : Nat) : s.drainCap n = s := by
  simp [State.drainCap, down]

/-- An input put in place and drained differs from itself in what still waits: nothing while the host can be reached, all of it while not. -/
theorem State.drainCap_setCap (s : State) (n : Nat) (x : TideCap) : ∃ waits,
    ((s.setCap n x).drainCap n).tcaps = tabPut s.tcaps n { x with buffered := waits } ∧
    { (s.setCap n x).drainCap n with tcaps := s.tcaps, egress := s.egress } = s ∧
    (s.power.linkUp = true → waits = [] ∧
      ((s.setCap n x).drainCap n).egress = s.egress ++ x.buffered.map fun b => .data 0 b.1 b.2 0) ∧
    (s.power.linkUp = false → waits = x.buffered ∧ ((s.setCap n x).drainCap n).egress = s.egress) := by
  cases link : s.power.linkUp with
  | true =>
    rw [State.drainCap_up (s := s.setCap n x) link, State.cap_setCap]
    exact ⟨[], tabPut_tabPut _ _ _ _, rfl, fun _ => ⟨rfl, rfl⟩, nofun⟩
  | false =>
    rw [State.drainCap_down (s := s.setCap n x) link]
    exact ⟨x.buffered, rfl, rfl, nofun, fun _ => ⟨rfl, rfl⟩⟩

/-- Settles O41: a programme starts at once, and pulses and edges change the output or the input that they are of. -/
theorem tideProgramsAndPulses : Obligations.TideProgramsAndPulses := by
  refine ⟨fun r d block s canon live taken atOnce => ?_, fun s _ => ⟨fun n u idle own next reached onTime => ?_,
    fun n u busy ends reached alone => ?_, fun n rising takes apart => ?_⟩⟩
  · intro n g asks record
    have issued : ∀ {sent : List Egress}, (s.askBlock d).egress ++ s.completionAt d (s.tideNsAt s.nextEdge) false (stOk, 0) 0 0 <+: sent →
        s.egress ++ [asks, record] <+: sent := fun h => by
      refine List.IsPrefix.trans ⟨if d.irq || false then [.msix d.fn (s.ringVector d.ring)] else [], ?_⟩ h
      simp [State.askBlock, State.emit, State.completionAt, asks, record, taken.home]
    refine ⟨fun target good passes line => ⟨fun idle => ?_, fun busy => ?_⟩, fun low high good passes => ?_, fun target allowed few => ?_⟩
    · obtain ⟨t, ran, ledger, sent, outs⟩ := tideProgramOut_idle canon taken atOnce live target good passes line idle
      obtain ⟨here, others⟩ := State.out_of_outs outs
      obtain ⟨inactive, ends, pulses⟩ := TideOut.installed_idle (s.out n) g (s.tideAt6 s.nextEdge / 6).toNat s.now
      refine ⟨t, ran, ledger, issued sent, ?_⟩
      rw [here]
      exact ⟨TideOut.installed_prog _ _ _ _, inactive, ends, pulses, others⟩
    · obtain ⟨t, ran, ledger, outs⟩ := tideProgramOut_busy canon taken atOnce target good passes busy
      exact ⟨t, _, ran, ledger, rfl, rfl, State.out_of_outs outs⟩
    · obtain ⟨t, ran, ledger, sent, caps⟩ := tideProgramCap_starts canon taken atOnce live ⟨low, high⟩ good passes
      obtain ⟨here, others⟩ := State.cap_of_tcaps caps
      have word : ∀ {i : Nat}, i < 8 → blockWord (blockOf block) i = leAt block.bytes (4 * i) 4 := blockWord_blockOf block
      refine ⟨t, ran, ledger, issued sent, ?_⟩
      rw [here, word (by decide : 0 < 8), word (by decide : 1 < 8), word (by decide : 2 < 8), word (by decide : 3 < 8)]
      exact ⟨rfl, rfl, rfl, rfl, rfl, rfl, others⟩
    · exact tideStepArm_waits canon taken atOnce live target allowed few
  · exact ⟨_, congrArg Host.Outcome.next (State.pulseStart_onTime idle own next reached onTime), s.out_setOut _ _, s.setOut_rest _ _⟩
  · exact ⟨_, congrArg Host.Outcome.next (State.pulseEnd_alone busy ends reached alone), s.out_setOut _ _, s.setOut_rest _ _⟩
  · intro c new
    have ran : exec (.tideCapEdge n rising) s = _ := congrArg Host.Outcome.next (State.capEdge_eq takes apart)
    obtain ⟨others, rest⟩ := s.setCap_rest n ((s.cap n).dropsEdge s.now)
    by_cases full : 16 ≤ c.buffered.length + s.capWaiting c
    · rw [if_pos full] at ran
      exact ⟨_, ran, others, rest, fun _ => ⟨s.cap_setCap _ _, rfl⟩, fun room => absurd full (Nat.not_le.2 room)⟩
    · rw [if_neg full] at ran
      obtain ⟨waits, caps, rest, up, down⟩ := s.drainCap_setCap n (s.takesEdge n rising)
      obtain ⟨here, others⟩ := State.cap_of_tcaps caps
      refine ⟨_, ran, others, rest, fun most => absurd most full, fun _ => ?_⟩
      rw [here]
      exact ⟨rfl, rfl, rfl, up, down⟩

end Sys2Proof.Machine

/-! SHEPHERD_UPDATE on a stopped port (O34), refuted: an update of the port that still waits may bear the id that the next descriptor gets,
for the canonical form bounds the ids of the ledger only. The new update then ends with those it replaces, OK with detail 2, and no record
of its own follows (R272). -/

namespace Sys2Proof.Machine

/-- A SHEPHERD_UPDATE of port 0 without eyes, at the head of ring 0. -/
def emptyUpdate : Desc := { ring := 0, count := 0, words := opShepherdUpdate * 2 ^ 24 :: List.replicate 15 0 }

/-- The update waits for its acceptance. Port 0 is stopped and holds an update of id 0, the id that the ledger gives next. -/
def updateAhead : State :=
  { State.reset with
    power := { Power.reset with boot := .configured }
    rings := [(0, { Ring.reset with state := .running, cur := some emptyUpdate })]
    ports := [(0, { Port.reset with eyeUpdates := [{ id := 0, eyes := [], at_ := 0 }] })] }

theorem updateAhead_canon : Canon updateAhead where
  regs := ⟨List.Pairwise.nil, fun _ h => absurd h List.not_mem_nil⟩
  wregs := ⟨List.Pairwise.nil, fun _ h => absurd h List.not_mem_nil⟩
  rings := List.pairwise_singleton _ _
  ports := List.pairwise_singleton _ _
  chans := List.Pairwise.nil
  ctxs := List.Pairwise.nil
  units := List.Pairwise.nil
  shuttles := List.Pairwise.nil
  outs := List.Pairwise.nil
  tcaps := List.Pairwise.nil
  objs := List.Pairwise.nil
  gens := List.Pairwise.nil
  tills := List.Pairwise.nil
  table := List.Pairwise.nil
  ledger := ⟨List.Pairwise.nil, fun _ h => absurd h List.not_mem_nil⟩

theorem updateAhead_taken : Taken updateAhead 0 opShepherdUpdate emptyUpdate where
  cur := rfl
  home := rfl
  op := by decide
  runs := rfl
  sound := by decide +kernel
  room := by decide +kernel

theorem updateAhead_goesAtOnce : updateAhead.goesAtOnce emptyUpdate := ⟨nofun, by decide +kernel⟩

/-- The one record that leaves the device: the update has been replaced. -/
theorem updateAhead_issues {t : State} (ran : exec (.shepherdUpdate 0 { bytes := [], fail := none }) updateAhead = .next t) :
    t.egress = [.write 0 0 (cplBytes emptyUpdate stOk 2 0 0 0)] := by
  obtain rfl := Host.Outcome.next.inj ran
  decide +kernel

/-- Refutes O34: on a stopped port that still holds an update of the id given next, the update completes as replaced and not as installed. -/
theorem not_eyesAndSignatures : ¬ Obligations.EyesAndSignatures := by
  intro holds
  obtain ⟨updates, -⟩ := holds 0 emptyUpdate { bytes := [], fail := none } updateAhead updateAhead_canon rfl
  obtain ⟨-, stopped, -⟩ := updates updateAhead_taken (by decide +kernel)
  obtain ⟨t, out, ran, -, -, -, -, -, installed⟩ := stopped updateAhead_goesAtOnce nofun rfl
  have said : Egress.write 0 0 (cplBytes emptyUpdate stOk 0 0 0 0) ∈ t.egress :=
    installed.subset (List.mem_append_right _ List.mem_cons_self)
  rw [updateAhead_issues ran] at said
  exact absurd said (by decide +kernel)

end Sys2Proof.Machine

/-! What every command keeps, and what every step keeps (O4, O7): the commands' `Kept` lemmas gathered over the opcode table, the full
resets, and the tick. -/

namespace Sys2Proof.Machine

/-- Every command but a full reset keeps what `Kept` says, and one that is not on the Watch side leaves the safety content alone too. -/
theorem exec_kept {c : Instr} (notReset : fullReset c = false) (s : State) : KeptBy (!watchSide c) s (exec c s) :=
  match c, notReset with
  | .powerOnResetRelease rolePref bootMode, _ => execPowerOnResetRelease_kept _ s rolePref bootMode
  | .pwrResetNRelease rolePref bootMode, _ => execPwrResetNRelease_kept _ s rolePref bootMode
  | .perstNAssert, _ => execPerstNAssert_kept _ s
  | .perstNRelease, _ => execPerstNRelease_kept _ s
  | .pfFunctionLevelReset, _ => execPfFunctionLevelReset_kept _ s
  | .vfFunctionLevelReset f, _ => execVfFunctionLevelReset_kept _ s f
  | .bootImageVerified directoryOk a b, _ => execBootImageVerified_kept _ s directoryOk a b
  | .bootConfigRead record, _ => execBootConfigRead_kept _ s record
  | .bootPlateDecoded stream, _ => execBootPlateDecoded_kept _ s stream
  | .dramTrainingDone working, _ => execDramTrainingDone_kept _ s working
  | .storeReadDone, _ => execStoreReadDone_kept _ s
  | .jtagUnlock signatureOk, _ => execJtagUnlock_kept _ s signatureOk
  | .watchdogExpiry, _ => execWatchdogExpiry_kept _ s
  | .purserRestartDone, _ => execPurserRestartDone_kept _ s
  | .registerWrite f off size value, _ => execRegisterWrite_kept _ s f off size value
  | .wideRegisterRead f off size, _ => execWideRegisterRead_kept _ s f off size
  | .gctlLock, _ => execGctlLock_kept _ s
  | .ringEnable r, _ => execRingEnable_kept _ s r
  | .ringDisable r, _ => execRingDisable_kept _ s r
  | .doorbellEnableReadReturn r res, _ => execDoorbellEnableReadReturn_kept _ s r res
  | .pollRound, _ => execPollRound_kept _ s
  | .pollReadReturn r res, _ => execPollReadReturn_kept _ s r res
  | .descriptorFetch r, _ => execDescriptorFetch_kept _ s r
  | .fetchReturn r data, _ => execFetchReturn_kept _ s r data
  | .descriptorStart id, _ => execDescriptorStart_kept _ s id
  | .nop r, _ => execNop_kept _ s r
  | .objAlloc r, _ => execObjAlloc_kept _ s r
  | .objFree r, _ => execObjFree_kept _ s r
  | .objWrite r, _ => execObjWrite_kept _ s r
  | .objWriteDone id data, _ => execObjWriteDone_kept _ s id data
  | .objRead r, _ => execObjRead_kept _ s r
  | .objReadDone id poisonedRead, _ => execObjReadDone_kept _ s id poisonedRead
  | .plateLoad r, _ => execPlateLoad_kept _ s r
  | .plateLoadStart id, _ => execPlateLoadStart_kept _ s id
  | .plateLoadDone id data, _ => execPlateLoadDone_kept _ s id data
  | .streamDecode r, _ => execStreamDecode_kept _ s r
  | .streamContinue r, _ => execStreamContinue_kept _ s r
  | .streamDescStart id, _ => execStreamDescStart_kept _ s id
  | .streamDescEnd id data, _ => execStreamDescEnd_kept _ s id data
  | .strdKill index, _ => execStrdKill_kept _ s index
  | .sceneCommit r table, _ => execSceneCommit_kept _ s r table
  | .toneCurvePin id, _ => execToneCurvePin_kept _ s id
  | .modeSet r, _ => execModeSet_kept _ s r
  | .modeSetStop r, _ => execModeSetStop_kept _ s r
  | .shepherdUpdate r table, _ => execShepherdUpdate_kept _ s r table
  | .signatureExpect r table, _ => execSignatureExpect_kept _ s r table
  | .sawyerList r list, _ => execSawyerList_kept _ s r list
  | .sawyerListStart id list, _ => execSawyerListStart_kept _ s id list
  | .fill id k, _ => execFill_kept _ s id k
  | .copy id k, _ => execCopy_kept _ s id k
  | .convert id k, _ => execConvert_kept _ s id k
  | .blend id k, _ => execBlend_kept _ s id k
  | .maskFill id k, _ => execMaskFill_kept _ s id k
  | .waitScan id k, _ => execWaitScan_kept _ s id k
  | .sawyerRowDone id k, _ => execSawyerRowDone_kept _ s id k
  | .sawyerCommandDone id k, _ => execSawyerCommandDone_kept _ s id k
  | .tallyJob r, _ => execTallyJob_kept _ s r
  | .tallyJobStart id, _ => execTallyJobStart_kept _ s id
  | .tallyJobDone id data poisonedRead, _ => execTallyJobDone_kept _ s id data poisonedRead
  | .tallyUnitRead k, _ => execTallyUnitRead_kept _ s k
  | .calLoad r, _ => execCalLoad_kept _ s r
  | .calLoadStart id, _ => execCalLoadStart_kept _ s id
  | .calLoadReady id, _ => execCalLoadReady_kept _ s id
  | .calMeasureElectrical r, _ => execCalMeasureElectrical_kept _ s r
  | .calMeasurePhotometric r, _ => execCalMeasurePhotometric_kept _ s r
  | .calMeasureRepeat id first, _ => execCalMeasureRepeat_kept _ s id first
  | .calMeasureDone id second, _ => execCalMeasureDone_kept _ s id second
  | .calStore r, _ => execCalStore_kept _ s r
  | .calStoreDone outcome, _ => execCalStoreDone_kept _ s outcome
  | .tideProgramOut r block, _ => execTideProgramOut_kept _ s r block
  | .tideProgramCap r block, _ => execTideProgramCap_kept _ s r block
  | .tideStepArm r, _ => execTideStepArm_kept _ s r
  | .fence r, _ => execFence_kept _ s r
  | .waitTime r, _ => execWaitTime_kept _ s r
  | .waitTimeExpiry id, _ => execWaitTimeExpiry_kept _ s id
  | .harbTileMove tile dest unreadable, _ => execHarbTileMove_kept _ s tile dest unreadable
  | .relocationEnd ch, _ => execRelocationEnd_kept _ s ch
  | .harbClearPeaks, _ => execHarbClearPeaks_kept _ s
  | .lineSendSlot p, _ => execLineSendSlot_kept _ s p
  | .segmentSendSlot p, _ => execSegmentSendSlot_kept _ s p
  | .captureFrameDone p dropped, _ => execCaptureFrameDone_kept _ s p dropped
  | .weaveTileStart shuttle, _ => execWeaveTileStart_kept _ s shuttle
  | .weaveSegmentDone shuttle, _ => execWeaveSegmentDone_kept _ s shuttle
  | .witnessTileDone p, _ => execWitnessTileDone_kept _ s p
  | .throttleEbbTimer u, _ => execThrottleEbbTimer_kept _ s u
  | .rmapSignatureCheck p upset, _ => execRmapSignatureCheck_kept _ s p upset
  | .almanacScrub p damage, _ => execAlmanacScrub_kept _ s p damage
  | .rmapSigRead p, _ => execRmapSigRead_kept _ s p
  | .shepStatRead p, _ => execShepStatRead_kept _ s p
  | .safeStateNEdge level, _ => execSafeStateNEdge_kept _ s level
  | .safeStateApply, _ => execSafeStateApply_kept s
  | .safeStateCease, _ => execSafeStateCease_kept s
  | .watchNop mosi, _ => execWatchNop_kept s mosi
  | .watchRead mosi, _ => execWatchRead_kept s mosi
  | .watchWrite mosi, _ => execWatchWrite_kept s mosi
  | .wpActivate p, _ => execWpActivate_kept _ s p
  | .wpRmsigRead p, _ => execWpRmsigRead_kept _ s p
  | .wpRegionSignatureRead p region, _ => execWpRegionSignatureRead_kept _ s p region
  | .scanClearUnder p, _ => execScanClearUnder_kept _ s p
  | .modeRetransmit p, _ => execModeRetransmit_kept _ s p
  | .modeStartTimeout p, _ => execModeStartTimeout_kept _ s p
  | .modeAckTimeout p, _ => execModeAckTimeout_kept _ s p
  | .stopHoldEnd p, _ => execStopHoldEnd_kept _ s p
  | .grossMarker p, _ => execGrossMarker_kept _ s p
  | .caps p msg, _ => execCaps_kept _ s p msg
  | .status p msg, _ => execStatus_kept _ s p msg
  | .laneLoss p msg, _ => execLaneLoss_kept _ s p msg
  | .modeAck p msg, _ => execModeAck_kept _ s p msg
  | .train p msg, _ => execTrain_kept _ s p msg
  | .tally p msg, _ => execTally_kept _ s p msg
  | .leaseEvent p msg, _ => execLeaseEvent_kept _ s p msg
  | .backChannelSilent p, _ => execBackChannelSilent_kept _ s p
  | .backChannelLockTimeout p, _ => execBackChannelLockTimeout_kept _ s p
  | .trainingTimeout p, _ => execTrainingTimeout_kept _ s p
  | .trainingRetry p, _ => execTrainingRetry_kept _ s p
  | .retrainAttemptTimeout p lane, _ => execRetrainAttemptTimeout_kept _ s p lane
  | .retrainPauseEnd p lane, _ => execRetrainPauseEnd_kept _ s p lane
  | .laneWakeDone p, _ => execLaneWakeDone_kept _ s p
  | .linkLoopStart p, _ => execLinkLoopStart_kept _ s p
  | .loopbackEnd p errors, _ => execLoopbackEnd_kept _ s p errors
  | .dramRequestArrive ch port bank row col write, _ => execDramRequestArrive_kept _ s ch port bank row col write
  | .dramRequestDone ch res, _ => execDramRequestDone_kept _ s ch res
  | .mr4Poll ch mr4, _ => execMr4Poll_kept _ s ch mr4
  | .perBankRefresh ch bank, _ => execPerBankRefresh_kept _ s ch bank
  | .refreshWindowEnd ch bank, _ => execRefreshWindowEnd_kept _ s ch bank
  | .disturbanceHoldEnd ch bank port, _ => execDisturbanceHoldEnd_kept _ s ch bank port
  | .selfRefreshEntry ch, _ => execSelfRefreshEntry_kept _ s ch
  | .selfRefreshExitDone ch, _ => execSelfRefreshExitDone_kept _ s ch
  | .periodicRetrainSlice ch temp marginLow, _ => execPeriodicRetrainSlice_kept _ s ch temp marginLow
  | .recoveryRetrainDone ch temp found, _ => execRecoveryRetrainDone_kept _ s ch temp found
  | .dramClearStats, _ => execDramClearStats_kept _ s
  | .ptmDialogueStart, _ => execPtmDialogueStart_kept _ s
  | .ptmResponse master turnaround, _ => execPtmResponse_kept _ s master turnaround
  | .ptmTimeout, _ => execPtmTimeout_kept _ s
  | .tideResume, _ => execTideResume_kept _ s
  | .tideNowRead, _ => execTideNowRead_kept _ s
  | .tideOutPulseStart n, _ => execTideOutPulseStart_kept _ s n
  | .tideOutPulseEnd n, _ => execTideOutPulseEnd_kept _ s n
  | .tideCapEdge n rising, _ => execTideCapEdge_kept _ s n rising
  | .dieSensorSample k reading, _ => execDieSensorSample_kept _ s k reading
  | .analogueTrip, _ => execAnalogueTrip_kept _ s
  | .remoteDiodeSample n dv, _ => execRemoteDiodeSample_kept _ s n dv
  | .boardSensorSample dv, _ => execBoardSensorSample_kept _ s dv
  | .ainSample n raw, _ => execAinSample_kept _ s n raw
  | .peerOkToggle, _ => execPeerOkToggle_kept _ s
  | .peerOkInEdge, _ => execPeerOkInEdge_kept _ s
  | .heartbeatLost, _ => execHeartbeatLost_kept _ s
  | .causewayDown, _ => execCausewayDown_kept _ s
  | .pairHelloTimeout, _ => execPairHelloTimeout_kept _ s
  | .powerOnTransmitTest, _ => execPowerOnTransmitTest_kept _ s
  | .idleRecord record, _ => execIdleRecord_kept _ s record
  | .causewayIdleTimer, _ => execCausewayIdleTimer_kept _ s
  | .descRecord record, _ => execDescRecord_kept _ s record
  | .dataRecord record, _ => execDataRecord_kept _ s record
  | .doneRecord record, _ => execDoneRecord_kept _ s record
  | .applyRecord record, _ => execApplyRecord_kept _ s record
  | .regRecord record, _ => execRegRecord_kept _ s record
  | .snapobjRecord record, _ => execSnapobjRecord_kept _ s record
  | .snapRecord record, _ => execSnapRecord_kept _ s record
  | .snapstateRecord record, _ => execSnapstateRecord_kept _ s record
  | .breakRecord record, _ => execBreakRecord_kept _ s record
  | .faultRecord record, _ => execFaultRecord_kept _ s record
  | .resignRecord record, _ => execResignRecord_kept _ s record
  | .ackRecord record, _ => execAckRecord_kept _ s record
  | .ackTimer, _ => execAckTimer_kept _ s
  | .helloRecord record, _ => execHelloRecord_kept _ s record
  | .helloTimer, _ => execHelloTimer_kept _ s
  | .trainRecord record, _ => execTrainRecord_kept _ s record
  | .leaseRenew, _ => execLeaseRenew_kept _ s
  | .leaseClaim p, _ => execLeaseClaim_kept _ s p
  | .claimRefusedTimeout p, _ => execClaimRefusedTimeout_kept _ s p
  | .resignWaitTimeout, _ => execResignWaitTimeout_kept _ s
  | .cwayResign, _ => execCwayResign_kept _ s
  | .cwayRejoin, _ => execCwayRejoin_kept _ s
  | .cwayPromote, _ => execCwayPromote_kept _ s
  | .fltAck seq, _ => execFltAck_kept _ s seq
  | .fltPinRelease, _ => execFltPinRelease_kept _ s
  | .fltFirstRead, _ => execFltFirstRead_kept _ s
  | .pcieLinkUp, _ => execPcieLinkUp_kept _ s
  | .causewayLaneLost receive lane, _ => execCausewayLaneLost_kept _ s receive lane
  | .internalConsistencyFailure unit, _ => execInternalConsistencyFailure_kept _ s unit
  | .watchBadOpcodeFrame mosi, _ => execWatchBadOpcodeFrame_kept s mosi

/-- Settles O7: what every command but a full reset keeps includes what has been sent. -/
theorem sentStaysSent : Obligations.SentStaysSent :=
  fun _ s _ notReset ran => (exec_kept notReset s _ ran).sent

/-- The queue is no part of the canonical form. -/
theorem Canon.with_pending {s : State} (h : Canon s) (q : List Instr) : Canon { s with pending := q } :=
  ⟨h.regs, h.wregs, h.rings, h.ports, h.chans, h.ctxs, h.units, h.shuttles, h.outs, h.tcaps, h.objs, h.gens, h.tills, h.table, h.ledger⟩

/-- Neither the clock nor the Tide is a part of it. -/
theorem Canon.with_clock {s : State} (h : Canon s) (now : Nat) (tide : Tide) : Canon { s with now := now, tide := tide } :=
  ⟨h.regs, h.wregs, h.rings, h.ports, h.chans, h.ctxs, h.units, h.shuttles, h.outs, h.tcaps, h.objs, h.gens, h.tills, h.table, h.ledger⟩

/-- A full reset empties every table (R556). -/
theorem State.fullReset_canon (s : State) : Canon s.fullReset where
  regs := ⟨tabSorted_nil, List.forall_mem_nil _⟩
  wregs := ⟨tabSorted_nil, List.forall_mem_nil _⟩
  rings := tabSorted_nil
  ports := tabSorted_nil
  chans := tabSorted_nil
  ctxs := tabSorted_nil
  units := tabSorted_nil
  shuttles := tabSorted_nil
  outs := tabSorted_nil
  tcaps := tabSorted_nil
  objs := tabSorted_nil
  gens := tabSorted_nil
  tills := tabSorted_nil
  table := tabSorted_nil
  ledger := ⟨List.Pairwise.nil, List.forall_mem_nil _⟩

/-- The two full resets leave the state of a full reset behind. -/
theorem canon_of_fullReset {c : Instr} (resets : fullReset c = true) {s t : State} (ran : exec c s = .next t) : Canon t :=
  match c, resets, ran with
  | .railDrop, _, ran => Host.Outcome.next.inj ran ▸ State.fullReset_canon _
  | .pwrResetNAssert, _, ran => Host.Outcome.next.inj ran ▸ State.fullReset_canon _

/-- Every command keeps the canonical form. -/
theorem exec_canon {c : Instr} {s t : State} (canon : Canon s) (ran : exec c s = .next t) : Canon t := by
  cases resets : fullReset c with
  | true => exact canon_of_fullReset resets ran
  | false => exact (exec_kept resets s t ran).canon canon

/-- A tick of CLK_CORE keeps the canonical form: the lanes, the end of the CLK_FAB cycle and the PCIe side keep it, and the clock and the
Tide are no part of it. -/
theorem State.tick_canon {s : State} (canon : Canon s) : Canon s.tick := by
  unfold State.tick
  extract_lets sent timed ended edged
  have lanes : Kept false s sent :=
    State.wireTick_kept (Kept.forN (fun p _ h => State.laneTick_kept p h) 4 (Kept.refl false s))
  have clocked : Canon timed := (lanes.canon canon).with_clock _ _
  have cycle : Kept false timed ended := Kept.ite (State.endCycle_kept (Kept.refl false timed)) (Kept.refl false timed)
  have moved : Canon edged := by
    unfold edged
    split
    · exact (cycle.canon clocked).with_clock _ _
    · exact cycle.canon clocked
  exact (State.pcieTick_kept (Kept.refl false edged)).canon moved

/-- Settles O4: a step is a tick, or the command at the front of the queue run with the queue's rest. -/
theorem canonicalFormKept : Obligations.CanonicalFormKept := by
  intro s t canon stepped
  unfold step at stepped
  split at stepped
  · exact Host.Outcome.next.inj stepped ▸ State.tick_canon canon
  · exact exec_canon (canon.with_pending _) stepped

end Sys2Proof.Machine

/-! The ring engine: what the comparison with RING_SEQ leaves (O22), polls and fetches (O21). -/

namespace Sys2Proof.Machine

/-- What the table of rings reads after one ring was put. -/
theorem State.ring_of_rings {s t : State} {r : Nat} {x : Ring} (h : t.rings = tabPut s.rings r x) :
    t.ring r = x ∧ ∀ q, q ≠ r → t.ring q = s.ring q := by
  simp only [State.ring, h]
  exact ⟨tabGet_put _ _ _ _, fun q other => tabGet_put_ne _ _ _ other⟩

theorem State.ring_emit (s : State) (e : Egress) (q : Nat) : (s.emit e).ring q = s.ring q := rfl

theorem State.setRing_setRing (s : State) (r : Nat) (x y : Ring) : (s.setRing r x).setRing r y = s.setRing r y := by
  simp [State.setRing, tabPut_tabPut]

theorem State.modRing_setRing (s : State) (r : Nat) (x : Ring) (f : Ring → Ring) : (s.setRing r x).modRing r f = s.setRing r (f x) := by
  rw [State.modRing, State.ring_setRing, State.setRing_setRing]

/-! ### A descriptor that is refused (R94, R96) -/

/-- Where a completion goes rests on the ring's place in host memory and its vector only. -/
theorem State.completionAt_setRing {s : State} {r : Nat} {x : Ring}
    (place : x.cpl = (s.ring r).cpl ∧ x.sizeLog = (s.ring r).sizeLog ∧ x.vector = (s.ring r).vector)
    (d : Desc) (ns : Nat) (signal : Bool) (f : Fail) (r0 r1 : Nat) :
    (s.setRing r x).completionAt d ns signal f r0 r1 = s.completionAt d ns signal f r0 r1 := by
  obtain ⟨cpl, size, vector⟩ := place
  by_cases here : d.ring = r
  · subst here
    simp [State.completionAt, State.slotOf, Ring.entries, State.ringVector, cpl, size, vector]
  · simp [State.completionAt, State.slotOf, Ring.entries, State.ringVector, State.ring_setRing_ne s x here]

/-- A refused descriptor leaves its ring's acceptance, and its record goes out behind everything sent before. -/
theorem State.reject_setRing {s : State} {r : Nat} {d : Desc} (home : d.ring = r) (live : s.flt.fatalHold = false) {x : Ring}
    (place : x.cpl = (s.ring r).cpl ∧ x.sizeLog = (s.ring r).sizeLog ∧ x.vector = (s.ring r).vector) (f : Fail) :
    (s.setRing r x).reject d f =
      { s with rings := tabPut s.rings r { x with cur := none }, egress := s.egress ++ s.completion d false f 0 0 } := by
  have issued : (s.setRing r { x with cur := none }).completionAt d s.tideNs false f 0 0 = s.completion d false f 0 0 :=
    State.completionAt_setRing (x := { x with cur := none }) place d s.tideNs false f 0 0
  unfold State.reject
  rw [home, State.modRing_setRing, State.writeCpl_live (by exact live)]
  exact congrArg (fun sent => { s with rings := tabPut s.rings r { x with cur := none }, egress := s.egress ++ sent }) issued

/-! ### The comparison with RING_SEQ (R94) -/

/-- The ring once the comparison has taken its head: it is consumed. -/
def Ring.pastHead (x : Ring) : Ring := { x with buf := x.buf.drop 1, consumed := (x.consumed + 1) % 2 ^ 32 }

/-- The ring with RING_SEQ counted on. -/
def Ring.nextUp (x : Ring) : Ring := { x.pastHead with nextSeq := (x.nextSeq + 1) % 2 ^ 32 }

section Compare

variable {r : Nat} {d : Desc} {s : State}

/-- The expected descriptor counts RING_SEQ on, and is taken up when it passes the checks. -/
theorem State.compare_taken (due : ((s.ring r).nextSeq + 2 ^ 32 - d.seq) % 2 ^ 32 = 0) (sound : s.staticFail d = none) :
    s.compare r d = s.setRing r { (s.ring r).nextUp with cur := some d } := by
  have again : (s.setRing r (s.ring r).nextUp).staticFail d = none := sound
  simp only [Ring.nextUp, Ring.pastHead] at again
  simp only [State.compare, due, if_pos, State.modRing, State.ring_setRing, State.setRing_setRing, again, Ring.nextUp, Ring.pastHead]

variable (home : d.ring = r) (live : s.flt.fatalHold = false)
include home live

/-- One that fails them completes at once. -/
theorem State.compare_fails (due : ((s.ring r).nextSeq + 2 ^ 32 - d.seq) % 2 ^ 32 = 0) {f : Fail} (bad : s.staticFail d = some f) :
    s.compare r d = { s with
      rings := tabPut s.rings r { (s.ring r).nextUp with cur := none }, egress := s.egress ++ s.completion d false f 0 0 } := by
  have again : (s.setRing r (s.ring r).nextUp).staticFail d = some f := bad
  have refused := State.reject_setRing (x := (s.ring r).nextUp) home live ⟨rfl, rfl, rfl⟩ f
  simp only [Ring.nextUp, Ring.pastHead] at again refused
  simp only [State.compare, due, if_pos, State.modRing, State.ring_setRing, State.setRing_setRing, again, refused, Ring.nextUp,
    Ring.pastHead]

/-- A descriptor already taken is passed over. -/
theorem State.compare_passed {diff : Nat} (back : ((s.ring r).nextSeq + 2 ^ 32 - d.seq) % 2 ^ 32 = diff) (low : diff ≠ 0)
    (high : diff ≤ 2 ^ 31) : s.compare r d = { s with
      rings := tabPut s.rings r { (s.ring r).pastHead with cur := none }
      egress := s.egress ++ s.completion d false (stOk, 2 ^ 19) 0 0 } := by
  have refused := State.reject_setRing (x := (s.ring r).pastHead) home live ⟨rfl, rfl, rfl⟩ (stOk, 2 ^ 19)
  simp only [State.compare, back, low, high, if_false, if_true]
  exact refused

/-- A gap stops the ring. -/
theorem State.compare_gap {diff : Nat} (back : ((s.ring r).nextSeq + 2 ^ 32 - d.seq) % 2 ^ 32 = diff) (gap : 2 ^ 31 < diff) :
    s.compare r d = { s with
      rings := tabPut s.rings r { (s.ring r).pastHead with cur := none, state := .stopped, buf := [] }
      egress := s.egress ++ s.completion d false (badDesc 5 1) 0 0 } := by
  have refused := State.reject_setRing (x := (s.ring r).pastHead) home live ⟨rfl, rfl, rfl⟩ (badDesc 5 1)
  have low : diff ≠ 0 := by omega
  have high : ¬diff ≤ 2 ^ 31 := by omega
  simp only [State.compare, back, low, high, if_false]
  refine (congrArg (fun t => State.stopRing t r) refused).trans ?_
  simp [State.stopRing, State.modRing, State.setRing, tabPut_tabPut, State.ring]

end Compare

/-- Settles O22: the expected number, a number already taken, and a gap. -/
theorem sequenceCompared : Obligations.SequenceCompared := by
  intro r d s home _ next live x t
  refine ⟨fun same => ?_, fun low high => ?_, fun gap => ?_⟩
  · have due : (x.nextSeq + 2 ^ 32 - d.seq) % 2 ^ 32 = 0 := by omega
    cases checks : s.staticFail d with
    | none =>
      have taken : t = _ := State.compare_taken due checks
      rw [taken, State.ring_setRing]
      exact ⟨rfl, rfl, fun _ => ⟨rfl, rfl⟩, nofun⟩
    | some f =>
      have refused : t = _ := State.compare_fails home live due checks
      rw [refused, (State.ring_of_rings rfl).1]
      exact ⟨rfl, rfl, nofun, fun _ same => Option.some.inj same ▸ ⟨rfl, rfl⟩⟩
  · have passed : t = _ := State.compare_passed home live rfl (Nat.ne_of_gt low) high
    rw [passed, (State.ring_of_rings rfl).1]
    exact ⟨rfl, rfl, rfl, rfl, rfl⟩
  · have stopped : t = _ := State.compare_gap home live rfl gap
    rw [stopped, (State.ring_of_rings rfl).1]
    exact ⟨rfl, rfl, rfl, ⟨1, rfl⟩, rfl⟩

/-! ### Poll rounds (R87, R88) -/

theorem forN_succ {σ : Type} (n : Nat) (f : Nat → σ → σ) (s : σ) : forN (n + 1) f s = f n (forN n f s) := by
  simp [forN, List.range_succ]

/-- The ring as its doorbell record is being read. -/
def Ring.polled (x : Ring) : Ring := { x with polling := true, pollDrop := false }

/-- The read that asks for a ring's doorbell record (R85). -/
def State.doorbellRead (s : State) (r : Nat) : Egress := .readRequest (r / 8) (s.ring r).db 4 (.doorbell r)

/-- One ring's part in a round: its doorbell record is asked for when it runs. -/
def State.askRing (r : Nat) (s : State) : State := if (s.ring r).state = .running then (s.modRing r Ring.polled).askTail r else s

@[simp] theorem State.ring_askTail (s : State) (r q : Nat) : (s.askTail r).ring q = s.ring q := rfl

theorem State.startRound_idle {s : State} (idle : ∀ r, r < 128 → (s.ring r).polling = false) :
    s.startRound = forN 128 State.askRing s := by
  have none_polling : ¬((List.range 128).any fun r => (s.ring r).polling) = true := by simpa using idle
  exact if_neg none_polling

/-- State `t` is `s` once the first `n` rings have been through the round. -/
structure State.Asked (s : State) (n : Nat) (t : State) : Prop where
  rings : ∀ r, t.ring r = if r < n ∧ (s.ring r).state = .running then (s.ring r).polled else s.ring r
  sent : t.egress = s.egress ++ ((List.range n).filter fun r => decide ((s.ring r).state = .running)).map s.doorbellRead
  rest : { t with rings := s.rings, egress := s.egress } = s

theorem State.Asked.next {s t : State} {n : Nat} (h : s.Asked n t) : s.Asked (n + 1) (t.askRing n) := by
  have here : t.ring n = s.ring n := by simp [h.rings]
  have below : ∀ {r}, r ≠ n → (r < n + 1 ↔ r < n) := fun other => by omega
  unfold State.askRing
  rw [here]
  split
  · next runs =>
    refine ⟨fun r => ?_, ?_, h.rest⟩
    · by_cases same : r = n
      · subst same
        simp [runs, here]
      · simp [State.ring_modRing_ne, same, below same, h.rings]
    · simp [State.askTail, State.emit, Ring.polled, List.range_succ, runs, here, h.sent, State.doorbellRead, ringFn]
  · next stands =>
    refine ⟨fun r => ?_, ?_, h.rest⟩
    · by_cases same : r = n
      · subst same
        simp [here, stands]
      · simp [below same, h.rings]
    · simp [List.range_succ, stands, h.sent]

theorem State.forN_asked (s : State) (n : Nat) : s.Asked n (forN n State.askRing s) := by
  induction n with
  | zero => exact ⟨fun r => by simp [forN], by simp [forN], rfl⟩
  | succ n ih =>
    rw [forN_succ]
    exact ih.next

/-- A ring's tail is what its poll returned, while that publishes no more than the ring holds (R88). -/
theorem State.pollTail_fits {s : State} {r t : Nat} {x : Ring} (fits : ¬x.entries < (t + 2 ^ 32 - x.consumed % 2 ^ 32) % 2 ^ 32) :
    (s.setRing r x).pollTail r t = s.setRing r { x with tail := t } := by
  simp only [State.pollTail, State.modRing_setRing, State.ring_setRing]
  exact if_neg fits

/-- More stops the ring, with a record and the ring's message (R88). -/
theorem State.pollTail_over {s : State} {r t : Nat} {x : Ring} (more : x.entries < (t + 2 ^ 32 - x.consumed % 2 ^ 32) % 2 ^ 32) :
    (s.setRing r x).pollTail r t = ((s.setRing r { x with tail := t, state := .stopped, buf := [] }).raise
      (ringErr 0x01 r t x.consumed)).emit (.msix (ringFn r) ((s.setRing r x).ringVector r)) := by
  simp only [State.pollTail, State.stopRing, State.modRing_setRing, State.ringVector, State.ring_setRing]
  exact if_pos more

/-- The ring once its poll read has returned. -/
def Ring.pollBack (x : Ring) : Ring := { x with polling := false, pollDrop := false }

/-- A poll read that a running ring still waits for gives it its tail. -/
theorem exec_pollReadReturn {r : Fin 128} {s : State} (polls : (s.ring r).polling = true) (kept : (s.ring r).pollDrop = false)
    (runs : (s.ring r).state = .running) (v : Word) : exec (.pollReadReturn r (.tail v)) s =
      .next ((s.setRing r (s.ring r).pollBack).pollTail r v.toNat) := by
  change execPollReadReturn r (.tail v) s = _
  simp [execPollReadReturn, polls, kept, runs, State.modRing, Ring.pollBack]

/-! ### Fetches (R91) -/

theorem State.fetchRun_le (s : State) (r c n : Nat) : s.fetchRun r c n ≤ n := by
  induction n with
  | zero => exact Nat.le_refl 0
  | succ n ih =>
    unfold State.fetchRun
    extract_lets k x q
    split <;> omega

/-- One read fetches at most eight slots. -/
theorem State.fetchable_le (s : State) (r : Nat) : s.fetchable r ≤ 8 := by
  unfold State.fetchable
  extract_lets x
  split
  · exact s.fetchRun_le _ _ _
  · omega

theorem exec_fetchReturn {r : Fin 128} {s : State} {c n : Nat} (fetches : (s.ring r).fetching = some (c, n))
    (runs : (s.ring r).state = .running) {data : HostRead} (good : data.fail = none) :
    exec (.fetchReturn r data) s = .next (s.setRing r { s.ring r with fetching := none, buf := fetched r c n data.bytes }).run := by
  change execFetchReturn r data s = _
  simp [execFetchReturn, fetches, State.modRing, State.setRing_setRing, runs, good]

theorem exec_fetchReturn_failed {r : Fin 128} {s : State} {c n : Nat} (fetches : (s.ring r).fetching = some (c, n))
    (runs : (s.ring r).state = .running) {data : HostRead} {f : ReadFail} (bad : data.fail = some f) :
    exec (.fetchReturn r data) s = .next ((s.setRing r { s.ring r with fetching := none, state := .stopped, buf := [] }).raise
      (ringErr 0x04 r f.code (s.ring r).consumed)) := by
  change execFetchReturn r data s = _
  simp [execFetchReturn, fetches, State.modRing, State.setRing_setRing, runs, bad, State.stopRing]

/-- Settles O21: poll rounds, what their reads return, and fetches. -/
theorem ringsFed : Obligations.RingsFed := by
  refine ⟨fun s _ => ⟨fun on ready isDue idle => ?_, ?_⟩,
    fun r s => ⟨fun u n ran count some_ => ?_, fun c n data fetches runs => ⟨fun good => ?_, fun f bad => ?_⟩⟩⟩
  · have asked := s.forN_asked 128
    have polls : s.polls = true := by simp [State.polls, State.running_eq_true on, ready]
    have ran : exec .pollRound s = .next { forN 128 State.askRing s with pollAt := some s.now } := by
      change execPollRound s = _
      simp [execPollRound, polls, isDue, State.startRound_idle idle]
    generalize forN 128 State.askRing s = u at asked ran
    refine ⟨_, ran, rfl, fun r small => ?_, asked.sent, congrArg (fun t : State => { t with pollAt := s.pollAt }) asked.rest⟩
    exact (asked.rings r).trans (by simp only [small, true_and, Ring.polled])
  · intro r v polls kept runs x w
    have returned := exec_pollReadReturn polls kept runs v
    refine ⟨fun fits => ?_, fun more => ?_⟩
    · have passes : (s.setRing r x.pollBack).pollTail r v.toNat = _ := State.pollTail_fits (Nat.not_lt.2 fits)
      exact ⟨_, returned.trans (congrArg _ passes), State.ring_setRing _ _ _, fun _ => State.ring_setRing_ne _ _, rfl⟩
    · have stops : (s.setRing r x.pollBack).pollTail r v.toNat = _ := State.pollTail_over more
      have vector : (s.setRing r x.pollBack).ringVector r = s.ringVector r := by simp [State.ringVector, x, Ring.pollBack]
      rw [vector] at stops
      exact ⟨_, returned.trans (congrArg _ stops), State.ring_setRing _ _ _, fun _ => State.ring_setRing_ne _ _, rfl⟩
  · subst ran count
    obtain ⟨_, _, _, moved⟩ := s.run_engineMoved
    refine ⟨_, if_pos some_, s.run.fetchable_le r, (State.ring_emit _ _ _).trans (State.ring_modRing _ _ _),
      fun _ other => (State.ring_emit _ _ _).trans (State.ring_modRing_ne _ _ other), rfl, ?_⟩
    rw [moved]
    rfl
  · exact exec_fetchReturn fetches runs good
  · exact exec_fetchReturn_failed fetches runs bad

end Sys2Proof.Machine

/-! Disabling a ring (O20), refuted: a commit that is aborted takes the tables bound to it along, and the canonical form does not say that
a bound table is of the commit's own ring, so a descriptor of another ring leaves the ledger with it (R295). -/

namespace Sys2Proof.Machine

/-- A SCENE_COMMIT of port 0 in ring 0. -/
def commitDesc : Desc := { ring := 0, count := 0, words := opSceneCommit * 2 ^ 24 :: List.replicate 15 0 }

/-- A SIGNATURE_EXPECT of port 0 in ring 1. -/
def tableDesc : Desc := { ring := 1, count := 0, words := opSignatureExpect * 2 ^ 24 :: List.replicate 15 0 }

/-- The two descriptors wait: the commit as entry 0, and the table of entry 1, which is bound to it. -/
def boundAcross : State :=
  { State.reset with
    power := { Power.reset with boot := .configured }
    rings := [(0, { Ring.reset with state := .running }), (1, { Ring.reset with state := .running })]
    ledger := [State.reset.newEntry commitDesc (.commit []) [], { State.reset.newEntry tableDesc .plain [] with id := 1 }]
    nextId := 2
    ports := [(0, { Port.reset with
      commits := [{ id := 0, fn := 0, ring := 0, target := none, entries := [], protGen := none, tone := 0, pin := .notNamed
                    readyAt := none, fail := none }]
      sigTables := [{ id := 1, ring := 1, at_ := 0, bind := true, frame := 0, entries := [], boundTo := some 0, taken := false
                      superseded := false }] })] }

theorem boundAcross_canon : Canon boundAcross where
  regs := ⟨tabSorted_nil, List.forall_mem_nil _⟩
  wregs := ⟨tabSorted_nil, List.forall_mem_nil _⟩
  rings := by simp [tabSorted, boundAcross]
  ports := List.pairwise_singleton _ _
  chans := tabSorted_nil
  ctxs := tabSorted_nil
  units := tabSorted_nil
  shuttles := tabSorted_nil
  outs := tabSorted_nil
  tcaps := tabSorted_nil
  objs := tabSorted_nil
  gens := tabSorted_nil
  tills := tabSorted_nil
  table := tabSorted_nil
  ledger := by simp [ledgerOrdered, boundAcross, State.newEntry, State.reset]

/-- Disabling ring 0 takes the descriptor of ring 1 out of the ledger. -/
theorem boundAcross_leaves {t : State} (ran : exec (.ringDisable 0) boundAcross = .next t) : t.ledger = [] := by
  obtain rfl := Host.Outcome.next.inj ran
  decide +kernel

/-- Refutes O20: the ledger keeps no entry, where only those of the disabled ring may leave it. -/
theorem not_ringsEnabledAndDisabled : ¬ Obligations.RingsEnabledAndDisabled := by
  rintro ⟨-, disables⟩
  obtain ⟨drains, -⟩ := disables 0 boundAcross boundAcross_canon nofun
  obtain ⟨t, ran, left, -⟩ := drains rfl (.inl rfl)
  rw [boundAcross_leaves ran] at left
  exact absurd left (by decide +kernel)

end Sys2Proof.Machine

/-! OBJ_WRITE at its end (O27), refuted: the bytes between the end of a packed line's pixels and the next line read as zero, whatever was
written there (R599), so what host memory returned for them does not stand. -/

namespace Sys2Proof.Machine

/-- An OBJ_WRITE of the four bytes of object 257 from its start. -/
def paddedWrite : Desc :=
  { ring := 0, count := 0, words := [opObjWrite * 2 ^ 24, 0, 257, 0, 0, 0, 4] ++ List.replicate 9 0 }

/-- A source image of one pixel of two bytes, whose line takes four. -/
def onePixel : Obj :=
  { handle := 257, cls := 1, hint := 0, format := 1, width := 1, height := 1, size := 0, fill := .zeros
    versions := [{ num := 0, valid := true, bytes := [], tiles := [0], unwritten := [], opacity := [] }]
    given := 1, invalid := false, lost := none, freeing := none, released := false }

/-- The OBJ_WRITE as it stands in the ledger once it has started. -/
def paddedEntry : Entry := { State.reset.newEntry paddedWrite (.write 257 0) [] with started := true, readyAt := some 0 }

/-- The image is being written. -/
def writesPadding : State :=
  { State.reset with ledger := [paddedEntry], nextId := 1, objs := [(1, onePixel)] }

theorem writesPadding_canon : Canon writesPadding where
  regs := ⟨tabSorted_nil, List.forall_mem_nil _⟩
  wregs := ⟨tabSorted_nil, List.forall_mem_nil _⟩
  rings := tabSorted_nil
  ports := tabSorted_nil
  chans := tabSorted_nil
  ctxs := tabSorted_nil
  units := tabSorted_nil
  shuttles := tabSorted_nil
  outs := tabSorted_nil
  tcaps := tabSorted_nil
  objs := List.pairwise_singleton _ _
  gens := tabSorted_nil
  tills := tabSorted_nil
  table := tabSorted_nil
  ledger := by simp [ledgerOrdered, writesPadding, paddedEntry, State.newEntry, State.reset]

theorem writesPadding_completing : Completing writesPadding 0 paddedEntry := ⟨rfl, rfl, rfl, rfl⟩

/-- Host memory returns four bytes of ones. -/
def fourOnes : HostRead := { bytes := [1, 1, 1, 1], fail := none }

/-- The third byte, which is padding, reads as zero. -/
theorem writesPadding_reads {t : State} (ran : exec (.objWriteDone 0 fourOnes) writesPadding = .next t) :
    (t.objOf 257).map (fun o => o.byte 2) = some 0 := by
  obtain rfl := Host.Outcome.next.inj ran
  decide +kernel

/-- Refutes O27: of the four bytes written, the two behind the image's one pixel do not stand. -/
theorem not_objectWrites : ¬ Obligations.ObjectWrites := by
  rintro ⟨-, ends⟩
  obtain ⟨-, written⟩ := ends 0 paddedEntry fourOnes onePixel _ writesPadding writesPadding_canon writesPadding_completing
    (by decide +kernel)
    rfl (by decide +kernel) (by decide) rfl rfl rfl tabSorted_nil
  obtain ⟨t, o, ran, -, here, -, stands, -⟩ := written rfl
  have third : o.byte 2 = 1 := stands ⟨by decide +kernel, rfl⟩ 2 (by decide +kernel) (by decide +kernel)
  have reads := writesPadding_reads ran
  rw [show t.objOf 257 = some o from here, Option.map_some, third] at reads
  exact absurd reads (by decide)

end Sys2Proof.Machine

/-! Descriptors that wait, start and complete (O23, O24), in the terms of the ring, the ledger slot and the completion. -/

namespace Sys2Proof.Machine

/-! ### Acceptance, spelled out (R96, R105 to R108) -/

/-- A descriptor that something in the ledger holds back stays as it has been accepted. -/
theorem State.startIf_waits {s : State} {id : Nat} {e : Entry} (here : s.entry id = some e) (held : s.noWait e = false)
    (f : Entry → State → State) : s.startIf id f = s := by
  simp [State.startIf, here, held]

/-- The entry of a slot just given. -/
theorem State.entry_entered {s t : State} {d : Desc} {e : Entry} {objs : Tab Obj} (ordered : ledgerOrdered s.ledger s.nextId)
    (named : e.id = s.nextId) (h : (s.entered d e objs).Logged t) : t.entry s.nextId = some e := by
  obtain ⟨_, _, rfl⟩ := h
  exact find?_newSlot ordered named

/-- What stands before a slot just given is the ledger as it was. -/
theorem State.before_entered {s t : State} {d : Desc} {e : Entry} {objs : Tab Obj} (ordered : ledgerOrdered s.ledger s.nextId)
    (named : e.id = s.nextId) (h : (s.entered d e objs).Logged t) : t.before e = s.ledger := by
  obtain ⟨_, _, rfl⟩ := h
  exact filter_before_newSlot ordered named

/-- A descriptor without a surface to write is accepted into one slot. -/
theorem State.admitNew_plain (s : State) (d : Desc) : (s.entered d (s.newEntry d .plain []) s.objs).Logged (s.admitNew d .plain []) := by
  obtain ⟨vs, objs, plain, entered⟩ := s.admitNew_logged d .plain []
  obtain ⟨rfl, rfl⟩ := plain rfl
  exact entered

section Admit

variable {s : State} {d : Desc} (ordered : ledgerOrdered s.ledger s.nextId)
include ordered

theorem State.admitStart_held (held : ∃ x ∈ s.ledger, (s.newEntry d .plain []).waitsFor x = true) (f : Entry → State → State) :
    s.admitStart d .plain [] id f = s.admitNew d .plain [] := by
  have entered := s.admitNew_plain d
  obtain ⟨x, mem, waits⟩ := held
  refine State.startIf_waits (State.entry_entered ordered rfl entered) (List.all_eq_false.2 ⟨x, ?_, ?_⟩) f
  · exact (State.before_entered ordered rfl entered).symm ▸ mem
  · simp [waits]

theorem State.admitStart_free (atOnce : s.goesAtOnce d) (f : Entry → State → State) :
    s.admitStart d .plain [] id f = f (s.newEntry d .plain []) (s.admitNew d .plain []) :=
  State.startIf_entered ordered plain_namesNone atOnce (s.admitNew_plain d) f

end Admit

/-- What an acceptance may change beside the slot itself: the rings, whose turn it is, what is sent, and the log. -/
def State.AcceptedBut (s t : State) : Prop :=
  { t with rings := s.rings, egress := s.egress, regs := s.regs, cway := s.cway, ledger := s.ledger, nextId := s.nextId
           ledgerPeak := s.ledgerPeak, turnAt := s.turnAt } = s

/-- The engine goes on behind an acceptance: the slot is given, and nothing else has changed. -/
theorem State.run_entered {s t : State} {d : Desc} {e : Entry} (h : (s.entered d e s.objs).Logged t) :
    t.run.ledger = s.ledger ++ [e] ∧ t.run.nextId = s.nextId + 1 ∧ t.run.ledgerPeak = max s.ledgerPeak (s.ledger.length + 1) ∧
      s.AcceptedBut t.run := by
  obtain ⟨_, _, _, moved⟩ := t.run_engineMoved
  obtain ⟨_, _, rfl⟩ := h
  rw [moved]
  exact ⟨rfl, rfl, rfl, rfl⟩

/-! ### The start of a descriptor that had to wait -/

/-- No opcode with a start of its own here is PLATE_LOAD. -/
theorem ne_plateLoad_of_startOf {op : Nat} {f : Entry → State → State} (h : startOf op = some f) : op ≠ opPlateLoad := by
  rintro rfl
  exact Option.some_ne_none f h.symm

theorem exec_descriptorStart {s : State} {id : Nat} {e : Entry} {f : Entry → State → State} (h : Completing s id e)
    (fresh : e.readyAt = none) (starts : startOf e.desc.opcode = some f) :
    exec (.descriptorStart id) s = .next (s.startIf id f) := by
  change execDescriptorStart id s = _
  simp [execDescriptorStart, State.startDescriptor, h.here, h.own, fresh, starts]

/-- A descriptor that fails as it starts completes with the failure. -/
theorem State.startIf_fails {s : State} {id : Nat} {e : Entry} (here : s.entry id = some e) (waiting : e.started = false)
    (free : s.noWait e = true) (op : e.desc.opcode ≠ opPlateLoad) {x : Fail} (bad : s.startFail e = some x) (f : Entry → State → State) :
    s.startIf id f = s.finish id x 0 0 := by
  simp [State.startIf, here, waiting, free, bad, op]

/-- Settles O23: what waits joins the ledger; what no longer waits starts, or completes with what stands against its start. -/
theorem descriptorsWaitAndStart : Obligations.DescriptorsWaitAndStart := by
  refine ⟨fun r d s canon => ?_, fun id e f s own waiting fresh free starts => ⟨fun sound => ?_, fun x bad => ?_⟩⟩
  · intro waits held
    have joins : ∀ {c : Instr}, exec c s = .next (s.admitNew d .plain []).run → waits c := fun ran =>
      ⟨_, ran, State.run_entered (s.admitNew_plain d)⟩
    have stays : ∀ {c : Instr} {op : Nat} {f : Entry → State → State}, held → Taken s r op d →
        exec c s = .next (s.withCur r op fun d s => s.admitStart d .plain [] id f) → waits c := fun holds taken ran =>
      joins (by rw [ran, State.withCur_taken taken, State.admitStart_held canon.ledger holds])
    exact ⟨fun taken => joins (congrArg _ (State.withCur_taken taken _)), fun taken => joins (congrArg _ (State.withCur_taken taken _)),
      fun holds taken => stays holds taken rfl, fun holds taken => stays holds taken rfl, fun holds taken => stays holds taken rfl,
      fun holds taken => stays holds taken rfl, fun holds taken => stays holds taken rfl⟩
  · rw [exec_descriptorStart own fresh starts, State.startIf_starts own.here waiting free sound]
  · obtain ⟨left, sent⟩ := State.finish_completed own x 0 0
    rw [State.id_of_entry own.here] at left
    exact ⟨_, (exec_descriptorStart own fresh starts).trans (congrArg _
      (State.startIf_fails own.here waiting free (ne_plateLoad_of_startOf starts) bad f)), left, sent⟩

/-! ### What a completion leaves of ports and objects -/

/-- The commits of every port, each changed in its place. -/
def mapCommits (g : Commit → Commit) (ports : Tab Port) : Tab Port := tabMap (fun _ p => { p with commits := p.commits.map g }) ports

theorem tabMap_tabMap {α : Type} (f g : Nat → α → α) (t : Tab α) : tabMap g (tabMap f t) = tabMap (fun k x => g k (f k x)) t := by
  simp [tabMap_eq, Function.comp_def]

theorem mapCommits_mapCommits (f g : Commit → Commit) (t : Tab Port) : mapCommits g (mapCommits f t) = mapCommits (g ∘ f) t := by
  simp [mapCommits, tabMap_tabMap]

theorem mapCommits_id (t : Tab Port) : mapCommits id t = t := by
  simp [mapCommits, tabMap_eq]

/-- A port whose table is changed so has its commits changed and nothing else. -/
theorem State.port_of_mapCommits {s t : State} {g : Commit → Commit} (h : t.ports = mapCommits g s.ports) (p : Nat) :
    t.port p = { s.port p with commits := (s.port p).commits.map g } := by
  simp only [State.port, h, mapCommits, tabGet, tabFind_map]
  cases tabFind s.ports p <;> rfl

theorem State.drained_ports (s : State) (r : Nat) : (s.drained r).ports = s.ports := by
  unfold State.drained
  split <;> rfl

theorem State.drained_objs (s : State) (r : Nat) : (s.drained r).objs = s.objs := by
  unfold State.drained
  split <;> rfl

theorem State.spoilVersions_ports (s : State) (e : Entry) (status : Nat) : (s.spoilVersions e status).ports = s.ports := by
  unfold State.spoilVersions
  split
  · obtain ⟨_, frame⟩ := s.foldl_modObj_eq e.versions fun v o =>
      if (o.version v.2).isSome then o else o.addVersion (o.newVersion v.2 false o.content [] [])
    rw [frame]
  · rfl

theorem State.writeCpl_objsPorts (s : State) (d : Desc) (signal : Bool) (status detail ns r0 r1 : Nat) :
    (s.writeCpl d signal status detail ns r0 r1).objs = s.objs ∧ (s.writeCpl d signal status detail ns r0 r1).ports = s.ports := by
  obtain ⟨_, _, _, moved⟩ := s.writeCpl_engineMoved d signal status detail ns r0 r1
  rw [moved]
  exact ⟨rfl, rfl⟩

/-- What is told of a completion, to the host or to the log, touches no object and no port. -/
theorem State.Logged.objsPorts {s t : State} (h : s.Logged t) : t.objs = s.objs ∧ t.ports = s.ports := by
  obtain ⟨_, _, rfl⟩ := h
  exact ⟨rfl, rfl⟩

/-- The objects that a sweep leaves, each with the versions it keeps (R101, R133). -/
def keptObjs (used : List (Nat × Nat)) (named : List Nat) (t : Tab Obj) : Tab Obj :=
  (tabMap (fun _ o => o.prune used named) t).filter fun e =>
    !(e.2.released && (e.2.versions.isEmpty || (decide (e.2.cls ≠ 0) && !named.contains e.2.handle)))

theorem State.sweep_objs (s : State) : s.sweep.objs = keptObjs s.usedVersions s.namedHandles s.objs := rfl

/-- A completion looks at the commits of the ports again and changes nothing else of them. -/
theorem State.finishAt_ports (s : State) (id ns : Nat) (signal : Bool) (f : Fail) (r0 r1 : Nat) :
    ∃ g : Commit → Commit, (s.finishAt id ns signal f r0 r1).ports = mapCommits g s.ports := by
  unfold State.finishAt
  split
  · exact ⟨_, (mapCommits_id _).symm⟩
  · next e _ =>
    extract_lets told dropped marked
    have saw : told.ports = s.ports := by
      unfold told
      split
      · rfl
      · split
        · rfl
        · exact (State.logRecord_logged _ _ _ _ _ _).objsPorts.2.trans (s.writeCpl_objsPorts _ _ _ _ _ _ _).2
    have left : dropped.ports = s.ports := (told.spoilVersions_ports e f.1).trans saw
    have looked : (marked.refreshCommits.drained e.desc.ring).sweep.ports = mapCommits marked.refreshCommit marked.ports :=
      State.drained_ports _ _
    exact ⟨_, looked.trans (by rw [show marked.ports = mapCommits _ dropped.ports from rfl, mapCommits_mapCommits, left])⟩

/-- A completion that consumes no version number sweeps the objects and changes nothing else of them (R131, R133). -/
theorem State.finishAt_objs {s : State} {id : Nat} {e : Entry} (here : s.entry id = some e) {f : Fail} (quiet : spoils f.1 = false)
    (ns : Nat) (signal : Bool) (r0 r1 : Nat) :
    ∃ used named, (s.finishAt id ns signal f r0 r1).objs = keptObjs used named s.objs := by
  unfold State.finishAt
  split
  · next gone => exact absurd (here.symm.trans gone) (Option.some_ne_none e)
  · next x found =>
    extract_lets told dropped marked
    have saw : told.objs = s.objs := by
      unfold told
      split
      · rfl
      · split
        · rfl
        · exact (State.logRecord_logged _ _ _ _ _ _).objsPorts.1.trans (s.writeCpl_objsPorts _ _ _ _ _ _ _).1
    have left : dropped.objs = s.objs := by
      have kept : told.spoilVersions x f.1 = told := by simp [State.spoilVersions, quiet]
      exact (congrArg State.objs kept).trans saw
    have looked : (marked.refreshCommits.drained x.desc.ring).objs = s.objs := (State.drained_objs _ _).trans left
    exact ⟨_, _, (State.sweep_objs _).trans (by rw [looked])⟩

/-! ### NOP, FENCE and WAIT_TIME -/

/-- What a descriptor that completes as it starts may change. -/
def State.PassedBut (s t : State) : Prop :=
  { t with rings := s.rings, egress := s.egress, regs := s.regs, cway := s.cway, ledger := s.ledger, nextId := s.nextId
           ledgerPeak := s.ledgerPeak, objs := s.objs, harb := s.harb, ports := s.ports, turnAt := s.turnAt } = s

/-- A descriptor that completes as it starts, once the engine has gone on: its slot is given back, its record is out, and beside that only
what the completion looks at again has changed. -/
theorem State.Holds.finish_run {s t : State} {e : Entry} (h : s.Holds t e) (ordered : ledgerOrdered s.ledger s.nextId)
    (named : e.id = s.nextId) (own : e.mirrored = false) (loud : e.muted = false) (live : s.flt.fatalHold = false)
    (time : t.tideNs = s.tideNs) (f : Fail) (r0 r1 : Nat) :
    ∃ regs cway objs ports rings harb turn sent, (t.finish s.nextId f r0 r1).run = { t with
      regs := regs, cway := cway, objs := objs, ports := ports, rings := rings, harb := harb, turnAt := turn
      ledger := s.ledger, egress := s.egress ++ s.completion e.desc false f r0 r1 ++ sent } := by
  obtain ⟨_, _, _, _, _, _, left⟩ := h.finishAt ordered named own loud live s.tideNs false f r0 r1
  obtain ⟨_, _, _, moved⟩ := (t.finish s.nextId f r0 r1).run_engineMoved
  rw [named, ← time] at left
  rw [moved, State.finish, left, time]
  exact ⟨_, _, _, _, _, _, _, _, rfl⟩

/-- The ports after such a completion. -/
theorem State.finish_run_ports (t : State) (id : Nat) (f : Fail) (r0 r1 : Nat) :
    ∃ g : Commit → Commit, (t.finish id f r0 r1).run.ports = mapCommits g t.ports := by
  obtain ⟨g, looked⟩ := t.finishAt_ports id t.tideNs false f r0 r1
  obtain ⟨_, _, _, moved⟩ := (t.finish id f r0 r1).run_engineMoved
  exact ⟨g, (congrArg State.ports moved).trans looked⟩

/-- The Tide time does not rest on what an acceptance changes. -/
theorem State.tideNs_entered {s t : State} {d : Desc} {e : Entry} {objs : Tab Obj} (h : (s.entered d e objs).Logged t) :
    t.tideNs = s.tideNs := by
  obtain ⟨_, _, rfl⟩ := h
  rfl

/-- A descriptor completes OK in the state that its acceptance leaves: ports and everything else are as before. -/
theorem State.finish_run_entered {s t : State} {d : Desc} (ordered : ledgerOrdered s.ledger s.nextId) (live : s.flt.fatalHold = false)
    (h : (s.entered d (s.newEntry d .plain []) s.objs).Logged t) :
    let u := (t.finish s.nextId (stOk, 0) 0 0).run
    u.ledger = s.ledger ∧ u.nextId = s.nextId + 1 ∧ s.egress ++ s.completion d false (stOk, 0) 0 0 <+: u.egress ∧
      (∀ p, { u.port p with commits := (s.port p).commits } = s.port p) ∧ s.PassedBut u := by
  have held := State.holds_of_entered (e := s.newEntry d .plain []) rfl h
  obtain ⟨_, _, _, _, _, _, _, _, ends⟩ := held.finish_run ordered rfl rfl rfl live (State.tideNs_entered h) (stOk, 0) 0 0
  obtain ⟨_, looked⟩ := t.finish_run_ports s.nextId (stOk, 0) 0 0
  have same : ∀ p, { (t.finish s.nextId (stOk, 0) 0 0).run.port p with commits := (s.port p).commits } = s.port p := fun p => by
    rw [State.port_of_mapCommits (s := s) (looked.trans (congrArg _ h.objsPorts.2))]
  intro u
  have left : u.ledger = s.ledger ∧ u.nextId = s.nextId + 1 ∧ s.egress ++ s.completion d false (stOk, 0) 0 0 <+: u.egress ∧
      s.PassedBut u := by
    unfold u
    rw [ends]
    obtain ⟨_, _, rfl⟩ := h
    exact ⟨rfl, rfl, List.prefix_append _ _, rfl⟩
  exact ⟨left.1, left.2.1, left.2.2.1, same, left.2.2.2⟩

theorem startWait_passed {s : State} {e : Entry} (past : e.desc.until ≤ s.tideNs) : startWait e s = startPlain e s := if_pos past

theorem startWait_ahead {s : State} {e : Entry} (ahead : s.tideNs < e.desc.until) :
    startWait e s = s.modEntry e.id fun x => { x with readyAt := some s.now } := if_neg (Nat.not_le.2 ahead)

/-- A target still ahead: the entry keeps its slot and goes on waiting from now (R108). -/
theorem State.run_entered_ready {s t : State} {d : Desc} (ordered : ledgerOrdered s.ledger s.nextId)
    (h : (s.entered d (s.newEntry d .plain []) s.objs).Logged t) :
    let u := (t.modEntry s.nextId fun x => { x with readyAt := some t.now }).run
    u.ledger = s.ledger ++ [{ s.newEntry d .plain [] with readyAt := some s.now }] ∧ u.nextId = s.nextId + 1 ∧ s.AcceptedBut u := by
  obtain ⟨_, _, _, moved⟩ := (t.modEntry s.nextId fun x => { x with readyAt := some t.now }).run_engineMoved
  obtain ⟨_, _, rfl⟩ := h
  rw [moved]
  exact ⟨map_newSlot ordered rfl _, rfl, rfl⟩

theorem exec_waitTimeExpiry {s : State} {id : Nat} {e : Entry} (here : s.entry id = some e) (op : e.desc.opcode = opWaitTime)
    (waits : e.readyAt.isSome = true) (edge : s.now % 6 = 0) (past : e.desc.until ≤ s.tideNs) :
    exec (.waitTimeExpiry id) s = .next (s.finish id (stOk, 0) 0 0) := by
  change execWaitTimeExpiry id s = _
  simp [execWaitTimeExpiry, here, op, waits, edge, past]

/-- Settles O24: a NOP, a FENCE and a WAIT_TIME whose target has passed complete as they are accepted; one whose target lies ahead does so
at its expiry. -/
theorem nopFenceAndWaitTime : Obligations.NopFenceAndWaitTime := by
  intro r d s canon live passes
  have entered := s.admitNew_plain d
  refine ⟨fun atOnce => ?_, fun id e own op waits edge past => ?_⟩
  · have starts : ∀ {c : Instr} {op : Nat} {f : Entry → State → State}, Taken s r op d →
        exec c s = .next (s.withCur r op fun d s => s.admitStart d .plain [] id f) →
        exec c s = .next (f (s.newEntry d .plain []) (s.admitNew d .plain [])).run := fun taken ran => by
      rw [ran, State.withCur_taken taken, State.admitStart_free canon.ledger atOnce]
    have passed : ∀ {c : Instr}, exec c s = .next (startPlain (s.newEntry d .plain []) (s.admitNew d .plain [])).run → passes c := fun ran =>
      ⟨_, ran, State.finish_run_entered canon.ledger live entered⟩
    have time := State.tideNs_entered entered
    refine ⟨fun taken => passed (starts taken rfl), fun taken => passed (starts taken rfl), fun taken past => passed ?_,
      fun taken ahead => ?_⟩
    · rw [starts (c := .waitTime r) (f := startWait) taken rfl, startWait_passed (time.symm ▸ past)]
    · have ran : exec (.waitTime r) s = _ := starts (f := startWait) taken rfl
      rw [startWait_ahead (time.symm ▸ ahead)] at ran
      exact ⟨_, ran, State.run_entered_ready canon.ledger entered⟩
  · obtain ⟨_, _, _, _, _, _, left⟩ := State.finishAt_lookedOver own s.tideNs false (stOk, 0) 0 0
    refine ⟨_, exec_waitTimeExpiry own.here op waits edge past, ?_⟩
    rw [State.finish, left]
    exact ⟨rfl, rfl, rfl⟩

end Sys2Proof.Machine

/-! OBJ_READ from its start to its end (O26). -/

namespace Sys2Proof.Machine

/-! ### What a poisoned read leaves (R143, R145, R452) -/

/-- State `t` is `s` but for what a poisoned read may bring: an unreadable tile, its object lost, a record raised, and a free value drawn. -/
structure State.ReadNoted (s t : State) : Prop where
  frame : ∃ fresh harb objs raised, t = { s with fresh := fresh, harb := harb, objs := objs, flt := { s.flt with raised := raised } }

theorem State.ReadNoted.refl (s : State) : s.ReadNoted s := ⟨_, _, _, _, rfl⟩

theorem State.ReadNoted.trans {s t u : State} (h : s.ReadNoted t) (k : t.ReadNoted u) : s.ReadNoted u := by
  obtain ⟨_, _, _, _, rfl⟩ := h
  obtain ⟨_, _, _, _, rfl⟩ := k
  exact ⟨_, _, _, _, rfl⟩

theorem State.loseObj_readNoted (s : State) (c reason : Nat) (o : Obj) : s.ReadNoted (s.loseObj c reason o) := by
  unfold State.loseObj
  split
  · exact .refl s
  · exact ⟨_, _, _, _, rfl⟩

theorem State.loseTile_readNoted (s : State) (c reason t : Nat) : s.ReadNoted (s.loseTile c reason t) := by
  unfold State.loseTile
  extract_lets harb lost
  have noted : s.ReadNoted lost := ⟨_, _, _, _, rfl⟩
  split
  · exact noted.trans (lost.loseObj_readNoted _ _ _)
  · exact noted

theorem State.noteUnreadable_readNoted (s : State) (ts : List Nat) : s.ReadNoted (s.noteUnreadable ts) := by
  unfold State.noteUnreadable
  extract_lets on t c
  split
  · exact .refl s
  · have drawn : s.ReadNoted { s with fresh := s.fresh + 1 } := ⟨_, _, _, _, rfl⟩
    exact drawn.trans (State.loseTile_readNoted _ _ _ _)

/-! ### The end of the read (R101, R110) -/

/-- The bytes that an OBJ_READ delivers: those it has kept, but for words that descriptors of other rings have written since (R109). -/
def State.delivered (s : State) (e : Entry) (bs : List Byte) : List Byte := match s.objOf (e.desc.w 2) with
  | some o => s.seen e o (e.desc.w 3) bs
  | none => bs

theorem State.seen_length (s : State) (e : Entry) (o : Obj) (off : Nat) (bs : List Byte) : (s.seen e o off bs).length = bs.length := by
  unfold State.seen
  split
  · rfl
  · exact List.length_mapIdx

theorem State.seen_unshared (s : State) {e : Entry} (alone : e.shared = []) (o : Obj) (off : Nat) (bs : List Byte) :
    s.seen e o off bs = bs := by
  unfold State.seen
  split
  · rfl
  · simp [alone, spansHold, List.mapIdx_eq_zipIdx_map]

theorem State.delivered_length (s : State) (e : Entry) (bs : List Byte) : (s.delivered e bs).length = bs.length := by
  unfold State.delivered
  split
  · exact s.seen_length _ _ _ _
  · rfl

theorem State.delivered_unshared (s : State) {e : Entry} (alone : e.shared = []) (bs : List Byte) : s.delivered e bs = bs := by
  unfold State.delivered
  split
  · exact s.seen_unshared alone _ _ _
  · rfl

/-- The state as the data have been read: a free value is drawn, and a poisoned read is noted. -/
def State.readMade (s : State) (d : Desc) (poisoned : Bool) : State :=
  if poisoned then s.draw.noteUnreadable (s.draw.readTiles d) else s.draw

theorem State.readMade_readNoted (s : State) (d : Desc) (poisoned : Bool) : s.ReadNoted (s.readMade d poisoned) := by
  have drawn : s.ReadNoted s.draw := ⟨_, _, _, _, rfl⟩
  unfold State.readMade
  split
  · exact drawn.trans (State.noteUnreadable_readNoted _ _)
  · exact drawn

/-- The outcome of an OBJ_READ that has delivered `n` bytes. -/
def readStatus (poisoned : Bool) (n asked : Nat) : Fail :=
  if poisoned then (stCheckMismatch, det 8 0) else if n < asked then (stTruncated, 0) else (stOk, 0)

/-- What goes out ahead of the record of an OBJ_READ: its data, if there are any (R110). -/
def State.readData (s : State) (d : Desc) (out : List Byte) : List Egress :=
  if out = [] then [] else [.data d.fn (d.addr 4) out (s.cplAddr d)]

/-- The data go out, then the descriptor completes. -/
theorem State.readDone_live {s t : State} {e : Entry} {bs : List Byte} {poisoned : Bool} (live : s.flt.fatalHold = false)
    (made : s.readMade e.desc poisoned = t) : s.readDone e bs poisoned =
      ({ t with egress := s.egress ++ s.readData e.desc (s.delivered e bs) } : State).finish e.id
        (readStatus poisoned bs.length (e.desc.w 6)) bs.length 0 := by
  have noted := s.readMade_readNoted e.desc poisoned
  rw [made] at noted
  have unfolded : s.readDone e bs poisoned =
      (if (s.delivered e bs).isEmpty || t.flt.fatalHold then t
        else t.emit (.data e.desc.fn (e.desc.addr 4) (s.delivered e bs) (t.cplAddr e.desc))).finish e.id
        (readStatus poisoned (s.delivered e bs).length (e.desc.w 6)) (s.delivered e bs).length 0 := by
    subst made
    rfl
  obtain ⟨_, _, _, _, rfl⟩ := noted
  rw [unfolded, State.delivered_length]
  refine congrArg (fun u : State => u.finish e.id _ _ 0) ?_
  cases out : s.delivered e bs with
  | nil => simp [State.readData]
  | cons b out =>
    simp only [List.isEmpty_cons, live, Bool.or_false, State.readData, reduceCtorEq, if_false]
    rfl

/-- Settles O26: the bytes are kept as the read starts and go out ahead of its record as it ends. -/
theorem objectRead : Obligations.ObjectRead := by
  intro s canon
  refine ⟨fun r d o taken atOnce here => ?_, fun id e bs poisoned own job => ?_⟩
  · have entered := s.admitNew_plain d
    have ran : exec (.objRead r) s = .next (startRead (s.newEntry d .plain []) (s.admitNew d .plain [])).run :=
      congrArg Host.Outcome.next ((State.withCur_taken taken _).trans (congrArg State.run (State.admitStart_free canon.ledger atOnce startRead)))
    have found : (s.admitNew d .plain []).objOf (d.w 2) = some o := by
      rw [State.objOf, entered.objsPorts.1]
      exact here
    have starts : startRead (s.newEntry d .plain []) (s.admitNew d .plain []) =
        (s.admitNew d .plain []).start s.nextId (.read (o.read (d.w 3) (moveLength o d))) := by
      simp only [startRead, State.newEntry, found]
    rw [starts] at ran
    generalize s.admitNew d .plain [] = t at entered ran
    obtain ⟨_, _, _, moved⟩ := (t.start s.nextId (.read (o.read (d.w 3) (moveLength o d)))).run_engineMoved
    obtain ⟨_, _, rfl⟩ := entered
    rw [moved] at ran
    exact ⟨_, ran, map_newSlot canon.ledger rfl _, rfl⟩
  · obtain rfl := State.id_of_entry own.here
    have ran : exec (.objReadDone e.id poisoned) s = .next (s.readDone e bs poisoned) := by
      change execObjReadDone e.id poisoned s = _
      simp [execObjReadDone, own.here, job]
    have quiet : poisoned = false → (s.readMade e.desc poisoned).flt = s.flt := by
      rintro rfl
      rfl
    have noted := s.readMade_readNoted e.desc poisoned
    rw [State.readDone_live own.live rfl] at ran
    generalize s.readMade e.desc poisoned = t at noted quiet ran
    have still : Completing { t with egress := s.egress ++ s.readData e.desc (s.delivered e bs) } e.id e := by
      obtain ⟨_, _, _, _, rfl⟩ := noted
      exact ⟨own.here, own.loud, own.own, own.live⟩
    obtain ⟨_, _, _, _, _, _, left⟩ := State.finishAt_lookedOver still t.tideNs false
      (readStatus poisoned bs.length (e.desc.w 6)) bs.length 0
    refine ⟨_, s.delivered e bs, ran.trans (congrArg _ left), ?_, s.delivered_length e bs, fun alone => s.delivered_unshared alone bs, ?_,
      quiet, ?_⟩ <;> obtain ⟨_, _, _, _, rfl⟩ := noted
    · rfl
    · have sends : s.readData e.desc (s.delivered e bs) =
          if bs = [] then [] else [.data e.desc.fn (e.desc.addr 4) (s.delivered e bs) (s.cplAddr e.desc)] := by
        simp only [State.readData, ← List.length_eq_zero_iff, State.delivered_length]
      rw [← sends]
      rfl
    · rfl

end Sys2Proof.Machine

/-! OBJ_ALLOC and OBJ_FREE (O25): what the log leaves of the registers, the choice of a free index, the tiles taken, and the objects that a
completion keeps. -/

namespace Sys2Proof.Machine

/-! ### Registers that the log leaves alone (R515, R520) -/

theorem State.cwaySend_regs (s : State) (type : Nat) (last : Bool) (ring dseq : Nat) (body : List Byte) :
    (s.cwaySend type last ring dseq body).regs = s.regs := by
  unfold State.cwaySend
  split <;> rfl

theorem State.reg_of_regs {s t : State} (h : t.regs = s.regs) (off : Nat) : t.reg off = s.reg off := by
  simp only [State.reg, h]

/-- Logging writes CWAY_LOG and the count of breaks, and no other register. -/
theorem State.logRecord_reg (s : State) (type : Nat) (last : Bool) (ring dseq : Nat) (body : List Byte) {off : Nat}
    (notLog : off ≠ 0x7008) (notBreaks : off ≠ 0x701C) : (s.logRecord type last ring dseq body).reg off = s.reg off := by
  unfold State.logRecord
  split
  · split
    · unfold State.breakLog
      split
      · exact State.reg_setField_ne _ _ _ _ notBreaks
      · rfl
    · extract_lets seq bs sent kept kb
      exact (State.reg_setReg_ne _ _ notLog).trans (State.reg_of_regs (s.cwaySend_regs _ _ _ _ _) off)
  · rfl

theorem State.admitNew_reg (s : State) (d : Desc) (job : Job) (surfaces : List Nat) {off : Nat} (notLog : off ≠ 0x7008)
    (notBreaks : off ≠ 0x701C) : (s.admitNew d job surfaces).reg off = s.reg off := by
  unfold State.admitNew State.accept
  extract_lets plates vs e given placed next
  obtain ⟨objs, numbered⟩ := State.foldl_modObj_eq (s.modRing d.ring fun x => { x with allowance := x.allowance - 1 }) vs
    fun v o => { o with given := v.2 }
  refine (State.logRecord_reg _ _ _ _ _ _ notLog notBreaks).trans (State.reg_of_regs ?_ off)
  have kept : given.regs = s.regs := (congrArg State.regs numbered).trans rfl
  exact kept

/-! ### Room for an allocation (R125, R134) -/

/-- Whether there is room for an allocation does not change by the acceptance of the descriptor that asks for it. -/
theorem State.allocFails_admitNew (s : State) {d : Desc} (small : d.fn < 16) (n : Nat) :
    (s.admitNew d .plain []).allocFails d.fn n = s.allocFails d.fn n := by
  have entered := s.admitNew_plain d
  have quota := s.admitNew_reg d .plain [] (off := 0x2080 + 4 * d.fn) (by omega) (by omega)
  have pair := s.admitNew_reg d .plain [] (off := 0x7000) (by decide) (by decide)
  generalize s.admitNew d .plain [] = t at entered quota pair
  have paired : t.paired = s.paired := by
    unfold State.paired State.field
    rw [pair]
  obtain ⟨regs, cway, rfl⟩ := entered
  have reserved : ∀ fn, State.reservedTiles { s.entered d (s.newEntry d .plain []) s.objs with regs := regs, cway := cway } fn =
      s.reservedTiles fn := fun fn => by
    by_cases own : d.fn = fn <;> simp [State.reservedTiles, State.entered, State.newEntry, own]
  have pinned : State.pinnedTiles { s.entered d (s.newEntry d .plain []) s.objs with regs := regs, cway := cway } = s.pinnedTiles := by
    simp [State.pinnedTiles, State.entered, State.newEntry, Job.pinned]
  have free : State.freeTiles { s.entered d (s.newEntry d .plain []) s.objs with regs := regs, cway := cway } = s.freeTiles := by
    simp only [State.freeTiles, State.chnCapacity, pinned, State.dramCapacity, paired]
    rfl
  simp only [State.allocFails, State.noRoom, State.fnUse, quota, reserved, free]
  rfl

/-! ### The choice of a free index (R122) -/

theorem le_nthFree (used : List Nat) (i : Nat) : i ≤ nthFree used i := by
  induction used generalizing i with
  | nil => exact Nat.le_refl i
  | cons u us ih =>
    unfold nthFree
    split
    · exact Nat.le_of_succ_le (ih (i + 1))
    · exact Nat.le_refl i

theorem nthFree_le (used : List Nat) (i : Nat) : nthFree used i ≤ i + used.length := by
  induction used generalizing i with
  | nil => exact Nat.le_refl i
  | cons u us ih =>
    unfold nthFree
    split
    · have := ih (i + 1)
      simp only [List.length_cons]
      omega
    · simp

/-- The index chosen is none of those in use. -/
theorem nthFree_notMem {used : List Nat} (rising : used.Pairwise (· < ·)) (i : Nat) : nthFree used i ∉ used := by
  induction used generalizing i with
  | nil => exact List.not_mem_nil
  | cons u us ih =>
    obtain ⟨above, rest⟩ := List.pairwise_cons.1 rising
    unfold nthFree
    split
    · next past =>
      have beyond := le_nthFree us (i + 1)
      refine List.not_mem_cons_of_ne_of_not_mem (by omega) (ih rest _)
    · next short =>
      refine List.not_mem_cons_of_ne_of_not_mem (by omega) fun mem => ?_
      have := above _ mem
      omega

theorem tabFind_eq_none {α : Type} {t : Tab α} {k : Nat} (h : k ∉ t.map (·.1)) : tabFind t k = none := by
  induction t with
  | nil => rfl
  | cons x t ih =>
    obtain ⟨a, v⟩ := x
    simp only [List.map_cons, List.mem_cons, not_or] at h
    simp only [tabFind, if_neg (Ne.symm h.1), ih h.2]

/-- The index at which the next object is made. -/
def State.freeIdx (s : State) : Nat :=
  nthFree (s.objs.map (·.1)) (1 + Config.freeIndex s.fresh % (1048575 - (s.objs.map (·.1)).length))

theorem State.freeIdx_free {s : State} (sorted : tabSorted s.objs) (few : s.objs.length < 65536) :
    1 ≤ s.freeIdx ∧ s.freeIdx < 2 ^ 20 ∧ tabFind s.objs s.freeIdx = none := by
  have low := le_nthFree (s.objs.map (·.1)) (1 + Config.freeIndex s.fresh % (1048575 - (s.objs.map (·.1)).length))
  have high := nthFree_le (s.objs.map (·.1)) (1 + Config.freeIndex s.fresh % (1048575 - (s.objs.map (·.1)).length))
  have small := Nat.mod_lt (Config.freeIndex s.fresh) (show 0 < 1048575 - (s.objs.map (·.1)).length by simp; omega)
  have rising : (s.objs.map (·.1)).Pairwise (· < ·) := List.pairwise_map.2 sorted
  unfold State.freeIdx
  simp only [List.length_map] at *
  exact ⟨by omega, by omega, tabFind_eq_none (nthFree_notMem rising _)⟩

theorem handleIndex_mkHandle {fn i gen : Nat} (small : i < 2 ^ 20) : handleIndex (mkHandle fn i gen) = i := by
  simp only [handleIndex, fieldOf, mkHandle, Nat.shiftRight_eq_div_pow]
  omega

/-! ### Tiles taken (R23) -/

/-- The tiles taken are fresh numbers in a row. -/
theorem State.takeTiles_fst (n : Nat) (s : State) : (State.takeTiles n s).1 = List.range' s.harb.nextTile n := by
  induction n generalizing s with
  | zero => rfl
  | succ n ih =>
    unfold State.takeTiles
    extract_lets room place t harb next r
    exact congrArg (List.cons t) (ih next)

theorem State.takeTiles_snd (n : Nat) (s : State) : ∃ fresh harb, (State.takeTiles n s).2 = { s with fresh := fresh, harb := harb } := by
  induction n generalizing s with
  | zero => exact ⟨_, _, rfl⟩
  | succ n ih =>
    unfold State.takeTiles
    extract_lets room place t harb next r
    obtain ⟨_, _, taken⟩ := ih next
    exact ⟨_, _, taken⟩

theorem eraseDups_of_nodup {l : List Nat} (h : l.Nodup) : l.eraseDups = l := by
  induction l with
  | nil => rfl
  | cons a l ih =>
    obtain ⟨fresh, rest⟩ := List.nodup_cons.1 h
    have kept : l.filter (fun b => !b == a) = l := List.filter_eq_self.2 fun b mem => by
      have : b ≠ a := fun same => fresh (same ▸ mem)
      simp [this]
    rw [List.eraseDups_cons, kept, ih rest]

/-! ### The objects that a sweep keeps (R101, R133) -/

theorem tabFind_filter {α : Type} {t : Tab α} (sorted : tabSorted t) (keep : Nat × α → Bool) (k : Nat) :
    tabFind (t.filter keep) k = (tabFind t k).filter fun v => keep (k, v) := by
  induction t with
  | nil => rfl
  | cons x t ih =>
    obtain ⟨a, v⟩ := x
    obtain ⟨above, rest⟩ : (∀ e ∈ t, a < e.1) ∧ tabSorted t := by simpa [tabSorted] using sorted
    by_cases same : a = k
    · subst same
      cases stays : keep (a, v) with
      | true => simp [tabFind, stays, Option.filter]
      | false =>
        have gone : tabFind (t.filter keep) a = none := by rw [ih rest, tabFind_none_of_lt above]; rfl
        simp [tabFind, stays, gone, Option.filter]
    · cases stays : keep (a, v) <;> simp [tabFind, stays, same, ih rest]

theorem tabSorted_keptObjs {t : Tab Obj} (sorted : tabSorted t) (used : List (Nat × Nat)) (named : List Nat) :
    tabSorted (keptObjs used named t) :=
  tabSorted_filter (tabSorted_map sorted _) _

/-- A sweep makes no object. -/
theorem keptObjs_keys (used : List (Nat × Nat)) (named : List Nat) (t : Tab Obj) :
    ((keptObjs used named t).map (·.1)).Sublist (t.map (·.1)) := by
  have same : (tabMap (fun _ o => Obj.prune o used named) t).map (·.1) = t.map (·.1) := by simp [tabMap_eq, Function.comp_def]
  exact same ▸ (List.filter_sublist.map _)

/-- An object that has not been freed stays, with the versions it keeps. -/
theorem tabFind_keptObjs {t : Tab Obj} (sorted : tabSorted t) {k : Nat} {o : Obj} (here : tabFind t k = some o)
    (used : List (Nat × Nat)) (named : List Nat) (owned : (o.prune used named).released = false) :
    tabFind (keptObjs used named t) k = some (o.prune used named) := by
  rw [keptObjs, tabFind_filter (tabSorted_map sorted _), tabFind_map, here]
  simp [owned]

/-- An object of which only one valid version stands keeps it. -/
theorem Obj.prune_newest {o : Obj} (owned : o.released = false) {v : Version} (only : o.versions = [v]) (valid : v.valid = true)
    (used : List (Nat × Nat)) (named : List Nat) : o.prune used named = o := by
  unfold Obj.prune
  split
  · have kept : o.newest = some v := by simp [Obj.newest, only, valid]
    have all : o.versions.filter (fun x => ((!o.released || named.contains o.handle) && x.valid &&
        decide (x.num = (o.newest.map (·.num)).getD 0)) || used.contains (o.handle, x.num)) = o.versions := by
      simp [only, kept, owned, valid]
    simp only [all]
  · rfl

theorem Obj.prune_handle (o : Obj) (used : List (Nat × Nat)) (named : List Nat) :
    (o.prune used named).handle = o.handle ∧ (o.prune used named).released = o.released := by
  unfold Obj.prune
  split <;> exact ⟨rfl, rfl⟩

/-- Every object that the table holds under a handle has been freed. -/
def freedIn (t : Tab Obj) (h : Nat) : Prop := ∀ o, tabFind t (handleIndex h) = some o → o.handle = h → o.released = true

theorem freedIn_keptObjs {t : Tab Obj} (sorted : tabSorted t) {h : Nat} (freed : freedIn t h) (used : List (Nat × Nat)) (named : List Nat) :
    freedIn (keptObjs used named t) h := by
  intro x here same
  rw [keptObjs, tabFind_filter (tabSorted_map sorted _), tabFind_map] at here
  cases before : tabFind t (handleIndex h) with
  | none => simp [before] at here
  | some o =>
    obtain ⟨handle, released⟩ := o.prune_handle used named
    simp only [before, Option.map_some, Option.filter_eq_some_iff, Option.some.injEq] at here
    obtain ⟨rfl, -⟩ := here
    rw [released]
    exact freed o before (handle ▸ same)

theorem State.objValid_of_freed {s : State} {h : Nat} (freed : freedIn s.objs h) : s.objValid h = none := by
  unfold State.objValid State.objOf
  cases here : tabFind s.objs (handleIndex h) with
  | none => rfl
  | some o =>
    by_cases same : o.handle = h
    · simp [same, freed o here same]
    · simp [same]

/-! ### OBJ_ALLOC (R100, R122 to R126) -/

/-- The version an object starts with. -/
def firstVersion (cls w h : Nat) (zero : Bool) (tiles : List Nat) (n : Nat) : Version :=
  { num := if cls = 0 then 1 else 0, valid := true, bytes := [], tiles := tiles
    unwritten := if cls = 0 ∧ ¬ zero then List.range n else []
    opacity := if cls = 0 then List.replicate (ceilDiv w 64 * ceilDiv h 64) (if zero then 0 else 2) else [] }

/-- The object that an OBJ_ALLOC makes under a handle, with its tiles. -/
def Desc.newObj (d : Desc) (handle seed : Nat) (tiles : List Nat) : Obj :=
  { handle := handle, cls := d.f 2 3 0, hint := d.f 2 7 4, format := d.f 2 15 8, width := d.f 3 15 0, height := d.f 3 31 16, size := d.w 4
    fill := initialFill d.flag21 (d.f 2 3 0) (d.f 2 15 8) seed
    versions := [firstVersion (d.f 2 3 0) (d.f 3 15 0) (d.f 3 31 16) d.flag21 tiles d.allocTiles], given := 1, invalid := false
    lost := none, freeing := none, released := false }

theorem Desc.newObj_tilesHeld (d : Desc) (handle seed first : Nat) :
    (d.newObj handle seed (List.range' first d.allocTiles)).tilesHeld.length = d.allocTiles := by
  have fresh : (d.newObj handle seed (List.range' first d.allocTiles)).tilesHeld = List.range' first d.allocTiles := by
    simpa [Obj.tilesHeld, Desc.newObj, firstVersion] using eraseDups_of_nodup List.nodup_range'
  rw [fresh, List.length_range']

/-- The handle that the next object gets (R121, R122). -/
def State.newHandle (s : State) (d : Desc) : Nat := mkHandle d.fn s.freeIdx (tabGet 1 s.gens s.freeIdx)

/-- Making an object puts it into the table under its handle; beside that, free values are drawn and storage is taken. -/
theorem State.create_eq (s : State) (d : Desc) : ∃ seed first fresh harb,
    s.create d.fn (d.f 2 3 0) (d.f 2 7 4) (d.f 2 15 8) (d.f 3 15 0) (d.f 3 31 16) (d.w 4) d.flag21 = (s.newHandle d,
      ({ s with fresh := fresh, harb := harb } : State).setObj (d.newObj (s.newHandle d) seed (List.range' first d.allocTiles))) := by
  have tiles := State.takeTiles_fst d.allocTiles s.draw.draw
  obtain ⟨fresh, harb, taken⟩ := State.takeTiles_snd d.allocTiles s.draw.draw
  unfold State.create State.createAt
  rw [show tileCount (d.f 2 3 0) (d.f 2 15 8) (d.f 3 15 0) (d.f 3 31 16) (d.w 4) = d.allocTiles from rfl]
  simp only [taken, tiles]
  exact ⟨s.draw.fresh, s.harb.nextTile, fresh, (State.peaks (State.setObj { s with fresh := fresh, harb := harb }
    (d.newObj (s.newHandle d) s.draw.fresh (List.range' s.harb.nextTile d.allocTiles)))).harb, rfl⟩

theorem startAlloc_fails {s : State} {e : Entry} {reason : Nat} (full : s.allocFails e.desc.fn e.desc.allocTiles = some reason) :
    startAlloc e s = s.finish e.id (noSpace reason) 0 0 := by
  simp only [startAlloc, full]

theorem startAlloc_makes {s : State} {e : Entry} (room : s.allocFails e.desc.fn e.desc.allocTiles = none) : ∃ seed first fresh harb,
    startAlloc e s = (({ s with fresh := fresh, harb := harb } : State).setObj
      (e.desc.newObj (s.newHandle e.desc) seed (List.range' first e.desc.allocTiles))).finish e.id (stOk, 0) (s.newHandle e.desc) 0 := by
  obtain ⟨seed, first, fresh, harb, made⟩ := s.create_eq e.desc
  refine ⟨seed, first, fresh, harb, ?_⟩
  simp only [startAlloc, room, made]

/-- The objects after a completion that consumes no version number, once the engine has gone on. -/
theorem State.finish_run_objs {t : State} {id : Nat} {e : Entry} (here : t.entry id = some e) {f : Fail} (quiet : spoils f.1 = false)
    (r0 r1 : Nat) : ∃ used named, (t.finish id f r0 r1).run.objs = keptObjs used named t.objs := by
  obtain ⟨used, named, looked⟩ := State.finishAt_objs here quiet t.tideNs false r0 r1
  obtain ⟨_, _, _, moved⟩ := (t.finish id f r0 r1).run_engineMoved
  exact ⟨used, named, (congrArg State.objs moved).trans looked⟩

theorem State.Holds.entry {s t : State} {e : Entry} (h : s.Holds t e) (ordered : ledgerOrdered s.ledger s.nextId) (named : e.id = s.nextId) :
    t.entry s.nextId = some e := by
  rw [State.entry, h.ledger]
  exact find?_newSlot ordered named

theorem Desc.fn_lt_of_taken {s : State} {r : Fin 128} {op : Nat} {d : Desc} (taken : Taken s r op d) : d.fn < 16 := by
  have := r.isLt
  rw [Desc.fn, ringFn, taken.home]
  omega

section Alloc

variable {s : State} {r : Fin 128} {d : Desc} (canon : Canon s) (taken : Taken s r opObjAlloc d) (atOnce : s.goesAtOnce d)
include canon taken atOnce

theorem exec_objAlloc_starts : exec (.objAlloc r) s = .next (startAlloc (s.newEntry d .plain []) (s.admitNew d .plain [])).run :=
  congrArg Host.Outcome.next ((State.withCur_taken taken _).trans (congrArg State.run (State.admitStart_free canon.ledger atOnce startAlloc)))

variable (live : s.flt.fatalHold = false)
include live

/-- Without room nothing is made. -/
theorem objAlloc_fails {reason : Nat} (full : s.allocFails d.fn d.allocTiles = some reason) : ∃ t, exec (.objAlloc r) s = .next t ∧
    t.ledger = s.ledger ∧ s.egress ++ s.completion d false (stNoSpace, det reason 0) 0 0 <+: t.egress ∧ t.gens = s.gens ∧
    (t.objs.map (·.1)).Sublist (s.objs.map (·.1)) := by
  have ran := exec_objAlloc_starts canon taken atOnce
  have entered := s.admitNew_plain d
  have room := s.allocFails_admitNew (Desc.fn_lt_of_taken taken) d.allocTiles
  generalize s.admitNew d .plain [] = t at ran entered room
  have starts : startAlloc (s.newEntry d .plain []) t = t.finish s.nextId (noSpace reason) 0 0 :=
    startAlloc_fails (e := s.newEntry d .plain []) (room.trans full)
  rw [starts] at ran
  have held := State.holds_of_entered (e := s.newEntry d .plain []) rfl entered
  have here : t.entry s.nextId = some (s.newEntry d .plain []) := held.entry canon.ledger rfl
  obtain ⟨_, _, kept⟩ := State.finish_run_objs here (f := noSpace reason) (show spoils stNoSpace = false by decide) 0 0
  obtain ⟨_, _, _, _, _, _, _, _, ends⟩ := held.finish_run canon.ledger rfl rfl rfl live (State.tideNs_entered entered) (noSpace reason) 0 0
  have left : (t.finish s.nextId (noSpace reason) 0 0).run.ledger = s.ledger ∧
      s.egress ++ s.completion d false (noSpace reason) 0 0 <+: (t.finish s.nextId (noSpace reason) 0 0).run.egress ∧
      (t.finish s.nextId (noSpace reason) 0 0).run.gens = s.gens := by
    rw [ends]
    obtain ⟨_, _, rfl⟩ := entered
    exact ⟨rfl, List.prefix_append _ _, rfl⟩
  refine ⟨_, ran, left.1, left.2.1, left.2.2, ?_⟩
  rw [kept, entered.objsPorts.1]
  exact keptObjs_keys _ _ _

/-- With room the object stands under its new handle. -/
theorem objAlloc_makes (room : s.allocFails d.fn d.allocTiles = none) : ∃ t i o, exec (.objAlloc r) s = .next t ∧ t.ledger = s.ledger ∧
    s.egress ++ s.completion d false (stOk, 0) o.handle 0 <+: t.egress ∧ (1 ≤ i ∧ i < 2 ^ 20 ∧ tabFind s.objs i = none) ∧
    o.handle = mkHandle d.fn i (tabGet 1 s.gens i) ∧ t.objOf o.handle = some o ∧
    ∃ h seed first, o = d.newObj h seed (List.range' first d.allocTiles) := by
  have ran := exec_objAlloc_starts canon taken atOnce
  have entered := s.admitNew_plain d
  have still := s.allocFails_admitNew (Desc.fn_lt_of_taken taken) d.allocTiles
  generalize s.admitNew d .plain [] = t at ran entered still
  have objs : t.objs = s.objs := entered.objsPorts.1
  have gens : t.gens = s.gens := by obtain ⟨_, _, rfl⟩ := entered; rfl
  have few : t.objs.length < 65536 := by
    rw [objs]
    by_contra many
    simp [State.allocFails, Nat.le_of_not_lt many] at room
  have sorted : tabSorted t.objs := objs ▸ canon.objs
  have index := State.freeIdx_free sorted few
  obtain ⟨seed, first, fresh, harb, starts⟩ := startAlloc_makes (e := s.newEntry d .plain []) (still.trans room)
  rw [starts] at ran
  change exec _ s = .next ((({ t with fresh := fresh, harb := harb } : State).setObj
    (d.newObj (t.newHandle d) seed (List.range' first d.allocTiles))).finish s.nextId (stOk, 0) (t.newHandle d) 0).run at ran
  obtain ⟨o, made⟩ : ∃ o, o = d.newObj (t.newHandle d) seed (List.range' first d.allocTiles) := ⟨_, rfl⟩
  have handle : o.handle = t.newHandle d := made ▸ rfl
  have alone : ∀ used named, o.prune used named = o := by
    subst made
    exact Obj.prune_newest rfl rfl rfl
  have owned : o.released = false := made ▸ rfl
  rw [← made, ← handle] at ran
  have held : s.Holds (({ t with fresh := fresh, harb := harb } : State).setObj o) (s.newEntry d .plain []) := by
    obtain ⟨ledger, egress, flt, place⟩ := State.holds_of_entered (e := s.newEntry d .plain []) rfl entered
    exact ⟨ledger, egress, flt, place⟩
  have time : t.tideNs = s.tideNs := State.tideNs_entered entered
  have here : (({ t with fresh := fresh, harb := harb } : State).setObj o).entry s.nextId = some (s.newEntry d .plain []) :=
    held.entry canon.ledger rfl
  obtain ⟨used, named, kept⟩ := State.finish_run_objs here (f := (stOk, 0)) (show spoils stOk = false by decide) o.handle 0
  obtain ⟨_, _, _, _, _, _, _, _, ends⟩ := held.finish_run canon.ledger rfl rfl rfl live time (stOk, 0) o.handle 0
  have found : tabFind (keptObjs used named (tabPut t.objs (handleIndex o.handle) o)) (handleIndex o.handle) = some o := by
    have stands := tabFind_keptObjs (tabSorted_put sorted _ _) (tabFind_put t.objs (handleIndex o.handle) o) used named
      (by rw [alone, owned])
    rwa [alone] at stands
  refine ⟨_, t.freeIdx, o, ran, ?_, ?_, objs ▸ index, handle.trans (congrArg (fun g => mkHandle d.fn t.freeIdx (tabGet 1 g t.freeIdx)) gens),
    ?_, _, _, _, made⟩
  · rw [ends]
  · rw [ends]
    exact List.prefix_append _ _
  · rw [State.objOf, kept]
    simp only [State.setObj_objs, found, if_true]

end Alloc

/-! ### OBJ_FREE (R101, R122) -/

/-- The state in which the handle is being freed by the descriptor of an id (R101). -/
def State.freeingBy (s : State) (h id : Nat) : State := s.modObj h fun o => { o with freeing := some id }

theorem State.modObj_eq (s : State) (h : Nat) (f : Obj → Obj) : ∃ objs, s.modObj h f = { s with objs := objs } := by
  unfold State.modObj
  split <;> exact ⟨_, rfl⟩

/-- No rule keeps an OBJ_FREE that nothing holds back from its start: it reads no object, and a lost one is freed too (R146). -/
theorem State.startFail_free {s : State} {e : Entry} (op : e.desc.opcode = opObjFree) (job : e.job = .plain) : s.startFail e = none := by
  have reads : e.reads = [] := by simp [Entry.reads, op, job, opObjFree]
  simp [State.startFail, State.lostFail, State.invalidFail, op, reads, firstFail]

theorem State.objOf_handle {s : State} {h : Nat} {o : Obj} (here : s.objOf h = some o) : o.handle = h := by
  unfold State.objOf at here
  split at here
  · split at here
    · next same => exact Option.some.inj here ▸ same
    · exact nomatch here
  · exact nomatch here

/-- Releasing the object of a handle leaves none under it that is not freed. -/
theorem State.modObj_freed {s : State} (sorted : tabSorted s.objs) (h : Nat) :
    tabSorted (s.modObj h fun o => { o with released := true }).objs ∧ freedIn (s.modObj h fun o => { o with released := true }).objs h := by
  unfold State.modObj
  split
  · next o here =>
    refine ⟨tabSorted_put sorted _ _, fun x found _ => ?_⟩
    rw [State.setObj_objs, State.objOf_handle here, tabFind_put] at found
    exact Option.some.inj found ▸ rfl
  · next none_here =>
    refine ⟨sorted, fun x found same => ?_⟩
    simp [State.objOf, found, same] at none_here

/-- The generation of the handle's index advances; 255 is followed by 1 (R122). -/
def State.genAdvanced (s : State) (h : Nat) : State := { s with
  gens := tabPut s.gens (handleIndex h) (if tabGet 1 s.gens (handleIndex h) = 255 then 1 else tabGet 1 s.gens (handleIndex h) + 1) }

theorem State.releaseObj_steps (s : State) (h : Nat) :
    s.releaseObj h = ((s.genAdvanced h).modObj h fun o => { o with released := true }).sweep := rfl

/-- After the release every object under the handle has been freed. -/
theorem State.releaseObj_freed {s : State} (sorted : tabSorted s.objs) (h : Nat) :
    tabSorted (s.releaseObj h).objs ∧ freedIn (s.releaseObj h).objs h := by
  obtain ⟨still, freed⟩ := State.modObj_freed (s := s.genAdvanced h) sorted h
  rw [State.releaseObj_steps, State.sweep_objs]
  exact ⟨tabSorted_keptObjs still _ _, freedIn_keptObjs still freed _ _⟩

/-- The release changes generations, objects and storage. -/
theorem State.releaseObj_eq (s : State) (h : Nat) : ∃ objs harb, s.releaseObj h = { s.genAdvanced h with objs := objs, harb := harb } := by
  obtain ⟨_, released⟩ := (s.genAdvanced h).modObj_eq h fun o => { o with released := true }
  rw [State.releaseObj_steps, released]
  exact ⟨_, _, rfl⟩

/-- An OBJ_FREE accepted with nothing to wait for starts at once. -/
theorem exec_objFree {s : State} {r : Fin 128} {d : Desc} (canon : Canon s) (taken : Taken s r opObjFree d) (atOnce : s.goesAtOnce d) :
    exec (.objFree r) s = .next (startFree (s.newEntry d .plain []) ((s.admitNew d .plain []).freeingBy (d.w 2) s.nextId)).run := by
  refine congrArg Host.Outcome.next ((State.withCur_taken taken _).trans (congrArg State.run ?_))
  have entered := s.admitNew_plain d
  have here := State.entry_entered canon.ledger rfl entered
  have before := State.before_entered (e := s.newEntry d .plain []) canon.ledger rfl entered
  change ((s.admitNew d .plain []).freeingBy (d.w 2) s.nextId).startIf s.nextId startFree = _
  generalize s.admitNew d .plain [] = t at here before
  obtain ⟨objs, freeing⟩ := t.modObj_eq (d.w 2) fun o => { o with freeing := some s.nextId }
  rw [State.freeingBy, freeing]
  refine State.startIf_starts (s := { t with objs := objs }) here rfl (List.all_eq_true.2 fun x mem => ?_)
    (State.startFail_free taken.op rfl) _
  rw [show State.before { t with objs := objs } (s.newEntry d .plain []) = s.ledger from before] at mem
  simp [atOnce.1 x mem]

/-- The handle is freed, and the descriptor completes. -/
theorem objFree_frees {s : State} {r : Fin 128} {d : Desc} (canon : Canon s) (live : s.flt.fatalHold = false)
    (taken : Taken s r opObjFree d) (atOnce : s.goesAtOnce d) : ∃ t, exec (.objFree r) s = .next t ∧ t.ledger = s.ledger ∧
      freedIn t.objs (d.w 2) ∧ t.gens = (s.genAdvanced (d.w 2)).gens ∧
      s.egress ++ s.completion d false (stOk, bit (s.displayed (d.w 2))) 0 0 <+: t.egress := by
  have ran := exec_objFree canon taken atOnce
  have entered := s.admitNew_plain d
  have time := State.tideNs_entered entered
  have held := State.holds_of_entered (e := s.newEntry d .plain []) rfl entered
  have sorted : tabSorted ((s.admitNew d .plain []).freeingBy (d.w 2) s.nextId).objs := by
    have before : tabSorted (s.admitNew d .plain []).objs := entered.objsPorts.1 ▸ canon.objs
    unfold State.freeingBy State.modObj
    split
    · exact tabSorted_put before _ _
    · exact before
  obtain ⟨sortedAfter, freed⟩ := State.releaseObj_freed sorted (d.w 2)
  obtain ⟨marked, freeing⟩ := (s.admitNew d .plain []).modObj_eq (d.w 2) fun o => { o with freeing := some s.nextId }
  have gens : (s.admitNew d .plain []).gens = s.gens := by
    obtain ⟨_, _, frame⟩ := entered
    rw [frame]
    rfl
  have ports : (s.admitNew d .plain []).ports = s.ports := entered.objsPorts.2
  generalize s.admitNew d .plain [] = t at ran time held sortedAfter freed freeing gens ports
  obtain ⟨objs, harb, release⟩ := (t.freeingBy (d.w 2) s.nextId).releaseObj_eq (d.w 2)
  have starts : startFree (s.newEntry d .plain []) (t.freeingBy (d.w 2) s.nextId) =
      ((t.freeingBy (d.w 2) s.nextId).releaseObj (d.w 2)).finish s.nextId (stOk, bit (s.displayed (d.w 2))) 0 0 := by
    have shown : (t.freeingBy (d.w 2) s.nextId).displayed (d.w 2) = s.displayed (d.w 2) := by
      rw [State.freeingBy, freeing, State.displayed, State.displayed, ← ports]
    rw [← shown]
    rfl
  rw [starts] at ran
  rw [release] at ran sortedAfter freed
  rw [State.freeingBy, freeing] at ran sortedAfter freed
  have after : s.Holds ({ State.genAdvanced { t with objs := marked } (d.w 2) with objs := objs, harb := harb } : State)
      (s.newEntry d .plain []) :=
    ⟨held.ledger, held.egress, held.flt, held.place⟩
  have here := after.entry canon.ledger rfl
  obtain ⟨used, named, kept⟩ := State.finish_run_objs here (f := (stOk, bit (s.displayed (d.w 2)))) (show spoils stOk = false by decide) 0 0
  obtain ⟨_, _, _, _, _, _, _, _, ends⟩ := after.finish_run canon.ledger rfl rfl rfl live time (stOk, bit (s.displayed (d.w 2))) 0 0
  refine ⟨_, ran, ?_, ?_, ?_, ?_⟩
  · rw [ends]
  · rw [kept]
    exact freedIn_keptObjs sortedAfter freed _ _
  · rw [ends, State.genAdvanced, State.genAdvanced, gens]
  · rw [ends]
    exact List.prefix_append _ _

/-- Settles O25: an object is made at a free index or not at all, and freeing a handle advances its generation. -/
theorem objectsAllocatedAndFreed : Obligations.ObjectsAllocatedAndFreed := by
  refine ⟨fun r d s canon live taken atOnce => ⟨fun reason full => objAlloc_fails canon taken atOnce live full, fun room => ?_⟩,
    fun r d s canon live taken atOnce => ?_⟩
  · obtain ⟨t, i, o, ran, ledger, sent, ⟨low, high, free⟩, handle, found, h, seed, first, made⟩ :=
      objAlloc_makes canon taken atOnce live room
    refine ⟨t, o.handle, i, o, ran, ledger, sent, low, high, free, handle, found, ?_, ?_⟩
    · rw [State.objValid, found, made]
      rfl
    · rw [made]
      exact ⟨rfl, rfl, rfl, rfl, rfl, rfl, rfl, d.newObj_tilesHeld _ _ _⟩
  · obtain ⟨t, ran, ledger, freed, gens, sent⟩ := objFree_frees canon live taken atOnce
    refine ⟨t, ran, ledger, State.objValid_of_freed freed, ?_, sent⟩
    rw [gens]
    exact tabGet_put _ _ _ _

end Sys2Proof.Machine

/-! PLATE_LOAD from its acceptance to its end (O28). -/

namespace Sys2Proof.Machine

/-! ### Acceptance under a version number (R96, R129) -/

/-- The ledger holds the new slot with the numbers that its surface has given, and nothing else of it changes. -/
theorem State.admitNew_ledger (s : State) (d : Desc) (job : Job) (h : Nat) :
    (s.admitNew d job [h]).ledger = s.ledger ++ [s.newEntry d job (s.versionGiven h)] := by
  unfold State.admitNew State.accept
  extract_lets plates vs e given placed next
  have numbers : vs = s.versionGiven h := by
    have same : ∀ k, (s.modRing d.ring fun x => { x with allowance := x.allowance - 1 }).objOf k = s.objOf k := fun _ => rfl
    unfold vs plates State.versionGiven
    simp only [same]
    cases found : s.objOf h with
    | none => simp [found]
    | some o => by_cases plate : o.cls = 0 <;> simp [found, plate, List.eraseDups_cons]
  obtain ⟨objs, numbered⟩ := State.foldl_modObj_eq (s.modRing d.ring fun x => { x with allowance := x.allowance - 1 }) vs
    fun v o => { o with given := v.2 }
  have kept : next.ledger = given.ledger ++ [e] := rfl
  have numbered : given = { s.modRing d.ring fun x => { x with allowance := x.allowance - 1 } with objs := objs } := numbered
  obtain ⟨_, _, logged⟩ := next.logRecord_logged 0x01 false d.ring d.seq
    (wordBytes d.words ++ leBytes 4 (d.count % 2 ^ ((next.ring d.ring).sizeLog + 6)))
  rw [logged]
  change next.ledger = _
  rw [kept, numbered, ← numbers]
  rfl

/-- A descriptor that writes one surface is accepted under the number that the surface gives next (R129). -/
theorem State.admitNew_surface (s : State) (d : Desc) (job : Job) (h : Nat) :
    ∃ objs, (s.entered d (s.newEntry d job (s.versionGiven h)) objs).Logged (s.admitNew d job [h]) := by
  obtain ⟨vs, objs, -, entered⟩ := s.admitNew_logged d job [h]
  have ledger : (s.admitNew d job [h]).ledger = s.ledger ++ [s.newEntry d job vs] := by
    obtain ⟨_, _, frame⟩ := entered
    rw [frame]
    rfl
  have numbers : vs = s.versionGiven h := by
    rw [s.admitNew_ledger] at ledger
    exact (congrArg (fun e : List Entry => (e.map (·.versions)).head?) (List.append_cancel_left ledger) |> Option.some.inj).symm
  exact ⟨objs, numbers ▸ entered⟩

/-! ### The end of a load (R131, R132, R600) -/

/-- The source that host memory returned enters the log (R521). -/
def State.logSource (s : State) (d : Desc) (data : HostRead) : State := if d.w 3 = 0 then s.logData d 0 data.bytes else s

theorem State.logSource_logged (s : State) (d : Desc) (data : HostRead) : s.Logged (s.logSource d data) := by
  unfold State.logSource
  split
  · exact s.logData_logged _ _ _
  · exact .refl s

/-- Which source a load reads, and whether its storage is poisoned, rests on nothing that the log changes. -/
theorem State.Logged.loadSource {s t : State} (h : s.Logged t) (d : Desc) (data : HostRead) :
    t.loadSource d data = s.loadSource d data ∧ t.sourcePoisoned d = s.sourcePoisoned d := by
  obtain ⟨_, _, rfl⟩ := h
  exact ⟨rfl, rfl⟩

/-- A plate surface's outcome is put in place without a word to the host. -/
theorem Completing.settle {s : State} {id : Nat} {e : Entry} (h : Completing s id e) {o : Obj} (plate : o.cls = 0) (status : Nat)
    (bytes : Tab Byte) (written : List Nat) (f : Fail) (r0 r1 : Nat) :
    Completed s ((s.settle e o status bytes written []).finish id f r0 r1) e false f r0 r1 := by
  have placed : ∃ o', s.settle e o status bytes written [] = s.setObj o' := ⟨_, if_pos plate⟩
  obtain ⟨o', placed⟩ := placed
  have still : Completing (s.setObj o') id e := ⟨h.here, h.loud, h.own, h.live⟩
  rw [placed]
  exact State.finish_completed still f r0 r1

section LoadDone

variable {s : State} {e : Entry} {o : Obj} {n : Nat} {data : HostRead} (own : Completing s e.id e)
  (here : s.objOf (e.desc.w 2) = some o)
include own here

theorem State.loadDone_lost {reason : Nat} (lost : o.lost = some reason) :
    Completed s (s.loadDone e n data) e false (stDataLost, det reason 2) 0 0 := by
  have ends : s.loadDone e n data = s.finish e.id (stDataLost, det reason 2) 0 0 := by
    simp [State.loadDone, here, Obj.lostAt, lost]
  rw [ends]
  exact State.finish_completed own _ _ _

variable {src : (Nat → Byte) × Nat} {fail : Option ReadFail} {rows : Nat} (sound : o.lost = none)
  (source : s.loadSource e.desc data = src) (failed : (if e.desc.w 3 = 0 then data.fail else none) = fail)
  (lines : (if fail.isSome then e.desc.rowsWithin src.2 data.bytes.length else e.desc.dstH) = rows)
include sound source failed lines

theorem State.loadDone_bad (bad : sourceBad src.1 src.2 e.desc rows = true ∨ s.sourcePoisoned e.desc rows = true) :
    Completed s (s.loadDone e n data) e false (stCheckMismatch, 0) (e.versionOf o.handle) 0 := by
  have logged := s.logSource_logged e.desc data
  obtain ⟨read, poison⟩ := logged.loadSource e.desc data
  have ends : s.loadDone e n data = (s.logSource e.desc data).finish e.id (stCheckMismatch, 0) (e.versionOf o.handle) 0 := by
    subst source failed lines
    unfold State.logSource at read poison ⊢
    simp [State.loadDone, here, Obj.lostAt, sound, read, poison, bad]
  rw [ends]
  exact logged.completed (State.finish_completed (own.of_logged logged) _ _ _)

/-- A source without a fault gives the surface its outcome: TIMEOUT when host memory failed, and OK. -/
theorem State.loadDone_good (plate : o.cls = 0)
    (good : ¬(sourceBad src.1 src.2 e.desc rows = true ∨ s.sourcePoisoned e.desc rows = true)) :
    (∀ f, fail = some f → Completed s (s.loadDone e n data) e false (stTimeout, det f.code 0) (e.versionOf o.handle) 0) ∧
    (fail = none → Completed s (s.loadDone e n data) e false (stOk, n * 256) (e.versionOf o.handle)
      ((n - 1) * e.desc.srcH * pixelBits e.desc.srcFormat)) := by
  have logged := s.logSource_logged e.desc data
  obtain ⟨read, poison⟩ := logged.loadSource e.desc data
  have ends : ∃ bytes written, s.loadDone e n data = match fail with
      | some f => ((s.logSource e.desc data).settle e o stTimeout bytes written []).finish e.id (timeoutOf f) (e.versionOf o.handle) 0
      | none => ((s.logSource e.desc data).settle e o stOk bytes written []).finish e.id (stOk, n * 256) (e.versionOf o.handle)
          ((n - 1) * e.desc.srcH * pixelBits e.desc.srcFormat) := by
    subst source failed lines
    unfold State.logSource at read poison ⊢
    simp only [State.loadDone, here, Obj.lostAt, sound, Option.map_none, read, poison]
    rw [if_neg (by simpa using good)]
    exact ⟨_, _, rfl⟩
  obtain ⟨bytes, written, ends⟩ := ends
  rw [ends]
  refine ⟨fun f bad => ?_, fun fine => ?_⟩
  · subst bad
    exact logged.completed ((own.of_logged logged).settle plate _ _ _ _ _ _)
  · subst fine
    exact logged.completed ((own.of_logged logged).settle plate _ _ _ _ _ _)

end LoadDone

/-! ### Starts and strips (R175) -/

/-- The job is the load's again with one strip fewer to wait for. -/
theorem State.nextStrip_free {s : State} {e : Entry} {n waiting k : Nat} {scalers : List Nat} (job : e.job = .load n scalers (waiting + 1))
    (free : (List.range 8).find? (fun k => !(s.busyScalers.contains k)) = some k) :
    s.nextStrip e = s.modEntry e.id fun x => { x with job := .load n (scalers ++ [k]) waiting } := by
  simp only [State.nextStrip, job, free]
  rfl

section TakeScaler

variable {s : State} {id : Nat} {e : Entry} (here : s.entry id = some e) (op : e.desc.opcode = opPlateLoad)
  (awake : s.inEbb .scalers = false) (first : (s.before e).any (fun x => x.wantsScaler && s.noWait x) = false)
include here op awake first

theorem exec_plateLoadStart_fresh (waiting : e.started = false) (room : s.busyScalers.length < 8) :
    exec (.plateLoadStart id) s = .next (s.startIf id startLoad) := by
  have named := State.id_of_entry here
  have takes : s.takeScaler e = s.startIf id startLoad := by
    simp only [State.takeScaler, first, waiting, room, named]
    rfl
  change execPlateLoadStart id s = _
  simp [execPlateLoadStart, here, op, awake, takes]

theorem exec_plateLoadStart_strip (started : e.started = true) : exec (.plateLoadStart id) s = .next (s.nextStrip e) := by
  have takes : s.takeScaler e = s.nextStrip e := by
    simp only [State.takeScaler, first, started]
    rfl
  change execPlateLoadStart id s = _
  simp [execPlateLoadStart, here, op, awake, takes]

end TakeScaler

/-- Settles O28: a load is accepted under its number, starts on a free scaler strip by strip, and ends as its source allows. -/
theorem plateLoads : Obligations.PlateLoads := by
  refine fun s canon => ⟨fun r d taken sound => ?_, fun id e here op waiting free awake first room sound => ?_,
    fun id n waiting scalers e k here op started job awake first free => ?_, fun id n scalers e o data own job here plate => ?_⟩
  · have ran : exec (.plateLoad r) s = .next (s.admitNew d .plain [d.w 2]).run := by
      refine congrArg Host.Outcome.next ((State.withCur_taken taken _).trans (congrArg State.run ?_))
      simp only [sound]
    obtain ⟨_, entered⟩ := s.admitNew_surface d .plain (d.w 2)
    obtain ⟨_, _, _, moved⟩ := (s.admitNew d .plain [d.w 2]).run_engineMoved
    obtain ⟨_, _, frame⟩ := entered
    rw [moved, frame] at ran
    exact ⟨_, ran, rfl, rfl, rfl⟩
  · rw [exec_plateLoadStart_fresh here op awake first waiting room, State.startIf_starts here waiting free sound]
  · obtain rfl := State.id_of_entry here
    refine ⟨_, exec_plateLoadStart_strip here op awake first started, ?_⟩
    rw [State.nextStrip_free job free]
    exact ⟨State.entry_modEntry_self (by exact fun _ => rfl) here,
      fun j other => State.entry_modEntry_ne (by exact fun _ => rfl) s other, rfl⟩
  · obtain rfl := State.id_of_entry own.here
    have ran : exec (.plateLoadDone e.id data) s = .next (s.loadDone e n data) := by
      change execPlateLoadDone e.id data s = _
      simp [execPlateLoadDone, own.here, job]
    refine ⟨fun reason lost => ⟨_, ran, State.loadDone_lost own here lost⟩,
      fun kept => ⟨fun bad => ?_, fun good f bad => ?_, fun good fine => ?_⟩⟩
    · exact ⟨_, ran, State.loadDone_bad own here kept rfl rfl rfl bad⟩
    · exact ⟨_, ran, (State.loadDone_good own here kept rfl rfl rfl plate good).1 f bad⟩
    · exact ⟨_, ran, (State.loadDone_good own here kept rfl rfl rfl plate good).2 fine⟩

end Sys2Proof.Machine

/-! SCENE_COMMIT at its acceptance, and the pin of its tone curve (O33). -/

namespace Sys2Proof.Machine

/-! ### A descriptor refused at its acceptance (R96) -/

/-- While the device may write, a refusal changes the ring that held the descriptor and sends its record. -/
theorem State.reject_live {s : State} (live : s.flt.fatalHold = false) (d : Desc) (f : Fail) :
    ∃ rings, s.reject d f = { s with rings := rings, egress := s.egress ++ s.completion d false f 0 0 } := by
  have issued : (s.setRing d.ring { s.ring d.ring with cur := none }).completionAt d s.tideNs false f 0 0 = s.completion d false f 0 0 :=
    State.completionAt_setRing (x := { s.ring d.ring with cur := none }) ⟨rfl, rfl, rfl⟩ d s.tideNs false f 0 0
  refine ⟨tabPut s.rings d.ring { s.ring d.ring with cur := none }, ?_⟩
  unfold State.reject
  rw [State.modRing, State.writeCpl_live (by exact live)]
  exact congrArg (fun sent => ({ s with
    rings := tabPut s.rings d.ring { s.ring d.ring with cur := none }, egress := s.egress ++ sent } : State)) issued

/-! ### What an accepted scene or mode ends (R462, R567) -/

/-- State `t` is `s` but for what the end of the boot-plate state may change: a Tide step that was armed is cancelled with its record. -/
structure State.BootEnded (s t : State) : Prop where
  frame : ∃ power tide regs flt, t = { s with power := power, tide := tide, regs := regs, flt := flt }

theorem State.hostScene_bootEnded (s : State) : s.BootEnded s.hostScene := by
  unfold State.hostScene State.cancelStep
  split
  · split
    · exact ⟨_, _, _, _, rfl⟩
    · exact ⟨_, _, _, _, rfl⟩
  · exact ⟨_, _, _, _, rfl⟩

theorem State.hostScene_bootState (s : State) : s.hostScene.power.bootState = false := by
  unfold State.hostScene State.cancelStep
  split
  · split
    · rfl
    · rfl
  · next off => exact Bool.eq_false_iff.2 off

theorem State.hostScene_idle {s : State} (off : s.power.bootState = false) : s.hostScene = s := by
  simp [State.hostScene, off]

/-! ### Pending commits (R163, R164) -/

/-- A commit looked at again may become ready, and is otherwise as it was. -/
theorem State.refreshCommit_rest (s : State) (c : Commit) (r : Option Nat) :
    { s.refreshCommit c with readyAt := r } = { c with readyAt := r } := by
  unfold State.refreshCommit
  split
  · rfl
  · rfl

theorem State.refreshCommit_id (s : State) (c : Commit) : (s.refreshCommit c).id = c.id := by
  have same := congrArg Commit.id (s.refreshCommit_rest c none)
  exact same

theorem State.refreshCommit_pin (s : State) (c : Commit) : (s.refreshCommit c).pin = c.pin := by
  have same := congrArg Commit.pin (s.refreshCommit_rest c none)
  exact same

theorem State.refreshCommits_port (s : State) (p : Nat) :
    s.refreshCommits.port p = { s.port p with commits := (s.port p).commits.map s.refreshCommit } :=
  State.port_of_mapCommits rfl p

/-- The ids of the commits of a port stay as they are while the commits are looked at again. -/
theorem State.refreshCommits_ids (s : State) (p : Nat) :
    (s.refreshCommits.port p).commits.map (·.id) = (s.port p).commits.map (·.id) := by
  rw [State.refreshCommits_port, List.map_map]
  exact List.map_congr_left fun c _ => s.refreshCommit_id c

/-- The port with one more pending commit, and the tables that are bound to it (R295). -/
def Port.joined (q : Port) (c : Commit) : Port :=
  { q with commits := q.commits ++ [c], sigTables := bindTables c.ring c.id q.sigTables }

theorem State.queueCommit_eq (s : State) (p : Nat) (c : Commit) :
    s.queueCommit p c = (s.modPort p fun q => q.joined c).refreshCommits := rfl

/-- The commit that has been queued stands last in its port, and every other port has the commits that it had. -/
theorem State.queueCommit_commits (s : State) (p : Nat) (c : Commit) :
    ((s.queueCommit p c).port p).commits.map (·.id) = (s.port p).commits.map (·.id) ++ [c.id] ∧
    (∃ x, ((s.queueCommit p c).port p).commits.getLast? = some x ∧ { x with readyAt := c.readyAt } = c) ∧
    ∀ q, q ≠ p → ((s.queueCommit p c).port q).commits.map (·.id) = (s.port q).commits.map (·.id) := by
  rw [State.queueCommit_eq]
  refine ⟨?_, ⟨(s.modPort p fun q => q.joined c).refreshCommit c, ?_, State.refreshCommit_rest _ c c.readyAt⟩, fun q other => ?_⟩
  · rw [State.refreshCommits_ids, State.port_modPort]
    exact List.map_append
  · rw [State.refreshCommits_port, State.port_modPort]
    simp [Port.joined]
  · rw [State.refreshCommits_ids, State.port_modPort_ne _ _ other]

/-! ### Acceptance (R96, R160 to R164) -/

/-- A descriptor that writes no surface is accepted with its job. -/
theorem State.admitNew_job (s : State) (d : Desc) (job : Job) :
    (s.entered d (s.newEntry d job []) s.objs).Logged (s.admitNew d job []) := by
  obtain ⟨vs, objs, plain, entered⟩ := s.admitNew_logged d job []
  obtain ⟨rfl, rfl⟩ := plain rfl
  exact entered

/-- The state as the scene table is being read (R24, R160). -/
def State.askScene (s : State) (d : Desc) : State := s.emit (.readRequest d.fn (d.addr 3) (64 * d.f 5 4 0) (.table d.ring))

theorem exec_sceneCommit {s : State} {r : Fin 128} {d : Desc} (taken : Taken s r opSceneCommit d) (table : HostRead) :
    exec (.sceneCommit r table) s = .next (State.run (match s.sceneFail d table with
      | some f => (s.askScene d).reject d f
      | none => (s.askScene d).acceptCommit d table false)) :=
  congrArg Host.Outcome.next (State.withCur_taken taken _)

/-- A commit that fails its checks completes at once, behind the read of its table. -/
theorem sceneCommit_fails {s : State} {r : Fin 128} {d : Desc} {table : HostRead} (taken : Taken s r opSceneCommit d)
    (live : s.flt.fatalHold = false) {f : Fail} (bad : s.sceneFail d table = some f) :
    ∃ t, exec (.sceneCommit r table) s = .next t ∧ t.ledger = s.ledger ∧
      (s.askScene d).egress ++ s.completion d false f 0 0 <+: t.egress ∧
      { t with rings := s.rings, egress := s.egress, turnAt := s.turnAt } = s := by
  have ran := exec_sceneCommit taken table
  obtain ⟨_, refused⟩ := State.reject_live (s := s.askScene d) live d f
  obtain ⟨_, _, _, moved⟩ := ((s.askScene d).reject d f).run_engineMoved
  rw [bad] at ran
  rw [refused] at moved
  exact ⟨_, ran.trans (congrArg _ ((congrArg State.run refused).trans moved)), rfl, List.prefix_append _ _, rfl⟩

/-- The handles that an accepted commit names: its surfaces, and its tone curve if it has one (R155, R163). -/
def Commit.handles (c : Commit) : List Nat := (sceneNames c.entries).map (·.1) ++ if c.tone = 0 then [] else [c.tone]

/-- The state in which an accepted commit joins its port's queue: its slot is given, and the boot-plate state is over. -/
theorem State.acceptCommit_eq (s : State) (d : Desc) (table : HostRead) : ∃ (u : State) (hs : List Nat),
    s.acceptCommit d table false = u.queueCommit (d.f 2 1 0) (s.newCommit d table) ∧ u.ports = s.ports ∧
      u.ledger = s.ledger ++ [s.newEntry d (.commit hs) []] ∧ u.power.bootState = false := by
  have entered := s.admitNew_job d (.commit (s.newCommit d table).handles)
  have bootOver := (s.admitNew d (.commit (s.newCommit d table).handles) []).hostScene_bootState
  have ended := (s.admitNew d (.commit (s.newCommit d table).handles) []).hostScene_bootEnded
  have logged := (s.admitNew d (.commit (s.newCommit d table).handles) []).hostScene.logData_logged d 0 table.bytes
  refine ⟨(s.admitNew d (.commit (s.newCommit d table).handles) []).hostScene.logData d 0 table.bytes,
    (s.newCommit d table).handles, rfl, ?_⟩
  generalize (s.admitNew d (.commit (s.newCommit d table).handles) []).hostScene.logData d 0 table.bytes = u at logged ⊢
  generalize (s.admitNew d (.commit (s.newCommit d table).handles) []).hostScene = v at bootOver ended logged
  obtain ⟨_, _, rfl⟩ := logged
  obtain ⟨_, _, _, _, rfl⟩ := ended
  obtain ⟨_, _, entered⟩ := entered
  rw [entered]
  exact ⟨rfl, rfl, bootOver⟩

/-! ### The pin of a tone curve (R163) -/

/-- A commit with another pin. -/
def Commit.pinned (id : Nat) (pin : TonePin) (c : Commit) : Commit := if c.id = id then { c with pin := pin } else c

theorem Commit.pinned_pin {id : Nat} {pin : TonePin} {c : Commit} (h : (c.pinned id pin).id = id) : (c.pinned id pin).pin = pin := by
  unfold Commit.pinned at h ⊢
  split at h
  · next here => rw [if_pos here]
  · next other => exact absurd h other

theorem State.setPin_port (s : State) (id : Nat) (pin : TonePin) (p : Nat) :
    (s.setPin id pin).port p = { s.port p with commits := (s.port p).commits.map (Commit.pinned id pin) } :=
  State.port_of_mapCommits rfl p

theorem exec_toneCurvePin {s : State} {id : Nat} {c : Commit} {e : Entry}
    (pending : (s.ports.flatMap fun x => x.2.commits).find? (fun c => decide (c.id = id)) = some c) (waits : c.pin = .waiting)
    (here : s.entry id = some e) (free : s.noWait e = true) :
    exec (.toneCurvePin id) s = .next (s.setPin id (s.pinTone c.tone)).refreshCommits := by
  change Host.Outcome.next (s.tonePin id) = _
  simp [State.tonePin, pending, waits, here, free]

/-- Settles O33: a commit is refused or joins its port's queue, and its curve is pinned once. -/
theorem sceneCommits : Obligations.SceneCommits := by
  refine fun s canon => ⟨fun r d table taken => ⟨fun f bad live => ?_, fun sound => ?_⟩, fun id c e pending waits here free => ?_⟩
  · have refused := sceneCommit_fails (table := table) taken live bad
    rw [State.askScene, taken.home] at refused
    exact refused
  · have ran := exec_sceneCommit taken table
    obtain ⟨u, hs, queues, ports, ledger, bootOver⟩ := (s.askScene d).acceptCommit_eq d table
    obtain ⟨ids, ⟨x, last, fresh⟩, others⟩ := u.queueCommit_commits (d.f 2 1 0) ((s.askScene d).newCommit d table)
    obtain ⟨_, _, _, moved⟩ := (u.queueCommit (d.f 2 1 0) ((s.askScene d).newCommit d table)).run_engineMoved
    have port : ∀ q, u.port q = s.port q := fun q => congrArg (fun t => tabGet Port.reset t q) ports
    rw [sound, queues, moved] at ran
    refine ⟨_, _, x, ran, ledger, rfl, rfl, rfl, bootOver, ?_, last, fresh, fun q other => ?_⟩
    · exact ids.trans (by rw [port]; rfl)
    · exact (others q other).trans (by rw [port])
  · refine ⟨_, exec_toneCurvePin pending waits here free, fun q x mem named => ?_, fun q => ?_, rfl⟩
    · rw [State.refreshCommits_port, State.setPin_port] at mem
      obtain ⟨y, member, rfl⟩ := List.mem_map.1 mem
      obtain ⟨z, -, rfl⟩ := List.mem_map.1 member
      rw [State.refreshCommit_id] at named
      rw [State.refreshCommit_pin, Commit.pinned_pin named]
    · rw [State.refreshCommits_port, State.setPin_port]

end Sys2Proof.Machine

/-! MODE_SET at its acceptance, on a port that runs and on one that is stopped (O35). -/

namespace Sys2Proof.Machine

/-! ### What the log leaves of the role (R511, R515) -/

theorem State.cwaySend_role (s : State) (type : Nat) (last : Bool) (ring dseq : Nat) (body : List Byte) :
    (s.cwaySend type last ring dseq body).cway.role = s.cway.role ∧
      (s.cwaySend type last ring dseq body).cway.helloBy = s.cway.helloBy := by
  unfold State.cwaySend
  split
  · exact ⟨rfl, rfl⟩
  · exact ⟨rfl, rfl⟩

theorem State.breakLog_role (s : State) : s.breakLog.cway.role = s.cway.role ∧ s.breakLog.cway.helloBy = s.cway.helloBy := by
  unfold State.breakLog
  split
  · rw [State.count_cway]
    exact ⟨rfl, rfl⟩
  · exact ⟨rfl, rfl⟩

theorem State.logRecord_role (s : State) (type : Nat) (last : Bool) (ring dseq : Nat) (body : List Byte) :
    (s.logRecord type last ring dseq body).cway.role = s.cway.role ∧
      (s.logRecord type last ring dseq body).cway.helloBy = s.cway.helloBy := by
  unfold State.logRecord
  split
  · split
    · exact s.breakLog_role
    · extract_lets seq bs sent kept kb
      exact s.cwaySend_role type last ring dseq body
  · exact ⟨rfl, rfl⟩

theorem State.admitNew_role (s : State) (d : Desc) (job : Job) (surfaces : List Nat) :
    (s.admitNew d job surfaces).cway.role = s.cway.role ∧ (s.admitNew d job surfaces).cway.helloBy = s.cway.helloBy := by
  unfold State.admitNew State.accept
  extract_lets plates vs e given placed next
  obtain ⟨objs, numbered⟩ := State.foldl_modObj_eq (s.modRing d.ring fun x => { x with allowance := x.allowance - 1 }) vs
    fun v o => { o with given := v.2 }
  have kept : next.cway = s.cway := (congrArg State.cway numbered).trans rfl
  rw [← kept]
  exact next.logRecord_role _ _ _ _ _

/-! ### Links that move (R324, R364, R373, R526) -/

/-- The port without its link and the MODE packet that waits for its answer. -/
def Port.unlinked (x : Port) : Port := { x with link := Link.reset, modeWait := none }

/-- Of the ports, only links and the MODE packets that wait differ in `t` from `s`. -/
def State.LinksMoved (s t : State) : Prop := ∀ q, (t.port q).unlinked = (s.port q).unlinked

theorem State.LinksMoved.refl (s : State) : s.LinksMoved s := fun _ => rfl

theorem State.LinksMoved.trans {s t u : State} (h : s.LinksMoved t) (k : t.LinksMoved u) : s.LinksMoved u := fun q => (k q).trans (h q)

theorem State.LinksMoved.of_ports {s t : State} (h : t.ports = s.ports) : s.LinksMoved t := fun q => by
  rw [State.port, h]
  rfl

theorem State.modPort_linksMoved (s : State) (p : Nat) {f : Port → Port} (h : ∀ x, (f x).unlinked = x.unlinked) :
    s.LinksMoved (s.modPort p f) := fun q => by
  by_cases here : q = p
  · subst here
    rw [State.port_modPort, h]
  · rw [State.port_modPort_ne _ _ here]

theorem State.modLink_linksMoved (s : State) (p : Nat) (f : Link → Link) : s.LinksMoved (s.modLink p f) :=
  s.modPort_linksMoved p fun _ => rfl

theorem State.foldl_linksMoved {α : Type} (l : List α) (f : State → α → State) (h : ∀ (t : State) x, t.LinksMoved (f t x)) (s : State) :
    s.LinksMoved (l.foldl f s) :=
  List.foldlRecOn (motive := s.LinksMoved) l f (.refl s) fun t moved x _ => moved.trans (h t x)

theorem State.sendFree_linksMoved (s : State) (p : Nat) (x : LinkTx) : s.LinksMoved (s.sendFree p x) := by
  unfold State.sendFree
  split
  · extract_lets l fits
    split
    · exact s.modLink_linksMoved _ _
    · exact s.modLink_linksMoved _ _
  · exact s.modLink_linksMoved _ _

theorem State.sendClaim_linksMoved (s : State) (p : Nat) : s.LinksMoved (s.sendClaim p) := by
  unfold State.sendClaim
  split
  · exact (s.sendFree_linksMoved _ _).trans (State.modLink_linksMoved _ _ _)
  · exact .refl s

theorem State.wantLease_linksMoved (s : State) (p : Nat) : s.LinksMoved (s.wantLease p) := by
  unfold State.wantLease
  extract_lets l
  split
  · unfold State.startClaim
    extract_lets e
    split
    · exact .of_ports rfl
    · exact (s.modLink_linksMoved _ _).trans (State.sendClaim_linksMoved _ _)
  · exact .refl s

theorem State.announce_linksMoved (s : State) (p : Nat) (use : ModeUse) : s.LinksMoved (s.announce p use) := by
  have counted : s.LinksMoved (s.takeModeId p).2 := s.modLink_linksMoved _ _
  have sends : ∀ (t : State) gang m id, t.LinksMoved (t.sendModeFree p 0 gang m id) := fun t gang m id => by
    unfold State.sendModeFree
    split
    · exact t.sendFree_linksMoved _ _
    · exact .refl t
  exact (counted.trans (sends _ _ _ _)).trans (State.modPort_linksMoved _ _ fun _ => rfl)

theorem State.trainBlocks_linksMoved (s : State) (p : Nat) : s.LinksMoved (s.trainBlocks p) :=
  State.foldl_linksMoved _ _ (fun t _ => t.modLink_linksMoved _ _) s

theorem State.presetFfe_linksMoved (s : State) (p : Nat) : s.LinksMoved (s.presetFfe p) :=
  State.foldl_linksMoved _ _ (fun t _ => by
    dsimp only
    split
    · exact .refl t
    · exact .of_ports rfl) s

theorem State.startTraining_linksMoved (s : State) (p : Nat) : s.LinksMoved (s.startTraining p) :=
  ((((s.modLink_linksMoved p _).trans (State.modLink_linksMoved _ _ _)).trans (State.presetFfe_linksMoved _ _)).trans
    (State.modLink_linksMoved _ _ _)).trans (State.trainBlocks_linksMoved _ _)

theorem State.wake_linksMoved (s : State) (p : Nat) : s.LinksMoved (s.wake p) :=
  (s.modLink_linksMoved _ _).trans (State.trainBlocks_linksMoved _ _)

/-! ### A start begins (R324) -/

/-- The lanes of one port of a start are brought to L0, or its mode is announced. -/
def State.bringUp (s : State) (q : Nat) : State :=
  let l := (s.port q).link
  if !l.trained then s.startTraining q
  else if l.power = .l0 then ((s.modLink q fun x => { x with holdEnd := none }).wantLease q).announce q .start
  else if l.wakeTo.isSome then s
  else s.wake q

theorem State.bringUp_linksMoved (s : State) (q : Nat) : s.LinksMoved (s.bringUp q) := by
  unfold State.bringUp
  extract_lets l
  split
  · exact s.startTraining_linksMoved q
  · split
    · exact ((s.modLink_linksMoved _ _).trans (State.wantLease_linksMoved _ _)).trans (State.announce_linksMoved _ _ _)
    · split
      · exact .refl s
      · exact s.wake_linksMoved q

/-- A port that starts in the gang of the mask. -/
def Port.begins (x : Port) (mask : Nat) : Port := { x with phase := .starting, gang := mask, acked := false, modeWait := none }

/-- The port that a MODE_SET starts, with its mode to come and 1 s for it. -/
def Port.awaits (x : Port) (id : Nat) (m : Mode) (mask now : Nat) : Port :=
  { x with modeNext := some (m, mask), startBy := some (now + msTicks 1000), startId := some id, stopNext := none, changeDue := false }

/-- Ports changed one after the other by something that changes them once. -/
theorem State.foldl_modPort (l : List Nat) {f : Port → Port} (once : ∀ x, f (f x) = f x) (s : State) :
    (∃ ports, l.foldl (fun s q => s.modPort q f) s = { s with ports := ports }) ∧
    ∀ q, (l.foldl (fun s q => s.modPort q f) s).port q = if q ∈ l then f (s.port q) else s.port q := by
  induction l generalizing s with
  | nil => exact ⟨⟨_, rfl⟩, fun q => by simp⟩
  | cons k l ih =>
    obtain ⟨⟨ports, frame⟩, read⟩ := ih (s.modPort k f)
    refine ⟨⟨ports, frame⟩, fun q => (read q).trans ?_⟩
    by_cases here : q = k
    · subst here
      simp [once]
    · simp [here, State.port_modPort_ne s f here]

theorem State.cancelStep_ports (s : State) : s.cancelStep.ports = s.ports := by
  unfold State.cancelStep
  split
  · rfl
  · rfl

/-- Beside links and MODE packets, a start changes its ports' phase and gang, and the lead's mode to come. -/
theorem State.beginStart_linksMoved (s : State) (p id : Nat) (m : Mode) (mask : Nat) :
    ∃ u : State, u.LinksMoved (s.beginStart p (some id) m mask) ∧ ∀ q,
      let x := if q ∈ gangPorts p mask then (s.port q).begins mask else s.port q
      u.port q = if q = p then x.awaits id m mask s.now else x := by
  obtain ⟨⟨ports, frame⟩, read⟩ := State.foldl_modPort (gangPorts p mask) (f := fun x => x.begins mask) (fun _ => rfl) s
  generalize starting : (gangPorts p mask).foldl (fun s q => s.modPort q fun x => x.begins mask) s = t at frame read
  have begins : s.beginStart p (some id) m mask =
      (gangPorts p mask).foldl State.bringUp ((t.modPort p fun x => x.awaits id m mask t.now).begun id).cancelStep := by
    subst starting
    rfl
  refine ⟨t.modPort p fun x => x.awaits id m mask t.now, ?_, fun q => ?_⟩
  · rw [begins]
    have canceled : (t.modPort p fun x => x.awaits id m mask t.now).LinksMoved
        ((t.modPort p fun x => x.awaits id m mask t.now).begun id).cancelStep := .of_ports (State.cancelStep_ports _)
    exact canceled.trans (State.foldl_linksMoved _ _ (fun t q => t.bringUp_linksMoved q) _)
  · have clock : t.now = s.now := by rw [frame]
    by_cases here : q = p
    · subst here
      simp only [State.port_modPort, read, clock, if_true]
    · simp only [State.port_modPort_ne _ _ here, read, here, if_false]

/-! ### The queues of the ports (R323) -/

/-- The port does nothing with its queue: it is not stopped, or the queue is empty. -/
def Port.quiet (x : Port) : Prop := x.phase = .stopped → x.modeQueue = []

theorem State.kick_quiet {s : State} {p : Nat} (h : (s.port p).quiet) (n : Nat) : State.kick n p s = s := by
  cases n with
  | zero => rfl
  | succ n =>
    unfold State.kick
    split
    · rfl
    · next queued =>
      refine if_pos (.inl fun stopped => ?_)
      rw [h stopped] at queued
      exact absurd queued.symm (List.cons_ne_nil _ _)

theorem State.foldl_kick_quiet (l : List Nat) {s : State} (h : ∀ q ∈ l, (s.port q).quiet) :
    l.foldl (fun s p => State.kick ((s.port p).modeQueue.length + 1) p s) s = s := by
  induction l with
  | nil => rfl
  | cons k l ih =>
    rw [List.foldl_cons, State.kick_quiet (h k List.mem_cons_self)]
    exact ih fun q mem => h q (List.mem_cons_of_mem _ mem)

theorem State.kickAll_quiet {s : State} (h : ∀ q, q < 4 → (s.port q).quiet) : s.kickAll = s :=
  State.foldl_kick_quiet _ fun q mem => h q (List.mem_range.1 mem)

/-- When one port alone has something to take, and leaves the others nothing to do, it alone takes it. -/
theorem State.kickAll_only {s t : State} {p : Nat} (small : p < 4) (others : ∀ q, q < 4 → q ≠ p → (s.port q).quiet)
    (takes : State.kick ((s.port p).modeQueue.length + 1) p s = t) (after : ∀ q, q < 4 → (t.port q).quiet) : s.kickAll = t := by
  obtain ⟨before, rest, order, first⟩ := List.eq_append_cons_of_mem (List.mem_range.2 small)
  have within : ∀ q ∈ before ++ p :: rest, q < 4 := fun q mem => List.mem_range.1 (order ▸ mem)
  unfold State.kickAll forN
  rw [order, List.foldl_append, State.foldl_kick_quiet before fun q mem =>
    others q (within q (List.mem_append_left _ mem)) fun same => first (same ▸ mem)]
  refine (congrArg (fun u => List.foldl _ u rest) takes).trans ?_
  exact State.foldl_kick_quiet rest fun q mem => after q (within q (List.mem_append_right _ (List.mem_cons_of_mem _ mem)))

end Sys2Proof.Machine

/-! A MODE_SET that joins its port's queue, and one that a stopped port takes at once (O35). -/

namespace Sys2Proof.Machine

/-! ### The checks repeated as a MODE_SET takes effect (R328, R477) -/

/-- Those checks rest on the ports and on the registers of the presentation group. -/
theorem State.modeFailAgain_congr {s t : State} (ports : t.port = s.port)
    (regs : ∀ off, off ≠ 0x7008 → off ≠ 0x701C → t.reg off = s.reg off) (d : Desc) : t.modeFailAgain d = s.modeFailAgain d := by
  have group : t.groupPeriod = s.groupPeriod ∧ t.reg 0x8080 = s.reg 0x8080 := by
    refine ⟨?_, regs _ (by decide) (by decide)⟩
    rw [State.groupPeriod, State.groupPeriod, regs _ (by decide) (by decide), regs _ (by decide) (by decide)]
  obtain ⟨period, mask⟩ := group
  have lead : t.lead = s.lead := by
    funext p
    rw [State.lead, State.lead, ports]
  have members : t.members = s.members := by
    funext p
    unfold State.members
    rw [ports]
  have follower : t.follower = s.follower := by
    funext p
    rw [State.follower, State.follower, lead]
  have leaves : t.leaves = s.leaves := by
    funext p
    rw [State.leaves, State.leaves, follower, ports]
  have change : t.gangChange = s.gangChange := by
    funext p m
    unfold State.gangChange
    rw [follower, members, leaves]
  have busy : t.gangBusy = s.gangBusy := by
    funext p m
    unfold State.gangBusy
    rw [change, ports]
  have tight : t.tightest = s.tightest := by
    funext ps lt
    unfold State.tightest
    rw [ports]
  have fits : t.periodFits = s.periodFits := by
    funext m
    rw [State.periodFits, State.periodFits, period]
  have budget : t.budgetFail = s.budgetFail := by
    funext ps m
    rw [State.budgetFail, State.budgetFail, tight]
  have grouped : t.groupFail = s.groupFail := by
    funext p ps m
    rw [State.groupFail, State.groupFail, State.grouped, State.grouped, mask, period, fits, tight]
  rw [State.modeFailAgain, State.modeFailAgain, busy, budget, grouped]

/-- What a port is doing and is about to do does not rest on its link. -/
theorem Port.unlinked_fields {x y : Port} (h : x.unlinked = y.unlinked) : x.phase = y.phase ∧ x.gang = y.gang ∧
    x.modeQueue = y.modeQueue ∧ x.modeNext = y.modeNext ∧ x.startBy = y.startBy ∧ x.startId = y.startId :=
  ⟨(congrArg Port.phase h :), (congrArg Port.gang h :), (congrArg Port.modeQueue h :), (congrArg Port.modeNext h :),
    (congrArg Port.startBy h :), (congrArg Port.startId h :)⟩

/-! ### The queue of a port (R323) -/

/-- The port with another MODE_SET in its queue. -/
def Port.queued (x : Port) (id : Nat) : Port := { x with modeQueue := x.modeQueue ++ [id] }

/-- The port with nothing in its queue. -/
def Port.emptied (x : Port) : Port := { x with modeQueue := [] }

/-- A MODE_SET accepted: it stands in its port's queue, and the boot-plate state is over. -/
def State.modeQueued (s : State) (d : Desc) : State :=
  (s.admitNew d .plain []).hostScene.modPort d.modePort fun q => q.queued s.nextId

theorem State.acceptMode_eq (s : State) (d : Desc) : s.acceptMode d false = (s.modeQueued d).modeReady s.nextId := rfl

theorem State.modeQueued_rest (s : State) (d : Desc) :
    (s.modeQueued d).ledger = s.ledger ++ [s.newEntry d .plain []] ∧ (s.modeQueued d).power.bootState = false ∧
      (s.modeQueued d).port d.modePort = (s.port d.modePort).queued s.nextId ∧
      ∀ q, q ≠ d.modePort → (s.modeQueued d).port q = s.port q := by
  have entered := s.admitNew_plain d
  have ended := (s.admitNew d .plain []).hostScene_bootEnded
  have bootOver := (s.admitNew d .plain []).hostScene_bootState
  unfold State.modeQueued
  generalize (s.admitNew d .plain []).hostScene = t at ended bootOver
  generalize s.admitNew d .plain [] = a at entered ended
  obtain ⟨_, _, _, _, rfl⟩ := ended
  obtain ⟨_, _, rfl⟩ := entered
  exact ⟨rfl, bootOver, State.port_modPort _ _ _, fun q other => State.port_modPort_ne _ _ other⟩

/-- The entry notes that it waits for nothing any more. -/
def Entry.ready (e : Entry) (now : Nat) : Entry := { e with readyAt := some now }

theorem State.modeReady_eq {t : State} {id : Nat} {e : Entry} (here : t.entry id = some e) : t.modeReady id =
    (if e.readyAt.isNone && t.noWait e then t.modEntry id fun x => x.ready t.now else t).kickAll := by
  simp only [State.modeReady, here]
  rfl

theorem exec_modeSet {s : State} {r : Fin 128} {d : Desc} (taken : Taken s r opModeSet d) (sound : s.modeFail d = none) :
    exec (if d.stops then .modeSetStop r else .modeSet r) s = .next (s.acceptMode d false).run := by
  have takes : s.takeMode d = s.acceptMode d false := by simp only [State.takeMode, sound]
  cases stops : d.stops
  · refine congrArg Host.Outcome.next ((State.withCur_taken taken _).trans (congrArg State.run ?_))
    simp only [stops, takes, Bool.false_eq_true, if_false]
  · refine congrArg Host.Outcome.next ((State.withCur_taken taken _).trans (congrArg State.run ?_))
    simp only [stops, takes, if_true]

theorem Desc.modePort_lt (d : Desc) : d.modePort < 4 := by
  unfold Desc.modePort Desc.f fieldOf
  omega

/-- The clock stands still while a descriptor is accepted. -/
theorem State.admitNew_now (s : State) (d : Desc) : (s.admitNew d .plain []).now = s.now := by
  obtain ⟨_, _, frame⟩ := s.admitNew_plain d
  rw [frame]
  rfl

theorem State.modeQueued_now (s : State) (d : Desc) : (s.modeQueued d).now = s.now := by
  have ended := (s.admitNew d .plain []).hostScene_bootEnded
  have now := s.admitNew_now d
  unfold State.modeQueued
  generalize (s.admitNew d .plain []).hostScene = t at ended
  obtain ⟨_, _, _, _, rfl⟩ := ended
  exact now

/-! ### A port that is not stopped (R323) -/

section Waits

variable {s : State} {d : Desc} (canon : Canon s) (idle : ∀ q, q < 4 → (s.port q).phase = .stopped → (s.port q).modeQueue = [])
include idle

theorem State.modeQueued_quiet (runs : (s.port d.modePort).phase ≠ .stopped) (q : Nat) (small : q < 4) :
    ((s.modeQueued d).port q).quiet := by
  obtain ⟨-, -, joined, others⟩ := s.modeQueued_rest d
  by_cases here : q = d.modePort
  · rw [here, joined]
    exact fun stopped => absurd stopped runs
  · rw [others q here]
    exact idle q small

include canon

/-- A MODE_SET for such a port waits in its queue. -/
theorem modeSet_waits {r : Fin 128} (taken : Taken s r opModeSet d) (sound : s.modeFail d = none)
    (runs : (s.port d.modePort).phase ≠ .stopped) : ∃ t e, exec (if d.stops then .modeSetStop r else .modeSet r) s = .next t ∧
      t.ledger = s.ledger ++ [e] ∧ e.desc = d ∧ e.id = s.nextId ∧ t.power.bootState = false ∧
      t.port d.modePort = (s.port d.modePort).queued s.nextId ∧ ∀ q, q ≠ d.modePort → t.port q = s.port q := by
  have ran := exec_modeSet taken sound
  have quiet := State.modeQueued_quiet idle runs
  obtain ⟨ledger, bootOver, joined, others⟩ := s.modeQueued_rest d
  have here : (s.modeQueued d).entry s.nextId = some (s.newEntry d .plain []) := by
    rw [State.entry, ledger]
    exact find?_newSlot canon.ledger rfl
  rw [s.acceptMode_eq, State.modeReady_eq here] at ran
  generalize s.modeQueued d = t at ran quiet ledger bootOver joined others
  by_cases waits : ((s.newEntry d .plain []).readyAt.isNone && t.noWait (s.newEntry d .plain [])) = true
  · obtain ⟨_, _, _, moved⟩ := (t.modEntry s.nextId fun x => x.ready t.now).run_engineMoved
    rw [if_pos waits, State.kickAll_quiet (by exact quiet), moved] at ran
    refine ⟨_, (s.newEntry d .plain []).ready t.now, ran, ?_, rfl, rfl, bootOver, joined, others⟩
    exact (congrArg (List.map _) ledger).trans (map_newSlot canon.ledger rfl _)
  · obtain ⟨_, _, _, moved⟩ := t.run_engineMoved
    rw [if_neg waits, State.kickAll_quiet quiet, moved] at ran
    exact ⟨_, _, ran, ledger, rfl, rfl, bootOver, joined, others⟩

end Waits

/-! ### A stopped port (R323, R324, R326) -/

/-- The entry of a MODE_SET that waits for nothing as it is accepted. -/
def State.modeEntry (s : State) (d : Desc) : Entry := (s.newEntry d .plain []).ready s.now

/-- The MODE_SET ready at the head of its port's queue. -/
def State.modeWaits (s : State) (d : Desc) : State := (s.modeQueued d).modEntry s.nextId fun x => x.ready s.now

/-- The MODE_SET taken off its port's queue. -/
def State.modeTaken (s : State) (d : Desc) : State := (s.modeWaits d).modPort d.modePort Port.emptied

/-- A port takes the one MODE_SET of its queue. -/
theorem State.kick_takes {v : State} {p id : Nat} {e : Entry} (queue : (v.port p).modeQueue = [id])
    (stopped : (v.port p).phase = .stopped) (drives : v.cway.role.drives = true) (formed : v.formed = true) (here : v.entry id = some e)
    (free : v.noWait e = true) (clear : v.looping (gangPorts p e.desc.gangMask) = false) :
    State.kick ((v.port p).modeQueue.length + 1) p v =
      if e.desc.stops then
        State.kick 1 p ((v.modPort p Port.emptied).finish id (stOk, 0) (((v.modPort p Port.emptied).port p).frame % 2 ^ 32)
          (((v.modPort p Port.emptied).port p).frame / 2 ^ 32))
      else match (v.modPort p Port.emptied).modeFailAgain e.desc with
        | some f => State.kick 1 p ((v.modPort p Port.emptied).finish id f 0 0)
        | none => (v.modPort p Port.emptied).beginStart p (some id) e.desc.mode e.desc.gangMask := by
  rw [queue]
  conv_lhs => unfold State.kick
  simp only [queue, stopped, drives, formed, here, free, clear]
  rfl

section Stopped

variable {s : State} {d : Desc} (canon : Canon s) (idle : ∀ q, q < 4 → (s.port q).phase = .stopped → (s.port q).modeQueue = [])
  (stopped : (s.port d.modePort).phase = .stopped) (drives : s.cway.role.drives = true) (formed : s.formed = true)
  (booted : s.power.bootState = false) (clear : s.looping (gangPorts d.modePort d.gangMask) = false)
  (free : ∀ x ∈ s.ledger, (s.newEntry d .plain []).waitsFor x = false)

/-- In the state that a stopped port takes the MODE_SET in, all that its start or its completion goes by is as before. -/
structure State.TakesMode (s t : State) (d : Desc) : Prop where
  held : s.Holds t (s.modeEntry d)
  time : t.tideNs = s.tideNs
  now : t.now = s.now
  ports : t.port = s.port
  regs : ∀ off, off ≠ 0x7008 → off ≠ 0x701C → t.reg off = s.reg off

/-- The state in which the MODE_SET is ready at the head of the queue. -/
structure State.ModeAtHead (s t : State) (d : Desc) : Prop where
  entry : t.entry s.nextId = some (s.modeEntry d)
  before : t.before (s.modeEntry d) = s.ledger
  joined : t.port d.modePort = (s.port d.modePort).queued s.nextId
  others : ∀ q, q ≠ d.modePort → t.port q = s.port q
  drives : t.cway.role.drives = s.cway.role.drives
  formed : t.formed = s.formed

section Booted

include booted

theorem State.admitNew_booted : (s.admitNew d .plain []).power.bootState = false := by
  obtain ⟨_, _, frame⟩ := s.admitNew_plain d
  rw [frame]
  exact booted

theorem State.modeQueued_booted : s.modeQueued d = (s.admitNew d .plain []).modPort d.modePort fun q => q.queued s.nextId := by
  rw [State.modeQueued, State.hostScene_idle (State.admitNew_booted booted)]

end Booted

include canon booted

theorem State.modeWaits_atHead : s.ModeAtHead (s.modeWaits d) d := by
  obtain ⟨ledger, -, joined, others⟩ := s.modeQueued_rest d
  have here : (s.modeWaits d).ledger = s.ledger ++ [s.modeEntry d] :=
    (congrArg (List.map _) ledger).trans (map_newSlot canon.ledger rfl _)
  have role : (s.modeWaits d).cway = (s.admitNew d .plain []).cway := by
    rw [State.modeWaits, State.modeQueued_booted booted]
    generalize s.admitNew d .plain [] = a
    rfl
  obtain ⟨same, hello⟩ := s.admitNew_role d .plain []
  refine ⟨?_, ?_, joined, others, by rw [role, same], ?_⟩
  · rw [State.entry, here]
    exact find?_newSlot canon.ledger rfl
  · rw [State.before, here]
    exact filter_before_newSlot canon.ledger rfl
  · rw [State.formed, role, hello]
    rfl

include idle stopped

theorem State.modeTaken_port : (s.modeTaken d).port = s.port := by
  have head := State.modeWaits_atHead (d := d) canon booted
  funext q
  by_cases here : q = d.modePort
  · rw [here, State.modeTaken, State.port_modPort, head.joined, Port.emptied, Port.queued, ← idle _ d.modePort_lt stopped]
  · rw [State.modeTaken, State.port_modPort_ne _ _ here, head.others q here]

theorem State.modeTaken_takes : s.TakesMode (s.modeTaken d) d := by
  have entered := s.admitNew_plain d
  have held := State.holds_of_entered (e := s.newEntry d .plain []) rfl entered
  have time := State.tideNs_entered entered
  have regs := fun off => s.admitNew_reg d .plain [] (off := off)
  have now := s.admitNew_now d
  have ports := State.modeTaken_port canon idle stopped booted
  have ledger : (s.modeTaken d).ledger = s.ledger ++ [s.modeEntry d] :=
    (congrArg (List.map _) (s.modeQueued_rest d).1).trans (map_newSlot canon.ledger rfl _)
  have rest : ∃ l ps, s.modeTaken d = { s.admitNew d .plain [] with ledger := l, ports := ps } := by
    rw [State.modeTaken, State.modeWaits, State.modeQueued_booted booted]
    generalize s.admitNew d .plain [] = a
    exact ⟨_, _, rfl⟩
  obtain ⟨l, ps, rest⟩ := rest
  rw [rest] at ledger ports ⊢
  generalize s.admitNew d .plain [] = a at held time regs now ledger ports
  exact ⟨⟨ledger, held.egress, held.flt, held.place⟩, time, now, ports, regs⟩

include drives formed clear free

/-- The port takes the MODE_SET: a stop completes at once, and a start whose checks still pass begins. -/
theorem State.kick_mode : State.kick (((s.modeWaits d).port d.modePort).modeQueue.length + 1) d.modePort (s.modeWaits d) =
    if d.stops then
      State.kick 1 d.modePort ((s.modeTaken d).finish s.nextId (stOk, 0) ((s.port d.modePort).frame % 2 ^ 32)
        ((s.port d.modePort).frame / 2 ^ 32))
    else match s.modeFailAgain d with
      | some f => State.kick 1 d.modePort ((s.modeTaken d).finish s.nextId f 0 0)
      | none => (s.modeTaken d).beginStart d.modePort (some s.nextId) d.mode d.gangMask := by
  have head := State.modeWaits_atHead (d := d) canon booted
  have takes := State.modeTaken_takes canon idle stopped booted
  have queue : ((s.modeWaits d).port d.modePort).modeQueue = [s.nextId] := by
    rw [head.joined, Port.queued, idle _ d.modePort_lt stopped]
    rfl
  have resting : ((s.modeWaits d).port d.modePort).phase = .stopped := by
    rw [head.joined]
    exact stopped
  have ready : (s.modeWaits d).noWait (s.modeEntry d) = true := by
    rw [State.noWait, head.before]
    exact List.all_eq_true.2 fun x mem => Bool.not_eq_true' _ |>.mpr (free x mem)
  have quietLoop : (s.modeWaits d).looping (gangPorts d.modePort d.gangMask) = false := by
    have same : ∀ q, ((s.modeWaits d).port q).link = (s.port q).link := fun q => by
      by_cases here : q = d.modePort
      · rw [here, head.joined]
        rfl
      · rw [head.others q here]
    simp only [State.looping, same]
    exact clear
  rw [State.kick_takes queue resting (head.drives.trans drives) (head.formed.trans formed) head.entry ready quietLoop]
  have again : (s.modeTaken d).modeFailAgain d = s.modeFailAgain d := State.modeFailAgain_congr takes.ports takes.regs d
  have frame : ((s.modeTaken d).port d.modePort).frame = (s.port d.modePort).frame := by rw [takes.ports]
  have taken : (s.modeWaits d).modPort d.modePort Port.emptied = s.modeTaken d := rfl
  have own : (s.modeEntry d).desc = d := rfl
  rw [taken, own, again, frame]

omit stopped drives formed clear in
/-- What the acceptance comes to, when the port leaves no port anything more to take. -/
theorem State.acceptMode_taken {u : State}
    (takes : State.kick (((s.modeWaits d).port d.modePort).modeQueue.length + 1) d.modePort (s.modeWaits d) = u)
    (after : ∀ q, q < 4 → (u.port q).quiet) : s.acceptMode d false = u := by
  have head := State.modeWaits_atHead (d := d) canon booted
  have ledger := (s.modeQueued_rest d).1
  have here : (s.modeQueued d).entry s.nextId = some (s.newEntry d .plain []) := by
    rw [State.entry, ledger]
    exact find?_newSlot canon.ledger rfl
  have ready : (s.modeQueued d).noWait (s.newEntry d .plain []) = true := by
    rw [State.noWait, State.before, ledger, filter_before_newSlot canon.ledger rfl]
    exact List.all_eq_true.2 fun x mem => Bool.not_eq_true' _ |>.mpr (free x mem)
  rw [s.acceptMode_eq, State.modeReady_eq here, ready, s.modeQueued_now]
  refine State.kickAll_only (s := s.modeWaits d) d.modePort_lt (fun q small other => ?_) takes after
  rw [head.others q other]
  exact idle q small

/-- A stop on a stopped port completes at once, with the number of its last frame (R326). -/
theorem modeSet_stops {r : Fin 128} (taken : Taken s r opModeSet d) (sound : s.modeFail d = none) (stops : d.stops = true)
    (live : s.flt.fatalHold = false) : ∃ t, exec (if d.stops then .modeSetStop r else .modeSet r) s = .next t ∧ t.ledger = s.ledger ∧
      s.egress ++ s.completion d false (stOk, 0) ((s.port d.modePort).frame % 2 ^ 32) ((s.port d.modePort).frame / 2 ^ 32) <+: t.egress ∧
      (t.port d.modePort).phase = .stopped := by
  have ran := exec_modeSet taken sound
  have kicks := State.kick_mode canon idle stopped drives formed booted clear free
  rw [if_pos stops] at kicks
  have done := State.modeTaken_takes canon idle stopped booted
  generalize s.modeTaken d = w at kicks done
  generalize (s.port d.modePort).frame % 2 ^ 32 = r0 at kicks ⊢
  generalize (s.port d.modePort).frame / 2 ^ 32 = r1 at kicks ⊢
  obtain ⟨g, looked⟩ := w.finishAt_ports s.nextId w.tideNs false (stOk, 0) r0 r1
  have ports : ∀ q, (w.finish s.nextId (stOk, 0) r0 r1).port q = { s.port q with commits := (s.port q).commits.map g } := fun q => by
    rw [← done.ports]
    exact State.port_of_mapCommits looked q
  have quiet : ∀ q, q < 4 → ((w.finish s.nextId (stOk, 0) r0 r1).port q).quiet := fun q small => by
    rw [ports]
    exact idle q small
  rw [State.kick_quiet (quiet _ d.modePort_lt)] at kicks
  rw [State.acceptMode_taken canon idle booted free kicks quiet] at ran
  obtain ⟨_, _, _, _, _, _, _, _, ends⟩ := done.held.finish_run canon.ledger rfl rfl rfl live done.time (stOk, 0) r0 r1
  obtain ⟨_, _, _, moved⟩ := (w.finish s.nextId (stOk, 0) r0 r1).run_engineMoved
  refine ⟨_, ran, ?_, ?_, ?_⟩
  · rw [ends]
  · rw [ends]
    exact List.prefix_append _ _
  · rw [moved]
    exact (congrArg Port.phase (ports _)).trans stopped

/-- A stopped port begins the mode's start, and 1 s runs for it (R324, R330). -/
theorem modeSet_starts {r : Fin 128} (taken : Taken s r opModeSet d) (sound : s.modeFail d = none) (starts : d.stops = false)
    (again : s.modeFailAgain d = none) : ∃ t, exec (if d.stops then .modeSetStop r else .modeSet r) s = .next t ∧
      (t.port d.modePort).modeNext = some (d.mode, d.gangMask) ∧ (t.port d.modePort).startBy = some (s.now + msTicks 1000) ∧
      (t.port d.modePort).startId = some s.nextId ∧ (t.port d.modePort).modeQueue = [] ∧
      ∀ q ∈ gangPorts d.modePort d.gangMask, (t.port q).phase = .starting ∧ (t.port q).gang = d.gangMask := by
  have ran := exec_modeSet taken sound
  have kicks := State.kick_mode canon idle stopped drives formed booted clear free
  have done := State.modeTaken_takes canon idle stopped booted
  simp only [starts, again, Bool.false_eq_true, if_false] at kicks
  generalize s.modeTaken d = w at kicks done
  obtain ⟨u, moves, began⟩ := w.beginStart_linksMoved d.modePort s.nextId d.mode d.gangMask
  generalize w.beginStart d.modePort (some s.nextId) d.mode d.gangMask = v at kicks moves
  rw [done.ports, done.now] at began
  have begins : ∀ q ∈ gangPorts d.modePort d.gangMask, (u.port q).phase = .starting ∧ (u.port q).gang = d.gangMask := fun q member => by
    rw [began q, if_pos member]
    split
    · exact ⟨rfl, rfl⟩
    · exact ⟨rfl, rfl⟩
  have queues : ∀ q, (u.port q).modeQueue = (s.port q).modeQueue := fun q => by
    rw [began q]
    split_ifs <;> rfl
  have others : ∀ q, q ∉ gangPorts d.modePort d.gangMask → (u.port q).phase = (s.port q).phase := fun q outside => by
    rw [began q, if_neg outside]
    split
    · rfl
    · rfl
  have lead := began d.modePort
  simp only [if_true] at lead
  have quiet : ∀ q, q < 4 → (v.port q).quiet := fun q small => by
    obtain ⟨phase, -, queue, -⟩ := Port.unlinked_fields (moves q)
    intro rests
    rw [queue, queues]
    rw [phase] at rests
    by_cases member : q ∈ gangPorts d.modePort d.gangMask
    · rw [(begins q member).1] at rests
      exact PortPhase.noConfusion rests
    · exact idle q small ((others q member).symm.trans rests)
  rw [State.acceptMode_taken canon idle booted free kicks quiet] at ran
  obtain ⟨_, _, _, moved⟩ := v.run_engineMoved
  obtain ⟨-, -, queue, next, limit, id⟩ := Port.unlinked_fields (moves d.modePort)
  rw [moved] at ran
  refine ⟨_, ran, next.trans ?_, limit.trans ?_, id.trans ?_, queue.trans ?_, fun q member => ?_⟩
  · rw [lead]
    rfl
  · rw [lead]
    rfl
  · rw [lead]
    rfl
  · rw [queues]
    exact idle _ d.modePort_lt stopped
  · obtain ⟨phase, gang, -⟩ := Port.unlinked_fields (moves q)
    exact ⟨phase.trans (begins q member).1, gang.trans (begins q member).2⟩

end Stopped

/-- Settles O35: a MODE_SET waits on a port that runs; a stopped port takes it at once. -/
theorem modeSets : Obligations.ModeSets := by
  intro r d s canon taken sound idle
  refine ⟨fun runs => modeSet_waits canon idle taken sound runs, fun stopped drives formed booted clear free => ⟨fun stops live => ?_,
    fun starts again => ?_⟩⟩
  · exact modeSet_stops canon idle stopped drives formed booted clear free taken sound stops live
  · exact modeSet_starts canon idle stopped drives formed booted clear free taken sound starts again

end Sys2Proof.Machine

/-! The Harbourmaster: moves of tiles, lost objects, the end of a relocation and the peaks (O43). -/

namespace Sys2Proof.Machine

/-! ### What losing tiles leaves (R143, R145) -/

theorem State.objOf_setObj (s : State) (o : Obj) : (s.setObj o).objOf o.handle = some o := by
  simp [State.objOf, State.setObj, tabFind_put]

/-- A loss is counted, and no tile of the Harbourmaster's moves or changes. -/
theorem State.loseObj_harb (s : State) (c reason : Nat) (o : Obj) :
    ∃ n, (s.loseObj c reason o).harb = { s.harb with lostCount := n } := by
  unfold State.loseObj
  split
  · exact ⟨_, rfl⟩
  · exact ⟨_, rfl⟩

/-- An object not yet lost is lost for the reason given. -/
theorem State.loseObj_objOf (s : State) (c reason : Nat) {o : Obj} (sound : o.lost = none) :
    (s.loseObj c reason o).objOf o.handle = some { o with lost := some reason } := by
  rw [State.loseObj, if_neg (by simp [sound])]
  exact s.objOf_setObj { o with lost := some reason }

/-- The tile is unreadable from then on and stays at its place. -/
theorem State.loseTile_harb (s : State) (c reason tile : Nat) : ∃ n, (s.loseTile c reason tile).harb =
    { s.harb with unreadable := s.harb.unreadable ++ [tile], lostCount := n } := by
  unfold State.loseTile
  extract_lets harb unread
  split
  · exact unread.loseObj_harb c reason _
  · exact ⟨_, rfl⟩

/-- The owner of the tile is lost with it. -/
theorem State.loseTile_objOf {s : State} (c reason : Nat) {tile : Nat} {o : Obj} (owns : s.tileOwner tile = some o) (sound : o.lost = none) :
    (s.loseTile c reason tile).objOf o.handle = some { o with lost := some reason } := by
  unfold State.loseTile
  extract_lets harb unread
  have same : unread.tileOwner tile = some o := owns
  rw [same]
  exact unread.loseObj_objOf c reason sound

/-- Tiles lost in turn become unreadable in that order. -/
theorem State.foldl_loseTile_harb (c reason : Nat) (tiles : List Nat) (s : State) :
    ∃ n, (tiles.foldl (fun s t => s.loseTile c reason t) s).harb =
      { s.harb with unreadable := s.harb.unreadable ++ tiles, lostCount := n } := by
  induction tiles generalizing s with
  | nil => exact ⟨s.harb.lostCount, by rw [List.append_nil]; rfl⟩
  | cons t ts ih =>
    obtain ⟨_, one⟩ := s.loseTile_harb c reason t
    obtain ⟨n, rest⟩ := ih (s.loseTile c reason t)
    refine ⟨n, ?_⟩
    rw [List.foldl_cons, rest, one, List.append_assoc, List.singleton_append]

theorem State.foldl_loseTile_readNoted (c reason : Nat) (tiles : List Nat) (s : State) :
    s.ReadNoted (tiles.foldl (fun s t => s.loseTile c reason t) s) := by
  induction tiles generalizing s with
  | nil => exact .refl s
  | cons t ts ih => exact (s.loseTile_readNoted c reason t).trans (ih _)

/-- What losing tiles may bring leaves the DRAM channels alone. -/
theorem State.ReadNoted.chans {s t : State} (h : s.ReadNoted t) : t.chans = s.chans := by
  obtain ⟨_, _, _, _, rfl⟩ := h
  rfl

/-! ### A tile moves, or cannot be read (R128, R143, R144) -/

theorem State.halted_false {s : State} (live : s.flt.fatalHold = false) (cool : s.sense.tripped = false) : s.halted = false := by
  rw [State.halted, live, cool, Bool.or_false]

section Moves

variable {s : State} {tile : Nat} {src : Place} (running : s.halted = false) (here : tabFind s.harb.places tile = some src)
  (readable : s.harb.unreadable.contains tile = false) (turn : s.moveTurn tile src = true)

include running here readable turn

/-- A tile whose turn it is, and whose read succeeds, lives at a place that has room for it. -/
theorem State.moveTile_room {dest : Place} (room : s.roomAt src dest = true) :
    s.moveTile tile dest false = ({ s with harb := { s.harb with places := tabPut s.harb.places tile dest } }).peaks := by
  simp [State.moveTile, here, running, readable, turn, room, -List.contains_eq_mem]

/-- A tile of a retiring channel whose read fails is lost where it stands. -/
theorem State.moveTile_unreadable (dest : Place) {c : Fin 16} (onChannel : src = .dram c) (retiring : (s.chan c).phase = .retiring) :
    s.moveTile tile dest true = s.loseTile c 1 tile := by
  subst onChannel
  simp [State.moveTile, here, running, readable, turn, retiring, -List.contains_eq_mem]

end Moves

/-! ### The end of a relocation (R145, R148) -/

/-- A channel whose relocation has ended: powered down, and empty. -/
def Chan.poweredDown (ch : Chan) : Chan :=
  { ch with phase := .retired, queue := [], held := [], openRows := [], mem := [], exitFrom := none }

section Relocation

variable {s : State} {c : Nat} (running : s.halted = false) (relocates : s.harb.relocating.contains c = true)

include running relocates

/-- Once the readable tiles left on a channel are lost, it is no longer relocating, and it is powered down. -/
theorem State.endRelocation_ends (ends : s.readableTiles c = [] ∨ s.channelRoom = false) :
    let lost := (s.readableTiles c).foldl (fun s t => s.loseTile c 2 t) s
    s.endRelocation c =
      ({ lost with harb := { lost.harb with relocating := lost.harb.relocating.filter fun x => x ≠ c } }).modChan c Chan.poweredDown := by
  have stuck : ¬(s.readableTiles c ≠ [] ∧ s.channelRoom = true) := fun ⟨some_left, room⟩ =>
    ends.elim some_left fun full => by simp [full] at room
  rw [State.endRelocation, if_neg (by simp [running, List.contains_iff_mem.1 relocates, stuck])]
  rfl

theorem State.endRelocation_harb (ends : s.readableTiles c = [] ∨ s.channelRoom = false) :
    ∃ n, (s.endRelocation c).harb = { s.harb with
      unreadable := s.harb.unreadable ++ s.readableTiles c, lostCount := n, relocating := s.harb.relocating.filter fun x => x ≠ c } := by
  obtain ⟨n, harb⟩ := State.foldl_loseTile_harb c 2 (s.readableTiles c) s
  rw [State.endRelocation_ends running relocates ends]
  exact ⟨n, congrArg (fun h : Harb => { h with relocating := h.relocating.filter fun x => x ≠ c }) harb⟩

theorem State.endRelocation_chans (ends : s.readableTiles c = [] ∨ s.channelRoom = false) :
    (s.endRelocation c).chans = tabPut s.chans c (s.chan c).poweredDown := by
  have chans := (State.foldl_loseTile_readNoted c 2 (s.readableTiles c) s).chans
  rw [State.endRelocation_ends running relocates ends]
  exact congrArg (fun x => tabPut x c (tabGet Chan.reset x c).poweredDown) chans

/-- A relocation that ends on a channel without a readable tile changes the channels and the Harbourmaster only. -/
theorem State.endRelocation_frame (empty : s.readableTiles c = []) :
    { s.endRelocation c with chans := s.chans, harb := s.harb } = s := by
  rw [State.endRelocation_ends running relocates (.inl empty), empty]
  rfl

end Relocation

/-- Settles O43: a tile moves or becomes unreadable, a relocation ends, and the peaks are cleared. -/
theorem harbourmasterMoves : Obligations.HarbourmasterMoves := by
  intro s _ live cool
  have running := State.halted_false live cool
  refine ⟨fun tile src dest here readable turn room => ?_, fun tile c dest here readable turn retiring => ?_,
    fun c relocates ends => ?_, rfl⟩
  · refine ⟨_, congrArg Host.Outcome.next (State.moveTile_room running here readable turn room), ?_, fun k other => ?_, rfl⟩
    · exact tabFind_put s.harb.places tile dest
    · exact tabFind_put_ne s.harb.places dest other
  · refine ⟨_, congrArg Host.Outcome.next (State.moveTile_unreadable running here readable turn dest rfl retiring), ?_⟩
    obtain ⟨_, harb⟩ := s.loseTile_harb c 1 tile
    rw [harb]
    exact ⟨rfl, rfl, fun o owns sound => ⟨_, State.loseTile_objOf c 1 owns sound, rfl⟩⟩
  · have chans := State.endRelocation_chans running relocates ends
    have own : (s.endRelocation c).chan c = (s.chan c).poweredDown := by rw [State.chan, chans, tabGet_put]
    obtain ⟨_, harb⟩ := State.endRelocation_harb running relocates ends
    refine ⟨s.endRelocation c, rfl, congrArg Chan.phase own, congrArg Chan.queue own, fun k other => ?_, ?_⟩
    · rw [State.chan, chans, tabGet_put_ne _ _ _ other, State.chan]
    · rw [harb]
      exact ⟨rfl, rfl, rfl, State.endRelocation_frame running relocates⟩

end Sys2Proof.Machine

/-! The end of a capture frame, and the timers of slowed units (O46). -/

namespace Sys2Proof.Machine

/-! ### A set bit reads back (R7) -/

/-- A bit set in a number reads as set in the word that holds its low 32 bits. -/
theorem fieldOf_putField_one (x : Nat) {b : Nat} (low : b < 32) : fieldOf (putField x b b 1 % 2 ^ 32) b b = 1 := by
  have parts : putField x b b 1 = x % 2 ^ b + 2 ^ b * (2 * (x / 2 ^ (b + 1)) + 1) := by
    rw [putField, Nat.add_sub_cancel_left, pow_succ]
    ring
  have quotient : putField x b b 1 / 2 ^ b = 2 * (x / 2 ^ (b + 1)) + 1 := by
    rw [parts, Nat.add_mul_div_left _ _ (Nat.two_pow_pos b), Nat.div_eq_of_lt (Nat.mod_lt _ (Nat.two_pow_pos b)), Nat.zero_add]
  have bitSet : (putField x b b 1 % 2 ^ 32).testBit b = true := by
    rw [Nat.testBit_mod_two_pow, Nat.testBit_eq_decide_div_mod_eq, quotient]
    simp [low]
  rw [Nat.testBit_eq_decide_div_mod_eq, decide_eq_true_eq] at bitSet
  rw [fieldOf, Nat.shiftRight_eq_div_pow, Nat.add_sub_cancel_left]
  exact bitSet

theorem State.field_setBit {s : State} (sorted : tabSorted s.regs) (off : Nat) {b : Nat} (low : b < 32) :
    (s.setBit off b).field off b b = 1 := by
  have word : (s.setBit off b).reg off = putField (s.reg off) b b 1 % 2 ^ 32 := State.reg_setReg sorted off _
  rw [State.field, word, fieldOf_putField_one _ low]

/-! ### Records of failed header checks (R57) -/

/-- Records that are not FATAL wait for the end of their cycle, and that is all they do (R538). -/
theorem State.foldl_raise_raised {f : Nat → ErrRec} (mild : ∀ n, (f n).sev ≠ 3) (l : List Nat) (s : State) :
    ∃ raised, l.foldl (fun s n => s.raise (f n)) s = { s with flt := { s.flt with raised := raised } } := by
  induction l generalizing s with
  | nil => exact ⟨_, rfl⟩
  | cons n l ih =>
    have one : s.raise (f n) = s.raiseCore false (f n) := if_neg (mild n)
    obtain ⟨raised, rest⟩ := ih (s.raiseCore false (f n))
    exact ⟨raised, by rw [List.foldl_cons, one, rest]; rfl⟩

/-- A report names objects in the port's frames and raises records. -/
theorem State.reportBlocks_eq (s : State) (p frame : Nat) (bad : List Nat) : ∃ frames raised, s.reportBlocks p frame bad =
    { s.modPort p fun q => { q with frames := frames } with flt := { s.flt with raised := raised } } := by
  unfold State.reportBlocks
  extract_lets known new named
  obtain ⟨raised, records⟩ := State.foldl_raise_raised (f := fun h => err 1 0x04 0x01 (instP p 0) h frame 0)
    (fun _ => show (1 : Nat) ≠ 3 by decide) new named
  exact ⟨_, raised, records⟩

theorem State.reportBlocks_regs (s : State) (p frame : Nat) (bad : List Nat) : (s.reportBlocks p frame bad).regs = s.regs := by
  obtain ⟨_, _, reported⟩ := s.reportBlocks_eq p frame bad
  exact (congrArg State.regs reported :)

/-! ### What was not dropped is written (R197) -/

/-- The port has no capture frame in progress any more. -/
def State.captureOver (s : State) (p : Nat) : State := s.modPort p fun q => { q with capture := none }

theorem State.captureOver_port (s : State) (p : Nat) : (s.captureOver p).port p = { s.port p with capture := none } :=
  s.port_modPort p _

theorem State.captureOver_port_ne (s : State) {p q : Nat} (other : q ≠ p) : (s.captureOver p).port q = s.port q :=
  s.port_modPort_ne _ other

theorem State.captureContent_captureOver (s : State) (p : Nat) (f : FrameState) (c : Capture) (o : Obj) (dropped : List Nat) :
    (s.captureOver p).captureContent f c o dropped = s.captureContent f c o dropped := rfl

/-- State `t` is `s` after port `p`'s capture frame has ended with the surface `o`, but for its record: of the registers only the port's
capture status may have changed, and nothing more has left the device. -/
structure State.CaptureLanded (s t : State) (p : Nat) (o : Obj) : Prop where
  port : { t.port p with frames := (s.port p).frames } = { s.port p with capture := none }
  others : ∀ q, q ≠ p → t.port q = s.port q
  surface : t.objOf o.handle = some o
  words : ∀ off, off ≠ compBase p + 0x24 → t.reg off = s.reg off
  frame : { t with ports := s.ports, objs := s.objs, regs := s.regs, flt := s.flt } = s

/-- `truncated` is set when lines were dropped (R201). -/
def State.captureFlagged (s : State) (p lost : Nat) : State := if lost = 0 then s else s.setBit (compBase p + 0x24) 2

section Landed

variable {s t : State} {p : Nat} {o : Obj}

/-- The surface is written and its failed blocks are reported. -/
theorem State.captureLanded_reportBlocks (s : State) (p : Nat) (o : Obj) (frame : Nat) (bad : List Nat) :
    s.CaptureLanded (((s.captureOver p).setObj o).reportBlocks p frame bad) p o := by
  obtain ⟨frames, raised, reported⟩ := ((s.captureOver p).setObj o).reportBlocks_eq p frame bad
  rw [reported]
  have own : ((s.captureOver p).setObj o).port p = { s.port p with capture := none } := s.captureOver_port p
  have others : ∀ q, q ≠ p → ((s.captureOver p).setObj o).port q = s.port q := fun _ other => s.captureOver_port_ne other
  have surface : ((s.captureOver p).setObj o).objOf o.handle = some o := State.objOf_setObj _ o
  have frame : { (s.captureOver p).setObj o with ports := s.ports, objs := s.objs } = s := rfl
  have words : ∀ off, ((s.captureOver p).setObj o).reg off = s.reg off := fun _ => rfl
  generalize (s.captureOver p).setObj o = u at own others surface frame words
  refine ⟨?_, fun q other => ?_, surface, fun off _ => words off,
    congrArg (fun x : State => { x with regs := s.regs, flt := s.flt }) frame⟩
  · change { (u.modPort p fun q => { q with frames := frames }).port p with frames := (s.port p).frames } = _
    rw [State.port_modPort, own]
  · change (u.modPort p fun q => { q with frames := frames }).port q = s.port q
    rw [State.port_modPort_ne _ _ other, others q other]

theorem State.CaptureLanded.flagged (landed : s.CaptureLanded t p o) (lost : Nat) : s.CaptureLanded (t.captureFlagged p lost) p o := by
  unfold State.captureFlagged
  split
  · exact landed
  · exact ⟨landed.port, landed.others, landed.surface, fun off other => (t.reg_setBit_ne 2 other).trans (landed.words off other),
      landed.frame⟩

theorem State.CaptureLanded.egress (landed : s.CaptureLanded t p o) : t.egress = s.egress :=
  (congrArg State.egress landed.frame :)

theorem State.CaptureLanded.firstLineLeft (landed : s.CaptureLanded t p o) (n : Nat) :
    (t.port p).firstLineLeft n = (s.port p).firstLineLeft n := congrArg (fun q => q.firstLineLeft n) landed.port

/-- The time at which a frame's first line left stands in words of the scan-out's block. -/
theorem State.CaptureLanded.frameStartNs (landed : s.CaptureLanded t p o) (port : p < 4) : t.frameStartNs p = s.frameStartNs p := by
  have word : ∀ k ∈ [0x20, 0x24, 0x28], t.reg (0x5000 + 0x400 * p + k) = s.reg (0x5000 + 0x400 * p + k) := fun k mem =>
    landed.words _ (by
      simp only [List.mem_cons, List.not_mem_nil, or_false] at mem
      rw [compBase]
      omega)
  simp only [State.frameStartNs, word 0x20 (by decide), word 0x24 (by decide), word 0x28 (by decide)]

end Landed

/-! ### The record goes out, or waits (R201) -/

/-- With this sent so far, and with this for the capture record that waits. -/
def State.recorded (s : State) (p : Nat) (out : List Egress) (waits : Option (Capture × Nat × Nat)) : State :=
  ({ s with egress := out } : State).modPort p fun q => { q with capDone := waits }

theorem State.recorded_port (s : State) (p : Nat) (out : List Egress) (waits : Option (Capture × Nat × Nat)) :
    (s.recorded p out waits).port p = { s.port p with capDone := waits } := State.port_modPort _ p _

section Recorded

variable {s t : State} {p : Nat} {o : Obj} (landed : s.CaptureLanded t p o) (out : List Egress) (waits : Option (Capture × Nat × Nat))

include landed

theorem State.CaptureLanded.recorded_capture : ((t.recorded p out waits).port p).capture = none := by
  rw [State.recorded_port]
  exact congrArg Port.capture landed.port

theorem State.CaptureLanded.recorded_others (q : Nat) (other : q ≠ p) : (t.recorded p out waits).port q = s.port q := by
  rw [State.recorded, State.port_modPort_ne _ _ other]
  exact landed.others q other

theorem State.CaptureLanded.recorded_frame :
    { t.recorded p out waits with ports := s.ports, objs := s.objs, regs := s.regs, egress := s.egress, flt := s.flt } = s :=
  congrArg (fun x : State => { x with egress := s.egress }) landed.frame

end Recorded

/-! ### The end of a capture frame (R197, R201) -/

/-- The status of a capture that dropped these lines (R201). -/
def captureStatus (lines : List Nat) : Nat := if lines = [] then stOk else stTruncated

/-- The surface of a capture once the lines not dropped stand in it. -/
def State.capturedIn (s : State) (f : FrameState) (c : Capture) (o : Obj) (dropped : List Nat) : Obj :=
  o.setContent (s.captureContent f c o dropped.eraseDups).1

section End

variable {s : State} {p : Nat} {dropped : List Nat} {c : Capture} {o : Obj} {f : FrameState}

/-- Into a sound surface everything not dropped is written. -/
theorem State.writeCapture_sound (surface : s.objOf c.handle = some o) (framed : (s.port p).frameOf c.frame = some f)
    (sound : o.lost = none) (within : ∀ j ∈ dropped, j < o.height) : s.writeCapture p c dropped =
      (captureStatus dropped.eraseDups, dropped.eraseDups.length,
        (s.setObj (s.capturedIn f c o dropped)).reportBlocks p c.frame (s.captureContent f c o dropped.eraseDups).2) := by
  have all : (dropped.eraseDups.filter fun j => decide (j < o.height)) = dropped.eraseDups :=
    List.filter_eq_self.2 fun j mem => decide_eq_true (within j (List.mem_eraseDups.1 mem))
  simp only [State.writeCapture, surface, framed, Option.bind_some, Option.map_some, sound, Option.isSome_none, all, captureStatus,
    List.isEmpty_iff, State.capturedIn, Bool.false_eq_true, if_false]

/-- Once a capture frame has been written, its record goes out or waits. -/
theorem State.endCapture_written {t : State} {status lost : Nat} (captures : (s.port p).capture = some c)
    (written : (s.captureOver p).writeCapture p c dropped = (status, lost, t)) : s.endCapture p dropped =
      if ((t.captureFlagged p lost).port p).firstLineLeft c.frame then (t.captureFlagged p lost).captureRecord p c status lost
      else (t.captureFlagged p lost).modPort p fun q => { q with capDone := some (c, status, lost) } := by
  rw [State.captureOver] at written
  rw [State.endCapture, captures]
  dsimp only
  rw [written]
  rfl

variable (surface : s.objOf c.handle = some o) (framed : (s.port p).frameOf c.frame = some f) (sound : o.lost = none)
  (within : ∀ j ∈ dropped, j < o.height)

include surface framed sound within

theorem State.writeCapture_lands : ∃ t, s.CaptureLanded t p (s.capturedIn f c o dropped) ∧ t.regs = s.regs ∧
    (s.captureOver p).writeCapture p c dropped = (captureStatus dropped.eraseDups, dropped.eraseDups.length, t) := by
  refine ⟨_, s.captureLanded_reportBlocks p (s.capturedIn f c o dropped) c.frame (s.captureContent f c o dropped.eraseDups).2,
    State.reportBlocks_regs _ _ _ _, ?_⟩
  rw [State.writeCapture_sound (s := s.captureOver p) surface
    ((congrArg (fun q => q.frameOf c.frame) (s.captureOver_port p)).trans framed) sound within,
    State.capturedIn, State.captureContent_captureOver]
  rfl

/-- The capture's lines stand in its surface, `truncated` is set when some were dropped, and its record goes out or waits. -/
theorem State.endCapture_lands (port : p < 4) (sorted : tabSorted s.regs) (captures : (s.port p).capture = some c) :
    ∃ t, s.CaptureLanded t p (s.capturedIn f c o dropped) ∧ (dropped ≠ [] → t.field (compBase p + 0x24) 2 2 = 1) ∧
      s.endCapture p dropped =
        if (s.port p).firstLineLeft c.frame then
          t.recorded p (s.egress ++ [.data 0 (c.recAddr + 32 * (c.count % 16))
            (captureBytes c (captureStatus dropped.eraseDups) (satNat dropped.eraseDups.length 2048) (s.frameStartNs p)) 0]) none
        else t.recorded p s.egress (some (c, captureStatus dropped.eraseDups, dropped.eraseDups.length)) := by
  obtain ⟨t, landed, regs, written⟩ := State.writeCapture_lands surface framed sound within
  have flagged := landed.flagged dropped.eraseDups.length
  refine ⟨t.captureFlagged p dropped.eraseDups.length, flagged, fun some_dropped => ?_, ?_⟩
  · have counted : dropped.eraseDups.length ≠ 0 := fun zero => by
      obtain ⟨j, mem⟩ := List.exists_mem_of_ne_nil _ some_dropped
      exact List.not_mem_nil (List.length_eq_zero_iff.1 zero ▸ List.mem_eraseDups.2 mem)
    rw [State.captureFlagged, if_neg counted]
    exact State.field_setBit (regs ▸ sorted) _ (by decide)
  · rw [State.endCapture_written captures written, flagged.firstLineLeft, State.captureRecord, flagged.frameStartNs port,
      ← flagged.egress]
    rfl

end End

/-- Settles O46: a capture frame ends with what was not dropped in its surface, and a slowed unit changes over when its timer is due. -/
theorem weaveAndCaptures : Obligations.WeaveAndCaptures := by
  intro s canon
  refine ⟨fun p dropped c o f captures surface framed sound within => ?_, fun p dropped idle => ?_, fun u => ⟨_, rfl, rfl, rfl, rfl⟩⟩
  · obtain ⟨t, landed, truncated, ends⟩ := State.endCapture_lands surface framed sound within p.isLt canon.regs.1 captures
    have stands : t.objOf c.handle = some (s.capturedIn f c o dropped) := State.objOf_handle surface ▸ landed.surface
    have ran : exec (.captureFrameDone p dropped) s = .next (s.endCapture p dropped) := rfl
    rw [ends] at ran
    by_cases left : (s.port p).firstLineLeft c.frame = true
    · rw [if_pos left] at ran
      exact ⟨_, ran, landed.recorded_capture _ _, stands, truncated, fun _ => rfl, fun stays => absurd left (by simp [stays]),
        landed.recorded_others _ _, landed.recorded_frame _ _⟩
    · rw [if_neg left] at ran
      exact ⟨_, ran, landed.recorded_capture _ _, stands, truncated, fun goes => absurd goes left,
        fun _ => ⟨congrArg Port.capDone (t.recorded_port p _ _), rfl⟩, landed.recorded_others _ _, landed.recorded_frame _ _⟩
  · have stays : s.endCapture p dropped = s := by rw [State.endCapture, idle]
    exact congrArg Host.Outcome.next stays

end Sys2Proof.Machine

/-! The Weave: tiles abandoned and started, segments and witness tiles finished (O45). -/

namespace Sys2Proof.Machine

/-! ### The earliest of the tiles that wait (R222) -/

theorem earliest_mem {l : List (Nat × Nat × Option TileRow)} {x : Nat × Nat × Option TileRow} (first : earliest l = some x) : x ∈ l := by
  induction l with
  | nil => exact absurd first (by simp [earliest])
  | cons y l ih =>
    rw [earliest] at first
    split at first
    next z least =>
      split at first
      · exact List.mem_cons_of_mem _ (ih (least.trans first))
      · exact List.mem_cons.2 (.inl (Option.some.inj first).symm)
    next => exact List.mem_cons.2 (.inl (Option.some.inj first).symm)

/-- A witness tile can be started on a port only where one waits. -/
theorem State.witTiles_of_candidate {s : State} {dl p : Nat} (waits : (dl, p, none) ∈ s.candidates) :
    ∃ w ws, (s.port p).witTiles = w :: ws := by
  obtain ⟨q, -, here⟩ := List.mem_flatMap.1 waits
  rcases List.mem_append.1 here with row | tile
  · obtain ⟨r, -, same⟩ := List.mem_map.1 row
    simp at same
  · obtain ⟨w, waiting, same⟩ := List.mem_map.1 tile
    obtain ⟨-, rfl⟩ : w.deadline = dl ∧ q = p := by simpa using same
    exact List.exists_cons_of_ne_nil (List.ne_nil_of_mem waiting)

/-! ### What the work of shuttles notes in the ports (R223, R234) -/

/-- The port without its released rows, the counts of its frames and what its frames have reported. -/
def Port.uncounted (q : Port) : Port := { q with rows := [], counts := [], frames := [] }

/-- Of the ports, only released rows, counts and reports differ in `t` from `s`. -/
def State.PortsCounted (s t : State) : Prop := ∀ p, (t.port p).uncounted = (s.port p).uncounted

theorem State.PortsCounted.refl (s : State) : s.PortsCounted s := fun _ => rfl

theorem State.PortsCounted.trans {s t u : State} (h : s.PortsCounted t) (k : t.PortsCounted u) : s.PortsCounted u := fun p =>
  (k p).trans (h p)

theorem State.portsCounted_of_ports {s t : State} (same : t.ports = s.ports) : s.PortsCounted t := fun p => by
  rw [State.port, same]
  rfl

theorem State.modPort_portsCounted (s : State) (p : Nat) {f : Port → Port} (h : ∀ q, (f q).uncounted = q.uncounted) :
    s.PortsCounted (s.modPort p f) := fun j => by
  by_cases here : j = p
  · subst here
    rw [State.port_modPort, h]
  · rw [State.port_modPort_ne _ _ here]

/-- What does not look at the released rows, counts and reports of a port is as it was. -/
theorem State.PortsCounted.keeps {α : Type} {s t : State} (h : s.PortsCounted t) (view : Port → α) (p : Nat)
    (blind : ∀ q : Port, view q.uncounted = view q := by intro; rfl) : view (t.port p) = view (s.port p) :=
  calc view (t.port p) = view (t.port p).uncounted := (blind _).symm
    _ = view (s.port p).uncounted := congrArg view (h p)
    _ = view (s.port p) := blind _

theorem State.PortsCounted.segBegun {s t : State} (h : s.PortsCounted t) (clock : t.now = s.now) (p l frame sub line seg : Nat) :
    t.segBegun p l frame sub line seg = s.segBegun p l frame sub line seg := by
  simp only [State.segBegun, clock, h.keeps Port.frame, h.keeps Port.phase, h.keeps Port.slotTick, h.keeps Port.frameAt,
    h.keeps Port.mode, h.keeps Port.link]

/-- State `t` is `s` but for released rows, counts and reports of the ports. -/
structure State.Counted (s t : State) : Prop where
  port  : s.PortsCounted t
  frame : { t with ports := s.ports } = s

theorem State.Counted.refl (s : State) : s.Counted s := ⟨.refl s, rfl⟩

theorem State.Counted.trans {s t u : State} (h : s.Counted t) (k : t.Counted u) : s.Counted u :=
  ⟨h.port.trans k.port, (congrArg (fun x : State => { x with ports := s.ports }) k.frame).trans h.frame⟩

theorem State.modPort_counted (s : State) (p : Nat) {f : Port → Port} (h : ∀ q, (f q).uncounted = q.uncounted) :
    s.Counted (s.modPort p f) := ⟨s.modPort_portsCounted p h, rfl⟩

theorem State.modCount_counted (s : State) (p n : Nat) (f : WeaveCount → WeaveCount) : s.Counted (s.modCount p n f) :=
  s.modPort_counted p fun _ => rfl

theorem State.abandonRow_counted (s : State) (p : Nat) (r : TileRow) : s.Counted (s.abandonRow p r) := by
  unfold State.abandonRow
  split
  · exact .refl s
  · extract_lets n hit u
    have abandoned : s.Counted u := s.modPort_counted p fun _ => rfl
    split
    · exact .refl s
    · exact abandoned.trans (u.modCount_counted _ _ _)

theorem State.abandonRows_counted (s : State) (p : Nat) : s.Counted (s.abandonRows p) :=
  List.foldlRecOn (motive := s.Counted) _ _ (.refl s) fun t h r _ => h.trans (t.abandonRow_counted p r)

/-- Every row of every port has been looked at for tiles to abandon (R223). -/
theorem State.forN_abandonRows_counted (s : State) : s.Counted (forN 4 (fun p s => s.abandonRows p) s) :=
  List.foldlRecOn (List.range 4) (motive := s.Counted) (fun t p => t.abandonRows p) (.refl s) fun t h p _ =>
    h.trans (t.abandonRows_counted p)

theorem State.tileDone_counted (s : State) (sh : Shuttle) : s.Counted (s.tileDone sh) := by
  unfold State.tileDone
  extract_lets hit
  split
  · exact .refl s
  · split
    · refine State.Counted.trans (t := s.modPort sh.port _) ?_ (State.modCount_counted _ _ _ _)
      exact s.modPort_counted _ fun _ => rfl
    · exact s.modPort_counted _ fun _ => rfl

/-- The ebb slot before a tile hangs on nothing that is counted (R489). -/
theorem State.Counted.weaveEbb {s t : State} (h : s.Counted t) (p deadline : Nat) : t.weaveEbb p deadline = s.weaveEbb p deadline := by
  have settings : t.now = s.now ∧ t.sense = s.sense ∧ t.regs = s.regs := by
    rw [← h.frame]
    exact ⟨rfl, rfl, rfl⟩
  obtain ⟨clock, sense, regs⟩ := settings
  unfold State.weaveEbb State.field State.reg
  rw [clock, sense, regs, h.port.keeps Port.lineTicks]

/-! ### A shuttle takes up a tile (R222, R489) -/

/-- The tile that a row gives next, of the port that sends it. -/
def TileRow.tile (r : TileRow) (p : Nat) : Shuttle :=
  { port := p, lead := r.lead, frame := r.frame, sub := r.sub, row := r.row, col := r.next, line := 32 * r.row, safe := r.safe
    witness := false, from_ := 0 }

/-- A witness tile of a port, as a shuttle works on it. -/
def WitTile.tile (w : WitTile) (p : Nat) : Shuttle :=
  { port := p, lead := p, frame := w.frame, sub := 0, row := w.region, col := w.idx, line := 0, safe := w.safe, witness := true, from_ := 0 }

/-- Once the tiles whose lines have all begun are abandoned, a free shuttle takes the tile `sh`: its port is `q` from then on, and
nothing else changes but the shuttle's till. -/
theorem State.takeTile_taken {s u : State} (h : s.Counted u) (k p dl : Nat) (sh : Shuttle) (f : Port → Port) :
    let t := (u.modPort p f).takeTile k { sh with from_ := u.now + u.weaveEbb sh.lead dl }
    tabFind t.shuttles k = some { sh with from_ := s.now + s.weaveEbb sh.lead dl } ∧
      (∀ j, j ≠ k → tabFind t.shuttles j = tabFind s.shuttles j) ∧ t.port p = f (u.port p) ∧ (∀ j, j ≠ p → t.port j = u.port j) ∧
      { t with shuttles := s.shuttles, ports := s.ports, tills := s.tills, fresh := s.fresh } = s := by
  have clock : u.now = s.now := (congrArg State.now h.frame :)
  have works : u.shuttles = s.shuttles := (congrArg State.shuttles h.frame :)
  rw [clock, h.weaveEbb]
  refine ⟨tabFind_put _ _ _, fun j other => ?_, u.port_modPort p f, fun j other => u.port_modPort_ne f other, ?_⟩
  · exact (tabFind_put_ne _ _ other).trans (works ▸ rfl)
  · exact congrArg (fun x : State => { x with shuttles := s.shuttles, tills := s.tills, fresh := s.fresh }) h.frame

/-! ### A segment is finished (R223) -/

/-- State `t` is `s` but for what a shuttle's rays note: rows, counts and reports of the ports, tills and records raised. -/
structure State.Tallied (s t : State) : Prop where
  port  : s.PortsCounted t
  frame : { t with ports := s.ports, tills := s.tills, flt := s.flt, fresh := s.fresh } = s

theorem State.Tallied.trans {s t u : State} (h : s.Tallied t) (k : t.Tallied u) : s.Tallied u :=
  ⟨h.port.trans k.port,
    (congrArg (fun x : State => { x with ports := s.ports, tills := s.tills, flt := s.flt, fresh := s.fresh }) k.frame).trans h.frame⟩

theorem State.Counted.tallied {s t : State} (h : s.Counted t) : s.Tallied t :=
  ⟨h.port, congrArg (fun x : State => { x with tills := s.tills, flt := s.flt, fresh := s.fresh }) h.frame⟩

theorem State.Tallied.now {s t : State} (h : s.Tallied t) : t.now = s.now := (congrArg State.now h.frame :)

theorem State.Tallied.shuttles {s t : State} (h : s.Tallied t) : t.shuttles = s.shuttles := (congrArg State.shuttles h.frame :)

theorem State.countFills_counted (s : State) (l frame : Nat) (bs : List (TillBlock × Nat)) : s.Counted (s.countFills l frame bs) := by
  unfold State.countFills
  exact s.modCount_counted _ _ _

theorem State.fillTill_tallied (s : State) (k : Nat) (sh : Shuttle) (f : FrameState) (use : List TillBlock) (hit : List Nat) :
    s.Tallied (s.fillTill k sh f use hit) := by
  unfold State.fillTill
  extract_lets t new t1 t2 u
  have filled : s.Counted u := s.countFills_counted _ _ _
  exact filled.tallied.trans ⟨.refl _, rfl⟩

theorem State.reportBlocks_tallied (s : State) (p frame : Nat) (bad : List Nat) : s.Tallied (s.reportBlocks p frame bad) := by
  obtain ⟨frames, raised, reported⟩ := s.reportBlocks_eq p frame bad
  have noted : s.PortsCounted (s.modPort p fun q => { q with frames := frames }) := s.modPort_portsCounted p fun _ => rfl
  rw [reported]
  exact ⟨noted, rfl⟩

/-- Which tiles the shuttles work on is not looked at as things are counted. -/
theorem State.Counted.with_shuttles {s t : State} (h : s.Counted t) (x : Tab Shuttle) :
    ({ s with shuttles := x } : State).Counted { t with shuttles := x } :=
  ⟨h.port, congrArg (fun y : State => { y with shuttles := x }) h.frame⟩

/-- The shuttle goes on or is free, and but for that only rows and counts change. -/
theorem State.shuttleNext_counted (s : State) (k : Nat) (sh : Shuttle) (f : FrameState) :
    ∃ shuttles, ({ s with shuttles := shuttles } : State).Counted (s.shuttleNext k sh f) := by
  unfold State.shuttleNext
  extract_lets last line skipped u
  have counted : s.Counted u := s.modCount_counted _ _ _
  split
  · exact ⟨_, counted.with_shuttles _⟩
  · exact ⟨_, (counted.with_shuttles _).trans (State.tileDone_counted _ _)⟩

/-- A finished segment's words stand in the lead buffer of the shuttle's port. -/
def State.buffered (s : State) (sh : Shuttle) (words : List W12) : State := s.modPort sh.port fun q =>
  { q with lead := tabPut q.lead (segKey sh.frame sh.sub sh.line sh.col) words }

/-- A finished segment is buffered, or discarded where its slot has begun; what else changes are the shuttle and what it notes. -/
theorem State.segmentDone_tallied (s : State) (k : Nat) (sh : Shuttle) (f : FrameState) :
    ∃ (u v : State) (shuttles : Tab Shuttle), s.Tallied u ∧ ({ v with shuttles := shuttles } : State).Counted (s.segmentDone k sh f) ∧
      v = if s.segBegun sh.port sh.lead sh.frame sh.sub sh.line sh.col then u else u.buffered sh ((s.segment sh f).map Drive.word) := by
  unfold State.segmentDone
  extract_lets ds s1 s2 s3 s4
  have noted : s.Tallied s3 :=
    ((s.modCount_counted _ _ _).tallied.trans (s1.fillTill_tallied _ _ _ _ _)).trans (s2.reportBlocks_tallied _ _ _)
  have begun := noted.port.segBegun noted.now sh.port sh.lead sh.frame sh.sub sh.line sh.col
  obtain ⟨shuttles, next⟩ := s4.shuttleNext_counted k sh f
  by_cases late : s.segBegun sh.port sh.lead sh.frame sh.sub sh.line sh.col = true
  · have discarded : s4 = s3.modCount sh.lead sh.frame fun c => { c with late := c.late + 1 } := if_pos (begun.trans late)
    exact ⟨s4, s4, shuttles, noted.trans (discarded ▸ (s3.modCount_counted _ _ _).tallied), next, (if_pos late).symm⟩
  · have stored : s4 = s3.buffered sh (ds.map Drive.word) := if_neg (begun ▸ late)
    exact ⟨s3, s4, shuttles, noted, next, stored.trans (if_neg late).symm⟩

/-- A port with a segment more in its lead buffer keeps its scene and the line it sends. -/
theorem State.buffered_port (s : State) (sh : Shuttle) (words : List W12) (p : Nat) :
    ((s.buffered sh words).port p).scene = (s.port p).scene ∧ ((s.buffered sh words).port p).line = (s.port p).line := by
  unfold State.buffered
  by_cases here : p = sh.port
  · subst here
    rw [State.port_modPort]
    exact ⟨rfl, rfl⟩
  · rw [State.port_modPort_ne _ _ here]
    exact ⟨rfl, rfl⟩

/-- The lead buffer after a segment, the scenes and lines of the ports, and what nothing of it changes. -/
theorem State.segmentDone_lead (s : State) (k : Nat) (sh : Shuttle) (f : FrameState) :
    let t := s.segmentDone k sh f
    let begun := s.segBegun sh.port sh.lead sh.frame sh.sub sh.line sh.col
    (begun = false →
      tabFind (t.port sh.port).lead (segKey sh.frame sh.sub sh.line sh.col) = some ((s.segment sh f).map (·.word))) ∧
    (begun = true → (t.port sh.port).lead = (s.port sh.port).lead) ∧
    (∀ p, (t.port p).scene = (s.port p).scene ∧ (t.port p).line = (s.port p).line) ∧
    { t with shuttles := s.shuttles, ports := s.ports, tills := s.tills, flt := s.flt, fresh := s.fresh } = s := by
  obtain ⟨u, v, shuttles, noted, done, written⟩ := s.segmentDone_tallied k sh f
  generalize s.segmentDone k sh f = t at done ⊢
  extract_lets t begun
  have kept : { v with ports := s.ports, tills := s.tills, flt := s.flt, fresh := s.fresh } = s := by
    rw [written]
    split
    · exact noted.frame
    · exact noted.frame
  have frame : { t with shuttles := s.shuttles, ports := s.ports, tills := s.tills, flt := s.flt, fresh := s.fresh } = s :=
    (congrArg (fun x : State =>
      { x with shuttles := s.shuttles, ports := s.ports, tills := s.tills, flt := s.flt, fresh := s.fresh }) done.frame).trans
      (congrArg (fun x : State => { x with shuttles := s.shuttles }) kept)
  have stored : ∀ p, (v.port p).scene = (u.port p).scene ∧ (v.port p).line = (u.port p).line := fun p => by
    rw [written]
    split
    · exact ⟨rfl, rfl⟩
    · exact u.buffered_port sh _ p
  have shown : ∀ p, (t.port p).scene = (s.port p).scene ∧ (t.port p).line = (s.port p).line := fun p => by
    obtain ⟨scene, line⟩ := stored p
    exact ⟨(done.port.keeps Port.scene p).trans (scene.trans (noted.port.keeps Port.scene p)),
      (done.port.keeps Port.line p).trans (line.trans (noted.port.keeps Port.line p))⟩
  have lead : (t.port sh.port).lead = (v.port sh.port).lead := done.port.keeps Port.lead sh.port
  refine ⟨fun ahead => ?_, fun late => ?_, shown, frame⟩
  · rw [lead, written, if_neg (Bool.eq_false_iff.1 ahead), State.buffered, State.port_modPort]
    exact tabFind_put _ _ _
  · rw [lead, written, if_pos late]
    exact noted.port.keeps Port.lead _

/-! ### A region is compared (R297, R306) -/

@[simp] theorem Port.region_setRegion (q : Port) (r : Nat) (x : Region) : (q.setRegion r x).region r = x := tabGet_put _ _ _ _

@[simp] theorem State.signalRing_ports (s : State) (r : Option Nat) : (s.signalRing r).ports = s.ports := by
  cases r <;> rfl

@[simp] theorem State.signalRing_shuttles (s : State) (r : Option Nat) : (s.signalRing r).shuttles = s.shuttles := by
  cases r <;> rfl

/-- A record that is not FATAL leaves the ports alone, and the shuttles. -/
theorem State.raise_mild {e : ErrRec} (s : State) (mild : e.sev ≠ 3) :
    (s.raise e).ports = s.ports ∧ (s.raise e).shuttles = s.shuttles := by
  have made : s.raise e = s.raiseCore false e := if_neg mild
  rw [made]
  exact ⟨rfl, rfl⟩

/-- A signature that differs is reported, and neither the ports nor the shuttles change. -/
theorem State.sigMismatch_keeps (s : State) (p r frame got want : Nat) :
    (s.sigMismatch p r frame got want).ports = s.ports ∧ (s.sigMismatch p r frame got want).shuttles = s.shuttles := by
  have mild : ∀ code inst, (err 2 0x05 code inst frame got want).sev ≠ 3 := fun _ _ => show (2 : Nat) ≠ 3 by decide
  unfold State.sigMismatch
  extract_lets counted flagged raised
  split
  · obtain ⟨ports, shuttles⟩ := counted.raise_mild (mild 0x02 (instP p 0))
    rw [State.setWbit_ports, State.setWbit_shuttles, ports, shuttles]
    exact ⟨State.count_ports .., State.count_shuttles ..⟩
  · obtain ⟨ports, shuttles⟩ := flagged.raise_mild (mild 0x01 (instP p r))
    rw [State.setWbit_ports, State.setWbit_shuttles, State.signalRing_ports, State.signalRing_shuttles, ports, shuttles,
      State.setWbit_ports, State.setWbit_shuttles]
    exact ⟨State.count_ports .., State.count_shuttles ..⟩

theorem State.setResult_shuttles (s : State) (p r frame code : Nat) (sig : Option Nat) :
    (s.setResult p r frame code sig).shuttles = s.shuttles := by
  unfold State.setResult
  extract_lets
  split <;> rfl

theorem State.setResult_port (s : State) (p r frame code : Nat) (sig : Option Nat) :
    (s.setResult p r frame code sig).port p = (s.port p).setRegion r
      { (s.port p).region r with sig := sig.getD ((s.port p).region r).sig, result := code, frame := frame % 2 ^ 24 } := by
  unfold State.setResult
  extract_lets u
  have published : u.port p = _ := s.port_modPort p _
  split
  · exact published
  · exact published

theorem State.setProtResult_shuttles (s : State) (p frame code : Nat) (sig : Option Nat) :
    (s.setProtResult p frame code sig).shuttles = s.shuttles := by
  unfold State.setProtResult
  extract_lets
  split <;> rfl

theorem State.compareRegion_shuttles (s : State) (p r : Nat) (f : FrameState) (ws : List W12) :
    (s.compareRegion p r f ws).shuttles = s.shuttles := by
  unfold State.compareRegion
  extract_lets prot e0 got want code u
  split
  · exact s.setResult_shuttles _ _ _ _ _
  · have published : u.shuttles = s.shuttles := by
      unfold u
      split
      · exact s.setProtResult_shuttles _ _ _ _
      · exact s.setResult_shuttles _ _ _ _ _
    split
    · exact published
    · exact (u.sigMismatch_keeps _ _ _ _ _).2.trans published

/-- The published result of a monitored region whose words are complete. -/
theorem State.compareRegion_region {s : State} {p r : Nat} (monitored : r < 32) (applies : (s.port p).safeSince = false) (f : FrameState)
    (ws : List W12) : ((s.compareRegion p r f ws).port p).region r =
      { (s.port p).region r with
        sig := signatureOf p false r f.frame ws, frame := f.frame % 2 ^ 24, missRun := 0
        result := if signatureOf p false r f.frame ws = expectedSig ((s.port p).region r).e0 f.frame ws.length then 0 else 1 } := by
  have region : decide (r = 32) = false := decide_eq_false (by omega)
  simp only [State.compareRegion, region, applies, Bool.not_false, Bool.false_eq_true, and_false, if_false]
  generalize (if signatureOf p false r f.frame ws = expectedSig ((s.port p).region r).e0 f.frame ws.length then 0 else 1) = code
  have published : (((s.setResult p r f.frame code (some (signatureOf p false r f.frame ws))).modPort p fun q =>
      q.setRegion r { q.region r with missRun := 0 }).port p).region r =
      { (s.port p).region r with
        sig := signatureOf p false r f.frame ws, frame := f.frame % 2 ^ 24, missRun := 0, result := code } := by
    rw [State.port_modPort, State.setResult_port, Port.region_setRegion, Port.region_setRegion, Option.getD_some]
  split
  · exact published
  · rw [State.port, (State.sigMismatch_keeps _ _ _ _ _ _).1]
    exact published

/-! ### A witness tile is finished (R224, R297) -/

/-- The shuttle of a witness tile is free, its rays are noted, and the last tile of a region brings its comparison. -/
theorem State.witnessDone_tallied (s : State) (k : Nat) (sh : Shuttle) (f : FrameState) :
    ∃ (u : State) (left : Tab Nat), ({ s with shuttles := tabErase s.shuttles k } : State).Tallied u ∧
      s.witnessDone k sh f =
        if tabGet 1 (s.port sh.port).witLeft sh.row - 1 = 0 then
          (u.modPort sh.port fun q => { q with witLeft := left }).compareRegion sh.port sh.row f
            ((s.regionRays sh.port sh.row f sh.safe).map (·.1))
        else u.modPort sh.port fun q => { q with witLeft := left } := by
  unfold State.witnessDone
  extract_lets p all mine atlas cost s1 s2 s3 left s4
  have noted : ({ s with shuttles := tabErase s.shuttles k } : State).Tallied s3 :=
    ((State.modCount_counted _ _ _ _).tallied.trans (s1.fillTill_tallied _ _ _ _ _)).trans (s2.reportBlocks_tallied _ _ _)
  have still : left = tabGet 1 (s.port sh.port).witLeft sh.row - 1 :=
    congrArg (fun tiles => tabGet 1 tiles sh.row - 1) (noted.port.keeps Port.witLeft sh.port)
  rw [← still]
  exact ⟨s3, _, noted, rfl⟩

theorem State.witnessDone_shuttles (s : State) (k : Nat) (sh : Shuttle) (f : FrameState) :
    (s.witnessDone k sh f).shuttles = tabErase s.shuttles k := by
  obtain ⟨u, left, noted, done⟩ := s.witnessDone_tallied k sh f
  have freed : u.shuttles = tabErase s.shuttles k := noted.shuttles
  rw [done]
  split
  · exact (State.compareRegion_shuttles _ _ _ _ _).trans freed
  · exact freed

/-- The last witness tile of a region publishes what its comparison gives. -/
theorem State.witnessDone_region {s : State} {sh : Shuttle} (k : Nat) (f : FrameState) (monitored : sh.row < 32)
    (last : tabGet 1 (s.port sh.port).witLeft sh.row = 1) (applies : (s.port sh.port).safeSince = false) :
    let words := (s.regionRays sh.port sh.row f sh.safe).map (·.1)
    ((s.witnessDone k sh f).port sh.port).region sh.row =
      { (s.port sh.port).region sh.row with
        sig := signatureOf sh.port false sh.row f.frame words, frame := f.frame % 2 ^ 24, missRun := 0
        result := if signatureOf sh.port false sh.row f.frame words =
          expectedSig ((s.port sh.port).region sh.row).e0 f.frame words.length then 0 else 1 } := by
  extract_lets words
  obtain ⟨u, left, noted, done⟩ := s.witnessDone_tallied k sh f
  have before : (u.modPort sh.port fun q => { q with witLeft := left }).port sh.port = { u.port sh.port with witLeft := left } :=
    u.port_modPort sh.port _
  have region : ((u.modPort sh.port fun q => { q with witLeft := left }).port sh.port).region sh.row =
      (s.port sh.port).region sh.row := by
    rw [before]
    exact noted.port.keeps (fun q => q.region sh.row) sh.port
  have safe : ((u.modPort sh.port fun q => { q with witLeft := left }).port sh.port).safeSince = false := by
    rw [before]
    exact (noted.port.keeps Port.safeSince sh.port).trans applies
  rw [done, last, if_pos rfl, State.compareRegion_region monitored safe, region]

/-! ### The commands -/

section Free

variable {s : State} {k : Nat} (weaves : s.weaves = true) (free : tabFind s.shuttles k = none)

include weaves free

theorem State.tileStart_idle (first : earliest (forN 4 (fun p s => s.abandonRows p) s).candidates = none) :
    s.tileStart k = forN 4 (fun p s => s.abandonRows p) s := by
  rw [State.tileStart, if_neg (by simp [weaves, free])]
  simp only [first]

theorem State.tileStart_row {dl p : Nat} {r : TileRow}
    (first : earliest (forN 4 (fun p s => s.abandonRows p) s).candidates = some (dl, p, some r)) :
    let u := forN 4 (fun p s => s.abandonRows p) s
    s.tileStart k = (u.modPort p fun q => q.startTile r).takeTile k { r.tile p with from_ := u.now + u.weaveEbb r.lead dl } := by
  rw [State.tileStart, if_neg (by simp [weaves, free])]
  simp only [first, TileRow.tile]

theorem State.tileStart_witness {dl p : Nat} {w : WitTile} {ws : List WitTile}
    (first : earliest (forN 4 (fun p s => s.abandonRows p) s).candidates = some (dl, p, none))
    (waits : ((forN 4 (fun p s => s.abandonRows p) s).port p).witTiles = w :: ws) :
    let u := forN 4 (fun p s => s.abandonRows p) s
    s.tileStart k = (u.modPort p fun q => { q with witTiles := ws }).takeTile k { w.tile p with from_ := u.now + u.weaveEbb p dl } := by
  rw [State.tileStart, if_neg (by simp [weaves, free])]
  simp only [first, waits, WitTile.tile]

end Free

/-- Settles O45: a tile is started, a segment finished and a witness tile finished, each by what its command does to ports and shuttles. -/
theorem tilesWoven : Obligations.TilesWoven := by
  intro s canon weaves
  refine ⟨fun k free => ?_, fun k sh f works row begun room framed => ?_, fun p k sh found => ?_⟩
  · have runs : exec (.weaveTileStart k) s = .next (s.tileStart k) := rfl
    have looked := s.forN_abandonRows_counted
    refine ⟨fun dl p r first => ?_, fun dl p first => ?_, fun idle => ?_⟩
    · rw [State.tileStart_row weaves free first] at runs
      exact ⟨_, runs, State.takeTile_taken looked k p dl (r.tile p) fun q => q.startTile r⟩
    · obtain ⟨w, ws, waits⟩ := State.witTiles_of_candidate (earliest_mem first)
      rw [State.tileStart_witness weaves free first waits] at runs
      exact ⟨w, ws, waits, _, runs, State.takeTile_taken looked k p dl (w.tile p) fun q => { q with witTiles := ws }⟩
    · rw [runs, State.tileStart_idle weaves free idle]
  · have runs : exec (.weaveSegmentDone k) s = .next (s.segmentDone k sh f) := by
      change execWeaveSegmentDone k s = _
      simp [execWeaveSegmentDone, works, row, Nat.not_lt.2 begun, Nat.not_le.2 room, weaves, framed]
    exact ⟨_, runs, s.segmentDone_lead k sh f⟩
  · have here : sh.port = p.val := by
      have picked := List.find?_some found
      simp only [Bool.and_eq_true, decide_eq_true_eq] at picked
      obtain ⟨⟨-, here⟩, -⟩ := picked
      exact here
    refine ⟨fun gone => ?_, fun f framed => ⟨s.witnessDone k sh f, ?_, ?_, fun j other => ?_, fun monitored last applies => ?_⟩⟩
    · change execWitnessTileDone p s = _
      simp [execWitnessTileDone, found, weaves, gone]
    · change execWitnessTileDone p s = _
      simp [execWitnessTileDone, found, weaves, framed]
    · rw [State.witnessDone_shuttles]
      exact tabFind_erase canon.shuttles k
    · rw [State.witnessDone_shuttles]
      exact tabFind_erase_ne _ other
    · rw [← here] at last applies ⊢
      have published := State.witnessDone_region k f monitored last applies
      exact ⟨congrArg Region.sig published, congrArg Region.frame published, congrArg Region.missRun published,
        congrArg Region.result published⟩

end Sys2Proof.Machine

/-! CAL_LOAD from its start to a stopped port or to the queue of one that runs, and the ray map's checks of itself (O37, O40). -/

namespace Sys2Proof.Machine

/-! ### CAL_LOAD (R241 to R245) -/

section CalLoad

variable {s : State} {id : Nat} {e : Entry}

theorem exec_calLoadStart (here : s.entry id = some e) (op : e.desc.opcode = opCalLoad) (waiting : e.started = false)
    (free : s.noWait e = true) : exec (.calLoadStart id) s = .next (startCal e s) := by
  have runs : exec (.calLoadStart id) s = execCalLoadStart id s := rfl
  simp [runs, execCalLoadStart, here, op, waiting, free]

theorem startCal_fails {o : Obj} (names : s.objOf (e.desc.w 2) = some o) {f : Fail} (fails : s.calFail e.desc o = some f) :
    startCal e s = s.finish e.id f 0 0 := by
  simp [startCal, names, fails]

theorem startCal_pins {o : Obj} (names : s.objOf (e.desc.w 2) = some o) (passes : s.calFail e.desc o = none) :
    startCal e s = s.start e.id (.calLoad ((o.read 0 o.layout).take (almSize (o.read 0 o.layout))) o.handle) := by
  simp [startCal, names, passes]

theorem exec_calLoadReady {bs : List Byte} {h : Nat} (here : s.entry id = some e) (job : e.job = .calLoad bs h)
    (unqueued : (s.port e.desc.calPort).calLoads.contains id = false) (unfaded : (s.port e.desc.calPort).ray.fadeId ≠ some id) :
    exec (.calLoadReady id) s = .next (s.calReady e bs h) := by
  have runs : exec (.calLoadReady id) s = execCalLoadReady id s := rfl
  have free : ¬((s.port e.desc.calPort).calLoads.contains id ∨ (s.port e.desc.calPort).ray.fadeId = some id) :=
    not_or.2 ⟨Bool.eq_false_iff.1 unqueued, unfaded⟩
  rw [runs]
  simp only [execCalLoadReady, here, job, if_neg free]

/-- The almanac waits in its port for the first frame (R245). -/
def State.calGiven (s : State) (p : Nat) (bs : List Byte) (h : Nat) : State :=
  s.modPort p fun q => { q with ray := { q.ray with next := some (almanacOf bs h q.ray.theta) } }

theorem State.calReady_stopped (stopped : (s.port e.desc.calPort).phase = .stopped) (bs : List Byte) (h : Nat) :
    s.calReady e bs h = (s.calGiven e.desc.calPort bs h).finish e.id (stOk, 0) 0 0 :=
  if_pos stopped

theorem State.calReady_runs (runs : (s.port e.desc.calPort).phase ≠ .stopped) (bs : List Byte) (h : Nat) :
    s.calReady e bs h = (s.modEntry e.id fun x => { x with readyAt := some s.now }).modPort e.desc.calPort
      fun q => { q with calLoads := q.calLoads ++ [e.id] } :=
  if_neg runs

/-- A completion leaves the ray map of every port as it is. -/
theorem State.finish_ray (s : State) (id : Nat) (f : Fail) (r0 r1 p : Nat) : ((s.finish id f r0 r1).port p).ray = (s.port p).ray := by
  obtain ⟨g, looked⟩ := s.finishAt_ports id s.tideNs false f r0 r1
  exact (congrArg Port.ray (State.port_of_mapCommits looked p) :)

/-- An almanac given to a port changes nothing that a completion rests on. -/
theorem State.finish_calGiven_completed (own : Completing s id e) (p : Nat) (bs : List Byte) (h : Nat) (f : Fail) :
    Completed s ((s.calGiven p bs h).finish id f 0 0) e false f 0 0 :=
  State.finish_completed (s := s.calGiven p bs h) ⟨own.here, own.loud, own.own, own.live⟩ f 0 0

theorem State.finish_calGiven_ray (s : State) (id p : Nat) (bs : List Byte) (h : Nat) (f : Fail) :
    (((s.calGiven p bs h).finish id f 0 0).port p).ray = { (s.port p).ray with next := some (almanacOf bs h (s.port p).ray.theta) } := by
  rw [State.finish_ray, State.calGiven, State.port_modPort]

end CalLoad

/-- Settles O37: the start fails or pins the almanac, and the ready almanac is given to a stopped port or queued at one that runs. -/
theorem almanacLoads : Obligations.AlmanacLoads := by
  intro id e s _ own p
  obtain rfl : e.id = id := State.id_of_entry own.here
  refine ⟨fun o op waiting free names => ?_, fun bs h job unqueued unfaded => ?_⟩
  · have ran := exec_calLoadStart own.here op waiting free
    refine ⟨fun f fails => ?_, fun passes => ?_⟩
    · rw [startCal_fails names fails] at ran
      exact ⟨_, ran, State.finish_completed own f 0 0⟩
    · rw [startCal_pins names passes] at ran
      refine ⟨_, ran, ?_, fun j other => ?_, rfl⟩
      · exact State.entry_modEntry_self (by exact fun _ => rfl) own.here
      · exact State.entry_modEntry_ne (by exact fun _ => rfl) s other
  · have ran := exec_calLoadReady own.here job unqueued unfaded
    refine ⟨fun stopped => ?_, fun runs => ?_⟩
    · rw [State.calReady_stopped stopped] at ran
      exact ⟨_, ran, State.finish_calGiven_completed own _ _ _ _, s.finish_calGiven_ray _ _ _ _ _⟩
    · rw [State.calReady_runs runs] at ran
      refine ⟨_, ran, ?_, State.port_modPort _ _ _, fun q other => State.port_modPort_ne _ _ other, rfl⟩
      exact State.entry_modEntry_self (by exact fun _ => rfl) own.here

/-! ### The signature check (R262, R263, R266) -/

/-- The two words that a signature check stores for subframe `k` of frame `n` (R266). -/
def State.sigStored (s : State) (p got k n : Nat) : State :=
  (s.setReg (0x4424 + 0x80 * p) got).setReg (0x4428 + 0x80 * p) (k * 2 ^ 30 + n % 2 ^ 30)

theorem State.sigStored_sig (s : State) (sorted : tabSorted s.regs) (p got k n : Nat) :
    (s.sigStored p got k n).reg (0x4424 + 0x80 * p) = got % 2 ^ 32 :=
  (State.reg_setReg_ne _ _ (by omega)).trans (State.reg_setReg sorted _ _)

theorem State.sigStored_frame (s : State) (sorted : tabSorted s.regs) (p got k n : Nat) :
    (s.sigStored p got k n).reg (0x4428 + 0x80 * p) = (k * 2 ^ 30 + n % 2 ^ 30) % 2 ^ 32 :=
  State.reg_setReg (tabSorted_set sorted _ _ _) _ _

theorem State.sigStored_ne (s : State) {p o : Nat} (got k n : Nat) (sig : o ≠ 0x4424 + 0x80 * p) (frame : o ≠ 0x4428 + 0x80 * p) :
    (s.sigStored p got k n).reg o = s.reg o :=
  (State.reg_setReg_ne _ _ frame).trans (State.reg_setReg_ne _ _ sig)

/-- Registers are all that a signature check writes. -/
theorem State.sigStored_eq (s : State) (p got k n : Nat) : ∃ regs, s.sigStored p got k n = { s with regs := regs } := ⟨_, rfl⟩

section Check

variable {s : State} {p : Fin 4} {f : FrameState} {k : Nat}

/-- What the shuttles received is what was fixed, and its signature and frame are stored. -/
theorem exec_rmapSignatureCheck_agrees (fixed : (s.port p).lastFixed = some (f, k)) :
    exec (.rmapSignatureCheck p 0) s = .next (s.sigStored p (s.raySig p k f) k f.frame) := by
  have runs : exec (.rmapSignatureCheck p 0) s = execRmapSignatureCheck p 0 s := rfl
  have agrees : s.raySig p k f ^^^ (0 : Word).toNat = s.raySig p k f := by simp
  rw [runs]
  simp only [execRmapSignatureCheck, fixed, agrees, if_true, State.sigStored]

/-- What the shuttles received differs: it is what is stored, and the mismatch is reported (R263). -/
theorem exec_rmapSignatureCheck_differs (fixed : (s.port p).lastFixed = some (f, k)) {upset : Word} (differs : upset ≠ 0) :
    exec (.rmapSignatureCheck p upset) s = .next ((s.sigStored p (s.raySig p k f ^^^ upset.toNat) k f.frame).rayMismatch p k f.frame
      (s.raySig p k f) (s.raySig p k f ^^^ upset.toNat)) := by
  have runs : exec (.rmapSignatureCheck p upset) s = execRmapSignatureCheck p upset s := rfl
  have other : s.raySig p k f ^^^ upset.toNat ≠ s.raySig p k f := fun same =>
    differs (BitVec.toNat_eq.2 (xor_left_eq_self_iff.1 same))
  rw [runs]
  simp only [execRmapSignatureCheck, fixed, if_neg other, State.sigStored]

end Check

/-! ### The scrub (R264) -/

/-- The copy that is found damaged is marked as such, and the other two stay as they are. -/
theorem RayMap.copy_scrubFailed (r : RayMap) (which k : Fin 3) : (r.scrubFailed which).copy k =
    if k = which then (r.copy which).map fun a => { a with scrubBad := true } else r.copy k := by
  fin_cases which <;> fin_cases k <;> rfl

theorem exec_almanacScrub_sound {s : State} {p : Fin 4} {which : Fin 3} {a : Almanac} (pinned : (s.port p).ray.copy which = some a) :
    exec (.almanacScrub p (which, 0)) s = .next s := by
  have runs : exec (.almanacScrub p (which, 0)) s = execAlmanacScrub p (which, 0) s := rfl
  rw [runs, execAlmanacScrub, pinned]
  exact if_pos rfl

/-- The state with the port's copy marked as damaged. -/
def State.scrubFailed (s : State) (p which : Nat) : State := s.modPort p fun q => { q with ray := q.ray.scrubFailed which }

theorem State.scrubFailed_port (s : State) (p which : Nat) :
    (s.scrubFailed p which).port p = { s.port p with ray := (s.port p).ray.scrubFailed which } := State.port_modPort _ _ _

theorem exec_almanacScrub_damaged {s : State} {p : Fin 4} {which : Fin 3} {a : Almanac} (pinned : (s.port p).ray.copy which = some a)
    {damage : Word} (damaged : damage ≠ 0) : exec (.almanacScrub p (which, damage)) s =
      .next (((s.scrubFailed p which).setBit (0x442C + 0x80 * p) 1).raise
        (err 2 0x04 0x03 (instP p 0) (almIdent a.bytes) (almIdent a.bytes ^^^ damage.toNat) 0)) := by
  have runs : exec (.almanacScrub p (which, damage)) s = execAlmanacScrub p (which, damage) s := rfl
  rw [runs, execAlmanacScrub, pinned]
  exact if_neg damaged

/-- Settles O40: the check stores its two words and reports what differs; the scrub marks the copy that is damaged and reports it. -/
theorem rayMapChecks : Obligations.RayMapChecks := by
  intro p s canon
  obtain ⟨sorted, -⟩ := canon.regs
  refine ⟨fun f k fixed => ⟨⟨_, exec_rmapSignatureCheck_agrees fixed, ?_⟩, fun upset => exec_rmapSignatureCheck_differs fixed⟩,
    fun which a pinned => ⟨exec_almanacScrub_sound pinned, fun damage damaged => ⟨_, exec_almanacScrub_damaged pinned damaged, ?_⟩⟩⟩
  · obtain ⟨regs, stored⟩ := s.sigStored_eq p (s.raySig p k f) k f.frame
    refine ⟨s.sigStored_sig sorted _ _ _ _, s.sigStored_frame sorted _ _ _ _, fun o => s.sigStored_ne _ _ _, ?_⟩
    rw [stored]
  · rw [State.scrubFailed_port]
    refine ⟨?_, fun k other => ?_, rfl, fun q => State.port_modPort_ne _ _, rfl⟩
    · rw [RayMap.copy_scrubFailed, if_pos rfl, pinned, Option.map_some]
    · rw [RayMap.copy_scrubFailed, if_neg other]

end Sys2Proof.Machine

/-! Safety content: what the host cannot reach (O8), SAFE_STATE_N's filter, protected activations and the captured words of the Watch
port (O47). -/

namespace Sys2Proof.Machine

/-! ### Only the Watch side touches safety content (R298, R304, R307) -/

/-- Settles O8: what a command off the Watch side keeps includes the filter's result and the protected banks. -/
theorem safetyContentIsolated : Obligations.SafetyContentIsolated := by
  intro c s t notReset host ran
  have kept : Kept (!watchSide c) s t := exec_kept notReset s t ran
  have offWatch : (!watchSide c) = true := congrArg not host
  exact ⟨kept.safe offWatch, kept.banks offWatch⟩

/-! ### The level of SAFE_STATE_N reaches its sampler (R304, R556) -/

theorem Power.pinSafe_same (w : Power) (now : Nat) : w.pinSafe w.safeLevel now = w := if_pos rfl

/-- A new level after the edge that first sampled the present one, if any did: the next CLK_PERI edge samples it. -/
theorem Power.pinSafe_new {w : Power} {level : Bool} {now : Nat} (new : level ≠ w.safeLevel)
    (seen : ∀ e, w.safeEdge = some e → e < now) :
    w.pinSafe level now = { w with safeLevel := level, safeEdge := some (4 * ceilDiv now 4), safePrev := w.safeEdge } := by
  rw [Power.pinSafe, if_neg new, periEdge, Nat.mul_comm]
  cases sampled : w.safeEdge with
  | none => rfl
  | some e => exact if_neg (Nat.not_le.2 (seen e sampled))

/-- A level that returns before the edge that was to sample the other one: the samples before it go on. -/
theorem Power.pinSafe_back {w : Power} {level : Bool} {now e : Nat} (new : level ≠ w.safeLevel) (waits : w.safeEdge = some e)
    (before : now ≤ e) : w.pinSafe level now = { w with safeLevel := level, safeEdge := w.safePrev, safePrev := none } := by
  rw [Power.pinSafe, if_neg new, waits]
  exact if_pos before

theorem exec_safeStateNEdge_running {s : State} (runs : s.power.boot ≠ .inReset) (level : Bool) :
    exec (.safeStateNEdge level) s = .next { s with power := s.power.pinSafe level s.now } := by
  have sampling : s.running = true := decide_eq_true runs
  have ran : exec (.safeStateNEdge level) s = execSafeStateNEdge level s := rfl
  rw [ran, execSafeStateNEdge, if_pos sampling]

theorem exec_safeStateNEdge_inReset {s : State} (held : s.power.boot = .inReset) (level : Bool) :
    exec (.safeStateNEdge level) s = .next { s with power := { s.power with safeLevel := level } } := by
  have stopped : ¬s.running = true := fun runs => of_decide_eq_true runs held
  have ran : exec (.safeStateNEdge level) s = execSafeStateNEdge level s := rfl
  rw [ran, execSafeStateNEdge, if_neg stopped]

/-- The level that the pin already has changes nothing. -/
theorem exec_safeStateNEdge_same (s : State) : exec (.safeStateNEdge s.power.safeLevel) s = .next s := by
  by_cases held : s.power.boot = .inReset
  · exact exec_safeStateNEdge_inReset held _
  · rw [exec_safeStateNEdge_running held, Power.pinSafe_same]

/-! ### SAFE_STATE_N applies and ceases to (R304, R305) -/

/-- The samples of 375 periods are in 1,500 ticks after the first. -/
theorem State.safeDue_of {s : State} {x : Nat} (first : s.power.safeEdge = some x) (held : x + 1500 ≤ s.now) : s.safeDue = true := by
  rw [State.safeDue, first]
  exact decide_eq_true held

/-- The state in which SAFE_STATE_N has come to apply. -/
def State.safeNow (s : State) : State :=
  { s with power := { s.power with safeApplied := true }, ports := tabMap (fun _ q => q.applySafe s.now) s.ports }

theorem exec_safeStateApply_due {s : State} (ripe : s.safeDue = true) (low : s.power.safeLevel = false)
    (off : s.power.safeApplied = false) : exec .safeStateApply s = .next s.safeNow := by
  have ran : exec .safeStateApply s = execSafeStateApply s := rfl
  rw [ran, execSafeStateApply, ripe, low, off]
  rfl

theorem State.safeNow_port {s : State} {p : Nat} (held : (tabFind s.ports p).isSome = true) :
    s.safeNow.port p = (s.port p).applySafe s.now := by
  obtain ⟨q, found⟩ := Option.isSome_iff_exists.1 held
  simp only [State.port, State.safeNow, tabGet, tabFind_map, found, Option.map_some, Option.getD_some]

theorem exec_safeStateCease_due {s : State} (ripe : s.safeDue = true) (high : s.power.safeLevel = true)
    (on : s.power.safeApplied = true) :
    exec .safeStateCease s = .next { s with power := { s.power with safeApplied := false } } := by
  have ran : exec .safeStateCease s = execSafeStateCease s := rfl
  rw [ran, execSafeStateCease, ripe, high, on]
  rfl

/-! ### Activation (R301, R302, R306) -/

section Activation

variable {s : State} {p : Nat}

/-- What an activation of the port would take from its staged words (R301, R312). -/
def State.stagedActivation (s : State) (p : Nat) : ProtPend :=
  { at_ := s.now, wq := fieldOf (s.wreg (wpBase p)) 15 0, hq := fieldOf (s.wreg (wpBase p)) 31 16
    px := fieldOf (s.wreg (wpBase p + 4)) 15 0, py := fieldOf (s.wreg (wpBase p + 4)) 31 16, e0 := s.wreg (wpBase p + 0xC) }

/-- The state with the result of the checks published. -/
def State.resultShown (s : State) (p : Nat) : State :=
  s.modPort p fun q => { q with prot := { q.prot with lastResult := s.activationResult p } }

/-- The state with an accepted activation pending. -/
def State.activationPends (s : State) (p : Nat) : State :=
  (s.resultShown p).modPort p fun q => { q with prot := { q.prot with pending := some (s.stagedActivation p) } }

theorem State.resultShown_port (s : State) (p : Nat) :
    (s.resultShown p).port p = { s.port p with prot := { (s.port p).prot with lastResult := s.activationResult p } } :=
  State.port_modPort _ _ _

theorem State.activationPends_port (s : State) (p : Nat) : (s.activationPends p).port p = { s.port p with
    prot := { (s.port p).prot with lastResult := s.activationResult p, pending := some (s.stagedActivation p) } } := by
  rw [State.activationPends, State.port_modPort, State.resultShown_port]

theorem State.activationPends_port_ne (s : State) {p q : Nat} (other : q ≠ p) : (s.activationPends p).port q = s.port q :=
  (State.port_modPort_ne _ _ other).trans (State.port_modPort_ne _ _ other)

theorem exec_wpActivate (s : State) (p : Fin 4) : exec (.wpActivate p) s = .next (s.startActivation p) := rfl

/-- A failed check is published and reported. -/
theorem State.startActivation_fails (fails : s.activationResult p ≠ 1) : s.startActivation p =
    ((s.resultShown p).raise (err 0 0x05 0x04 (instP p 0) (s.activationResult p) 0 0)).setWbit 0x00C (8 + p) :=
  if_neg fails

/-- What passes waits for the latch instant on a port that is not stopped. -/
theorem State.startActivation_waits (passes : s.activationResult p = 1) (phase : (s.port p).phase ≠ .stopped) :
    s.startActivation p = s.activationPends p := by
  have later : ((s.activationPends p).port p).phase ≠ .stopped := by
    rw [State.activationPends_port]
    exact phase
  exact (if_pos passes).trans (if_neg later)

/-- The protected plate of a port with an activation applied: the staging bank becomes the active one (R302). -/
def Prot.activated (x : Prot) (a : ProtPend) : Prot :=
  { x with active := !x.active, gen := x.nextGen, wq := a.wq, hq := a.hq, px := a.px, py := a.py, e0 := a.e0, pending := none }

/-- The state with an accepted activation applied. -/
def State.activationTaken (s : State) (p : Nat) : State :=
  (s.activationPends p).modPort p fun q => { q with prot := q.prot.activated (s.stagedActivation p) }

theorem State.activationTaken_prot (s : State) (p : Nat) : ((s.activationTaken p).port p).prot =
    { (s.port p).prot with lastResult := s.activationResult p }.activated (s.stagedActivation p) := by
  rw [State.activationTaken, State.port_modPort, State.activationPends_port]
  rfl

theorem State.activationTaken_port_ne (s : State) {p q : Nat} (other : q ≠ p) : (s.activationTaken p).port q = s.port q :=
  (State.port_modPort_ne _ _ other).trans (State.activationPends_port_ne s other)

/-- What passes is applied at once on a stopped port. -/
theorem State.startActivation_applies (passes : s.activationResult p = 1) (phase : (s.port p).phase = .stopped) :
    s.startActivation p = (s.activationTaken p).setWbit 0x00C (8 + p) := by
  have stopped : ((s.activationPends p).port p).phase = .stopped := by
    rw [State.activationPends_port]
    exact phase
  have pends : ((s.activationPends p).port p).prot.pending = some (s.stagedActivation p) := by rw [State.activationPends_port]
  have applied : (s.activationPends p).activate p = (s.activationTaken p).setWbit 0x00C (8 + p) := by
    rw [State.activate, pends]
    rfl
  exact ((if_pos passes).trans (if_pos stopped)).trans applied

/-- Beside the word of the Watch port, an activation changes ports alone. -/
theorem State.activationTaken_frame (s : State) (p : Nat) : { s.activationTaken p with ports := s.ports } = s := rfl

theorem State.setWbit_frame (s : State) (addr b : Nat) (x : Tab Port) (w : Tab Word) :
    { s.setWbit addr b with ports := x, wregs := w } = { s with ports := x, wregs := w } := rfl

theorem State.setWbit_port (s : State) (addr b q : Nat) : (s.setWbit addr b).port q = s.port q := rfl

end Activation

/-! ### Captured words of the Watch port (R10, R312) -/

section Captures

variable {s : State}

/-- A captured word of the Watch port as it reads. -/
def State.wcapt (s : State) (a : Nat) : Nat := (tabGet (watchReset a) s.wcapts a).toNat

theorem State.wcapt_setWcapt (sorted : tabSorted s.wcapts) (a v : Nat) : (s.setWcapt a v).wcapt a = v % 2 ^ 32 := by
  rw [State.wcapt, State.setWcapt, tabGet_set _ sorted, BitVec.toNat_ofNat]

theorem State.wcapt_setWcapt_ne (s : State) {a o : Nat} (v : Nat) (other : o ≠ a) : (s.setWcapt a v).wcapt o = s.wcapt o :=
  congrArg BitVec.toNat (tabGet_set_ne _ _ _ _ other)

theorem State.setWcapt_sorted (sorted : tabSorted s.wcapts) (a v : Nat) : tabSorted (s.setWcapt a v).wcapts :=
  tabSorted_set sorted _ _ _

theorem State.captureRmsig_info (sorted : tabSorted s.wcapts) (p : Nat) :
    (s.captureRmsig p).wcapt (wpBase p + 0x34) = s.rmapSigInfo p % 2 ^ 32 := by
  rw [State.captureRmsig, State.wcapt_setWcapt_ne _ _ (by omega), State.wcapt_setWcapt_ne _ _ (by omega), State.wcapt_setWcapt sorted]

theorem State.captureRmsig_ident (sorted : tabSorted s.wcapts) (p : Nat) :
    (s.captureRmsig p).wcapt (wpBase p + 0x38) = s.rmapIdent p % 2 ^ 32 := by
  rw [State.captureRmsig, State.wcapt_setWcapt_ne _ _ (by omega), State.wcapt_setWcapt (State.setWcapt_sorted sorted _ _)]

theorem State.captureRmsig_oldId (sorted : tabSorted s.wcapts) (p : Nat) :
    (s.captureRmsig p).wcapt (wpBase p + 0x3C) = s.rmapOldId p % 2 ^ 32 := by
  rw [State.captureRmsig, State.wcapt_setWcapt (State.setWcapt_sorted (State.setWcapt_sorted sorted _ _) _ _)]

theorem State.captureRegion_result (sorted : tabSorted s.wcapts) (p r : Nat) :
    (s.captureRegion p r).wcapt (wpBase p + 0x114 + 0x20 * r) =
      (((s.port p).region r).result * 2 ^ 30 + ((s.port p).region r).frame % 2 ^ 24) % 2 ^ 32 := by
  rw [State.captureRegion, State.wcapt_setWcapt sorted]

/-- Captures change the captured words alone. -/
theorem State.setWcapt_frame (s : State) (a v : Nat) (w : Tab Word) : { s.setWcapt a v with wcapts := w } = { s with wcapts := w } := rfl

theorem State.captureRmsig_frame (s : State) (p : Nat) : { s.captureRmsig p with wcapts := s.wcapts } = s := by
  rw [State.captureRmsig, State.setWcapt_frame, State.setWcapt_frame, State.setWcapt_frame]

theorem State.captureRegion_frame (s : State) (p r : Nat) : { s.captureRegion p r with wcapts := s.wcapts } = s := by
  rw [State.captureRegion, State.setWcapt_frame]

end Captures

/-! ### The statement -/

/-- Settles O47: the pin's samples, what passes the checks of an activation and what fails them, and what the two first words capture. -/
theorem safeStateAndActivation : Obligations.SafeStateAndActivation := by
  refine ⟨fun s => ⟨fun level runs new => ⟨fun seen => ?_, fun e waits before => ?_⟩,
    fun level held => exec_safeStateNEdge_inReset held level, exec_safeStateNEdge_same s, fun x first ripe low off => ?_,
    fun x first ripe high on => ?_⟩, fun p s _ sorted => ⟨fun passes phase => ?_, fun passes phase => ?_, fun fails => ?_, ?_,
    fun r => ?_⟩⟩
  · rw [exec_safeStateNEdge_running runs, Power.pinSafe_new new seen]
  · rw [exec_safeStateNEdge_running runs, Power.pinSafe_back new waits before]
  · exact ⟨_, exec_safeStateApply_due (State.safeDue_of first ripe) low off, rfl, fun p held => State.safeNow_port held, rfl⟩
  · exact exec_safeStateCease_due (State.safeDue_of first ripe) high on
  · rw [exec_wpActivate, State.startActivation_waits passes phase]
    refine ⟨_, rfl, ?_, fun q other => State.activationPends_port_ne s other, rfl⟩
    rw [State.activationPends_port, passes]
    rfl
  · rw [exec_wpActivate, State.startActivation_applies passes phase]
    refine ⟨_, rfl, ?_, fun q other => (State.setWbit_port _ _ _ _).trans (State.activationTaken_port_ne s other),
      (State.setWbit_frame _ _ _ _ _).trans (s.activationTaken_frame p)⟩
    rw [State.setWbit_port, State.activationTaken_prot, passes]
    rfl
  · refine ⟨s.resultShown p, (exec_wpActivate s p).trans (congrArg _ (State.startActivation_fails fails)), ?_, rfl⟩
    rw [State.resultShown_port]
  · exact ⟨s.captureRmsig p, rfl, State.captureRmsig_info sorted p, State.captureRmsig_ident sorted p, State.captureRmsig_oldId sorted p,
      s.captureRmsig_frame p⟩
  · exact ⟨s.captureRegion p r, rfl, State.captureRegion_result sorted p r, s.captureRegion_frame p r⟩

end Sys2Proof.Machine

/-! Frames of the Watch port: those that pass their check, those that are discarded, and what each does (O48). -/

namespace Sys2Proof.Machine

/-! ### A frame and its check (R308, R309) -/

/-- Where the check of a frame stands: behind the header, and behind the data of a WRITE. -/
def checkAt (mosi : List Byte) : Nat := 8 + if leAt mosi 0 1 = 2 then leAt mosi 2 2 else 0

/-- The frame is whole, and its check is right with this sequence number folded in. -/
def FrameSound (seq : Nat) (mosi : List Byte) : Prop :=
  checkAt mosi + 4 ≤ mosi.length ∧ crc32c seq (mosi.take (checkAt mosi)) = leAt mosi (checkAt mosi) 4

/-- The state `t` with the response to a frame out: the run of discarded frames is over, and the sequence number has advanced. -/
def State.answered (t : State) (seq status : Nat) (data : List Byte) : State :=
  { t.setWreg 8 (t.wreg 8 / 256 * 256) with
    wpSeq := (seq + 1) % 2 ^ 32, miso := watchResponse status ((seq + 1) % 2 ^ 32) seq data }

theorem State.answered_wreg {s t : State} (sorted : tabSorted s.wregs) (same : t.wregs = s.wregs) (seq status : Nat) (data : List Byte) :
    (t.answered seq status data).wreg 8 = s.wreg 8 / 256 * 256 := by
  have word : t.wreg 8 = s.wreg 8 := by rw [State.wreg, State.wreg, same]
  have small : s.wreg 8 / 256 * 256 < 2 ^ 32 := (Nat.div_mul_le_self _ _).trans_lt (BitVec.isLt _)
  have stored : (t.setWreg 8 (t.wreg 8 / 256 * 256)).wreg 8 = t.wreg 8 / 256 * 256 % 2 ^ 32 := State.wreg_setWreg (same ▸ sorted) _ _
  exact stored.trans (by rw [word, Nat.mod_eq_of_lt small])

/-- Beside what a response shows, the state is the one that the frame's effect left. -/
theorem State.answered_frame (t : State) (seq status : Nat) (data : List Byte) (w : Tab Word) (q : Nat) (m : List Byte) :
    { t.answered seq status data with wregs := w, wpSeq := q, miso := m } = { t with wregs := w, wpSeq := q, miso := m } := rfl

theorem State.watchUp_of {s : State} (runs : s.power.boot ≠ .inReset) (booted : s.power.boot ≠ .failed)
    (purser : s.power.purserUp = true) : s.watchUp = true := by
  simp [State.watchUp, State.running, runs, booted, purser]

section Frame

variable {s : State} {mosi : List Byte}

/-- A sound frame has its effect and is answered. -/
theorem State.watchFrame_sound (up : s.watchUp = true) (sound : FrameSound s.wpSeq mosi) {status : Nat} {data : List Byte} {t : State}
    (effect : s.frameEffect mosi = (status, data, t)) : s.watchFrame mosi = t.answered s.wpSeq status data := by
  obtain ⟨whole, checked⟩ := sound
  have running : ¬(!s.watchUp) = true := by simp [up]
  rw [State.watchFrame, if_neg running]
  refine (if_neg (Nat.not_lt.2 whole)).trans ((if_neg (not_not.2 checked)).trans ?_)
  rw [effect]
  rfl

/-- How a sound frame that leaves the Watch registers alone is answered, whichever of the four commands brings it. -/
theorem exec_frame_answered {c : Instr} (frame : exec c s = .next (s.watchFrame mosi)) (sorted : tabSorted s.wregs)
    (up : s.watchUp = true) (sound : FrameSound s.wpSeq mosi) {status : Nat} {data : List Byte} {u : State}
    (effect : s.frameEffect mosi = (status, data, u)) (same : u.wregs = s.wregs) :
    exec c s = .next (u.answered s.wpSeq status data) ∧ (u.answered s.wpSeq status data).wreg 8 = s.wreg 8 / 256 * 256 :=
  ⟨frame.trans (congrArg _ (State.watchFrame_sound up sound effect)), State.answered_wreg sorted same _ _ _⟩

theorem State.watchFrame_cutShort (up : s.watchUp = true) (short : mosi.length < checkAt mosi + 4) :
    s.watchFrame mosi = { s.discardFrame with miso := [] } := by
  have running : ¬(!s.watchUp) = true := by simp [up]
  rw [State.watchFrame, if_neg running]
  exact if_pos short

theorem State.watchFrame_damaged (up : s.watchUp = true) (whole : checkAt mosi + 4 ≤ mosi.length)
    (damaged : crc32c s.wpSeq (mosi.take (checkAt mosi)) ≠ leAt mosi (checkAt mosi) 4) :
    s.watchFrame mosi = { s.discardFrame with miso := watchResponse 1 s.wpSeq s.wpSeq [] } := by
  have running : ¬(!s.watchUp) = true := by simp [up]
  rw [State.watchFrame, if_neg running]
  exact (if_neg (Nat.not_lt.2 whole)).trans (if_pos damaged)

/-- A discarded frame leaves the sequence number as it is. -/
theorem State.discardFrame_wpSeq (s : State) : s.discardFrame.wpSeq = s.wpSeq := by
  unfold State.discardFrame
  extract_lets e run counts counted
  split
  · have mild : (err 2 0x05 0x05 0 counts 0 0).sev ≠ 3 := show (2 : Nat) ≠ 3 by decide
    rw [State.setWbit_wpSeq, State.raise, if_neg mild]
    rfl
  · rfl

theorem exec_watchNop (s : State) (mosi : List Byte) : exec (.watchNop mosi) s = .next (s.watchFrame mosi) := rfl

theorem exec_watchRead (s : State) (mosi : List Byte) : exec (.watchRead mosi) s = .next (s.watchFrame mosi) := rfl

theorem exec_watchWrite (s : State) (mosi : List Byte) : exec (.watchWrite mosi) s = .next (s.watchFrame mosi) := rfl

theorem exec_watchBadOpcodeFrame (s : State) (mosi : List Byte) :
    exec (.watchBadOpcodeFrame mosi) s = .next (s.watchFrame mosi) := rfl

/-! ### What a sound frame does (R310, R311) -/

theorem State.frameEffect_badOpcode (op : 2 < leAt mosi 0 1) : s.frameEffect mosi = (2, [], s) := if_pos (Or.inl op)

section Known

variable (reserved : leAt mosi 1 1 = 0) (aligned : leAt mosi 4 4 % 4 = 0)

include reserved aligned

theorem State.frameEffect_nop (op : leAt mosi 0 1 = 0) (len : leAt mosi 2 2 = 0) : s.frameEffect mosi = (0, [], s) := by
  simp [State.frameEffect, op, len, reserved, aligned]

theorem State.frameEffect_read (op : leAt mosi 0 1 = 1) (len : leAt mosi 2 2 = 4) (known : (watchPlace (leAt mosi 4 4)).isSome = true) :
    s.frameEffect mosi = (0, leBytes 4 ((s.watchCapture (leAt mosi 4 4)).watchWord (leAt mosi 4 4)), s.watchCapture (leAt mosi 4 4)) := by
  simp [State.frameEffect, op, len, reserved, aligned, frameWords, State.watchReads, Option.isSome_iff_ne_none.1 known]

variable {p b off : Nat} (op : leAt mosi 0 1 = 2) (len : leAt mosi 2 2 = 4) (place : watchPlace (leAt mosi 4 4) = some (.bank p b off))

include op len place

theorem State.frameEffect_write_readOnly (locked : s.readOnly (leAt mosi 4 4) = true) : s.frameEffect mosi = (4, [], s) := by
  simp [State.frameEffect, op, len, reserved, aligned, frameWords, place, locked]

theorem State.frameEffect_write_bank (free : s.readOnly (leAt mosi 4 4) = false) :
    s.frameEffect mosi = (0, [], s.watchPut (leAt mosi 4 4) (leAt mosi 8 4)) := by
  simp [State.frameEffect, op, len, reserved, aligned, frameWords, place, free, indexed, State.witnessOver]

end Known

end Frame

/-! ### The words read and written (R311, R312) -/

section Words

variable {s : State} {a p off : Nat}

/-- WP_RMSIGn and a region's signature are no captured words. -/
theorem State.watchWord_rmsig (place : watchPlace a = some (.port p 0x30)) (w : Tab Word) :
    { s with wcapts := w }.watchWord a = s.watchWord a := by
  rw [State.watchWord, State.watchWord, place]
  rfl

theorem State.regionReg_sig (s : State) (p : Nat) (word : regionWord off = 0x10) :
    s.regionReg p off = (s.stagedRegion p (regionOf off)).sig := by
  unfold State.regionReg
  rw [word]
  rfl

theorem State.watchWord_region (place : watchPlace a = some (.port p off)) (region : isRegion off = true) :
    s.watchWord a = s.regionReg p off := by
  rw [State.watchWord, place]
  exact if_pos region

theorem State.watchWord_regionSig (place : watchPlace a = some (.port p off)) (region : isRegion off = true)
    (word : regionWord off = 0x10) (w : Tab Word) : { s with wcapts := w }.watchWord a = s.watchWord a := by
  rw [State.watchWord_region place region, State.watchWord_region place region, State.regionReg_sig _ _ word, State.regionReg_sig _ _ word]
  rfl

/-- A state that is another one but for the captured words. -/
theorem State.eq_of_wcapts {t : State} (frame : { t with wcapts := s.wcapts } = s) : t = { s with wcapts := t.wcapts } :=
  congrArg (fun x : State => { x with wcapts := t.wcapts }) frame

/-- What a read of a word captures stands behind it, and does not change it. -/
theorem State.watchWord_watchCapture (s : State) (a : Nat) : (s.watchCapture a).watchWord a = s.watchWord a := by
  unfold State.watchCapture
  split
  next p off place =>
    split_ifs with rmsig region
    · rw [State.eq_of_wcapts (s.captureRmsig_frame p)]
      exact State.watchWord_rmsig (rmsig ▸ place) _
    · obtain ⟨inside, word⟩ := Bool.and_eq_true_iff.1 region
      rw [State.eq_of_wcapts (s.captureRegion_frame p _)]
      exact State.watchWord_regionSig place inside (of_decide_eq_true word) _
    · rfl
  · rfl

/-- The capture changes the captured words alone. -/
theorem State.watchCapture_frame (s : State) (a : Nat) : { s.watchCapture a with wcapts := s.wcapts } = s := by
  unfold State.watchCapture
  split
  next p off place =>
    split_ifs
    · exact s.captureRmsig_frame p
    · exact s.captureRegion_frame p _
    · rfl
  · rfl

theorem State.watchCapture_wregs (s : State) (a : Nat) : (s.watchCapture a).wregs = s.wregs := by
  rw [State.eq_of_wcapts (s.watchCapture_frame a)]

/-- A protected plate with bytes written into one of its banks. -/
def Prot.bankWritten (x : Prot) (b off : Nat) (bytes : List Byte) : Prot :=
  if b = 0 then { x with bank0 := writeBytes .zeros x.bank0 off bytes } else { x with bank1 := writeBytes .zeros x.bank1 off bytes }

/-- The state with bytes written into a bank of a port. -/
def State.bankWritten (s : State) (p b off : Nat) (bytes : List Byte) : State :=
  s.modPort p fun q => { q with prot := q.prot.bankWritten b off bytes }

theorem State.watchPut_bank {b : Nat} (place : watchPlace a = some (.bank p b off)) (v : Nat) :
    s.watchPut a v = s.bankWritten p b off (leBytes 4 v) := by
  rw [State.watchPut, place]
  rfl

theorem State.bankWritten_prot (s : State) (p b off : Nat) (bytes : List Byte) :
    ((s.bankWritten p b off bytes).port p).prot = (s.port p).prot.bankWritten b off bytes :=
  congrArg Port.prot (State.port_modPort _ _ _)

theorem State.bankWritten_frame (s : State) (p b off : Nat) (bytes : List Byte) :
    { s.bankWritten p b off bytes with ports := s.ports } = s := rfl

end Words

/-! ### The statement -/

/-- A READ leaves its response and its captures behind, and nothing else. -/
theorem State.answered_of_captured {s t : State} (frame : { t with wcapts := s.wcapts } = s) (seq status : Nat) (data : List Byte) :
    { t.answered seq status data with wregs := s.wregs, wpSeq := s.wpSeq, miso := s.miso, wcapts := s.wcapts } = s :=
  congrArg (fun x : State => { x with wregs := s.wregs, wpSeq := s.wpSeq, miso := s.miso }) frame

/-- A WRITE into a bank leaves its response and its port behind, and nothing else. -/
theorem State.answered_of_ports {s t : State} (frame : { t with ports := s.ports } = s) (seq status : Nat) (data : List Byte) :
    { t.answered seq status data with wregs := s.wregs, wpSeq := s.wpSeq, miso := s.miso, ports := s.ports } = s :=
  congrArg (fun x : State => { x with wregs := s.wregs, wpSeq := s.wpSeq, miso := s.miso }) frame

theorem State.answered_port (t : State) (seq status : Nat) (data : List Byte) (q : Nat) :
    (t.answered seq status data).port q = t.port q := rfl

/-- Settles O48: a sound frame is answered for what it does, and a broken one is discarded. -/
theorem watchFrames : Obligations.WatchFrames := by
  intro mosi s canon runs booted purser op len addr n after good answers quiet
  obtain ⟨sorted, -⟩ := canon.wregs
  have up : s.watchUp = true := State.watchUp_of runs booted purser
  refine ⟨fun sound isNop reserved empty aligned => ?_, fun sound isRead reserved word aligned known => ?_,
    fun p b off sound isWrite reserved word aligned place => ⟨fun locked => ?_, fun free => ?_⟩, fun sound unknown => ?_,
    fun short => ?_, fun whole damaged => ?_⟩
  · obtain ⟨ran, counted⟩ := exec_frame_answered (exec_watchNop s mosi) sorted up sound
      (State.frameEffect_nop reserved aligned isNop empty) rfl
    exact ⟨_, ran, rfl, rfl, counted, s.answered_frame _ _ _ _ _ _⟩
  · obtain ⟨ran, counted⟩ := exec_frame_answered (exec_watchRead s mosi) sorted up sound
      (State.frameEffect_read reserved aligned isRead word known) (s.watchCapture_wregs addr)
    rw [State.watchWord_watchCapture] at ran counted
    exact ⟨_, ran, rfl, rfl, counted, State.answered_of_captured (s.watchCapture_frame addr) _ _ _⟩
  · obtain ⟨ran, counted⟩ := exec_frame_answered (exec_watchWrite s mosi) sorted up sound
      (State.frameEffect_write_readOnly reserved aligned isWrite word place locked) rfl
    exact ⟨_, ran, rfl, rfl, counted, s.answered_frame _ _ _ _ _ _⟩
  · have effect := State.frameEffect_write_bank reserved aligned isWrite word place free
    rw [State.watchPut_bank place] at effect
    obtain ⟨ran, counted⟩ := exec_frame_answered (exec_watchWrite s mosi) sorted up sound effect rfl
    have written := s.bankWritten_prot p b off (leBytes 4 (leAt mosi 8 4))
    exact ⟨_, ran, rfl, rfl, counted, fun first => written.trans (if_pos first), fun second => written.trans (if_neg second),
      fun q other => (State.answered_port _ _ _ _ q).trans (State.port_modPort_ne _ _ other),
      State.answered_of_ports (s.bankWritten_frame p b off _) _ _ _⟩
  · obtain ⟨ran, counted⟩ := exec_frame_answered (exec_watchBadOpcodeFrame s mosi) sorted up sound
      (State.frameEffect_badOpcode unknown) rfl
    exact ⟨_, ran, rfl, rfl, counted, s.answered_frame _ _ _ _ _ _⟩
  · exact ⟨_, (exec_watchNop s mosi).trans (congrArg _ (State.watchFrame_cutShort up short)), s.discardFrame_wpSeq, rfl⟩
  · exact ⟨_, (exec_watchRead s mosi).trans (congrArg _ (State.watchFrame_damaged up whole damaged)), s.discardFrame_wpSeq, rfl⟩

end Sys2Proof.Machine

/-! The timers of MODE packets and of starts and stops (O36). -/

namespace Sys2Proof.Machine

/-! ### One port alone changes, or its link alone -/

/-- State `t` is `s` but for port `p`. -/
structure State.PortMoved (s t : State) (p : Nat) : Prop where
  others : ∀ q, q ≠ p → t.port q = s.port q
  frame : { t with ports := s.ports } = s

theorem State.PortMoved.refl (s : State) (p : Nat) : s.PortMoved s p := ⟨fun _ _ => rfl, rfl⟩

theorem State.PortMoved.trans {s t u : State} {p : Nat} (h : s.PortMoved t p) (k : t.PortMoved u p) : s.PortMoved u p :=
  ⟨fun q other => (k.others q other).trans (h.others q other),
    (congrArg (fun x : State => { x with ports := s.ports }) k.frame).trans h.frame⟩

theorem State.modPort_portMoved (s : State) (p : Nat) (f : Port → Port) : s.PortMoved (s.modPort p f) p :=
  ⟨fun _ other => s.port_modPort_ne f other, rfl⟩

/-- State `t` is `s` but for the link of port `p`. -/
structure State.LinkMoved (s t : State) (p : Nat) : Prop extends s.PortMoved t p where
  own : { t.port p with link := (s.port p).link } = s.port p

theorem State.LinkMoved.refl (s : State) (p : Nat) : s.LinkMoved s p := ⟨.refl s p, rfl⟩

theorem State.LinkMoved.trans {s t u : State} {p : Nat} (h : s.LinkMoved t p) (k : t.LinkMoved u p) : s.LinkMoved u p :=
  ⟨h.toPortMoved.trans k.toPortMoved, (congrArg (fun x : Port => { x with link := (s.port p).link }) k.own).trans h.own⟩

theorem State.LinkMoved.linksMoved {s t : State} {p : Nat} (h : s.LinkMoved t p) : s.LinksMoved t := fun q => by
  by_cases here : q = p
  · subst here
    exact (congrArg Port.unlinked h.own :)
  · rw [h.others q here]

theorem State.port_modLink (s : State) (p : Nat) (f : Link → Link) :
    (s.modLink p f).port p = { s.port p with link := f (s.port p).link } := s.port_modPort p _

theorem State.link_modLink (s : State) (p : Nat) (f : Link → Link) : ((s.modLink p f).port p).link = f (s.port p).link :=
  congrArg Port.link (s.port_modLink p f)

theorem State.modLink_linkMoved (s : State) (p : Nat) (f : Link → Link) : s.LinkMoved (s.modLink p f) p :=
  ⟨s.modPort_portMoved p _, by rw [s.port_modLink]⟩

theorem State.port_of_ports {s t : State} (h : t.ports = s.ports) (q : Nat) : t.port q = s.port q :=
  congrArg (tabGet Port.reset · q) h

/-! ### A packet goes out, or waits for room (R354, R359) -/

theorem State.sendFree_eq (s : State) (p : Nat) (k : Packet) : s.sendFree p (.packet k) = s.transmit p (.packet k) ∨
    s.sendFree p (.packet k) = s.modLink p fun l => { l with later := l.later ++ [k] } :=
  ite_eq_or_eq _ _ _

theorem State.sendFree_linkMoved (s : State) (p : Nat) (k : Packet) : s.LinkMoved (s.sendFree p (.packet k)) p := by
  obtain out | waits := s.sendFree_eq p k
  · exact out ▸ s.modLink_linkMoved p _
  · exact waits ▸ s.modLink_linkMoved p _

theorem Link.send_tx (l : Link) (k : Packet) : ∃ x : Packet, x.words = k.words ∧ (l.send (.packet k)).tx = l.tx ++ [.packet x] :=
  ⟨{ k with pos := l.freePos k.tick, form := (l.nd, l.keel, l.map) }, rfl, rfl⟩

/-- Its words go out on the lanes, or are the last of those that wait. -/
theorem State.sendFree_words (s : State) (p : Nat) (k : Packet) : ∃ x : Packet, x.words = k.words ∧
    (((s.sendFree p (.packet k)).port p).link.tx = (s.port p).link.tx ++ [.packet x] ∨
      (((s.sendFree p (.packet k)).port p).link.later = (s.port p).link.later ++ [x] ∧
        ((s.sendFree p (.packet k)).port p).link.tx = (s.port p).link.tx)) := by
  obtain out | waits := s.sendFree_eq p k
  · obtain ⟨x, words, sent⟩ := (s.port p).link.send_tx k
    exact ⟨x, words, .inl (by rw [out, State.transmit, State.link_modLink, sent])⟩
  · exact ⟨k, rfl, .inr (by rw [waits, State.link_modLink]; exact ⟨rfl, rfl⟩)⟩

theorem State.changeDone_link (s : State) (p q : Nat) : ((s.changeDone p).port q).link = (s.port q).link := by
  unfold State.changeDone
  extract_lets l added waits
  split
  · obtain ⟨-, read⟩ := State.foldl_modPort (s.ownPorts l) (f := fun x => { x with phase := .running }) (fun _ => rfl) s
    rw [read]
    split
    · rfl
    · rfl
  · rfl

/-! ### MODE packets again, and a change not acknowledged (R330) -/

/-- The MODE packet that awaits its answer, once it has gone out again. -/
def ModeWait.again (w : ModeWait) : ModeWait := { w with resend := w.resend + msTicks 10 }

section Unanswered

variable {s : State} {p : Nat} {w : ModeWait} (waits : (s.port p).modeWait = some w) (formed : (s.port p).link.reformWait = none)
include waits formed

theorem State.resendMode_due (late : w.resend ≤ s.now) : s.resendMode p =
    (s.sendModeFree p 0 (s.announced p).2 (s.announced p).1 w.modeId).modPort p fun q => { q with modeWait := some w.again } := by
  simp only [State.resendMode, waits, formed, late, if_true]
  rfl

theorem State.resendMode_sent (late : w.resend ≤ s.now) (sends : s.sends p = true) : ∃ k x : Packet,
    s.modePacket p 0 (s.announced p).2 (s.announced p).1 w.modeId (s.slotPlace p) s.now = .packet k ∧ x.words = k.words ∧
    ((s.resendMode p).port p).modeWait = some w.again ∧ s.PortMoved (s.resendMode p) p ∧
    (((s.resendMode p).port p).link.tx = (s.port p).link.tx ++ [.packet x] ∨
      (((s.resendMode p).port p).link.later = (s.port p).link.later ++ [x] ∧
        ((s.resendMode p).port p).link.tx = (s.port p).link.tx)) := by
  obtain ⟨k, made⟩ : ∃ k, s.modePacket p 0 (s.announced p).2 (s.announced p).1 w.modeId (s.slotPlace p) s.now = .packet k := ⟨_, rfl⟩
  obtain ⟨x, words, out⟩ := s.sendFree_words p k
  have again : s.resendMode p = (s.sendFree p (.packet k)).modPort p fun q => { q with modeWait := some w.again } := by
    rw [State.resendMode_due waits formed late, State.sendModeFree, if_pos sends, made]
  rw [again, State.port_modPort]
  exact ⟨k, x, made, words, rfl, (s.sendFree_linkMoved p k).toPortMoved.trans (State.modPort_portMoved _ p _), out⟩

theorem State.ackTimeout_change (change : w.use = .change) (late : w.since + msTicks 1000 ≤ s.now) : s.ackTimeout p =
    ((s.modPort p fun q => { q with modeWait := none }).raise (err 2 0x07 0x06 (instP p 0) w.modeId 0 0)).changeDone p := by
  have kept : ((((s.modPort p fun q => { q with modeWait := none }).raise (err 2 0x07 0x06 (instP p 0) w.modeId 0 0)).changeDone p).port p).link =
      (s.port p).link := by
    rw [State.changeDone_link, State.port_of_ports (State.raise_mild _ (show (2 : Nat) ≠ 3 by decide)).1, State.port_modPort]
  simp only [State.ackTimeout, waits, change, late, decide_true, and_self, if_true, kept, formed]

end Unanswered
/-! ### The lanes leave L0 (R373) -/

theorem State.powerSeptets_linkMoved (s : State) (p target : Nat) : s.LinkMoved (s.powerSeptets p target) p := by
  unfold State.powerSeptets
  extract_lets f t
  exact (s.modLink_linkMoved p _).trans (t.modLink_linkMoved p _)

theorem State.enterPower_linkMoved (s : State) (p : Nat) (target : LanePower) : s.LinkMoved (s.enterPower p target) p := by
  unfold State.enterPower
  extract_lets l t
  have announced : s.LinkMoved t p := by
    unfold t
    split
    · exact (s.modLink_linkMoved p _).trans (State.powerSeptets_linkMoved _ p _)
    · exact .refl s p
  exact (announced.trans (t.modLink_linkMoved p _)).trans (State.modLink_linkMoved _ p _)

theorem State.enterPower_link (s : State) (p : Nat) (target : LanePower) :
    let l := ((s.enterPower p target).port p).link
    l.power = target ∧ l.phase = .down ∧ l.holdEnd = none ∧ l.holds = false := by
  unfold State.enterPower
  extract_lets before t l
  have entered : l = _ := State.link_modLink _ p _
  rw [entered]
  exact ⟨rfl, rfl, rfl, rfl⟩

/-! ### A start is given up (R330) -/

/-- Ports that stop and have no MODE_SET waiting leave WAIT_SCANs alone when none runs (R418). -/
theorem State.scanStopped_idle {s : State} (idle : ∀ e ∈ s.ledger, ∀ c ∈ e.cmds, c.op = 6 → c.phase ≠ .running) (p : Nat) :
    s.scanStopped p = s :=
  List.foldlRecOn (motive := fun t => t = s) _ _ rfl fun t same e mem => by
    subst same
    extract_lets hits n u
    have none : e.cmds.filter hits = [] := List.filter_eq_nil_iff.2 fun c here => by
      simp only [hits, Bool.and_eq_true, decide_eq_true_eq]
      exact fun ⟨⟨⟨wait, runs⟩, _⟩, _⟩ => idle e mem c here wait runs
    exact if_pos (.inl (congrArg List.length none))

/-- A port whose start is given up, but for the start itself, which its lead keeps. -/
def Port.unstarted (x : Port) (reason : Nat) : Port :=
  { x with phase := .stopped, stopReason := reason, gang := 0, acked := false, modeWait := none }

/-- The state between: the members are stopped, and their lanes have not left L0 yet. -/
def State.unstarting (s : State) (p reason : Nat) : State :=
  ((s.members p).foldl (fun s q => s.modPort q fun x => x.unstarted reason) s).modPort p fun x =>
    { x with modeNext := none, startBy := none, startId := none }

theorem State.unstart_eq {s : State} (idle : ∀ e ∈ s.ledger, ∀ c ∈ e.cmds, c.op = 6 → c.phase ≠ .running) (p reason : Nat) :
    s.unstart p reason = s.unstarting p reason := by
  obtain ⟨⟨ports, frame⟩, -⟩ := State.foldl_modPort (s.members p) (f := fun x => x.unstarted reason) (fun _ => rfl) s
  have same : (s.unstarting p reason).ledger = s.ledger := by
    rw [State.unstarting, frame]
    rfl
  rw [← same] at idle
  exact List.foldlRecOn (motive := fun t => t = s.unstarting p reason) _ _ rfl fun t here q _ => by
    subst here
    exact State.scanStopped_idle idle q

theorem State.unstarting_port (s : State) (p reason q : Nat) : (s.unstarting p reason).port q = 
    let x := if q ∈ s.members p then (s.port q).unstarted reason else s.port q
    if q = p then { x with modeNext := none, startBy := none, startId := none } else x := by
  obtain ⟨-, read⟩ := State.foldl_modPort (s.members p) (f := fun x => x.unstarted reason) (fun _ => rfl) s
  by_cases here : q = p
  · subst here
    rw [State.unstarting, State.port_modPort, read, if_pos rfl]
  · rw [State.unstarting, State.port_modPort_ne _ _ here, read, if_neg here]

theorem State.unstarting_modeQueue (s : State) (p reason q : Nat) :
    ((s.unstarting p reason).port q).modeQueue = (s.port q).modeQueue := by
  rw [State.unstarting_port]
  dsimp only
  split_ifs <;> rfl

theorem State.unstarting_member {s : State} {p q : Nat} (reason : Nat) (member : q ∈ s.members p) :
    let x := (s.unstarting p reason).port q
    x.phase = .stopped ∧ x.stopReason = reason ∧ x.gang = 0 := by
  rw [State.unstarting_port, if_pos member]
  dsimp only
  split
  · exact ⟨rfl, rfl, rfl⟩
  · exact ⟨rfl, rfl, rfl⟩

theorem State.members_congr {s t : State} (gangs : ∀ q, (t.port q).gang = (s.port q).gang) (p : Nat) : t.members p = s.members p := by
  simp only [State.members, gangs]

/-- A completion marks commits of the ports and changes nothing else of them. -/
theorem State.finish_port (s : State) (id : Nat) (f : Fail) (r0 r1 q : Nat) :
    (s.finish id f r0 r1).port q = { s.port q with commits := ((s.finish id f r0 r1).port q).commits } := by
  obtain ⟨g, noted⟩ := s.finishAt_ports id s.tideNs false f r0 r1
  rw [State.finish, State.port_of_mapCommits noted]

/-- State `t` is `s` but for links and MODE packets that wait. -/
structure State.LinksOnly (s t : State) : Prop where
  moved : s.LinksMoved t
  frame : { t with ports := s.ports } = s

theorem State.LinksOnly.refl (s : State) : s.LinksOnly s := ⟨.refl s, rfl⟩

theorem State.LinksOnly.trans {s t u : State} (h : s.LinksOnly t) (k : t.LinksOnly u) : s.LinksOnly u :=
  ⟨h.moved.trans k.moved, (congrArg (fun x : State => { x with ports := s.ports }) k.frame).trans h.frame⟩

theorem State.LinkMoved.linksOnly {s t : State} {p : Nat} (h : s.LinkMoved t p) : s.LinksOnly t := ⟨h.linksMoved, h.frame⟩

theorem Port.unlinked_stopReason {x y : Port} (h : x.unlinked = y.unlinked) : x.stopReason = y.stopReason :=
  (congrArg Port.stopReason h :)

section GivenUp

variable {s : State} {p id : Nat} {e : Entry} (here : (s.port p).startId = some id) (completes : Completing s id e)
  (idle : ∀ x ∈ s.ledger, ∀ c ∈ x.cmds, c.op = 6 → c.phase ≠ .running) (quiet : ∀ q, q < 4 → (s.port q).modeQueue = [])
include here completes idle quiet

/-- Beside the links, the completed MODE_SET and the stopped members are all that a start given up leaves. -/
theorem State.giveUp_linksOnly (reason : Nat) (f : Fail) :
    ((s.finish id f 0 0).unstarting p reason).LinksOnly (s.giveUp p reason f) := by
  obtain ⟨ledger, -⟩ := State.finish_completed completes f 0 0
  have left : ∀ x ∈ (s.finish id f 0 0).ledger, ∀ c ∈ x.cmds, c.op = 6 → c.phase ≠ .running := fun x mem =>
    idle x (List.mem_of_mem_filter (ledger ▸ mem))
  have given : s.giveUp p reason f = ((s.members p).foldl (fun s q => s.enterPower q (s.stopTarget q))
      ((s.finish id f 0 0).unstarting p reason)).kickAll := by
    rw [← State.unstart_eq left]
    simp only [State.giveUp, State.startFails, here]
  have down : ((s.finish id f 0 0).unstarting p reason).LinksOnly ((s.members p).foldl (fun s q => s.enterPower q (s.stopTarget q))
      ((s.finish id f 0 0).unstarting p reason)) :=
    List.foldlRecOn (motive := State.LinksOnly _) _ _ (.refl _) fun t h q _ => h.trans (t.enterPower_linkMoved q _).linksOnly
  rw [given, State.kickAll_quiet]
  · exact down
  · intro q small _
    rw [(Port.unlinked_fields (down.moved q)).2.2.1, State.unstarting_modeQueue, State.finish_port]
    exact quiet q small

theorem State.giveUp_completes (reason : Nat) (f : Fail) : Completed s (s.giveUp p reason f) e false f 0 0 := by
  obtain ⟨ledger, egress⟩ := State.finish_completed completes f 0 0
  obtain ⟨⟨ports, stopped⟩, -⟩ := State.foldl_modPort ((s.finish id f 0 0).members p) (f := fun x => x.unstarted reason)
    (fun _ => rfl) (s.finish id f 0 0)
  have given := (State.giveUp_linksOnly here completes idle quiet reason f).frame
  rw [State.unstarting, stopped] at given
  exact ⟨(congrArg State.ledger given :).trans ledger, (congrArg State.egress given :).trans egress⟩

theorem State.giveUp_member (reason : Nat) (f : Fail) {q : Nat} (member : q ∈ s.members p) :
    let x := (s.giveUp p reason f).port q
    x.phase = .stopped ∧ x.stopReason = reason ∧ x.gang = 0 := by
  have gangs : ∀ q, ((s.finish id f 0 0).port q).gang = (s.port q).gang := fun q => by rw [State.finish_port]
  obtain ⟨phase, cause, gang⟩ := State.unstarting_member reason (State.members_congr gangs p ▸ member)
  have moved := (State.giveUp_linksOnly here completes idle quiet reason f).moved q
  obtain ⟨phase', gang', -⟩ := Port.unlinked_fields moved
  exact ⟨phase'.trans phase, (Port.unlinked_stopReason moved).trans cause, gang'.trans gang⟩

end GivenUp

/-- Settles O36: each timer of MODE packets, of starts and of HOLD that has run out does what it is for. -/
theorem modeTimers : Obligations.ModeTimers := by
  intro p s canon
  refine ⟨fun w waits late formed sends => ?_, fun w waits change late formed => ?_, fun starts late quiet idle id e here completes => ?_,
    fun ended => ?_⟩
  · obtain ⟨k, x, made, words, again, moved, out⟩ := State.resendMode_sent waits formed late sends
    exact ⟨_, k, x, rfl, again, moved.others, made, words, out, moved.frame⟩
  · have answered := s.modPort_portMoved p fun q => { q with modeWait := none }
    exact ⟨_, congrArg _ (State.ackTimeout_change waits formed change late), s.port_modPort p _, answered.others, answered.frame⟩
  · have given : exec (.modeStartTimeout p) s = .next (s.giveUp p 5 (stTimeout, det 5 0)) := 
      if_pos (by rw [starts, late]; rfl)
    exact ⟨_, given, State.giveUp_completes here completes idle quiet 5 _, fun q member =>
      State.giveUp_member here completes idle quiet 5 _ member⟩
  · obtain ⟨power, phase, silent, released⟩ := s.enterPower_link p (s.stopTarget p)
    have moved := s.enterPower_linkMoved p (s.stopTarget p)
    exact ⟨_, if_pos ended, power, phase, silent, released, moved.others, moved.frame⟩

end Sys2Proof.Machine

/-! MODE_ACK and TALLY on the back channel, and the start and the end of a loopback (O51). -/

namespace Sys2Proof.Machine

/-! ### The back channel (R361, R362) -/

/-- The back channel of the port has been heard now (R363). -/
def State.heard (s : State) (p : Nat) : State := s.modLink p fun l => { l with bcHeard := some s.now }

theorem State.onMessage_sound {s : State} {msg : List Byte} {type : Nat} (runs : s.power.boot ≠ .inReset) (sound : bcOk msg = true)
    (typed : leAt msg 0 1 = type) (p : Nat) (f : List Byte → State → State) :
    s.onMessage p type msg f = f (bytesAt msg 2 12) (s.heard p) := by
  rw [State.onMessage, State.running_eq_true runs, sound, typed, decide_eq_true rfl]
  rfl

theorem leNat_lt (bs : List Byte) : leNat bs < 256 ^ bs.length := by
  induction bs with
  | nil => exact Nat.one_pos
  | cons b bs ih =>
    have low : b.toNat < 256 := b.isLt
    rw [leNat, List.length_cons, Nat.pow_succ]
    omega

theorem leAt_lt (bs : List Byte) (off n : Nat) : leAt bs off n < 256 ^ n := by
  have length : (bytesAt bs off n).length = n := by simp [bytesAt]
  exact (leNat_lt _).trans_eq (congrArg (256 ^ ·) length)

/-! ### MODE_ACK (R330, R370) -/

theorem Link.settle_reformWait (l : Link) : l.settle.reformWait = l.reformWait := by
  unfold Link.settle
  split
  · rfl
  · rfl

/-- A re-forming that waits for nothing any more is over. -/
theorem Link.settle_up {l : Link} (reforming : l.phase = .reforming) (taken : l.reform = none) (answered : l.reformWait = none)
    (whole : l.retrains = []) : l.settle.phase = .up := by
  simp [Link.settle, reforming, taken, answered, whole]

section Acknowledged

variable {s : State} {p : Nat} {w : ModeWait}

theorem State.takeModeAck_reform (waits : (s.port p).link.reformWait = some w) (result : Nat) :
    s.takeModeAck p w.modeId result = s.modLink p fun l => { l with reformWait := none }.settle := by
  simp only [State.takeModeAck, waits, if_true]

theorem State.takeModeAck_change (formed : (s.port p).link.reformWait = none) (waits : (s.port p).modeWait = some w)
    (change : w.use = .change) : s.takeModeAck p w.modeId 0 = (s.modPort p fun q => { q with modeWait := none }).changeDone p := by
  simp only [State.takeModeAck, formed, waits, if_true, State.modeAnswered, change, decide_true]

end Acknowledged

/-! ### Registers alone change -/

/-- State `t` is `s` but for words of PF BAR0. -/
structure State.RegsMoved (s t : State) : Prop where
  eq : ∃ regs, t = { s with regs := regs }

theorem State.RegsMoved.refl (s : State) : s.RegsMoved s := ⟨_, rfl⟩

theorem State.RegsMoved.trans {s t u : State} (h : s.RegsMoved t) (k : t.RegsMoved u) : s.RegsMoved u := by
  obtain ⟨_, rfl⟩ := h
  obtain ⟨_, rfl⟩ := k
  exact ⟨_, rfl⟩

theorem State.setReg_regsMoved (s : State) (off v : Nat) : s.RegsMoved (s.setReg off v) := ⟨_, rfl⟩

theorem State.setField_regsMoved (s : State) (off hi lo v : Nat) : s.RegsMoved (s.setField off hi lo v) := s.setReg_regsMoved _ _

theorem State.RegsMoved.port {s t : State} (h : s.RegsMoved t) (q : Nat) : t.port q = s.port q := by
  obtain ⟨_, rfl⟩ := h
  rfl

theorem State.RegsMoved.cway {s t : State} (h : s.RegsMoved t) : t.cway = s.cway := by
  obtain ⟨_, rfl⟩ := h
  rfl

/-- Words of PF BAR0 change, and then the link of one port. -/
theorem State.RegsMoved.then_link {s t u : State} {p : Nat} (h : s.RegsMoved t) (k : t.LinkMoved u p) :
    { u with ports := s.ports, regs := s.regs } = s := by
  obtain ⟨regs, rfl⟩ := h
  exact congrArg (fun x : State => { x with regs := s.regs }) k.frame

/-! ### The start of a loopback (R375, R376) -/

/-- Port `p` under a loopback that begins on these lanes. -/
def Link.looped (l : Link) (mode lanes : Nat) : Link :=
  { l with phase := .loopback, loopFrom := if l.phase = .loopback then l.loopFrom else l.phase, loop := some (mode, lanes), tallies := [] }

theorem State.startLoop_runs {s : State} {p : Nat} (runs : (s.port p).phase ≠ .stopped) (mode lanes : Nat) :
    s.startLoop p mode lanes = s.setBit (linkBase p + 0x84) 30 := if_pos runs

/-- LINK_LOOP's result word is cleared (log 45). -/
def State.loopCleared (s : State) (p : Nat) : State :=
  (s.setField (linkBase p + 0x84) 30 30 0).setReg (linkBase p + 0x84) 0

theorem State.loopCleared_regsMoved (s : State) (p : Nat) : s.RegsMoved (s.loopCleared p) :=
  (s.setField_regsMoved _ _ _ _).trans (State.setReg_regsMoved _ _ _)

theorem State.loopCleared_reg {s : State} (sorted : tabSorted s.regs) (p : Nat) : (s.loopCleared p).reg (linkBase p + 0x84) = 0 :=
  State.reg_setReg (tabSorted_set sorted _ _ _) _ 0

theorem State.loopCleared_reg_ne (s : State) {p o : Nat} (other : o ≠ linkBase p + 0x84) : (s.loopCleared p).reg o = s.reg o := by
  rw [State.loopCleared, State.reg_setReg_ne _ 0 other, State.reg_setField_ne _ 30 30 0 other]

section NearEnd

variable {s : State} {p mode : Nat} (stopped : (s.port p).phase = .stopped) (near : mode = 1 ∨ mode = 2) (lanes : Nat)
include stopped near

theorem State.startLoop_nearEnd : s.startLoop p mode lanes =
    (s.loopCleared p).modLink p fun l => l.looped mode lanes := by
  have known : ¬(mode = 0 ∨ 3 < mode) := by omega
  have other : mode ≠ 3 := by omega
  simp only [State.startLoop, stopped, known, other, ne_eq, not_true, if_false, Link.looped, State.loopCleared]

theorem State.startLoop_port : (s.startLoop p mode lanes).port p = { s.port p with link := (s.port p).link.looped mode lanes } := by
  rw [State.startLoop_nearEnd stopped near, State.port_modLink, (s.loopCleared_regsMoved p).port]

theorem State.startLoop_others {q : Nat} (other : q ≠ p) : (s.startLoop p mode lanes).port q = s.port q := by
  rw [State.startLoop_nearEnd stopped near, (State.modLink_linkMoved _ p _).others q other,
    (s.loopCleared_regsMoved p).port]

theorem State.startLoop_reg (o : Nat) : (s.startLoop p mode lanes).reg o = (s.loopCleared p).reg o := by
  rw [State.startLoop_nearEnd stopped near]
  exact State.reg_of_regs (State.modLink_regs _ p _) o

theorem State.startLoop_frame : { s.startLoop p mode lanes with ports := s.ports, regs := s.regs } = s := by
  rw [State.startLoop_nearEnd stopped near]
  exact (s.loopCleared_regsMoved p).then_link (State.modLink_linkMoved _ p _)

end NearEnd

/-! ### The lanes of a mask -/

theorem mem_lanesOf {mask x : Nat} : x ∈ lanesOf mask ↔ x < 12 ∧ mask.testBit x = true := by
  simp [lanesOf, Nat.testBit_eq_decide_div_mod_eq]

/-- The mask of rising lanes has just their bits. -/
theorem testBit_laneMask {ls : List Nat} (rising : ls.SortedLT) (x : Nat) : (laneMask ls).testBit x = decide (x ∈ ls) := by
  rw [Bool.eq_iff_iff, ← Nat.mem_bitIndices, laneMask, Nat.bitIndices_sum_map_two_pow rising, decide_eq_true_iff]

theorem lanesOf_filter_sorted (mask : Nat) (keep : Nat → Bool) : ((lanesOf mask).filter keep).SortedLT :=
  (((List.sortedLT_range 12).pairwise.filter _).filter _).sortedLT

theorem testBit_laneMask_filter (mask x : Nat) (keep : Nat → Bool) :
    (laneMask ((lanesOf mask).filter keep)).testBit x = (decide (x < 12) && mask.testBit x && keep x) := by
  rw [testBit_laneMask (lanesOf_filter_sorted mask keep)]
  simp [mem_lanesOf, Bool.and_assoc]

theorem laneMask_filter_lt (mask : Nat) (keep : Nat → Bool) : laneMask ((lanesOf mask).filter keep) < 2 ^ 12 :=
  Nat.lt_pow_two_of_testBit _ fun x high => by
    rw [testBit_laneMask_filter, decide_eq_false (Nat.not_lt.2 high)]
    rfl

/-- LINK_LOOP's result word: valid, the lanes that failed, and those that passed (R376, R381). -/
def loopResult (failed passed : Nat) : Nat := 2 ^ 31 + failed * 65536 + passed

theorem testBit_loopResult {failed passed : Nat} (f : failed < 2 ^ 12) (p : passed < 2 ^ 12) :
    (loopResult failed passed % 2 ^ 32).testBit 31 = true ∧ ∀ x, x < 12 →
      (loopResult failed passed % 2 ^ 32).testBit x = passed.testBit x ∧
      (loopResult failed passed % 2 ^ 32).testBit (16 + x) = failed.testBit x := by
  have word : loopResult failed passed = 2 ^ 16 * (2 ^ 15 * 1 + failed) + passed := by
    rw [loopResult]
    ring
  have low : passed < 2 ^ 16 := by omega
  have high : failed < 2 ^ 15 := by omega
  simp only [word, Nat.testBit_mod_two_pow, Nat.testBit_two_pow_mul_add _ low, Nat.testBit_two_pow_mul_add _ high]
  refine ⟨rfl, fun x small => ⟨?_, ?_⟩⟩
  · simp [show x < 32 by omega, show x < 16 by omega]
  · simp [show 16 + x < 32 by omega, show x < 15 by omega]

/-! ### The end of a near-end loopback (R376) -/

/-- The counted errors of a lane stand in its register. -/
def State.putErrors (s : State) (p : Nat) (errors : List Nat) (lane : Nat) : State :=
  s.setReg (linkBase p + 0xC0 + 4 * lane) (errors.getD lane 0)

/-- The lane passes when no error was counted on it. -/
def laneClean (errors : List Nat) (lane : Nat) : Bool := decide (errors.getD lane 0 = 0)

/-- The lanes that fail and those that pass, with what each lane counted in its register. -/
theorem foldl_laneResult {p mode : Nat} (near : mode ≠ 3) (errors : List Nat) (l : List Nat) (s : State) (failed passed : Nat) :
    l.foldl (fun (a : (Nat × Nat) × State) x =>
      let v := a.2.laneResult p mode x errors
      (if v.1 then (a.1.1, a.1.2 + 2 ^ x) else (a.1.1 + 2 ^ x, a.1.2), v.2)) ((failed, passed), s) =
    ((failed + laneMask (l.filter fun x => !laneClean errors x), passed + laneMask (l.filter (laneClean errors))),
      l.foldl (fun s x => s.putErrors p errors x) s) := by
  induction l generalizing s failed passed with
  | nil => rfl
  | cons x l ih =>
    rw [List.foldl_cons, List.foldl_cons]
    have result : s.laneResult p mode x errors = (laneClean errors x, s.putErrors p errors x) := if_neg near
    cases clean : laneClean errors x
    · simp only [result, clean, ih, List.filter_cons]
      simp [laneMask, Nat.add_assoc]
    · simp only [result, clean, ih, List.filter_cons]
      simp [laneMask, Nat.add_assoc]

section Counted

variable (p : Nat) (errors : List Nat) (l : List Nat) (s : State)

theorem State.foldl_putErrors_reg {s : State} (sorted : tabSorted s.regs) :
    tabSorted (l.foldl (fun s x => s.putErrors p errors x) s).regs ∧ ∀ x,
      (l.foldl (fun s x => s.putErrors p errors x) s).reg (linkBase p + 0xC0 + 4 * x) =
        if x ∈ l then errors.getD x 0 % 2 ^ 32 else s.reg (linkBase p + 0xC0 + 4 * x) := by
  induction l generalizing s with
  | nil => exact ⟨sorted, fun x => by simp⟩
  | cons y l ih =>
    obtain ⟨after, read⟩ := ih (s := s.putErrors p errors y) (tabSorted_set sorted _ _ _)
    refine ⟨after, fun x => (read x).trans ?_⟩
    by_cases here : x = y
    · subst here
      simp [State.putErrors, State.reg_setReg sorted]
    · have apart : linkBase p + 0xC0 + 4 * x ≠ linkBase p + 0xC0 + 4 * y := by omega
      simp [State.putErrors, State.reg_setReg_ne s _ apart, here]

end Counted

/-- A link that was down, or up with every lane in service, goes on as it was. -/
theorem State.resumeLink_idle {s : State} {p : Nat} (awake : (s.port p).link.wakeTo = none)
    (whole : (s.port p).link.phase = .down ∨ ((s.port p).link.phase = .up ∧ (s.port p).link.lost = 0)) : s.resumeLink p = s := by
  rcases whole with down | ⟨up, sound⟩
  · simp [State.resumeLink, down, awake]
  · simp [State.resumeLink, up, sound, awake]

section Ended

variable (s : State) (p : Nat) (errors : List Nat) (lanes : Nat)

/-- The tested lanes that fail, or those that pass, as a mask. -/
def failedLanes : Nat := laneMask ((lanesOf lanes).filter fun x => !laneClean errors x)
def passedLanes : Nat := laneMask ((lanesOf lanes).filter (laneClean errors))

/-- The lanes' registers written, with the counted errors. -/
def State.laneCounts : State := (lanesOf lanes).foldl (fun s x => s.putErrors p errors x) s

/-- The result of the loopback is published. -/
def State.loopShown : State :=
  (s.laneCounts p errors lanes).setReg (linkBase p + 0x84) (loopResult (failedLanes errors lanes) (passedLanes errors lanes))

/-- The loopback is over as well, and the link is as it was before. -/
def State.loopEnded : State := (s.loopShown p errors lanes).modLink p fun l => { l with loop := none, phase := l.loopFrom }

variable {s p errors lanes}

theorem State.loopShown_regsMoved : s.RegsMoved (s.loopShown p errors lanes) :=
  have counted : s.RegsMoved (s.laneCounts p errors lanes) :=
    List.foldlRecOn (motive := s.RegsMoved) _ _ (.refl s) fun t h _ _ => h.trans (t.setReg_regsMoved _ _)
  counted.trans (State.setReg_regsMoved _ _ _)

theorem State.loopEnded_port : (s.loopEnded p errors lanes).port p =
    { s.port p with link := { (s.port p).link with loop := none, phase := (s.port p).link.loopFrom } } := by
  rw [State.loopEnded, State.port_modLink, State.loopShown_regsMoved.port]

theorem State.loopEnded_others {q : Nat} (other : q ≠ p) : (s.loopEnded p errors lanes).port q = s.port q := by
  rw [State.loopEnded, (State.modLink_linkMoved _ p _).others q other, State.loopShown_regsMoved.port]

theorem State.loopEnded_frame : { s.loopEnded p errors lanes with ports := s.ports, regs := s.regs } = s :=
  State.loopShown_regsMoved.then_link (State.modLink_linkMoved _ p _)

theorem State.loopEnded_reg (o : Nat) : (s.loopEnded p errors lanes).reg o = (s.loopShown p errors lanes).reg o :=
  State.reg_of_regs (State.modLink_regs _ p _) o

theorem State.endLoop_nearEnd {mode : Nat} (loops : (s.port p).link.loop = some (mode, lanes)) (near : mode ≠ 3)
    (noTest : s.cway.posts.contains p = false) (quiet : ∀ q, q < 4 → (s.port q).modeQueue = []) (awake : (s.port p).link.wakeTo = none)
    (whole : (s.port p).link.loopFrom = .down ∨ ((s.port p).link.loopFrom = .up ∧ (s.port p).link.lost = 0)) :
    s.endLoop p errors = s.loopEnded p errors lanes := by
  have resumed : (s.loopEnded p errors lanes).resumeLink p = s.loopEnded p errors lanes :=
    State.resumeLink_idle (by rw [State.loopEnded_port]; exact awake) (by rw [State.loopEnded_port]; exact whole)
  have posts : (s.loopEnded p errors lanes).cway.posts.contains p = false := by
    rw [State.loopEnded, State.modLink_cway, State.loopShown_regsMoved.cway, noTest]
  have empty : ∀ q, q < 4 → ((s.loopEnded p errors lanes).port q).quiet := fun q small _ => by
    by_cases here : q = p
    · subst here
      rw [State.loopEnded_port]
      exact quiet q small
    · rw [State.loopEnded_others here]
      exact quiet q small
  have folded : s.endLoop p errors = (if ((s.loopEnded p errors lanes).resumeLink p).cway.posts.contains p then
      ((s.loopEnded p errors lanes).resumeLink p).endPost p (failedLanes errors lanes)
      else (s.loopEnded p errors lanes).resumeLink p).kickAll := by
    simp only [State.endLoop, loops, foldl_laneResult near, Nat.zero_add]
    rfl
  rw [folded, resumed, posts]
  exact State.kickAll_quiet empty

theorem State.loopEnded_regs (sorted : tabSorted s.regs) :
    (s.loopEnded p errors lanes).reg (linkBase p + 0x84) =
        loopResult (failedLanes errors lanes) (passedLanes errors lanes) % 2 ^ 32 ∧
      ∀ x, (s.loopEnded p errors lanes).reg (linkBase p + 0xC0 + 4 * x) =
        if x ∈ lanesOf lanes then errors.getD x 0 % 2 ^ 32 else s.reg (linkBase p + 0xC0 + 4 * x) := by
  obtain ⟨after, read⟩ := State.foldl_putErrors_reg p errors (lanesOf lanes) sorted
  refine ⟨(State.loopEnded_reg _).trans (State.reg_setReg after _ _), fun x => ?_⟩
  have apart : linkBase p + 0xC0 + 4 * x ≠ linkBase p + 0x84 := by omega
  exact ((State.loopEnded_reg _).trans (State.reg_setReg_ne _ _ apart)).trans (read x)

/-- What LINK_LOOP and the lanes' registers show then (R376, R381). -/
theorem State.loopEnded_result (sorted : tabSorted s.regs) :
    let t := s.loopEnded p errors lanes
    let res := linkBase p + 0x84
    (t.reg res).testBit 31 = true ∧ ∀ x, x < 12 →
      (t.reg res).testBit x = (lanes.testBit x && decide (errors.getD x 0 = 0)) ∧
      (t.reg res).testBit (16 + x) = (lanes.testBit x && decide (errors.getD x 0 ≠ 0)) ∧
      t.reg (linkBase p + 0xC0 + 4 * x) = if lanes.testBit x then errors.getD x 0 % 2 ^ 32 else s.reg (linkBase p + 0xC0 + 4 * x) := by
  intro t res
  obtain ⟨result, counts⟩ := State.loopEnded_regs (p := p) (errors := errors) (lanes := lanes) sorted
  obtain ⟨valid, verdicts⟩ := testBit_loopResult (laneMask_filter_lt lanes fun x => !laneClean errors x)
    (laneMask_filter_lt lanes (laneClean errors))
  refine ⟨result ▸ valid, fun x small => ?_⟩
  obtain ⟨passed, failed⟩ := verdicts x small
  refine ⟨(congrArg (Nat.testBit · x) result).trans (passed.trans ?_),
    (congrArg (Nat.testBit · (16 + x)) result).trans (failed.trans ?_), (counts x).trans ?_⟩
  · rw [testBit_laneMask_filter]
    simp [small, laneClean]
  · rw [testBit_laneMask_filter]
    simp [small, laneClean]
  · simp [mem_lanesOf, small]

end Ended

/-! ### TALLY (R376, R377) -/

section Tallied

variable {s : State} {p lanes lane : Nat} (loops : (s.port p).link.loop = some (3, lanes)) (small : lane < 12)
  (tested : lanes.testBit lane = true)
include loops small tested

theorem State.takeTally_tested (sig : Nat) : s.takeTally p lane sig =
    (s.setReg (linkBase p + 0xC0 + 4 * lane) sig).modLink p fun l => { l with tallies := tabPut l.tallies lane sig } := by
  have bit : lanes / 2 ^ lane % 2 = 1 := by simpa [Nat.testBit_eq_decide_div_mod_eq] using tested
  simp only [State.takeTally, loops, small, bit, and_self, if_true]

theorem State.takeTally_tallies (sig : Nat) : tabFind ((s.takeTally p lane sig).port p).link.tallies lane = some sig := by
  rw [State.takeTally_tested loops small tested, State.link_modLink]
  exact tabFind_put _ _ _

theorem State.takeTally_reg (sig o : Nat) :
    (s.takeTally p lane sig).reg o = (s.setReg (linkBase p + 0xC0 + 4 * lane) sig).reg o := by
  rw [State.takeTally_tested loops small tested]
  exact State.reg_of_regs (State.modLink_regs _ p _) o

theorem State.takeTally_others (sig : Nat) {q : Nat} (other : q ≠ p) : (s.takeTally p lane sig).port q = s.port q := by
  rw [State.takeTally_tested loops small tested, (State.modLink_linkMoved _ p _).others q other, (s.setReg_regsMoved _ _).port]

theorem State.takeTally_frame (sig : Nat) : { s.takeTally p lane sig with ports := s.ports, regs := s.regs } = s := by
  rw [State.takeTally_tested loops small tested]
  exact (s.setReg_regsMoved _ _).then_link (State.modLink_linkMoved _ p _)

end Tallied

/-! ### The statement -/

section Answers

variable {s : State} {p : Fin 4} {msg : List Byte} {w : ModeWait} (runs : s.power.boot ≠ .inReset) (sound : bcOk msg = true)
include runs sound

theorem exec_modeAck (typed : leAt msg 0 1 = 4) (named : w.modeId = leAt (bytesAt msg 2 12) 0 2) :
    exec (.modeAck p msg) s = .next ((s.heard p).takeModeAck p w.modeId (leAt (bytesAt msg 2 12) 2 1)) := by
  rw [named]
  exact congrArg Host.Outcome.next (State.onMessage_sound runs sound typed p _)

theorem exec_tally (typed : leAt msg 0 1 = 6) :
    exec (.tally p msg) s = .next ((s.heard p).takeTally p (leAt (bytesAt msg 2 12) 0 1) (leAt (bytesAt msg 2 12) 1 4)) :=
  congrArg Host.Outcome.next (State.onMessage_sound runs sound typed p _)

end Answers

theorem exec_linkLoopStart {s : State} (runs : s.power.boot ≠ .inReset) (p : Fin 4) : exec (.linkLoopStart p) s =
    .next (s.startLoop p (s.field (linkBase p + 0x80) 2 0) (s.field (linkBase p + 0x80) 27 16)) :=
  if_pos (State.running_eq_true runs)

theorem State.heard_linkMoved (s : State) (p : Nat) : s.LinkMoved (s.heard p) p := s.modLink_linkMoved p _

theorem State.heard_link (s : State) (p : Nat) : ((s.heard p).port p).link = { (s.port p).link with bcHeard := some s.now } :=
  s.link_modLink p _

/-- Settles O51: MODE_ACK, TALLY and the two ends of a loopback. -/
theorem modeAnswersAndLoopbacks : Obligations.ModeAnswersAndLoopbacks := by
  intro p s canon runs
  obtain ⟨sorted, -⟩ := canon.regs
  refine ⟨fun msg w sound typed named => ⟨fun waits => ?_, fun formed waits change accepted => ?_⟩, fun busy => ?_, fun stopped near => ?_,
    fun errors mode lanes loops near noTest quiet awake whole => ?_, fun msg lanes sound typed loops small tested => ?_⟩
  · have heard : ((s.heard p).port p).link.reformWait = some w := by rw [State.heard_link]; exact waits
    have ran := (exec_modeAck runs sound typed named).trans (congrArg _ (State.takeModeAck_reform heard _))
    have moved := (s.heard_linkMoved p).trans (State.modLink_linkMoved (s.heard p) p fun l => { l with reformWait := none }.settle)
    refine ⟨_, ran, ?_, fun reforming taken rejoined => ?_, moved.others, moved.frame⟩
    · rw [State.link_modLink, Link.settle_reformWait]
    · rw [State.link_modLink, State.heard_link]
      exact Link.settle_up reforming taken rfl rejoined
  · have heard : ((s.heard p).port p).link.reformWait = none := by rw [State.heard_link]; exact formed
    have awaits : ((s.heard p).port p).modeWait = some w := by rw [State.heard, State.port_modLink]; exact waits
    have ran := (exec_modeAck runs sound typed named).trans
      (congrArg _ (accepted ▸ State.takeModeAck_change heard awaits change))
    have moved := (s.heard_linkMoved p).toPortMoved.trans (State.modPort_portMoved (s.heard p) p fun q => { q with modeWait := none })
    exact ⟨_, ran, by rw [State.port_modPort, State.heard, State.port_modLink], moved.others, moved.frame⟩
  · exact (exec_linkLoopStart runs p).trans (congrArg _ (State.startLoop_runs busy _ _))
  · refine ⟨_, exec_linkLoopStart runs p, ?_, State.startLoop_port stopped near _, fun q other => State.startLoop_others stopped near _ other,
      fun o other => ?_, State.startLoop_frame stopped near _⟩
    · exact (State.startLoop_reg stopped near _ _).trans (State.loopCleared_reg sorted p)
    · exact (State.startLoop_reg stopped near _ _).trans (s.loopCleared_reg_ne other)
  · have ran : exec (.loopbackEnd p errors) s = .next (s.loopEnded p errors lanes) :=
      congrArg Host.Outcome.next (State.endLoop_nearEnd loops near noTest quiet awake whole)
    obtain ⟨valid, verdicts⟩ := State.loopEnded_result (p := p) (errors := errors) (lanes := lanes) sorted
    exact ⟨_, ran, State.loopEnded_port, fun q other => State.loopEnded_others other, valid, verdicts, State.loopEnded_frame⟩
  · have heard : ((s.heard p).port p).link.loop = some (3, lanes) := by rw [State.heard_link]; exact loops
    have moved := s.heard_linkMoved p
    refine ⟨_, exec_tally runs sound typed, ?_, State.takeTally_tallies heard small tested _,
      fun q other => (State.takeTally_others heard small tested _ other).trans (moved.others q other), fun o other => ?_,
      (congrArg (fun x : State => { x with ports := s.ports }) (State.takeTally_frame heard small tested _)).trans moved.frame⟩
    · rw [State.takeTally_reg heard small tested, State.reg_setReg (s := s.heard p) sorted]
      exact Nat.mod_eq_of_lt (leAt_lt _ 1 4)
    · rw [State.takeTally_reg heard small tested, State.reg_setReg_ne _ _ other]
      rfl

end Sys2Proof.Machine

/-! Line slots and segment slots of a port, and SCAN_UNDER (O44). -/

namespace Sys2Proof.Machine

/-! ### A counter of a whole word (R333) -/

theorem State.reg_lt (s : State) (off : Nat) : s.reg off < 2 ^ 32 := (tabGet (resetWord off) s.regs off).isLt

theorem State.reg_count_word {s : State} (sorted : tabSorted s.regs) (off n : Nat) :
    (s.count off 31 0 n).reg off = satNat (s.reg off + n) 0xFFFFFFFF := by
  have small := s.reg_lt off
  have whole : s.field off 31 0 = s.reg off := by simpa [State.field, fieldOf] using small
  have fits : satNat (s.reg off + n) 0xFFFFFFFF < 2 ^ 32 := by
    unfold satNat
    split <;> omega
  rw [State.count, whole, State.setField, State.reg_setReg sorted]
  simp only [putField, Nat.reduceAdd, Nat.reduceSub, Nat.reducePow, Nat.pow_zero, Nat.mul_one, Nat.mod_one] at *
  omega

/-! ### HOLD in the line slots of a stopped port (R374) -/

theorem State.lead_of_leads {s : State} {p : Nat} (leads : s.follower p = false) : s.lead p = p := by
  simpa [State.follower] using leads

theorem State.sendPacket_linkMoved (s : State) (p : Nat) (h : PktHead) (ws : List W12) (slot : Nat) :
    s.LinkMoved (s.sendPacket p h ws slot) p := by
  unfold State.sendPacket
  split
  · exact s.modLink_linkMoved p _
  · exact .refl s p

theorem State.sendPacket_link (s : State) (p : Nat) (h : PktHead) (ws : List W12) (slot : Nat) :
    ((s.sendPacket p h ws slot).port p).link =
      if s.sends p then (s.port p).link.send (mkPacket h ws (slot + 300)) else (s.port p).link := by
  unfold State.sendPacket
  split
  · exact s.link_modLink p _
  · rfl

theorem State.sendPacket_later (s : State) (p : Nat) (h : PktHead) (ws : List W12) (slot : Nat) :
    ((s.sendPacket p h ws slot).port p).link.later = (s.port p).link.later := by
  rw [State.sendPacket_link]
  split
  · rfl
  · rfl

/-- What was waiting for room being nothing, nothing goes out. -/
theorem State.sendLater_none {s : State} {p : Nat} (none : (s.port p).link.later = []) :
    s.sendLater p = s.modLink p fun l => { l with later := [] } := by
  rw [State.sendLater, none]
  rfl

/-- The HOLD packet of the port's next slot. -/
def State.slotHold (s : State) (p : Nat) : State :=
  let q := s.port p
  s.sendHold p (q.placeOf q.next).1 (q.placeOf q.next).2 (q.slotTick q.next)

section Hold

variable {s : State} {p : Nat} (idle : (s.port p).link.later = [])
include idle

theorem State.holdSlot_eq : s.holdSlot p =
    ((s.slotHold p).modPort p fun x => { x with next := x.next + 1 }).modLink p fun l => { l with later := [] } :=
  State.sendLater_none (by
    rw [State.port_modPort]
    exact (s.sendPacket_later p _ _ _).trans idle)

theorem State.holdSlot_portMoved : s.PortMoved (s.holdSlot p) p := by
  rw [State.holdSlot_eq idle]
  have held : s.LinkMoved (s.slotHold p) p := s.sendPacket_linkMoved p _ _ _
  exact (held.toPortMoved.trans (State.modPort_portMoved _ p _)).trans (State.modLink_linkMoved _ p _).toPortMoved

theorem State.holdSlot_next : ((s.holdSlot p).port p).next = (s.port p).next + 1 := by
  have held : s.LinkMoved (s.slotHold p) p := s.sendPacket_linkMoved p _ _ _
  have next : ((s.slotHold p).port p).next = (s.port p).next := (congrArg Port.next held.own :)
  rw [State.holdSlot_eq idle, State.port_modLink, State.port_modPort, ← next]

theorem State.holdSlot_tx (sends : s.sends p = true) : ((s.holdSlot p).port p).link.tx.length = (s.port p).link.tx.length + 1 := by
  rw [State.holdSlot_eq idle, State.port_modLink, State.port_modPort]
  have sent : ((s.slotHold p).port p).link = _ := (s.sendPacket_link p _ _ _).trans (if_pos sends)
  exact (congrArg (fun l : Link => l.tx.length) sent).trans List.length_append

end Hold

/-! ### A segment's slot (R316, R332, R333) -/

/-- The key of the segment that an open line takes next. -/
def State.nextKey (s : State) (p : Nat) (o : LineOpen) : Nat :=
  segKey (s.port p).frame ((s.port p).placeOf o.slot).1 ((s.port p).placeOf o.slot).2 o.seg

/-- The segment's words have stood in the lead buffer. -/
def State.tookSegment (s : State) (p : Nat) (o : LineOpen) (ws : List W12) : State :=
  (s.modPort p fun x => { x with lead := tabErase x.lead (s.nextKey p o), lastTriple := lastThree ws }).modPort p
    fun q => { q with line := some { o with seg := o.seg + 1, words := o.words ++ ws } }

/-- An underrun is counted and flagged. -/
def State.underrun (s : State) (p : Nat) : State := (s.count (0x5044 + 0x400 * p) 31 0 1).setBit (0x5010 + 0x400 * p) 20

/-- The segment's words have not stood in the lead buffer: the last triple goes out again. -/
def State.missedSegment (s : State) (p : Nat) (o : LineOpen) : State :=
  (s.underrun p).modPort p fun q => { q with line := some { o with
    seg := o.seg + 1, words := o.words ++ (List.replicate 32 (s.port p).lastTriple).flatten, under := true } }

theorem State.tookSegment_portMoved (s : State) (p : Nat) (o : LineOpen) (ws : List W12) : s.PortMoved (s.tookSegment p o ws) p :=
  (s.modPort_portMoved p _).trans (State.modPort_portMoved _ p _)

theorem State.tookSegment_port (s : State) (p : Nat) (o : LineOpen) (ws : List W12) : (s.tookSegment p o ws).port p =
    { s.port p with lead := tabErase (s.port p).lead (s.nextKey p o), lastTriple := lastThree ws
                    line := some { o with seg := o.seg + 1, words := o.words ++ ws } } := by
  rw [State.tookSegment, State.port_modPort, State.port_modPort]

theorem State.underrun_regsMoved (s : State) (p : Nat) : s.RegsMoved (s.underrun p) :=
  (s.setField_regsMoved _ _ _ _).trans (State.setField_regsMoved _ _ _ _ _)

theorem State.reg_modPort (s : State) (p : Nat) (f : Port → Port) (off : Nat) : (s.modPort p f).reg off = s.reg off := rfl

theorem State.missedSegment_reg {s : State} (sorted : tabSorted s.regs) (p : Nat) (o : LineOpen) :
    (s.missedSegment p o).reg (0x5044 + 0x400 * p) = satNat (s.reg (0x5044 + 0x400 * p) + 1) 0xFFFFFFFF := by
  have apart : 0x5044 + 0x400 * p ≠ 0x5010 + 0x400 * p := by omega
  rw [State.missedSegment, State.reg_modPort, State.underrun, State.reg_setBit_ne _ _ apart, State.reg_count_word sorted]

theorem State.missedSegment_field {s : State} (sorted : tabSorted s.regs) (p : Nat) (o : LineOpen) :
    (s.missedSegment p o).field (0x5010 + 0x400 * p) 20 20 = 1 := by
  have still : tabSorted (s.count (0x5044 + 0x400 * p) 31 0 1).regs := tabSorted_set sorted _ _ _
  rw [State.missedSegment, State.field, State.reg_modPort]
  exact State.field_setBit still _ (by decide)

theorem State.missedSegment_port (s : State) (p : Nat) (o : LineOpen) : (s.missedSegment p o).port p =
    { s.port p with line := some { o with
        seg := o.seg + 1, words := o.words ++ (List.replicate 32 (s.port p).lastTriple).flatten, under := true } } := by
  rw [State.missedSegment, State.port_modPort, (s.underrun_regsMoved p).port]

theorem State.missedSegment_others (s : State) (p : Nat) (o : LineOpen) {k : Nat} (other : k ≠ p) :
    (s.missedSegment p o).port k = s.port k := by
  rw [State.missedSegment, State.port_modPort_ne _ _ other, (s.underrun_regsMoved p).port]

theorem State.missedSegment_frame (s : State) (p : Nat) (o : LineOpen) :
    { s.missedSegment p o with ports := s.ports, regs := s.regs } = s := by
  unfold State.missedSegment
  obtain ⟨_, counted⟩ := s.underrun_regsMoved p
  rw [counted]
  rfl

section Segment

variable {s : State} {p : Nat} {o : LineOpen} (leads : s.lead p = p) (opened : (s.port p).line = some o)
  (more : o.seg + 1 < (s.port p).mode.segments)
  (begun : (s.port p).slotTick o.slot + (s.port p).link.segTicks o.seg ≤ s.now) (sound : o.under = false)
include leads opened more begun sound

theorem State.takeSegments_held {ws : List W12} (held : tabFind (s.port p).lead (s.nextKey p o) = some ws) :
    State.takeSegments p 1 s = s.tookSegment p o ws := by
  unfold State.tookSegment State.nextKey at *
  simp only [State.takeSegments, opened, leads, begun, State.takeSegment, sound, held, if_true, Bool.false_eq_true, if_false,
    Nat.not_le.2 more]

theorem State.takeSegments_missing (missing : tabFind (s.port p).lead (s.nextKey p o) = none) :
    State.takeSegments p 1 s = s.missedSegment p o := by
  unfold State.nextKey at *
  simp only [State.takeSegments, opened, leads, begun, State.takeSegment, sound, missing, if_true, Bool.false_eq_true, if_false,
    Nat.not_le.2 more, State.missedSegment, State.underrun]

end Segment

/-! ### What line slots are counted and filled by -/

/-- What a port's line slots go by, and what decides what a slot carries. -/
structure Pace where
  phase     : PortPhase
  gang      : Nat
  mode      : Mode
  next      : Int
  frameAt   : Int
  subEff    : Nat
  changeDue : Bool
  reform    : Option Formation

def Port.pace (q : Port) : Pace :=
  { phase := q.phase, gang := q.gang, mode := q.mode, next := q.next, frameAt := q.frameAt, subEff := q.subEff
    changeDue := q.changeDue, reform := q.link.reform }

theorem Port.pace_eq_iff {a b : Port} : a.pace = b.pace ↔ a.phase = b.phase ∧ a.gang = b.gang ∧ a.mode = b.mode ∧ a.next = b.next ∧
    a.frameAt = b.frameAt ∧ a.subEff = b.subEff ∧ a.changeDue = b.changeDue ∧ a.link.reform = b.link.reform := by
  rw [Port.pace, Port.pace, Pace.mk.injEq]

/-- No fault record is raised, and the Weave's stop and the unit's role are as they were. -/
structure State.Steady (s t : State) : Prop where
  flt   : t.flt = s.flt
  sense : t.sense = s.sense
  role  : t.cway.role = s.cway.role

theorem State.Steady.refl (s : State) : s.Steady s := ⟨rfl, rfl, rfl⟩

theorem State.Steady.trans {s t u : State} (h : s.Steady t) (k : t.Steady u) : s.Steady u :=
  ⟨k.flt.trans h.flt, k.sense.trans h.sense, k.role.trans h.role⟩

theorem State.Steady.halted {s t : State} (h : s.Steady t) : t.halted = s.halted := by
  rw [State.halted, State.halted, h.flt, h.sense]

/-- All ports keep the pace of their line slots, and what else decides what a slot carries is steady. -/
structure State.Paced (s t : State) : Prop extends s.Steady t where
  pace : ∀ q, (t.port q).pace = (s.port q).pace

theorem State.Paced.refl (s : State) : s.Paced s := ⟨.refl s, fun _ => rfl⟩

theorem State.Paced.trans {s t u : State} (h : s.Paced t) (k : t.Paced u) : s.Paced u :=
  ⟨h.toSteady.trans k.toSteady, fun q => (k.pace q).trans (h.pace q)⟩

theorem State.Steady.paced {s t : State} (h : s.Steady t) (ports : t.ports = s.ports) : s.Paced t :=
  ⟨h, fun q => by rw [State.port_of_ports ports]⟩

theorem State.modPort_paced (s : State) (p : Nat) {f : Port → Port} (h : ∀ x, (f x).pace = x.pace) : s.Paced (s.modPort p f) :=
  ⟨⟨rfl, rfl, rfl⟩, fun q => by
    by_cases here : q = p
    · subst here
      rw [State.port_modPort, h]
    · rw [State.port_modPort_ne _ _ here]⟩

theorem State.RegsMoved.paced {s t : State} (h : s.RegsMoved t) : s.Paced t := by
  obtain ⟨_, rfl⟩ := h
  exact ⟨⟨rfl, rfl, rfl⟩, fun _ => rfl⟩

theorem State.Paced.modPort {s t : State} (h : s.Paced t) (p : Nat) {f : Port → Port} (keeps : ∀ x, (f x).pace = x.pace) :
    s.Paced (t.modPort p f) := h.trans (t.modPort_paced p keeps)

theorem State.RegsMoved.setReg {s t : State} (h : s.RegsMoved t) (off v : Nat) : s.RegsMoved (t.setReg off v) :=
  h.trans (t.setReg_regsMoved off v)

theorem State.RegsMoved.setField {s t : State} (h : s.RegsMoved t) (off hi lo v : Nat) : s.RegsMoved (t.setField off hi lo v) :=
  h.setReg off _

theorem State.foldl_paced {α : Type} (l : List α) (f : State → α → State) (h : ∀ (t : State) x, t.Paced (f t x)) (s : State) :
    s.Paced (l.foldl f s) :=
  List.foldlRecOn (motive := s.Paced) l f (.refl s) fun t paced x _ => paced.trans (h t x)

/-! ### Descriptors that complete (R96, R110) -/

theorem State.logRecord_steady (s : State) (type : Nat) (last : Bool) (ring dseq : Nat) (body : List Byte) :
    s.Steady (s.logRecord type last ring dseq body) := by
  obtain ⟨role, -⟩ := s.logRecord_role type last ring dseq body
  obtain ⟨_, _, logged⟩ := s.logRecord_logged type last ring dseq body
  exact ⟨(congrArg State.flt logged :), (congrArg State.sense logged :), role⟩

theorem State.writeCpl_steady (s : State) (d : Desc) (signal : Bool) (status detail ns r0 r1 : Nat) :
    s.Steady (s.writeCpl d signal status detail ns r0 r1) := by
  unfold State.writeCpl
  extract_lets t
  split
  · exact .refl s
  · split
    · exact ⟨rfl, rfl, rfl⟩
    · exact ⟨rfl, rfl, rfl⟩

theorem State.spoilVersions_steady (s : State) (e : Entry) (status : Nat) : s.Steady (s.spoilVersions e status) := by
  unfold State.spoilVersions
  split
  · obtain ⟨_, frame⟩ := s.foldl_modObj_eq e.versions fun v o =>
      if (o.version v.2).isSome then o else o.addVersion (o.newVersion v.2 false o.content [] [])
    rw [frame]
    exact ⟨rfl, rfl, rfl⟩
  · exact .refl s

theorem State.drained_steady (s : State) (r : Nat) : s.Steady (s.drained r) := by
  unfold State.drained
  split
  · exact ⟨rfl, rfl, rfl⟩
  · exact .refl s

theorem State.finishAt_steady (s : State) (id ns : Nat) (signal : Bool) (f : Fail) (r0 r1 : Nat) :
    s.Steady (s.finishAt id ns signal f r0 r1) := by
  unfold State.finishAt
  split
  · exact .refl s
  · next e _ =>
    extract_lets told dropped marked
    have saw : s.Steady told := by
      unfold told
      split
      · exact ⟨rfl, rfl, rfl⟩
      · split
        · exact .refl s
        · exact (s.writeCpl_steady _ _ _ _ _ _ _).trans (State.logRecord_steady _ _ _ _ _ _)
    have left : s.Steady dropped := (saw.trans (told.spoilVersions_steady e f.1)).trans ⟨rfl, rfl, rfl⟩
    have looked : dropped.Steady (marked.refreshCommits.drained e.desc.ring) :=
      State.Steady.trans (t := marked.refreshCommits) ⟨rfl, rfl, rfl⟩ (State.drained_steady _ _)
    exact (left.trans looked).trans ⟨rfl, rfl, rfl⟩

theorem State.finishAt_paced (s : State) (id ns : Nat) (signal : Bool) (f : Fail) (r0 r1 : Nat) :
    s.Paced (s.finishAt id ns signal f r0 r1) := by
  obtain ⟨g, noted⟩ := s.finishAt_ports id ns signal f r0 r1
  exact ⟨s.finishAt_steady id ns signal f r0 r1, fun q => by rw [State.port_of_mapCommits noted]; rfl⟩

/-! ### WAIT_SCANs that a line slot ends (R418) -/

theorem State.rehome_eq (s : State) (tile : Nat) : ∃ fresh harb, s.rehome tile = { s with fresh := fresh, harb := harb } := by
  unfold State.rehome
  split
  · extract_lets room
    split
    · exact ⟨_, _, rfl⟩
    · exact ⟨_, _, rfl⟩
  · exact ⟨_, _, rfl⟩

theorem State.settle_paced (s : State) (e : Entry) (o : Obj) (status : Nat) (bytes : Tab Byte) (written : List Nat)
    (spans : List (Nat × Nat)) : s.Paced (s.settle e o status bytes written spans) := by
  have modified : ∀ (t : State) (h : Nat) (f : Obj → Obj), t.Paced (t.modObj h f) := fun t h f => by
    obtain ⟨_, frame⟩ := t.modObj_eq h f
    rw [frame]
    exact State.Steady.paced ⟨rfl, rfl, rfl⟩ rfl
  have homed : ∀ (t : State) (tile : Nat), t.Paced (t.rehome tile) := fun t tile => by
    obtain ⟨_, _, frame⟩ := t.rehome_eq tile
    rw [frame]
    exact State.Steady.paced ⟨rfl, rfl, rfl⟩ rfl
  unfold State.settle
  split
  · exact State.Steady.paced ⟨rfl, rfl, rfl⟩ rfl
  · refine State.Paced.trans ?_ (modified _ _ _)
    unfold State.putWords
    extract_lets h ids kept runs noted put
    have notes : s.Paced noted := State.Steady.paced ⟨rfl, rfl, rfl⟩ rfl
    exact (notes.trans (modified _ _ _)).trans (State.foldl_paced _ _ homed _)

theorem State.settleList_paced (s : State) (e : Entry) (status : Nat) : s.Paced (s.settleList e status) :=
  State.foldl_paced _ _ (fun t h => by
    split
    · exact .refl t
    · split
      · split
        · exact .refl t
        · exact t.settle_paced _ _ _ _ _ _
      · exact State.Steady.paced ⟨rfl, rfl, rfl⟩ rfl) s

theorem State.count_regsMoved (s : State) (off hi lo n : Nat) : s.RegsMoved (s.count off hi lo n) := s.setField_regsMoved _ _ _ _

theorem State.sawFinish_paced (s : State) (id : Nat) : s.Paced (s.sawFinish id) := by
  unfold State.sawFinish
  split
  · exact .refl s
  · next e _ =>
    extract_lets cmds
    split
    · exact .refl s
    · split
      · exact (s.settleList_paced e _).trans (State.finishAt_paced _ _ _ _ _ _ _)
      · split
        · exact .refl s
        · split
          · exact ((s.settleList_paced e _).trans (State.count_regsMoved _ _ _ _ _).paced).trans (State.finishAt_paced _ _ _ _ _ _ _)
          · exact .refl s

theorem State.scanReached_paced (s : State) (p sub line : Nat) : s.Paced (s.scanReached p sub line) :=
  State.foldl_paced _ _ (fun t e => by
    extract_lets hits n marked
    split
    · exact .refl t
    · have marks : t.Paced marked := State.Steady.paced ⟨rfl, rfl, rfl⟩ rfl
      exact (marks.trans (State.count_regsMoved _ _ _ _ _).paced).trans (State.sawFinish_paced _ _)) s

/-! ### Rows released in a line slot (R221, R273) -/

theorem State.applyRecord_paced (s : State) (p kind frame id : Nat) : s.Paced (s.applyRecord p kind frame id) := by
  unfold State.applyRecord
  split
  · exact (s.logRecord_steady _ _ _ _ _).paced (s.logRecord_logged _ _ _ _ _).objsPorts.2
  · exact .refl s

theorem State.takeEyes_paced (s : State) (p frame k tick : Nat) : s.Paced (s.takeEyes p frame k tick) := by
  unfold State.takeEyes
  extract_lets us r1
  split
  · exact .refl s
  · extract_lets taken logged ended
    have took : s.Paced taken := s.modPort_paced p fun _ => rfl
    have noted : s.Paced logged := took.trans (taken.applyRecord_paced _ _ _ _)
    have rest : logged.Paced ended := State.foldl_paced _ _ (fun t _ => t.finishAt_paced _ _ _ _ _ _) logged
    exact (noted.trans rest).trans (ended.finishAt_paced _ _ _ _ _ _)

theorem State.fixEyes_regsMoved (s : State) (p : Nat) (t : Int) : s.RegsMoved (s.fixEyes p t).2 := by
  unfold State.fixEyes
  extract_lets q narrow stat eyes reason fix aged late
  have ages : s.RegsMoved aged := s.setReg_regsMoved _ _
  have counts : aged.RegsMoved late := by
    unfold late
    split
    · exact aged.count_regsMoved _ _ _ _
    · exact .refl aged
  exact (((ages.trans counts).trans (State.setField_regsMoved _ _ _ _ _)).trans (State.setField_regsMoved _ _ _ _ _)).trans
    (State.setField_regsMoved _ _ _ _ _)

theorem State.fixSubframe_paced (s : State) (p frame k tick mid : Nat) : s.Paced (s.fixSubframe p frame k tick mid) := by
  unfold State.fixSubframe
  extract_lets taken r
  have took : s.Paced taken := State.foldl_paced _ _ (fun t m => t.takeEyes_paced m frame k tick) s
  exact (took.trans (taken.fixEyes_regsMoved _ _).paced).trans (State.modPort_paced _ _ fun _ => rfl)

theorem State.releaseRow_paced (s : State) (p : Nat) (row : TileRow) : s.Paced (s.releaseRow p row) := s.modPort_paced p fun _ => rfl

theorem State.releaseRows_paced (s : State) (p : Nat) (ps : List Nat) (f : FrameState) (k r tick deadline : Nat) :
    s.Paced (s.releaseRows p ps f k r tick deadline) := by
  unfold State.releaseRows
  split
  · exact State.foldl_paced _ _ (fun t m => t.releaseRow_paced m _) s
  · exact .refl s

theorem State.releaseNow_paced (s : State) (p : Nat) (j : Int) (tick : Nat) : s.Paced (s.releaseNow p j tick) := by
  unfold State.releaseNow
  extract_lets q
  split
  · exact .refl s
  · next f _ =>
    refine State.foldl_paced _ _ (fun t k => ?_) s
    beta_reduce
    extract_lets line0
    split
    · next r _ =>
      split
      · exact .refl t
      · extract_lets fixed
        have fixes : t.Paced fixed := by
          unfold fixed
          split
          · exact t.fixSubframe_paced _ _ _ _ _
          · exact .refl t
        exact fixes.trans (fixed.releaseRows_paced _ _ _ _ _ _ _)
    · exact .refl t

theorem State.releaseNext_paced (s : State) (p : Nat) (j : Int) (tick : Nat) : s.Paced (s.releaseNext p j tick) := by
  unfold State.releaseNext
  extract_lets q
  split
  · exact .refl s
  · split
    · split
      · exact .refl s
      · exact s.releaseRows_paced _ _ _ _ _ _ _
    · exact .refl s

/-! ### Records that a line slot lets out (R112, R201) -/

theorem State.lateRecord_paced (s : State) (p : Nat) : s.Paced (s.lateRecord p) := by
  unfold State.lateRecord
  split
  · exact State.Paced.trans (t := s.emit _) (State.Steady.paced ⟨rfl, rfl, rfl⟩ rfl) (State.modPort_paced _ _ fun _ => rfl)
  · exact .refl s

theorem State.writeRecords_paced (s : State) (p : Nat) : s.Paced (s.writeRecords p) := by
  have emptied : s.Paced (s.modPort p fun q => { q with records := [] }) := s.modPort_paced p fun _ => rfl
  have written : State.Paced (s.modPort p fun q => { q with records := [] }) (s.flushRecords p (s.frameStartNs p)) :=
    State.foldl_paced _ _ (fun t _ => t.finishAt_paced _ _ _ _ _ _) _
  exact (emptied.trans written).trans (State.lateRecord_paced _ p)

/-! ### The line before, and the end of a frame (R203, R235, R332) -/

theorem State.modLink_paced (s : State) (p : Nat) {f : Link → Link} (h : ∀ l, (f l).reform = l.reform) : s.Paced (s.modLink p f) :=
  s.modPort_paced p fun x => by rw [Port.pace, Port.pace, h]

theorem State.sendLine_paced (s : State) (p : Nat) (h : PktHead) (o : LineOpen) : s.Paced (s.sendLine p h o) := by
  unfold State.sendLine
  split
  · split
    · exact s.modLink_paced p fun _ => rfl
    · exact .refl s
  · exact .refl s

theorem State.closeLine_paced (s : State) (p : Nat) (o : LineOpen) : s.Paced (s.closeLine p o) := by
  unfold State.closeLine
  exact (s.sendLine_paced p _ o).modPort p fun _ => rfl

theorem State.takeSegment_paced (s : State) (p : Nat) (o : LineOpen) (key : Nat) : s.Paced (s.takeSegment p o key).2 := by
  unfold State.takeSegment
  extract_lets q
  split
  · exact s.modPort_paced p (f := fun x => { x with lead := tabErase x.lead key, lastTriple := lastThree _ }) fun _ => rfl
  · show s.Paced (if o.under = true then s else _)
    split
    · exact .refl s
    · exact ((s.count_regsMoved _ _ _ _).trans (State.setField_regsMoved _ _ _ _ _)).paced

theorem State.takeSegments_paced (p n : Nat) (s : State) : s.Paced (State.takeSegments p n s) := by
  induction n generalizing s with
  | zero => exact .refl s
  | succ n ih =>
    unfold State.takeSegments
    split
    · exact .refl s
    · next o _ =>
      extract_lets l at_ r
      split
      · have took : s.Paced r.2 := s.takeSegment_paced p o _
        split
        · exact took.trans (r.2.closeLine_paced p r.1)
        · refine State.Paced.trans ?_ (ih _)
          exact took.modPort p fun _ => rfl
      · exact .refl s

theorem State.flushLine_paced (s : State) (p : Nat) : s.Paced (s.flushLine p) := by
  unfold State.flushLine
  split
  · exact State.takeSegments_paced p _ s
  · exact .refl s

theorem State.Counted.paced {s t : State} (h : s.Counted t) : s.Paced t :=
  ⟨⟨(congrArg State.flt h.frame :), (congrArg State.sense h.frame :), (congrArg (fun x : State => x.cway.role) h.frame :)⟩,
    fun q => h.port.keeps Port.pace q⟩

theorem State.closeRows_counted (s : State) (p : Nat) (f : FrameState) : s.Counted (s.closeRows p f) := by
  unfold State.closeRows
  extract_lets closed mine n
  exact s.forN_abandonRows_counted.trans (closed.modCount_counted p f.frame _)

theorem State.endFrame_paced (s : State) (p : Nat) : s.Paced (s.endFrame p) := by
  unfold State.endFrame
  extract_lets q
  split
  · next f _ =>
    refine State.Paced.trans ?_ (State.setField_regsMoved _ _ _ _ _).paced
    unfold State.publishFrame
    extract_lets closed c b sat r1 r2 r3 r4 r5 r6
    have closes : s.Paced closed := (s.closeRows_counted p f).paced
    have shown : closed.RegsMoved r6 :=
      (((((((((State.RegsMoved.refl closed).setReg _ _).setReg _ _).setReg _ _).setReg _ _).setReg _ _).setReg _ _).setReg _ _).setReg _ _
        |>.setField _ _ _ _).setField _ _ _ _
    exact (closes.trans shown.paced).modPort _ fun _ => rfl
  · exact .refl s

/-! ### A line slot of a port that runs (R314, R331) -/

/-- The lines before the slot have gone out, and a frame whose last line was among them is over. -/
def State.slotCleared (s : State) (p : Nat) : State :=
  let s := (s.members p).foldl (fun s m => s.flushLine m) s
  if (s.port p).frameSent ∧ !s.halted then s.endFrame p else s

/-- What a slot does before its packets go out: records, the latch, releases and WAIT_SCANs. -/
def State.slotOpened (s : State) (p tick : Nat) : State :=
  let q := s.port p
  let j := q.next
  let at_ := q.placeOf j
  let s := if j = q.frameAt + 1 ∧ q.phase ≠ .starting then s.writeRecords p else s
  let s := if s.halted then s
    else
      let s := if j = q.boundary - (q.mode.raceLead : Int) then s.latch p tick (q.slotTick q.boundary) else s
      (s.releaseNow p j tick).releaseNext p j tick
  if q.phase = .starting then s else s.scanReached p at_.1 at_.2

/-- The packets of the members' slot `j`. -/
def State.slotSent (s : State) (p : Nat) (j : Int) (tick : Nat) : State :=
  let s := s.modPort p fun x => { x with next := j + 1 }
  let s := (s.members p).foldl (fun s m => s.sendSlot p m j tick) s
  let s := (p :: (s.members p).filter s.leaves).foldl (fun s m => s.sendChange p m j) s
  ((s.members p).foldl (fun s m => s.sendLater m) s).noteLead p

/-- A slot of a port that counts its slots, off the frame boundary. -/
theorem State.activeSlot_eq {s : State} {p : Nat} (within : ((s.slotCleared p).port p).next ≠ ((s.slotCleared p).port p).boundary)
    (counts : ((s.slotCleared p).port p).slots = true) :
    s.activeSlot p = ((s.slotCleared p).slotOpened p ((s.port p).slotTick (s.port p).next)).slotSent p ((s.slotCleared p).port p).next
      ((s.port p).slotTick (s.port p).next) := by
  have unfolded : s.activeSlot p =
      let tick := (s.port p).slotTick (s.port p).next
      let r := s.slotCleared p
      let t := if (r.port p).next ≠ (r.port p).boundary then r else if r.halted then r.emptyFrame p tick else r.boundaries p tick
      if !(t.port p).slots then t else (t.slotOpened p tick).slotSent p (t.port p).next tick := rfl
  rw [unfolded]
  simp only [ne_eq, within, not_false_eq_true, if_true, counts, Bool.not_true, Bool.false_eq_true, if_false]

theorem Port.placeOf_pace {a b : Port} (same : a.pace = b.pace) (j : Int) : a.placeOf j = b.placeOf j := by
  obtain ⟨-, -, mode, -, start, -⟩ := Port.pace_eq_iff.1 same
  simp only [Port.placeOf, mode, start]

theorem Port.boundary_pace {a b : Port} (same : a.pace = b.pace) : a.boundary = b.boundary := by
  obtain ⟨phase, -, mode, -, start, -⟩ := Port.pace_eq_iff.1 same
  simp only [Port.boundary, phase, mode, start]

theorem State.slotCleared_paced (s : State) (p : Nat) : s.Paced (s.slotCleared p) := by
  unfold State.slotCleared
  extract_lets flushed
  have flushes : s.Paced flushed := State.foldl_paced _ _ (fun t m => t.flushLine_paced m) s
  split
  · exact flushes.trans (flushed.endFrame_paced p)
  · exact flushes

/-- Away from the latch instant, a slot keeps the pace until its packets go out. -/
theorem State.slotOpened_paced {s : State} {p : Nat} (unlatched : (s.port p).next ≠ (s.port p).boundary - ((s.port p).mode.raceLead : Int))
    (tick : Nat) : s.Paced (s.slotOpened p tick) := by
  unfold State.slotOpened
  extract_lets q j at_ noted latched released
  have notes : s.Paced noted := by
    unfold noted
    split
    · exact s.writeRecords_paced p
    · exact .refl s
  have releases : noted.Paced released := by
    unfold released latched
    rw [if_neg unlatched]
    split
    · exact .refl noted
    · exact (noted.releaseNow_paced p j tick).trans (State.releaseNext_paced _ p j tick)
  split
  · exact notes.trans releases
  · exact (notes.trans releases).trans (released.scanReached_paced p _ _)

/-! ### The packets of a slot leave its number as it is -/

/-- The next line slot of every port is the same one. -/
def State.NextKept (s t : State) : Prop := ∀ q, (t.port q).next = (s.port q).next

theorem State.NextKept.refl (s : State) : s.NextKept s := fun _ => rfl

theorem State.NextKept.trans {s t u : State} (h : s.NextKept t) (k : t.NextKept u) : s.NextKept u := fun q => (k q).trans (h q)

theorem State.LinksMoved.nextKept {s t : State} (h : s.LinksMoved t) : s.NextKept t := fun q => (congrArg Port.next (h q) :)

theorem State.LinksMoved.line {s t : State} (h : s.LinksMoved t) (q : Nat) : (t.port q).line = (s.port q).line :=
  (congrArg Port.line (h q) :)

theorem State.modPort_nextKept (s : State) (p : Nat) {f : Port → Port} (h : ∀ x, (f x).next = x.next) : s.NextKept (s.modPort p f) :=
  fun q => by
    by_cases here : q = p
    · subst here
      rw [State.port_modPort, h]
    · rw [State.port_modPort_ne _ _ here]

theorem State.foldl_nextKept {α : Type} (l : List α) (f : State → α → State) (h : ∀ (t : State) x, t.NextKept (f t x)) (s : State) :
    s.NextKept (l.foldl f s) :=
  List.foldlRecOn (motive := s.NextKept) l f (.refl s) fun t kept x _ => kept.trans (h t x)

theorem State.announceReform_linksMoved (s : State) (p : Nat) (place : Nat × Nat) (slot : Nat) :
    s.LinksMoved (s.announceReform p place slot) := by
  have numbered : s.LinksMoved (s.takeModeId p).2 := s.modLink_linksMoved p _
  have sent : ∀ (t : State) gang m id, t.LinksMoved (t.sendMode p 2 gang m id place slot) := fun t gang m id => by
    unfold State.sendMode
    split
    · exact t.modLink_linksMoved p _
    · exact .refl t
  exact (numbered.trans (sent _ _ _ _)).trans (State.modLink_linksMoved _ p _)

theorem State.sendLater_linksMoved (s : State) (p : Nat) : s.LinksMoved (s.sendLater p) :=
  (s.modLink_linksMoved p _).trans (State.foldl_linksMoved _ _ (fun t _ => t.sendFree_linksMoved p _) _)

theorem State.sendPacket_nextKept (s : State) (p : Nat) (h : PktHead) (ws : List W12) (slot : Nat) :
    s.NextKept (s.sendPacket p h ws slot) := (s.sendPacket_linkMoved p h ws slot).linksMoved.nextKept

theorem State.sendSlot_nextKept (s : State) (p m : Nat) (j : Int) (tick : Nat) : s.NextKept (s.sendSlot p m j tick) := by
  unfold State.sendSlot
  extract_lets q at_
  split
  · have reformed := (s.modLink_linksMoved m fun l => l.applyReform).trans (State.announceReform_linksMoved _ m at_ tick)
    exact reformed.nextKept.trans (State.sendPacket_nextKept _ m _ _ tick)
  split
  · exact s.sendPacket_nextKept m _ _ tick
  split
  · exact s.sendPacket_nextKept m _ _ tick
  split
  · exact s.sendPacket_nextKept m _ _ tick
  split
  · exact s.sendPacket_nextKept m _ _ tick
  split
  · exact s.modPort_nextKept m fun _ => rfl
  · exact .refl s

theorem State.sendChange_nextKept (s : State) (p m : Nat) (j : Int) : s.NextKept (s.sendChange p m j) := by
  unfold State.sendChange
  extract_lets q at_
  split
  · split
    · have marked : s.NextKept (s.modPort m fun x => { x with changeDue := false }) := s.modPort_nextKept m fun _ => rfl
      exact marked.trans (State.foldl_linksMoved _ _ (fun t x => t.announce_linksMoved x .change) _).nextKept
    · exact .refl s
  · exact .refl s

theorem State.noteLead_nextKept (s : State) (p : Nat) : s.NextKept (s.noteLead p) := by
  unfold State.noteLead
  exact s.modPort_nextKept p fun _ => rfl

theorem State.noteLead_line (s : State) (p : Nat) : ((s.noteLead p).port p).line = (s.port p).line := by
  unfold State.noteLead
  rw [State.port_modPort]

theorem State.slotSent_next (s : State) (p : Nat) (j : Int) (tick : Nat) : ((s.slotSent p j tick).port p).next = j + 1 := by
  unfold State.slotSent
  extract_lets moved sent changed
  have sends : moved.NextKept sent := State.foldl_nextKept _ _ (fun t m => t.sendSlot_nextKept p m j tick) moved
  have changes : sent.NextKept changed := State.foldl_nextKept _ _ (fun t m => t.sendChange_nextKept p m j) sent
  have lates : changed.NextKept ((changed.members p).foldl (fun s m => s.sendLater m) changed) :=
    (State.foldl_linksMoved _ _ (fun t m => t.sendLater_linksMoved m) changed).nextKept
  have kept := ((sends.trans changes).trans lates).trans (State.noteLead_nextKept _ p)
  have started : (moved.port p).next = j + 1 := by rw [show moved.port p = _ from State.port_modPort s p _]
  exact (kept p).trans started

/-! ### An active line opens (R314, R315) -/

theorem State.members_alone {s : State} {p : Nat} (alone : (s.port p).gang = 0) : s.members p = [p] := if_pos alone

theorem State.openLine_line (s : State) (p : Nat) (j : Int) (tick : Nat) : ((s.openLine p j tick).port p).line =
    some { slot := j, pos := (s.port p).link.freePos (tick + 300), seg := 0, words := [], under := false } := by
  unfold State.openLine
  rw [State.port_modPort]

theorem State.openLine_paced (s : State) (p : Nat) (j : Int) (tick : Nat) : s.Paced (s.openLine p j tick) := by
  unfold State.openLine
  exact s.modPort_paced p fun _ => rfl

section Opens

variable {s : State} {p : Nat} {j : Int} (tick : Nat) (runs : (s.port p).phase = .running) (live : s.halted = false)
  (formed : (s.port p).link.reform = none) (drives : s.cway.role.drives = true) (rendered : ((s.port p).placeOf j).1 < (s.port p).subEff)
  (active : ((s.port p).placeOf j).2 < (s.port p).mode.vActive)
include runs live formed drives rendered active

theorem State.sendSlot_opens : s.sendSlot p p j tick = s.openLine p j tick := by
  simp only [State.sendSlot, formed, live, runs, drives, Nat.not_le.2 rendered, Nat.not_le.2 active, Option.isSome_none,
    Bool.false_eq_true, reduceCtorEq, if_false, if_true]

end Opens

theorem State.sendChange_none {s : State} {p m : Nat} {j : Int} (none : (s.port m).changeDue = false) : s.sendChange p m j = s := by
  unfold State.sendChange
  extract_lets q at_
  split
  · rw [if_neg (by simp [none])]
  · rfl

theorem State.sendChange_own {s : State} {p : Nat} {j : Int} (alone : (s.port p).gang = 0) (none : (s.port p).changeDue = false) :
    (p :: (s.members p).filter s.leaves).foldl (fun s m => s.sendChange p m j) s = s := by
  rw [State.members_alone alone, List.foldl_cons, State.sendChange_none none]
  cases own : s.leaves p
  · simp [own]
  · simp [own, State.sendChange_none none]

theorem State.slotSent_line {s : State} {p : Nat} {j : Int} (tick : Nat) (alone : (s.port p).gang = 0) (runs : (s.port p).phase = .running)
    (live : s.halted = false) (formed : (s.port p).link.reform = none) (drives : s.cway.role.drives = true)
    (rendered : ((s.port p).placeOf j).1 < (s.port p).subEff) (active : ((s.port p).placeOf j).2 < (s.port p).mode.vActive)
    (settled : (s.port p).changeDue = false) :
    ∃ o, ((s.slotSent p j tick).port p).line = some o ∧ o.slot = j ∧ o.seg = 0 ∧ o.words = [] ∧ o.under = false := by
  unfold State.slotSent
  extract_lets moved sent changed
  have own : moved.port p = { s.port p with next := j + 1 } := State.port_modPort s p _
  have opened : sent = moved.openLine p j tick := by
    unfold sent
    rw [State.members_alone (by rw [own]; exact alone)]
    exact State.sendSlot_opens tick (by rw [own]; exact runs) live (by rw [own]; exact formed) drives
      (by rw [own]; exact rendered) (by rw [own]; exact active)
  have paced : moved.Paced sent := opened ▸ moved.openLine_paced p j tick
  obtain ⟨-, gang, -, -, -, -, due, -⟩ := Port.pace_eq_iff.1 (paced.pace p)
  have kept : changed = sent := State.sendChange_own (by rw [gang, own]; exact alone) (by rw [due, own]; exact settled)
  have lates := State.foldl_linksMoved (changed.members p) (fun s m => s.sendLater m) (fun t m => t.sendLater_linksMoved m) changed
  have line : ((((changed.members p).foldl (fun s m => s.sendLater m) changed).noteLead p).port p).line =
      ((moved.openLine p j tick).port p).line := by
    rw [State.noteLead_line, lates.line, ← opened, ← kept]
  exact ⟨_, line.trans (moved.openLine_line p j tick), rfl, rfl, rfl, rfl⟩

section Running

variable {s : State} {p : Nat} (runs : (s.port p).phase = .running) (within : (s.port p).next ≠ (s.port p).boundary)
include runs within

/-- A running port's slot off the frame boundary, its number being the one the port had before. -/
theorem State.activeSlot_running : s.activeSlot p =
    ((s.slotCleared p).slotOpened p ((s.port p).slotTick (s.port p).next)).slotSent p (s.port p).next
      ((s.port p).slotTick (s.port p).next) := by
  have same := (s.slotCleared_paced p).pace p
  obtain ⟨phase, -, -, next, -⟩ := Port.pace_eq_iff.1 same
  rw [State.activeSlot_eq (by rw [next, Port.boundary_pace same]; exact within) (by simp [Port.slots, phase, runs]), next]

theorem State.activeSlot_next : ((s.activeSlot p).port p).next = (s.port p).next + 1 := by
  rw [State.activeSlot_running runs within]
  exact State.slotSent_next _ p _ _

theorem State.activeSlot_line (alone : (s.port p).gang = 0)
    (unlatched : (s.port p).next ≠ (s.port p).boundary - ((s.port p).mode.raceLead : Int)) (live : s.halted = false)
    (formed : (s.port p).link.reform = none) (drives : s.cway.role.drives = true)
    (rendered : ((s.port p).placeOf (s.port p).next).1 < (s.port p).subEff)
    (active : ((s.port p).placeOf (s.port p).next).2 < (s.port p).mode.vActive) (settled : (s.port p).changeDue = false) :
    ∃ o, ((s.activeSlot p).port p).line = some o ∧ o.slot = (s.port p).next ∧ o.seg = 0 ∧ o.words = [] ∧ o.under = false := by
  have cleared := s.slotCleared_paced p
  have same := cleared.pace p
  obtain ⟨-, -, mode, next, -⟩ := Port.pace_eq_iff.1 same
  have paced : s.Paced ((s.slotCleared p).slotOpened p ((s.port p).slotTick (s.port p).next)) :=
    cleared.trans (State.slotOpened_paced (by rw [next, mode, Port.boundary_pace same]; exact unlatched) _)
  have pace := paced.pace p
  obtain ⟨phase, gang, mode, -, -, subEff, due, reform⟩ := Port.pace_eq_iff.1 pace
  rw [State.activeSlot_running runs within]
  exact State.slotSent_line _ (gang.trans alone) (phase.trans runs) (paced.halted.trans live) (reform.trans formed) (paced.role ▸ drives)
    (by rw [Port.placeOf_pace pace, subEff]; exact rendered) (by rw [Port.placeOf_pace pace, mode]; exact active) (due.trans settled)

end Running

theorem State.lineSlot_begun {s : State} {p : Nat} (leads : s.follower p = false) (boot : s.power.boot ≠ .inReset)
    (begun : (s.port p).slotTick (s.port p).next ≤ s.now) : s.lineSlot p =
    if (s.port p).slots then s.activeSlot p else if (s.port p).link.holdEnd.isSome then s.holdSlot p else s := by
  simp only [State.lineSlot, leads, State.running_eq_true boot, Nat.not_lt.2 begun, Bool.not_true, Bool.false_eq_true, or_self, if_false]

/-- Settles O44: up to its packets a slot keeps the pace that it goes by, and its packets leave its number and the line it opened. -/
theorem slotsSent : Obligations.SlotsSent := by
  intro p s canon boot leads
  obtain ⟨sorted, -⟩ := canon.regs
  have lead : s.lead p = p := State.lead_of_leads leads
  refine ⟨fun runs begun within => ?_, fun stopped holds begun idle => ?_, fun o opened more begun sound =>
    ⟨fun ws held => ?_, fun missing => ?_⟩, ?_⟩
  · have counts : (s.port p).slots = true := by simp [Port.slots, runs]
    have ran : exec (.lineSendSlot p) s = .next (s.activeSlot p) :=
      congrArg Host.Outcome.next ((State.lineSlot_begun leads boot begun).trans (if_pos counts))
    exact ⟨_, ran, State.activeSlot_next runs within, State.activeSlot_line runs within⟩
  · have still : (s.port p).slots = false := by simp [Port.slots, stopped]
    have ran : exec (.lineSendSlot p) s = .next (s.holdSlot p) :=
      congrArg Host.Outcome.next ((State.lineSlot_begun leads boot begun).trans
        (by rw [still, if_neg Bool.false_ne_true, if_pos (Option.isSome_iff_ne_none.2 holds)]))
    have moved := State.holdSlot_portMoved idle
    exact ⟨_, ran, State.holdSlot_next idle, State.holdSlot_tx idle, moved.others, moved.frame⟩
  · have moved := s.tookSegment_portMoved p o ws
    exact ⟨_, congrArg Host.Outcome.next (State.takeSegments_held lead opened more begun sound held), s.tookSegment_port p o ws,
      moved.others, moved.frame⟩
  · exact ⟨_, congrArg Host.Outcome.next (State.takeSegments_missing lead opened more begun sound missing), s.missedSegment_port p o,
      State.missedSegment_reg sorted p o, State.missedSegment_field sorted p o,
      fun k other => s.missedSegment_others p o other, s.missedSegment_frame p o⟩
  · have cleared : s.clearUnder p = s.setReg (0x5044 + 0x400 * p) 0 := by rw [State.clearUnder, leads, if_neg Bool.false_ne_true]
    exact ⟨_, congrArg Host.Outcome.next cleared, State.reg_setReg sorted _ _, fun o other => s.reg_setReg_ne 0 other, rfl⟩

end Sys2Proof.Machine

/-! Leases of the ports' glass: renewals and claims, and the glass's answers to claims (O52). -/

namespace Sys2Proof.Machine

/-! ### A packet is queued (R354, R359) -/

/-- The link without what a packet changes: what is sent, what waits, and how it is placed. -/
def Link.unsent (l : Link) : Link := { l with tx := [], later := [], busyTo := 0, coder := Coder.reset }

/-- How much a link has sent, with what waits for room. -/
def Link.queued (l : Link) : Nat := l.tx.length + l.later.length

/-- State `t` is `s` but for one packet more of port `p`, sent or waiting for room. -/
structure State.Sent (s t : State) (p : Nat) : Prop extends s.LinkMoved t p where
  kept : (t.port p).link.unsent = (s.port p).link.unsent
  one : (t.port p).link.queued = (s.port p).link.queued + 1

theorem State.sendFree_sent (s : State) (p : Nat) (k : Packet) : s.Sent (s.sendFree p (.packet k)) p := by
  obtain out | waits := s.sendFree_eq p k
  · rw [out, State.transmit]
    refine ⟨s.modLink_linkMoved p _, by rw [State.link_modLink]; rfl, ?_⟩
    simp only [State.link_modLink, Link.queued, Link.send, Link.sendAt, List.length_append, List.length_singleton]
    omega
  · rw [waits]
    refine ⟨s.modLink_linkMoved p _, by rw [State.link_modLink]; rfl, ?_⟩
    simp only [State.link_modLink, Link.queued, List.length_append, List.length_singleton]
    omega

theorem State.sendLease_sent (s : State) (p act epoch : Nat) : s.Sent (s.sendLease p act epoch) p := s.sendFree_sent p _

/-! ### Renewals (R525) -/

/-- The lease of port `q` is held, its renewal is due, and the port can send. -/
def State.RenewalDue (s : State) (q : Nat) : Prop :=
  (s.port q).link.holds = true ∧ due (s.port q).link.nextLease s.now = true ∧ s.sends q = true

theorem State.renew_due {s : State} {q : Nat} (h : s.RenewalDue q) :
    s.renew q = (s.sendLease q 1 (s.reg (0x7040 + 4 * q))).modLink q fun l => { l with nextLease := some (s.now + usTicks 200) } := by
  obtain ⟨holds, late, sends⟩ := h
  exact if_pos (by rw [holds, late, sends]; rfl)

theorem State.renew_idle {s : State} {q : Nat} (h : ¬s.RenewalDue q) : s.renew q = s :=
  if_neg fun all => h (by simpa [State.RenewalDue, and_assoc] using all)

/-- The renewal of port `q` has gone out, and the next is due in 200 µs. -/
def State.RenewedAt (s t : State) (q : Nat) : Prop :=
  (t.port q).link.nextLease = some (s.now + usTicks 200) ∧ (t.port q).link.queued = (s.port q).link.queued + 1

theorem State.renew_renewed {s : State} {q : Nat} (late : s.RenewalDue q) : s.PortMoved (s.renew q) q ∧ s.RenewedAt (s.renew q) q := by
  have sent := s.sendLease_sent q 1 (s.reg (0x7040 + 4 * q))
  rw [State.renew_due late, State.RenewedAt, State.link_modLink]
  exact ⟨sent.toPortMoved.trans (State.modLink_linkMoved _ q _).toPortMoved, rfl, sent.one⟩

/-- State `t` is `s` once the first `n` ports have been looked at. -/
structure State.Renewed (s : State) (n : Nat) (t : State) : Prop where
  sent : ∀ q, q < n → s.RenewalDue q → s.RenewedAt t q
  idle : ∀ q, n ≤ q ∨ ¬s.RenewalDue q → t.port q = s.port q
  frame : { t with ports := s.ports } = s

theorem State.renewalDue_congr {s t : State} {q : Nat} (port : t.port q = s.port q) (frame : { t with ports := s.ports } = s) :
    t.RenewalDue q ↔ s.RenewalDue q := by
  have now : t.now = s.now := (congrArg State.now frame :)
  have power : t.power = s.power := (congrArg State.power frame :)
  have cway : t.cway = s.cway := (congrArg State.cway frame :)
  simp only [State.RenewalDue, State.sends, State.lanesUp, State.running, port, now, power, cway]

theorem State.Renewed.next {s t : State} {n : Nat} (h : s.Renewed n t) : s.Renewed (n + 1) (t.renew n) := by
  have here : t.port n = s.port n := h.idle n (.inl (Nat.le_refl n))
  have now : t.now = s.now := (congrArg State.now h.frame :)
  have same := State.renewalDue_congr here h.frame
  have below : ∀ {q}, q < n + 1 → q ≠ n → q < n := fun upTo other => by omega
  by_cases late : s.RenewalDue n
  · obtain ⟨moved, renewed⟩ := State.renew_renewed (same.2 late)
    refine ⟨fun q upTo due => ?_, fun q still => ?_,
      (congrArg (fun x : State => { x with ports := s.ports }) moved.frame).trans h.frame⟩
    · by_cases this : q = n
      · subst this
        rw [State.RenewedAt, ← here, ← now]
        exact renewed
      · rw [State.RenewedAt, moved.others q this]
        exact h.sent q (below upTo this) due
    · have other : q ≠ n := fun this => still.elim (fun far => by omega) fun idle => idle (this ▸ late)
      exact (moved.others q other).trans (h.idle q (still.imp_left Nat.le_of_succ_le))
  · rw [State.renew_idle (mt same.1 late)]
    exact ⟨fun q upTo due => h.sent q (below upTo fun this => late (this ▸ due)) due,
      fun q still => h.idle q (still.imp_left Nat.le_of_succ_le), h.frame⟩

theorem State.forN_renewed (s : State) (n : Nat) : s.Renewed n (forN n (fun p s => s.renew p) s) := by
  induction n with
  | zero => exact ⟨fun q below => absurd below (Nat.not_lt_zero q), fun q _ => rfl, rfl⟩
  | succ n ih =>
    rw [forN_succ]
    exact ih.next

/-! ### Claims (R526) -/

/-- A claim of this epoch is under way on port `p` and has gone out just now; the next is due in 50 µs. -/
structure State.Claimed (s t : State) (p e : Nat) : Prop extends s.LinkMoved t p where
  claim : (t.port p).link.claim = some e
  next : (t.port p).link.nextLease = some (s.now + usTicks 50)
  holds : (t.port p).link.holds = (s.port p).link.holds
  one : (t.port p).link.queued = (s.port p).link.queued + 1

theorem State.sendClaim_claimed {s : State} {p e : Nat} (claims : (s.port p).link.claim = some e) : s.Claimed (s.sendClaim p) p e := by
  have sent := s.sendLease_sent p 0 e
  have went : s.sendClaim p = (s.sendLease p 0 e).modLink p fun l => { l with nextLease := some (s.now + usTicks 50) } := by
    simp only [State.sendClaim, claims]
  rw [went]
  refine ⟨sent.toLinkMoved.trans (State.modLink_linkMoved _ p _), ?_, ?_, ?_, ?_⟩
  · rw [State.link_modLink]
    exact (congrArg Link.claim sent.kept :).trans claims
  · rw [State.link_modLink]
  · rw [State.link_modLink]
    exact (congrArg Link.holds sent.kept :)
  · rw [State.link_modLink]
    exact sent.one

/-- The link as it begins to claim its glass. -/
def Link.claiming (l : Link) (e : Nat) : Link := { l with claim := some e, holds := false, refusedSince := none }

/-- A unit that drives glass claims a port that it neither holds nor claims (R525, R526). -/
theorem State.wantLease_claimed {s : State} {p e : Nat} (drives : s.cway.role.drives = true) (formed : s.formed = true)
    (free : (s.port p).link.holds = false) (idle : (s.port p).link.claim = none)
    (epoch : max (s.reg (0x7040 + 4 * p)) (s.port p).link.seenEpoch + 1 = e) (low : e < 2 ^ 24 - 1) :
    s.Claimed (s.wantLease p) p e := by
  have wants : s.wantLease p = s.startClaim p := if_pos (by rw [drives, formed, free, idle]; rfl)
  have claims : s.startClaim p = (s.modLink p fun l => l.claiming e).sendClaim p := epoch ▸ if_neg (Nat.not_le.2 (epoch ▸ low))
  have begun : ((s.modLink p fun l => l.claiming e).port p).link = (s.port p).link.claiming e := s.link_modLink p _
  obtain ⟨moved, claim, next, holds, one⟩ := State.sendClaim_claimed (e := e) (by rw [begun]; rfl)
  rw [begun] at holds one
  rw [wants, claims]
  exact ⟨(s.modLink_linkMoved p _).trans moved, claim, next, holds.trans free.symm, one⟩

/-- The claim's own epoch accepted for this unit's input: its lease is held (R526). -/
theorem State.leaseNews_accepted {s : State} {p e input : Nat} (claims : (s.port p).link.claim = some e) (ours : s.ours input = true) :
    s.leaseNews p 1 e input = s.claimAccepted p e := by
  simp only [State.leaseNews, claims, ours, and_self, if_true]

/-- The lease held has expired: it is claimed anew (R525, R526). -/
theorem State.leaseNews_expired {s : State} {p : Nat} (input : Nat) (idle : (s.port p).link.claim = none)
    (holds : (s.port p).link.holds = true) : s.leaseNews p 4 (s.reg (0x7040 + 4 * p)) input =
    (s.modLink p fun x => { x with holds := false }).wantLease p := by
  simp only [State.leaseNews, idle, holds, and_self, if_true]

theorem State.claimAccepted_port (s : State) (p e : Nat) : (s.claimAccepted p e).port p = { s.port p with link := { (s.port p).link with
    holds := true, claim := none, refusedSince := none, nextLease := some (s.now + usTicks 200) } } := by
  rw [State.claimAccepted, State.port_modLink, (s.setReg_regsMoved _ e).port]

theorem State.claimAccepted_others (s : State) {p q : Nat} (e : Nat) (other : q ≠ p) : (s.claimAccepted p e).port q = s.port q :=
  (State.modLink_linkMoved _ p _).others q other

theorem State.claimAccepted_epoch {s : State} (sorted : tabSorted s.regs) (p : Nat) {e : Nat} (word : e < 2 ^ 32) :
    (s.claimAccepted p e).reg (0x7040 + 4 * p) = e :=
  (State.reg_setReg sorted _ e).trans (Nat.mod_eq_of_lt word)

/-- The lease held has expired: a claim of the next epoch is under way (R525, R526). -/
theorem State.leaseNews_reclaims {s : State} {p e : Nat} (input : Nat) (idle : (s.port p).link.claim = none)
    (holds : (s.port p).link.holds = true) (drives : s.cway.role.drives = true) (formed : s.formed = true)
    (epoch : max (s.reg (0x7040 + 4 * p)) (s.port p).link.seenEpoch + 1 = e) (low : e < 2 ^ 24 - 1) :
    let t := s.leaseNews p 4 (s.reg (0x7040 + 4 * p)) input
    s.LinkMoved t p ∧ (t.port p).link.holds = false ∧ (t.port p).link.claim = some e ∧
      (t.port p).link.nextLease = some (s.now + usTicks 50) := by
  intro t
  have gone := s.link_modLink p fun x => { x with holds := false }
  have claimed := State.wantLease_claimed (s := s.modLink p fun x => { x with holds := false }) (p := p) (e := e) drives formed
    (by rw [gone]) (by rw [gone]; exact idle) (by rw [gone]; exact epoch) low
  have news : t = _ := State.leaseNews_expired input idle holds
  rw [news]
  exact ⟨(s.modLink_linkMoved p _).trans claimed.toLinkMoved, claimed.holds.trans (congrArg Link.holds gone), claimed.claim,
    claimed.next⟩

/-! ### Refused claims (R526, R535) -/

theorem State.takeRole_ports (s : State) (r : Role) : (s.takeRole r).ports = s.ports := by
  unfold State.takeRole
  extract_lets
  split
  · rfl
  · rfl

theorem State.takeRole_role (s : State) (r : Role) : (s.takeRole r).cway.role = r := by
  unfold State.takeRole
  extract_lets
  split
  · rfl
  · rfl

/-- In a role that drives no glass every ring is DISABLED (R120, R511). -/
theorem State.takeRole_disables (s : State) {r : Role} (dark : r.drives = false) (q : Nat) : ((s.takeRole r).ring q).state = .disabled := by
  have rings : (s.takeRole r).rings = if r.drives then s.rings else tabMap (fun _ x => x.disabled) s.rings := by
    unfold State.takeRole
    extract_lets
    split
    · rfl
    · rfl
  rw [dark, if_neg Bool.false_ne_true] at rings
  rw [State.ring, tabGet, rings, tabFind_map]
  cases tabFind s.rings q with
  | none => rfl
  | some x => rfl

theorem State.enterPower_claim (s : State) (p : Nat) (target : LanePower) : ((s.enterPower p target).port p).link.claim = none := by
  unfold State.enterPower
  extract_lets l t
  rw [State.link_modLink]

/-- The lanes of port `q` go to L2, unless they are there (R511). -/
def State.darken (q : Nat) (s : State) : State := if (s.port q).link.power = .l2 then s else s.enterPower q .l2

theorem State.darken_claim {s : State} {p : Nat} (idle : (s.port p).link.claim = none) (q : Nat) :
    ((s.darken q).port p).link.claim = none := by
  unfold State.darken
  split
  · exact idle
  · by_cases here : q = p
    · exact here ▸ s.enterPower_claim q .l2
    · rw [(s.enterPower_linkMoved q .l2).others p (Ne.symm here)]
      exact idle

theorem State.forN_darken_claim {s : State} {p : Nat} (idle : (s.port p).link.claim = none) (n : Nat) :
    ((forN n State.darken s).port p).link.claim = none := by
  induction n with
  | zero => exact idle
  | succ n ih =>
    rw [forN_succ]
    exact State.darken_claim ih n

/-- A unit that becomes STANDBY-STALE claims nothing it did not claim before, and its rings are DISABLED. -/
theorem State.becomeStale_stale {s : State} {p : Nat} (idle : (s.port p).link.claim = none) :
    s.becomeStale.cway.role = .stale ∧ (s.becomeStale.port p).link.claim = none ∧ ∀ r, (s.becomeStale.ring r).state = .disabled := by
  have dark : s.becomeStale = (forN 4 State.darken s).takeRole .stale := rfl
  rw [dark, State.port_of_ports (State.takeRole_ports _ .stale)]
  exact ⟨State.takeRole_role _ _, State.forN_darken_claim idle 4, fun r => State.takeRole_disables _ rfl r⟩

/-- The claim of port `p` is given up, and the glass's refusal noted. -/
def State.claimDropped (s : State) (p : Nat) : State := (s.setBit 0x7004 6).dropClaim p

theorem State.claimDropped_link (s : State) (p : Nat) : ((s.claimDropped p).port p).link =
    { (s.port p).link with claim := none, refusedSince := none, nextLease := none } := State.link_modLink _ p _

theorem State.claimDropped_field (s : State) (p off hi lo : Nat) :
    (s.claimDropped p).field off hi lo = (s.setBit 0x7004 6).field off hi lo := rfl

theorem State.claimDropped_others (s : State) {p q : Nat} (other : q ≠ p) : (s.claimDropped p).port q = s.port q :=
  (State.modLink_linkMoved _ p _).others q other

theorem State.claimDropped_holds (s : State) (p q : Nat) : ((s.claimDropped p).port q).link.holds = (s.port q).link.holds := by
  by_cases here : q = p
  · rw [here, State.claimDropped_link]
  · rw [s.claimDropped_others here]

/-- The unit holds the lease of a port. -/
def State.holdsLease (s : State) : Bool := (List.range 4).any fun q => (s.port q).link.holds

theorem State.claimRefused_eq (s : State) (p : Nat) : s.claimRefused p =
    if s.holdsLease then (s.claimDropped p).raise (err 2 0x0E 0x04 (2 ^ p) 0 0 0)
    else if s.paired then (s.claimDropped p).becomeStale else s.claimDropped p := by
  have holds : ((List.range 4).any fun q => ((s.claimDropped p).port q).link.holds) = s.holdsLease := by
    simp only [State.claimDropped_holds]
    rfl
  have paired : (s.claimDropped p).paired = s.paired := by
    have same : (s.claimDropped p).field 0x7000 0 0 = s.field 0x7000 0 0 :=
      congrArg (fieldOf · 0 0) (s.reg_setBit_ne 6 (show 0x7000 ≠ 0x7004 by decide))
    rw [State.paired, same]
    rfl
  rw [← holds, ← paired]
  rfl

/-! ### The statement -/

theorem exec_leaseEvent {s : State} {msg : List Byte} (runs : s.power.boot ≠ .inReset) (sound : bcOk msg = true)
    (typed : leAt msg 0 1 = 7) (p : Fin 4) : exec (.leaseEvent p msg) s = .next ((s.heard p).leaseNews p
      (leAt (bytesAt msg 2 12) 0 1) (leAt (bytesAt msg 2 12) 1 3) (leAt (bytesAt msg 2 12) 4 1)) :=
  congrArg Host.Outcome.next (State.onMessage_sound runs sound typed p _)

theorem exec_claimRefusedTimeout {s : State} {p : Fin 4} (claims : (s.port p).link.claim ≠ none)
    (late : due ((s.port p).link.refusedSince.map (· + msTicks 2)) s.now = true) :
    exec (.claimRefusedTimeout p) s = .next (s.claimRefused p) :=
  if_pos (by rw [Option.isSome_iff_ne_none.2 claims, late]; rfl)

/-- Settles O52: renewals port by port, and a claim from its packet to its acceptance, its end by expiry and its refusal. -/
theorem leasesHeld : Obligations.LeasesHeld := by
  intro p s canon
  obtain ⟨sorted, -⟩ := canon.regs
  refine ⟨?_, fun e claims late sends => ?_, fun msg runs sound typed => ⟨fun e claims event named ours => ?_,
    fun idle event holds named drives formed low => ?_⟩, fun claims late => ⟨fun held => ?_, fun free paired => ?_⟩⟩
  · have renewed := s.forN_renewed 4
    refine ⟨_, rfl, renewed.frame, fun q small => ?_⟩
    split
    · next late => exact renewed.sent q small late
    · next idle => exact renewed.idle q (.inr idle)
  · have claimed := State.sendClaim_claimed claims
    have ran : exec (.leaseClaim p) s = .next (s.sendClaim p) := if_pos (by rw [claims, late, sends]; rfl)
    exact ⟨_, ran, claimed.claim, claimed.next, claimed.one, claimed.others, claimed.frame⟩
  · have heard := s.heard_link p
    have accepted := State.leaseNews_accepted (s := s.heard p) (p := p) (by rw [heard]; exact claims) ours
    have ran := exec_leaseEvent runs sound typed p
    rw [event, named, accepted] at ran
    have word : e < 2 ^ 32 := (named ▸ leAt_lt _ 1 3).trans (by decide)
    have moved := s.heard_linkMoved p
    refine ⟨_, ran, State.claimAccepted_epoch (s := s.heard p) sorted p word, ?_,
      fun q other => (State.claimAccepted_others _ e other).trans (moved.others q other), rfl⟩
    rw [State.claimAccepted_port, State.heard, State.port_modLink]
    rfl
  · have heard := s.heard_link p
    have ran := exec_leaseEvent runs sound typed p
    rw [event, named] at ran
    obtain ⟨moved, lost, claimed, next⟩ := State.leaseNews_reclaims (s := s.heard p) (p := p) (leAt (bytesAt msg 2 12) 4 1)
      (by rw [heard]; exact idle) (by rw [heard]; exact holds) drives formed (by rw [heard]; rfl) low
    have all := (s.heard_linkMoved p).trans moved
    exact ⟨_, ran, lost, claimed, next, all.others, all.frame⟩
  · obtain ⟨q, small, holds⟩ := held
    have any : s.holdsLease = true := List.any_eq_true.2 ⟨q, List.mem_range.2 small, holds⟩
    refine ⟨s.claimDropped p, ?_, by rw [State.claimDropped_link], ?_, fun q other => s.claimDropped_others other⟩
    · rw [exec_claimRefusedTimeout claims late, State.claimRefused_eq, if_pos any]
    · exact (s.claimDropped_field p _ _ _).trans (State.field_setBit sorted 0x7004 (show 6 < 32 by decide))
  · have unheld : s.holdsLease = false := by
      rw [State.holdsLease, List.any_eq_false]
      exact fun q small => by rw [free q (List.mem_range.1 small)]; exact Bool.false_ne_true
    have dropped : ((s.claimDropped p).port p).link.claim = none := by rw [State.claimDropped_link]
    refine ⟨_, ?_, State.becomeStale_stale dropped⟩
    rw [exec_claimRefusedTimeout claims late, State.claimRefused_eq, if_neg (unheld ▸ Bool.false_ne_true), if_pos paired]

end Sys2Proof.Machine

/-! Training of a port's link, from CAPS and TRAIN to the formation and to the link that is up (O49). -/

namespace Sys2Proof.Machine

/-! ### Fields of a word (R7) -/

theorem testBit_fieldOf (x hi lo i : Nat) : (fieldOf x hi lo).testBit i = (decide (i < hi + 1 - lo) && x.testBit (lo + i)) := by
  rw [fieldOf, Nat.testBit_mod_two_pow, Nat.testBit_shiftRight]

theorem testBit_putField (x v : Nat) {hi lo : Nat} (order : lo ≤ hi) (i : Nat) : (putField x hi lo v).testBit i =
    if i < lo then x.testBit i else if i ≤ hi then v.testBit (i - lo) else x.testBit i := by
  have width : 2 ^ (hi + 1) = 2 ^ lo * 2 ^ (hi + 1 - lo) := by
    rw [← pow_add, Nat.add_sub_cancel' (by omega)]
  have parts : putField x hi lo v = 2 ^ lo * (2 ^ (hi + 1 - lo) * (x / 2 ^ (hi + 1)) + v % 2 ^ (hi + 1 - lo)) + x % 2 ^ lo := by
    rw [putField, width]
    ring
  rw [parts, Nat.testBit_two_pow_mul_add _ (Nat.mod_lt _ (Nat.two_pow_pos lo))]
  split
  · next low => simp [Nat.testBit_mod_two_pow, low]
  · next low =>
    rw [Nat.testBit_two_pow_mul_add _ (Nat.mod_lt _ (Nat.two_pow_pos _))]
    by_cases inside : i ≤ hi
    · simp [Nat.testBit_mod_two_pow, inside, show i - lo < hi + 1 - lo by omega]
    · have place : i - lo - (hi + 1 - lo) + (hi + 1) = i := by omega
      simp [inside, show ¬i - lo < hi + 1 - lo by omega, Nat.testBit_div_two_pow, place]

/-- A field reads back as it was put. -/
theorem fieldOf_putField (x v : Nat) {hi lo : Nat} (order : lo ≤ hi) (high : hi < 32) :
    fieldOf (putField x hi lo v % 2 ^ 32) hi lo = v % 2 ^ (hi + 1 - lo) := by
  refine Nat.eq_of_testBit_eq fun i => ?_
  rw [testBit_fieldOf, Nat.testBit_mod_two_pow, Nat.testBit_mod_two_pow, testBit_putField x v order]
  by_cases inside : i < hi + 1 - lo
  · simp [inside, show lo + i < 32 by omega, show lo + i ≤ hi by omega]
  · simp [inside]

/-- A field below the one that is put stays as it is. -/
theorem fieldOf_putField_below (x v : Nat) {hi lo top : Nat} (bottom : Nat) (order : lo ≤ hi) (high : hi < 32) (below : top < lo) :
    fieldOf (putField x hi lo v % 2 ^ 32) top bottom = fieldOf x top bottom := by
  refine Nat.eq_of_testBit_eq fun i => ?_
  rw [testBit_fieldOf, testBit_fieldOf, Nat.testBit_mod_two_pow, testBit_putField x v order]
  by_cases inside : i < top + 1 - bottom
  · simp [inside, show bottom + i < 32 by omega, show bottom + i < lo by omega]
  · simp [inside]

section Fields

variable {s : State} (sorted : tabSorted s.regs) (off : Nat) {hi lo : Nat} (order : lo ≤ hi) (high : hi < 32)
include sorted order high

theorem State.field_setField (v : Nat) : (s.setField off hi lo v).field off hi lo = v % 2 ^ (hi + 1 - lo) := by
  rw [State.field, State.setField, State.reg_setReg sorted, fieldOf_putField _ v order high]

theorem State.field_setField_below (v : Nat) {top : Nat} (bottom : Nat) (below : top < lo) :
    (s.setField off hi lo v).field off top bottom = s.field off top bottom := by
  rw [State.field, State.setField, State.reg_setReg sorted, fieldOf_putField_below _ v bottom order high below, State.field]

/-- A saturating counter (R7). -/
theorem State.field_count (n : Nat) :
    (s.count off hi lo n).field off hi lo = satNat (s.field off hi lo + n) (2 ^ (hi + 1 - lo) - 1) := by
  have fits : satNat (s.field off hi lo + n) (2 ^ (hi + 1 - lo) - 1) < 2 ^ (hi + 1 - lo) := by
    have room := Nat.two_pow_pos (hi + 1 - lo)
    unfold satNat
    split <;> omega
  rw [State.count, State.field_setField sorted off order high, Nat.mod_eq_of_lt fits]

end Fields

/-! ### One port changes, and words of PF BAR0 -/

/-- State `t` is `s` but for port `p` and words of PF BAR0. -/
structure State.PortRegsMoved (s t : State) (p : Nat) : Prop where
  others : ∀ q, q ≠ p → t.port q = s.port q
  frame : { t with ports := s.ports, regs := s.regs } = s

theorem State.PortMoved.portRegsMoved {s t : State} {p : Nat} (h : s.PortMoved t p) : s.PortRegsMoved t p :=
  ⟨h.others, congrArg (fun x : State => { x with regs := s.regs }) h.frame⟩

theorem State.LinkMoved.portRegsMoved {s t : State} {p : Nat} (h : s.LinkMoved t p) : s.PortRegsMoved t p := h.toPortMoved.portRegsMoved

theorem State.RegsMoved.portRegsMoved {s t : State} (h : s.RegsMoved t) (p : Nat) : s.PortRegsMoved t p := by
  obtain ⟨regs, rfl⟩ := h
  exact ⟨fun _ _ => rfl, rfl⟩

theorem State.PortRegsMoved.trans {s t u : State} {p : Nat} (h : s.PortRegsMoved t p) (k : t.PortRegsMoved u p) : s.PortRegsMoved u p :=
  ⟨fun q other => (k.others q other).trans (h.others q other),
    (congrArg (fun x : State => { x with ports := s.ports, regs := s.regs }) k.frame).trans h.frame⟩

theorem State.modLink_portRegsMoved (s : State) (p : Nat) (f : Link → Link) : s.PortRegsMoved (s.modLink p f) p :=
  (s.modLink_linkMoved p f).portRegsMoved

theorem State.PortMoved.regs {s t : State} {p : Nat} (h : s.PortMoved t p) : t.regs = s.regs := (congrArg State.regs h.frame :)

/-! ### CAPS (R362, R364) -/

/-- The link once CAPS has been heard (R362, R363). -/
def Link.capable (l : Link) (b : List Byte) (now : Nat) : Link :=
  { l with bcHeard := some now, caps := b, glass := true, bcLockBy := none }

theorem State.modLink_modLink (s : State) (p : Nat) (f g : Link → Link) : (s.modLink p f).modLink p g = s.modLink p fun l => g (f l) := by
  simp only [State.modLink, State.modPort, State.setPort, State.port, tabGet_put, tabPut_tabPut]

theorem State.takeCaps_heard (s : State) (p : Nat) (b : List Byte) :
    ((s.heard p).modLink p fun l => { l with caps := b, glass := true, bcLockBy := none }) = s.modLink p fun l => l.capable b s.now :=
  s.modLink_modLink p _ _

section Caps

variable {s : State} {p : Nat} {b : List Byte}

/-- The formation is fixed, or the time to its fixing is running: CAPS is kept, and nothing more. -/
theorem State.takeCaps_hears (h : (s.port p).link.forming = false ∨ (s.port p).link.trainEnd.isSome = true) :
    (s.heard p).takeCaps p b = s.modLink p fun l => l.capable b s.now := by
  have link : ((s.modLink p fun l => l.capable b s.now).port p).link = (s.port p).link.capable b s.now := s.link_modLink p _
  unfold State.takeCaps
  rw [State.takeCaps_heard]
  refine if_pos (h.imp (fun done => ?_) fun waits => ?_)
  · rw [link]
    exact (congrArg (!·) done :)
  · rw [link]
    exact waits

/-- The first CAPS at a rate that it lists starts the 5 ms to the fixing of the formation, and the 10 ms to the next try. -/
theorem State.takeCaps_starts (forming : (s.port p).link.forming = true) (idle : (s.port p).link.trainEnd = none)
    (listed : ((s.port p).link.capable b s.now).lists (s.port p).link.rate = true) : (s.heard p).takeCaps p b =
    s.modLink p fun l => { l.capable b s.now with trainEnd := some (s.now + msTicks 5), retryAt := some (s.now + msTicks 10) } := by
  have link : ((s.modLink p fun l => l.capable b s.now).port p).link = (s.port p).link.capable b s.now := s.link_modLink p _
  unfold State.takeCaps
  rw [State.takeCaps_heard]
  extract_lets u l t
  have heard : l = (s.port p).link.capable b s.now := link
  have awaits : ¬((!l.forming) = true ∨ l.trainEnd.isSome = true) := by
    have still : l.forming = true := heard ▸ forming
    have unset : l.trainEnd = none := heard ▸ idle
    simp [still, unset]
  have same : t = u := if_pos (heard ▸ listed)
  rw [if_neg awaits, same, State.modLink_modLink]
  rfl

end Caps

/-! ### TRAIN (R362, R364) -/

theorem State.ffeStep_regsMoved (s : State) (p lane hi lo limit : Nat) (up : Bool) : s.RegsMoved (s.ffeStep p lane hi lo limit up) := by
  unfold State.ffeStep
  extract_lets r v
  split
  · exact .refl s
  · exact s.setField_regsMoved _ _ _ _

/-- A request moves the lane's equaliser, or is kept as the precoding asked for. -/
theorem State.trainRequest_asks (s : State) (p lane req : Nat) : s.RegsMoved (s.trainRequest p lane req) ∨
    ∃ b, s.trainRequest p lane req = s.modLink p fun l => { l with precodeNext := some b } := by
  unfold State.trainRequest
  extract_lets l allowed
  split
  · exact .inl (s.ffeStep_regsMoved p lane _ _ _ _)
  · exact .inl (s.ffeStep_regsMoved p lane _ _ _ _)
  · exact .inl (s.ffeStep_regsMoved p lane _ _ _ _)
  · exact .inl (s.ffeStep_regsMoved p lane _ _ _ _)
  · split
    · exact .inr ⟨true, rfl⟩
    · exact .inl (.refl s)
  · split
    · exact .inr ⟨false, rfl⟩
    · exact .inl (.refl s)
  · exact .inl (.refl s)

theorem State.trainRequest_portRegsMoved (s : State) (p lane req : Nat) : s.PortRegsMoved (s.trainRequest p lane req) p := by
  obtain moved | ⟨b, asked⟩ := s.trainRequest_asks p lane req
  · exact moved.portRegsMoved p
  · exact asked ▸ s.modLink_portRegsMoved p _

theorem State.trainRequest_link (s : State) (p lane req : Nat) : let l := ((s.trainRequest p lane req).port p).link
    l.locks = (s.port p).link.locks ∧ l.map = (s.port p).link.map := by
  intro l
  obtain moved | ⟨b, asked⟩ := s.trainRequest_asks p lane req
  · have same : l = (s.port p).link := congrArg Port.link (moved.port p)
    rw [same]
    exact ⟨rfl, rfl⟩
  · have next : l = _ := (congrArg (fun t : State => (t.port p).link) asked).trans (s.link_modLink p _)
    rw [next]
    exact ⟨rfl, rfl⟩

/-- What TRAIN leaves of a lane's locks: the three as reported, and whether the lane is done (R362). -/
def Link.lockWord (l : Link) (lane req locks : Nat) : Nat :=
  locks % 8 + 8 * bit (decide (req = 5) || decide (8 ≤ tabGet 0 l.locks lane))

def Link.locked (l : Link) (lane word : Nat) : Link := { l with locks := tabSet 0 l.locks lane word }

section Forming

variable {s : State} {p lane x : Nat} (low : lane < 12) (forming : (s.port p).link.forming = true)
  (runs : (s.port p).link.trainEnd.isSome = true) (small : x < 12) (other : x ≠ lane) (undone : tabGet 0 (s.port p).link.locks x < 8)
include low forming runs small other undone

/-- While a lane is not done, TRAIN of another one keeps its locks and heeds its request. -/
theorem State.takeTrain_forming (req locks : Nat) : s.takeTrain p lane req locks =
    (s.trainRequest p lane req).modLink p fun l => l.locked lane ((s.port p).link.lockWord lane req locks) := by
  unfold State.takeTrain
  extract_lets l was t
  have kept : t = (s.trainRequest p lane req).modLink p fun l => l.locked lane ((s.port p).link.lockWord lane req locks) := rfl
  have awaits : (l.forming && l.trainEnd.isSome) = true := by rw [forming, runs]; rfl
  have waits : ¬((List.range 12).all fun y => decide (8 ≤ tabGet 0 (t.port p).link.locks y)) = true := fun all => by
    have done := of_decide_eq_true (List.all_eq_true.1 all x (List.mem_range.2 small))
    rw [kept, State.link_modLink, Link.locked, tabGet_set_ne _ _ _ _ other, (s.trainRequest_link p lane req).1] at done
    omega
  rw [if_neg (Nat.not_le.2 low), if_pos awaits, if_neg waits, kept]

theorem State.takeTrain_locks (sorted : tabSorted (s.port p).link.locks) (req locks : Nat) : let t := s.takeTrain p lane req locks
    tabGet 0 (t.port p).link.locks lane = (s.port p).link.lockWord lane req locks ∧
      (∀ y, y ≠ lane → tabGet 0 (t.port p).link.locks y = tabGet 0 (s.port p).link.locks y) ∧
      (t.port p).link.map = (s.port p).link.map ∧ s.PortRegsMoved t p := by
  obtain ⟨sameLocks, sameMap⟩ := s.trainRequest_link p lane req
  rw [State.takeTrain_forming low forming runs small other undone]
  intro t
  have link : (t.port p).link = ((s.trainRequest p lane req).port p).link.locked lane ((s.port p).link.lockWord lane req locks) :=
    State.link_modLink _ p _
  rw [link]
  refine ⟨?_, fun y apart => ?_, sameMap, (s.trainRequest_portRegsMoved p lane req).trans (State.modLink_portRegsMoved _ p _)⟩
  · exact tabGet_set 0 (sameLocks ▸ sorted) lane _
  · exact (tabGet_set_ne 0 0 _ _ apart).trans (congrArg (tabGet 0 · y) sameLocks)

end Forming

/-! ### The formation is fixed (R364, R365, R369) -/

theorem lanesOf_laneMask_range (keep : Nat → Bool) :
    lanesOf (laneMask ((List.range 12).filter keep)) = (List.range 12).filter keep := by
  have rising : ((List.range 12).filter keep).SortedLT := ((List.sortedLT_range 12).pairwise.filter _).sortedLT
  refine List.filter_congr fun x mem => ?_
  rw [← Nat.testBit_eq_decide_div_mod_eq, testBit_laneMask rising]
  simp [List.mem_range.1 mem]

/-- The link without what is sent on it and where. -/
def Link.unplaced (l : Link) : Link := { l with tx := [], pos := 0, posAt := 0, busyTo := 0, later := [], coder := Coder.reset }

theorem State.transmit_linkMoved (s : State) (p : Nat) (x : LinkTx) : s.LinkMoved (s.transmit p x) p := s.modLink_linkMoved p _

theorem State.sendMarker_linkMoved (s : State) (p : Nat) : s.LinkMoved (s.sendMarker p) p := by
  unfold State.sendMarker
  extract_lets l
  exact (s.transmit_linkMoved p _).trans (State.modLink_linkMoved _ p _)

theorem Link.unplaced_fields {l m : Link} (h : l.unplaced = m.unplaced) : l.nd = m.nd ∧ l.keel = m.keel ∧ l.map = m.map ∧
    l.retired = m.retired ∧ l.lost = m.lost ∧ l.trainEnd = m.trainEnd :=
  ⟨(congrArg Link.nd h :), (congrArg Link.keel h :), (congrArg Link.map h :), (congrArg Link.retired h :), (congrArg Link.lost h :),
    (congrArg Link.trainEnd h :)⟩

theorem State.startPositions_linkMoved (s : State) (p : Nat) : s.LinkMoved (s.startPositions p) p := by
  unfold State.startPositions
  extract_lets t
  exact ((s.modLink_linkMoved p _).trans (t.sendMarker_linkMoved p)).trans (State.transmit_linkMoved _ p _)

/-- What goes out is placed, and no position is counted for it. -/
theorem Link.send_unplaced (l : Link) (x : LinkTx) :
    (l.send x).unplaced = l.unplaced ∧ (l.send x).pos = l.pos ∧ (l.send x).posAt = l.posAt := by
  cases x <;> exact ⟨rfl, rfl, rfl⟩

theorem State.transmit_link (s : State) (p : Nat) (x : LinkTx) : ((s.transmit p x).port p).link = (s.port p).link.send x :=
  s.link_modLink p _

theorem State.sendMarker_link (s : State) (p : Nat) : let l := ((s.sendMarker p).port p).link
    l.unplaced = (s.port p).link.unplaced ∧ l.pos = (s.port p).link.pos + 1 ∧ l.posAt = (s.port p).link.posAt := by
  obtain ⟨placed, pos, since⟩ := (s.port p).link.send_unplaced (.marker (s.port p).link.service ((s.port p).link.pos % 64))
  rw [State.sendMarker, State.link_modLink, State.transmit_link]
  exact ⟨placed, congrArg (· + 1) pos, since⟩

theorem State.startPositions_link (s : State) (p : Nat) : let l := ((s.startPositions p).port p).link
    l.unplaced = (s.port p).link.unplaced ∧ l.pos = 1 ∧ l.posAt = s.now := by
  unfold State.startPositions
  extract_lets t l
  have fresh : (t.port p).link = _ := s.link_modLink p _
  obtain ⟨marked, one, start⟩ := t.sendMarker_link p
  obtain ⟨placed, pos, since⟩ := ((t.sendMarker p).port p).link.send_unplaced (mkPacket ((t.sendMarker p).head p 0 0 0) [] s.now)
  have last : l = _ := State.transmit_link _ p _
  rw [fresh] at marked one start
  rw [last]
  exact ⟨placed.trans marked, pos.trans one, since.trans start⟩

theorem State.raise_of_mild {e : ErrRec} (s : State) (mild : e.sev ≠ 3) : s.raise e = s.raiseCore false e := if_neg mild

section Report

variable {s : State} {p : Nat}

/-- Twelve locked lanes are nothing to report (R365). -/
theorem State.reportLanes_all (all : (s.port p).link.lockedLanes.length = 12) : s.reportLanes p = s := if_pos all

/-- Eleven are a lane retired, and fewer a formation of its own (R365, R368, R369, log 44). -/
theorem State.reportLanes_fewer (fewer : (s.port p).link.lockedLanes.length ≠ 12) : ∃ e, s.reportLanes p = s.raiseCore false e ∧
    e.source = 7 ∧ e.code = if (s.port p).link.lockedLanes.length = 11 then 2 else 3 := by
  have mild : ∀ code inst i0, (err 2 0x07 code inst i0 0 0).sev ≠ 3 := fun _ _ _ => show (2 : Nat) ≠ 3 by decide
  unfold State.reportLanes
  extract_lets ok lane
  rw [if_neg fewer]
  by_cases one : (s.port p).link.lockedLanes.length = 11
  · rw [if_pos one, if_pos one, State.raise_of_mild _ (mild _ _ _)]
    exact ⟨_, rfl, rfl, rfl⟩
  · rw [if_neg one, if_neg one, State.raise_of_mild _ (mild _ _ _)]
    exact ⟨_, rfl, rfl, rfl⟩

theorem State.reportLanes_frame (s : State) (p : Nat) : { s.reportLanes p with flt := s.flt } = s := by
  by_cases all : (s.port p).link.lockedLanes.length = 12
  · rw [State.reportLanes_all all]
  · obtain ⟨e, raised, -⟩ := State.reportLanes_fewer all
    rw [raised]
    rfl

theorem State.reportLanes_port (s : State) (p q : Nat) : (s.reportLanes p).port q = s.port q :=
  (congrArg (fun t : State => t.port q) (s.reportLanes_frame p) :)

end Report

/-- A formation in force as training fixes it: the lanes that locked, and the others retired (R365). -/
def Link.fixed (l : Link) : Link :=
  let ok := l.lockedLanes
  let f := trainedFormation ok l.reformKeel
  { l.form f with
    service := laneMask (f.2.2.filter fun x => ok.contains x), lost := 0, trainEnd := none, precodeNext := none
    retired := laneMask ((List.range 12).filter fun x => !(ok.contains x)) }

theorem State.takeFormation_eq (s : State) (p : Nat) : s.takeFormation p = (s.modLink p Link.fixed).startPositions p := rfl

section Fixed

variable {s : State} {p : Nat} (stopped : (s.port p).phase = .stopped)
include stopped

/-- The port is not starting: whatever the formation, it comes in force. -/
theorem State.fixFormation_stopped : s.fixFormation p = ((s.reportLanes p).modLink p Link.fixed).startPositions p := by
  unfold State.fixFormation
  extract_lets l f t
  have idle : ¬(decide ((t.port p).phase = .starting) && t.outgrown (t.lead p) (l.form f)) = true := by
    simp [show t.port p = s.port p from s.reportLanes_port p p, stopped]
  rw [if_neg idle, State.takeFormation_eq]

theorem State.fixFormation_link : let l := ((s.fixFormation p).port p).link
    l.unplaced = (s.port p).link.fixed.unplaced ∧ l.pos = 1 ∧ l.posAt = s.now := by
  intro l
  have now : (s.reportLanes p).now = s.now := (congrArg State.now (s.reportLanes_frame p) :)
  obtain ⟨placed, pos, since⟩ := ((s.reportLanes p).modLink p Link.fixed).startPositions_link p
  have fixed : l = _ := congrArg (fun t : State => (t.port p).link) (State.fixFormation_stopped stopped)
  rw [State.link_modLink, s.reportLanes_port] at placed
  rw [fixed]
  exact ⟨placed, pos, since.trans now⟩

theorem State.fixFormation_linkMoved : (s.reportLanes p).LinkMoved (s.fixFormation p) p := by
  rw [State.fixFormation_stopped stopped]
  exact (State.modLink_linkMoved _ p _).trans (State.startPositions_linkMoved _ p)

end Fixed

/-! ### Training begins again (R364, R365) -/

/-- A lane's word of LINK_FFE. -/
def ffeWord (p lane : Nat) : Nat := linkBase p + 0x40 + 4 * lane

/-- A lane's equaliser at the preset, unless it is held (R364, R381). -/
def State.presetLane (p lane : Nat) (s : State) : State :=
  if s.field (ffeWord p lane) 24 24 = 1 then s else (s.setField (ffeWord p lane) 4 0 4).setField (ffeWord p lane) 12 8 8

/-- State `t` is `s` once the first `n` lanes have been preset. -/
structure State.Preset (s : State) (p n : Nat) (t : State) : Prop where
  moved : s.RegsMoved t
  sorted : tabSorted t.regs
  ahead : ∀ lane, n ≤ lane → t.reg (ffeWord p lane) = s.reg (ffeWord p lane)
  preset : ∀ lane, lane < n → s.field (ffeWord p lane) 24 24 = 0 →
    t.field (ffeWord p lane) 4 0 = 4 ∧ t.field (ffeWord p lane) 12 8 = 8

theorem State.presetLane_free {s : State} (sorted : tabSorted s.regs) {p lane : Nat} (free : s.field (ffeWord p lane) 24 24 = 0) :
    (s.presetLane p lane).field (ffeWord p lane) 4 0 = 4 ∧ (s.presetLane p lane).field (ffeWord p lane) 12 8 = 8 := by
  have first : tabSorted (s.setField (ffeWord p lane) 4 0 4).regs := tabSorted_set sorted _ _ _
  have held : ¬s.field (ffeWord p lane) 24 24 = 1 := by omega
  rw [State.presetLane, if_neg held, State.field_setField first _ (by omega) (by omega),
    State.field_setField_below first _ (by omega) (by omega) _ 0 (by omega), State.field_setField sorted _ (by omega) (by omega)]
  exact ⟨rfl, rfl⟩

theorem State.presetLane_regsMoved (p lane : Nat) (s : State) : s.RegsMoved (s.presetLane p lane) := by
  unfold State.presetLane
  split
  · exact .refl s
  · exact (s.setField_regsMoved _ _ _ _).trans (State.setField_regsMoved _ _ _ _ _)

theorem State.presetLane_sorted {s : State} (sorted : tabSorted s.regs) (p lane : Nat) : tabSorted (s.presetLane p lane).regs := by
  unfold State.presetLane
  split
  · exact sorted
  · exact tabSorted_set (tabSorted_set sorted _ _ _) _ _ _

theorem State.presetLane_reg_ne (s : State) {p lane o : Nat} (other : o ≠ ffeWord p lane) : (s.presetLane p lane).reg o = s.reg o := by
  unfold State.presetLane
  split
  · rfl
  · rw [State.reg_setField_ne _ _ _ _ other, State.reg_setField_ne _ _ _ _ other]

theorem State.Preset.next {s t : State} {p n : Nat} (h : s.Preset p n t) : s.Preset p (n + 1) (t.presetLane p n) := by
  have apart : ∀ {lane}, lane ≠ n → ffeWord p lane ≠ ffeWord p n := fun other same => other (by unfold ffeWord at same; omega)
  refine ⟨h.moved.trans (t.presetLane_regsMoved p n), State.presetLane_sorted h.sorted p n, fun lane far => ?_,
    fun lane near free => ?_⟩
  · rw [State.presetLane_reg_ne t (apart (by omega))]
    exact h.ahead lane (by omega)
  · by_cases here : lane = n
    · subst here
      refine State.presetLane_free h.sorted ?_
      rw [State.field, h.ahead lane (Nat.le_refl _)]
      exact free
    · rw [State.field, State.field, State.presetLane_reg_ne t (apart here)]
      exact h.preset lane (by omega) free

theorem State.presetFfe_preset {s : State} (sorted : tabSorted s.regs) (p : Nat) : s.Preset p 12 (s.presetFfe p) := by
  have lanes : ∀ n, s.Preset p n (forN n (State.presetLane p) s) := fun n => by
    induction n with
    | zero => exact ⟨.refl s, sorted, fun _ _ => rfl, fun lane none => absurd none (Nat.not_lt_zero lane)⟩
    | succ n ih =>
      rw [forN_succ]
      exact ih.next
  exact lanes 12

theorem State.foldl_trainBlock (p : Nat) (lanes : List Nat) (s : State) :
    let t := lanes.foldl (fun s x => s.transmit p (.trainBlock x)) s
    s.LinkMoved t p ∧ (t.port p).link = { (s.port p).link with tx := (s.port p).link.tx ++ lanes.map LinkTx.trainBlock } := by
  induction lanes generalizing s with
  | nil => exact ⟨.refl s p, by simp⟩
  | cons x lanes ih =>
    obtain ⟨moved, link⟩ := ih (s.transmit p (.trainBlock x))
    refine ⟨(s.transmit_linkMoved p _).trans moved, ?_⟩
    rw [List.foldl_cons, link, State.transmit, State.link_modLink]
    simp [Link.send]

/-- With no lane retired, all twelve send TRAIN blocks. -/
theorem State.trainBlocks_whole {s : State} {p : Nat} (whole : (s.port p).link.retired = 0) :
    s.trainBlocks p = (List.range 12).foldl (fun s x => s.transmit p (.trainBlock x)) s := by
  have all : (List.range 12).filter (fun x => decide ((s.port p).link.retired / 2 ^ x % 2 = 0)) = List.range 12 :=
    List.filter_eq_self.2 fun x _ => by simp [whole]
  rw [State.trainBlocks, all]

/-- The link as training begins: nothing locked, no formation, every lane to be trained (R364 step 2). -/
def Link.untrained (l : Link) (now : Nat) : Link :=
  { l with
    precode := false, precodeNext := none, locks := [], map := [], nd := 0, keel := false, service := 0, retired := 0, trainEnd := none
    later := [] }.freshLanes now

theorem State.trainLanes_eq (s : State) (p : Nat) :
    s.trainLanes p = ((s.presetFfe p).modLink p fun l => l.untrained s.now).trainBlocks p := rfl

/-- Training begins on a link with its lanes' equalisers preset, and a TRAIN block goes out on each lane. -/
theorem State.trainLanes_trains {s : State} (sorted : tabSorted s.regs) (p : Nat) :
    s.PortRegsMoved (s.trainLanes p) p ∧ ((s.trainLanes p).port p).link = { (s.port p).link.untrained s.now with
      tx := (s.port p).link.tx ++ (List.range 12).map LinkTx.trainBlock } ∧ s.Preset p 12 (s.presetFfe p) ∧
      (s.trainLanes p).regs = (s.presetFfe p).regs := by
  have preset := State.presetFfe_preset sorted p
  have link : (((s.presetFfe p).modLink p fun l => l.untrained s.now).port p).link = (s.port p).link.untrained s.now := by
    rw [State.link_modLink, preset.moved.port]
  obtain ⟨moved, blocks⟩ := State.foldl_trainBlock p (List.range 12) ((s.presetFfe p).modLink p fun l => l.untrained s.now)
  rw [State.trainLanes_eq, State.trainBlocks_whole (by rw [link]; rfl)]
  refine ⟨((preset.moved.portRegsMoved p).trans (State.modLink_portRegsMoved _ p _)).trans moved.portRegsMoved, ?_, preset,
    moved.regs.trans (State.modLink_regs _ p _)⟩
  rw [blocks, link]
  rfl

/-! ### STATUS (R362, R364 step 7) -/

/-- The link without what claiming its glass changes. -/
def Link.unleased (l : Link) : Link := { l.unsent with holds := false, claim := none, refusedSince := none, nextLease := none }

theorem Link.unleased_fields {l m : Link} (h : l.unleased = m.unleased) :
    l.phase = m.phase ∧ l.power = m.power ∧ l.trained = m.trained ∧ l.status = m.status ∧ l.lost = m.lost :=
  ⟨(congrArg Link.phase h :), (congrArg Link.power h :), (congrArg Link.trained h :), (congrArg Link.status h :),
    (congrArg Link.lost h :)⟩

theorem State.sendClaim_unleased (s : State) (p : Nat) : ((s.sendClaim p).port p).link.unleased = (s.port p).link.unleased := by
  unfold State.sendClaim
  split
  · next e _ =>
    rw [State.link_modLink]
    exact (congrArg Link.unleased (s.sendLease_sent p 0 e).kept :)
  · rfl

theorem State.wantLease_unleased (s : State) (p : Nat) : ((s.wantLease p).port p).link.unleased = (s.port p).link.unleased := by
  unfold State.wantLease State.startClaim
  extract_lets l e
  split
  · split
    · rfl
    · rw [State.sendClaim_unleased, State.link_modLink]
      rfl
  · rfl

theorem State.wantLease_phase (s : State) (p q : Nat) : ((s.wantLease p).port q).phase = (s.port q).phase := by
  obtain ⟨phase, -⟩ := Port.unlinked_fields (s.wantLease_linksMoved p q)
  exact phase

/-- The link once its lanes carry data (R364 step 7). -/
def Link.inService (l : Link) : Link :=
  { l with
    phase := .up, power := .l0, trained := true, trainEnd := none, retryAt := none, bcLockBy := none, wakeEnd := none, wakeTo := none }

section Serving

variable {s : State} {p : Nat} (stopped : (s.port p).phase = .stopped)
include stopped

/-- On a unit that drives glass and with no lane lost, the glass is claimed, and nothing else is to be done. -/
theorem State.linkUp_stopped (drives : s.cway.role.standby = false) (noTest : s.cway.posts.contains p = false)
    (whole : (s.port p).link.lost = 0) : s.linkUp p = (s.modLink p Link.inService).wantLease p := by
  unfold State.linkUp
  extract_lets t l u v
  have link : l = (s.port p).link.inService := s.link_modLink p _
  have lost : l.lost = 0 := by rw [link]; exact whole
  obtain ⟨-, -, -, -, kept⟩ := Link.unleased_fields (t.wantLease_unleased p)
  have wanted : (u.port p).link.lost = 0 := kept.trans lost
  have retrained : v = u := by
    simp only [v, lost, ne_eq, not_true, false_and, if_false, State.retrainLost, wanted, if_true]
    rfl
  have still : (v.port p).phase = .stopped := by
    rw [retrained, State.wantLease_phase, State.port_modLink, stopped]
  rw [if_neg (by rw [show t.cway.posts = s.cway.posts from rfl, noTest]; exact Bool.false_ne_true),
    if_neg (by rw [show t.cway.role = s.cway.role from rfl, drives]; exact Bool.false_ne_true),
    if_neg (by rw [still]; rintro ⟨starts, -⟩; cases starts), retrained]
  rfl

theorem State.followLease_stopped (holder : Nat) : s.followLease p holder = s := by
  unfold State.followLease
  extract_lets mine runs t
  have idle : runs = false := by simp [runs, stopped]
  exact if_pos (by simp [idle])

end Serving

/-- The link once STATUS has been heard (R362, R381). -/
def Link.reported (l : Link) (b : List Byte) (now : Nat) : Link :=
  { l with bcHeard := some now, status := b, erasures := l.erasures + leAt b 10 2 }

/-- STATUS is kept, and what it counts is counted (R362, R381). -/
def State.statusNoted (s : State) (p : Nat) (b : List Byte) : State :=
  (s.modLink p fun l => l.reported b s.now).count (linkBase p + 0x28) 15 0 (leAt b 9 1)

theorem State.statusNoted_port (s : State) (p : Nat) (b : List Byte) :
    (s.statusNoted p b).port p = { s.port p with link := (s.port p).link.reported b s.now } := by
  rw [State.statusNoted, (State.count_regsMoved _ _ _ _ _).port, State.port_modLink]

theorem State.statusNoted_portRegsMoved (s : State) (p : Nat) (b : List Byte) : s.PortRegsMoved (s.statusNoted p b) p :=
  (s.modLink_portRegsMoved p _).trans ((State.count_regsMoved _ _ _ _ _).portRegsMoved p)

/-- Every lane in service is reported good (R364 step 7). -/
def Link.allGood (l : Link) (b : List Byte) : Prop := ∀ x ∈ lanesOf l.service, leAt b 0 2 / 2 ^ x % 2 = 1

theorem State.takeStatus_eq (s : State) (p : Nat) (b : List Byte) : (s.heard p).takeStatus p b =
    (if (s.port p).link.phase = .training ∧ (s.port p).link.map ≠ [] ∧
        (lanesOf (s.port p).link.service).all (fun x => leAt b 0 2 / 2 ^ x % 2 = 1) then (s.statusNoted p b).linkUp p
      else s.statusNoted p b).followLease p (holderOf b) := by
  have noted : ((s.heard p).modLink p fun l => { l with status := b, erasures := l.erasures + leAt b 10 2 }).count
      (linkBase p + 0x28) 15 0 (leAt b 9 1) = s.statusNoted p b := by
    rw [State.heard, State.modLink_modLink]
    rfl
  unfold State.takeStatus
  rw [noted]
  extract_lets u l t
  have link : l = (s.port p).link.reported b s.now := congrArg Port.link (s.statusNoted_port p b)
  simp only [t, link]
  rfl

section Status

variable {s : State} {p : Nat} (stopped : (s.port p).phase = .stopped) {b : List Byte}
include stopped

theorem State.takeStatus_trained (trained : (s.port p).link.phase ≠ .training) :
    (s.heard p).takeStatus p b = s.statusNoted p b := by
  rw [State.takeStatus_eq, if_neg fun ⟨training, _⟩ => trained training,
    State.followLease_stopped (by rw [State.statusNoted_port]; exact stopped)]

/-- The last answer that training waits for brings the link up. -/
theorem State.takeStatus_completes (training : (s.port p).link.phase = .training) (formed : (s.port p).link.map ≠ [])
    (good : (s.port p).link.allGood b) (drives : s.cway.role.standby = false) (noTest : s.cway.posts.contains p = false)
    (whole : (s.port p).link.lost = 0) :
    let l := (((s.heard p).takeStatus p b).port p).link
    l.phase = .up ∧ l.power = .l0 ∧ l.trained = true ∧ l.status = b := by
  have port := s.statusNoted_port p b
  have up : (s.statusNoted p b).linkUp p = ((s.statusNoted p b).modLink p Link.inService).wantLease p :=
    State.linkUp_stopped (by rw [port]; exact stopped) drives noTest (by rw [port]; exact whole)
  have still : ((((s.statusNoted p b).modLink p Link.inService).wantLease p).port p).phase = .stopped := by
    rw [State.wantLease_phase, State.port_modLink, port]
    exact stopped
  have all : (lanesOf (s.port p).link.service).all (fun x => leAt b 0 2 / 2 ^ x % 2 = 1) = true := by
    simpa [Link.allGood] using good
  have served := State.wantLease_unleased ((s.statusNoted p b).modLink p Link.inService) p
  rw [State.link_modLink, port] at served
  obtain ⟨phase, power, trained, status, -⟩ := Link.unleased_fields served
  rw [State.takeStatus_eq, if_pos ⟨training, formed, all⟩, up, State.followLease_stopped still]
  exact ⟨phase, power, trained, status⟩

end Status

/-! ### The statement -/

section Messages

variable {s : State} {msg : List Byte} (runs : s.power.boot ≠ .inReset) (sound : bcOk msg = true)
include runs sound

theorem exec_caps (typed : leAt msg 0 1 = 1) (p : Fin 4) : exec (.caps p msg) s = .next ((s.heard p).takeCaps p (bytesAt msg 2 12)) :=
  congrArg Host.Outcome.next (State.onMessage_sound runs sound typed p _)

theorem exec_status (typed : leAt msg 0 1 = 2) (p : Fin 4) :
    exec (.status p msg) s = .next ((s.heard p).takeStatus p (bytesAt msg 2 12)) :=
  congrArg Host.Outcome.next (State.onMessage_sound runs sound typed p _)

theorem exec_train (typed : leAt msg 0 1 = 5) (p : Fin 4) : exec (.train p msg) s = .next ((s.heard p).takeTrain p
    (leAt (bytesAt msg 2 12) 0 1) (leAt (bytesAt msg 2 12) 1 1) (leAt (bytesAt msg 2 12) 2 1)) :=
  congrArg Host.Outcome.next (State.onMessage_sound runs sound typed p _)

end Messages

theorem Link.forming_eq_true {l : Link} (h : l.phase = .training ∧ l.map = []) : l.forming = true := by
  obtain ⟨training, unformed⟩ := h
  simp [Link.forming, training, unformed]

theorem Link.forming_eq_false {l : Link} (h : ¬(l.phase = .training ∧ l.map = [])) : l.forming = false := by
  simpa [Link.forming] using h

/-- Settles O49: each message and each timer of training does its step of R364. -/
theorem linksTrain : Obligations.LinksTrain := by
  intro p s canon runs l becomes forming
  obtain ⟨sorted, -⟩ := canon.regs
  refine ⟨fun msg sound typed => ⟨fun known => ?_, fun unformed idle slow listed => ?_⟩,
    fun msg lane x sound typed named low unformed waits locks small other undone => ?_, fun unformed late stopped => ?_,
    fun training late => ?_, fun training late => ?_, fun msg sound typed stopped => ⟨fun trained => ?_,
    fun training formed good drives noTest whole => ?_⟩⟩
  · have kept := State.takeCaps_hears (b := bytesAt msg 2 12) (known.imp Link.forming_eq_false Option.isSome_iff_ne_none.2)
    have moved := s.modLink_linkMoved p fun l => l.capable (bytesAt msg 2 12) s.now
    exact ⟨_, (exec_caps runs sound typed p).trans (congrArg _ kept), s.port_modLink p _, moved.others, moved.frame⟩
  · have lists : (l.capable (bytesAt msg 2 12) s.now).lists l.rate = true := by
      rw [Link.lists, decide_eq_true slow, Bool.true_and]
      exact decide_eq_true listed
    have kept := State.takeCaps_starts (Link.forming_eq_true unformed) idle lists
    have moved := s.modLink_linkMoved p fun l => { l.capable (bytesAt msg 2 12) s.now with
      trainEnd := some (s.now + msTicks 5), retryAt := some (s.now + msTicks 10) }
    exact ⟨_, (exec_caps runs sound typed p).trans (congrArg _ kept), s.port_modLink p _, moved.others, moved.frame⟩
  · have link := s.heard_link p
    obtain ⟨now, before, unset, moved⟩ := State.takeTrain_locks (s := s.heard p) (p := p) low
      (by rw [link]; exact Link.forming_eq_true unformed) (by rw [link]; exact Option.isSome_iff_ne_none.2 waits) small other
      (by rw [link]; exact undone) (by rw [link]; exact locks) (leAt (bytesAt msg 2 12) 1 1) (leAt (bytesAt msg 2 12) 2 1)
    rw [link] at now before unset
    have all := (s.heard_linkMoved p).portRegsMoved.trans moved
    exact ⟨_, named ▸ exec_train runs sound typed p, now, before, unset.trans unformed.2, all.others, all.frame⟩
  · have ran : exec (.trainingTimeout p) s = .next (s.fixFormation p) :=
      if_pos (by rw [Link.forming_eq_true unformed, late]; rfl)
    have moved := State.fixFormation_linkMoved stopped
    obtain ⟨placed, pos, since⟩ := State.fixFormation_link stopped
    obtain ⟨nd, keel, map, retired, lost, ended⟩ := Link.unplaced_fields placed
    have flt : (s.fixFormation p).flt = (s.reportLanes p).flt := (congrArg State.flt moved.frame :)
    refine ⟨_, ran, nd, keel, map, (congrArg lanesOf retired).trans (lanesOf_laneMask_range _), lost, pos, since, ended,
      fun all => flt.trans (congrArg State.flt (State.reportLanes_all all)), fun few => ?_,
      fun q other => (moved.others q other).trans (s.reportLanes_port p q), ?_⟩
    · obtain ⟨e, raised, source, code⟩ := State.reportLanes_fewer (Nat.ne_of_lt few)
      exact ⟨_, (congrArg Flt.raised (flt.trans (congrArg State.flt raised))).trans rfl, source, code⟩
    · exact (congrArg (fun t : State => { t with ports := s.ports, flt := s.flt }) moved.frame).trans
        (congrArg (fun t : State => { t with ports := s.ports }) (s.reportLanes_frame p))
  · have ran : exec (.trainingRetry p) s = .next (s.retryTraining p) := if_pos ⟨training, late⟩
    obtain ⟨moved, link, preset, regs⟩ := State.trainLanes_trains
      (s := s.modLink p fun l => { l with retryAt := some (s.now + msTicks 10) }) sorted p
    have all := (s.modLink_portRegsMoved p _).trans moved
    rw [State.link_modLink] at link
    refine ⟨_, ran, (congrArg Link.locks link).trans rfl, (congrArg Link.map link).trans rfl, (congrArg Link.trainEnd link).trans rfl,
      (congrArg Link.retryAt link).trans rfl, ?_, all.others, fun lane small free => ?_, all.frame⟩
    · exact (congrArg (fun l : Link => l.tx.length) link).trans List.length_append
    · obtain ⟨pre, post⟩ := preset.preset lane small free
      have word := State.reg_of_regs regs (ffeWord p lane)
      exact ⟨(congrArg (fieldOf · 4 0) word).trans pre, (congrArg (fieldOf · 12 8) word).trans post⟩
  · have ran : exec (.backChannelLockTimeout p) s = .next ((s.modLink p fun l => { l with bcLockBy := none }).raise
        (err 0 0x07 0x05 (instP p 0) 0 0 0)) := if_pos ⟨training, late⟩
    have moved := s.modLink_linkMoved p fun l => { l with bcLockBy := none }
    exact ⟨_, ran, s.port_modLink p _, moved.others, moved.frame⟩
  · have moved := s.statusNoted_portRegsMoved p (bytesAt msg 2 12)
    refine ⟨_, (exec_status runs sound typed p).trans (congrArg _ (State.takeStatus_trained stopped trained)), s.statusNoted_port p _,
      ?_, moved.others, moved.frame⟩
    exact State.field_count (s := s.modLink p fun l => l.reported (bytesAt msg 2 12) s.now) sorted _ (by decide) (by decide) _
  · exact ⟨_, exec_status runs sound typed p, State.takeStatus_completes stopped training formed good drives noTest whole⟩

end Sys2Proof.Machine

/-! Lanes lost and regained: a gross marker goes out only while a formation is in force (O50). -/

namespace Sys2Proof.Machine

/-! ### A link without a formation (R347, R364) -/

/-- Without a formation a port in L0 has no data service, and no marker of it goes out. -/
theorem State.grossMarker_unformed {s : State} {p : Nat} (power : (s.port p).link.power = .l0) (unformed : (s.port p).link.map = []) :
    s.grossMarker p = s := by
  have silent : (s.port p).link.serving = false := by simp [Link.serving, unformed]
  simp [State.grossMarker, power, silent]

/-- Port 0 runs, and its link, in L0, is said to be retraining while its lane map is empty. -/
def unformedRetraining : State :=
  { State.reset with
    power := { Power.reset with boot := .configured }
    ports := [(0, { Port.reset with phase := .running, link := { Link.reset with phase := .retraining, power := .l0 } })] }

theorem unformedRetraining_canon : Canon unformedRetraining where
  regs := ⟨tabSorted_nil, List.forall_mem_nil _⟩
  wregs := ⟨tabSorted_nil, List.forall_mem_nil _⟩
  rings := tabSorted_nil
  ports := List.pairwise_singleton _ _
  chans := tabSorted_nil
  ctxs := tabSorted_nil
  units := tabSorted_nil
  shuttles := tabSorted_nil
  outs := tabSorted_nil
  tcaps := tabSorted_nil
  objs := tabSorted_nil
  gens := tabSorted_nil
  tills := tabSorted_nil
  table := tabSorted_nil
  ledger := ⟨List.Pairwise.nil, List.forall_mem_nil _⟩

/-- Refutes O50: the canonical form does not give a link that is retraining a formation, and without one its marker position passes with
no marker, where the statement counts one. -/
theorem not_lanesLostAndRegained : ¬ Obligations.LanesLostAndRegained := by
  intro h
  obtain ⟨-, -, -, -, markers, -⟩ := h 0 unformedRetraining unformedRetraining_canon nofun
  obtain ⟨-, -, rejoins⟩ := markers (Nat.zero_le _)
  obtain ⟨t, ran, counted, -⟩ := rejoins rfl rfl rfl
  have still : exec (.grossMarker 0) unformedRetraining = .next unformedRetraining :=
    congrArg Host.Outcome.next (State.grossMarker_unformed rfl rfl)
  obtain rfl := Host.Outcome.next.inj (still.symm.trans ran)
  exact absurd counted (Nat.ne_of_lt (Nat.lt_succ_self _))

end Sys2Proof.Machine

/-! Streams over the decoder contexts (O29): acceptance, start, end and kill. -/

namespace Sys2Proof.Machine

/-! ### Contexts that close (R385, R401) -/

theorem State.ctx_of_ctxs {s t : State} (h : t.ctxs = s.ctxs) (k : Nat) : t.ctx k = s.ctx k :=
  congrArg (fun ctxs => tabGet Ctx.reset ctxs k) h

theorem State.ctx_closeCtx {s : State} (sorted : tabSorted s.ctxs) (m : Nat) : (s.closeCtx m).ctx m = Ctx.reset := by
  simp [State.ctx, State.closeCtx, tabGet, tabFind_erase sorted]

theorem State.ctx_closeCtx_ne (s : State) {m k : Nat} (other : k ≠ m) : (s.closeCtx m).ctx k = s.ctx k := by
  simp [State.ctx, State.closeCtx, tabGet, tabFind_erase_ne _ other]

theorem exec_strdKill {s : State} (up : s.power.boot ≠ .inReset) (k : Fin 32) : exec (.strdKill k) s = .next (s.killCtx k) := by
  change execStrdKill k s = _
  simp [execStrdKill, State.running, up]

theorem State.killCtx_suspended {s : State} {m : Nat} (opened : (s.ctx m).open_ = true) (idle : (s.ctx m).running = false) :
    s.killCtx m = s.closeCtx m := by
  simp [State.killCtx, opened, idle]

theorem State.killCtx_refused {s : State} {m : Nat} (busy : (s.ctx m).open_ = false ∨ (s.ctx m).running = true) :
    s.killCtx m = s.setBit 0xC00C 30 := by
  obtain closed | running := busy
  · simp [State.killCtx, closed]
  · simp [State.killCtx, running]

/-! ### Acceptance (R96, R129, R382 to R384) -/

/-- A descriptor refused at its acceptance leaves the ledger and the contexts alone, and its record goes out. -/
theorem State.reject_run {s : State} (live : s.flt.fatalHold = false) (d : Desc) (f : Fail) :
    (s.reject d f).run.ledger = s.ledger ∧ (s.reject d f).run.ctxs = s.ctxs ∧
      s.egress ++ s.completion d false f 0 0 <+: (s.reject d f).run.egress := by
  obtain ⟨_, refused⟩ := State.reject_live live d f
  obtain ⟨_, _, _, moved⟩ := (s.reject d f).run_engineMoved
  rw [moved, refused]
  exact ⟨rfl, rfl, List.prefix_append _ _⟩

/-- A descriptor that writes one surface takes its slot, and the contexts stay as they are. -/
theorem State.admitNew_run (s : State) (d : Desc) (job : Job) (h : Nat) :
    (s.admitNew d job [h]).run.ledger = s.ledger ++ [s.newEntry d job (s.versionGiven h)] ∧
      (s.admitNew d job [h]).run.ctxs = s.ctxs := by
  obtain ⟨_, _, _, entered⟩ := s.admitNew_surface d job h
  obtain ⟨_, _, _, moved⟩ := (s.admitNew d job [h]).run_engineMoved
  rw [moved, entered]
  exact ⟨rfl, rfl⟩

/-- The free context that a STREAM_DECODE takes, the device's choice (R382, log 3). -/
def State.pickedCtx (s : State) (deflate : Bool) : Nat :=
  (s.freeCtxs deflate).getD (Config.freeIndex s.fresh % (s.freeCtxs deflate).length) 0

theorem State.pickedCtx_mem {s : State} {deflate : Bool} (room : s.freeCtxs deflate ≠ []) :
    s.pickedCtx deflate ∈ s.freeCtxs deflate := by
  have inside : Config.freeIndex s.fresh % (s.freeCtxs deflate).length < (s.freeCtxs deflate).length :=
    Nat.mod_lt _ (List.length_pos_iff.2 room)
  rw [State.pickedCtx, List.getD_eq_getElem _ _ inside]
  exact List.getElem_mem inside

/-- The state as a STREAM_DECODE has opened its context. -/
def State.opening (s : State) (d : Desc) : State := s.draw.setCtx (s.pickedCtx d.flag20) (newCtx d s.nextId)

section Decode

variable {s : State} {r : Fin 128} {d : Desc} (taken : Taken s r opStreamDecode d) (placed : s.sixtyFail (d.w 2) (d.w 3) 3 = none)
  (fresh : s.openCtx (d.fn, d.f 7 15 0) = none)
include taken placed fresh

theorem exec_streamDecode_full (full : s.freeCtxs d.flag20 = []) :
    exec (.streamDecode r) s = .next (s.reject d (stNoSpace, det 9 0)).run := by
  refine congrArg Host.Outcome.next ((State.withCur_taken taken _).trans (congrArg State.run ?_))
  simp [placed, fresh, full, firstFail, failIf, noSpace]

theorem exec_streamDecode_opens (room : s.freeCtxs d.flag20 ≠ []) :
    exec (.streamDecode r) s = .next ((s.opening d).admitNew d
      (.stream (s.pickedCtx d.flag20) (d.w 2) s.nextId s.nextId (d.w 3)) [d.w 2]).run := by
  refine congrArg Host.Outcome.next ((State.withCur_taken taken _).trans (congrArg State.run ?_))
  simp [placed, fresh, room, firstFail, failIf, State.opening, State.pickedCtx]

end Decode

section Continue

variable {s : State} {r : Fin 128} {d : Desc} (taken : Taken s r opStreamContinue d)
  (placed : d.w 3 ≠ 0 → s.sixtyFail (d.w 3) (d.w 4) 4 = none)
include taken placed

theorem exec_streamContinue_closed (closed : s.openCtx (d.fn, d.f 2 15 0) = none) :
    exec (.streamContinue r) s = .next (s.reject d (stBadDesc, det 4 2)).run := by
  refine congrArg Host.Outcome.next ((State.withCur_taken taken _).trans (congrArg State.run ?_))
  have sound : (if d.w 3 = 0 then none else s.sixtyFail (d.w 3) (d.w 4) 4) = none := ite_eq_left_iff.2 placed
  simp only [sound, closed, badDesc]

theorem exec_streamContinue_open {m : Nat} {c : Ctx} (opened : s.openCtx (d.fn, d.f 2 15 0) = some (m, c)) :
    let c' := c.naming s.nextId d
    exec (.streamContinue r) s = .next ((s.setCtx m c').admitNew d (.stream m c'.name c'.opener c'.nameBy c'.nameOff) [c'.name]).run := by
  refine congrArg Host.Outcome.next ((State.withCur_taken taken _).trans (congrArg State.run ?_))
  have sound : (if d.w 3 = 0 then none else s.sixtyFail (d.w 3) (d.w 4) 4) = none := ite_eq_left_iff.2 placed
  simp only [sound, opened]

end Continue

/-! ### The start (R384) -/

/-- The context as it runs for a descriptor whose destination `namer` has named: one named anew is written from its beginning (R384). -/
def Ctx.runsFor (c : Ctx) (h namer off : Nat) : Ctx :=
  { (if decide (c.dstBy ≠ namer) then { c with dst := h, dstOff := off, dstBy := namer, pos := 0, lineCnt := 0 } else c) with running := true }

theorem Ctx.runsFor_dst (c : Ctx) (h namer off : Nat) :
    (c.runsFor h namer off).dst = (if c.dstBy ≠ namer then h else c.dst) ∧
    (c.runsFor h namer off).dstOff = (if c.dstBy ≠ namer then off else c.dstOff) ∧
    (c.runsFor h namer off).pos = (if c.dstBy ≠ namer then 0 else c.pos) := by
  by_cases named : c.dstBy = namer <;> simp [Ctx.runsFor, named]

/-- The read of a descriptor's compressed input (R102). -/
def Entry.asksInput (e : Entry) : List Egress :=
  if e.desc.srcLen = 0 then [] else [.readRequest e.desc.fn e.desc.srcAddr e.desc.srcLen (.job e.id)]

/-- The state as a stream descriptor without tiles to reserve has started on its context. -/
def State.streaming (s : State) (e : Entry) (m h namer off : Nat) : State :=
  { s with
    ctxs := tabPut s.ctxs m ((s.ctx m).runsFor h namer off)
    ledger := ((s.start e.id e.job).modEntry e.id fun x => { x with tiles := [] }).ledger
    egress := s.egress ++ e.asksInput }

section Start

variable {s : State} {id : Nat} {e : Entry} {m h opener namer off : Nat}

theorem startStream_starts {o : Obj} (own : e.mirrored = false) (opened : (s.ctx m).open_ = true) (same : (s.ctx m).opener = opener)
    (here : s.objOf h = some o) (kept : o.lost = none) (inPlace : o.cls ≠ 0) :
    startStream e m h opener namer off s = s.streaming e m h namer off := by
  unfold startStream
  extract_lets d c
  have sound : ¬(!c.open_ || decide (c.opener ≠ opener)) = true := by simp [c, opened, same]
  simp only [if_neg sound, here, kept, if_neg inPlace]
  by_cases silent : d.srcLen = 0
  · rw [if_pos (.inl silent), State.streaming, Entry.asksInput, if_pos silent, List.append_nil]
    rfl
  · rw [if_neg (by simp [silent, own]), State.streaming, Entry.asksInput, if_neg silent]
    rfl

theorem exec_streamDescStart (here : s.entry id = some e) (job : e.job = .stream m h opener namer off) (waiting : e.started = false)
    (free : s.noWait e = true) (awake : s.inEbb .decoders = false) :
    exec (.streamDescStart id) s = .next (startStream e m h opener namer off s) := by
  change execStreamDescStart id s = _
  simp [execStreamDescStart, here, job, waiting, free, awake]

theorem State.streaming_entry (here : s.entry id = some e) :
    (s.streaming e m h namer off).entry id = some { e with started := true, readyAt := some s.now, tiles := [] } := by
  obtain rfl := State.id_of_entry here
  have started : (s.start e.id e.job).entry e.id = some { e with started := true, readyAt := some s.now } :=
    State.entry_modEntry_self (by exact fun _ => rfl) here
  exact State.entry_modEntry_self (by exact fun _ => rfl) started

theorem State.streaming_others {j : Nat} (other : j ≠ e.id) : (s.streaming e m h namer off).entry j = s.entry j :=
  (State.entry_modEntry_ne (by exact fun _ => rfl) _ other).trans (State.entry_modEntry_ne (by exact fun _ => rfl) _ other)

end Start

/-! ### Outcomes put in place (R109, R129, R131) -/

/-- The ledger of `t` is that of `s`, but that the entry `e` has written words of an object, which those that may do so meanwhile keep
(R109). -/
structure State.WroteInto (s t : State) (e : Entry) : Prop where
  own : ∃ wrote, t.entry e.id = some { e with wrote := wrote }
  others : ((t.ledger.filter fun x => decide (x.id ≠ e.id)).map fun x => { x with shared := [] }) =
    (s.ledger.filter fun x => decide (x.id ≠ e.id)).map fun x => { x with shared := [] }

/-- An entry `x` as the entry `id` has written the runs of words: it has written them itself, or keeps them in mind. -/
def Entry.noting (id : Nat) (ids : List Nat) (runs : List (Nat × Nat × Nat)) (x : Entry) : Entry :=
  if x.id = id then { x with wrote := x.wrote ++ runs }
  else if ids.contains x.id then { x with shared := x.shared ++ runs } else x

section Noting

variable (id : Nat) (ids : List Nat) (runs : List (Nat × Nat × Nat)) (x : Entry)

theorem Entry.noting_id : (x.noting id ids runs).id = x.id := by
  unfold Entry.noting
  split
  · rfl
  · split <;> rfl

theorem Entry.noting_shared (other : x.id ≠ id) : { x.noting id ids runs with shared := [] } = { x with shared := [] } := by
  unfold Entry.noting
  rw [if_neg other]
  split <;> rfl

end Noting

theorem State.WroteInto.of_ledger {s t : State} {e : Entry} (here : s.entry e.id = some e) (same : t.ledger = s.ledger) :
    s.WroteInto t e :=
  ⟨⟨e.wrote, (congrArg (List.find? _) same).trans here⟩, by rw [same]⟩

theorem State.WroteInto.of_noting {s t : State} {e : Entry} {ids : List Nat} {runs : List (Nat × Nat × Nat)}
    (here : s.entry e.id = some e) (noted : t.ledger = s.ledger.map (Entry.noting e.id ids runs)) : s.WroteInto t e := by
  have named : ∀ p : Nat → Bool, (fun x : Entry => p x.id) ∘ Entry.noting e.id ids runs = fun x => p x.id := fun p =>
    funext fun x => congrArg p (Entry.noting_id e.id ids runs x)
  refine ⟨⟨e.wrote ++ runs, ?_⟩, ?_⟩
  · have found : t.entry e.id = (s.entry e.id).map (Entry.noting e.id ids runs) := by
      rw [State.entry, noted, List.find?_map, named fun i => decide (i = e.id)]
      rfl
    rw [found, here, Option.map_some, Entry.noting, if_pos rfl]
  · rw [noted, List.filter_map, named fun i => decide (i ≠ e.id), List.map_map]
    refine List.map_congr_left fun x mem => Entry.noting_shared e.id ids runs x ?_
    simpa using (List.mem_filter.1 mem).2

theorem State.putWords_noting (s : State) (e : Entry) (o : Obj) (bytes : Tab Byte) (spans : List (Nat × Nat)) :
    ∃ ids runs fresh harb objs, s.putWords e o bytes spans =
      { s with fresh := fresh, harb := harb, objs := objs, ledger := s.ledger.map (Entry.noting e.id ids runs) } := by
  unfold State.putWords
  extract_lets h ids kept runs noted put
  refine ⟨ids, runs, ?_⟩
  obtain ⟨_, placed⟩ := noted.modObj_eq h fun y => y.setContent kept
  exact List.foldlRecOn
    (motive := fun t : State => ∃ fresh harb objs, t =
      { s with fresh := fresh, harb := harb, objs := objs, ledger := s.ledger.map (Entry.noting e.id ids runs) })
    _ State.rehome ⟨_, _, _, placed⟩ fun t frame tile _ => by
      obtain ⟨_, _, homed⟩ := t.rehome_eq tile
      obtain ⟨_, _, _, rfl⟩ := frame
      exact ⟨_, _, _, homed⟩

/-- An outcome put in place changes objects and their storage, and in the ledger what is noted of words written. -/
theorem State.settle_wrote {s : State} {e : Entry} (here : s.entry e.id = some e) (o : Obj) (status : Nat) (bytes : Tab Byte)
    (written : List Nat) (spans : List (Nat × Nat)) : ∃ fresh harb objs ledger,
    s.settle e o status bytes written spans = { s with fresh := fresh, harb := harb, objs := objs, ledger := ledger } ∧
    s.WroteInto { s with fresh := fresh, harb := harb, objs := objs, ledger := ledger } e := by
  unfold State.settle
  split
  · exact ⟨_, _, _, _, rfl, .of_ledger here rfl⟩
  · obtain ⟨_, _, _, _, _, noted⟩ := s.putWords_noting e o bytes spans
    obtain ⟨_, marked⟩ := (s.putWords e o bytes spans).modObj_eq o.handle fun y => { y with invalid := markAfter status y.invalid }
    rw [marked, noted]
    exact ⟨_, _, _, _, rfl, .of_noting here rfl⟩

/-! ### The end (R385, R397 to R400) -/

theorem Completing.finish_streams {s : State} {id : Nat} {e : Entry} (h : Completing s id e) (f : Fail) (r0 r1 : Nat) :
    (s.finish id f r0 r1).ctxs = s.ctxs ∧ (s.finish id f r0 r1).strdCodes = s.strdCodes := by
  obtain ⟨_, _, _, _, _, _, left⟩ := State.finishAt_lookedOver h s.tideNs false f r0 r1
  rw [State.finish, left]
  exact ⟨rfl, rfl⟩

/-- State `t` is `s` as the outcome of a stream descriptor `e` has been put in place, on its way to its completion. -/
structure State.StreamSettled (s t : State) (e : Entry) : Prop extends s.WroteInto t e where
  frame : ∃ regs cway fresh harb objs ledger ctxs codes, t = { s with
    regs := regs, cway := cway, fresh := fresh, harb := harb, objs := objs, ledger := ledger, ctxs := ctxs, strdCodes := codes }

/-- The completion that follows takes the entry out of the ledger, and the contexts and the count of codes stay as they are. -/
theorem State.StreamSettled.finish {s t : State} {e : Entry} (h : s.StreamSettled t e) (own : Completing s e.id e) (f : Fail)
    (r0 r1 : Nat) : Ended s (t.finish e.id f r0 r1) e false f r0 r1 ∧ (t.finish e.id f r0 r1).ctxs = t.ctxs ∧
      (t.finish e.id f r0 r1).strdCodes = t.strdCodes := by
  obtain ⟨⟨⟨wrote, here⟩, others⟩, _, _, _, _, _, _, _, _, rfl⟩ := h
  have completing : Completing _ e.id { e with wrote := wrote } := ⟨here, own.loud, own.own, own.live⟩
  obtain ⟨left, sent⟩ := State.finish_completed completing f r0 r1
  exact ⟨⟨(congrArg _ left).trans others, sent⟩, completing.finish_streams f r0 r1⟩

/-- Registers, contexts and the count of codes may change on the way. -/
theorem State.StreamSettled.counted {s t : State} {e : Entry} (h : s.StreamSettled t e) (regs : Tab Word) (ctxs : Tab Ctx) (codes : Nat) :
    s.StreamSettled { t with regs := regs, ctxs := ctxs, strdCodes := codes } e := by
  obtain ⟨⟨own, others⟩, _, _, _, _, _, _, _, _, rfl⟩ := h
  exact ⟨⟨own, others⟩, _, _, _, _, _, _, _, _, rfl⟩

/-- The input enters the log and the outcome its object, while the contexts and the count of codes stay as they are. -/
theorem State.logData_settled {s : State} {e : Entry} (here : s.entry e.id = some e) (input : List Byte) (o : Obj) (status : Nat)
    (bytes : Tab Byte) (written : List Nat) (spans : List (Nat × Nat)) :
    let t := (s.logData e.desc 0 input).settle e o status bytes written spans
    s.StreamSettled t e ∧ t.ctxs = s.ctxs ∧ t.strdCodes = s.strdCodes := by
  intro t
  obtain ⟨regs, cway, logged⟩ := s.logData_logged e.desc 0 input
  obtain ⟨_, _, _, _, settled, own, others⟩ :=
    State.settle_wrote (s := { s with regs := regs, cway := cway }) here o status bytes written spans
  have placed : t = _ := (congrArg (fun u : State => u.settle e o status bytes written spans) logged).trans settled
  rw [placed]
  exact ⟨⟨⟨own, others⟩, _, _, _, _, _, _, _, _, rfl⟩, rfl, rfl⟩

/-- The context of a descriptor that has ended: it stays as it is now, or closes (R385, R397). -/
def State.leaveCtx (s : State) (m : Nat) (c : Ctx) (stays : Bool) : State := if stays then s.setCtx m c else s.closeCtx m

theorem State.leaveCtx_eq (s : State) (m : Nat) (c : Ctx) (stays : Bool) : ∃ ctxs, s.leaveCtx m c stays = { s with ctxs := ctxs } := by
  cases stays <;> exact ⟨_, rfl⟩

theorem State.leaveCtx_ctx {s : State} (sorted : tabSorted s.ctxs) (m : Nat) (c : Ctx) (stays : Bool) :
    (s.leaveCtx m c stays).ctx m = (if stays then c else Ctx.reset) ∧ ∀ k, k ≠ m → (s.leaveCtx m c stays).ctx k = s.ctx k := by
  cases stays with
  | true => exact ⟨s.ctx_setCtx m c, fun _ other => s.ctx_setCtx_ne c other⟩
  | false => exact ⟨State.ctx_closeCtx sorted m, fun _ other => s.ctx_closeCtx_ne other⟩

theorem State.countStream_eq (s : State) (status codes : Nat) :
    ∃ regs, s.countStream status codes = { s with regs := regs, strdCodes := s.strdCodes + codes } := by
  unfold State.countStream
  extract_lets counted published
  split
  · exact ⟨_, rfl⟩
  · split <;> exact ⟨_, rfl⟩

/-- The run of the decoder over what host memory returned (R397, R398). -/
def State.runOf (s : State) (e : Entry) (m : Nat) (o : Obj) (data : HostRead) : Decode :=
  decodeRun (destOf o (s.ctx m).dstOff) (s.ctx m) o.content (data.bytes.take e.desc.srcLen)

/-- A STREAM_CONTINUE without input that asks for no more closes its stream (R385). -/
def Desc.closing (d : Desc) : Prop := d.opcode = opStreamContinue ∧ d.srcLen = 0 ∧ d.flag21 = false

section StreamEnd

variable {s : State} {id : Nat} {e : Entry} {m h opener namer off : Nat} {o : Obj}

theorem exec_streamDescEnd (here : s.entry id = some e) (started : e.started = true) (job : e.job = .stream m h opener namer off)
    (data : HostRead) : exec (.streamDescEnd id data) s = .next (s.streamEnd e m h data) := by
  change execStreamDescEnd id data s = _
  simp [execStreamDescEnd, here, started, job]

variable (own : Completing s e.id e) (sorted : tabSorted s.ctxs) (there : s.objOf h = some o) (data : HostRead)
include own sorted there

theorem State.streamEnd_lost {reason : Nat} (lost : o.lost = some reason) :
    Completed s (s.streamEnd e m h data) e false (stDataLost, det reason e.desc.streamWord) 0 0 ∧
      (s.streamEnd e m h data).ctx m = Ctx.reset := by
  have closes : s.streamEnd e m h data = (s.closeCtx m).finish e.id (stDataLost, det reason e.desc.streamWord) 0 0 := by
    simp [State.streamEnd, there, Obj.lostAt, lost]
  have still : Completing (s.closeCtx m) e.id e := ⟨own.here, own.loud, own.own, own.live⟩
  obtain ⟨ctxs, -⟩ := still.finish_streams (stDataLost, det reason e.desc.streamWord) 0 0
  rw [closes]
  exact ⟨State.finish_completed still _ 0 0, (State.ctx_of_ctxs ctxs m).trans (State.ctx_closeCtx sorted m)⟩

theorem State.streamEnd_closing (kept : o.lost = none) (closing : e.desc.closing) :
    Ended s (s.streamEnd e m h data) e false (stOk, 4) 0 0 ∧ (s.streamEnd e m h data).ctx m = Ctx.reset := by
  obtain ⟨op, silent, last⟩ := closing
  obtain ⟨settled, ctxs, -⟩ := State.logData_settled own.here (data.bytes.take e.desc.srcLen) o stOk o.content [] []
  have closes : s.streamEnd e m h data =
      (((s.logData e.desc 0 (data.bytes.take e.desc.srcLen)).settle e o stOk o.content [] []).closeCtx m).finish e.id (stOk, 4) 0 0 := by
    simp [State.streamEnd, there, Obj.lostAt, kept, op, silent, last]
  obtain ⟨ended, after, -⟩ := (settled.counted _ (tabErase _ m) _).finish own (stOk, 4) 0 0
  rw [closes]
  exact ⟨ended, (State.ctx_of_ctxs after m).trans (State.ctx_closeCtx (ctxs ▸ sorted) m)⟩

omit sorted in
/-- The decoder's outcome is put in place; its context stays, no longer running, or closes. -/
theorem State.streamEnd_runs (kept : o.lost = none) (more : ¬ e.desc.closing) :
    let run := s.runOf e m o data
    let used := run.used (data.bytes.take e.desc.srcLen).length
    let res := run.outcome e.desc.flag21 data.fail
    ∃ (t : State) (c : Ctx), s.StreamSettled t e ∧ t.ctxs = s.ctxs ∧ t.strdCodes = s.strdCodes ∧
      c.running = false ∧ c.consumed = (s.ctx m).consumed + used ∧ s.streamEnd e m h data =
        ((t.leaveCtx m c res.2).countStream res.1.1 run.codes).finish e.id res.1 run.out used := by
  intro run used res
  obtain ⟨settled, ctxs, codes⟩ := State.logData_settled own.here (data.bytes.take e.desc.srcLen) o res.1.1
    (run.tail (destOf o (s.ctx m).dstOff)) (run.tilesWritten (destOf o (s.ctx m).dstOff) o (s.ctx m))
    (run.spans (destOf o (s.ctx m).dstOff) (s.ctx m))
  refine ⟨_, { run.ctx with running := false, inBits := run.keep, consumed := (s.ctx m).consumed + used },
    settled, ctxs, codes, rfl, rfl, ?_⟩
  have goes : ¬(e.desc.opcode = opStreamContinue ∧ e.desc.srcLen = 0 ∧ ¬e.desc.flag21 = true) := by
    simpa [Desc.closing] using more
  simp only [State.streamEnd, there, Obj.lostAt, kept, Option.map_none, if_neg goes, own.loud]
  simp only [Bool.false_eq_true, not_false_eq_true, and_true]
  rfl

theorem State.streamEnd_outcome (kept : o.lost = none) (more : ¬ e.desc.closing) :
    let run := s.runOf e m o data
    let used := run.used (data.bytes.take e.desc.srcLen).length
    let res := run.outcome e.desc.flag21 data.fail
    let t := s.streamEnd e m h data
    Ended s t e false res.1 run.out used ∧ t.strdCodes = s.strdCodes + run.codes ∧
      (res.2 = true → (t.ctx m).running = false ∧ (t.ctx m).consumed = (s.ctx m).consumed + used) ∧
      (res.2 = false → t.ctx m = Ctx.reset) ∧ ∀ k, k ≠ m → t.ctx k = s.ctx k := by
  intro run used res t
  obtain ⟨u, c, settled, ctxs, codes, idle, consumed, ends⟩ := State.streamEnd_runs (m := m) own there data kept more
  obtain ⟨here, others⟩ := State.leaveCtx_ctx (s := u) (ctxs ▸ sorted) m c res.2
  obtain ⟨tab, left⟩ := u.leaveCtx_eq m c res.2
  obtain ⟨regs, counted⟩ := (u.leaveCtx m c res.2).countStream_eq res.1.1 run.codes
  obtain ⟨ended, after, sum⟩ := (settled.counted regs tab (u.strdCodes + run.codes)).finish own res.1 run.out used
  have finishes : t = _ := ends.trans (by rw [counted, left])
  have context : ∀ k, t.ctx k = (u.leaveCtx m c res.2).ctx k := State.ctx_of_ctxs (by rw [finishes, left]; exact after)
  refine ⟨finishes ▸ ended, ?_, fun stays => ?_, fun closes => ?_, fun k other => ?_⟩
  · rw [finishes, sum, codes]
  · rw [context, here, if_pos stays]
    exact ⟨idle, consumed⟩
  · rw [context, here, closes]
    rfl
  · rw [context, others k other]
    exact State.ctx_of_ctxs ctxs k

end StreamEnd

/-- Settles O29: streams open, go on, start, end and are killed on the contexts that they name. -/
theorem streams : Obligations.Streams := by
  refine ⟨fun r d s canon live => ⟨fun taken placed fresh => ⟨fun full => ?_, fun room => ?_⟩, fun taken placed => ⟨fun closed => ?_,
    fun m c opened => ?_⟩⟩, fun s canon => ⟨?_, ?_, fun k up => ⟨fun opened idle => ?_, fun busy => ?_⟩⟩⟩
  · exact ⟨_, exec_streamDecode_full taken placed fresh full, State.reject_run live d _⟩
  · obtain ⟨ledger, ctxs⟩ := (s.opening d).admitNew_run d
      (.stream (s.pickedCtx d.flag20) (d.w 2) s.nextId s.nextId (d.w 3)) (d.w 2)
    exact ⟨_, _, exec_streamDecode_opens taken placed fresh room, State.pickedCtx_mem room,
      (State.ctx_of_ctxs ctxs _).trans (State.ctx_setCtx _ _ _),
      fun k other => (State.ctx_of_ctxs ctxs k).trans (State.ctx_setCtx_ne _ _ other), ledger⟩
  · obtain ⟨ledger, -, sent⟩ := State.reject_run live d (stBadDesc, det 4 2)
    exact ⟨_, exec_streamContinue_closed taken placed closed, ledger, sent⟩
  · obtain ⟨ledger, ctxs⟩ := (s.setCtx m (c.naming s.nextId d)).admitNew_run d
      (.stream m (c.naming s.nextId d).name (c.naming s.nextId d).opener (c.naming s.nextId d).nameBy (c.naming s.nextId d).nameOff)
      (c.naming s.nextId d).name
    exact ⟨_, exec_streamContinue_open taken placed opened, ledger, (State.ctx_of_ctxs ctxs m).trans (State.ctx_setCtx _ _ _),
      fun k other => (State.ctx_of_ctxs ctxs k).trans (State.ctx_setCtx_ne _ _ other)⟩
  · intro id e here waiting own m h opener namer off o job free awake opened same there kept inPlace
    obtain rfl := State.id_of_entry here
    have context : (s.streaming e m h namer off).ctx m = (s.ctx m).runsFor h namer off := State.ctx_setCtx _ _ _
    obtain ⟨dst, dstOff, pos⟩ := (s.ctx m).runsFor_dst h namer off
    have ran : exec (.streamDescStart e.id) s = .next (s.streaming e m h namer off) :=
      (exec_streamDescStart here job waiting free awake).trans
        (congrArg Host.Outcome.next (startStream_starts own opened same there kept inPlace))
    refine ⟨_, ran, State.streaming_entry here, fun j other => State.streaming_others other, ?_, ?_, ?_, ?_,
      fun k other => State.ctx_setCtx_ne _ _ other, rfl, rfl⟩
    · rw [context]
      rfl
    · rw [context, dst]
    · rw [context, dstOff]
    · rw [context, pos]
  · intro id e own started m h opener namer off o data job there
    obtain rfl := State.id_of_entry own.here
    have ran := exec_streamDescEnd own.here started job data
    exact ⟨fun reason lost => ⟨_, ran, State.streamEnd_lost own canon.ctxs there data lost⟩,
      fun kept => ⟨fun closing => ⟨_, ran, State.streamEnd_closing own canon.ctxs there data kept closing⟩,
        fun more => ⟨_, ran, State.streamEnd_outcome own canon.ctxs there data kept more⟩⟩⟩
  · exact ⟨_, (exec_strdKill up k).trans (congrArg _ (State.killCtx_suspended opened idle)), State.ctx_closeCtx canon.ctxs k,
      fun j other => s.ctx_closeCtx_ne other, rfl⟩
  · exact (exec_strdKill up k).trans (congrArg _ (State.killCtx_refused busy))

end Sys2Proof.Machine

/-! What every command keeps of the queue, the clock, the fatal state and the fuses (O5, O6, O9), and what stands at reset (O1, O3). -/

namespace Sys2Proof.Machine

/-- A full reset keeps the queue, the clock and the fuses, and leaves the fatal state (R553, R556). -/
theorem fullReset_keeps {c : Instr} (resets : fullReset c = true) {s t : State} (ran : exec c s = .next t) :
    t.pending = s.pending ∧ t.now = s.now ∧ t.power.fuseMin = s.power.fuseMin ∧ t.flt.fatalHold = false :=
  match c, resets, ran with
  | .railDrop, _, ran => Host.Outcome.next.inj ran ▸ ⟨rfl, rfl, rfl, rfl⟩
  | .pwrResetNAssert, _, ran => Host.Outcome.next.inj ran ▸ ⟨rfl, rfl, rfl, rfl⟩

/-- Settles O9: a full reset is told apart, and every other command keeps both. -/
theorem commandsLeaveQueueAndClock : Obligations.CommandsLeaveQueueAndClock := by
  intro c s t ran
  cases resets : fullReset c with
  | true =>
    obtain ⟨queue, clock, _, _⟩ := fullReset_keeps resets ran
    exact ⟨queue, clock⟩
  | false => exact ⟨(exec_kept resets s t ran).pending, (exec_kept resets s t ran).now⟩

/-- Settles O6: what every command but a full reset keeps includes both, and a full reset keeps the fuses. -/
theorem fatalStateAndFuseMinimumKept : Obligations.FatalStateAndFuseMinimumKept := by
  refine ⟨fun c s t notReset fatal ran => (exec_kept notReset s t ran).fatal fatal, fun c s t ran => ?_⟩
  cases resets : fullReset c with
  | true =>
    obtain ⟨_, _, fuses, _⟩ := fullReset_keeps resets ran
    exact fuses.ge
  | false => exact (exec_kept resets s t ran).fuse

theorem FatalPinned.kept {s t : State} (pinned : FatalPinned s) {pv : Bool} (h : Kept pv s t) : FatalPinned t := h.pin pinned

/-- Neither the clock nor the Tide is a part of the error block. -/
theorem FatalPinned.with_clock {s : State} (pinned : FatalPinned s) (now : Nat) (tide : Tide) :
    FatalPinned { s with now := now, tide := tide } := pinned

/-- A tick of CLK_CORE keeps FAULT_N asserted: the records of a cycle only ever assert it. -/
theorem State.tick_fatalPinned {s : State} (pinned : FatalPinned s) : FatalPinned s.tick := by
  unfold State.tick
  extract_lets sent timed ended edged
  have lanes : Kept false s sent :=
    State.wireTick_kept (Kept.forN (fun p _ h => State.laneTick_kept p h) 4 (Kept.refl false s))
  have clocked : FatalPinned timed := (pinned.kept lanes).with_clock _ _
  have cycle : Kept false timed ended := Kept.ite (State.endCycle_kept (Kept.refl false timed)) (Kept.refl false timed)
  have moved : FatalPinned edged := by
    unfold edged
    split
    · exact (clocked.kept cycle).with_clock _ _
    · exact clocked.kept cycle
  exact moved.kept (State.pcieTick_kept (Kept.refl false edged))

/-- Settles O5: a step is a tick, a full reset, which leaves the fatal state, or a command that keeps the pin. -/
theorem fatalPinKept : Obligations.FatalPinKept := by
  intro s t pinned stepped
  unfold step at stepped
  split at stepped
  · exact Host.Outcome.next.inj stepped ▸ State.tick_fatalPinned pinned
  next c rest _ =>
    cases resets : fullReset c with
    | true =>
      obtain ⟨_, _, _, live⟩ := fullReset_keeps resets stepped
      exact fun fatal => absurd (live.symm.trans fatal) Bool.false_ne_true
    | false => exact (exec_kept resets _ t stepped).pin pinned

/-- The device at reset is a full reset of itself, so what holds after a full reset holds at reset. -/
theorem State.fullReset_reset : State.reset.fullReset = State.reset := rfl

/-- Settles O3: a full reset leaves the canonical form, and leaves the device outside the fatal state with nothing waiting or sent. -/
theorem resetIsCanonical : Obligations.ResetIsCanonical :=
  ⟨State.fullReset_reset ▸ State.reset.fullReset_canon, fun fatal => absurd fatal Bool.false_ne_true, rfl, rfl, rfl⟩

/-- Settles O1: a step on a queue that is not empty takes its front. -/
theorem stepRunsFront : Obligations.StepRunsFront := by
  intro c rest s
  unfold step
  rfl

end Sys2Proof.Machine

/-! Power and resets (O10, O11, O14, O16, O17): the full resets, the releases, the watchdog, and FLT_FIRST with FAULT_N. -/

namespace Sys2Proof.Machine

/-- Settles O10: a full reset keeps what R556 names, and the two commands differ in the source that they note. -/
theorem fullResets : Obligations.FullResets := by
  intro s clean t
  exact ⟨rfl, rfl⟩

/-! ### FLT_ACK (R543) -/

theorem exec_fltAck {s : State} (up : s.power.boot ≠ .inReset) (seq : Word) : exec (.fltAck seq) s = .next (s.fltAck seq.toNat) :=
  if_pos (State.running_eq_true up)

theorem State.fltAck_other {s : State} {ws : List Nat} {seq : Nat} (latched : s.flt.first = some ws) (other : ws.getD 0 0 ≠ seq) :
    s.fltAck seq = s.setBit 0xE024 3 := by
  simp only [State.fltAck, latched, if_pos other]

theorem State.fltAck_latched {s : State} {ws : List Nat} {seq : Nat} (latched : s.flt.first = some ws) (same : ws.getD 0 0 = seq) :
    s.fltAck seq = if ws.getD 1 0 % 4 = 3 then s else { s with flt := { s.flt with first := none } } := by
  simp only [State.fltAck, latched, same, ne_eq, not_true_eq_false, if_false]
  rfl

theorem State.fltAck_none {s : State} (free : s.flt.first = none) (seq : Nat) : s.fltAck seq = s.setBit 0xE024 3 := by
  simp only [State.fltAck, free]

/-- Settles O17: by what FLT_FIRST holds. -/
theorem firstFaultAcknowledged : Obligations.FirstFaultAcknowledged := by
  intro seq s up
  rw [exec_fltAck up]
  refine ⟨fun ws latched same notFatal => ?_, fun ws latched same fatal => ?_, fun ws latched other => ?_, fun free => ?_⟩
  · rw [State.fltAck_latched latched same, if_neg notFatal]
  · rw [State.fltAck_latched latched same, if_pos fatal]
  · rw [State.fltAck_other latched other]
  · rw [State.fltAck_none free]

end Sys2Proof.Machine

/-! Faults: what a record changes (O15), the fatal state and FAULT_N (O16), and the watchdog (O14). -/

namespace Sys2Proof.Machine

/-! ### FAULT_N and FLT_FIRST (R547, R550) -/

theorem State.fltPinRelease_held {s : State} (fatal : s.flt.fatalHold = true) : s.fltPinRelease = s := if_pos fatal

theorem State.fltPinRelease_live {s : State} (live : s.flt.fatalHold = false) :
    s.fltPinRelease = { s with flt := { s.flt with pin := false } } :=
  if_neg (live ▸ Bool.false_ne_true)

/-- The capture of word `i` of those behind FLT_FIRST0. -/
def State.captureFirstWord (i : Nat) (s : State) : State := s.setCapt (0xE044 + 4 * i) ((s.flt.first.getD []).getD (i + 1) 0)

theorem State.captureFirst_eq (s : State) : s.captureFirst = forN 7 State.captureFirstWord s := rfl

/-- The first `n` words behind FLT_FIRST0 are captured. -/
structure State.FirstCaptured (s : State) (n : Nat) (t : State) : Prop where
  flt : t.flt = s.flt
  words : ∀ i, i < n → tabFind t.capts (0xE044 + 4 * i) = some (BitVec.ofNat 32 ((s.flt.first.getD []).getD (i + 1) 0))

theorem State.FirstCaptured.next {s t : State} {n : Nat} (h : s.FirstCaptured n t) : s.FirstCaptured (n + 1) (t.captureFirstWord n) := by
  refine ⟨h.flt, fun i upTo => ?_⟩
  by_cases last : i = n
  · subst last
    rw [State.captureFirstWord, State.setCapt_capts, tabFind_put, h.flt]
  · rw [State.captureFirstWord, State.setCapt_capts, tabFind_put_ne _ _ (by omega)]
    exact h.words i (by omega)

theorem State.forN_firstCaptured (s : State) (n : Nat) : s.FirstCaptured n (forN n State.captureFirstWord s) := by
  induction n with
  | zero => exact ⟨rfl, fun i below => absurd below (Nat.not_lt_zero i)⟩
  | succ n ih => exact forN_succ n State.captureFirstWord s ▸ ih.next

theorem byte_mod_word (x : Nat) {i : Nat} (small : i < 4) : BitVec.ofNat 8 (x % 2 ^ 32 / 256 ^ i) = BitVec.ofNat 8 (x / 256 ^ i) := by
  apply BitVec.eq_of_toNat_eq
  simp only [BitVec.toNat_ofNat]
  interval_cases i <;> omega

theorem leBytes_four (x : Nat) : leBytes 4 x = (List.range 4).map fun i => BitVec.ofNat 8 (x % 2 ^ 32 / 256 ^ i) := by
  have low : (List.range 4).map (fun i => BitVec.ofNat 8 (x % 2 ^ 32 / 256 ^ i)) = (List.range 4).map fun i => BitVec.ofNat 8 (x / 256 ^ i) :=
    List.map_congr_left fun i mem => byte_mod_word x (List.mem_range.1 mem)
  rw [low]
  simp [List.range_succ, leBytes, Nat.div_div_eq_div_mul]

theorem State.captureFirst_readWord (s : State) : s.captureFirst.readWord 0xE040 = (s.flt.first.getD []).getD 0 0 :=
  congrArg (fun x : Flt => (x.first.getD []).getD 0 0) (s.forN_firstCaptured 7).flt

/-- A read of FLT_FIRST0 captures the other seven words and returns the first (R550). -/
theorem State.hostRead_first (s : State) : s.hostRead 0 0xE040 4 = s.captureFirst.emit
    (.readReturn 0 0xE040 ((List.range 4).map fun i => BitVec.ofNat 8 ((s.flt.first.getD []).getD 0 0 % 2 ^ 32 / 256 ^ i))) := by
  rw [s.hostRead_word (by decide) (by decide), ← leBytes_four, ← s.captureFirst_readWord]
  rfl

/-! ### The fatal state (R549) -/

theorem State.resignLease_linkMoved (s : State) (p : Nat) : s.LinkMoved (s.resignLease p) p := by
  unfold State.resignLease
  split
  · exact (s.sendFree_linkMoved p _).trans (State.modLink_linkMoved _ p _)
  · exact .refl s p

theorem State.forN_linksOnly {f : Nat → State → State} (step : ∀ p (t : State), t.LinksOnly (f p t)) (n : Nat) (s : State) :
    s.LinksOnly (forN n f s) :=
  List.foldlRecOn (motive := s.LinksOnly) _ _ (.refl s) fun t h p _ => h.trans (step p t)

/-- Where only ports have changed, the new state is the old one with the new ports. -/
theorem State.LinksOnly.eq {s t : State} (h : s.LinksOnly t) : t = { s with ports := t.ports } :=
  congrArg (fun x : State => { x with ports := t.ports }) h.frame

/-- A new role changes the role, the rings and what is raised only (R511, R512). -/
theorem State.takeRole_eq (s : State) (r : Role) : ∃ rings raised, s.takeRole r =
    { s with cway := { s.cway with role := r }, rings := rings, flt := { s.flt with raised := s.flt.raised ++ raised } } := by
  unfold State.takeRole
  extract_lets old off t
  split
  · exact ⟨_, [], by rw [List.append_nil]⟩
  · exact ⟨_, _, rfl⟩

/-- FAILED is entered with PEER_OK_OUT stopped and the links' leases resigned (R512, R528). -/
theorem State.enterFailed_eq (s : State) : ∃ rings raised ports, s.enterFailed =
    { s with cway := { s.cway with role := .failed, okNext := none }, rings := rings, ports := ports
             flt := { s.flt with raised := s.flt.raised ++ raised } } := by
  obtain ⟨rings, raised, role⟩ := s.takeRole_eq .failed
  let u : State := { s.takeRole .failed with cway := { (s.takeRole .failed).cway with okNext := none } }
  have leases : u.LinksOnly s.enterFailed := State.forN_linksOnly (fun p t => (t.resignLease_linkMoved p).linksOnly) 4 u
  have stopped : u = { s with cway := { s.cway with role := .failed, okNext := none }, rings := rings
                              flt := { s.flt with raised := s.flt.raised ++ raised } } := by
    simp only [u, role]
  exact ⟨rings, raised, _, leases.eq.trans (by rw [stopped])⟩

theorem Chan.toSelfRefresh_rests (x : Chan) (now : Nat) : (x.toSelfRefresh now).phase ≠ .active ∧
    (x.toSelfRefresh now).phase ≠ .recovery ∧ (x.toSelfRefresh now).phase ≠ .retiring := by
  unfold Chan.toSelfRefresh
  cases phase : x.phase <;> simp [phase]

/-- The fatal state, entered from a device that was not in it. -/
structure State.FatalEntered (s t : State) : Prop where
  hold : t.flt.fatalHold = true
  pin : t.flt.pin = true
  raised : s.flt.raised <+: t.flt.raised
  chans : t.chans = tabMap (fun _ c => c.toSelfRefresh s.now) s.chans
  role : s.paired = true → t.cway.role = .failed

theorem State.enterFatal_entered {s : State} (live : s.flt.fatalHold = false) : s.FatalEntered s.enterFatal := by
  let u : State := { s with flt := { s.flt with fatalHold := true, pin := true }
                            chans := tabMap (fun _ c => c.toSelfRefresh s.now) s.chans }
  have entered : s.enterFatal = if s.paired then u.enterFailed else u := if_neg (live ▸ Bool.false_ne_true)
  obtain ⟨rings, raised, ports, failed⟩ := u.enterFailed_eq
  rw [entered]
  split
  · rw [failed]
    exact ⟨rfl, rfl, List.prefix_append _ _, rfl, fun _ => rfl⟩
  next alone => exact ⟨rfl, rfl, List.prefix_rfl, rfl, fun paired => absurd paired alone⟩

theorem State.FatalEntered.rests {s t : State} (h : s.FatalEntered t) (c : Nat) :
    (t.chan c).phase ≠ .active ∧ (t.chan c).phase ≠ .recovery ∧ (t.chan c).phase ≠ .retiring := by
  rw [State.chan, tabGet, h.chans, tabFind_map]
  cases tabFind s.chans c with
  | none => simp [Chan.reset]
  | some x => exact x.toSelfRefresh_rests s.now

theorem State.raise_fatal {e : ErrRec} (s : State) (fatal : e.sev = 3) : s.raise e = (s.raiseCore false e).enterFatal := if_pos fatal

theorem State.enterFatal_held {s : State} (fatal : s.flt.fatalHold = true) : s.enterFatal = s := if_pos fatal

theorem exec_internalConsistencyFailure {s : State} (up : s.power.boot ≠ .inReset) (unit : Byte) :
    exec (.internalConsistencyFailure unit) s = .next (s.raise (err 3 0x0F 0x05 unit.toNat 0 0 0)) :=
  if_pos (State.running_eq_true up)

theorem exec_fltFirstRead {s : State} (up : s.power.boot ≠ .inReset) : exec .fltFirstRead s = .next (s.hostRead 0 0xE040 4) :=
  if_pos (State.running_eq_true up)

/-- Settles O16: by whether the device was in the fatal state before. -/
theorem fatalFailureAndFaultPin : Obligations.FatalFailureAndFaultPin := by
  refine ⟨fun unit s pinned up => ?_, fun s => ⟨fun live => ?_, fun fatal => ?_, fun up => ?_⟩⟩
  · have raised := s.raise_fatal (e := err 3 0x0F 0x05 unit.toNat 0 0 0) rfl
    refine ⟨_, exec_internalConsistencyFailure up unit, ?_⟩
    rw [raised]
    cases fatal : s.flt.fatalHold with
    | true =>
      rw [State.enterFatal_held (s := s.raiseCore false _) fatal]
      exact ⟨fatal, pinned fatal, List.mem_append_right _ (List.mem_singleton.2 rfl), fun _ live => absurd live.symm Bool.false_ne_true,
        fun live => absurd live.symm Bool.false_ne_true⟩
    | false =>
      have entered := State.enterFatal_entered (s := s.raiseCore false (err 3 0x0F 0x05 unit.toNat 0 0 0)) fatal
      exact ⟨entered.hold, entered.pin, entered.raised.subset (List.mem_append_right _ (List.mem_singleton.2 rfl)),
        fun paired _ => entered.role paired, fun _ c => entered.rests c⟩
  · exact congrArg Host.Outcome.next (State.fltPinRelease_live live)
  · exact congrArg Host.Outcome.next (State.fltPinRelease_held fatal)
  · refine ⟨_, exec_fltFirstRead up, ?_, ?_, s.hostRead_frame _ _ _⟩
    · rw [s.hostRead_first, State.emit_egress, (s.captureFirst_captured).frame]
    · rw [s.hostRead_first]
      exact (s.forN_firstCaptured 7).words

end Sys2Proof.Machine

/-! Error records (O15): what is raised, the order of a cycle's records, and what a record does to the error block. -/

namespace Sys2Proof.Machine

/-! ### The order of a cycle's records (R538) -/

/-- The records stand in the increasing order of their ranks (R538). -/
def Ranked (rs : List Raised) : Prop := rs.Pairwise fun a b => a.what.rank ≤ b.what.rank

theorem putRaised_perm (r : Raised) (rs : List Raised) : (putRaised r rs).Perm (r :: rs) := by
  induction rs with
  | nil => exact .refl _
  | cons x xs ih =>
    unfold putRaised
    split
    · exact .refl _
    · exact (ih.cons x).trans (.swap r x xs)

theorem putRaised_ranked (r : Raised) {rs : List Raised} (ranked : Ranked rs) : Ranked (putRaised r rs) := by
  induction rs with
  | nil => exact List.pairwise_singleton _ r
  | cons x xs ih =>
    obtain ⟨head, tail⟩ := List.pairwise_cons.1 ranked
    unfold putRaised
    split
    next below =>
      refine List.pairwise_cons.2 ⟨fun y mem => ?_, ranked⟩
      obtain rfl | later := List.mem_cons.1 mem
      · exact below.le
      · exact below.le.trans (head y later)
    next above =>
      refine List.pairwise_cons.2 ⟨fun y mem => ?_, ih tail⟩
      obtain rfl | later := List.mem_cons.1 ((putRaised_perm r xs).mem_iff.1 mem)
      · exact Nat.le_of_not_lt above
      · exact head y later

theorem foldl_putRaised (rs : List Raised) : ∀ l, Ranked l →
    (rs.foldl (fun l r => putRaised r l) l).Perm (l ++ rs) ∧ Ranked (rs.foldl (fun l r => putRaised r l) l) := by
  induction rs with
  | nil => exact fun l ranked => ⟨by simp, ranked⟩
  | cons r rs ih =>
    intro l ranked
    obtain ⟨perm, sorted⟩ := ih (putRaised r l) (putRaised_ranked r ranked)
    exact ⟨(perm.trans ((putRaised_perm r l).append_right rs)).trans List.perm_middle.symm, sorted⟩

theorem cycleOrder_perm (rs : List Raised) : (cycleOrder rs).Perm rs := (foldl_putRaised rs [] List.Pairwise.nil).1

theorem cycleOrder_ranked (rs : List Raised) : Ranked (cycleOrder rs) := (foldl_putRaised rs [] List.Pairwise.nil).2

/-! ### What a record does to the error block (R537, R541, R542, R547) -/

/-- The error block is as before but for the error ring's own positions. -/
structure State.RingMoved (s t : State) : Prop where
  flt : t.flt = { s.flt with written := t.flt.written, fatalPos := t.flt.fatalPos }

theorem State.RingMoved.refl (s : State) : s.RingMoved s := ⟨rfl⟩

theorem State.RingMoved.of_flt {s t : State} (h : t.flt = s.flt) : s.RingMoved t := ⟨by rw [h]⟩

theorem State.RingMoved.trans {s t u : State} (h : s.RingMoved t) (k : t.RingMoved u) : s.RingMoved u :=
  ⟨k.flt.trans (congrArg (fun x : Flt => { x with written := u.flt.written, fatalPos := u.flt.fatalPos }) h.flt)⟩

theorem State.fltStore_ringMoved (s : State) (sev : Nat) (bytes : List Byte) : s.RingMoved (s.fltStore sev bytes) := by
  unfold State.fltStore
  split
  · exact ⟨rfl⟩
  · split
    · extract_lets n
      split
      · exact ⟨rfl⟩
      · exact ⟨rfl⟩
    · exact ⟨rfl⟩

theorem State.cwaySend_flt (s : State) (type : Nat) (last : Bool) (ring dseq : Nat) (body : List Byte) :
    (s.cwaySend type last ring dseq body).flt = s.flt := by
  unfold State.cwaySend
  split
  · rfl
  · rfl

/-- The error block with the next number given, and the record latched and FAULT_N asserted as it asks. -/
def State.numbered (s : State) (r : Raised) : Flt :=
  let pin := r.force || s.pins r.what
  { s.flt with
    seq := (s.flt.seq + 1) % 2 ^ 32
    first := if decide (1 ≤ r.what.sev) && !s.flt.nests r.what.sev then some (r.what.words s.flt.seq r.ns (s.flt.nests r.what.sev) pin)
      else s.flt.first
    pin := s.flt.pin || pin }

theorem State.makeRecord_numbered (s : State) (r : Raised) :
    State.RingMoved { s with flt := s.numbered r } (s.makeRecord r) := by
  unfold State.makeRecord
  extract_lets e nested pin ws bytes latch first s1 s2 s3 s4 s5
  have counted : State.RingMoved { s with flt := s.numbered r } s3 := by
    refine .of_flt ?_
    show s2.flt = _
    unfold s2
    split
    · rfl
    · rfl
  have signalled : s4.RingMoved s5 :=
    List.foldlRecOn (motive := s4.RingMoved) _ _ (.refl s4) fun t h _ _ => h.trans (.of_flt rfl)
  have made := (counted.trans (s3.fltStore_ringMoved _ _)).trans signalled
  split
  · exact made.trans (.of_flt (s5.cwaySend_flt _ _ _ _ _))
  · exact made

theorem Flt.nests_eq_true {f : Flt} {sev : Nat} :
    f.nests sev = true ↔ 1 ≤ sev ∧ ∃ ws, f.first = some ws ∧ sev ≤ ws.getD 1 0 % 4 := by
  cases first : f.first with
  | none => simp [Flt.nests, Flt.heldSev, first]
  | some ws => simp [Flt.nests, Flt.heldSev, first]

theorem State.pins_eq_true {s : State} {e : ErrRec} :
    s.pins e = true ↔ e.sev = 3 ∨ (e.sev = 2 ∧ s.reg 0xE028 / 2 ^ e.source % 2 = 1) := by
  simp [State.pins]

theorem State.raise_fatalHold {e : ErrRec} (s : State) (fatal : e.sev = 3) : (s.raise e).flt.fatalHold = true := by
  rw [s.raise_fatal fatal]
  cases before : s.flt.fatalHold with
  | true =>
    rw [State.enterFatal_held (s := s.raiseCore false e) before]
    exact before
  | false => exact (State.enterFatal_entered (s := s.raiseCore false e) before).hold

/-- Settles O15: what is raised waits, the cycle's records come in order, and each is numbered, latched and pinned as it asks. -/
theorem raisedRecord : Obligations.RaisedRecord := by
  refine ⟨fun e s => ⟨fun mild => s.raise_of_mild mild, fun fatal => s.raise_fatalHold fatal⟩,
    fun rs => ⟨cycleOrder_perm rs, cycleOrder_ranked rs⟩, fun s => rfl, fun e ns force s _ => ?_⟩
  intro t nested pins
  have block := (s.makeRecord_numbered { what := e, ns := ns, force := force }).flt
  have nests : s.flt.nests e.sev = true ↔ nested := Flt.nests_eq_true
  have asserts : (force || s.pins e) = true ↔ pins := by rw [Bool.or_eq_true, State.pins_eq_true]
  refine ⟨(congrArg Flt.seq block :), fun keeps => ?_, fun sev alone => ?_, ?_, ?_⟩
  · refine (congrArg Flt.first block :).trans (if_neg ?_)
    obtain info | nested := keeps
    · simp [info]
    · simp [nests.2 nested]
  · have notNested : s.flt.nests e.sev = false := Bool.eq_false_iff.2 fun h => alone (nests.1 h)
    have pin : decide pins = (force || s.pins e) := 
      Bool.eq_iff_iff.2 (decide_eq_true_iff.trans asserts.symm)
    refine (congrArg Flt.first block :).trans ?_
    simp [State.numbered, notNested, sev, pin]
  · rw [(congrArg Flt.pin block :)]
    simp only [State.numbered, Bool.or_eq_true]
    rw [← asserts, Bool.or_eq_true]
  · exact (congrArg (fun x : State => { x with flt := s.flt, regs := s.regs, egress := s.egress, cway := s.cway })
      (s.makeRecord_recorded _).frame)

end Sys2Proof.Machine

/-! The watchdog (O14): what an expiry and the end of a restart do. -/

namespace Sys2Proof.Machine

/-- An expiry restarts the Purser: the unit is SOLO or in no pair, and the one before is none or more than 10 s ago (R548). -/
theorem State.wdogRestarts_eq_true {s : State} : s.wdogRestarts = true ↔
    (s.paired = false ∨ s.cway.role = .solo) ∧ ∀ t, s.flt.wdogAt = some t → t + 15000000000 < s.now := by
  unfold State.wdogRestarts
  rw [Bool.and_eq_true, Bool.or_eq_true, Bool.not_eq_true', decide_eq_true_eq]
  refine and_congr_right fun _ => ?_
  cases s.flt.wdogAt with
  | none => simp
  | some t =>
    rw [show (∀ x, some t = some x → x + 15000000000 < s.now) ↔ t + 15000000000 < s.now by simp]
    exact decide_eq_true_iff

/-- The expiry counted, its time kept, and the Purser down. -/
def State.expired (s : State) : State :=
  { s with flt := { s.flt with expiries := satNat (s.flt.expiries + 1) 65535, wdogAt := some s.now }
           power := { s.power with purserUp := false } }

theorem State.wdogExpires_restarts {s : State} (restarts : s.wdogRestarts = true) :
    s.wdogExpires = { s.expired with flt := { s.expired.flt with restarting := true } }.abortCalibration := if_pos restarts

theorem State.wdogExpires_fatal {s : State} (fatal : ¬s.wdogRestarts = true) :
    s.wdogExpires = s.expired.raise (err 3 0x0F 0x02 0 s.expired.flt.expiries 0 0) := if_neg fatal

theorem exec_watchdogExpiry {s : State} (up : s.power.boot ≠ .inReset) (purser : s.power.purserUp = true) :
    exec .watchdogExpiry s = .next s.wdogExpires :=
  if_pos (by rw [State.running_eq_true up, purser]; rfl)

/-- Settles O14: by whether the expiry restarts the Purser; the end of a restart is the model's own step. -/
theorem watchdog : Obligations.Watchdog := by
  intro s down restarts
  refine ⟨fun up purser again => ?_, fun up purser fatal => ?_, fun waits => if_pos waits⟩
  · rw [exec_watchdogExpiry up purser, State.wdogExpires_restarts (State.wdogRestarts_eq_true.2 again)]
    rfl
  · rw [exec_watchdogExpiry up purser, State.wdogExpires_fatal (mt State.wdogRestarts_eq_true.1 fatal)]
    rfl

end Sys2Proof.Machine

/-! Booting (O12, O13): the firmware image, the boot configuration and the boot plate, boot_ready and the JTAG port. -/

namespace Sys2Proof.Machine

/-! ### The firmware image (R561 to R564) -/

theorem imageOk_eq_true {fuseMin : Nat} {x : BootImage} : imageOk fuseMin x = true ↔
    x.magic = 0x50F1AC01 ∧ x.length.toNat ≤ 1048576 ∧ fuseMin ≤ x.version.toNat ∧ x.signatureOk = true := by
  have magic : x.magic.toNat = 0x50F1AC01 ↔ x.magic = 0x50F1AC01 := by
    rw [← BitVec.toNat_inj]
    exact Iff.rfl
  simp only [imageOk, Bool.and_eq_true, decide_eq_true_eq, magic, and_assoc]

theorem bFirst_eq_true {mode : Nat} {a b : BootImage} : bFirst mode a b = true ↔ mode = 2 ∨ a.version.toNat < b.version.toNat := by
  simp only [bFirst, Bool.or_eq_true, decide_eq_true_eq]

section Images

variable {mode fuseMin : Nat} {a b : BootImage}

theorem chosenImage_none (badA : ¬imageOk fuseMin a = true) (badB : ¬imageOk fuseMin b = true) : chosenImage mode fuseMin a b = none := by
  cases first : bFirst mode a b <;> simp [chosenImage, first, badA, badB]

/-- The image tried first is valid. -/
theorem chosenImage_first (good : imageOk fuseMin (if bFirst mode a b then b else a) = true) :
    chosenImage mode fuseMin a b = some (bFirst mode a b) := if_pos good

/-- The image tried first is not valid, and the other is. -/
theorem chosenImage_second (bad : ¬imageOk fuseMin (if bFirst mode a b then b else a) = true)
    (good : imageOk fuseMin (if !bFirst mode a b then b else a) = true) :
    chosenImage mode fuseMin a b = some (!bFirst mode a b) := (if_neg bad).trans (if_pos good)

end Images

theorem exec_bootImageVerified {s : State} (rom : s.power.boot = .rom) (a b : BootImage) : exec (.bootImageVerified true a b) s =
    match chosenImage s.power.bootMode s.power.fuseMin a b with
    | none => .next (s.failBoot 2)
    | some isB => .next (s.runImage isB s.power.bootMode a b) :=
  if_pos rom

/-- Settles O12: by which image is tried first and which are valid. -/
theorem firmwareImageChosen : Obligations.FirmwareImageChosen := by
  intro a b s rom fails valid first ran
  have ok : ∀ x, imageOk s.power.fuseMin x = true ↔ valid x := fun x => imageOk_eq_true
  have order : bFirst s.power.bootMode a b = true ↔ first := bFirst_eq_true
  rw [exec_bootImageVerified rom a b]
  refine ⟨if_pos rom, fun badA badB => ?_, fun aFirst good => ?_, fun aFirst bad good => ?_, fun isFirst good => ?_, fun isFirst bad good => ?_⟩
  · rw [chosenImage_none (mt (ok a).1 badA) (mt (ok b).1 badB)]
    rfl
  · have isA : bFirst s.power.bootMode a b = false := Bool.eq_false_iff.2 (mt order.1 aFirst)
    rw [chosenImage_first (by rw [isA]; exact (ok a).2 good), isA]
    simp only [State.runImage, isA]
    rfl
  · have isA : bFirst s.power.bootMode a b = false := Bool.eq_false_iff.2 (mt order.1 aFirst)
    rw [chosenImage_second (by rw [isA]; exact mt (ok a).1 bad) (by rw [isA]; exact (ok b).2 good), isA]
    simp only [State.runImage, isA]
    rfl
  · have isB := order.2 isFirst
    rw [chosenImage_first (by rw [isB]; exact (ok b).2 good), isB]
    simp only [State.runImage, isB]
    rfl
  · have isB := order.2 isFirst
    rw [chosenImage_second (by rw [isB]; exact mt (ok b).1 bad) (by rw [isB]; exact (ok a).2 good), isB]
    simp only [State.runImage, isB]
    rfl

/-! ### Ports and registers alone change -/

/-- State `t` is `s` but for ports and words of PF BAR0. -/
structure State.PortsRegsOnly (s t : State) : Prop where
  frame : { t with ports := s.ports, regs := s.regs } = s

theorem State.PortsRegsOnly.refl (s : State) : s.PortsRegsOnly s := ⟨rfl⟩

theorem State.PortsRegsOnly.trans {s t u : State} (h : s.PortsRegsOnly t) (k : t.PortsRegsOnly u) : s.PortsRegsOnly u :=
  ⟨(congrArg (fun x : State => { x with ports := s.ports, regs := s.regs }) k.frame).trans h.frame⟩

theorem State.PortsRegsOnly.of_update (s : State) (ports : Tab Port) (regs : Tab Word) :
    s.PortsRegsOnly { s with ports := ports, regs := regs } := ⟨rfl⟩

theorem State.foldl_portsRegsOnly {α : Type} (l : List α) {f : State → α → State} (step : ∀ (t : State) x, t.PortsRegsOnly (f t x))
    (s : State) : s.PortsRegsOnly (l.foldl f s) :=
  List.foldlRecOn (motive := s.PortsRegsOnly) _ _ (.refl s) fun t h x _ => h.trans (step t x)

theorem State.forN_portsRegsOnly (n : Nat) {f : Nat → State → State} (step : ∀ p (t : State), t.PortsRegsOnly (f p t)) (s : State) :
    s.PortsRegsOnly (forN n f s) := State.foldl_portsRegsOnly _ (fun t p => step p t) s

theorem State.PortsRegsOnly.power {s t : State} (h : s.PortsRegsOnly t) : t.power = s.power := (congrArg State.power h.frame :)

theorem State.presetFfe_portsRegsOnly (s : State) (p : Nat) : s.PortsRegsOnly (s.presetFfe p) :=
  State.forN_portsRegsOnly 12 (fun l t => by
    dsimp only
    split
    · exact .refl t
    · exact .of_update t t.ports _) s

theorem State.trainBlocks_portsRegsOnly (s : State) (p : Nat) : s.PortsRegsOnly (s.trainBlocks p) :=
  State.foldl_portsRegsOnly _ (fun t _ => .of_update t _ t.regs) s

theorem State.modLink_portsRegsOnly (s : State) (p : Nat) (f : Link → Link) : s.PortsRegsOnly (s.modLink p f) := .of_update s _ s.regs

theorem State.startTraining_portsRegsOnly (s : State) (p : Nat) : s.PortsRegsOnly (s.startTraining p) :=
  ((((s.modLink_portsRegsOnly p _).trans (State.modLink_portsRegsOnly _ _ _)).trans (State.presetFfe_portsRegsOnly _ _)).trans
    (State.modLink_portsRegsOnly _ _ _)).trans (State.trainBlocks_portsRegsOnly _ _)

/-! ### The boot configuration and the boot plate (R565, R566) -/

theorem bootConfigOk_eq_true {bs : List Byte} : bootConfigOk bs = true ↔
    64 ≤ bs.length ∧ leAt bs 0 4 = 0x50BC0F01 ∧ leAt bs 4 4 = 1 ∧ leAt bs 60 4 = crc32c 0 (bs.take 60) := by
  simp only [bootConfigOk, Bool.and_eq_true, decide_eq_true_eq, and_assoc]

theorem State.beginPairing_power (s : State) : s.beginPairing.power = s.power := by
  let u : State := { s with cway := { s.cway with helloBy := some (s.power.releasedAt + msTicks 500), linkPhase := 1 } }
  have trains : u.PortsRegsOnly s.beginPairing := State.forN_portsRegsOnly 4 (fun p t => by
    split
    · exact t.startTraining_portsRegsOnly p
    · exact .refl t) u
  exact trains.power

theorem State.configure_power (s : State) (bs : List Byte) : (s.configure bs).power =
    { s.power with boot := .configured, bootConfig := bs.take 64, bootPorts := leAt bs 9 1 % 16 } := by
  unfold State.configure
  extract_lets ports taken dram rated trained
  have words : dram.PortsRegsOnly rated := State.forN_portsRegsOnly 4 (fun p t => .of_update t t.ports _) dram
  have links : rated.PortsRegsOnly trained := State.foldl_portsRegsOnly _ (fun t p => t.startTraining_portsRegsOnly p) rated
  have kept : trained.power = dram.power := (words.trans links).power
  split
  · exact trained.beginPairing_power.trans kept
  · exact kept

theorem exec_bootPlateDecoded {s : State} (configured : s.power.boot = .configured) (mode : s.power.bootMode = 0)
    (first : s.power.plateTried = false) (stream : List Byte) :
    exec (.bootPlateDecoded stream) s = .next (s.plateDecoded stream) :=
  if_pos ⟨configured, mode, first ▸ Bool.false_ne_true⟩

/-! ### What a FATAL record leaves alone -/

/-- State `t` is `s` but for what the raising of a record may change: the error block, and, as the device enters the fatal state, the DRAM
channels, the role with its rings, and the ports' leases. -/
structure State.Raising (s t : State) : Prop where
  frame : { t with flt := s.flt, chans := s.chans, cway := s.cway, rings := s.rings, ports := s.ports } = s

theorem State.Raising.refl (s : State) : s.Raising s := ⟨rfl⟩

theorem State.Raising.trans {s t u : State} (h : s.Raising t) (k : t.Raising u) : s.Raising u :=
  ⟨(congrArg (fun x : State => { x with flt := s.flt, chans := s.chans, cway := s.cway, rings := s.rings, ports := s.ports })
    k.frame).trans h.frame⟩

theorem State.enterFatal_raising (s : State) : s.Raising s.enterFatal := by
  let u : State := { s with flt := { s.flt with fatalHold := true, pin := true }
                            chans := tabMap (fun _ c => c.toSelfRefresh s.now) s.chans }
  have entered : s.enterFatal = if s.flt.fatalHold then s else if s.paired then u.enterFailed else u := rfl
  rw [entered]
  split
  · exact .refl s
  · split
    · obtain ⟨rings, raised, ports, failed⟩ := u.enterFailed_eq
      rw [failed]
      exact ⟨rfl⟩
    · exact ⟨rfl⟩

theorem State.raise_raising (s : State) (e : ErrRec) : s.Raising (s.raise e) := by
  unfold State.raise
  extract_lets t
  have kept : s.Raising t := ⟨rfl⟩
  split
  · exact kept.trans t.enterFatal_raising
  · exact kept

theorem State.Raising.power {s t : State} (h : s.Raising t) : t.power = s.power := (congrArg State.power h.frame :)

/-! ### boot_ready (R449, R506, R562, R569) -/

/-- boot_ready and the fuses once one of the two ends is noted (R562, R569). -/
theorem State.bootReadyCheck_power {s : State} {other : Bool} (both : (s.power.dramDone && s.power.storeDone) = other) :
    s.bootReadyCheck.power.dramDone = s.power.dramDone ∧ s.bootReadyCheck.power.storeDone = s.power.storeDone ∧
    s.bootReadyCheck.power.bootReady = (s.power.bootReady || other) ∧
    s.bootReadyCheck.power.fuseMin = (if other ∧ ¬s.power.bootReady ∧ s.power.commitVersion then max s.power.fuseMin s.power.fwVersion
      else s.power.fuseMin) := by
  unfold State.bootReadyCheck
  rw [both]
  cases other with
  | false => simp
  | true =>
    cases ready : s.power.bootReady with
    | true => simp [ready]
    | false => simp [State.modPower]

theorem State.bootReadyCheck_dramReady (s : State) : s.bootReadyCheck.dramReady = s.dramReady := by
  unfold State.bootReadyCheck
  split
  · rfl
  · rfl

theorem State.lostChan_power (s : State) (c : Nat) : (s.lostChan c).power = s.power := by
  unfold State.lostChan
  dsimp only
  split
  · exact (State.raise_raising _ _).power
  · rfl

/-- Channel `c` is put in service or retired, where the device has it (R449). -/
def State.serveChan (there working c : Nat) (s : State) : State :=
  if there / 2 ^ c % 2 = 0 then s else if working / 2 ^ c % 2 = 1 then s.openChan c else s.lostChan c

theorem State.serveChan_power (there working c : Nat) (s : State) : (s.serveChan there working c).power = s.power := by
  unfold State.serveChan
  split
  · rfl
  · split
    · rfl
    · exact s.lostChan_power c

/-- The end of training is noted with the capacity of `n` channels; a device in the fatal state keeps them in self-refresh (R449, R549). -/
def State.noteTraining (s : State) (n : Nat) : State :=
  let sleep := fun (_ : Nat) (c : Chan) => if s.flt.fatalHold then c.toSelfRefresh s.now else c
  let s := { s with harb := { s.harb with capacity := n * s.chanTiles }, dramReady := true, chans := tabMap sleep s.chans }
  (s.setBit 0xA000 24).modPower fun w => { w with dramDone := true }

theorem State.noteTraining_power (s : State) (n : Nat) : (s.noteTraining n).power = { s.power with dramDone := true } :=
  congrArg (fun w : Power => { w with dramDone := true }) (State.setBit_power _ 0xA000 24)

theorem State.noteTraining_dramReady (s : State) (n : Nat) : (s.noteTraining n).dramReady = true := rfl

/-- The channels that training has left in service are opened, the others retired (R449). -/
def State.serveChans (s : State) (working : Nat) : State := forN 16 (State.serveChan (s.field 0xA000 15 0) working) s

theorem State.serveChans_power (s : State) (working : Nat) : (s.serveChans working).power = s.power :=
  List.foldlRecOn (motive := fun t : State => t.power = s.power) _ _ rfl fun t h c _ => (t.serveChan_power _ working c).trans h

/-- The end of training is noted, the channels served, before boot_ready is looked at (R449). -/
theorem State.trained_eq (s : State) (working : Nat) : s.trained working = ((s.serveChans working).noteTraining
    ((List.range 16).filter fun c => (s.field 0xA000 15 0 &&& working) / 2 ^ c % 2 = 1).length).bootReadyCheck := rfl

theorem State.trained_ends (s : State) (working : Nat) : ∃ t : State, s.trained working = t.bootReadyCheck ∧ t.dramReady = true ∧
    t.power = { s.power with dramDone := true } :=
  ⟨_, s.trained_eq working, State.noteTraining_dramReady _ _,
    (State.noteTraining_power _ _).trans (congrArg (fun w : Power => { w with dramDone := true }) (s.serveChans_power working))⟩

theorem State.readStore_power (s : State) : s.readStore.power = s.power := by
  unfold State.readStore
  split
  · extract_lets d t
    split
    · exact (t.raise_raising _).power
    · rfl
  · exact (State.raise_raising _ _).power

theorem exec_dramTrainingDone {s : State} (configured : s.power.boot = .configured) (first : s.power.dramDone = false)
    (working : BitVec 16) : exec (.dramTrainingDone working) s = .next (s.trained working.toNat) :=
  if_pos ⟨configured, first ▸ Bool.false_ne_true⟩

theorem exec_storeReadDone {s : State} (configured : s.power.boot = .configured) (first : s.power.storeDone = false) :
    exec .storeReadDone s = .next (s.readStore.modPower fun w => { w with storeDone := true }).bootReadyCheck :=
  if_pos ⟨configured, first ▸ Bool.false_ne_true⟩

/-! ### The statement -/

/-- Settles O13: each command of the boot in turn; the two ends that boot_ready waits for share its check. -/
theorem bootConfigurationAndReady : Obligations.BootConfigurationAndReady := by
  refine ⟨fun s => ⟨fun firmware record => ?_, fun configured mode first stream => ?_⟩, fun s => ⟨fun configured first working => ?_,
    fun configured first => ?_, fun up rom => ?_, fun locked => ?_, ?_⟩⟩
  · intro ok
    have valid : bootConfigOk record = true ↔ ok := bootConfigOk_eq_true
    have ran : exec (.bootConfigRead record) s = if bootConfigOk record then .next (s.configure record) else .next (s.failBoot 3) :=
      if_pos firmware
    refine ⟨fun bad => ?_, fun good => ⟨_, ran.trans (if_pos (valid.2 good)), s.configure_power record⟩⟩
    exact ran.trans (if_neg (mt valid.1 bad))
  · intro tried
    rw [exec_bootPlateDecoded configured mode first stream]
    refine ⟨fun none => ?_, fun plate tooBig => ?_, fun plate fits u decoded => ?_⟩
    · simp only [State.plateDecoded, none, Bool.not_false, if_true]
      rfl
    · simp only [State.plateDecoded, plate, tooBig, Bool.not_true, Bool.not_false, Bool.false_eq_true, if_false, if_true]
      rfl
    · have shown : (s.modPower fun w => { w with plateTried := true }).decodePlate stream = some u := decoded
      simp only [State.plateDecoded, plate, fits, Bool.not_true, Bool.false_eq_true, if_false, shown]
  · obtain ⟨t, ends, ready, power⟩ := s.trained_ends working.toNat
    obtain ⟨dram, -, boot, fuses⟩ := State.bootReadyCheck_power (s := t) (other := s.power.storeDone) (by rw [power]; rfl)
    rw [power] at dram boot fuses
    refine ⟨_, exec_dramTrainingDone configured first working, ?_⟩
    rw [ends]
    exact ⟨t.bootReadyCheck_dramReady.trans ready, dram, boot, fuses⟩
  · have power : (s.readStore.modPower fun w => { w with storeDone := true }).power = { s.power with storeDone := true } :=
      congrArg (fun w : Power => { w with storeDone := true }) s.readStore_power
    obtain ⟨-, store, boot, fuses⟩ := State.bootReadyCheck_power (s := s.readStore.modPower fun w => { w with storeDone := true })
      (other := s.power.dramDone) (by rw [power]; exact Bool.and_true _)
    rw [power] at store boot fuses
    exact ⟨_, exec_storeReadDone configured first, store, boot, fuses⟩
  · exact if_pos ⟨State.running_eq_true up, rom, rfl⟩
  · refine if_neg fun ⟨up, rom, _⟩ => ?_
    obtain isRom | held := locked
    · exact rom isRom
    · exact of_decide_eq_true up held
  · exact if_neg fun ⟨_, _, signed⟩ => Bool.false_ne_true signed

end Sys2Proof.Machine

/-! The heartbeat (O56): what the statement says of a lost one fails where a register stands twice in the table of registers. -/

namespace Sys2Proof.Machine

/-! ### Waking lanes changes links only (R372) -/

theorem State.trainBlocks_linksOnly (s : State) (p : Nat) : s.LinksOnly (s.trainBlocks p) :=
  List.foldlRecOn (motive := s.LinksOnly) _ _ (.refl s) fun t h x _ => h.trans (t.transmit_linkMoved p (.trainBlock x)).linksOnly

theorem State.wake_linksOnly (s : State) (p : Nat) : s.LinksOnly (s.wake p) :=
  (s.modLink_linkMoved p _).linksOnly.trans (State.trainBlocks_linksOnly _ p)

theorem State.wakeRunning_linksOnly (s : State) : s.LinksOnly s.wakeRunning :=
  State.forN_linksOnly (fun p t => by
    dsimp only
    split
    · exact t.wake_linksOnly p
    · exact .refl t) 4 s

/-! ### A takeover's registers -/

theorem State.forN_modRing_regs (f : Nat → Ring → Ring) (n : Nat) (s : State) : (forN n (fun r s => s.modRing r (f r)) s).regs = s.regs :=
  List.foldlRecOn (motive := fun t : State => t.regs = s.regs) _ _ rfl fun _ same _ _ => same

/-- With nothing replayed, nothing is discarded (R530 step 2). -/
theorem State.discardReplays_none {s : State} (noReplay : s.cway.replays = []) (noItem : s.cway.applyQ = []) :
    s.discardReplays.cway.applyQ = [] ∧ s.discardReplays.regs = s.regs := by
  rw [State.discardReplays, noReplay]
  exact ⟨congrArg (List.filter _) noItem, rfl⟩

theorem State.takeRole_regs (s : State) (r : Role) : (s.takeRole r).regs = s.regs := by
  obtain ⟨_, _, role⟩ := s.takeRole_eq r
  rw [role]

theorem State.LinksOnly.regs {s t : State} (h : s.LinksOnly t) : t.regs = s.regs := by rw [h.eq]

theorem State.raiseCore_regs (s : State) (force : Bool) (e : ErrRec) : (s.raiseCore force e).regs = s.regs := rfl

/-- With nothing replayed and nothing waiting, a takeover writes 0x7014, 0x7018 and 0x701C (R530). -/
theorem State.takeover_regs (s : State) (cause : Nat) (noReplay : s.cway.replays = []) (noItem : s.cway.applyQ = []) :
    ∃ gap, (s.takeover cause).regs = (((s.setReg 0x7014 s.cway.applied).count 0x701C 15 0 1).setReg 0x7018 (gap % 65536 * 65536 + cause)).regs := by
  unfold State.takeover
  extract_lets last written told bare forced quiet marked
  obtain ⟨noneWaits, discarded⟩ := State.discardReplays_none (s := told) noReplay noItem
  have items : forced = bare := congrArg (List.foldl (fun (u : State) a => u.forceItem a) bare) noneWaits
  have rings : marked.regs = quiet.regs := State.forN_modRing_regs _ 128 quiet
  have unforced : quiet.regs = told.regs := (congrArg State.regs items).trans discarded
  refine ⟨Config.takeoverGap (written.field 0x701C 15 0), ?_⟩
  rw [State.raise_of_mild _ (by simp [err]), State.raiseCore_regs, State.takeRole_regs, marked.wakeRunning_linksOnly.regs, rings, unforced]

/-! ### The counterexample -/

/-- A mirrored standby that has applied nothing and whose heartbeat is overdue, with two entries for the register 0x7014 (R530): the
statement does not ask for a canonical state, and writing the reset value removes the first entry alone. -/
def doubledTakeover : State := { State.reset with
  now := msTicks 1
  regs := [(0x7014, 1#32), (0x7014, 1#32)]
  cway := { Cway.reset with role := .mirrored, heartbeat := true, peerEdge := some 0 } }

/-- The second entry is left, and read. -/
theorem doubledTakeover_applied : ((doubledTakeover.setReg 0x7014 0).count 0x701C 15 0 1).reg 0x7014 = 1 := by decide

theorem exec_heartbeatLost_doubledTakeover : exec .heartbeatLost doubledTakeover =
    .next ((doubledTakeover.modCway fun c => { c with heartbeat := false }).takeover 1) := rfl

/-- Refutes O56: a takeover with the applied point 0 leaves 0x7014 at 1 where the table of registers holds that register twice. -/
theorem not_heartbeatAndTimers : ¬ Obligations.HeartbeatAndTimers := by
  unfold Obligations.HeartbeatAndTimers
  intro h
  obtain ⟨-, -, lost, -⟩ := h doubledTakeover
  obtain ⟨-, -, mirrored⟩ := lost rfl (by decide)
  obtain ⟨t, step, -, written⟩ := mirrored rfl
  obtain ⟨applied, -⟩ := written rfl rfl
  obtain ⟨gap, regs⟩ := (doubledTakeover.modCway fun c => { c with heartbeat := false }).takeover_regs 1 rfl rfl
  cases exec_heartbeatLost_doubledTakeover.symm.trans step
  rw [State.reg_of_regs regs, State.reg_setReg_ne _ _ (by decide)] at applied
  exact absurd (doubledTakeover_applied.symm.trans applied) (by decide)

end Sys2Proof.Machine

/-! The ends of resets: their releases, PERST_N, the Function Level Resets and the host link coming up (O11). -/

namespace Sys2Proof.Machine

/-! ### Descriptors that are discarded or fail (R119, R558) -/

/-- State `t` is `s` but for what the end of descriptors changes, and no ring that was disabled runs. -/
structure State.Discards (s t : State) : Prop where
  frame : ∃ regs cway objs ports rings harb ledger egress, t =
    { s with regs := regs, cway := cway, objs := objs, ports := ports, rings := rings, harb := harb, ledger := ledger, egress := egress }
  off : ∀ r, (s.ring r).state = .disabled → (t.ring r).state = .disabled

theorem State.Discards.refl (s : State) : s.Discards s := ⟨⟨_, _, _, _, _, _, _, _, rfl⟩, fun _ off => off⟩

theorem State.Discards.trans {s t u : State} (h : s.Discards t) (k : t.Discards u) : s.Discards u := by
  obtain ⟨⟨_, _, _, _, _, _, _, _, rfl⟩, off⟩ := h
  obtain ⟨⟨_, _, _, _, _, _, _, _, rfl⟩, still⟩ := k
  exact ⟨⟨_, _, _, _, _, _, _, _, rfl⟩, fun r dark => still r (off r dark)⟩

theorem State.Discards.power {s t : State} (h : s.Discards t) : t.power = s.power := by
  obtain ⟨⟨_, _, _, _, _, _, _, _, rfl⟩, -⟩ := h
  rfl

theorem State.Discards.foldl {α : Type} {f : State → α → State} (step : ∀ (t : State) x, t.Discards (f t x)) (l : List α) (s : State) :
    s.Discards (l.foldl f s) :=
  List.foldlRecOn (motive := s.Discards) l f (.refl s) fun t h x _ => h.trans (step t x)

theorem State.Logged.discards {s t : State} (h : s.Logged t) : s.Discards t := by
  obtain ⟨_, _, rfl⟩ := h
  exact ⟨⟨_, _, _, _, _, _, _, _, rfl⟩, fun _ off => off⟩

theorem State.drained_discards (s : State) (r : Nat) : s.Discards (s.drained r) := by
  unfold State.drained
  split
  · refine ⟨⟨_, _, _, _, _, _, _, _, rfl⟩, fun q off => ?_⟩
    by_cases here : q = r
    · rw [here, State.ring_modRing]
    · rwa [State.ring_modRing_ne _ _ here]
  · exact .refl s

theorem State.spoilVersions_discards (s : State) (e : Entry) (status : Nat) : s.Discards (s.spoilVersions e status) := by
  unfold State.spoilVersions
  split
  · obtain ⟨_, frame⟩ := s.foldl_modObj_eq e.versions fun v o =>
      if (o.version v.2).isSome then o else o.addVersion (o.newVersion v.2 false o.content [] [])
    rw [frame]
    exact ⟨⟨_, _, _, _, _, _, _, _, rfl⟩, fun _ off => off⟩
  · exact .refl s

theorem State.writeCpl_discards (s : State) (d : Desc) (signal : Bool) (status detail ns r0 r1 : Nat) :
    s.Discards (s.writeCpl d signal status detail ns r0 r1) := by
  unfold State.writeCpl
  extract_lets t
  split
  · exact .refl s
  · split <;> exact ⟨⟨_, _, _, _, _, _, _, _, rfl⟩, fun _ off => off⟩

theorem State.sweep_discards (s : State) : s.Discards s.sweep := ⟨⟨_, _, _, _, _, _, _, _, rfl⟩, fun _ off => off⟩

theorem State.dropEntry_discards (s : State) (id : Nat) : s.Discards (s.dropEntry id) := ⟨⟨_, _, _, _, _, _, _, _, rfl⟩, fun _ off => off⟩

theorem State.refreshCommits_discards (s : State) : s.Discards s.refreshCommits := ⟨⟨_, _, _, _, _, _, _, _, rfl⟩, fun _ off => off⟩

/-- Whatever its entry, the end of a descriptor is within these bounds. -/
theorem State.finishAt_discards (s : State) (id ns : Nat) (signal : Bool) (f : Fail) (r0 r1 : Nat) :
    s.Discards (s.finishAt id ns signal f r0 r1) := by
  unfold State.finishAt
  split
  · exact .refl s
  · next e _ =>
    extract_lets told dropped marked
    have saw : s.Discards told := by
      unfold told
      split
      · exact ⟨⟨_, _, _, _, _, _, _, _, rfl⟩, fun _ off => off⟩
      · split
        · exact .refl s
        · exact (s.writeCpl_discards _ _ _ _ _ _ _).trans (State.logRecord_logged _ _ _ _ _ _).discards
    have left : s.Discards dropped := (saw.trans (told.spoilVersions_discards e f.1)).trans (State.dropEntry_discards _ id)
    have noted : dropped.Discards marked := ⟨⟨_, _, _, _, _, _, _, _, rfl⟩, fun _ off => off⟩
    exact (((left.trans noted).trans marked.refreshCommits_discards).trans (State.drained_discards _ _)).trans (State.sweep_discards _)

/-- New ports end no ring. -/
theorem State.ports_discards (s : State) (ports : Tab Port) : s.Discards { s with ports := ports } :=
  ⟨⟨_, _, _, _, _, _, _, _, rfl⟩, fun _ off => off⟩

theorem State.failBound_discards (s : State) (p id : Nat) : s.Discards (s.failBound p id) := by
  unfold State.failBound
  extract_lets hit ids t
  exact State.Discards.trans (t := t) (s.ports_discards _) (.foldl (fun u i => u.finishAt_discards i _ _ _ _ _) ids t)

theorem State.unqueue_discards (s : State) (id : Nat) : s.Discards (s.unqueue id) := by
  unfold State.unqueue
  extract_lets t keep strip
  have failed : s.Discards t := .foldl (fun u p => by
    dsimp only
    split
    · exact State.Discards.trans (t := u.dropCommit p id) (u.ports_discards _) (State.failBound_discards _ p id)
    · exact .refl u) _ s
  exact failed.trans (t.ports_discards _)

theorem State.unqueue_drop_discards (s : State) (id : Nat) : s.Discards ((s.unqueue id).dropEntry id) :=
  (s.unqueue_discards id).trans (State.dropEntry_discards _ id)

theorem State.discard_discards (s : State) (hit : Entry → Bool) (silent : Bool) : s.Discards (s.discard hit silent) := by
  unfold State.discard
  extract_lets own mute t
  have muted : s.Discards t := ⟨⟨_, _, _, _, _, _, _, _, rfl⟩, fun _ off => off⟩
  have dropped := State.Discards.foldl (fun (u : State) (e : Entry) => u.unqueue_drop_discards e.id) (t.ledger.filter fun e => own e && !e.started) t
  exact (muted.trans dropped).trans (State.refreshCommits_discards _)

/-! ### VF_FUNCTION_LEVEL_RESET (R119) -/

/-- The rings of a function are disabled, and its PCIe records are dropped. -/
def State.vfSilenced (s : State) (f : Nat) : State :=
  State.dropFunction { s with rings := tabMap (fun r x => if ringFn r = f then x.disabled else x) s.rings
                              ports := tabMap (fun _ q => q.forget f) s.ports } f

theorem State.vfSilenced_off (s : State) {f r : Nat} (own : r / 8 = f) : ((s.vfSilenced f).ring r).state = .disabled := by
  have read : (s.vfSilenced f).ring r = ((tabFind s.rings r).map fun x => if ringFn r = f then x.disabled else x).getD Ring.reset :=
    congrArg (Option.getD · Ring.reset) (tabFind_map _ s.rings r)
  rw [read]
  cases tabFind s.rings r with
  | none => rfl
  | some x => rw [Option.map_some, if_pos (show ringFn r = f from own)]; rfl

theorem State.vfReset_eq (s : State) (f : Nat) : s.vfReset f =
    (((s.vfSilenced f).discard (fun e => decide (e.fn = f)) false).freeObjects fun o => decide (handleFn o.handle = f)).closeStreams
      fun c => decide (c.fn = f) := rfl

/-- Freeing objects and closing streams touches no ring and no power. -/
theorem State.freeObjects_closeStreams (s : State) (hit : Obj → Bool) (closes : Ctx → Bool) :
    ((s.freeObjects hit).closeStreams closes).power = s.power ∧ ((s.freeObjects hit).closeStreams closes).rings = s.rings ∧
      ((s.freeObjects hit).closeStreams closes).flt = s.flt := ⟨rfl, rfl, rfl⟩

theorem State.vfReset_off (s : State) (f : Nat) : (s.vfReset f).power = s.power ∧ ∀ r, r / 8 = f → ((s.vfReset f).ring r).state = .disabled := by
  have ended := (s.vfSilenced f).discard_discards (fun e => decide (e.fn = f)) false
  rw [State.vfReset_eq]
  exact ⟨ended.power, fun r own => ended.off r (s.vfSilenced_off own)⟩

/-! ### PERST_N and the PF's Function Level Reset (R556 to R559) -/

/-- Power, rings and the error block are as they were. -/
structure State.Spares (s t : State) : Prop where
  power : t.power = s.power
  rings : t.rings = s.rings
  flt   : t.flt = s.flt

theorem State.Spares.refl (s : State) : s.Spares s := ⟨rfl, rfl, rfl⟩

theorem State.Spares.trans {s t u : State} (h : s.Spares t) (k : t.Spares u) : s.Spares u :=
  ⟨k.power.trans h.power, k.rings.trans h.rings, k.flt.trans h.flt⟩

theorem State.Spares.forN {f : Nat → State → State} (step : ∀ p (t : State), t.Spares (f p t)) (n : Nat) (s : State) :
    s.Spares (forN n f s) :=
  List.foldlRecOn (motive := s.Spares) _ _ (.refl s) fun t h p _ => h.trans (step p t)

theorem State.Logged.spares {s t : State} (h : s.Logged t) : s.Spares t := by
  obtain ⟨_, _, rfl⟩ := h
  exact ⟨rfl, rfl, rfl⟩

theorem State.sendBreak_logged (s : State) : s.Logged s.sendBreak := by
  unfold State.sendBreak
  split
  · exact State.Logged.trans (t := s.modCway fun c => { c with breakDue := false }) ⟨_, _, rfl⟩ (State.cwaySend_logged _ _ _ _ _ _)
  · exact .refl s

theorem State.newOwner_spares (s : State) (old p : Nat) : s.Spares (s.newOwner old p) := by
  unfold State.newOwner
  split
  · exact .refl s
  · exact ⟨rfl, rfl, rfl⟩

/-- No flat capture of port `p` is shown as running. -/
def State.captureEnded (p : Nat) (s : State) : State := s.setField (0x310C + 0x40 * p) 0 0 0

theorem State.captureEnded_spares (p : Nat) (s : State) : s.Spares (s.captureEnded p) := ⟨rfl, rfl, rfl⟩

theorem State.stopCaptures_spares (s : State) : s.Spares s.stopCaptures := by
  unfold State.stopCaptures
  extract_lets cut edge t
  exact State.Spares.trans (t := t) ⟨rfl, rfl, rfl⟩ (.forN State.captureEnded_spares 4 t)

theorem State.clearHostSide_spares (s : State) : s.Spares s.clearHostSide := by
  unfold State.clearHostSide
  extract_lets clear t
  have stopped : s.Spares t.stopCaptures := State.Spares.trans (t := t) ⟨rfl, rfl, rfl⟩ t.stopCaptures_spares
  obtain ⟨power, rings, flt⟩ := t.stopCaptures.freeObjects_closeStreams (fun o => decide (handleIndex o.handle ≠ 0)) fun _ => true
  exact stopped.trans ⟨power, rings, flt⟩

/-- The registers of the host's blocks are reset; PERST_N clears SETUP_LOCK (R556). -/
theorem State.resetHostRegs_spares (s : State) (perst : Bool) : ∃ t : State, t.Spares (s.resetHostRegs perst) ∧ t.rings = s.rings ∧
    t.flt.written = 0 ∧ t.power = if perst then { s.power with setupLock := false } else s.power := by
  cases perst with
  | true => exact ⟨_, .forN (fun p t => t.newOwner_spares (s.reg 0x44) p) 4 _, rfl, rfl, rfl⟩
  | false => exact ⟨_, .forN (fun p t => t.newOwner_spares (s.reg 0x44) p) 4 _, rfl, rfl, rfl⟩

/-- What a host reset does once its descriptors are gone and its rings are reset. -/
def State.hostReleased (s : State) (perst : Bool) : State :=
  let t := (s.resetHostRegs perst).resetPcie (!perst)
  let u : State := if t.mirrors then t else t.clearHostSide
  if u.cway.role = .active then u.breakLog.sendBreak else u

theorem State.hostReleased_spares (s : State) (perst : Bool) : (s.hostReleased perst).rings = s.rings ∧
    (s.hostReleased perst).flt.written = 0 ∧
    (s.hostReleased perst).power = if perst then { s.power with setupLock := false } else s.power := by
  obtain ⟨t, spared, rings, written, power⟩ := s.resetHostRegs_spares perst
  unfold State.hostReleased
  extract_lets reset cleared
  have toReset : t.Spares reset := spared.trans ⟨rfl, rfl, rfl⟩
  have toCleared : t.Spares cleared := by
    unfold cleared
    split
    · exact toReset
    · exact toReset.trans reset.clearHostSide_spares
  have toEnd : t.Spares (if cleared.cway.role = .active then cleared.breakLog.sendBreak else cleared) := by
    split
    · exact toCleared.trans (cleared.breakLog_logged.trans (State.sendBreak_logged _)).spares
    · exact toCleared
  exact ⟨toEnd.rings.trans rings, (congrArg Flt.written toEnd.flt).trans written, toEnd.power.trans power⟩

/-- The descriptors of the host that a host reset discards. -/
def State.hostDiscarded (s : State) : State :=
  (s.waitingTables.filter fun id => ((s.entry id).map fun e => !e.mirrored).getD true).foldl
    (fun t id => (t.unqueue id).dropEntry id) (s.discard (fun _ => true) true)

theorem State.hostDiscarded_discards (s : State) : s.Discards s.hostDiscarded :=
  (s.discard_discards _ _).trans (.foldl (fun t id => t.unqueue_drop_discards id) _ _)

theorem State.hostReset_eq (s : State) (perst : Bool) :
    s.hostReset perst = State.hostReleased { s.hostDiscarded with rings := [], pollAt := none } perst := rfl

/-- Every ring is reset, and no fault record is counted as written any more (R556, R558). -/
theorem State.hostReset_clears (s : State) (perst : Bool) : (s.hostReset perst).rings = [] ∧ (s.hostReset perst).flt.written = 0 ∧
    (s.hostReset perst).power = if perst then { s.power with setupLock := false } else s.power := by
  obtain ⟨rings, written, power⟩ := State.hostReleased_spares { s.hostDiscarded with rings := [], pollAt := none } perst
  rw [State.hostReset_eq]
  exact ⟨rings, written, power.trans (by rw [show _ = s.power from s.hostDiscarded_discards.power])⟩

/-! ### The host link comes up (R473, R568) -/

/-- The first `n` inputs of TIDE_CAP have sent what waited, in their order. -/
structure State.CapsDrained (s : State) (n : Nat) (t : State) : Prop where
  drained : ∀ k, k < n → t.cap k = { s.cap k with buffered := [] }
  others  : ∀ k, n ≤ k → t.cap k = s.cap k
  sent    : t.egress = s.egress ++ (List.range n).flatMap fun k => (s.cap k).buffered.map fun b => .data 0 b.1 b.2 0
  frame   : { t with tcaps := s.tcaps, egress := s.egress } = s

theorem State.CapsDrained.next {s t : State} {n : Nat} (up : s.power.linkUp = true) (h : s.CapsDrained n t) :
    s.CapsDrained (n + 1) (t.drainCap n) := by
  have link : t.power = s.power := (congrArg State.power h.frame :)
  rw [State.drainCap_up (link ▸ up), h.others n (Nat.le_refl n)]
  refine ⟨fun k below => ?_, fun k above => ?_, ?_, h.frame⟩
  · by_cases last : k = n
    · exact last ▸ State.cap_setCap t n _
    · exact (t.cap_setCap_ne _ last).trans (h.drained k (by omega))
  · exact (t.cap_setCap_ne _ (by omega)).trans (h.others k (by omega))
  · rw [h.sent, List.range_succ, List.flatMap_append, List.flatMap_singleton, List.append_assoc]

theorem State.forN_capsDrained {s : State} (up : s.power.linkUp = true) (n : Nat) :
    s.CapsDrained n (forN n (fun k t => t.drainCap k) s) := by
  induction n with
  | zero => exact ⟨nofun, fun _ _ => rfl, (List.append_nil _).symm, rfl⟩
  | succ n ih => exact forN_succ n _ s ▸ ih.next up

/-! ### The release of a full reset (R536, R555, R563) -/

/-- The power block at a release (R555, R563). -/
def Power.released (w : Power) (pref : Bool) (mode now : Nat) : Power :=
  { w with boot := if mode = 3 then .held else .rom, failure := if mode = 3 then 6 else 0, rolePref := pref
           bootMode := mode, bootState := true, releasedAt := now, safeEdge := some (periEdge now) }

theorem State.release_eq {s : State} (rails : s.power.railsLow = false) (pin : s.power.pwrLow = false) (cause : Nat) (pref : Bool)
    (mode : Nat) : s.release cause pref mode =
      ({ s with power := s.power.released pref mode s.now }.setBit 0x14 cause).setReg 0x7028 (if pref then 1 else 2) := by
  simp [State.release, rails, pin, State.modPower, Power.released]

/-- The cause is kept, CWAY_ID is the strap's, and nothing else changes with the power block (R536, R555). -/
theorem State.release_keeps {s : State} (sorted : tabSorted s.regs) (rails : s.power.railsLow = false) (pin : s.power.pwrLow = false)
    {cause : Nat} (low : cause < 32) (pref : Bool) (mode : Nat) :
    (s.release cause pref mode).power = s.power.released pref mode s.now ∧ (s.release cause pref mode).field 0x14 cause cause = 1 ∧
      (s.release cause pref mode).reg 0x7028 = (if pref then 1 else 2) ∧
      ∀ power, { s.release cause pref mode with power := power, regs := s.regs } = { s with power := power } := by
  rw [State.release_eq rails pin]
  let u : State := { s with power := s.power.released pref mode s.now }
  refine ⟨(State.setBit_power u 0x14 cause :), ?_, ?_, fun power => rfl⟩
  · rw [State.field, State.reg_setReg_ne _ _ (by decide)]
    exact State.field_setBit (s := u) sorted 0x14 low
  · rw [State.reg_setReg (s := u.setBit 0x14 cause) (tabSorted_set sorted _ _ _)]
    cases pref <;> rfl

theorem exec_pcieLinkUp {s : State} (runs : s.power.boot ≠ .inReset) (perst : s.power.perstLow = false) (down : s.power.linkUp = false) :
    exec .pcieLinkUp s = .next (forN 4 (fun n t => t.drainCap n) { s with power := { s.power with linkUp := true } }) :=
  if_pos (by simp [State.running, runs, perst, down])

theorem exec_perstNAssert {s : State} (runs : s.power.boot ≠ .inReset) (up : s.power.perstLow = false) : exec .perstNAssert s =
    .next (State.hostReset { s with power := { s.power with perstLow := true, linkUp := false } } true) := by
  change execPerstNAssert s = _
  have running : (s.modPower fun w => { w with perstLow := true, linkUp := false }).running = true := decide_eq_true runs
  rw [execPerstNAssert, if_neg (by simp [up])]
  exact congrArg Host.Outcome.next (if_pos running)

theorem exec_perstNRelease {s : State} (runs : s.power.boot ≠ .inReset) (down : s.power.perstLow = true) : exec .perstNRelease s =
    .next ({ s with power := { s.power with perstLow := false } }.setBit 0x14 2) := by
  change execPerstNRelease s = _
  have running : (s.modPower fun w => { w with perstLow := false }).running = true := decide_eq_true runs
  rw [execPerstNRelease, if_pos down]
  exact congrArg Host.Outcome.next (if_pos running)

theorem exec_pfFunctionLevelReset {s : State} (runs : s.power.boot ≠ .inReset) :
    exec .pfFunctionLevelReset s = .next ((s.hostReset false).setBit 0x14 3) := if_pos (decide_eq_true runs)

theorem exec_vfFunctionLevelReset {s : State} (runs : s.power.boot ≠ .inReset) {f : Fin 16} (virtual : f.val ≠ 0) :
    exec (.vfFunctionLevelReset f) s = .next (s.vfReset f) := if_pos (by simp [State.running, runs, virtual])

theorem exec_powerOnResetRelease {s : State} (rails : s.power.railsLow = true) (pref : Bool) (mode : Fin 4) :
    exec (.powerOnResetRelease pref mode) s = .next (State.release { s with power := { s.power with railsLow := false } } 0 pref mode) :=
  if_pos rails

theorem exec_pwrResetNRelease {s : State} (pin : s.power.pwrLow = true) (pref : Bool) (mode : Fin 4) :
    exec (.pwrResetNRelease pref mode) s = .next (State.release { s with power := { s.power with pwrLow := false } } 1 pref mode) :=
  if_pos pin

/-- Settles O11: the releases by the equation of `State.release`, the resets of the host's side by what each of their steps leaves as it
is, and the link coming up by induction on the inputs that drain. -/
theorem releasesAndHostResets : Obligations.ReleasesAndHostResets := by
  unfold Obligations.ReleasesAndHostResets
  refine ⟨fun pref mode s canon => ⟨fun rails pin => ?_, fun pin rails => ?_⟩, fun s runs => ⟨fun up => ?_, exec_perstNRelease runs, ?_,
    fun f virtual => ?_⟩, fun s runs perst down => ?_⟩
  · obtain ⟨power, cause, id, frame⟩ := State.release_keeps (s := { s with power := { s.power with railsLow := false } }) canon.regs.1 rfl pin
      (by decide : 0 < 32) pref mode
    exact ⟨_, exec_powerOnResetRelease rails pref mode, power, cause, id, frame s.power⟩
  · obtain ⟨power, cause, id, frame⟩ := State.release_keeps (s := { s with power := { s.power with pwrLow := false } }) canon.regs.1 rails rfl
      (by decide : 1 < 32) pref mode
    exact ⟨_, exec_pwrResetNRelease pin pref mode, power, cause, id, frame s.power⟩
  · obtain ⟨rings, written, power⟩ := State.hostReset_clears { s with power := { s.power with perstLow := true, linkUp := false } } true
    rw [if_pos rfl] at power
    exact ⟨_, exec_perstNAssert runs up, (congrArg Power.perstLow power :), (congrArg Power.linkUp power :),
      (congrArg Power.setupLock power :), rings, written⟩
  · obtain ⟨rings, written, power⟩ := s.hostReset_clears false
    exact ⟨_, exec_pfFunctionLevelReset runs, (State.setBit_power _ _ _).trans power, rings, written⟩
  · obtain ⟨power, off⟩ := s.vfReset_off f
    exact ⟨_, exec_vfFunctionLevelReset runs virtual, power, off⟩
  · have all := State.forN_capsDrained (s := { s with power := { s.power with linkUp := true } }) rfl 4
    exact ⟨_, exec_pcieLinkUp runs perst down, (congrArg State.power all.frame :), all.drained, all.sent,
      (congrArg (fun t : State => { t with power := s.power }) all.frame :)⟩

end Sys2Proof.Machine

/-! TALLY_JOB (O32): a job on the lowest idle unit, and its end. -/

namespace Sys2Proof.Machine

/-! ### Registers that a completion leaves as they are (R515) -/

theorem State.writeCpl_regs (s : State) (d : Desc) (signal : Bool) (status detail ns r0 r1 : Nat) :
    (s.writeCpl d signal status detail ns r0 r1).regs = s.regs := by
  unfold State.writeCpl
  extract_lets t
  split
  · rfl
  · split <;> rfl

theorem State.spoilVersions_regs (s : State) (e : Entry) (status : Nat) : (s.spoilVersions e status).regs = s.regs := by
  unfold State.spoilVersions
  split
  · obtain ⟨_, frame⟩ := s.foldl_modObj_eq e.versions fun v o =>
      if (o.version v.2).isSome then o else o.addVersion (o.newVersion v.2 false o.content [] [])
    rw [frame]
  · rfl

theorem State.drained_regs (s : State) (r : Nat) : (s.drained r).regs = s.regs := by
  unfold State.drained
  split <;> rfl

/-- A completion changes the registers of the log only. -/
theorem State.finishAt_reg (s : State) (id ns : Nat) (signal : Bool) (f : Fail) (r0 r1 : Nat) {off : Nat} (notLog : off ≠ 0x7008)
    (notBreaks : off ≠ 0x701C) : (s.finishAt id ns signal f r0 r1).reg off = s.reg off := by
  unfold State.finishAt
  split
  · rfl
  · next e _ =>
    extract_lets told dropped marked
    have saw : told.reg off = s.reg off := by
      unfold told
      split
      · rfl
      · split
        · rfl
        · exact (State.logRecord_reg _ _ _ _ _ _ notLog notBreaks).trans (State.reg_of_regs (s.writeCpl_regs _ _ _ _ _ _ _) off)
    have spoiled : dropped.reg off = told.reg off := State.reg_of_regs (told.spoilVersions_regs e f.1) off
    have drained : (marked.refreshCommits.drained e.desc.ring).reg off = dropped.reg off :=
      State.reg_of_regs (State.drained_regs marked.refreshCommits e.desc.ring) off
    exact (drained.trans spoiled).trans saw

/-! ### The start of a job that reads host memory (R425, R427, R429) -/

section Start

variable {s : State} {id k : Nat} {e : Entry}

theorem Desc.handles_hostTally {d : Desc} (op : d.opcode = opTallyJob) (host : d.w 4 = 0) : d.handles = [] := by
  simp [Desc.handles, op, opTallyJob, handleWords, host]

/-- What a job of host memory that has taken its unit asks for (R427). -/
def Entry.tallyAsks (e : Entry) : List Egress :=
  if e.desc.w 7 = 0 then [] else [.readRequest e.desc.fn (e.desc.addr 5) (e.desc.w 7) (.job e.id)]

theorem startTally_host (op : e.desc.opcode = opTallyJob) (host : e.desc.w 4 = 0) (s : State) : startTally e k s =
    { (s.setUnit k { busy := true, fn := e.fn, poly := e.desc.poly, run := e.desc.tallyStart }).start e.id (.tally k) with
      egress := s.egress ++ e.tallyAsks } := by
  have sound : s.lostFail e.desc = none := by
    rw [State.lostFail, Desc.handles_hostTally op host]
    exact ite_self _
  simp only [startTally, sound, host, if_true, Option.map_none, Option.getD_none, Entry.tallyAsks]
  by_cases empty : e.desc.w 7 = 0
  · simp only [empty, if_true, List.append_nil]
    rfl
  · simp only [empty, if_false]
    rfl

theorem State.entry_start (s : State) (id j : Nat) (job : Job) : (s.start id job).entry j =
    (s.entry j).map fun e => if e.id = id then { e with started := true, readyAt := some s.now, job := job } else e :=
  State.entry_modEntry (f := fun e => { e with started := true, readyAt := some s.now, job := job }) (fun _ => rfl) s id j

theorem exec_tallyJobStart (here : s.entry id = some e) (idle : s.idleUnit = some k) (ready : s.tallyReady e = true)
    (first : (s.before e).any s.tallyReady = false) : exec (.tallyJobStart id) s = .next (startTally e k s) := by
  change execTallyJobStart id s = _
  simp [execTallyJobStart, here, idle, ready, first]

end Start

/-! ### The end of a job (R425, R428, R432) -/

section End

variable {s : State} {id k : Nat} {e : Entry} {f : Fail} {r0 r1 : Nat}

/-- The fault record of a compare that fails (R428). -/
def Entry.tallyMismatch (e : Entry) (fin : Nat) : ErrRec := { err 0 0x0B 0x01 e.desc.ring e.desc.seq fin (e.desc.w 9) with fn := e.fn }

/-- The job counts, and a failed compare is counted and reported. -/
def State.tallyCounted (s : State) (e : Entry) (mism : Bool) (fin : Nat) : State :=
  let s := s.setReg 0xB004 ((s.reg 0xB004 + 1) % 2 ^ 32)
  let s := if mism then s.count 0xB008 15 0 1 else s
  if mism && !e.muted then s.raise (e.tallyMismatch fin) else s

theorem State.tallyFinish_eq (s : State) (e : Entry) (f : Fail) (r0 r1 : Nat) : s.tallyFinish e f r0 r1 =
    let mism := decide (f = (stCheckMismatch, det 1 0))
    (s.tallyCounted e mism r1).finishAt e.id (s.tallyCounted e mism r1).tideNs mism f r0 r1 := rfl

theorem State.tallyCounted_match (s : State) (e : Entry) (fin : Nat) :
    s.tallyCounted e false fin = s.setReg 0xB004 ((s.reg 0xB004 + 1) % 2 ^ 32) := rfl

theorem State.tallyCounted_mismatch (loud : e.muted = false) (s : State) (fin : Nat) : s.tallyCounted e true fin =
    ((s.setReg 0xB004 ((s.reg 0xB004 + 1) % 2 ^ 32)).count 0xB008 15 0 1).raiseCore false (e.tallyMismatch fin) := by
  rw [← State.raise_of_mild _ (by simp [Entry.tallyMismatch, err])]
  simp [State.tallyCounted, loud]

theorem State.tallyCounted_reg (sorted : tabSorted s.regs) (loud : e.muted = false) (mism : Bool) (fin : Nat) :
    (s.tallyCounted e mism fin).reg 0xB004 = (s.reg 0xB004 + 1) % 2 ^ 32 := by
  have counted : (s.setReg 0xB004 ((s.reg 0xB004 + 1) % 2 ^ 32)).reg 0xB004 = (s.reg 0xB004 + 1) % 2 ^ 32 := by
    rw [State.reg_setReg sorted, Nat.mod_mod]
  cases mism with
  | true => exact State.tallyCounted_mismatch loud s fin ▸ (State.reg_setReg_ne (off := 0xB008) _ _ (by decide)).trans counted
  | false => exact s.tallyCounted_match e fin ▸ counted

theorem State.tallyCounted_frame (loud : e.muted = false) (s : State) (mism : Bool) (fin : Nat) : ∃ regs,
    s.tallyCounted e mism fin = { s with regs := regs, flt := { s.flt with
      raised := s.flt.raised ++ if mism then [{ what := e.tallyMismatch fin, ns := s.tideNs, force := false }] else [] } } := by
  cases mism with
  | true => exact ⟨_, State.tallyCounted_mismatch loud s fin⟩
  | false => exact ⟨_, (s.tallyCounted_match e fin).trans (by rw [if_neg (by decide), List.append_nil]; rfl)⟩

/-- A poisoned read of an object fails with another detail than a failed compare. -/
theorem tallyOutcome_poisoned (d : Desc) (bs : List Byte) (fail : Option ReadFail) :
    (tallyOutcome d bs fail true).1 ≠ (stCheckMismatch, det 1 0) := by
  cases fail with
  | none => exact by simp [tallyOutcome, det]
  | some f => cases f <;> simp [tallyOutcome, timeoutOf, stCheckMismatch, stTimeout]

/-- The outcome of a job, as its end finds it. -/
def State.tallyResult (s : State) (e : Entry) (data : HostRead) (poisoned : Bool) : Fail × Nat × Nat :=
  tallyOutcome e.desc (s.tallyBytes e data) (if e.desc.w 4 = 0 then data.fail else none) (poisoned && decide (e.desc.w 4 ≠ 0))

/-- The state in which a job's completion is looked at: what a poisoned read brings, and the unit idle with its running value. -/
def State.tallyRead (s : State) (e : Entry) (k : Nat) (data : HostRead) (poisoned : Bool) : State :=
  let t := if poisoned ∧ e.desc.w 4 ≠ 0 then s.draw.noteUnreadable (s.tallyTiles e.desc) else s.draw
  t.setUnit k { t.unit k with busy := false, run := crcRun e.desc.poly e.desc.tallyStart (s.tallyBytes e data) }

theorem exec_tallyJobDone (here : s.entry id = some e) (job : e.job = .tally k) (data : HostRead) (poisoned : Bool) :
    exec (.tallyJobDone id data poisoned) s = .next ((s.tallyRead e k data poisoned).tallyFinish e (s.tallyResult e data poisoned).1
      (s.tallyResult e data poisoned).2.1 (s.tallyResult e data poisoned).2.2) := by
  change execTallyJobDone id data poisoned s = _
  unfold execTallyJobDone
  simp only [here, job]
  rfl

theorem State.draw_readNoted (s : State) : s.ReadNoted s.draw := ⟨_, _, _, _, rfl⟩

/-- The unit is idle with its running value; what else may have changed is what a poisoned read brings. -/
theorem State.tallyRead_frame (s : State) (e : Entry) (k : Nat) (data : HostRead) (poisoned : Bool) : ∃ t, s.ReadNoted t ∧
    s.tallyRead e k data poisoned =
      t.setUnit k { s.unit k with busy := false, run := crcRun e.desc.poly e.desc.tallyStart (s.tallyBytes e data) } ∧
    ((s.tallyResult e data poisoned).1 = (stCheckMismatch, det 1 0) → t.flt = s.flt) := by
  have units {t : State} (h : s.ReadNoted t) : t.unit k = s.unit k := by
    obtain ⟨_, _, _, _, rfl⟩ := h
    rfl
  by_cases bad : poisoned = true ∧ e.desc.w 4 ≠ 0
  · have noted := s.draw_readNoted.trans (s.draw.noteUnreadable_readNoted (s.tallyTiles e.desc))
    refine ⟨_, noted, ?_, fun mism => ?_⟩
    · simp only [State.tallyRead, if_pos bad, units noted]
    · refine absurd mism ?_
      rw [State.tallyResult, bad.1, decide_eq_true bad.2]
      exact tallyOutcome_poisoned _ _ _
  · exact ⟨_, s.draw_readNoted, by simp only [State.tallyRead, if_neg bad, units s.draw_readNoted], fun _ => rfl⟩

/-- The end of a job, its result left open (R428, R432). -/
theorem Completing.tallyFinish (own : Completing s e.id e) (sorted : tabSorted s.regs) (f : Fail) (r0 r1 : Nat) :
    Completed s (s.tallyFinish e f r0 r1) e (decide (f = (stCheckMismatch, det 1 0))) f r0 r1 ∧
      (s.tallyFinish e f r0 r1).units = s.units ∧ (s.tallyFinish e f r0 r1).reg 0xB004 = (s.reg 0xB004 + 1) % 2 ^ 32 ∧
      (f = (stCheckMismatch, det 1 0) → (s.tallyFinish e f r0 r1).flt.raised =
        s.flt.raised ++ [{ what := e.tallyMismatch r1, ns := s.tideNs, force := false }]) := by
  have finished := s.tallyFinish_eq e f r0 r1
  dsimp only at finished
  generalize same : decide (f = (stCheckMismatch, det 1 0)) = mism at finished ⊢
  obtain ⟨regs, counted⟩ := State.tallyCounted_frame own.loud s mism r1
  have word := State.tallyCounted_reg sorted own.loud mism r1
  generalize s.tallyCounted e mism r1 = w at counted word finished
  have still : Completing w e.id e := by
    subst counted
    exact ⟨own.here, own.loud, own.own, own.live⟩
  have reg := w.finishAt_reg e.id w.tideNs mism f r0 r1 (off := 0xB004) (by decide) (by decide)
  have steady := w.finishAt_steady e.id w.tideNs mism f r0 r1
  obtain ⟨_, _, _, _, _, _, left⟩ := State.finishAt_lookedOver still w.tideNs mism f r0 r1
  rw [← finished] at reg steady left
  refine ⟨?_, ?_, reg.trans word, fun failed => ?_⟩
  · subst counted
    exact left ▸ ⟨rfl, rfl⟩
  · subst counted
    exact left ▸ rfl
  · subst failed counted
    rw [steady.flt, show mism = true from same.symm.trans (decide_eq_true rfl)]
    rfl

/-- What a poisoned read brings, and the unit's state, leave a completion as it is. -/
theorem State.ReadNoted.completed {s t u : State} (noted : s.ReadNoted t) {x : TallyUnit} {signal : Bool}
    (done : Completed (t.setUnit k x) u e signal f r0 r1) : Completed s u e signal f r0 r1 := by
  obtain ⟨_, _, _, _, rfl⟩ := noted
  exact done

theorem State.ReadNoted.completing {s t : State} (noted : s.ReadNoted t) (own : Completing s id e) (x : TallyUnit) :
    Completing (t.setUnit k x) id e := by
  obtain ⟨_, _, _, _, rfl⟩ := noted
  exact ⟨own.here, own.loud, own.own, own.live⟩

theorem State.ReadNoted.regs {s t : State} (noted : s.ReadNoted t) : t.regs = s.regs := by
  obtain ⟨_, _, _, _, rfl⟩ := noted
  rfl

end End

/-- Settles O32: the start of a host-memory job by its equation; its end by the completion behind the job's count and its report. -/
theorem tallyJobs : Obligations.TallyJobs := by
  intro s canon
  refine ⟨fun id k e here idle ready first host => ?_, fun id k e data poisoned own job => ?_⟩
  · have op : e.desc.opcode = opTallyJob := by
      simp only [State.tallyReady, Bool.and_eq_true, decide_eq_true_eq] at ready
      exact ready.1.1
    have ran := exec_tallyJobStart here idle ready first
    rw [startTally_host op host] at ran
    let u : State := s.setUnit k { busy := true, fn := e.fn, poly := e.desc.poly, run := e.desc.tallyStart }
    obtain rfl := State.id_of_entry here
    refine ⟨_, ran, s.unit_setUnit k _, fun j other => s.unit_setUnit_ne _ other, ?_, fun j other => ?_, rfl, rfl⟩
    · exact (u.entry_start e.id e.id (.tally k)).trans (by rw [show u.entry e.id = some e from here, Option.map_some, if_pos rfl]; rfl)
    · exact State.entry_modEntry_ne (f := fun e => { e with started := true, readyAt := some s.now, job := .tally k }) (fun _ => rfl) u other
  · intro bs out
    obtain rfl := State.id_of_entry own.here
    obtain ⟨t, noted, read, quiet⟩ := s.tallyRead_frame e k data poisoned
    have ran := exec_tallyJobDone own.here job data poisoned
    rw [read] at ran
    let x : TallyUnit := { s.unit k with busy := false, run := crcRun e.desc.poly e.desc.tallyStart bs }
    obtain ⟨ended, units, word, raised⟩ := (noted.completing (k := k) own x).tallyFinish (noted.regs ▸ canon.regs.1) out.1 out.2.1 out.2.2
    have done := noted.completed ended
    refine ⟨_, ran, done.1, (congrArg (tabGet TallyUnit.reset · k) units).trans (t.unit_setUnit k x),
      word.trans (by rw [show (t.setUnit k x).reg 0xB004 = s.reg 0xB004 from State.reg_of_regs noted.regs _]), fun other => ?_,
      fun mism => ⟨?_, ?_⟩⟩
    · rwa [decide_eq_false other] at done
    · rwa [decide_eq_true mism] at done
    · exact ⟨_, (raised mism).trans (by rw [show (t.setUnit k x).flt = s.flt from quiet mism]), rfl⟩

end Sys2Proof.Machine

/-! SAWYER_LIST (O31): the rows of a command, its signal, its end and the end of its list. -/

namespace Sys2Proof.Machine

/-! ### Commands changed in their place -/

section ModCmd

variable {s : State} {id k : Nat} {e : Entry} {c : SawyerCmd}

/-- An entry with its command `k` replaced. -/
def Entry.withCmd (e : Entry) (k : Nat) (c : SawyerCmd) : Entry := { e with job := .sawyer (e.cmds.set k c) }

theorem Entry.withCmd_cmds (e : Entry) (k : Nat) (c : SawyerCmd) : (e.withCmd k c).cmds = e.cmds.set k c := rfl

theorem Entry.withCmd_get {e : Entry} {k : Nat} {c : SawyerCmd} (cmd : e.cmds[k]? = some c) (x : SawyerCmd) :
    (e.withCmd k x).cmds[k]? = some x := by
  obtain ⟨small, -⟩ := List.getElem?_eq_some_iff.1 cmd
  rw [Entry.withCmd_cmds, List.getElem?_set_self small]

theorem State.modCmd_entry (here : s.entry id = some e) (cmd : e.cmds[k]? = some c) (f : SawyerCmd → SawyerCmd) :
    (s.modCmd id k f).entry id = some (e.withCmd k (f c)) := by
  rw [State.modCmd, State.entry_modEntry_self (by exact fun _ => rfl) here, mapIdx_eq_set cmd]
  rfl

theorem State.modCmd_flt (s : State) (id k : Nat) (f : SawyerCmd → SawyerCmd) : (s.modCmd id k f).flt = s.flt := rfl

theorem State.modCmd_entry_ne (s : State) (k : Nat) (f : SawyerCmd → SawyerCmd) {j : Nat} (other : j ≠ id) :
    (s.modCmd id k f).entry j = s.entry j := State.entry_modEntry_ne (by exact fun _ => rfl) s other

end ModCmd

/-! ### A row stands in its destination (R109, R416) -/

section Row

variable {s : State} {e : Entry} {o : Obj}

theorem State.img_obj {h : Nat} {d : Img} (image : s.img e h = some d) : s.objOf h = some d.obj := by
  unfold State.img at image
  split at image
  · contradiction
  · next o here =>
    split at image <;> exact Option.some.inj image ▸ here

/-- No word is contested where nothing else writes or reads the object (R109). -/
theorem State.contested_alone {h : Nat} (here : s.entry e.id = some e) (alone : s.alone e h) (spans : List (Nat × Nat)) :
    s.contested e h spans = [] := by
  simp [State.contested, alone.1, alone.2, here, spansHold]

theorem State.foldl_rehome (s : State) (tiles : List Nat) : (tiles.foldl State.rehome s).objs = s.objs :=
  List.foldlRecOn (motive := fun t : State => t.objs = s.objs) tiles State.rehome rfl fun t same tile _ => by
    obtain ⟨_, _, homed⟩ := t.rehome_eq tile
    rw [homed]
    exact same

theorem State.objOf_of_objs {s t : State} (same : t.objs = s.objs) (h : Nat) : t.objOf h = s.objOf h := by
  simp only [State.objOf, same]

theorem State.putWords_alone (own : s.entry e.id = some e) (here : s.objOf o.handle = some o) (alone : s.alone e o.handle)
    (bytes : Tab Byte) (spans : List (Nat × Nat)) : (s.putWords e o bytes spans).objOf o.handle = some (o.setContent bytes) := by
  unfold State.putWords
  extract_lets h ids kept runs noted put
  have uncontested : kept = bytes := congrArg (o.keepWords s.fresh bytes) (State.contested_alone own alone spans)
  have found : noted.objOf o.handle = some o := here
  rw [State.objOf_of_objs (State.foldl_rehome _ _)]
  unfold put State.modObj
  rw [show noted.objOf h = some o from found, uncontested]
  exact State.objOf_setObj noted (o.setContent bytes)

/-- A row put into a surface that is being built stays in the entry's work; one put in place is noted as written. -/
theorem State.putRow_entry (here : s.entry e.id = some e) (r : RowJob) (bytes : Tab Byte) : ∃ e' fresh harb objs ledger,
    s.putRow e r bytes = { s with fresh := fresh, harb := harb, objs := objs, ledger := ledger } ∧
    (s.putRow e r bytes).entry e.id = some e' ∧ e'.cmds = e.cmds ∧
    (r.dst.obj.cls = 0 → e'.work = e.work.map fun w => if w.1 = r.dst.obj.handle then (w.1, bytes) else w) ∧
    (r.dst.obj.cls ≠ 0 → e'.work = e.work) := by
  by_cases plate : r.dst.obj.cls = 0
  · rw [State.putRow, if_pos plate]
    refine ⟨_, s.fresh, s.harb, s.objs, _, rfl, State.entry_modEntry_self (by exact fun _ => rfl) here, rfl, fun _ => rfl,
      fun other => absurd plate other⟩
  · rw [State.putRow, if_neg plate]
    obtain ⟨_, _, _, _, _, noted⟩ := s.putWords_noting e r.dst.obj bytes [r.span]
    obtain ⟨⟨wrote, own⟩, -⟩ := State.WroteInto.of_noting (t := s.putWords e r.dst.obj bytes [r.span]) here (by rw [noted])
    exact ⟨_, _, _, _, _, noted, own, rfl, fun built => absurd built plate, fun _ => rfl⟩

end Row

/-! ### The signal record (R417) -/

section Signal

variable {s : State} {k : Nat} {e x : Entry} {c : SawyerCmd}

/-- The watermark has reached signal_rows, and no signal has gone out. -/
abbrev SawyerCmd.signals (c : SawyerCmd) : Prop := c.signal ∧ c.signalled = false ∧ c.f 12 14 0 ≤ c.mark

theorem set_of_getElem? {α : Type} {l : List α} {k : Nat} {x : α} (h : l[k]? = some x) : l.set k x = l := by
  obtain ⟨small, rfl⟩ := List.getElem?_eq_some_iff.1 h
  exact List.set_getElem_self small

/-- The signal record of a command (R417). -/
def State.signalRecord (s : State) (e : Entry) (c : SawyerCmd) : Egress :=
  .data e.fn (c.w 14 + 2 ^ 32 * c.w 15) (signalBytes (c.f 0 15 0) c.mark s.tideNs) (s.cplAddr e.desc)

/-- What goes out with the row that the watermark `c.mark` tells of. -/
def State.signalOut (s : State) (e : Entry) (c : SawyerCmd) : List Egress :=
  if c.signals ∧ s.flt.fatalHold = false then [s.signalRecord e c] else []

theorem State.signalCmd_quiet (here : s.entry e.id = some x) (cmd : x.cmds[k]? = some c) (quiet : ¬c.signals) : s.signalCmd e k = s := by
  simp only [State.signalCmd, here, Option.bind_some, cmd]
  exact if_neg fun due => quiet ⟨due.1, by simpa using due.2.1, due.2.2⟩

theorem State.signalCmd_due (own : e.mirrored = false) (here : s.entry e.id = some x) (cmd : x.cmds[k]? = some c) (due : c.signals) :
    s.signalCmd e k = { s.modCmd e.id k fun y => { y with signalled := true } with egress := s.egress ++ s.signalOut e c } := by
  simp only [State.signalCmd, here, Option.bind_some, cmd, State.signalOut]
  rw [if_pos ⟨due.1, by simp [due.2.1], due.2.2⟩]
  by_cases live : s.flt.fatalHold = false
  · rw [if_neg (by simp [own, State.modCmd_flt, live]), if_pos ⟨due, live⟩]
    rfl
  · rw [if_pos (.inl (by simpa [State.modCmd_flt] using live)), if_neg fun h => live h.2, List.append_nil]
    rfl

/-- The signal is looked at once a row is counted: the entry tells that it has gone out, and nothing else of it changes. -/
theorem State.signalCmd_entry (own : e.mirrored = false) (here : s.entry e.id = some x) (cmd : x.cmds[k]? = some c) : ∃ x' ledger,
    s.signalCmd e k = { s with ledger := ledger, egress := s.egress ++ s.signalOut e c } ∧ (s.signalCmd e k).entry e.id = some x' ∧
    x'.work = x.work ∧ x'.cmds = x.cmds.set k { c with signalled := c.signalled || decide c.signals } := by
  by_cases due : c.signals
  · rw [State.signalCmd_due own here cmd due]
    refine ⟨_, _, rfl, State.modCmd_entry here cmd _, rfl, ?_⟩
    rw [Entry.withCmd_cmds, decide_eq_true due, Bool.or_true]
  · rw [State.signalCmd_quiet here cmd due, State.signalOut, if_neg fun h => due h.1, List.append_nil, decide_eq_false due, Bool.or_false]
    exact ⟨x, _, rfl, here, rfl, (set_of_getElem? cmd).symm⟩

end Signal

/-! ### A row is finished (R410 to R417, R421) -/

section RowDone

variable {s : State} {id k : Nat} {e : Entry} {c : SawyerCmd} {d : Img}

/-- The command's next row, counted in its order. -/
def SawyerCmd.nextRow (c : SawyerCmd) : Nat := if c.upward then c.height - 1 - c.mark else c.mark

/-- What the next row of a command is made of. -/
def State.rowJob (s : State) (e : Entry) (c : SawyerCmd) (d : Img) : RowJob :=
  { cmd := c, dst := d, src := if c.hasSrc then s.img e c.src else none, y := c.dstY + c.nextRow, sy := c.srcY + c.nextRow }

/-- The state as a row of `bytes` is finished. -/
def State.rowPut (s : State) (e : Entry) (k : Nat) (r : RowJob) (bytes : Tab Byte) : State :=
  (((s.putRow e r bytes).modCmd e.id k fun x => { x with mark := x.mark + 1 }).countPixels r.cmd.width).signalCmd e k

theorem exec_sawyerRowDone (here : s.entry id = some e) (started : e.started = true) (cmd : e.cmds[k]? = some c)
    (runs : c.phase = .running) (draws : c.op ≠ 6) (left : c.mark < c.height) (alone : c.waitOn = 0) (sound : s.cmdLost c = none)
    (image : s.img e c.dst = some d) : exec (.sawyerRowDone id k) s = .next (match (s.rowJob e c d).run with
      | none => s.failCmd id k (stCheckMismatch, 0)
      | some bytes => s.rowPut e k (s.rowJob e c d) bytes) := by
  obtain rfl := State.id_of_entry here
  refine congrArg Host.Outcome.next ?_
  simp only [State.sawRow, here, cmd, sound, image]
  rw [if_neg (by simp [started, runs, draws, left, alone])]
  rfl

/-- A finished row: the watermark, the pixels, the destination and the signal. -/
theorem State.rowPut_done (here : s.entry e.id = some e) (own : e.mirrored = false) (cmd : e.cmds[k]? = some c) (r : RowJob)
    (same : r.cmd = c) (bytes : Tab Byte) : ∃ e' fresh harb objs ledger regs,
    s.rowPut e k r bytes = { s with fresh := fresh, harb := harb, objs := objs, ledger := ledger, regs := regs
                                    sawyPixels := s.sawyPixels + c.width
                                    egress := s.egress ++ s.signalOut e { c with mark := c.mark + 1 } } ∧
    objs = (s.putRow e r bytes).objs ∧ regs = (s.setReg 0xD004 ((s.sawyPixels + c.width) / 65536 % 2 ^ 32)).regs ∧
    (s.rowPut e k r bytes).entry e.id = some e' ∧ e'.cmds = e.cmds.set k { c with
      mark := c.mark + 1, signalled := c.signalled || decide ({ c with mark := c.mark + 1 } : SawyerCmd).signals } ∧
    (r.dst.obj.cls = 0 → e'.work = e.work.map fun w => if w.1 = r.dst.obj.handle then (w.1, bytes) else w) ∧
    (r.dst.obj.cls ≠ 0 → e'.work = e.work) := by
  subst same
  obtain ⟨e1, fresh, harb, objs, ledger, put, entry, cmds, built, inPlace⟩ := State.putRow_entry here r bytes
  have marked := State.modCmd_entry entry (cmds ▸ cmd) fun x => { x with mark := x.mark + 1 }
  have got := Entry.withCmd_get (cmds ▸ cmd : e1.cmds[k]? = some r.cmd) { r.cmd with mark := r.cmd.mark + 1 }
  unfold State.rowPut
  generalize s.putRow e r bytes = u at put entry marked
  subst put
  obtain ⟨e2, ledger2, signalled, found, work, list⟩ := State.signalCmd_entry
    (s := State.countPixels (State.modCmd _ e.id k fun x => { x with mark := x.mark + 1 }) r.cmd.width) own marked got
  refine ⟨e2, fresh, harb, objs, ledger2, _, signalled, rfl, rfl, found, ?_, fun plate => work.trans (built plate),
    fun other => work.trans (inPlace other)⟩
  rw [list, Entry.withCmd_cmds, List.set_set, cmds]

end RowDone

/-! ### The end of a command and of its list (R419, R420) -/

section CommandDone

variable {s : State} {id k : Nat} {e : Entry} {c : SawyerCmd}

/-- What a list wrote is settled in the objects only. -/
theorem State.settleList_eq (s : State) (e : Entry) (status : Nat) : ∃ objs, s.settleList e status = { s with objs := objs } := by
  unfold State.settleList
  refine List.foldlRecOn (motive := fun t : State => ∃ objs, t = { s with objs := objs }) _ _ ⟨_, rfl⟩ fun t frame h _ => ?_
  obtain ⟨_, rfl⟩ := frame
  split
  · exact ⟨_, rfl⟩
  · split
    · next plate =>
      split
      · exact ⟨_, rfl⟩
      · exact ⟨_, if_pos plate⟩
    · exact ⟨_, rfl⟩

theorem exec_sawyerCommandDone (here : s.entry id = some e) (cmd : e.cmds[k]? = some c) (all : c.mark = c.height) :
    exec (.sawyerCommandDone id k) s = .next ((s.sawDone id k).sawFinish id) := by
  change execSawyerCommandDone id k s = _
  simp only [execSawyerCommandDone, here, Option.bind_some, cmd, all, Nat.sub_self]
  rfl

theorem State.sawDone_entry (here : s.entry id = some e) (cmd : e.cmds[k]? = some c) (runs : c.phase = .running) (draws : c.op ≠ 6)
    (all : c.mark = c.height) : (s.sawDone id k).entry id = some (e.withCmd k { c with phase := .done }) := by
  rw [State.sawDone, State.modCmd_entry here cmd, if_pos ⟨runs, draws, all⟩]

theorem State.sawFinish_done (here : s.entry id = some e) (started : e.started = true) (all : e.cmds.all SawyerCmd.finished = true) :
    s.sawFinish id = (s.settleList e stOk).finish id (stOk, 0) e.cmds.length 0 := by
  simp [State.sawFinish, here, started, all]

theorem State.sawFinish_runs (here : s.entry id = some e) (some_ : (e.cmds.any fun c => decide (c.phase = .running)) = true) :
    s.sawFinish id = s := by
  obtain ⟨x, mem, runs⟩ := List.any_eq_true.1 some_
  have unfinished : e.cmds.all SawyerCmd.finished = false := List.all_eq_false.2 ⟨x, mem, by
    rw [SawyerCmd.finished, of_decide_eq_true runs]
    decide⟩
  simp [State.sawFinish, here, unfinished, some_]

/-- With its last command done, every command of the list is finished. -/
theorem Entry.withCmd_finished (cmd : e.cmds[k]? = some c) {x : SawyerCmd} (done : x.phase = .done)
    (others : ∀ (i : Nat) (y : SawyerCmd), i ≠ k → e.cmds[i]? = some y → y.phase = .done) :
    (e.withCmd k x).cmds.all SawyerCmd.finished = true := by
  refine List.all_eq_true.2 fun y mem => decide_eq_true ?_
  obtain ⟨i, there⟩ := List.mem_iff_getElem?.1 mem
  by_cases own : i = k
  · rw [own, Entry.withCmd_get cmd] at there
    exact Option.some.inj there ▸ done
  · rw [Entry.withCmd_cmds, List.getElem?_set_ne (Ne.symm own)] at there
    exact others i y own there

theorem State.modCmd_others (s : State) (id k : Nat) (f : SawyerCmd → SawyerCmd) :
    ((s.modCmd id k f).ledger.filter fun x => decide (x.id ≠ id)) = s.ledger.filter fun x => decide (x.id ≠ id) := by
  have named : (fun x : Entry => decide (x.id ≠ id)) ∘
      (fun x => if x.id = id then { x with job := .sawyer (x.cmds.mapIdx fun i c => if i = k then f c else c) } else x) =
      fun x => decide (x.id ≠ id) := funext fun x => by
    by_cases here : x.id = id <;> simp [here]
  rw [State.modCmd, State.modEntry, List.filter_map, named]
  exact (List.map_congr_left fun x mem => if_neg (by simpa using (List.mem_filter.1 mem).2)).trans (List.map_id' _)

/-- The list completes behind the end of its last command and the settling of what it wrote. -/
theorem State.sawDone_settled_completed {x : SawyerCmd} (own : Completing s id e) (entry : (s.sawDone id k).entry id = some (e.withCmd k x))
    (status : Nat) (f : Fail) (n : Nat) :
    Completed s (((s.sawDone id k).settleList (e.withCmd k x) status).finish id f n 0) e false f n 0 := by
  obtain ⟨_, settled⟩ := (s.sawDone id k).settleList_eq (e.withCmd k x) status
  have still : Completing ((s.sawDone id k).settleList (e.withCmd k x) status) id (e.withCmd k x) := by
    rw [settled]
    exact ⟨entry, own.loud, own.own, own.live⟩
  obtain ⟨left, sent⟩ := State.finish_completed still f n 0
  rw [settled] at left sent ⊢
  obtain rfl := State.id_of_entry own.here
  exact ⟨left.trans (s.modCmd_others e.id k _), sent⟩

end CommandDone

/-- Settles O31: a row by what its steps leave as they are, the end of a command by the list's own case distinction. -/
theorem sawyerCommandsRun : Obligations.SawyerCommandsRun := by
  refine ⟨fun id k e c d s canon here own started cmd runs draws left alone sound image => ?_,
    fun id k e c s canon completing started cmd runs draws all => ?_⟩
  · obtain rfl := State.id_of_entry here
    have ran := exec_sawyerRowDone here started cmd runs draws left alone sound image
    intro row job
    refine ⟨fun bad => ?_, fun bytes good => ?_⟩
    · rw [show (s.rowJob e c d).run = none from bad] at ran
      exact ⟨_, ran, State.modCmd_entry here cmd _, rfl⟩
    · replace ran : exec (.sawyerRowDone e.id k) s = .next (s.rowPut e k (s.rowJob e c d) bytes) := by
        rw [ran, show (s.rowJob e c d).run = some bytes from good]
      obtain ⟨e', fresh, harb, objs, ledger, regs, put, placed, shown, entry, cmds, built, inPlace⟩ :=
        State.rowPut_done here own cmd (s.rowJob e c d) rfl bytes
      have handle : s.objOf d.obj.handle = some d.obj := by
        have found := State.img_obj image
        rwa [State.objOf_handle found]
      refine ⟨_, e', ran, entry, cmds, ?_, ?_, built, fun other => ⟨inPlace other, fun lone => ?_⟩, ?_, ?_⟩
      · rw [put]
      · rw [State.reg, put, shown]
        exact (State.reg_setReg canon.regs.1 _ _).trans (Nat.mod_mod _ _)
      · rw [State.objOf_of_objs ((congrArg State.objs put).trans placed), State.putRow, if_neg (show (s.rowJob e c d).dst.obj.cls ≠ 0 from other)]
        exact State.putWords_alone here handle lone bytes _
      · rw [put]
        rfl
      · rw [put]
  · have ran := exec_sawyerCommandDone completing.here cmd all
    have entry := State.sawDone_entry completing.here cmd runs draws all
    refine ⟨fun others => ?_, fun ⟨i, x, other, there, busy⟩ => ?_⟩
    · rw [State.sawFinish_done entry started (Entry.withCmd_finished cmd rfl others)] at ran
      have done := State.sawDone_settled_completed completing entry stOk (stOk, 0) e.cmds.length
      rw [Entry.withCmd_cmds, List.length_set] at ran
      exact ⟨_, ran, done⟩
    · have runsOn : ((e.withCmd k { c with phase := .done }).cmds.any fun c => decide (c.phase = .running)) = true := by
        refine List.any_eq_true.2 ⟨x, List.mem_of_getElem? (i := i) ?_, decide_eq_true busy⟩
        rw [Entry.withCmd_cmds, List.getElem?_set_ne (Ne.symm other), there]
      rw [State.sawFinish_runs entry runsOn] at ran
      exact ⟨_, ran, entry, fun j apart => s.modCmd_entry_ne k _ apart, rfl⟩

end Sys2Proof.Machine

/-! PTM dialogues and the discipline they feed (O42). -/

namespace Sys2Proof.Machine

/-! ### A dialogue without a valid sample (R458, R459) -/

section NoSample

variable {s : State}

theorem State.holdover_eq (s : State) : s.holdover = if s.tide.phase = .track ∧ 8 ≤ s.tide.bad then
    { s with tide := { s.tide with phase := .holdover } }.raiseCore false (err 0 0x09 0x01 0 0 0 0) else s := by
  unfold State.holdover
  split
  · exact State.raise_of_mild _ (by decide)
  · rfl

/-- Whatever it does, HOLDOVER touches the phase and what is raised only. -/
theorem State.holdover_tide (s : State) :
    s.holdover.tide = { s.tide with phase := if s.tide.phase = .track ∧ 8 ≤ s.tide.bad then .holdover else s.tide.phase } ∧
      s.holdover.regs = s.regs ∧
      (s.tide.phase = .track ∧ 8 ≤ s.tide.bad →
        ∃ x, s.holdover.flt.raised = s.flt.raised ++ [x] ∧ x.what = err 0 0x09 0x01 0 0 0 0) := by
  rw [s.holdover_eq]
  by_cases eight : s.tide.phase = .track ∧ 8 ≤ s.tide.bad
  · rw [if_pos eight, if_pos eight]
    exact ⟨rfl, rfl, fun _ => ⟨_, rfl, rfl⟩⟩
  · rw [if_neg eight, if_neg eight]
    exact ⟨rfl, rfl, fun h => absurd h eight⟩

/-- What a dialogue without a valid sample leaves, counted in the field of TIDE_PTMCNT. -/
theorem State.noSample_counts (sorted : tabSorted s.regs) {hi lo : Nat} (order : lo ≤ hi) (high : hi < 32) (wide : hi + 1 - lo = 16) :
    let t := s.noSample hi lo
    t.tide.valid = 0 ∧ t.tide.bad = s.tide.bad + 1 ∧ t.tide.dialogue = none ∧
      t.field 0x8028 hi lo = satNat (s.field 0x8028 hi lo + 1) 0xFFFF ∧
      t.tide.phase = (if s.tide.phase = .track ∧ 7 ≤ s.tide.bad then .holdover else s.tide.phase) ∧
      (s.tide.phase = .track ∧ 7 ≤ s.tide.bad → ∃ x, t.flt.raised = s.flt.raised ++ [x] ∧ x.what = err 0 0x09 0x01 0 0 0 0) := by
  intro t
  obtain ⟨tide, regs, raised⟩ := State.holdover_tide
    { s.count 0x8028 hi lo 1 with tide := { s.tide with valid := 0, bad := s.tide.bad + 1, dialogue := none } }
  have one : (s.tide.phase = .track ∧ 8 ≤ s.tide.bad + 1) ↔ (s.tide.phase = .track ∧ 7 ≤ s.tide.bad) := by
    rw [Nat.succ_le_succ_iff]
  refine ⟨congrArg Tide.valid tide, congrArg Tide.bad tide, congrArg Tide.dialogue tide, ?_, ?_, fun seven => raised (one.2 seven)⟩
  · refine (congrArg (fieldOf · hi lo) (State.reg_of_regs regs 0x8028)).trans ?_
    exact (State.field_count sorted 0x8028 order high 1).trans (by rw [wide]; rfl)
  · exact (congrArg Tide.phase tide).trans (if_congr one rfl rfl)

end NoSample

/-! ### A valid sample (R459 to R463) -/

/-- What a valid sample has set stays: no dialogue runs, none has failed since, and 0x8020 holds the offset. -/
structure State.SampleKept (s t : State) : Prop where
  dialogue : t.tide.dialogue = s.tide.dialogue
  bad : t.tide.bad = s.tide.bad
  offset : t.reg 0x8020 = s.reg 0x8020

theorem State.SampleKept.refl (s : State) : s.SampleKept s := ⟨rfl, rfl, rfl⟩

theorem State.SampleKept.trans {s t u : State} (h : s.SampleKept t) (k : t.SampleKept u) : s.SampleKept u :=
  ⟨k.dialogue.trans h.dialogue, k.bad.trans h.bad, k.offset.trans h.offset⟩

section Sample

theorem State.raiseCore_sampleKept (s : State) (e : ErrRec) : s.SampleKept (s.raiseCore false e) := ⟨rfl, rfl, rfl⟩

theorem State.setReg_sampleKept (s : State) {off : Nat} (v : Nat) (other : off ≠ 0x8020) : s.SampleKept (s.setReg off v) :=
  ⟨rfl, rfl, s.reg_setReg_ne v (Ne.symm other)⟩

theorem State.setBit_sampleKept (s : State) {off : Nat} (b : Nat) (other : off ≠ 0x8020) : s.SampleKept (s.setBit off b) :=
  s.setReg_sampleKept _ other

theorem State.setBit_if_sampleKept (s : State) (p : Prop) [Decidable p] {off : Nat} (b : Nat) (other : off ≠ 0x8020) :
    s.SampleKept (if p then s.setBit off b else s) := by
  split
  · exact s.setBit_sampleKept b other
  · exact .refl s

theorem State.discont_sampleKept (s : State) (j : Int) : s.SampleKept (s.discont j) := by
  unfold State.discont
  extract_lets t
  rw [State.raise_of_mild _ (by simp [err])]
  have told : s.SampleKept t := (s.setBit_sampleKept 8 (by decide)).trans (State.setReg_sampleKept _ _ (by decide))
  exact told.trans ⟨rfl, rfl, rfl⟩

/-- An output that a step passes changes its own state and register only. -/
theorem State.outsAfterStep_sampleKept (s : State) (u : Nat) (step : Int) : s.SampleKept (s.outsAfterStep u step) := by
  refine List.foldlRecOn (motive := s.SampleKept) _ _ (.refl s) fun t kept n mem => ?_
  have low := List.mem_range.1 mem
  exact (kept.trans (t.setBit_if_sampleKept _ 8 (by omega))).trans ⟨rfl, rfl, rfl⟩

theorem State.tryStep_sampleKept (s : State) : s.SampleKept s.tryStep := by
  unfold State.tryStep
  extract_lets t xs ready step v base shown clock stepped passed
  split
  · exact .refl s
  · have told : s.SampleKept shown := (s.setBit_sampleKept 9 (by decide)).trans (State.setReg_sampleKept _ _ (by decide))
    have moved : s.SampleKept passed := (told.trans (u := stepped) ⟨rfl, rfl, rfl⟩).trans (stepped.outsAfterStep_sampleKept _ _)
    rw [State.raise_of_mild _ (by simp [err])]
    exact moved.trans (passed.raiseCore_sampleKept _)

theorem ns32_lt (x : Int) : ns32 x < 2 ^ 32 := by
  unfold ns32 unsignedOf
  omega

theorem State.validSample_takes {s : State} (sorted : tabSorted s.regs) (x : PtmSample) :
    (s.validSample x).tide.dialogue = none ∧ (s.validSample x).tide.bad = 0 ∧ (s.validSample x).reg 0x8020 = ns32 x.offset := by
  unfold State.validSample
  extract_lets t shown taken checked jump servoed clock judged
  have word : taken.reg 0x8020 = ns32 x.offset := by
    exact (State.reg_setReg sorted _ _).trans (Nat.mod_eq_of_lt (ns32_lt _))
  have kept : taken.SampleKept judged := by
    unfold judged
    split
    · exact taken.discont_sampleKept _
    · split
      · split
        · exact .refl taken
        · exact ⟨rfl, rfl, rfl⟩
      · split
        · exact .refl taken
        · exact ⟨rfl, rfl, rfl⟩
      · split
        · exact ⟨rfl, rfl, rfl⟩
        · exact .refl taken
      · exact .refl taken
  have all := kept.trans judged.tryStep_sampleKept
  exact ⟨all.dialogue, all.bad, all.offset.trans word⟩

end Sample

/-- Settles O42: the dialogues by their equations, and what follows a sample by what the discipline leaves as it is. -/
theorem tideDiscipline : Obligations.TideDiscipline := by
  intro s canon
  have sorted := canon.regs.1
  refine ⟨fun runs enabled idle late => ?_, ⟨fun at_ sent open_ late => ?_, fun at_ sent master turnaround open_ => ⟨fun long => ?_, fun fits => ?_⟩⟩,
    fun held => ?_⟩
  · exact if_pos (by simp [State.running, runs, enabled, idle, late])
  · refine ⟨_, if_pos ?_, State.noSample_counts sorted (by decide) (by decide) (by decide)⟩
    rw [open_]
    exact decide_eq_true late
  · have ran : exec (.ptmResponse master turnaround) s = .next (s.noSample 31 16) := by
      refine congrArg Host.Outcome.next ?_
      rw [State.ptmResponse, open_]
      exact if_pos long
    exact ⟨_, ran, State.noSample_counts sorted (by decide) (by decide) (by decide)⟩
  · have ran : exec (.ptmResponse master turnaround) s = .next (s.validSample
        { master := master, local_ := (sent : Int) + s.tideUnits - turnaround * 2 ^ 32
          offset := (master : Int) * 2 ^ 33 - ((sent : Int) + s.tideUnits - turnaround * 2 ^ 32) }) := by
      refine congrArg Host.Outcome.next ?_
      rw [State.ptmResponse, open_]
      exact if_neg (Int.not_lt.2 fits)
    exact ⟨_, ran, State.validSample_takes sorted _⟩
  · refine ⟨_, congrArg Host.Outcome.next (if_pos held), ?_⟩
    rw [(State.holdover_tide _).1]
    simp

end Sys2Proof.Machine

/-! Calibration: CAL_MEASURE (O38) and CAL_STORE (O39). -/

namespace Sys2Proof.Machine

/-! ### A descriptor that stays in the ledger as it starts (R96) -/

/-- Where a descriptor that goes at once only changes its own slot as it starts, the ledger ends with that slot. -/
theorem State.run_modEntry_ledger {s t : State} {d : Desc} {e : Entry} {objs : Tab Obj} (ordered : ledgerOrdered s.ledger s.nextId)
    (named : e.id = s.nextId) (h : (s.entered d e objs).Logged t) (f : Entry → Entry) :
    (t.modEntry s.nextId f).run.ledger = s.ledger ++ [f e] := by
  obtain ⟨_, _, _, moved⟩ := (t.modEntry s.nextId f).run_engineMoved
  obtain ⟨_, _, rfl⟩ := h
  rw [moved]
  exact map_newSlot ordered named f

/-! ### CAL_MEASURE at its start (R495, R497, R498) -/

section Start

variable {s : State} {r : Fin 128} {d : Desc}

theorem exec_calMeasureElectrical (taken : Taken s r opCalMeasure d) (kind : d.calKind = 0) :
    exec (.calMeasureElectrical r) s = .next (s.takeMeasure d).run :=
  congrArg Host.Outcome.next ((State.withCur_taken taken _).trans (congrArg State.run (if_pos kind)))

theorem exec_calMeasurePhotometric (taken : Taken s r opCalMeasure d) (kind : d.calKind = 1) (sound : s.photoFail d = none) :
    exec (.calMeasurePhotometric r) s = .next (s.takeMeasure d).run := by
  refine congrArg Host.Outcome.next ((State.withCur_taken taken _).trans (congrArg State.run ?_))
  simp [kind, sound]

theorem Job.calMeasure_namesNone (xs : List CalReading) (rep : Timer) (n f0 : Nat) (safe : Bool) :
    (Job.calMeasure xs rep n f0 safe).namesNone := fun e job => by
  simp [Entry.reads, Entry.writes, job]

/-- A measurement that nothing holds back starts at once; only its slot tells. -/
theorem State.takeMeasure_ledger (ordered : ledgerOrdered s.ledger s.nextId) (atOnce : s.goesAtOnce d) {f : Entry → Entry}
    (starts : ∀ t : State, t.now = s.now →
      startMeasure (s.newEntry d (.calMeasure [] none 0 0 false) []) t = t.modEntry s.nextId f) :
    (s.takeMeasure d).run.ledger = s.ledger ++ [f (s.newEntry d (.calMeasure [] none 0 0 false) [])] := by
  obtain ⟨t, entered, began⟩ := State.admitStart_atOnce (prep := id) (job := .calMeasure [] none 0 0 false) ordered (Job.calMeasure_namesNone _ _ _ _ _) atOnce
    (fun t => .refl t) startMeasure
  have clock : t.now = s.now := by
    obtain ⟨_, _, rfl⟩ := entered
    rfl
  rw [State.takeMeasure, began, starts t clock]
  exact State.run_modEntry_ledger ordered rfl entered f

theorem startMeasure_electrical {e : Entry} (kind : e.desc.calKind = 0) (s : State) :
    startMeasure e s = s.start e.id (.calMeasure [] (some (s.now + msTicks 50)) 0 0 false) := if_pos kind

theorem startMeasure_photometric {e : Entry} (kind : e.desc.calKind = 1) (s : State) :
    startMeasure e s = s.modEntry e.id fun x => { x with readyAt := some s.now } := if_neg (by omega)

end Start

/-! ### The repeat and the tests (R495 to R500) -/

section Measure

variable {s : State} {id n f0 : Nat} {e : Entry} {rep : Timer} {safe : Bool} {x : CalReading} {xs ys : List CalReading}

theorem exec_calMeasureRepeat (here : s.entry id = some e) (job : e.job = .calMeasure [] rep n f0 safe)
    (ready : (if e.desc.calKind = 0 then e.started && due rep s.now else decide (n = 2)) = true) :
    exec (.calMeasureRepeat id (x :: xs)) s =
      .next (s.modEntry id fun y => { y with job := .calMeasure (x :: xs) rep n f0 safe }) := by
  refine congrArg Host.Outcome.next ?_
  simp only [State.measureRepeat, here, job, ready, if_true, someReadings, reduceCtorEq, if_false]

/-- The outcome of the tests of a measurement (R496, R499). -/
def State.calFails (s : State) (e : Entry) (xs ys : List CalReading) : Option (Nat × Nat) :=
  if e.desc.calKind = 0 then measureFail e.desc.channels electricalWindow electricalRepeat xs ys
  else measureFail e.desc.channels (photoWindow (s.field 0x900C 11 0)) photoRepeat xs ys

section Done

variable (here : s.entry id = some e) (job : e.job = .calMeasure (x :: xs) rep n f0 safe)
include here job

theorem exec_calMeasureDone_rejects (enough : e.desc.calKind ≠ 0 → 4 ≤ n) {reason c : Nat}
    (fails : s.calFails e (x :: xs) ys = some (reason, c)) :
    exec (.calMeasureDone id ys) s = .next (s.calReject e (reason * 65536 + c * 256)) := by
  refine congrArg Host.Outcome.next ?_
  simp only [State.measureDone, here, job]
  by_cases kind : e.desc.calKind = 0
  · rw [State.calFails, if_pos kind] at fails
    simp only [if_pos kind, fails]
  · rw [State.calFails, if_neg kind] at fails
    simp only [if_neg kind, if_neg (Nat.not_lt.2 (enough kind)), fails]

theorem exec_calMeasureDone_electrical (kind : e.desc.calKind = 0) (passes : s.calFails e (x :: xs) ys = none) :
    exec (.calMeasureDone id ys) s = .next (s.keepElectrical e (x :: xs) ys) := by
  refine congrArg Host.Outcome.next ?_
  rw [State.calFails, if_pos kind] at passes
  simp only [State.measureDone, here, job, if_pos kind, passes]

theorem exec_calMeasureDone_photometric (kind : e.desc.calKind ≠ 0) (enough : 4 ≤ n) (released : safe = false)
    (passes : s.calFails e (x :: xs) ys = none) : exec (.calMeasureDone id ys) s = .next (s.keepPhoto e f0 (x :: xs) ys) := by
  refine congrArg Host.Outcome.next ?_
  rw [State.calFails, if_neg kind] at passes
  simp [State.measureDone, here, job, kind, Nat.not_lt.2 enough, passes, released]

end Done

/-- Sensing data written ahead of a completion leave it as it is. -/
theorem Completing.finish_modData (own : Completing s e.id e) (g : StoreData → StoreData) (f : Fail) (r0 r1 : Nat) :
    Completed s ((s.modData g).finish e.id f r0 r1) e false f r0 r1 ∧
      ((s.modData g).finish e.id f r0 r1).sense.data = g s.sense.data := by
  have still : Completing (s.modData g) e.id e := ⟨own.here, own.loud, own.own, own.live⟩
  exact ⟨State.finish_completed still f r0 r1, (congrArg Sense.data (State.finishAt_steady _ _ _ _ _ _ _).sense :)⟩

/-- A calibration set as an accepted electrical measurement leaves it: the die temperature's set is fitted (R493, R496). -/
def State.fittedAt (s : State) (e : Entry) (xs ys : List CalReading) (i : Nat) (c : CalSet) : CalSet :=
  if i = setFor (s.die 23).value then c.fitted (setFor (s.die 23).value) (s.die 23).value e.desc.channels xs ys else c

theorem State.fittedAt_eq (s : State) (e : Entry) (xs ys : List CalReading) : s.fittedAt e xs ys = fun i c =>
    if i = setFor (s.die 23).value then CalSet.fitted c i (s.die 23).value e.desc.channels xs ys else c := by
  funext i c
  unfold State.fittedAt
  split
  · next own => rw [own]
  · rfl

end Measure

/-- Settles O38: the starts by the slot they leave, the end by the outcome of the tests. -/
theorem calibrationMeasures : Obligations.CalibrationMeasures := by
  intro s canon
  refine ⟨fun r d taken atOnce => ⟨fun kind => ?_, fun kind sound => ?_⟩, fun id n f0 e rep safe x xs here job ready => ?_,
    fun id n f0 e rep safe x xs ys own job enough => ?_⟩
  · refine ⟨_, exec_calMeasureElectrical taken kind, ?_⟩
    refine State.takeMeasure_ledger canon.ledger atOnce (f := fun x => { x with
      started := true, readyAt := some s.now, job := .calMeasure [] (some (s.now + msTicks 50)) 0 0 false }) fun t clock => ?_
    rw [startMeasure_electrical kind, State.start, clock]
    rfl
  · refine ⟨_, exec_calMeasurePhotometric taken kind sound, ?_⟩
    refine State.takeMeasure_ledger canon.ledger atOnce (f := fun x => { x with readyAt := some s.now }) fun t clock => ?_
    rw [startMeasure_photometric kind, clock]
    rfl
  · exact ⟨_, exec_calMeasureRepeat here job ready, State.entry_modEntry_self (by exact fun _ => rfl) here,
      fun j other => State.entry_modEntry_ne (by exact fun _ => rfl) s other, rfl⟩
  · obtain rfl := State.id_of_entry own.here
    refine ⟨fun reason c fails => ?_, fun passes kind => ?_, fun passes kind released => ?_⟩
    · exact exec_calMeasureDone_rejects own.here job enough fails
    · obtain ⟨done, data⟩ := own.finish_modData (fun d => { d with cal := d.cal.mapIdx (s.fittedAt e (x :: xs) ys) })
        (stOk, 0) (e.desc.w 3 % 65536) (setFor (s.die 23).value)
      refine ⟨_, exec_calMeasureDone_electrical own.here job kind passes, done, (congrArg StoreData.cal data).trans ?_⟩
      exact congrArg (fun g => s.sense.data.cal.mapIdx g) (s.fittedAt_eq e (x :: xs) ys)
    · exact ⟨_, exec_calMeasureDone_photometric own.here job kind (enough kind) released passes, (own.finish_modData _ _ _ _).1⟩

/-! ### CAL_STORE at its start (R503, R504) -/

/-- State `t` is `s` but for the flash and the write in progress: a pending store may have begun to be written. -/
structure State.PendingTried (s t : State) : Prop where
  frame : { t with sense := s.sense } = s
  sense : { t.sense with flashA := s.sense.flashA, flashB := s.sense.flashB, writing := s.sense.writing } = s.sense

theorem State.PendingTried.refl (s : State) : s.PendingTried s := ⟨rfl, rfl⟩

theorem State.PendingTried.trans {s t u : State} (h : s.PendingTried t) (k : t.PendingTried u) : s.PendingTried u :=
  ⟨(congrArg (fun x : State => { x with sense := s.sense }) k.frame).trans h.frame,
    (congrArg (fun x : Sense => { x with flashA := s.sense.flashA, flashB := s.sense.flashB, writing := s.sense.writing }) k.sense).trans h.sense⟩

theorem State.beginWrite_tried (s : State) (id : Option Nat) (d : StoreData) : s.PendingTried (s.beginWrite id d) := by
  refine ⟨rfl, ?_⟩
  cases slot : s.spareSlot <;> simp [State.beginWrite, State.setFlash, State.modSense, slot]

theorem State.tryPending_tried (s : State) : s.PendingTried s.tryPending := by
  unfold State.tryPending
  split
  · split
    · exact s.beginWrite_tried none _
    · exact .refl s
  · exact .refl s

theorem State.tryPending_cold {s : State} (cold : s.sense.boardRun < 10) : s.tryPending = s := by
  unfold State.tryPending
  split
  · exact if_neg fun h => absurd h.2 (Nat.not_le.2 cold)
  · rfl

/-- A try at the pending store comes behind a completion and leaves it as it is. -/
theorem State.PendingTried.completed {s t u : State} (h : t.PendingTried u) {e : Entry} {signal : Bool} {f : Fail} {r0 r1 : Nat}
    (done : Completed s t e signal f r0 r1) : Completed s u e signal f r0 r1 :=
  ⟨(congrArg State.ledger h.frame :).trans done.1, (congrArg State.egress h.frame :).trans done.2⟩

section StoreStart

variable {s : State} {r : Fin 128} {d : Desc}

theorem State.wanted_of_sense {s t : State} (same : t.sense = s.sense) (noAlmanac : d.f 2 3 0 ≠ 0) : t.wanted d = s.wanted d := by
  simp only [State.wanted, same, if_neg noAlmanac]

theorem State.boardInside_of_sense {s t : State} (same : t.sense = s.sense) : t.boardInside = s.boardInside := by
  simp only [State.boardInside, same]

/-- A store of a record that is no almanac's is admitted and starts. -/
theorem exec_calStore (canon : Canon s) (taken : Taken s r opCalStore d) (atOnce : s.goesAtOnce d) (noAlmanac : d.f 2 3 0 ≠ 0) :
    exec (.calStore r) s = .next (startStore (s.newEntry d .plain []) (s.admitNew d .plain [])).run := by
  refine congrArg Host.Outcome.next ((State.withCur_taken taken _).trans (congrArg State.run ?_))
  rw [← State.admitStart_free canon.ledger atOnce startStore]
  simp [failIf, noAlmanac]

theorem startStore_noAlmanac {e : Entry} (noAlmanac : e.desc.f 2 3 0 ≠ 0) (idle : s.sense.writing = none) : startStore e s =
    if s.boardInside then (s.start e.id .calStore).beginWrite (some e.id) (s.wanted e.desc) else s.deferStore e.id (s.wanted e.desc) := by
  simp [startStore, idle, State.storeSrcFail, noAlmanac]

theorem State.Logged.sense {s t : State} (h : s.Logged t) : t.sense = s.sense := by
  obtain ⟨_, _, rfl⟩ := h
  rfl

theorem State.run_sense (s : State) : s.run.sense = s.sense := by
  obtain ⟨_, _, _, moved⟩ := s.run_engineMoved
  rw [moved]

theorem State.beginWrite_sense (s : State) (id : Option Nat) (d : StoreData) :
    (s.beginWrite id d).sense.writing = some (id, d, s.spareSlot) ∧
    (if s.spareSlot then (s.beginWrite id d).sense.flashB = [] ∧ (s.beginWrite id d).sense.flashA = s.sense.flashA
      else (s.beginWrite id d).sense.flashA = [] ∧ (s.beginWrite id d).sense.flashB = s.sense.flashB) := by
  cases slot : s.spareSlot <;> simp [State.beginWrite, State.setFlash, State.modSense, slot]

theorem startStore_entered {t : State} (entered : (s.entered d (s.newEntry d .plain []) s.objs).Logged t) (noAlmanac : d.f 2 3 0 ≠ 0)
    (idle : s.sense.writing = none) : startStore (s.newEntry d .plain []) t =
      if s.boardInside then (t.start s.nextId .calStore).beginWrite (some s.nextId) (s.wanted d) else t.deferStore s.nextId (s.wanted d) := by
  have same : t.sense = s.sense := entered.sense
  rw [startStore_noAlmanac noAlmanac (same ▸ idle), State.boardInside_of_sense same,
    show t.wanted (s.newEntry d .plain []).desc = s.wanted d from State.wanted_of_sense same noAlmanac]
  rfl

/-- Inside the board's window the write begins in the spare slot. -/
theorem calStore_writes (ordered : ledgerOrdered s.ledger s.nextId) {t : State}
    (entered : (s.entered d (s.newEntry d .plain []) s.objs).Logged t) (image : StoreData) :
    let u := ((t.start s.nextId .calStore).beginWrite (some s.nextId) image).run
    u.ledger = s.ledger ++ [{ s.newEntry d .calStore [] with started := true, readyAt := some s.now }] ∧
      u.sense.writing = some (some s.nextId, image, s.spareSlot) ∧
      (if s.spareSlot then u.sense.flashB = [] ∧ u.sense.flashA = s.sense.flashA
       else u.sense.flashA = [] ∧ u.sense.flashB = s.sense.flashB) := by
  intro u
  have sense : (t.start s.nextId .calStore).sense = s.sense := entered.sense
  have spare : (t.start s.nextId .calStore).spareSlot = s.spareSlot := by simp only [State.spareSlot, sense]
  obtain ⟨writing, erased⟩ := (t.start s.nextId .calStore).beginWrite_sense (some s.nextId) image
  rw [spare, sense] at erased
  rw [spare] at writing
  refine ⟨?_, ?_, ?_⟩
  · obtain ⟨_, _, _, moved⟩ := ((t.start s.nextId .calStore).beginWrite (some s.nextId) image).run_engineMoved
    have begun := (congrArg State.ledger ((t.start s.nextId .calStore).beginWrite_tried (some s.nextId) image).frame :)
    have placed : u.ledger = (t.start s.nextId .calStore).ledger := (congrArg State.ledger moved).trans begun
    obtain ⟨_, _, rfl⟩ := entered
    exact placed.trans (map_newSlot ordered rfl _)
  · exact (congrArg Sense.writing (State.run_sense _)).trans writing
  · rw [show u.sense = _ from State.run_sense _]
    exact erased

/-- Outside it the content waits, and the descriptor completes. -/
theorem calStore_defers (ordered : ledgerOrdered s.ledger s.nextId) (live : s.flt.fatalHold = false) (cold : s.sense.boardRun < 10)
    {t : State} (entered : (s.entered d (s.newEntry d .plain []) s.objs).Logged t) (image : StoreData) :
    let u := (t.deferStore s.nextId image).run
    u.ledger = s.ledger ∧ u.sense = { s.sense with pending := some image, deferred := true } ∧
      s.egress ++ s.completion d false (stThermalDefer, 0) 0 0 <+: u.egress := by
  intro u
  let deferred : State := t.modSense fun x => { x with pending := some image, deferred := true }
  have sense : (deferred.finish s.nextId (stThermalDefer, 0) 0 0).sense = { s.sense with pending := some image, deferred := true } :=
    (State.finishAt_steady _ _ _ _ _ _ _).sense.trans (congrArg (fun x : Sense => { x with pending := some image, deferred := true }) entered.sense)
  have ends : u = (deferred.finish s.nextId (stThermalDefer, 0) 0 0).run :=
    congrArg State.run (State.tryPending_cold (by rw [sense]; exact cold))
  have held : s.Holds deferred (s.newEntry d .plain []) := by
    have holds := State.holds_of_entered (e := s.newEntry d .plain []) rfl entered
    exact ⟨holds.ledger, holds.egress, holds.flt, holds.place⟩
  obtain ⟨_, _, _, _, _, _, _, _, left⟩ := held.finish_run ordered rfl rfl rfl live (show t.tideNs = s.tideNs from State.tideNs_entered entered) (stThermalDefer, 0) 0 0
  refine ⟨?_, ?_, ?_⟩
  · rw [ends, left]
  · rw [ends, State.run_sense, sense]
  · rw [ends, left]
    exact List.prefix_append _ _

end StoreStart

/-! ### How a flash write ends (R503 to R505) -/

section StoreDone

variable {s : State} {e : Entry} {d : StoreData} {slot : Bool}

/-- No flash write is in progress. -/
def State.writeOver (s : State) : State := s.modSense fun x => { x with writing := none }

/-- A completion with the sense block already as it will be. -/
theorem Completing.finish_sense (own : Completing s e.id e) (x : Sense) (f : Fail) (r0 r1 : Nat) :
    Completed s (State.finish { s with sense := x } e.id f r0 r1) e false f r0 r1 ∧
      (State.finish { s with sense := x } e.id f r0 r1).sense = x := by
  have still : Completing { s with sense := x } e.id e := ⟨own.here, own.loud, own.own, own.live⟩
  exact ⟨State.finish_completed still f r0 r1, (State.finishAt_steady _ _ _ _ _ _ _).sense⟩

/-- The sense block as a write of the store of generation `gen` has been verified for a descriptor. -/
def Sense.verified (x : Sense) (d : StoreData) (slot : Bool) (gen : Nat) : Sense :=
  { x with
    flashA := if slot then x.flashA else storeImage d gen, flashB := if slot then storeImage d gen else x.flashB
    stored := d, gen := gen, slot := slot, pending := none, data := { x.data with alms := d.alms }, writing := none, deferred := false }

theorem State.commitStore_eq (s : State) (id : Nat) (d : StoreData) (slot : Bool) : s.writeOver.commitStore (some id) d slot =
    State.finish { s with sense := s.sense.verified d slot (s.sense.gen + 1) } id (stOk, 0) (s.sense.gen + 1) (bit slot) := by
  cases slot <;> simp [State.commitStore, State.writeOver, State.setFlash, State.modSense, Sense.verified]

section Outcomes

variable {id : Nat} (writing : s.sense.writing = some (some id, d, slot))
include writing

theorem exec_calStoreDone_verified : exec (.calStoreDone .verified) s =
    .next (State.finish { s with sense := s.sense.verified d slot (s.sense.gen + 1) } id (stOk, 0) (s.sense.gen + 1) (bit slot)).tryPending := by
  refine congrArg Host.Outcome.next ?_
  rw [State.storeDone, writing, ← s.commitStore_eq id d slot]
  rfl

theorem exec_calStoreDone_failedTwice : exec (.calStoreDone .failedTwice) s = .next (State.finish
    { s with sense := { s.sense with writing := none, deferred := false } } id (stCheckMismatch, det 3 0) 0 0).tryPending := by
  refine congrArg Host.Outcome.next ?_
  rw [State.storeDone, writing]
  rfl

theorem exec_calStoreDone_leftWindow : exec (.calStoreDone .leftWindow) s = .next (State.finish
    { s with sense := { s.sense with writing := none, pending := some d, deferred := true } } id (stThermalDefer, 0) 0 0).tryPending.tryPending := by
  refine congrArg Host.Outcome.next ?_
  rw [State.storeDone, writing]
  rfl

end Outcomes

/-- With nothing pending, no write begins. -/
theorem State.tryPending_none (s : State) (none_ : s.sense.pending = none) : s.tryPending = s := by
  rw [State.tryPending, none_]

end StoreDone

/-- Settles O39: the start by the board's window, the end by the outcome of the write, behind which a pending store may be tried. -/
theorem calibrationStores : Obligations.CalibrationStores := by
  intro s canon
  refine ⟨fun r d taken atOnce noAlmanac idle => ⟨fun inside => ?_, fun outside cold live => ?_⟩, fun id e d slot own writing => ⟨?_, ?_, ?_⟩⟩
  · have entered := s.admitNew_plain d
    have ran := exec_calStore canon taken atOnce noAlmanac
    rw [startStore_entered entered noAlmanac idle, if_pos inside] at ran
    exact ⟨_, ran, calStore_writes canon.ledger entered _⟩
  · have entered := s.admitNew_plain d
    have ran := exec_calStore canon taken atOnce noAlmanac
    rw [startStore_entered entered noAlmanac idle, if_neg (by simp [outside])] at ran
    exact ⟨_, ran, calStore_defers canon.ledger live cold entered _⟩
  · obtain rfl := State.id_of_entry own.here
    obtain ⟨done, sense⟩ := own.finish_sense (s.sense.verified d slot (s.sense.gen + 1)) (stOk, 0) (s.sense.gen + 1) (bit slot)
    have ran := exec_calStoreDone_verified writing
    rw [State.tryPending_none _ (by rw [sense]; rfl)] at ran
    refine ⟨_, ran, done, ?_⟩
    rw [State.flash, sense]
    cases slot <;> exact ⟨rfl, rfl, rfl, rfl, rfl, rfl⟩
  · obtain rfl := State.id_of_entry own.here
    obtain ⟨done, sense⟩ := own.finish_sense { s.sense with writing := none, deferred := false } (stCheckMismatch, det 3 0) 0 0
    have tried := State.tryPending_tried (State.finish
      { s with sense := { s.sense with writing := none, deferred := false } } e.id (stCheckMismatch, det 3 0) 0 0)
    exact ⟨_, exec_calStoreDone_failedTwice writing, tried.completed done, (congrArg Sense.gen tried.sense :).trans (congrArg Sense.gen sense :),
      (congrArg Sense.stored tried.sense :).trans (congrArg Sense.stored sense :)⟩
  · obtain rfl := State.id_of_entry own.here
    obtain ⟨done, sense⟩ := own.finish_sense { s.sense with writing := none, pending := some d, deferred := true } (stThermalDefer, 0) 0 0
    let t := State.finish { s with sense := { s.sense with writing := none, pending := some d, deferred := true } } e.id (stThermalDefer, 0) 0 0
    have tried : t.PendingTried t.tryPending.tryPending := t.tryPending_tried.trans t.tryPending.tryPending_tried
    exact ⟨_, exec_calStoreDone_leftWindow writing, tried.completed done,
      (congrArg Sense.pending tried.sense :).trans (congrArg Sense.pending sense :),
      (congrArg Sense.deferred tried.sense :).trans (congrArg Sense.deferred sense :),
      (congrArg Sense.gen tried.sense :).trans (congrArg Sense.gen sense :)⟩

end Sys2Proof.Machine

/-! The DRAM controller's refresh, self-refresh, retraining and retirement (O54). -/

namespace Sys2Proof.Machine

/-! ### One channel changes (R442 to R445) -/

section Channel

variable {s : State} {c bank : Fin 16}

theorem exec_mr4Poll (active : (s.chan c).phase = .active) (late : due (s.chan c).mr4At s.now = true) (mr4 : Byte) :
    let u := s.setChan c { s.chan c with mr4At := some (s.now + msTicks 4), refreshDouble := decide (11 ≤ mr4.toNat % 32) }
    exec (.mr4Poll c mr4) s = .next (if mr4.toNat % 32 = 31 then u.raise (err 2 0x0A 0x03 c mr4.toNat 0 0) else u) := by
  refine congrArg Host.Outcome.next ?_
  simp [State.pollMr4, active, late, mr4Above, mr4Doubles]

theorem exec_perBankRefresh (serves : (s.chan c).phase = .active ∨ (s.chan c).phase = .retiring) : exec (.perBankRefresh c bank) s =
    .next (s.setChan c { s.chan c with
      refresh := tabPut (s.chan c).refresh bank s.now, openRows := tabErase (s.chan c).openRows bank }) :=
  congrArg Host.Outcome.next (if_pos (by simpa [Chan.serves] using serves))

theorem exec_disturbanceHoldEnd {port : Fin 8} (late : due (tabFind (s.chan c).holds (bank.val * 8 + port.val)) s.now = true) :
    exec (.disturbanceHoldEnd c bank port) s =
      .next (s.setChan c { s.chan c with holds := tabErase (s.chan c).holds (bank.val * 8 + port.val) }) :=
  congrArg Host.Outcome.next (if_pos late)

/-- Filtering a table by its keys leaves the entries of the keys that pass. -/
theorem tabFind_filter_key {α : Type} (keep : Nat → Bool) (t : Tab α) (k : Nat) :
    tabFind (t.filter fun e => keep e.1) k = if keep k then tabFind t k else none := by
  induction t with
  | nil => simp [tabFind]
  | cons e t ih =>
    obtain ⟨a, v⟩ := e
    by_cases own : a = k
    · subst own
      cases pass : keep a <;> simp [pass, ih, tabFind]
    · cases pass : keep a <;> simp [pass, ih, tabFind, own]

/-- The counts of a bank restart; those of every other bank go on (R443). -/
theorem Chan.restart_acts (ch : Chan) (bank k : Nat) :
    tabGet 0 (ch.restart bank).acts k = if k / 2 ^ 21 = bank then 0 else tabGet 0 ch.acts k := by
  have kept : tabFind (ch.restart bank).acts k = _ := tabFind_filter_key (fun k => decide (k / 2 ^ 21 ≠ bank)) ch.acts k
  rw [tabGet, kept]
  by_cases own : k / 2 ^ 21 = bank
  · rw [if_neg (by simpa using own), if_pos own]
    rfl
  · rw [if_pos (by simpa using own), if_neg own]
    rfl

/-- State `t` is `s` but that channel `c` is `ch`, and registers of the block. -/
structure State.ChanIs (s t : State) (c : Nat) (ch : Chan) : Prop where
  own : t.chan c = ch
  others : ∀ k, k ≠ c → t.chan k = s.chan k
  frame : { t with chans := s.chans, regs := s.regs } = s

theorem State.ChanIs.refl (s : State) (c : Nat) : s.ChanIs s c (s.chan c) := ⟨rfl, fun _ _ => rfl, rfl⟩

theorem State.ChanIs.modChan {s t : State} {c : Nat} {ch : Chan} (h : s.ChanIs t c ch) (f : Chan → Chan) : s.ChanIs (t.modChan c f) c (f ch) :=
  ⟨(t.chan_modChan c f).trans (congrArg f h.own), fun k other => (t.chan_modChan_ne f other).trans (h.others k other), h.frame⟩

theorem State.ChanIs.put (s : State) (c : Nat) (ch : Chan) : s.ChanIs (s.setChan c ch) c ch :=
  ⟨s.chan_setChan c ch, (s.setChan_rest c ch).1, rfl⟩

theorem State.ChanIs.regsMoved {s t u : State} {c : Nat} {ch : Chan} (h : s.ChanIs t c ch) (k : t.RegsMoved u) : s.ChanIs u c ch := by
  obtain ⟨_, rfl⟩ := k
  exact ⟨h.own, h.others, h.frame⟩

theorem State.issueRfm_is (s : State) (c bank row : Nat) : ∃ holds, s.ChanIs (s.issueRfm c bank row) c
    { (s.chan c).restart bank with openRows := tabErase (s.chan c).openRows bank, holds := holds } := by
  exact ⟨_, ((State.ChanIs.put s c _).regsMoved (State.count_regsMoved _ _ _ _ _)).regsMoved (State.setField_regsMoved _ _ _ _ _)⟩

/-- The RFM commands of a row that has reached the limit as its bank's window ends (R443). -/
def State.windowRfm (s : State) (c bank : Nat) : State :=
  match ((s.chan c).acts.map fun e => e.1 / 8).find? fun k =>
      decide (k / 2 ^ 18 = bank) && decide (s.actLimit ≤ ((s.chan c).actsOf bank (k % 2 ^ 18)).sum) with
  | some k => if (s.chan c).serves then s.issueRfm c bank (k % 2 ^ 18) else s
  | none => s

theorem State.windowRfm_is (s : State) (c bank : Nat) : ∃ openRows holds acts,
    s.ChanIs (s.windowRfm c bank) c { s.chan c with openRows := openRows, holds := holds, acts := acts } ∧
      ∀ k, k / 2 ^ 21 ≠ bank → tabGet 0 acts k = tabGet 0 (s.chan c).acts k := by
  unfold State.windowRfm
  split
  · split
    · next k _ _ =>
      obtain ⟨holds, put⟩ := s.issueRfm_is c bank (k % 2 ^ 18)
      exact ⟨_, holds, _, put, fun k other => ((s.chan c).restart_acts bank k).trans (if_neg other)⟩
    · exact ⟨_, _, _, .refl s c, fun _ _ => rfl⟩
  · exact ⟨_, _, _, .refl s c, fun _ _ => rfl⟩

/-- The end of a window puts the bank's counts to zero and its next window in place, after RFM commands of a row that is due them. -/
theorem State.endWindow_is (late : due (tabFind (s.chan c).windows bank) s.now = true) : ∃ openRows holds acts,
    s.ChanIs (s.endWindow c bank) c { s.chan c with
      openRows := openRows, holds := holds, acts := acts
      windows := tabPut (s.chan c).windows bank (s.now + if (s.chan c).refreshDouble then msTicks 16 else msTicks 32) } ∧
    ∀ k : Nat, tabGet 0 acts k = if k / 2 ^ 21 = bank.val then 0 else tabGet 0 (s.chan c).acts k := by
  have unfolded : s.endWindow c bank = (s.windowRfm c bank).modChan c fun ch =>
      { ch.restart bank with windows := tabPut ch.windows bank ((s.windowRfm c bank).now + ch.window) } := if_pos late
  obtain ⟨openRows, holds, acts, put, other⟩ := s.windowRfm_is c bank
  have ends := put.modChan fun ch => { ch.restart bank with windows := tabPut ch.windows bank ((s.windowRfm c bank).now + ch.window) }
  rw [← unfolded, show (s.windowRfm c bank).now = s.now from (congrArg State.now put.frame :)] at ends
  refine ⟨openRows, holds, _, ends, fun k => ?_⟩
  rw [Chan.restart_acts]
  split
  · rfl
  · next apart => exact other k apart

theorem exec_refreshWindowEnd : exec (.refreshWindowEnd c bank) s = .next (s.endWindow c bank) := rfl

end Channel

/-! ### Self-refresh and retraining (R446 to R451) -/

section Phases

variable {s : State} {c : Fin 16}

theorem exec_selfRefreshEntry (active : (s.chan c).phase = .active) (empty : (s.chan c).queue = []) (free : (s.chan c).held = [])
    (idle : due (s.chan c).idleAt s.now = true) (enabled : s.field 0xA00C 31 31 = 1) (quiet : s.slicePending c = false) :
    exec (.selfRefreshEntry c) s = .next (s.setChan c { s.chan c with
      phase := .selfRefresh, openRows := [], srSince := some s.now, srTemp := s.phyTemp c, idleAt := none, exitFrom := none
      exitSlice := false }) :=
  congrArg Host.Outcome.next (if_pos ⟨active, empty, free, idle, enabled, by simp [quiet]⟩)

/-- Only the time from which a channel may go to sleep changes. -/
theorem State.idleFrom_setChan (s : State) (c : Nat) (ch : Chan) : ∃ idle, (s.setChan c ch).idleFrom c = s.setChan c { ch with idleAt := idle } := by
  unfold State.idleFrom
  extract_lets now_
  have own : now_ = ch := s.chan_setChan c ch
  split
  · exact ⟨some (s.now + s.srIdle), by rw [own, State.setChan_setChan]; rfl⟩
  · exact ⟨_, rfl⟩

/-- The channel as a retraining has adjusted its setting in place (R450). -/
def Chan.adjusted (ch : Chan) (temp : Int) (again now : Nat) : Chan :=
  { ch with trainTemp := temp, trainAt := some (now + again), sliceAt := some now }

theorem State.retrained_setChan (s : State) (c : Nat) (ch : Chan) (temp : Int) :
    (s.setChan c ch).retrained c temp = s.setChan c (ch.adjusted temp s.retrainEvery s.now) := State.modChan_setChan s c ch _

/-- A channel leaves self-refresh: active, and retrained if the exit takes a slice (R447). -/
def State.awake (s : State) (c : Nat) : Chan :=
  let ch := { s.chan c with phase := .active, srSince := none, exitFrom := none, exitSlice := false }
  if (s.chan c).exitSlice then ch.adjusted (s.phyTemp c) s.retrainEvery s.now else ch

theorem exec_selfRefreshExitDone (asleep : (s.chan c).phase = .selfRefresh) (late : due (s.chan c).exitFrom s.now = true)
    (live : s.halted = false) : ∃ idle, exec (.selfRefreshExitDone c) s = .next (s.setChan c { s.awake c with idleAt := idle }) := by
  have woken : s.exitSelfRefresh c = (s.setChan c (s.awake c)).idleFrom c := by
    unfold State.exitSelfRefresh State.awake
    rw [if_pos ⟨asleep, late, by simp [live]⟩]
    cases slice : (s.chan c).exitSlice with
    | true =>
      simp only [if_true]
      rw [State.retrained_setChan]
      rfl
    | false => rfl
  obtain ⟨idle, left⟩ := s.idleFrom_setChan c (s.awake c)
  exact ⟨idle, congrArg Host.Outcome.next (woken.trans left)⟩

theorem exec_periodicRetrainSlice (active : (s.chan c).phase = .active) (apart : ∀ x, (s.chan c).sliceAt = some x → x + usTicks 50 ≤ s.now)
    (temp : Int) (low : Bool) : exec (.periodicRetrainSlice c temp low) s =
      .next (if low then (s.retrained c temp).startRecovery c else s.retrained c temp) := by
  refine congrArg Host.Outcome.next ?_
  have far : (match (s.chan c).sliceAt with | some t => decide (t + usTicks 50 ≤ s.now) | none => true) = true := by
    split
    · next x at_ => exact decide_eq_true (apart x at_)
    · rfl
  refine if_pos ?_
  rw [active, decide_eq_true rfl, Bool.true_and]
  exact far

/-- A recovery that has found a setting ends on an active channel (R451). -/
theorem exec_recoveryRetrainDone_found (recovers : (s.chan c).phase = .recovery) (temp : Int) : ∃ idle,
    exec (.recoveryRetrainDone c temp true) s = .next (s.setChan c { (Chan.adjusted
      { s.chan c with phase := .active, recoveredAt := some s.now } temp s.retrainEvery s.now) with idleAt := idle }) := by
  obtain ⟨idle, left⟩ := s.idleFrom_setChan c (Chan.adjusted { s.chan c with phase := .active, recoveredAt := some s.now } temp
    s.retrainEvery s.now)
  refine ⟨idle, congrArg Host.Outcome.next (Eq.trans ?_ left)⟩
  rw [State.recovered, if_neg (not_not.2 recovers), if_pos rfl, ← State.retrained_setChan]
  rfl

/-- The channel that leaves service, and the Harbourmaster's books without it (R142, R453). -/
def State.retiring (s : State) (c : Nat) : State :=
  { s.setChan c { s.chan c with phase := .retiring, badReads := [], idleAt := none } with
    harb := { s.harb with retired := s.harb.retired ||| 2 ^ c, capacity := s.harb.capacity - s.chanTiles } }

theorem State.retireChan_eq (s : State) (c : Nat) : s.retireChan c =
    let mask := s.harb.retired ||| 2 ^ c
    let u := (s.retiring c).raise (err 2 0x0A 0x04 c mask 0 0)
    if 5 ≤ u.retiredCount then u.raise (err 3 0x0A 0x05 c mask 0 0)
    else { u with harb := { u.harb with relocating := u.harb.relocating ++ [c] } } := rfl

theorem exec_recoveryRetrainDone_lost (recovers : (s.chan c).phase = .recovery) (temp : Int) :
    exec (.recoveryRetrainDone c temp false) s = .next (s.retireChan c) := by
  refine congrArg Host.Outcome.next ?_
  rw [State.recovered, if_neg (not_not.2 recovers), if_neg (by decide)]

theorem State.Raising.harb {s t : State} (h : s.Raising t) : t.harb = s.harb := (congrArg State.harb h.frame :)

/-- Retirement keeps its books, and with fewer than five retired channels the relocation begins. -/
theorem State.retireChan_books (s : State) (c : Nat) :
    (s.retireChan c).harb.retired = s.harb.retired ||| 2 ^ c ∧ (s.retireChan c).harb.capacity = s.harb.capacity - s.chanTiles ∧
    (((List.range 16).filter fun k => (s.harb.retired ||| 2 ^ c) / 2 ^ k % 2 = 1).length < 5 →
      ((s.retireChan c).chan c).phase = .retiring ∧ (s.retireChan c).harb.relocating = s.harb.relocating ++ [c] ∧
        ∀ k, k ≠ c → (s.retireChan c).chan k = s.chan k) := by
  rw [s.retireChan_eq c]
  dsimp only
  rw [State.raise_of_mild _ (by simp [err])]
  split
  · next five =>
    have kept := ((s.retiring c).raiseCore false (err 2 0x0A 0x04 c (s.harb.retired ||| 2 ^ c) 0 0)).raise_raising
      (err 3 0x0A 0x05 c (s.harb.retired ||| 2 ^ c) 0 0)
    rw [kept.harb]
    exact ⟨rfl, rfl, fun few => absurd few (Nat.not_lt.2 five)⟩
  · exact ⟨rfl, rfl, fun _ => ⟨congrArg Chan.phase (s.chan_setChan c _), rfl, fun k other => s.chan_setChan_ne _ other⟩⟩

end Phases

/-! ### The counters of the block (R454) -/

/-- The words of a channel's counters cleared. -/
def State.clearChanRegs (c : Nat) (s : State) : State :=
  ((s.setReg (dramBase c + 4) 0).setReg (dramBase c + 8) 0).setField (dramBase c + 0xC) 31 16 0

/-- The counters of the channels below `n` read zero. -/
structure State.DramCleared (s : State) (n : Nat) (t : State) : Prop where
  moved  : s.RegsMoved t
  sorted : tabSorted t.regs
  zero   : ∀ k, k < n → t.reg (0xA104 + 0x10 * k) = 0 ∧ t.reg (0xA108 + 0x10 * k) = 0 ∧ t.field (0xA10C + 0x10 * k) 31 16 = 0

theorem dramBase_words (k : Nat) : 0xA104 + 0x10 * k = dramBase k + 4 ∧ 0xA108 + 0x10 * k = dramBase k + 8 ∧
    0xA10C + 0x10 * k = dramBase k + 0xC := by
  simp only [dramBase]
  omega

theorem State.clearChanRegs_sorted {s : State} (sorted : tabSorted s.regs) (c : Nat) :
    tabSorted ((s.setReg (dramBase c + 4) 0).setReg (dramBase c + 8) 0).regs := by
  have first : tabSorted (s.setReg (dramBase c + 4) 0).regs := tabSorted_set sorted _ _ _
  exact tabSorted_set first _ _ _

theorem State.clearChanRegs_own {s : State} (sorted : tabSorted s.regs) (c : Nat) : (s.clearChanRegs c).reg (dramBase c + 4) = 0 ∧
    (s.clearChanRegs c).reg (dramBase c + 8) = 0 ∧ (s.clearChanRegs c).field (dramBase c + 0xC) 31 16 = 0 := by
  have first : tabSorted (s.setReg (dramBase c + 4) 0).regs := tabSorted_set sorted _ _ _
  refine ⟨?_, ?_, ?_⟩
  · rw [State.clearChanRegs, State.reg_setField_ne _ _ _ _ (by omega), State.reg_setReg_ne _ _ (by omega), State.reg_setReg sorted]
    rfl
  · rw [State.clearChanRegs, State.reg_setField_ne _ _ _ _ (by omega), State.reg_setReg first]
    rfl
  · rw [State.clearChanRegs, State.field_setField (State.clearChanRegs_sorted sorted c) _ (by decide) (by decide)]
    rfl

theorem State.clearChanRegs_other (s : State) {c o : Nat} (one : o ≠ dramBase c + 4) (two : o ≠ dramBase c + 8) (three : o ≠ dramBase c + 0xC) :
    (s.clearChanRegs c).reg o = s.reg o := by
  rw [State.clearChanRegs, State.reg_setField_ne _ _ _ _ three, State.reg_setReg_ne _ _ two, State.reg_setReg_ne _ _ one]

theorem State.DramCleared.next {s t : State} {n : Nat} (h : s.DramCleared n t) : s.DramCleared (n + 1) (t.clearChanRegs n) := by
  refine ⟨((h.moved.setReg _ _).setReg _ _).setField _ _ _ _, tabSorted_set (State.clearChanRegs_sorted h.sorted n) _ _ _, fun k below => ?_⟩
  obtain ⟨corrected, latency, holds⟩ := dramBase_words k
  by_cases last : k = n
  · rw [corrected, latency, holds, last]
    exact State.clearChanRegs_own h.sorted n
  · have kept : ∀ i, i = 4 ∨ i = 8 ∨ i = 0xC → (t.clearChanRegs n).reg (dramBase k + i) = t.reg (dramBase k + i) := fun i word =>
      t.clearChanRegs_other (by simp only [dramBase]; omega) (by simp only [dramBase]; omega) (by simp only [dramBase]; omega)
    have zero := h.zero k (by omega)
    rw [corrected, latency, holds] at zero ⊢
    rwa [kept 4 (by simp), kept 8 (by simp), State.field, kept 0xC (by simp)]

theorem State.forN_dramCleared {s : State} (sorted : tabSorted s.regs) (n : Nat) : s.DramCleared n (forN n State.clearChanRegs s) := by
  induction n with
  | zero => exact ⟨.refl s, sorted, nofun⟩
  | succ n ih => exact forN_succ n State.clearChanRegs s ▸ ih.next

theorem exec_dramClearStats {s : State} (runs : s.power.boot ≠ .inReset) : exec .dramClearStats s =
    .next { forN 16 State.clearChanRegs s with
      chans := tabMap (fun _ ch => { ch with recoveries := 0, ebbs := 0 }) (forN 16 State.clearChanRegs s).chans } :=
  if_pos (State.running_eq_true runs)

theorem tabGet_map {α : Type} (d : α) {f : α → α} (fixes : f d = d) (t : Tab α) (k : Nat) :
    tabGet d (tabMap (fun _ x => f x) t) k = f (tabGet d t k) := by
  rw [tabGet, tabFind_map, tabGet]
  cases tabFind t k with
  | none => exact fixes.symm
  | some x => rfl

/-- Settles O54: each command by the channel that it puts in place; the clearing by induction on the channels. -/
theorem dramRefreshAndPhases : Obligations.DramRefreshAndPhases := by
  refine ⟨fun c bank s canon => ⟨fun mr4 active late => ?_, fun serves => ?_, fun late => ?_, fun port sorted late => ?_⟩,
    fun c s canon => ⟨fun active empty free idle enabled quiet => ?_, fun asleep late live => ?_, fun temp active apart => ⟨?_, ?_⟩,
      fun temp recovers => ⟨?_, ?_⟩, fun runs => ?_⟩⟩
  · exact ⟨_, exec_mr4Poll active late mr4, s.chan_setChan _ _, s.setChan_rest _ _⟩
  · refine ⟨_, exec_perBankRefresh serves, ?_, fun sorted => ?_, s.setChan_rest _ _⟩
    · rw [State.chan_setChan]
      exact tabFind_put _ _ _
    · rw [State.chan_setChan]
      exact tabFind_erase sorted _
  · obtain ⟨openRows, holds, acts, put, counts⟩ := State.endWindow_is late
    refine ⟨_, exec_refreshWindowEnd, ?_, fun row port small low => ?_, fun k other => ?_, put.others, put.frame⟩
    · rw [put.own]
      exact tabFind_put _ _ _
    · rw [put.own]
      exact (counts _).trans (if_pos (by omega))
    · rw [put.own]
      exact (counts k).trans (if_neg other)
  · refine ⟨_, exec_disturbanceHoldEnd late, ?_, fun k other => ?_, s.setChan_rest _ _⟩
    · rw [State.chan_setChan]
      exact tabFind_erase sorted _
    · rw [State.chan_setChan]
      exact tabFind_erase_ne _ other
  · exact ⟨_, exec_selfRefreshEntry active empty free idle enabled quiet, s.setChan_rest _ _, s.chan_setChan _ _⟩
  · obtain ⟨idle, ran⟩ := exec_selfRefreshExitDone asleep late live
    refine ⟨_, ran, s.setChan_rest _ _, ?_⟩
    rw [State.chan_setChan, State.awake]
    cases slice : (s.chan c).exitSlice with
    | true => exact ⟨rfl, rfl, rfl, rfl, fun _ => ⟨rfl, rfl⟩⟩
    | false => exact ⟨rfl, rfl, rfl, rfl, nofun⟩
  · exact ⟨_, exec_periodicRetrainSlice active apart temp false, s.setChan_rest _ _, s.chan_setChan _ _⟩
  · refine ⟨_, exec_periodicRetrainSlice active apart temp true, ?_⟩
    have low : (s.retrained c temp).startRecovery c = s.setChan c { (s.chan c).adjusted temp s.retrainEvery s.now with
        phase := .recovery, recoveries := satNat ((s.chan c).recoveries + 1) 0xFFFF, badReads := [], idleAt := none, openRows := [] } :=
      State.modChan_setChan s c _ _
    rw [if_pos rfl, low, State.chan_setChan]
    exact ⟨s.setChan_rest _ _, rfl, rfl⟩
  · obtain ⟨idle, ran⟩ := exec_recoveryRetrainDone_found recovers temp
    refine ⟨_, ran, s.setChan_rest _ _, ?_⟩
    rw [State.chan_setChan]
    exact ⟨rfl, rfl, rfl⟩
  · obtain ⟨retired, capacity, few⟩ := s.retireChan_books c
    exact ⟨_, exec_recoveryRetrainDone_lost recovers temp, retired, capacity, few⟩
  · have cleared := State.forN_dramCleared canon.regs.1 16
    have ran := exec_dramClearStats runs
    generalize forN 16 State.clearChanRegs s = u at cleared ran
    obtain ⟨⟨regs, rfl⟩, -, zero⟩ := cleared
    exact ⟨_, ran, tabGet_map Chan.reset (f := fun ch => { ch with recoveries := 0, ebbs := 0 }) rfl s.chans, zero, rfl⟩

end Sys2Proof.Machine

/-! Sensor samples, the throttle level, the trips and the supply alarms (O55). -/

namespace Sys2Proof.Machine

/-! ### What a report leaves as it is -/

/-- State `t` is `s` but for what is raised and the registers that tell of it: 0x9010 and the ray map's status words. -/
structure State.Reported (s t : State) : Prop where
  frame : { t with regs := s.regs, flt := s.flt } = s
  words : ∀ o, o ≠ 0x9010 → (∀ p, p < 4 → o ≠ 0x442C + 0x80 * p) → t.reg o = s.reg o

theorem State.Reported.refl (s : State) : s.Reported s := ⟨rfl, fun _ _ _ => rfl⟩

theorem State.Reported.trans {s t u : State} (h : s.Reported t) (k : t.Reported u) : s.Reported u :=
  ⟨(congrArg (fun x : State => { x with regs := s.regs, flt := s.flt }) k.frame).trans h.frame,
    fun o sense ray => (k.words o sense ray).trans (h.words o sense ray)⟩

theorem State.raise_reported (s : State) {e : ErrRec} (mild : e.sev ≠ 3) : s.Reported (s.raise e) := by
  rw [State.raise_of_mild _ mild]
  exact ⟨rfl, fun _ _ _ => rfl⟩

theorem State.setBit_sense_reported (s : State) (b : Nat) : s.Reported (s.setBit 0x9010 b) :=
  ⟨rfl, fun _ sense _ => s.reg_setBit_ne b sense⟩

theorem State.setBit_ray_reported (s : State) {p : Nat} (port : p < 4) (b : Nat) : s.Reported (s.setBit (0x442C + 0x80 * p) b) :=
  ⟨rfl, fun _ _ ray => s.reg_setBit_ne b (ray p port)⟩

theorem State.sensorFailed_reported (s : State) (inst : Nat) (v : Int) : s.Reported (s.sensorFailed inst v) :=
  (s.setBit_sense_reported 2).trans (State.raise_reported _ (by simp [err]))

theorem State.Reported.sense {s t : State} (h : s.Reported t) : t.sense = s.sense := (congrArg State.sense h.frame :)

theorem State.Reported.port {s t : State} (h : s.Reported t) (p : Nat) : t.port p = s.port p :=
  State.port_of_ports (congrArg State.ports h.frame :) p

/-! ### The throttle level (R485, R487) -/

section Level

variable {s t : State}

theorem State.die_of_dies (same : t.sense.dies = s.sense.dies) : t.die = s.die := by
  funext k
  rw [State.die, same, State.die]

theorem State.hottest_of_dies (same : t.sense.dies = s.sense.dies) : t.hottest = s.hottest := by
  have dies := State.die_of_dies same
  have value : t.dieValue = s.dieValue := by
    funext k
    simp only [State.dieValue, State.workingValues, dies]
  simp only [State.hottest, State.sampledDies, dies, value]

/-- What decides the level at a sample. -/
structure State.SameHeat (s t : State) : Prop where
  dies : t.sense.dies = s.sense.dies
  level : t.sense.level = s.sense.level
  changed : t.sense.changed = s.sense.changed
  now : t.now = s.now
  thresholds : t.reg 0x9004 = s.reg 0x9004

theorem State.SameHeat.nextLevel (h : s.SameHeat t) : t.nextLevel = s.nextLevel := by
  have dies := State.die_of_dies h.dies
  have value : t.dieValue = s.dieValue := by
    funext k
    simp only [State.dieValue, State.workingValues, dies]
  have hot := State.hottest_of_dies h.dies
  have threshold : t.threshold = s.threshold := by
    funext k
    simp only [State.threshold, State.field, h.thresholds]
  have cools : t.mayCool = s.mayCool := by
    simp only [State.mayCool, State.hotSubstituted, State.sampledDies, hot, threshold, dies, value, h.level, h.changed, h.now]
  simp only [State.nextLevel, State.diesWorking, State.diesFailed, State.levelFor, cools, hot, threshold, dies, h.level]
  rfl

theorem State.Reported.sameHeat (h : s.Reported t) : s.SameHeat t :=
  ⟨congrArg Sense.dies h.sense, congrArg Sense.level h.sense, congrArg Sense.changed h.sense, (congrArg State.now h.frame :),
    h.words 0x9004 (by decide) fun p _ => by omega⟩

end Level

/-- The warnings of T4 are reports. -/
theorem State.warnT4_reported (s : State) (p : Nat) : s.Reported (s.warnT4 p) := by
  unfold State.warnT4
  dsimp only
  split
  · exact s.raise_reported (by simp [err])
  · exact .refl s

theorem State.warnAll_reported (s : State) : s.Reported (forN 4 (fun p t => t.warnT4 p) (s.setBit 0x9010 1)) :=
  (s.setBit_sense_reported 1).trans
    (List.foldlRecOn (motive := (s.setBit 0x9010 1).Reported) _ _ (.refl _) fun t h p _ => h.trans (t.warnT4_reported p))

/-- The sensing data but for the level and the ebb slots. -/
def Sense.unlevelled (x : Sense) : Sense := { x with level := 0, changed := none, ebbs := [] }

/-- The level is in force, and of the sensing data only when it changed and the ebb slots may have changed beside it. -/
theorem State.setLevel_sense (s : State) (l : Nat) :
    (s.setLevel l).sense.level = l ∧ (s.setLevel l).sense.unlevelled = s.sense.unlevelled := by
  unfold State.setLevel
  split
  · next same => exact ⟨same.symm, rfl⟩
  · extract_lets old slowed told
    have levelled : slowed.sense.level = l ∧ slowed.sense.unlevelled = s.sense.unlevelled := ⟨rfl, rfl⟩
    have heard : slowed.Reported told := slowed.raise_reported (by simp [err])
    split
    · rw [(heard.trans told.warnAll_reported).sense]
      exact levelled
    · rw [heard.sense]
      exact levelled

/-- At a sample the level and the hottest value follow from the readings (R485, R487). -/
theorem State.rethrottle_sense (s : State) : s.rethrottle.sense.level = s.nextLevel ∧ s.rethrottle.sense.hottest = s.hottest ∧
    s.rethrottle.sense.dies = s.sense.dies ∧ s.rethrottle.sense.tripped = s.sense.tripped := by
  unfold State.rethrottle
  extract_lets few told noted
  have heard : s.Reported told := by
    unfold told
    split
    · exact s.raise_reported (by simp [err])
    · exact .refl s
  have heat : s.SameHeat noted := by
    obtain ⟨dies, level, changed, now, thresholds⟩ := heard.sameHeat
    exact ⟨dies, level, changed, now, thresholds⟩
  have hot : noted.sense.hottest = told.hottest := rfl
  have mark : noted.sense.tripped = told.sense.tripped := rfl
  clear_value noted
  obtain ⟨level, rest⟩ := noted.setLevel_sense noted.nextLevel
  exact ⟨level.trans heat.nextLevel,
    (congrArg Sense.hottest rest :).trans (hot.trans (State.hottest_of_dies (congrArg Sense.dies heard.sense))),
    (congrArg Sense.dies rest :).trans heat.dies, (congrArg Sense.tripped rest :).trans (mark.trans (congrArg Sense.tripped heard.sense))⟩

/-! ### The thermal trip (R491) -/

theorem State.enterFatal_hold (s : State) : s.enterFatal.flt.fatalHold = true := by
  cases fatal : s.flt.fatalHold with
  | true => rw [State.enterFatal_held fatal, fatal]
  | false => exact (State.enterFatal_entered fatal).hold

theorem State.trip_tripped {s : State} (inst : Nat) (tripped : s.sense.tripped = true) : s.trip inst = s := if_pos tripped

/-- A trip sets THERM_TRIP_N and the fatal state; of the sensing data it changes nothing but its own mark. -/
theorem State.trip_sets {s : State} (inst : Nat) (cool : s.sense.tripped = false) : (s.trip inst).sense = { s.sense with tripped := true } ∧
    (s.trip inst).power.thermTrip = true ∧ (s.trip inst).flt.fatalHold = true := by
  unfold State.trip
  rw [if_neg (by simp [cool])]
  extract_lets marked power shown raised
  have kept : shown.Raising raised := shown.raise_raising _
  refine ⟨(congrArg State.sense kept.frame :), congrArg Power.thermTrip kept.power, ?_⟩
  change raised.flt.fatalHold = true
  unfold raised
  rw [State.raise_fatal _ (by simp [err])]
  exact State.enterFatal_hold _

theorem State.trip_sense (s : State) (inst : Nat) : (s.trip inst).sense = { s.sense with tripped := true } := by
  cases tripped : s.sense.tripped with
  | true => rw [State.trip_tripped inst tripped, ← tripped]
  | false => exact (State.trip_sets inst tripped).1

/-! ### A die sensor's sample (R482 to R491) -/

section Die

variable {s : State} {k : Nat} {v : Int}

/-- The sensor as its sample leaves it, before its period is chosen anew. -/
def State.judgedDie (s : State) (k : Nat) (v : Int) : Die :=
  let d := s.readDie k v
  let j := judge (s.die k).failed (outOfSpan v || s.stuck k d || decide (3 ≤ d.disagree)) d.goodSince s.now
  { d with failed := j.1, goodSince := j.2, hot := if j.1 then 0 else d.hot }

/-- The state with the sensor's sample kept. -/
def State.sampledDie (s : State) (k : Nat) (v : Int) : State :=
  let t := s.setDie k (s.judgedDie k v)
  t.setDie k { t.die k with
    period := periodOf (t.dieValue k) [t.threshold 1, t.threshold 2, t.threshold 3, t.threshold 4, 128 * 256] }

theorem State.sampleDie_eq (s : State) (k : Nat) (v : Int) : s.sampleDie k v =
    let t := s.sampledDie k v
    let u := if (s.judgedDie k v).failed && !(s.die k).failed then t.sensorFailed k v else t
    if 2 ≤ (u.rethrottle.die k).hot then u.rethrottle.trip k else u.rethrottle := rfl

theorem State.die_setDie (s : State) (k : Nat) (d : Die) : (s.setDie k d).die k = d := by
  simp [State.die, State.setDie, State.modSense, tabGet, tabFind_put]

theorem State.die_setDie_ne (s : State) {k j : Nat} (d : Die) (other : j ≠ k) : (s.setDie k d).die j = s.die j := by
  simp [State.die, State.setDie, State.modSense, tabGet, tabFind_put_ne _ _ other]

/-- A second reading of 128 °C running of a sensor that has not failed (R491). -/
theorem State.judgedDie_hot (hot : 128 * 256 ≤ v) (once : 1 ≤ (s.die k).hot) (sound : (s.judgedDie k v).failed = false) :
    2 ≤ (s.judgedDie k v).hot := by
  have read : (s.readDie k v).hot = (s.die k).hot + 1 := if_pos hot
  have kept : (s.judgedDie k v).hot = if (s.judgedDie k v).failed then 0 else (s.readDie k v).hot := rfl
  rw [kept, if_neg (by simp [sound]), read]
  omega

theorem State.sampledDie_own (s : State) (k : Nat) (v : Int) : ∃ period, (s.sampledDie k v).die k = { s.judgedDie k v with period := period } := by
  unfold State.sampledDie
  dsimp only
  rw [State.die_setDie, State.die_setDie]
  exact ⟨_, rfl⟩

theorem State.sampledDie_ne (s : State) {k j : Nat} (v : Int) (other : j ≠ k) : (s.sampledDie k v).die j = s.die j :=
  (State.die_setDie_ne _ _ other).trans (State.die_setDie_ne _ _ other)

/-- A sample of a die sensor: its reading is kept, the level follows, and two hot readings running trip the device. -/
theorem State.sampleDie_sense (s : State) (k : Nat) (v : Int) : let t := s.sampledDie k v
    (s.sampleDie k v).sense.dies = t.sense.dies ∧ (s.sampleDie k v).sense.level = t.nextLevel ∧
    (s.sampleDie k v).sense.hottest = t.hottest ∧ (2 ≤ (t.die k).hot → (s.sampleDie k v).sense.tripped = true) := by
  intro t
  rw [s.sampleDie_eq k v]
  extract_lets u
  have heard : t.Reported u := by
    unfold u
    split
    · exact t.sensorFailed_reported k v
    · exact .refl t
  clear_value u t
  obtain ⟨level, hottest, dies, -⟩ := u.rethrottle_sense
  have same := dies.trans (congrArg Sense.dies heard.sense)
  have hot := State.hottest_of_dies (congrArg Sense.dies heard.sense)
  rw [heard.sameHeat.nextLevel] at level
  rw [show u.rethrottle.die k = t.die k from congrFun (State.die_of_dies same) k]
  split
  · rw [State.trip_sense]
    exact ⟨same, level, hottest.trans hot, fun _ => rfl⟩
  · next cool => exact ⟨same, level, hottest.trans hot, fun two => absurd two cool⟩

end Die

/-! ### A remote diode's sample (R249, R481, R486) -/

section Diode

variable {s t : State} {n p : Nat}

theorem State.diode_of_sense (same : t.sense = s.sense) : t.diode = s.diode := by
  funext n
  rw [State.diode, same, State.diode]

theorem State.goodDiodes_of_sense (same : t.sense = s.sense) : t.goodDiodes = s.goodDiodes := by
  funext w
  simp only [State.goodDiodes, State.weighted, State.diode_of_sense same]

theorem State.lensMean_of_sense (same : t.sense = s.sense) (words : ∀ o, o ≠ 0x9010 → (∀ p, p < 4 → o ≠ 0x442C + 0x80 * p) → t.reg o = s.reg o) :
    t.lensMean = s.lensMean := by
  have ideality : t.ideality = s.ideality := by
    funext n
    rw [State.ideality, State.field, words _ (by omega) fun p low => by omega, State.ideality, State.field]
  funext w
  simp only [State.lensMean, State.goodDiodes_of_sense same, State.diode_of_sense same, ideality]

/-- What a reading of a diode does to the ports below `m`, one after the other (R249). -/
structure State.LensTaken (s : State) (n m : Nat) (t : State) : Prop where
  sense : t.sense = s.sense
  words : ∀ o, o ≠ 0x9010 → (∀ p, p < 4 → o ≠ 0x442C + 0x80 * p) → t.reg o = s.reg o
  gangs : ∀ q, (t.port q).gang = (s.port q).gang
  later : ∀ q, m ≤ q → t.port q = s.port q
  quiet : ∀ q, q < m → weightOf (s.port q).ray.weights n = 0 → t.port q = s.port q
  mean  : ∀ q, q < m → s.follower q = false → weightOf (s.port q).ray.weights n ≠ 0 → (s.port q).ray.held = none →
    s.goodDiodes (s.port q).ray.weights ≠ [] → (t.port q).ray.theta = s.lensMean (s.port q).ray.weights

theorem State.follower_of_gangs (same : ∀ q, (t.port q).gang = (s.port q).gang) (p : Nat) : t.follower p = s.follower p := by
  simp only [State.follower, State.lead, same]
  rfl

/-- The port with the lens temperature of a reading that it weighs. -/
def State.lensTold (s : State) (p : Nat) : State :=
  let r := (s.port p).ray
  let lost := decide (s.goodDiodes r.weights = [])
  s.modPort p fun q => { q with ray := { q.ray with
    theta := if lost ∨ r.held.isSome then r.theta else s.lensMean r.weights, diodeLost := lost } }

theorem State.lensUpdate_eq (s : State) (p n : Nat) : s.lensUpdate p n =
    if weightOf (s.port p).ray.weights n = 0 ∨ s.follower p then s
    else if decide (s.goodDiodes (s.port p).ray.weights = []) && !(s.port p).ray.diodeLost then
      ((s.lensTold p).setBit (0x442C + 0x80 * p) 2).raise (err 2 0x04 0x04 (instP p 0) 0 0 0)
    else s.lensTold p := rfl

theorem State.lensUpdate_quiet (other : weightOf (s.port p).ray.weights n = 0 ∨ s.follower p = true) : s.lensUpdate p n = s := if_pos other

/-- A port that weighs the channel takes the reading; that no channel of it is left is a report. -/
theorem State.lensUpdate_weighs (port : p < 4) (weighs : ¬(weightOf (s.port p).ray.weights n = 0 ∨ s.follower p = true)) :
    (s.lensTold p).Reported (s.lensUpdate p n) := by
  rw [State.lensUpdate_eq, if_neg weighs]
  split
  · exact (State.setBit_ray_reported _ port 2).trans (State.raise_reported _ (by simp [err]))
  · exact .refl _

theorem State.lensTold_others (s : State) {q : Nat} (other : q ≠ p) : (s.lensTold p).port q = s.port q := s.port_modPort_ne _ other

theorem State.lensTold_own (s : State) (p : Nat) : (s.lensTold p).port p = { s.port p with ray := { (s.port p).ray with
    theta := if decide (s.goodDiodes (s.port p).ray.weights = []) ∨ (s.port p).ray.held.isSome then (s.port p).ray.theta
      else s.lensMean (s.port p).ray.weights
    diodeLost := decide (s.goodDiodes (s.port p).ray.weights = []) } } := s.port_modPort p _

theorem State.LensTaken.next {m : Nat} (low : m < 4) (h : s.LensTaken n m t) : s.LensTaken n (m + 1) (t.lensUpdate m n) := by
  have own := h.later m (Nat.le_refl m)
  by_cases other : weightOf (t.port m).ray.weights n = 0 ∨ t.follower m = true
  · rw [State.lensUpdate_quiet other]
    refine ⟨h.sense, h.words, h.gangs, fun q above => h.later q (by omega), fun q below none_ => ?_, fun q below leads weighs => ?_⟩
    · by_cases last : q = m
      · exact last ▸ own
      · exact h.quiet q (by omega) none_
    · by_cases last : q = m
      · subst last
        rw [own, State.follower_of_gangs h.gangs, leads] at other
        exact absurd other (by simp [weighs])
      · exact h.mean q (by omega) leads weighs
  · have told := State.lensUpdate_weighs low other
    have apart : ∀ q, q ≠ m → (t.lensUpdate m n).port q = t.port q := fun q away => (told.port q).trans (t.lensTold_others away)
    have taken := (told.port m).trans (t.lensTold_own m)
    refine ⟨told.sense.trans h.sense, fun o sense ray => (told.words o sense ray).trans (h.words o sense ray),
      fun q => ?_, fun q above => (apart q (by omega)).trans (h.later q (by omega)),
      fun q below none_ => ?_, fun q below leads weighs free left => ?_⟩
    · by_cases last : q = m
      · rw [last, taken, own]
      · rw [apart q last, h.gangs]
    · by_cases last : q = m
      · subst last
        exact absurd (.inl (own ▸ none_)) other
      · rw [apart q last]
        exact h.quiet q (by omega) none_
    · by_cases last : q = m
      · subst last
        rw [taken, own, State.goodDiodes_of_sense h.sense, State.lensMean_of_sense h.sense h.words]
        simp [left, free]
      · rw [apart q last]
        exact h.mean q (by omega) leads weighs free left

theorem State.forN_lensTaken (s : State) (n m : Nat) (low : m ≤ 4) : s.LensTaken n m (forN m (fun p t => t.lensUpdate p n) s) := by
  induction m with
  | zero => exact ⟨rfl, fun _ _ _ => rfl, fun _ => rfl, fun _ _ => rfl, nofun, nofun⟩
  | succ m ih => exact forN_succ m (fun p (t : State) => t.lensUpdate p n) s ▸ (ih (by omega)).next (by omega)

/-- A diode as a measurement leaves it. -/
def State.takenDiode (s : State) (n dv : Nat) : Diode := (s.diode n).take dv (diodeTemp dv (s.ideality n)) s.now

/-- The state with the measurement kept, before the ports look at it. -/
def State.diodeKept (s : State) (n dv : Nat) : State :=
  { s with sense := { s.sense with diodes := tabPut s.sense.diodes n (s.takenDiode n dv) } }

theorem State.sampleDiode_eq (free : s.measuring n = false) (dv : Nat) : ∃ u, (s.diodeKept n dv).Reported u ∧
    s.sampleDiode n dv = forN 4 (fun p t => t.lensUpdate p n) u := by
  have unfolded : s.sampleDiode n dv = forN 4 (fun p t => t.lensUpdate p n)
      (if (s.takenDiode n dv).failed && !(s.diode n).failed then (s.diodeKept n dv).sensorFailed (32 + n) (s.takenDiode n dv).value
        else s.diodeKept n dv) := if_neg (by simp [free])
  refine ⟨_, ?_, unfolded⟩
  split
  · exact (s.diodeKept n dv).sensorFailed_reported _ _
  · exact .refl _

theorem State.diodeKept_diode (s : State) (n dv m : Nat) : (s.diodeKept n dv).diode m = if m = n then s.takenDiode n dv else s.diode m := by
  by_cases own : m = n
  · subst own
    simp [State.diode, State.diodeKept, tabGet, tabFind_put]
  · simp [State.diode, State.diodeKept, tabGet, tabFind_put_ne _ _ own, own]

end Diode

/-! ### The board sensor and the Assayer's inputs (R481, R492 to R494, R504) -/

section Inputs

variable {s : State}

/-- The board sensor as a sample leaves it (R481, R504). -/
def State.takenBoard (s : State) (dv : Nat) : Diode :=
  let b := s.sense.board.take dv (boardTemp dv) s.now
  { b with period := periodOf b.value [0, 85 * 256] }

/-- The state with the sample kept: calm samples running are counted. -/
def State.boardKept (s : State) (dv : Nat) : State :=
  let b := s.takenBoard dv
  let calm := !b.failed && decide (2 * 256 ≤ b.value) && decide (b.value ≤ 83 * 256)
  { s with sense := { s.sense with board := b, boardRun := if calm then min 10 (s.sense.boardRun + 1) else 0 } }

theorem State.sampleBoard_sense (none_ : s.sense.pending = none) (dv : Nat) : (s.sampleBoard dv).sense = (s.boardKept dv).sense := by
  have unfolded : s.sampleBoard dv = (if (s.takenBoard dv).failed && !s.sense.board.failed then
      (s.boardKept dv).sensorFailed 48 (s.takenBoard dv).value else s.boardKept dv).tryPending := rfl
  have heard : (s.boardKept dv).Reported (if (s.takenBoard dv).failed && !s.sense.board.failed then
      (s.boardKept dv).sensorFailed 48 (s.takenBoard dv).value else s.boardKept dv) := by
    split
    · exact (s.boardKept dv).sensorFailed_reported _ _
    · exact .refl _
  rw [unfolded, State.tryPending_none _ ((congrArg Sense.pending heard.sense).trans none_), heard.sense]

/-- An input as a sample leaves it (R493, R494, R499). -/
def State.takenAin (s : State) (n raw : Nat) : Ain :=
  let a := tabGet Ain.reset s.sense.ains n
  let code := s.corrected (8 + n) raw
  let out := decide (4 ≤ n) && s.supplyOut (n - 4) code
  let run := if out then a.out + 1 else 0
  { code := code, rel := if n < 4 then (s.sense.data.phot.getD n PhotSet.reset).rel code else 0, out := run
    alarm := out && (a.alarm || decide (3 ≤ run)) }

theorem State.sampleAin_eq {n raw : Nat} (free : s.measuring (8 + n) = false) : s.sampleAin n raw =
    let t : State := { s with sense := { s.sense with ains := tabPut s.sense.ains n (s.takenAin n raw) } }
    if (s.takenAin n raw).alarm && !(tabGet Ain.reset s.sense.ains n).alarm then
      (t.setBit 0x9010 4).raise (err 2 0x0C 0x06 (8 + n) (s.corrected (8 + n) raw) 0 0) else t := if_neg (by simp [free])

theorem State.takenAin_alarm {n raw : Nat} (high : 4 ≤ n) (out : s.supplyOut (n - 4) (s.corrected (8 + n) raw) = true)
    (third : 2 ≤ (tabGet Ain.reset s.sense.ains n).out) : (s.takenAin n raw).alarm = true := by
  simp [State.takenAin, high, out]
  omega

theorem State.takenAin_calm {n raw : Nat} (inside : n < 4 ∨ s.supplyOut (n - 4) (s.corrected (8 + n) raw) = false) :
    (s.takenAin n raw).alarm = false := by
  have calm : (decide (4 ≤ n) && s.supplyOut (n - 4) (s.corrected (8 + n) raw)) = false := by
    obtain low | quiet := inside
    · rw [decide_eq_false (by omega), Bool.false_and]
    · rw [quiet, Bool.and_false]
  simp only [State.takenAin, calm, Bool.false_and]

/-- The input after its sample, and what is raised: a new alarm is, and nothing else. -/
theorem State.sampleAin_keeps {n raw : Nat} (free : s.measuring (8 + n) = false) :
    (s.sampleAin n raw).sense.ains = tabPut s.sense.ains n (s.takenAin n raw) ∧ (s.sampleAin n raw).flt =
      if (s.takenAin n raw).alarm && !(tabGet Ain.reset s.sense.ains n).alarm then { s.flt with raised := s.flt.raised ++
        [{ what := err 2 0x0C 0x06 (8 + n) (s.corrected (8 + n) raw) 0 0, ns := s.tideNs, force := false }] } else s.flt := by
  rw [State.sampleAin_eq free]
  dsimp only
  split
  · rw [State.raise_of_mild _ (by simp [err])]
    exact ⟨rfl, rfl⟩
  · exact ⟨rfl, rfl⟩

end Inputs

/-! ### The commands -/

section Commands

variable {s : State} (runs : s.power.boot ≠ .inReset)
include runs

theorem exec_dieSensorSample (k : Fin 24) (v : Int) : exec (.dieSensorSample k v) s = .next (s.sampleDie k v) := if_pos (State.running_eq_true runs)

theorem exec_analogueTrip : exec .analogueTrip s = .next (s.trip 0xFF) := if_pos (State.running_eq_true runs)

theorem exec_remoteDiodeSample (n : Fin 8) (dv : Nat) : exec (.remoteDiodeSample n dv) s = .next (s.sampleDiode n dv) :=
  if_pos (State.running_eq_true runs)

theorem exec_boardSensorSample (dv : Nat) : exec (.boardSensorSample dv) s = .next (s.sampleBoard dv) := if_pos (State.running_eq_true runs)

theorem exec_ainSample (n : Fin 8) (raw : BitVec 12) : exec (.ainSample n raw) s = .next (s.sampleAin n raw.toNat) :=
  if_pos (State.running_eq_true runs)

end Commands

/-- Settles O55: each sample by the state it keeps and the reports behind it; the ports' lens temperatures by induction on the ports. -/
theorem sensorSamples : Obligations.SensorSamples := by
  intro s canon runs
  refine ⟨fun k v => ?_, fun cool => ?_, fun tripped => ?_, fun n dv busy => ?_, fun n dv free => ?_, fun dv none_ => ?_,
    fun n raw busy => ?_, fun n raw free => ?_⟩
  · obtain ⟨dies, level, hottest, trips⟩ := s.sampleDie_sense k v
    obtain ⟨period, own⟩ := s.sampledDie_own k v
    have die (j : Nat) : (s.sampleDie k v).die j = (s.sampledDie k v).die j := congrFun (State.die_of_dies dies) j
    refine ⟨_, exec_dieSensorSample runs k v, ?_, ?_, fun j other => (die j).trans (s.sampledDie_ne v other), ?_, fun hot once sound => trips ?_⟩
    · rw [die, own]
      rfl
    · rw [die, own]
      rfl
    · dsimp only
      rw [dies]
      exact ⟨level, hottest⟩
    · rw [die, own] at sound
      rw [own]
      exact State.judgedDie_hot hot once sound
  · obtain ⟨sense, pin, hold⟩ := State.trip_sets (s := s) 0xFF cool
    exact ⟨_, exec_analogueTrip runs, by rw [sense], pin, hold⟩
  · rw [exec_analogueTrip runs, State.trip_tripped 0xFF tripped]
  · rw [exec_remoteDiodeSample runs, State.sampleDiode, if_pos busy]
  · obtain ⟨u, heard, ends⟩ := State.sampleDiode_eq free dv
    have taken := ends ▸ u.forN_lensTaken n 4 (Nat.le_refl 4)
    have sense : (s.sampleDiode n dv).sense = (s.diodeKept n dv).sense := taken.sense.trans heard.sense
    have diode (m : Nat) := (congrFun (State.diode_of_sense sense) m).trans (s.diodeKept_diode n dv m)
    have port (p : Nat) : u.port p = s.port p := heard.port p
    refine ⟨_, exec_remoteDiodeSample runs n dv, ?_, ?_, fun m other => (diode m).trans (if_neg other), fun p low leads weighs free left => ?_,
      fun p low none_ => ?_⟩
    · rw [diode, if_pos rfl]
      rfl
    · rw [diode, if_pos rfl]
      rfl
    · have follows : u.follower p = s.follower p := State.follower_of_gangs (fun q => by rw [port]) p
      rw [← port p] at weighs free left ⊢
      rw [State.lensMean_of_sense taken.sense taken.words]
      exact taken.mean p low (follows.trans leads) weighs free (State.goodDiodes_of_sense taken.sense ▸ left)
    · rw [← port p] at none_ ⊢
      exact taken.quiet p low none_
  · refine ⟨_, exec_boardSensorSample runs dv, ?_⟩
    rw [State.sampleBoard_sense none_]
    rw [show (s.boardKept dv).sense.board = s.takenBoard dv from rfl]
    refine ⟨rfl, rfl, fun sound warm cool => ?_, fun outside => ?_⟩
    · exact if_pos (by rw [sound, decide_eq_true warm, decide_eq_true cool]; rfl)
    · refine if_neg ?_
      obtain cold | hot := outside
      · rw [decide_eq_false (Int.not_le.2 cold), Bool.and_false, Bool.false_and]
        decide
      · rw [decide_eq_false (Int.not_le.2 hot), Bool.and_false]
        decide
  · rw [exec_ainSample runs, State.sampleAin, if_pos busy]
  · obtain ⟨ains, flt⟩ := State.sampleAin_keeps (raw := raw.toNat) free
    intro a code
    refine ⟨_, exec_ainSample runs n raw, ?_, fun m other => ?_, fun high out calm third => ?_, fun inside => ?_⟩
    · rw [ains, tabGet, tabFind_put]
      rfl
    · rw [ains, tabFind_put_ne _ _ other]
    · have alarm := State.takenAin_alarm (raw := raw.toNat) high out third
      rw [ains, tabGet, tabFind_put, flt, alarm, show (tabGet Ain.reset s.sense.ains n).alarm = false from calm]
      exact ⟨alarm, rfl⟩
    · have quiet := State.takenAin_calm (raw := raw.toNat) inside
      rw [ains, tabGet, tabFind_put, flt, quiet]
      exact ⟨quiet, rfl⟩

end Sys2Proof.Machine

/-! The Causeway going down, a lane lost, and the forming of a pair (O57). -/

namespace Sys2Proof.Machine

/-! ### The Causeway goes down (R509, R519, R535) -/

/-- The Causeway's block as it is when the link is down. -/
def Cway.fallen (c : Cway) : Cway := { c with
  linkPhase := 0, txLanes := 0, rxLanes := 0, heard := none, idleAt := none, ackAt := none, helloAt := none, recvSeq := none
  discarding := false, ackRole := 0, placed := c.tx.length }

theorem State.cwayGoesDown_active {s : State} (active : s.cway.role = .active) : s.cwayGoesDown =
    (((s.modCway Cway.fallen).setBit 0x7004 4).breakLog).modCway fun c => { c with breakDue := false, log := [] } := by
  change (match s.cway.role with
    | .active => (((s.modCway Cway.fallen).setBit 0x7004 4).breakLog).modCway fun c => { c with breakDue := false, log := [] }
    | _ => (s.modCway Cway.fallen).breakMirror) = _
  rw [active]

theorem State.cwayGoesDown_other {s : State} (other : s.cway.role ≠ .active) : s.cwayGoesDown = (s.modCway Cway.fallen).breakMirror := by
  change (match s.cway.role with
    | .active => (((s.modCway Cway.fallen).setBit 0x7004 4).breakLog).modCway fun c => { c with breakDue := false, log := [] }
    | _ => (s.modCway Cway.fallen).breakMirror) = _
  split
  · contradiction
  · rfl

theorem State.becomeStale_role (s : State) : s.becomeStale.cway.role = .stale := by
  have dark : s.becomeStale = (forN 4 State.darken s).takeRole .stale := rfl
  rw [dark, State.takeRole_role]

theorem State.breakMirror_stale {s : State} (mirrors : s.cway.role = .mirrored ∨ s.cway.role = .catchup) :
    s.breakMirror.cway.role = .stale := by
  rw [State.breakMirror, if_pos mirrors]
  exact State.becomeStale_role _

/-- A unit that does not mirror has no mirror to break. -/
theorem State.breakMirror_other {s : State} (apart : ¬(s.cway.role = .mirrored ∨ s.cway.role = .catchup)) : s.breakMirror = s := if_neg apart

/-- The end of logging leaves the other words of the Causeway's block and the link as they are (R520). -/
theorem State.breakLog_bare (s : State) : s.breakLog.cway.logging = false ∧ s.breakLog.cway.linkPhase = s.cway.linkPhase ∧
    ∀ off, off ≠ 0x701C → s.breakLog.reg off = s.reg off := by
  unfold State.breakLog
  split
  · exact ⟨rfl, rfl, fun off other => State.reg_setReg_ne _ _ other⟩
  · next idle => exact ⟨Bool.eq_false_iff.2 idle, rfl, fun _ _ => rfl⟩

/-- An active unit goes on without its log, with peer_lost set (R519, R535). -/
theorem State.cwayGoesDown_goesOn {s : State} (sorted : tabSorted s.regs) (active : s.cway.role = .active) :
    s.cwayGoesDown.cway.linkPhase = 0 ∧ s.cwayGoesDown.cway.log = [] ∧ s.cwayGoesDown.cway.logging = false ∧
      s.cwayGoesDown.field 0x7004 4 4 = 1 ∧ s.cwayGoesDown.cway.role = .active ∧
      { s.cwayGoesDown with cway := s.cway, regs := s.regs } = s := by
  rw [State.cwayGoesDown_active active]
  let down : State := (s.modCway Cway.fallen).setBit 0x7004 4
  obtain ⟨quiet, phase, regs⟩ := down.breakLog_bare
  obtain ⟨role, -⟩ := down.breakLog_role
  obtain ⟨_, _, frame⟩ := down.breakLog_logged.frame
  refine ⟨phase, rfl, quiet, ?_, role.trans active, ?_⟩
  · exact (congrArg (fieldOf · 4 4) (regs 0x7004 (by decide))).trans
      (State.field_setBit (s := s.modCway Cway.fallen) sorted 0x7004 (by decide : 4 < 32))
  · exact congrArg (fun t : State => { t with cway := s.cway, regs := s.regs }) frame

/-! ### A lane is lost (R509) -/

theorem lane_cases (lane : Fin 2) : lane.val = 0 ∨ lane.val = 1 := by omega

/-- Of two lanes one is left. -/
theorem exec_causewayLaneLost_one {s : State} (up : 2 ≤ s.cway.linkPhase) (tx : s.cway.txLanes = 3) (rx : s.cway.rxLanes = 3)
    (receive : Bool) (lane : Fin 2) : exec (.causewayLaneLost receive lane) s = .next { s with cway := { s.cway with
      rxLanes := if receive then 3 - 2 ^ lane.val else 3, txLanes := if receive then 3 else 3 - 2 ^ lane.val, linkPhase := 2 } } := by
  have lost : exec (.causewayLaneLost receive lane) s = .next (s.cwayLaneLost receive lane) := if_pos (decide_eq_true up)
  rw [lost]
  rcases lane_cases lane with low | high
  · cases receive <;> simp [State.cwayLaneLost, State.modCway, low, tx, rx]
  · cases receive <;> simp [State.cwayLaneLost, State.modCway, high, tx, rx]

/-- With the last receive lane the Causeway goes down. -/
theorem exec_causewayLaneLost_last {s : State} (up : 2 ≤ s.cway.linkPhase) {lane : Fin 2} (rx : s.cway.rxLanes = 2 ^ lane.val) :
    exec (.causewayLaneLost true lane) s = .next (s.modCway fun c => { c with rxLanes := 0 }).cwayGoesDown := by
  have lost : exec (.causewayLaneLost true lane) s = .next (s.cwayLaneLost true lane) := if_pos (decide_eq_true up)
  rw [lost]
  rcases lane_cases lane with low | high
  · simp [State.cwayLaneLost, State.modCway, low, rx]
  · simp [State.cwayLaneLost, State.modCway, high, rx]

/-! ### The power-on transmit test (R513) -/

/-- A far-end loopback sends test blocks on its lanes (R376). -/
theorem State.startLoop_farEnd {s : State} {p : Nat} (stopped : (s.port p).phase = .stopped) (lanes : Nat) : s.startLoop p 3 lanes =
    (lanesOf lanes).foldl (fun t x => t.transmit p (.testBlocks x)) ((s.loopCleared p).modLink p fun l => l.looped 3 lanes) := by
  simp [State.startLoop, stopped, Link.looped, State.loopCleared]

/-- A far-end loopback changes its port and LINK_LOOP's result word (R376). -/
theorem State.startLoop_moves (s : State) (p lanes : Nat) : s.PortRegsMoved (s.startLoop p 3 lanes) p ∧
    ∀ off, off ≠ linkBase p + 0x84 → (s.startLoop p 3 lanes).reg off = s.reg off := by
  by_cases stopped : (s.port p).phase = .stopped
  · rw [State.startLoop_farEnd stopped lanes]
    have moved : (s.loopCleared p).LinkMoved
        ((lanesOf lanes).foldl (fun t x => t.transmit p (.testBlocks x)) ((s.loopCleared p).modLink p fun l => l.looped 3 lanes)) p :=
      List.foldlRecOn (motive := fun t => (s.loopCleared p).LinkMoved t p) _ _ (State.modLink_linkMoved _ p _)
        fun t h x _ => h.trans (t.transmit_linkMoved p (.testBlocks x))
    exact ⟨((s.loopCleared_regsMoved p).portRegsMoved p).trans moved.portRegsMoved, fun off apart =>
      (State.reg_of_regs moved.toPortMoved.regs off).trans (s.loopCleared_reg_ne apart)⟩
  · rw [State.startLoop_runs stopped]
    exact ⟨(s.setField_regsMoved _ 30 30 1).portRegsMoved p, fun off apart => State.reg_setReg_ne _ _ apart⟩

/-- The ports whose glass answers. -/
def State.glassPorts (s : State) : List Nat := (List.range 4).filter fun p => (s.port p).link.glass

/-- The transmit test of port `p` begins, where it can. -/
def State.startPost (p : Nat) (s : State) : State :=
  if !(s.cway.posts.contains p) then s.setField 0x7024 (4 * p + 3) (4 * p) 3
  else if (s.port p).link.trained && decide ((s.port p).link.power = .l0) then s.startLoop p 3 0xFFF
  else s

theorem State.startPost_canon {s : State} (canon : Canon s) (p : Nat) : Canon (s.startPost p) := by
  have kept : Kept false s (s.startPost p) := by
    unfold State.startPost
    split
    · exact State.setField_kept _ _ _ _ (Kept.refl false s)
    · split
      · exact State.startLoop_kept p 3 0xFFF (Kept.refl false s)
      · exact Kept.refl false s
  exact kept.canon canon

/-- The test of `s`'s ports below `n` has begun. -/
structure State.PostsBegun (s : State) (n : Nat) (t : State) : Prop extends s.PortsRegsOnly t where
  canon : Canon t
  same : ∀ p, p ∉ s.cway.posts → t.port p = s.port p
  noGlass : ∀ p, p < n → p ∉ s.cway.posts → t.field 0x7024 (4 * p + 3) (4 * p) = 3

/-- A port that is not under test is noted as such in 0x7024 (R513). -/
theorem State.startPost_skipped {s : State} {p : Nat} (dark : p ∉ s.cway.posts) :
    s.startPost p = s.setField 0x7024 (4 * p + 3) (4 * p) 3 := if_pos (by simp [dark])

/-- A port under test changes alone, and with it its own words. -/
theorem State.startPost_tested {s : State} {p : Nat} (tested : p ∈ s.cway.posts) : s.PortRegsMoved (s.startPost p) p ∧
    (s.startPost p).reg 0x7024 = s.reg 0x7024 := by
  rw [State.startPost, if_neg (by simp [tested])]
  split
  · obtain ⟨moved, words⟩ := s.startLoop_moves p 0xFFF
    exact ⟨moved, words 0x7024 (by unfold linkBase; omega)⟩
  · exact ⟨(State.PortMoved.refl s p).portRegsMoved, rfl⟩

theorem State.PostsBegun.next {s t : State} {n : Nat} (h : s.PostsBegun n t) (few : n < 8) : s.PostsBegun (n + 1) (t.startPost n) := by
  have posts : t.cway.posts = s.cway.posts := (congrArg (fun u : State => u.cway.posts) h.frame :)
  have canon := State.startPost_canon h.canon n
  by_cases tested : n ∈ s.cway.posts
  · obtain ⟨moved, word⟩ := State.startPost_tested (posts ▸ tested : n ∈ t.cway.posts)
    refine ⟨h.toPortsRegsOnly.trans ⟨moved.frame⟩, canon, fun p dark => ?_, fun p upTo dark => ?_⟩
    · exact (moved.others p fun here => dark (here ▸ tested)).trans (h.same p dark)
    · have other : p ≠ n := fun here => dark (here ▸ tested)
      exact (congrArg (fieldOf · _ _) word).trans (h.noGlass p (by omega) dark)
  · rw [State.startPost_skipped (posts ▸ tested : n ∉ t.cway.posts)] at canon ⊢
    refine ⟨h.toPortsRegsOnly.trans (.of_update t t.ports _), canon, h.same, fun p upTo dark => ?_⟩
    rcases Nat.lt_succ_iff_lt_or_eq.1 upTo with lower | rfl
    · rw [State.field_setField_below h.canon.regs.1 0x7024 (by omega) (by omega) 3 (4 * p) (by omega)]
      exact h.noGlass p lower dark
    · rw [State.field_setField h.canon.regs.1 0x7024 (by omega) (by omega), show 4 * p + 3 + 1 - 4 * p = 4 by omega]
      rfl

theorem State.forN_postsBegun {s : State} (canon : Canon s) {n : Nat} (few : n ≤ 8) : s.PostsBegun n (forN n State.startPost s) := by
  induction n with
  | zero => exact ⟨.refl s, canon, fun _ _ => rfl, fun p below => absurd below (Nat.not_lt_zero p)⟩
  | succ n ih =>
    rw [forN_succ]
    exact (ih (by omega)).next (by omega)

/-- A Causeway whose ports `posts` are under test. -/
def Cway.posting (c : Cway) (posts : List Nat) : Cway := { c with testing := true, testAt := none, posts := posts }

/-- The ports whose glass answers are under test. -/
def State.postsChosen (s : State) : State := s.modCway (·.posting s.glassPorts)

/-- The test begins on the ports whose glass answers; with none it has ended (R513). -/
theorem State.startPosts_eq (s : State) : s.startPosts =
    let t := forN 4 State.startPost s.postsChosen
    if t.cway.posts = [] then State.bootStart { t with cway := { t.cway with testDone := true } } else t := rfl

theorem State.startPosts_begun {s : State} (canon : Canon s) {p : Nat} (low : p < 4) (glass : (s.port p).link.glass = true) :
    s.postsChosen.PostsBegun 4 s.startPosts := by
  have chosen : Canon s.postsChosen := (State.modCway_kept (·.posting s.glassPorts) (Kept.refl false s)).canon canon
  have begun := State.forN_postsBegun chosen (n := 4) (by decide)
  have some : (forN 4 State.startPost s.postsChosen).cway.posts ≠ [] := by
    have same : (forN 4 State.startPost s.postsChosen).cway = s.postsChosen.cway := (congrArg State.cway begun.frame :)
    rw [same]
    exact List.ne_nil_of_mem (a := p) (List.mem_filter.2 ⟨List.mem_range.2 low, glass⟩)
  rw [State.startPosts_eq]
  exact if_neg some ▸ begun

/-! ### The statement -/

theorem exec_powerOnTransmitTest {s : State} (at_ : due s.cway.testAt s.now = true) (idle : s.cway.testing = false) :
    exec .powerOnTransmitTest s = .next s.startPosts := if_pos (by simp [at_, idle])

theorem exec_causewayDown {s : State} (up : 2 ≤ s.cway.linkPhase) (late : due (s.cway.heard.map (· + msTicks 1)) s.now = true) :
    exec .causewayDown s = .next s.cwayGoesDown := if_pos (by simp [State.cwayUp, up, late])

/-- Of a unit that neither mirrors nor is active, the link alone changes. -/
theorem State.cwayGoesDown_apart {s : State} (apart : s.cway.role = .solo ∨ s.cway.role = .stale ∨ s.cway.role = .failed) :
    s.cwayGoesDown = s.modCway Cway.fallen := by
  have other : s.cway.role ≠ .active := by rcases apart with role | role | role <;> simp [role]
  rw [State.cwayGoesDown_other other]
  refine State.breakMirror_other (?_ : ¬(s.cway.role = .mirrored ∨ s.cway.role = .catchup))
  rcases apart with role | role | role <;> simp [role]

theorem State.cwayGoesDown_stale {s : State} (mirrors : s.cway.role = .mirrored ∨ s.cway.role = .catchup) :
    s.cwayGoesDown.cway.role = .stale := by
  have other : s.cway.role ≠ .active := by rcases mirrors with role | role <;> simp [role]
  rw [State.cwayGoesDown_other other]
  exact State.breakMirror_stale (s := s.modCway Cway.fallen) mirrors

/-- Settles O57, by the roles in which the Causeway goes down and by induction on the ports under test. -/
theorem causewayLinkAndForming : Obligations.CausewayLinkAndForming := by
  unfold Obligations.CausewayLinkAndForming
  refine fun s canon => ⟨fun up late => ⟨_, exec_causewayDown up late, State.cwayGoesDown_goesOn canon.regs.1, State.cwayGoesDown_stale,
    fun apart => ?_⟩, fun lane up tx rx => ⟨?_, ?_⟩, fun lane up rx solo => ?_, fun late => ?_, fun at_ idle glass => ?_⟩
  · rw [State.cwayGoesDown_apart apart]
    exact ⟨rfl, rfl, rfl⟩
  · rw [exec_causewayLaneLost_one up tx rx, if_pos rfl, if_pos rfl, ← tx]
  · rw [exec_causewayLaneLost_one up tx rx, if_neg Bool.false_ne_true, if_neg Bool.false_ne_true, ← rx]
  · refine ⟨_, exec_causewayLaneLost_last up rx, ?_⟩
    rw [State.cwayGoesDown_apart (s := s.modCway fun c => { c with rxLanes := 0 }) (.inl solo)]
    exact ⟨rfl, rfl⟩
  · obtain ⟨_, _, solo⟩ := (s.modCway fun c => { c with helloBy := none }).takeRole_eq .solo
    refine ⟨_, if_pos late, ?_⟩
    rw [solo]
    exact ⟨rfl, rfl, rfl, rfl⟩
  · obtain ⟨p, low, answers⟩ := glass
    have begun := State.startPosts_begun canon low answers
    have dark : ∀ q, (s.port q).link.glass = false → q ∉ s.glassPorts := fun q none => by simp [State.glassPorts, none]
    refine ⟨_, exec_powerOnTransmitTest at_ idle, (congrArg State.cway begun.frame :), fun q below none => ⟨?_, ?_⟩, ?_⟩
    · exact begun.noGlass q below (dark q none)
    · exact begun.same q (dark q none)
    · exact (congrArg (fun t : State => { t with cway := s.cway }) begun.frame :)

end Sys2Proof.Machine

/-! Causeway records outside the log, broken records and sequence gaps (O58). -/

namespace Sys2Proof.Machine

/-! ### A record arrives (R519, R523) -/

/-- An intact record is heard, and its sequence number kept. -/
def State.hear (s : State) (bs : List Byte) : State :=
  { s with cway := { s.cway with heard := some s.now, recvSeq := some (recSeq bs) } }

/-- The last record applied is this one. -/
def State.appliedUpTo (s : State) (bs : List Byte) : State := { s with cway := { s.cway with applied := recSeq bs } }

section Records

variable {s : State} {bs : List Byte} {type : Nat} (runs : s.power.boot ≠ .inReset) (up : 2 ≤ s.cway.linkPhase)
  (hearing : s.cway.discarding = false) (kind : recType bs = type)
include runs up hearing kind

/-- An intact record in sequence takes its effect. -/
theorem State.onRecord_intact (ok : recordOk bs = true) (inSeq : s.seqGap bs = false) (f : State → State) :
    s.onRecord type bs f = (f (s.hear bs)).appliedUpTo bs := by
  have open_ : ¬(!s.running || !s.cwayUp || s.cway.discarding || decide (recType bs ≠ type)) = true := by
    simp [State.running, runs, State.cwayUp, up, hearing, kind]
  rw [State.onRecord, if_neg open_, if_neg (by simp [ok])]
  exact if_neg (by simp [inSeq])

/-- A record out of sequence breaks the mirror (R519). -/
theorem State.onRecord_gap (ok : recordOk bs = true) (gap : s.seqGap bs = true) (f : State → State) :
    s.onRecord type bs f = (s.hear bs).breakMirror := by
  have open_ : ¬(!s.running || !s.cwayUp || s.cway.discarding || decide (recType bs ≠ type)) = true := by
    simp [State.running, runs, State.cwayUp, up, hearing, kind]
  rw [State.onRecord, if_neg open_, if_neg (by simp [ok])]
  exact if_pos gap

/-- After a broken record a unit that mirrors discards (R523). -/
theorem State.onRecord_broken (bad : recordOk bs = false) (mirrors : s.mirrors = true) (f : State → State) :
    s.onRecord type bs f = s.modCway fun c => { c with discarding := true } := by
  have open_ : ¬(!s.running || !s.cwayUp || s.cway.discarding || decide (recType bs ≠ type)) = true := by
    simp [State.running, runs, State.cwayUp, up, hearing, kind]
  rw [State.onRecord, if_neg open_, if_pos (by simp [bad]), if_pos mirrors]

end Records

theorem State.mirrors_iff {s : State} : s.mirrors = true ↔ s.cway.role = .mirrored ∨ s.cway.role = .catchup := by
  simp [State.mirrors]

theorem State.seqGap_mirrors {s : State} {bs : List Byte} (gap : s.seqGap bs = true) : s.mirrors = true := by
  rw [State.seqGap, Bool.and_eq_true] at gap
  exact gap.1

/-! ### ACK (R520, R522) -/

/-- Records sent after number `got`. -/
def sentAfter (got : Nat) (x : Nat × List Byte) : Bool :=
  decide (0 < (x.1 + 2 ^ 32 - got) % 2 ^ 32) && decide ((x.1 + 2 ^ 32 - got) % 2 ^ 32 < 2 ^ 31)

/-- The active's log is freed up to the last record that the standby has received. -/
def Cway.freed (c : Cway) (b : List Byte) : Cway :=
  { c with log := c.log.filter (sentAfter (leAt b 0 4)), acked := leAt b 4 4, ackRole := leAt b 8 1 }

/-- What an ACK shows in the Causeway's registers. -/
def State.showAck (s : State) (b : List Byte) : State :=
  (s.setReg 0x7010 (leAt b 4 4)).setField 0x7008 15 0 (satNat (ceilDiv s.logFill 1024) 65535)

theorem State.takeAck_eq {s : State} (active : s.cway.role = .active) (b : List Byte) : s.takeAck b =
    if ((((s.modCway (·.freed b)).showAck b)).sendBreak).resignReady then
      ((((s.modCway (·.freed b)).showAck b)).sendBreak).finishResign .mirrored
    else ((((s.modCway (·.freed b)).showAck b)).sendBreak).serveCatchup (leAt b 8 1) := by
  rw [State.takeAck, if_neg (not_not.2 active)]
  rfl

/-- With no BREAK owed, no resignation and the log running, an ACK only frees the log. -/
theorem State.takeAck_logging {s : State} (active : s.cway.role = .active) (stays : s.cway.resigning = false)
    (paid : s.cway.breakDue = false) (logging : s.cway.logging = true) (b : List Byte) :
    s.takeAck b = (s.modCway (·.freed b)).showAck b := by
  have unbroken : ((s.modCway (·.freed b)).showAck b).sendBreak = (s.modCway (·.freed b)).showAck b := if_neg (by
    rw [show ((s.modCway (·.freed b)).showAck b).cway.breakDue = s.cway.breakDue from rfl, paid]; decide)
  have stays' : ((s.modCway (·.freed b)).showAck b).resignReady = false := by
    rw [State.resignReady, show ((s.modCway (·.freed b)).showAck b).cway.resigning = s.cway.resigning from rfl, stays]
    rfl
  rw [State.takeAck_eq active, unbroken, if_neg (by rw [stays']; decide)]
  refine if_neg fun serves => ?_
  exact serves.2.2.1 logging

theorem leAt_word (bs : List Byte) (off : Nat) : leAt bs off 4 < 2 ^ 32 := (leAt_lt bs off 4).trans_eq (by decide)

theorem State.showAck_word {s : State} (sorted : tabSorted s.regs) (b : List Byte) : (s.showAck b).reg 0x7010 = leAt b 4 4 := by
  rw [State.showAck, State.reg_setField_ne _ _ _ _ (by decide), State.reg_setReg sorted, Nat.mod_eq_of_lt (leAt_word b 4)]

theorem State.showAck_regsMoved (s : State) (b : List Byte) : s.RegsMoved (s.showAck b) :=
  (s.setReg_regsMoved _ _).trans (State.setField_regsMoved _ _ _ _ _)

theorem State.appliedUpTo_reg (s : State) (bs : List Byte) (off : Nat) : (s.appliedUpTo bs).reg off = s.reg off := rfl

theorem State.appliedUpTo_role (s : State) (bs : List Byte) : (s.appliedUpTo bs).cway.role = s.cway.role := rfl

/-- What an ACK leaves when it changes registers alone beside the Causeway. -/
theorem State.RegsMoved.frees {s u : State} {b : List Byte} (moved : (s.modCway (·.freed b)).RegsMoved u) (bs : List Byte) :
    (u.appliedUpTo bs).cway.acked = leAt b 4 4 ∧ (u.appliedUpTo bs).cway.ackRole = leAt b 8 1 ∧
      (u.appliedUpTo bs).cway.log = s.cway.log.filter (sentAfter (leAt b 0 4)) ∧
      ∀ cway regs, { u.appliedUpTo bs with cway := cway, regs := regs } = { s with cway := cway, regs := regs } := by
  obtain ⟨regs, rfl⟩ := moved
  exact ⟨rfl, rfl, rfl, fun _ _ => rfl⟩

/-! ### HELLO (R522) -/

/-- What a HELLO tells of the peer. -/
def Cway.greeted (c : Cway) (b : List Byte) : Cway :=
  { c with helloDone := true, peerPref := decide (leAt b 2 1 ≠ 0), peerRole := leAt b 3 1 % 8, peerTest := leAt b 5 1 }

/-- A HELLO that comes after the forming, with no test awaited, on a unit that is neither SOLO nor ACTIVE, only tells of the peer. -/
theorem State.takeHello_told {s : State} (formed : s.cway.helloBy = none) (tested : s.cway.testAt = none) (other : s.cway.role ≠ .active)
    (paired : s.cway.role ≠ .solo) (b : List Byte) : s.takeHello b = s.modCway (·.greeted b) := by
  have stays : (s.modCway (·.greeted b)).serveCatchup (leAt b 3 1 % 8) = s.modCway (·.greeted b) := if_neg fun serves => other serves.1
  rw [← stays]
  simp [State.takeHello, State.modCway, Cway.greeted, formed, tested, paired]

/-! ### FAULT and RESIGN (R528, R531) -/

theorem State.trigger_drives {s : State} (drives : s.cway.role = .solo ∨ s.cway.role = .active) (cause : Nat) : s.trigger cause = s := by
  rcases drives with role | role
  · simp only [State.trigger, role]
  · simp only [State.trigger, role]

theorem State.trigger_mirrored {s : State} (mirrored : s.cway.role = .mirrored) (cause : Nat) : s.trigger cause = s.takeover cause := by
  simp only [State.trigger, mirrored]

theorem State.trigger_stale {s : State} (stale : s.cway.role = .stale) (cause : Nat) :
    s.trigger cause = s.raiseCore true (err 2 0x0E 0x06 0 4 cause 0) := by
  simp only [State.trigger, stale, State.cannotClaim]
  rfl

theorem State.raise_cway {s : State} {e : ErrRec} (mild : e.sev ≠ 3) : (s.raise e).cway = s.cway := by
  rw [State.raise_of_mild _ mild]
  rfl

theorem State.raise_regs {s : State} {e : ErrRec} (mild : e.sev ≠ 3) : (s.raise e).regs = s.regs := by
  rw [State.raise_of_mild _ mild, State.raiseCore_regs]

theorem State.takeover_role (s : State) (cause : Nat) : (s.takeover cause).cway.role = .active := by
  unfold State.takeover
  extract_lets last written told bare forced quiet marked
  rw [State.raise_cway (by simp [err]), State.takeRole_role]

/-- With nothing replayed and nothing waiting, a takeover shows the applied point and its cause (R530). -/
theorem State.takeover_words {s : State} (sorted : tabSorted s.regs) (noReplay : s.cway.replays = []) (noItem : s.cway.applyQ = [])
    {cause : Nat} (low : cause < 65536) :
    (s.takeover cause).reg 0x7014 = s.cway.applied % 2 ^ 32 ∧ (s.takeover cause).field 0x7018 15 0 = cause := by
  obtain ⟨gap, regs⟩ := s.takeover_regs cause noReplay noItem
  have counted : tabSorted (s.setReg 0x7014 s.cway.applied |>.count 0x701C 15 0 1).regs := tabSorted_set (tabSorted_set sorted _ _ _) _ _ _
  constructor
  · rw [State.reg_of_regs regs, State.reg_setReg_ne _ _ (by decide), State.count, State.reg_setField_ne _ _ _ _ (by decide),
      State.reg_setReg sorted]
  · rw [State.field, State.reg_of_regs regs, State.reg_setReg counted, fieldOf]
    omega

/-- The peer's record as it is reported here (R528). -/
def State.toldFault (s : State) (b : List Byte) : State := s.raise (err 0 0x0E 0x05 (leAt b 0 1 % 4) (leAt b 1 4) (leAt b 5 4) 0)

theorem State.toldFault_eq (s : State) (b : List Byte) :
    s.toldFault b = s.raiseCore false (err 0 0x0E 0x05 (leAt b 0 1 % 4) (leAt b 1 4) (leAt b 5 4) 0) :=
  State.raise_of_mild _ (by simp [err])

theorem State.takeFault_told {s : State} {b : List Byte} (calm : s.cway.role = .solo ∨ s.cway.role = .active ∨ leAt b 0 1 % 4 < 2) :
    s.takeFault b = s.toldFault b := by
  change (if leAt b 0 1 % 4 = 3 ∨ (leAt b 0 1 % 4 = 2 ∧ (s.toldFault b).field 0x7000 1 1 = 1) then (s.toldFault b).trigger 2
    else s.toldFault b) = _
  have role : (s.toldFault b).cway.role = s.cway.role := by rw [State.toldFault_eq]; rfl
  split
  · next severe =>
    refine State.trigger_drives ?_ 2
    rw [role]
    rcases calm with solo | active | mild
    · exact .inl solo
    · exact .inr active
    · omega
  · rfl

theorem State.takeFault_fatal {s : State} {b : List Byte} (mirrored : s.cway.role = .mirrored) (fatal : leAt b 0 1 % 4 = 3) :
    s.takeFault b = (s.toldFault b).takeover 2 := by
  have role : (s.toldFault b).cway.role = .mirrored := by rw [State.toldFault_eq]; exact mirrored
  rw [← State.trigger_mirrored role]
  exact if_pos (.inl fatal)

/-! ### TRAIN (R509, R522) -/

/-- The requests of a TRAIN record concern taps and precoding alone. -/
theorem Cway.trainRequest_eq (c : Cway) (lane req : Nat) : ∃ taps wire, c.trainRequest lane req = { c with taps := taps, wire := wire } := by
  unfold Cway.trainRequest
  extract_lets set _ ask
  have asks : ∀ b, ∃ taps wire, ask b = { c with taps := taps, wire := wire } := fun b => by
    unfold ask
    split
    · exact ⟨_, _, rfl⟩
    · exact ⟨_, _, rfl⟩
  split
  · exact ⟨_, _, rfl⟩
  · exact ⟨_, _, rfl⟩
  · exact ⟨_, _, rfl⟩
  · exact ⟨_, _, rfl⟩
  · exact asks true
  · exact asks false
  · exact ⟨_, _, rfl⟩

/-- The Causeway with a transmit lane that has all its locks. -/
def Cway.trained (c : Cway) (lane req : Nat) : Cway := { c.trainRequest lane req with
  linkPhase := 1, rxLanes := 3, txLanes := 2 ^ lane }

/-- The first lane with all three locks brings the Causeway up, and HELLO goes out at once (R509, R522). -/
theorem State.takeTrainRecord_first {s : State} {b : List Byte} (down : s.cway.linkPhase = 0) (noTx : s.cway.txLanes = 0)
    (noRx : s.cway.rxLanes = 0) (low : leAt b 0 1 < 2) (locked : leAt b 2 1 % 8 = 7) :
    s.takeTrainRecord b = (s.modCway (·.trained (leAt b 0 1) (leAt b 1 1))).cwayComesUp := by
  unfold State.takeTrainRecord
  simp [State.modCway, Cway.trained, down, noTx, noRx, low, locked]

theorem State.cwayComesUp_first {s : State} (down : s.cway.linkPhase = 1) (oneLane : ¬(s.cway.txLanes = 3 ∧ s.cway.rxLanes = 3)) :
    s.cwayComesUp = (s.modCway fun c => { c with
      linkPhase := 2, heard := some s.now, recvSeq := none, discarding := false, ackAt := some s.now }).sendHello := by
  simp [State.cwayComesUp, State.modCway, State.cwayUp, down, oneLane]

/-- A HELLO is one record more. -/
theorem State.sendHello_up {s : State} (up : 2 ≤ s.cway.linkPhase) : ∃ bs seq, s.sendHello =
    { s with cway := { s.cway with helloAt := some (s.now + msTicks 10), tx := s.cway.tx ++ [bs], sendSeq := seq
                                   idleAt := some (s.now + usTicks 100) } } :=
  ⟨_, _, if_pos (decide_eq_true up)⟩

theorem State.takeTrainRecord_up {s : State} {b : List Byte} (down : s.cway.linkPhase = 0) (noTx : s.cway.txLanes = 0)
    (noRx : s.cway.rxLanes = 0) (low : leAt b 0 1 < 2) (locked : leAt b 2 1 % 8 = 7) :
    let t := s.takeTrainRecord b
    t.cway.linkPhase = 2 ∧ t.cway.txLanes = 2 ^ leAt b 0 1 ∧ t.cway.rxLanes = 3 ∧ t.cway.heard = some s.now ∧ t.cway.recvSeq = none ∧
      t.cway.tx.length = s.cway.tx.length + 1 ∧ { t with cway := s.cway } = s := by
  intro t
  have oneLane : 2 ^ leAt b 0 1 ≠ 3 := by
    rcases Nat.lt_succ_iff_lt_or_eq.1 low with zero | one
    · rw [Nat.lt_one_iff.1 zero]; decide
    · rw [one]; decide
  obtain ⟨taps, wire, asked⟩ := s.cway.trainRequest_eq (leAt b 0 1) (leAt b 1 1)
  have up := State.cwayComesUp_first (s := s.modCway (·.trained (leAt b 0 1) (leAt b 1 1))) rfl fun full => oneLane full.1
  obtain ⟨bs, seq, sent⟩ := State.sendHello_up (s := (s.modCway (·.trained (leAt b 0 1) (leAt b 1 1))).modCway fun c => { c with
    linkPhase := 2, heard := some s.now, recvSeq := none, discarding := false, ackAt := some s.now }) (Nat.le_refl 2)
  have went : t = _ := (State.takeTrainRecord_first down noTx noRx low locked).trans (up.trans sent)
  have tx : (s.cway.trained (leAt b 0 1) (leAt b 1 1)).tx = s.cway.tx := by rw [Cway.trained, asked]
  rw [went]
  refine ⟨rfl, rfl, rfl, rfl, rfl, ?_, rfl⟩
  exact (List.length_append).trans (congrArg (fun l => l.length + 1) tx)

/-! ### The statement -/

theorem exec_trainRecord {s : State} {bs : List Byte} (boot : s.power.boot = .configured) (paired : s.paired = true)
    (down : s.cway.linkPhase = 0) (ok : recordOk bs = true) (kind : recType bs = 0x12) :
    exec (.trainRecord bs) s = .next (s.takeTrainRecord (recordBody bs)) := by
  change execTrainRecord bs s = _
  simp [execTrainRecord, State.running, boot, paired, ok, kind, State.cwayUp, down]


/-- Settles O58, by what an intact record, a gap and a broken record do and the effect of each type of record. -/
theorem recordsHeard : Obligations.RecordsHeard := by
  unfold Obligations.RecordsHeard
  intro bs s canon runs up hearing heard applied b
  have takes : ∀ type, recType bs = type → recordOk bs = true → s.seqGap bs = false → ∀ f,
      s.onRecord type bs f = (f heard).appliedUpTo bs :=
    fun type kind ok inSeq f => State.onRecord_intact runs up hearing kind ok inSeq f
  refine ⟨fun bad mirrors kind => ?_, fun ok gap kind => ?_, fun ok inSeq => ⟨fun kind => ?_, fun kind other => ?_,
    fun kind active stays paid logging => ?_, fun kind formed tested other paired => ?_, fun kind => ?_, fun kind => ?_⟩, ?_⟩
  · exact congrArg Host.Outcome.next (State.onRecord_broken runs up hearing kind bad mirrors _)
  · exact ⟨_, congrArg Host.Outcome.next (State.onRecord_gap runs up hearing kind ok gap _),
      State.breakMirror_stale (s := heard) (State.mirrors_iff.1 (State.seqGap_mirrors (s := s) gap))⟩
  · exact congrArg Host.Outcome.next (takes _ kind ok inSeq _)
  · exact congrArg Host.Outcome.next ((takes _ kind ok inSeq _).trans (congrArg applied (if_pos other)))
  · have freed : heard.takeAck b = (heard.modCway (·.freed b)).showAck b := 
      State.takeAck_logging (s := heard) active stays paid logging b
    have moved := (heard.modCway (·.freed b)).showAck_regsMoved b
    have word := State.showAck_word (s := heard.modCway (·.freed b)) canon.regs.1 b
    generalize (heard.modCway (·.freed b)).showAck b = u at freed moved word
    obtain ⟨acked, role, log, frame⟩ := moved.frees bs
    exact ⟨_, congrArg Host.Outcome.next ((takes _ kind ok inSeq _).trans (congrArg applied freed)), acked, role,
      (u.appliedUpTo_reg bs _).trans word, log,      frame s.cway s.regs⟩
  · have told : heard.takeHello b = heard.modCway (·.greeted b) := 
      State.takeHello_told (s := heard) formed tested other paired b
    exact congrArg Host.Outcome.next ((takes _ kind ok inSeq _).trans (congrArg applied told))
  · refine ⟨fun calm => ?_, fun mirrored fatal => ⟨(heard.takeFault b).appliedUpTo bs, ?_, ?_⟩⟩
    · have told : heard.takeFault b = heard.toldFault b := State.takeFault_told (s := heard) calm
      exact congrArg Host.Outcome.next ((takes _ kind ok inSeq _).trans (congrArg applied told))
    · exact congrArg Host.Outcome.next (takes _ kind ok inSeq _)
    · have taken : heard.takeFault b = (heard.toldFault b).takeover 2 := State.takeFault_fatal (s := heard) mirrored fatal
      have cway : (heard.toldFault b).cway = heard.cway := State.raise_cway (by simp [err])
      have regs : (heard.toldFault b).regs = s.regs := State.raise_regs (by simp [err])
      rw [taken, State.appliedUpTo_role, State.takeover_role, State.appliedUpTo_reg, State.field, State.appliedUpTo_reg]
      refine ⟨rfl, fun noReplay noItem => ?_⟩
      have words := State.takeover_words (s := heard.toldFault b) (cause := 2) (regs ▸ canon.regs.1) (cway ▸ noReplay)
        (cway ▸ noItem) (by decide)
      rw [cway] at words
      exact words
  · refine ⟨fun mirrored => ⟨(heard.trigger 3).appliedUpTo bs, ?_, ?_⟩, fun stale => ?_⟩
    · exact congrArg Host.Outcome.next (takes _ kind ok inSeq _)
    · have taken : heard.trigger 3 = heard.takeover 3 := State.trigger_mirrored (s := heard) mirrored 3
      rw [taken, State.appliedUpTo_role, State.takeover_role]
    · have told : heard.trigger 3 = heard.raiseCore true (err 2 0x0E 0x06 0 4 3 0) := State.trigger_stale (s := heard) stale 3
      exact congrArg Host.Outcome.next ((takes _ kind ok inSeq _).trans (congrArg applied told))
  · intro u boot paired down noTx noRx ok kind low locked
    exact ⟨_, exec_trainRecord boot paired down ok kind, State.takeTrainRecord_up down noTx noRx low locked⟩

end Sys2Proof.Machine

/-! Resign, rejoin and promote (O60). -/

namespace Sys2Proof.Machine

/-! ### The end of descriptors leaves the links (R110, R519) -/

/-- Links and shuttles are as they were, and no descriptor is in flight that was not. -/
structure State.Empties (s t : State) : Prop where
  link : ∀ p, (t.port p).link = (s.port p).link
  fewer : ∀ e ∈ t.ledger, ∃ x ∈ s.ledger, x.id = e.id

theorem State.Empties.refl (s : State) : s.Empties s := ⟨fun _ => rfl, fun e mem => ⟨e, mem, rfl⟩⟩

theorem State.Empties.trans {s t u : State} (h : s.Empties t) (k : t.Empties u) : s.Empties u := by
  refine ⟨fun p => (k.link p).trans (h.link p), fun e mem => ?_⟩
  obtain ⟨y, inT, toE⟩ := k.fewer e mem
  obtain ⟨x, inS, toY⟩ := h.fewer y inT
  exact ⟨x, inS, toY.trans toE⟩

theorem State.Empties.of_eq {s t : State} (ports : t.ports = s.ports) (ledger : t.ledger = s.ledger) : s.Empties t :=
  ⟨fun p => congrArg Port.link (State.port_of_ports ports p), fun e mem => ⟨e, ledger ▸ mem, rfl⟩⟩

theorem State.Empties.foldl {α : Type} {f : State → α → State} (step : ∀ (t : State) x, t.Empties (f t x)) (l : List α) (s : State) :
    s.Empties (l.foldl f s) :=
  List.foldlRecOn (motive := s.Empties) l f (.refl s) fun t h x _ => h.trans (step t x)

theorem State.Logged.empties {s t : State} (h : s.Logged t) : s.Empties t := by
  obtain ⟨_, _, rfl⟩ := h
  exact .of_eq rfl rfl

theorem State.RegsMoved.empties {s t : State} (h : s.RegsMoved t) : s.Empties t := by
  obtain ⟨_, rfl⟩ := h
  exact .of_eq rfl rfl

/-- A change of every port that leaves its link. -/
theorem State.tabMap_empties (s : State) {f : Nat → Port → Port} (keeps : ∀ k x, (f k x).link = x.link) :
    s.Empties { s with ports := tabMap f s.ports } := by
  refine ⟨fun p => ?_, fun e mem => ⟨e, mem, rfl⟩⟩
  have read : State.port { s with ports := tabMap f s.ports } p = ((tabFind s.ports p).map fun x => f p x).getD Port.reset :=
    congrArg (Option.getD · Port.reset) (tabFind_map _ s.ports p)
  have here : s.port p = (tabFind s.ports p).getD Port.reset := rfl
  rw [read, here]
  cases tabFind s.ports p with
  | none => rfl
  | some x => exact keeps p x

/-- A change of one port that leaves its link. -/
theorem State.modPort_empties (s : State) (p : Nat) {f : Port → Port} (keeps : (f (s.port p)).link = (s.port p).link) :
    s.Empties (s.modPort p f) := by
  refine ⟨fun q => ?_, fun e mem => ⟨e, mem, rfl⟩⟩
  by_cases here : q = p
  · rw [here, State.port_modPort, keeps]
  · rw [State.port_modPort_ne _ _ here]

theorem State.dropEntry_empties (s : State) (id : Nat) : s.Empties (s.dropEntry id) :=
  ⟨fun _ => rfl, fun e mem => ⟨e, List.mem_of_mem_filter mem, rfl⟩⟩

theorem State.sweep_empties (s : State) : s.Empties s.sweep := .of_eq rfl rfl

theorem State.drained_empties (s : State) (r : Nat) : s.Empties (s.drained r) := by
  unfold State.drained
  split
  · exact .of_eq rfl rfl
  · exact .refl s

theorem State.writeCpl_empties (s : State) (d : Desc) (signal : Bool) (status detail ns r0 r1 : Nat) :
    s.Empties (s.writeCpl d signal status detail ns r0 r1) := by
  unfold State.writeCpl
  extract_lets t
  split
  · exact .refl s
  · split <;> exact .of_eq rfl rfl

theorem State.spoilVersions_empties (s : State) (e : Entry) (status : Nat) : s.Empties (s.spoilVersions e status) := by
  unfold State.spoilVersions
  split
  · obtain ⟨_, frame⟩ := s.foldl_modObj_eq e.versions fun v o =>
      if (o.version v.2).isSome then o else o.addVersion (o.newVersion v.2 false o.content [] [])
    rw [frame]
    exact .of_eq rfl rfl
  · exact .refl s

theorem State.finishAt_empties (s : State) (id ns : Nat) (signal : Bool) (f : Fail) (r0 r1 : Nat) :
    s.Empties (s.finishAt id ns signal f r0 r1) := by
  unfold State.finishAt
  split
  · exact .refl s
  · next e _ =>
    extract_lets told dropped marked
    have saw : s.Empties told := by
      unfold told
      split
      · exact .of_eq rfl rfl
      · split
        · exact .refl s
        · exact (s.writeCpl_empties _ _ _ _ _ _ _).trans (State.logRecord_logged _ _ _ _ _ _).empties
    have left : s.Empties dropped := (saw.trans (told.spoilVersions_empties e f.1)).trans (State.dropEntry_empties _ id)
    have noted : dropped.Empties marked := dropped.tabMap_empties fun _ _ => rfl
    have fresh : marked.Empties marked.refreshCommits := marked.tabMap_empties fun _ _ => rfl
    exact (((left.trans noted).trans fresh).trans (State.drained_empties _ _)).trans (State.sweep_empties _)

theorem State.failBound_empties (s : State) (p id : Nat) : s.Empties (s.failBound p id) := by
  unfold State.failBound
  extract_lets hit ids t
  have taken : s.Empties t := s.modPort_empties p rfl
  exact taken.trans (.foldl (fun u i => u.finishAt_empties i _ _ _ _ _) ids t)

theorem State.unqueue_empties (s : State) (id : Nat) : s.Empties (s.unqueue id) := by
  unfold State.unqueue
  extract_lets t keep strip
  have failed : s.Empties t := .foldl (fun u p => by
    dsimp only
    split
    · exact (u.modPort_empties p rfl).trans (State.failBound_empties _ p id)
    · exact .refl u) _ s
  exact failed.trans (t.tabMap_empties fun _ _ => rfl)

theorem State.unqueue_drop_empties (s : State) (id : Nat) : s.Empties ((s.unqueue id).dropEntry id) :=
  (s.unqueue_empties id).trans (State.dropEntry_empties _ id)

/-- With all its descriptors taken out one after the other, the ledger is empty. -/
theorem State.foldl_unqueue_ledger (ids : List Nat) {s : State} (all : ∀ e ∈ s.ledger, e.id ∈ ids) :
    (ids.foldl (fun t id => (t.unqueue id).dropEntry id) s).ledger = [] := by
  induction ids generalizing s with
  | nil => exact List.eq_nil_iff_forall_not_mem.2 fun e mem => List.not_mem_nil (all e mem)
  | cons id ids ih =>
    refine ih fun e mem => ?_
    obtain ⟨inS, other⟩ := List.mem_filter.1 mem
    obtain ⟨x, inX, same⟩ := (s.unqueue_empties id).fewer e inS
    have there : e.id ∈ id :: ids := same ▸ all x inX
    exact (List.mem_cons.1 there).resolve_left (of_decide_eq_true other)

/-! ### Leases are given up (R528, R529) -/

theorem State.resignLease_holds (s : State) (p : Nat) : ((s.resignLease p).port p).link.holds = false := by
  unfold State.resignLease
  split
  · rw [State.link_modLink]
  · next free => exact Bool.eq_false_iff.2 free

theorem State.forN_resignLease_holds (s : State) (n : Nat) :
    ∀ p, p < n → ((forN n (fun p s => s.resignLease p) s).port p).link.holds = false := by
  induction n with
  | zero => exact fun p below => absurd below (Nat.not_lt_zero p)
  | succ n ih =>
    rw [forN_succ]
    intro p upTo
    by_cases here : p = n
    · exact here ▸ State.resignLease_holds _ p
    · rw [(State.resignLease_linkMoved _ n).others p here]
      exact ih p (by omega)

theorem State.darken_holds {s : State} {p : Nat} (free : (s.port p).link.holds = false) (q : Nat) :
    ((s.darken q).port p).link.holds = false := by
  unfold State.darken
  split
  · exact free
  · by_cases here : p = q
    · obtain ⟨-, -, -, left⟩ := s.enterPower_link q .l2
      exact here ▸ left
    · rw [(s.enterPower_linkMoved q .l2).others p here]
      exact free

theorem State.darken_linksOnly (s : State) (q : Nat) : s.LinksOnly (s.darken q) := by
  unfold State.darken
  split
  · exact .refl s
  · exact (s.enterPower_linkMoved q .l2).linksOnly

theorem State.forN_darken_holds {s : State} {p : Nat} (free : (s.port p).link.holds = false) (n : Nat) :
    ((forN n State.darken s).port p).link.holds = false := by
  induction n with
  | zero => exact free
  | succ n ih =>
    rw [forN_succ]
    exact State.darken_holds ih n

/-! ### Standing down (R511, R529) -/

/-- Every descriptor in flight is taken out. -/
def State.emptied (s : State) : State := (s.ledger.map (·.id)).foldl (fun t id => (t.unqueue id).dropEntry id) s

/-- What a port has in flight is cut. -/
def Port.cutShort (q : Port) : Port := { q with rows := [], witTiles := [], witLeft := [], startId := none }

/-- No shuttle is under way, and no port has anything in flight. -/
def State.shuttlesCut (s : State) : State := { s with shuttles := [], ports := tabMap (fun _ q => q.cutShort) s.ports }

/-- The Causeway of a unit that has resigned. -/
def Cway.resigned (c : Cway) (now : Nat) : Cway := { c with
  resign := none, resigning := false, logging := false, log := [], recvSeq := none, replays := [], applyQ := [], finalStates := 0
  ackAt := some now }

theorem State.standDown_eq (s : State) (r : Role) : s.standDown r =
    (((forN 4 State.darken s.emptied.shuttlesCut).modCway
      (·.resigned (forN 4 State.darken s.emptied.shuttlesCut).now)).takeRole r).sweep := rfl

/-- A unit that stands down has nothing left in flight (R120, R511). -/
structure State.StoodDown (t : State) (r : Role) : Prop where
  role : t.cway.role = r
  stays : t.cway.resigning = false
  logging : t.cway.logging = false
  ledger : t.ledger = []
  shuttles : t.shuttles = []

/-- The new role and the release of storage keep what is empty. -/
theorem State.takeRole_sweep_stoodDown {u : State} (ledger : u.ledger = []) (shuttles : u.shuttles = []) (now : Nat) (r : Role) :
    State.StoodDown ((u.modCway (·.resigned now)).takeRole r).sweep r := by
  obtain ⟨rings, raised, role⟩ := (u.modCway (·.resigned now)).takeRole_eq r
  rw [role]
  exact ⟨rfl, rfl, rfl, ledger, shuttles⟩

theorem State.takeRole_sweep_rings (u : State) {r : Role} (dark : r.drives = false) (q : Nat) :
    ((u.takeRole r).sweep.ring q).state = .disabled :=
  (u.takeRole r).sweep_discards.off q (State.takeRole_disables u dark q)

theorem State.emptied_ledger (s : State) : s.emptied.ledger = [] :=
  State.foldl_unqueue_ledger _ fun _ mem => List.mem_map_of_mem mem

theorem State.standDown_stoodDown (s : State) (r : Role) : (s.standDown r).StoodDown r := by
  have dark : s.emptied.shuttlesCut.LinksOnly (forN 4 State.darken s.emptied.shuttlesCut) :=
    State.forN_linksOnly (fun p t => t.darken_linksOnly p) 4 _
  rw [State.standDown_eq]
  refine State.takeRole_sweep_stoodDown ?_ ?_ _ r
  · rw [dark.eq]
    exact s.emptied_ledger
  · rw [dark.eq]
    rfl

theorem State.standDown_holds {s : State} {p : Nat} (free : (s.port p).link.holds = false) (r : Role) :
    ((s.standDown r).port p).link.holds = false := by
  have cut : s.Empties s.emptied.shuttlesCut := by
    have emptied : s.Empties s.emptied := .foldl (fun t id => t.unqueue_drop_empties id) _ s
    have cut : s.emptied.Empties { s.emptied with ports := tabMap (fun _ q => q.cutShort) s.emptied.ports } :=
      s.emptied.tabMap_empties fun _ _ => rfl
    exact ⟨fun p => (cut.link p).trans (emptied.link p), (emptied.trans cut).fewer⟩
  have dark := State.forN_darken_holds (s := s.emptied.shuttlesCut) (p := p) (by rw [cut.link, free]) 4
  rw [State.standDown_eq]
  generalize forN 4 State.darken s.emptied.shuttlesCut = u at dark ⊢
  rw [(State.sweep_empties _).link p, State.port_of_ports (State.takeRole_ports _ r)]
  exact dark

theorem State.standDown_rings (s : State) {r : Role} (dark : r.drives = false) (q : Nat) : ((s.standDown r).ring q).state = .disabled := by
  rw [State.standDown_eq]
  exact State.takeRole_sweep_rings _ dark q

theorem exec_resignWaitTimeout {s : State} (resigns : s.cway.resigning = true) (late : due s.cway.resign s.now = true) :
    exec .resignWaitTimeout s = .next (s.finishResign .stale) := if_pos (by rw [resigns, late]; rfl)

/-- The record RESIGN goes out and every lease is given up. -/
def State.leasesResigned (s : State) : State :=
  forN 4 (fun p s => s.resignLease p) (s.sendPlain 0x0B (leBytes 4 s.cway.lastSent))

theorem State.finishResign_eq (s : State) (r : Role) : s.finishResign r = s.leasesResigned.standDown r := rfl

theorem State.leasesResigned_holds (s : State) {p : Nat} (low : p < 4) : (s.leasesResigned.port p).link.holds = false :=
  State.forN_resignLease_holds _ 4 p low

/-! ### The statement -/

theorem State.discardReplays_replays (s : State) : s.discardReplays.cway.replays = [] := rfl

theorem State.takeRole_replays (s : State) (r : Role) : (s.takeRole r).cway.replays = s.cway.replays := by
  obtain ⟨_, _, role⟩ := s.takeRole_eq r
  rw [role]

theorem State.wakeRunning_cway (s : State) : s.wakeRunning.cway = s.cway := by rw [s.wakeRunning_linksOnly.eq]

theorem exec_cwayResign {s : State} (runs : s.power.boot ≠ .inReset) : exec .cwayResign s = .next s.cwayResign := if_pos (decide_eq_true runs)

theorem exec_cwayRejoin {s : State} (runs : s.power.boot ≠ .inReset) : exec .cwayRejoin s = .next s.cwayRejoin := if_pos (decide_eq_true runs)

theorem exec_cwayPromote {s : State} (runs : s.power.boot ≠ .inReset) : exec .cwayPromote s = .next s.cwayPromote := if_pos (decide_eq_true runs)

/-- Settles O60: a resignation by what each of its steps empties, rejoin and promote by the role they take. -/
theorem rolesChanged : Obligations.RolesChanged := by
  unfold Obligations.RolesChanged
  refine fun s canon => ⟨fun resigns late => ?_, fun runs => ⟨fun active synced up => ?_, fun refused => ?_, fun stale peer => ?_, fun refused => ?_,
    fun behind lost => ?_, fun refused => ?_⟩⟩
  · have down := s.leasesResigned.standDown_stoodDown .stale
    refine ⟨s.leasesResigned.standDown .stale, (exec_resignWaitTimeout resigns late).trans (congrArg _ (s.finishResign_eq .stale)),
      down.role, down.stays, down.logging, down.ledger, down.shuttles, fun r => ?_, fun p low => ?_⟩
    · exact s.leasesResigned.standDown_rings rfl r
    · exact State.standDown_holds (s.leasesResigned_holds low) .stale
  · exact (exec_cwayResign runs).trans (congrArg _ (if_pos ⟨active, synced, decide_eq_true up⟩))
  · refine (exec_cwayResign runs).trans (congrArg _ (if_neg fun ready => ?_))
    obtain ⟨active, synced, up⟩ := ready
    have up := of_decide_eq_true up
    rcases refused with role | peer | link
    · exact role active
    · exact peer synced
    · omega
  · have rejoins : s.cwayRejoin = (s.modCway fun c => { c with
        snapDone := false, finalStates := 0, snapObjs := [], ackAt := some s.now }).takeRole .catchup := if_pos ⟨stale, peer⟩
    refine ⟨_, (exec_cwayRejoin runs).trans (congrArg _ rejoins), ?_⟩
    obtain ⟨_, _, role⟩ := (s.modCway fun c => { c with
      snapDone := false, finalStates := 0, snapObjs := [], ackAt := some s.now }).takeRole_eq .catchup
    rw [role]
    exact ⟨rfl, rfl, rfl, rfl, rfl, rfl⟩
  · exact (exec_cwayRejoin runs).trans (congrArg _ (if_neg fun ready => refused.elim (· ready.1) (· ready.2)))
  · refine ⟨s.discardReplays.wakeRunning.takeRole .solo, (exec_cwayPromote runs).trans (congrArg _ (if_pos ⟨behind, by simp [lost]⟩)),
      State.takeRole_role _ _, ?_⟩
    · rw [State.takeRole_replays, State.wakeRunning_cway, State.discardReplays_replays]
  · refine (exec_cwayPromote runs).trans (congrArg _ (if_neg fun ready => ?_))
    obtain ⟨behind, lost⟩ := ready
    rcases refused with apart | beats
    · exact behind.elim apart.1 apart.2
    · exact lost beats

end Sys2Proof.Machine

/-! The mirror's log on the unit that follows (O59). -/

namespace Sys2Proof.Machine

/-! ### A record of the log arrives (R515) -/

/-- An intact record of the log in sequence takes its effect on a unit that mirrors. -/
theorem State.onLog_intact {s : State} {bs : List Byte} {type : Nat} (runs : s.power.boot ≠ .inReset) (up : 2 ≤ s.cway.linkPhase)
    (hearing : s.cway.discarding = false) (kind : recType bs = type) (ok : recordOk bs = true) (inSeq : s.seqGap bs = false)
    (mirrors : s.mirrors = true) (f : State → State) : s.onLog type bs f = (f (s.hear bs)).appliedUpTo bs :=
  (State.onRecord_intact runs up hearing kind ok inSeq _).trans
    (congrArg (fun t : State => t.appliedUpTo bs) (if_pos (mirrors : (s.hear bs).mirrors = true)))

/-- State `t` is `s` but for the Causeway's block. -/
structure State.CwayOnly (s t : State) : Prop where
  eq : ∃ cway, t = { s with cway := cway }

theorem State.CwayOnly.trans {s t u : State} (h : s.CwayOnly t) (k : t.CwayOnly u) : s.CwayOnly u := by
  obtain ⟨_, rfl⟩ := h
  obtain ⟨_, rfl⟩ := k
  exact ⟨_, rfl⟩

theorem State.CwayOnly.frame {s t : State} (h : s.CwayOnly t) : { t with cway := s.cway } = s := by
  obtain ⟨_, rfl⟩ := h
  rfl

theorem State.hear_cwayOnly (s : State) (bs : List Byte) : s.CwayOnly (s.hear bs) := ⟨_, rfl⟩

theorem State.modCway_cwayOnly (s : State) (f : Cway → Cway) : s.CwayOnly (s.modCway f) := ⟨_, rfl⟩

theorem State.appliedUpTo_cwayOnly (s : State) (bs : List Byte) : s.CwayOnly (s.appliedUpTo bs) := ⟨_, rfl⟩

/-- A record that changes the Causeway's block alone. -/
theorem State.taken_frame (s : State) (bs : List Byte) (f : Cway → Cway) :
    { ((s.hear bs).modCway f).appliedUpTo bs with cway := s.cway } = s :=
  (((s.hear_cwayOnly bs).trans (State.modCway_cwayOnly _ f)).trans (State.appliedUpTo_cwayOnly _ bs)).frame

/-! ### DESC (R515) -/

/-- The replay of a logged descriptor, before anything has come of it. -/
def newReplay (ring dseq : Nat) (b : List Byte) : Replay :=
  { ring := ring, dseq := dseq, slot := leAt b 64 4, words := (List.range 16).map fun i => leAt b (4 * i) 4, data := []
    dataDone := false, result := none, done := none, versions := [], made := none, freed := none, ctx := none }

/-- One replay more. -/
def State.addReplay (s : State) (r : Replay) : State := s.modCway fun c => { c with replays := c.replays ++ [r] }

/-- A descriptor that the standby does not execute has had its effect (R515). -/
theorem State.takeDesc_skipped (s : State) {ring dseq : Nat} {b : List Byte} (skip : (newReplay ring dseq b).desc.sequenceOnly = true) :
    s.takeDesc ring dseq b = s.addReplay { newReplay ring dseq b with result := some stOk } := by
  have taken : s.takeDesc ring dseq b =
      let r := newReplay ring dseq b
      let u := s.addReplay { r with result := if r.desc.sequenceOnly then some stOk else none }
      if r.desc.sequenceOnly then u else (u.mirrorDesc r.desc).noteAccepted r u := rfl
  rw [taken]
  simp only [skip, if_true]

theorem State.takeDesc_replayed (s : State) {ring dseq : Nat} {b : List Byte} (runs : (newReplay ring dseq b).desc.sequenceOnly = false) :
    s.takeDesc ring dseq b = ((s.addReplay (newReplay ring dseq b)).mirrorDesc (newReplay ring dseq b).desc).noteAccepted
      (newReplay ring dseq b) (s.addReplay (newReplay ring dseq b)) := by
  have taken : s.takeDesc ring dseq b =
      let r := newReplay ring dseq b
      let u := s.addReplay { r with result := if r.desc.sequenceOnly then some stOk else none }
      if r.desc.sequenceOnly then u else (u.mirrorDesc r.desc).noteAccepted r u := rfl
  rw [taken]
  simp only [runs, Bool.false_eq_true, if_false]
  rfl

/-- The entry of a replayed descriptor that writes one surface. -/
def State.mirrorEntry (s : State) (d : Desc) (h : Nat) : Entry := { s.newEntry d .plain (s.versionGiven h) with mirrored := true }

/-- The ledger with one entry more. -/
def State.accepted (s : State) (e : Entry) (objs : Tab Obj) : State :=
  { s with objs := objs, ledger := s.ledger ++ [e], nextId := s.nextId + 1, ledgerPeak := max s.ledgerPeak (s.ledger.length + 1) }

/-- A standby, which logs nothing, accepts a replay as the active accepted the descriptor (R129, R515). -/
theorem State.accept_mirrored {s : State} (follows : s.cway.role ≠ .active) (d : Desc) (h : Nat) :
    ∃ objs, s.accept d .plain [h] true = s.accepted (s.mirrorEntry d h) objs := by
  unfold State.accept
  extract_lets plates vs e given placed next
  have numbers : vs = s.versionGiven h := by
    unfold vs plates State.versionGiven
    cases found : s.objOf h with
    | none => simp [found]
    | some o => by_cases plate : o.cls = 0 <;> simp [found, plate, List.eraseDups_cons]
  obtain ⟨objs, numbered⟩ := State.foldl_modObj_eq s vs fun v o => { o with given := v.2 }
  have numbered : given = { s with objs := objs } := numbered
  have entry : e = s.mirrorEntry d h := by
    unfold e
    rw [numbers]
    rfl
  have entered : next = s.accepted (s.mirrorEntry d h) objs := by
    change placed = _
    unfold placed
    rw [numbered, entry]
    rfl
  have quiet : ¬(next.cway.role = .active ∧ next.cway.logging) := fun logs => by
    rw [entered] at logs
    exact follows logs.1
  exact ⟨objs, (if_neg quiet).trans entered⟩

/-- What the standby notes of an acceptance concerns the replay's versions and context alone. -/
theorem State.noteAccepted_names (s : State) (r : Replay) (before : State) : ∃ replays, s.noteAccepted r before =
    s.modCway (fun c => { c with replays := replays }) ∧
    (replays.map fun x => (x.ring, x.dseq, x.words)) = s.cway.replays.map fun x => (x.ring, x.dseq, x.words) := by
  unfold State.noteAccepted
  split
  · exact ⟨s.cway.replays, rfl, rfl⟩
  · refine ⟨_, rfl, ?_⟩
    rw [List.map_map]
    refine List.map_congr_left fun x _ => ?_
    by_cases named : x.ring = r.ring ∧ x.dseq = r.dseq
    · simp only [Function.comp_apply, if_pos named]
    · simp only [Function.comp_apply, if_neg named]

/-- OBJ_WRITE and PLATE_LOAD are replayed. -/
theorem Desc.runs_of_surface {d : Desc} (surface : d.opcode = opObjWrite ∨ d.opcode = opPlateLoad) : d.sequenceOnly = false := by
  rcases surface with write | load
  · simp [Desc.sequenceOnly, write, opObjWrite, opNop, opFence, opWaitTime, opObjRead, opTallyJob, opCalMeasure]
  · simp [Desc.sequenceOnly, load, opPlateLoad, opNop, opFence, opWaitTime, opObjRead, opTallyJob, opCalMeasure]

/-- A logged descriptor that writes one surface is accepted, and its replay kept. -/
theorem State.takeDesc_surface {s : State} (follows : s.cway.role ≠ .active) {ring dseq : Nat} {b : List Byte}
    (surface : (newReplay ring dseq b).desc.opcode = opObjWrite ∨ (newReplay ring dseq b).desc.opcode = opPlateLoad) :
    ∃ objs replays, s.takeDesc ring dseq b = (s.accepted (s.mirrorEntry (newReplay ring dseq b).desc ((newReplay ring dseq b).desc.w 2))
        objs).modCway (fun c => { c with replays := replays }) ∧
      (replays.map fun x => (x.ring, x.dseq, x.words)) = (s.cway.replays.map fun x => (x.ring, x.dseq, x.words)) ++
        [(ring, dseq, (newReplay ring dseq b).words)] := by
  let u := s.addReplay (newReplay ring dseq b)
  let d := (newReplay ring dseq b).desc
  obtain ⟨objs, accepted⟩ := State.accept_mirrored (s := u) follows d (d.w 2)
  have mirrored : u.mirrorDesc d = u.accept d .plain [d.w 2] true := if_pos surface
  obtain ⟨replays, noted, names⟩ := (u.mirrorDesc d).noteAccepted_names (newReplay ring dseq b) u
  refine ⟨objs, replays, ?_, ?_⟩
  · rw [s.takeDesc_replayed (Desc.runs_of_surface surface)]
    refine noted.trans ?_
    rw [mirrored, accepted]
    rfl
  · rw [names, mirrored, accepted]
    exact List.map_append

/-! ### DATA (R522) -/

theorem State.takeData_more (s : State) (ring dseq : Nat) (b : List Byte) :
    s.takeData ring dseq false b = s.modReplay ring dseq fun r => r.fill (leAt b 0 4) (b.drop 4) false := by
  unfold State.takeData
  extract_lets filled
  split
  · rfl
  · exact if_neg fun last => Bool.false_ne_true last.1

/-! ### DONE (R519, R523) -/

/-- The completion of the descriptor of `r` is known. -/
def Replay.ended (r : Replay) (bs : List Byte) : Replay := { r with done := some bs }

theorem State.modReplay_only {s : State} {r : Replay} (only : s.cway.replays = [r]) (f : Replay → Replay) :
    (s.modReplay r.ring r.dseq f).cway.replays = [f r] := by
  simp [State.modReplay, State.modCway, only]

/-- The last of a ring's completion records (R534). -/
def lastRecents (recents : List (Nat × Nat × List Byte)) (x : Nat × Nat × List Byte) : List (Nat × Nat × List Byte) :=
  (recents.filter fun y => y.1 ≠ x.1) ++
    ((recents.filter fun y => y.1 = x.1) ++ [x]).drop (((recents.filter fun y => y.1 = x.1) ++ [x]).length - 64)

theorem mem_lastRecents (recents : List (Nat × Nat × List Byte)) (x : Nat × Nat × List Byte) : x ∈ lastRecents recents x := by
  refine List.mem_append_right _ ?_
  rw [List.drop_append_of_le_length (by simp)]
  exact List.mem_append_right _ (List.mem_singleton_self x)

/-- The one replay of a ring that is fully applied moves the ring's point past it (R523). -/
theorem State.advance_only {s : State} {r : Replay} {bs : List Byte} (only : s.cway.replays = [r]) (done : r.done = some bs) :
    s.advance r.ring = s.modCway fun c => { c with
      replays := [], points := tabPut c.points r.ring ((r.dseq + 1) % 2 ^ 32), recents := lastRecents c.recents (r.ring, r.slot, bs) } := by
  have once : s.advance r.ring = s.advanceOne r.ring := by
    rw [State.advance, only]
    rfl
  rw [once, State.advanceOne, only]
  simp [done, State.modCway, only, lastRecents]

theorem State.takeDone_skipped {s : State} {r : Replay} (only : s.cway.replays = [r]) (skip : r.desc.sequenceOnly = true)
    (took : r.result = some stOk) (b : List Byte) : s.takeDone r.ring r.dseq b = s.modCway fun c => { c with
      replays := [], points := tabPut c.points r.ring ((r.dseq + 1) % 2 ^ 32)
      recents := lastRecents c.recents (r.ring, r.slot, b.take 32) } := by
  have named : s.replayOf r.ring r.dseq = some r := by simp [State.replayOf, only]
  have whole : s.replayBroken r = false := by simp [State.replayBroken, named, took, tookEffect]
  have done : s.takeDone r.ring r.dseq b = (s.modReplay r.ring r.dseq (·.ended (b.take 32))).advance r.ring := by
    unfold State.takeDone
    rw [named]
    simp only [skip, if_true, whole, Bool.and_false, Bool.false_eq_true, if_false]
    rfl
  have kept := State.modReplay_only only (·.ended (b.take 32))
  have advanced := State.advance_only (r := r.ended (b.take 32)) kept rfl
  rw [done]
  exact advanced

/-! ### APPLY (R518) -/

/-- What an APPLY record names. -/
def applyItem (ring dseq : Nat) (b : List Byte) : ApplyItem :=
  { port := leAt b 0 1 % 4, kind := leAt b 1 1, frame := leAt b 4 8, ring := ring, dseq := dseq }

/-- A change that needs no preparation waits for its frame. -/
theorem State.takeApply_waits (s : State) {ring dseq : Nat} {b : List Byte} (noCommit : leAt b 1 1 ≠ 0) (noCal : leAt b 1 1 ≠ 2)
    (runs : leAt b 1 1 = 1 → (s.port (leAt b 0 1 % 4)).phase ≠ .stopped) :
    s.takeApply ring dseq b = s.modCway fun c => { c with applyQ := c.applyQ ++ [applyItem ring dseq b] } := by
  unfold State.takeApply
  extract_lets a ready
  have same : ready = s := by
    unfold ready
    split
    · contradiction
    · contradiction
    · rfl
  rw [same]
  exact if_neg fun starts => runs starts.1 starts.2

/-! ### REG (R516) -/

/-- What follows the write of a mirrored register concerns ports alone. -/
theorem State.wrote_portsOnly (s : State) (off old : Nat) : ∃ ports, s.wrote off old = { s with ports := ports } := by
  unfold State.wrote
  split
  · refine List.foldlRecOn (motive := fun t : State => ∃ ports, t = { s with ports := ports }) _ _ ⟨_, rfl⟩ fun t h p _ => ?_
    obtain ⟨ports, rfl⟩ := h
    dsimp only [State.newOwner]
    split
    · exact ⟨_, rfl⟩
    · exact ⟨_, rfl⟩
  · split
    · unfold State.holdTemp
      extract_lets is
      split
      · exact ⟨_, rfl⟩
      · split
        · exact ⟨_, rfl⟩
        · exact ⟨_, rfl⟩
    · exact ⟨_, rfl⟩

theorem State.takeRegs_one (s : State) {b : List Byte} (one : b.length = 8) (mirrored : mirroredReg (leAt b 0 4) = true)
    (aligned : leAt b 0 4 % 4 = 0) : s.takeRegs b = s.writeMirrored false (leAt b 0 4) (leAt b 4 4) := by
  rw [State.takeRegs, one]
  exact if_pos ⟨mirrored, aligned⟩

/-- A mirrored register takes its writable bits whatever the lock says, and no other register changes (R516, R570). -/
theorem State.writeMirrored_words {s : State} (sorted : tabSorted s.regs) (off v : Nat) :
    (∀ row, pfRow off = some row → row.w1c = 0 → ∀ i, i < 32 → ((s.writeMirrored false off v).reg off).testBit i =
      if row.rw.testBit i || row.rwl.testBit i then v.testBit i else (s.reg off).testBit i) ∧
    (∀ o, o ≠ off → (s.writeMirrored false off v).reg o = s.reg o) ∧
    ∀ ports regs cway, { s.writeMirrored false off v with regs := regs, ports := ports, cway := cway } =
      { s with regs := regs, ports := ports, cway := cway } := by
  obtain ⟨ports, wrote⟩ := (s.maskWrite false off v).wrote_portsOnly off (s.reg off)
  rw [State.writeMirrored, wrote]
  refine ⟨fun row here plain i low => ?_, fun o other => ?_, fun _ _ _ => ?_⟩
  · change ((s.maskWrite false off v).reg off).testBit i = _
    rw [State.maskWrite_of_some here, State.reg_setReg sorted, Nat.testBit_mod_two_pow, RegRow.testBit_next _ _ _ _ low, plain]
    simp [low]
  · change (s.maskWrite false off v).reg o = _
    unfold State.maskWrite
    split
    · exact State.reg_setReg_ne _ _ other
    · rfl
  · unfold State.maskWrite
    split
    · rfl
    · rfl

/-! ### BREAK (R519) -/

theorem State.becomeStale_replays (s : State) : s.becomeStale.cway.replays = s.cway.replays := by
  have dark : s.LinksOnly (forN 4 State.darken s) := State.forN_linksOnly (fun p t => t.darken_linksOnly p) 4 s
  have stale : s.becomeStale = (forN 4 State.darken s).takeRole .stale := rfl
  rw [stale, State.takeRole_replays, dark.eq]

theorem State.becomeStale_rings (s : State) (r : Nat) : (s.becomeStale.ring r).state = .disabled := by
  have stale : s.becomeStale = (forN 4 State.darken s).takeRole .stale := rfl
  rw [stale]
  exact State.takeRole_disables _ rfl r

/-- The mirror is broken: nothing is replayed, and no ring runs (R519, R535). -/
theorem State.breakMirror_broken {s : State} (mirrors : s.cway.role = .mirrored ∨ s.cway.role = .catchup) :
    s.breakMirror.cway.replays = [] ∧ ∀ r, (s.breakMirror.ring r).state = .disabled := by
  rw [State.breakMirror, if_pos mirrors, State.becomeStale_replays, State.discardReplays_replays]
  exact ⟨rfl, State.becomeStale_rings _⟩

/-! ### Each record of the log, taken -/

/-- A descriptor that the standby does not execute leaves a replay that has had its effect, and nothing else. -/
theorem State.addReplay_taken (s : State) (bs : List Byte) (r : Replay) :
    (((s.hear bs).addReplay r).appliedUpTo bs).cway.replays = s.cway.replays ++ [r] ∧
      { ((s.hear bs).addReplay r).appliedUpTo bs with cway := s.cway } = s :=
  ⟨rfl, s.taken_frame bs _⟩

/-- The entry that a replay makes, and the replays kept, are all that changes beside the objects. -/
theorem State.accepted_taken (s : State) (bs : List Byte) (e : Entry) (objs : Tab Obj) (replays : List Replay) :
    let t := (((s.hear bs).accepted e objs).modCway fun c => { c with replays := replays }).appliedUpTo bs
    t.ledger = s.ledger ++ [e] ∧ t.nextId = s.nextId + 1 ∧ t.cway.replays = replays ∧
      { t with cway := s.cway, ledger := s.ledger, nextId := s.nextId, ledgerPeak := s.ledgerPeak, objs := s.objs } = s := by
  obtain ⟨heard, hear⟩ := s.hear_cwayOnly bs
  have cway := State.modCway_cwayOnly ((s.hear bs).accepted e objs) fun c => { c with replays := replays }
  obtain ⟨cway, only⟩ := cway.trans (State.appliedUpTo_cwayOnly _ bs)
  intro t
  refine ⟨rfl, rfl, rfl, ?_⟩
  have taken : t = { (s.hear bs).accepted e objs with cway := cway } := only
  rw [taken, hear]
  rfl

theorem State.mirrorEntry_hear (s : State) (bs : List Byte) (d : Desc) (h : Nat) : (s.hear bs).mirrorEntry d h = s.mirrorEntry d h := rfl

theorem State.descTaken_surface {s : State} (follows : s.cway.role ≠ .active) (bs : List Byte) {r : Replay}
    (named : newReplay (recRing bs) (recDseq bs) (recordBody bs) = r) (surface : r.desc.opcode = opObjWrite ∨ r.desc.opcode = opPlateLoad) :
    ∃ t, ((s.hear bs).takeDesc (recRing bs) (recDseq bs) (recordBody bs)).appliedUpTo bs = t ∧
      t.ledger = s.ledger ++ [s.mirrorEntry r.desc (r.desc.w 2)] ∧ t.nextId = s.nextId + 1 ∧
      (t.cway.replays.map fun x => (x.ring, x.dseq, x.words)) =
        (s.cway.replays.map fun x => (x.ring, x.dseq, x.words)) ++ [(recRing bs, recDseq bs, r.words)] ∧
      { t with cway := s.cway, ledger := s.ledger, nextId := s.nextId, ledgerPeak := s.ledgerPeak, objs := s.objs } = s := by
  obtain ⟨objs, replays, taken, names⟩ := State.takeDesc_surface (s := s.hear bs) follows (named ▸ surface)
  rw [named, s.mirrorEntry_hear bs] at taken
  rw [named] at names
  obtain ⟨ledger, next, kept, frame⟩ := s.accepted_taken bs (s.mirrorEntry r.desc (r.desc.w 2)) objs replays
  refine ⟨_, congrArg (fun u : State => u.appliedUpTo bs) taken, ledger, next, ?_, frame⟩
  exact (congrArg (List.map fun x : Replay => (x.ring, x.dseq, x.words)) kept).trans names

/-- A replay that is fully applied leaves its ring's point and its completion record. -/
theorem State.advanced_taken (s : State) (bs : List Byte) (ring point : Nat) (x : Nat × Nat × List Byte) :
    let t := ((s.hear bs).modCway fun c => { c with
      replays := [], points := tabPut c.points ring point, recents := lastRecents c.recents x }).appliedUpTo bs
    t.cway.replays = [] ∧ tabFind t.cway.points ring = some point ∧ x ∈ t.cway.recents ∧ { t with cway := s.cway } = s :=
  ⟨rfl, tabFind_put _ _ _, mem_lastRecents _ _, s.taken_frame bs _⟩

/-- One register is written. -/
theorem State.writeMirrored_taken {s : State} (sorted : tabSorted s.regs) (bs : List Byte) (off v : Nat) :
    let t := ((s.hear bs).writeMirrored false off v).appliedUpTo bs
    (∀ row, pfRow off = some row → row.w1c = 0 → ∀ i, i < 32 → (t.reg off).testBit i =
      if row.rw.testBit i || row.rwl.testBit i then v.testBit i else (s.reg off).testBit i) ∧
    (∀ o, o ≠ off → t.reg o = s.reg o) ∧ { t with regs := s.regs, ports := s.ports, cway := s.cway } = s := by
  obtain ⟨here, others, frame⟩ := State.writeMirrored_words (s := s.hear bs) sorted off v
  generalize (s.hear bs).writeMirrored false off v = u at here others frame ⊢
  intro t
  have reg : ∀ o, t.reg o = u.reg o := u.appliedUpTo_reg bs
  refine ⟨fun row row' plain i low => ?_, fun o other => (reg o).trans (others o other), ?_⟩
  · rw [reg]
    exact here row row' plain i low
  · obtain ⟨cway, applied⟩ := u.appliedUpTo_cwayOnly bs
    have taken : t = { u with cway := cway } := applied
    rw [taken]
    exact frame s.ports s.regs s.cway

end Sys2Proof.Machine

/-! The active's snapshot on the unit that catches up, and the settlement of O59. -/

namespace Sys2Proof.Machine

/-! ### SNAPOBJ (R524) -/

theorem mkHandle_fields {h : Nat} (word : h < 2 ^ 32) : mkHandle (handleFn h) (handleIndex h) (handleGen h) = h := by
  simp only [mkHandle, handleFn, handleIndex, handleGen, fieldOf]
  omega

/-- The tiles of the object of a SNAPOBJ record. -/
def snapTiles (b : List Byte) : Nat := tileCount (leAt b 4 1) (leAt b 6 1) (leAt b 8 2) (leAt b 10 2) (leAt b 12 4)

/-- The object of a SNAPOBJ record as it is allocated, with its tiles. -/
def freshSnapObj (b : List Byte) (seed : Nat) (tiles : List Nat) : Obj :=
  { handle := leAt b 0 4, cls := leAt b 4 1, hint := leAt b 5 1, format := leAt b 6 1, width := leAt b 8 2, height := leAt b 10 2
    size := leAt b 12 4, fill := initialFill false (leAt b 4 1) (leAt b 6 1) seed
    versions := [firstVersion (leAt b 4 1) (leAt b 8 2) (leAt b 10 2) false tiles (snapTiles b)], given := 1, invalid := false
    lost := none, freeing := none, released := false }

/-- The object with the version number and the mark that the active has given it. -/
def Obj.asActive (o : Obj) (b : List Byte) : Obj := { o with
  invalid := decide (leAt b 7 1 % 2 = 1), given := max 1 (leAt b 16 4)
  versions := o.versions.map fun v => { v with num := if leAt b 4 1 = 0 then leAt b 16 4 else 0 } }

theorem asActive_tilesHeld (b : List Byte) (seed first : Nat) :
    ((freshSnapObj b seed (List.range' first (snapTiles b))).asActive b).tilesHeld.length = snapTiles b := by
  have held : ((freshSnapObj b seed (List.range' first (snapTiles b))).asActive b).tilesHeld = List.range' first (snapTiles b) := by
    simpa [Obj.tilesHeld, Obj.asActive, freshSnapObj, firstVersion] using eraseDups_of_nodup List.nodup_range'
  rw [held, List.length_range']

/-- The generations as a SNAPOBJ record gives them. -/
def State.withGen (s : State) (h : Nat) : State := { s with gens := tabPut s.gens (handleIndex h) (handleGen h) }

/-- The object is allocated under its own handle. -/
theorem State.createAt_snap (s : State) (b : List Byte) : ∃ seed first fresh harb,
    ((s.withGen (leAt b 0 4)).createAt (handleFn (leAt b 0 4)) (handleIndex (leAt b 0 4)) (leAt b 4 1) (leAt b 5 1) (leAt b 6 1) (leAt b 8 2)
      (leAt b 10 2) (leAt b 12 4) false).2 =
    ({ s.withGen (leAt b 0 4) with fresh := fresh, harb := harb } : State).setObj (freshSnapObj b seed (List.range' first (snapTiles b))) := by
  have gen : tabGet 1 (s.withGen (leAt b 0 4)).gens (handleIndex (leAt b 0 4)) = handleGen (leAt b 0 4) := by
    simp [State.withGen, tabGet, tabFind_put]
  have tiles := State.takeTiles_fst (snapTiles b) (s.withGen (leAt b 0 4)).draw
  obtain ⟨fresh, harb, taken⟩ := State.takeTiles_snd (snapTiles b) (s.withGen (leAt b 0 4)).draw
  unfold State.createAt
  rw [show tileCount (leAt b 4 1) (leAt b 6 1) (leAt b 8 2) (leAt b 10 2) (leAt b 12 4) = snapTiles b from rfl]
  simp only [gen, mkHandle_fields (leAt_word b 0), taken, tiles]
  exact ⟨(s.withGen (leAt b 0 4)).fresh, (s.withGen (leAt b 0 4)).harb.nextTile, fresh,
    (State.peaks (State.setObj { s.withGen (leAt b 0 4) with fresh := fresh, harb := harb } (freshSnapObj b
      (s.withGen (leAt b 0 4)).fresh (List.range' (s.withGen (leAt b 0 4)).harb.nextTile (snapTiles b))))).harb, rfl⟩

theorem State.objOf_setObj_named (s : State) {o : Obj} {h : Nat} (named : o.handle = h) : (s.setObj o).objOf h = some o :=
  named ▸ s.objOf_setObj o

/-- A change of an object that is there. -/
theorem State.modObj_of_some {s : State} {h : Nat} {o : Obj} (here : s.objOf h = some o) (f : Obj → Obj) : s.modObj h f = s.setObj (f o) := by
  rw [State.modObj, here]

/-- Allocated and marked, the object stands under its handle as the active has it. -/
theorem State.takeSnapobj_makes {s : State} {b : List Byte} (behind : s.cway.role = .catchup)
    (free : tabFind s.objs (handleIndex (leAt b 0 4)) = none) (room : s.allocFails (handleFn (leAt b 0 4)) (snapTiles b) = none) :
    ∃ seed first, (s.takeSnapobj b).objOf (leAt b 0 4) = some ((freshSnapObj b seed (List.range' first (snapTiles b))).asActive b) ∧
      (s.takeSnapobj b).cway.snapObjs = s.cway.snapObjs ++ [leAt b 0 4] := by
  obtain ⟨seed, first, fresh, harb, made⟩ := s.createAt_snap b
  have fits : ¬((tabFind s.objs (handleIndex (leAt b 0 4))).isSome = true ∨ (s.allocFails (handleFn (leAt b 0 4)) (snapTiles b)).isSome = true) := by
    simp [free, room]
  have taken : s.takeSnapobj b = (((s.withGen (leAt b 0 4)).createAt (handleFn (leAt b 0 4)) (handleIndex (leAt b 0 4)) (leAt b 4 1)
      (leAt b 5 1) (leAt b 6 1) (leAt b 8 2) (leAt b 10 2) (leAt b 12 4) false).2.modObj (leAt b 0 4) (·.asActive b)).modCway
        fun c => { c with snapObjs := c.snapObjs ++ [leAt b 0 4] } := (if_neg (not_not.2 behind)).trans (if_neg fits)
  rw [made, State.modObj_of_some (State.objOf_setObj_named _ (h := leAt b 0 4) (o := freshSnapObj b seed _) rfl)] at taken
  rw [taken]
  exact ⟨seed, first, State.objOf_setObj_named _ (o := (freshSnapObj b seed (List.range' first (snapTiles b))).asActive b) rfl, rfl⟩

/-! ### SNAP (R524) -/

/-- The object with these bytes at an offset of its host layout. -/
def Obj.withBytes (o : Obj) (off : Nat) (bs : List Byte) : Obj := { o with versions := o.versions.map fun v =>
  { v with bytes := writeBytes o.fill v.bytes off (bs.take (o.layout - off)) } }

theorem State.takeSnap_more {s : State} {b : List Byte} (behind : s.cway.role = .catchup) {o : Obj} (here : s.objOf (leAt b 0 4) = some o) :
    s.takeSnap false b = s.setObj (o.withBytes (leAt b 4 4) (b.drop 8)) := by
  rw [State.takeSnap, if_neg (not_not.2 behind), State.modObj_of_some here]
  simp [Obj.withBytes]

/-! ### SNAPSTATE (R522, log 12) -/

/-- The applied points that a SNAPSTATE record gives. -/
def snapPoints (b : List Byte) : Tab Nat := (List.range 128).map fun r => (r, Config.snapNext b r % 2 ^ 32)

theorem tabFind_mapped (f : Nat → Nat) {l : List Nat} {r : Nat} (mem : r ∈ l) : tabFind (l.map fun x => (x, f x)) r = some (f r) := by
  induction l with
  | nil => exact absurd mem List.not_mem_nil
  | cons x l ih =>
    by_cases here : x = r
    · simp [tabFind, here]
    · simpa [tabFind, here] using ih ((List.mem_cons.1 mem).resolve_left (Ne.symm here))

theorem tabFind_snapPoints (b : List Byte) {r : Nat} (low : r < 128) : tabFind (snapPoints b) r = some (Config.snapNext b r % 2 ^ 32) :=
  tabFind_mapped _ (List.mem_range.2 low)

/-- The descriptors in flight are taken over, with ports, contexts and points. -/
theorem State.takeState_eq (s : State) (b : List Byte) : ∃ ports ctxs es, es.length = (Config.snapEntries b).length ∧ s.takeState b =
    ({ s with ports := ports, ctxs := ctxs, ledger := s.ledger ++ es, nextId := s.nextId + es.length } : State).modCway
      fun c => { c with points := snapPoints b } := by
  unfold State.takeState
  extract_lets base es t u points
  have ports : ∃ ports, t = { s with ports := ports } :=
    List.foldlRecOn (motive := fun t : State => ∃ ports, t = { s with ports := ports }) _ _ ⟨_, rfl⟩ fun t h p _ => by
      obtain ⟨ports, rfl⟩ := h
      dsimp only
      split
      · exact ⟨_, rfl⟩
      · exact ⟨_, rfl⟩
  obtain ⟨ports, byPorts⟩ := ports
  have ctxs : ∃ ctxs, u = { t with ctxs := ctxs } :=
    List.foldlRecOn (motive := fun u : State => ∃ ctxs, u = { t with ctxs := ctxs }) _ _ ⟨_, rfl⟩ fun u h m _ => by
      obtain ⟨ctxs, rfl⟩ := h
      dsimp only
      split
      · exact ⟨_, rfl⟩
      · exact ⟨_, rfl⟩
  obtain ⟨ctxs, byCtxs⟩ := ctxs
  refine ⟨ports, ctxs, es, by simp [es, indexed], ?_⟩
  rw [byCtxs, byPorts]
  rfl

/-- Entering STANDBY-MIRRORED changes the role and what goes with it (R514, R524). -/
theorem State.tryMirrored_eq {s : State} (behind : s.cway.role = .catchup) : ∃ cway rings flt, s.tryMirrored =
    { s with cway := cway, rings := rings, flt := flt } ∧ cway.finalStates = s.cway.finalStates ∧ cway.points = s.cway.points ∧
      (cway.role = .mirrored ∨ cway.role = .catchup) := by
  unfold State.tryMirrored
  split
  · obtain ⟨rings, raised, role⟩ := State.takeRole_eq { s with cway := { s.cway with snapDone := true } } .mirrored
    exact ⟨_, rings, _, role, rfl, rfl, .inl rfl⟩
  · exact ⟨s.cway, s.rings, s.flt, rfl, rfl, rfl, .inr behind⟩

/-- What a SNAPSTATE record after the first one takes over. -/
structure State.TookOver (s : State) (b : List Byte) (t : State) : Prop where
  finals : t.cway.finalStates = s.cway.finalStates + 1
  role : t.cway.role = .mirrored ∨ t.cway.role = .catchup
  next : t.nextId = s.nextId + (Config.snapEntries b).length
  ledger : t.ledger.length = s.ledger.length + (Config.snapEntries b).length
  points : t.cway.points = snapPoints b

theorem State.takeSnapstate_last {s : State} (behind : s.cway.role = .catchup) (later : s.cway.finalStates ≠ 0) (b : List Byte) :
    s.TookOver b (s.takeSnapstate b) := by
  have taken : s.takeSnapstate b = ((s.takeState b).modCway fun c => { c with
      finalStates := c.finalStates + 1, snapObjs := c.snapObjs }).tryMirrored := by
    unfold State.takeSnapstate
    simp [behind, later]
  obtain ⟨ports, ctxs, es, many, state⟩ := s.takeState_eq b
  obtain ⟨cway, rings, flt, mirrored, finals, points, role⟩ := State.tryMirrored_eq (s := (s.takeState b).modCway fun c => { c with
      finalStates := c.finalStates + 1, snapObjs := c.snapObjs }) (by rw [state]; exact behind)
  rw [taken, mirrored]
  rw [state] at finals points ⊢
  exact ⟨finals, role, congrArg (s.nextId + ·) many, by rw [← many]; exact List.length_append, points⟩

/-! ### The statement -/

/-- Bytes are put into one object, and the Causeway's block notes the record. -/
theorem State.setObj_taken (s : State) (bs : List Byte) (o : Obj) :
    { ((s.hear bs).setObj o).appliedUpTo bs with objs := s.objs, cway := s.cway } = s := by
  obtain ⟨_, hear⟩ := s.hear_cwayOnly bs
  obtain ⟨_, applied⟩ := ((s.hear bs).setObj o).appliedUpTo_cwayOnly bs
  rw [applied, hear]
  rfl

/-- Settles O59: each record by the lemma on what it leaves, once it is heard in sequence. -/
theorem logAndSnapshotApplied : Obligations.LogAndSnapshotApplied := by
  unfold Obligations.LogAndSnapshotApplied
  refine ⟨fun bs s canon runs up hearing mirrors ok inSeq => ?_, fun bs s canon runs up hearing behind ok inSeq => ?_⟩
  · intro heard applied b
    have takes : ∀ type, recType bs = type → ∀ f, s.onLog type bs f = (f (s.hear bs)).appliedUpTo bs :=
      fun type kind f => State.onLog_intact runs up hearing kind ok inSeq mirrors f
    have roles := State.mirrors_iff.1 mirrors
    have follows : s.cway.role ≠ .active := by rcases roles with role | role <;> simp [role]
    refine ⟨fun kind => ⟨fun skip => ?_, fun surface => ?_⟩, fun kind more => ?_, fun kind r only ring dseq skip took => ?_,
      fun kind => ?_, fun kind one mirrored aligned => ?_, fun kind => ?_⟩
    · obtain ⟨kept, frame⟩ := s.addReplay_taken bs { newReplay (recRing bs) (recDseq bs) b with result := some stOk }
      refine ⟨_, _, congrArg Host.Outcome.next ((takes _ kind _).trans (congrArg (fun t : State => t.appliedUpTo bs)
        (State.takeDesc_skipped _ skip))), kept, rfl, rfl, rfl, rfl, rfl, frame⟩
    · obtain ⟨t, taken, ledger, next, names, frame⟩ := State.descTaken_surface follows bs rfl surface
      exact ⟨t, congrArg Host.Outcome.next ((takes _ kind _).trans taken), ledger, next, names, frame⟩
    · refine congrArg Host.Outcome.next ((takes _ kind _).trans (congrArg (fun t : State => t.appliedUpTo bs) ?_))
      rw [more, State.takeData_more]
      rfl
    · have taken := State.takeDone_skipped (s := s.hear bs) only skip took b
      obtain ⟨gone, point, recent, frame⟩ := s.advanced_taken bs r.ring ((r.dseq + 1) % 2 ^ 32) (r.ring, r.slot, b.take 32)
      rw [ring, dseq] at taken
      rw [ring, dseq] at gone point recent frame
      exact ⟨_, congrArg Host.Outcome.next ((takes _ kind _).trans (congrArg (fun t : State => t.appliedUpTo bs) taken)), gone, point,
        recent, frame⟩
    · intro a noCommit noCal waits
      exact congrArg Host.Outcome.next ((takes _ kind _).trans (congrArg (fun t : State => t.appliedUpTo bs)
        (State.takeApply_waits (s.hear bs) noCommit noCal waits)))
    · obtain ⟨here, others, frame⟩ := State.writeMirrored_taken canon.regs.1 bs (leAt b 0 4) (leAt b 4 4)
      exact ⟨_, congrArg Host.Outcome.next ((takes _ kind _).trans (congrArg (fun t : State => t.appliedUpTo bs)
        (State.takeRegs_one _ one mirrored aligned))), here, others, frame⟩
    · obtain ⟨replays, rings⟩ := State.breakMirror_broken (s := s.hear bs) roles
      have stale := State.breakMirror_stale (s := s.hear bs) roles
      exact ⟨_, congrArg Host.Outcome.next (takes _ kind _), stale, replays, rings⟩
  · intro b
    have takes : ∀ type, recType bs = type → ∀ f, s.onLog type bs f = (f (s.hear bs)).appliedUpTo bs :=
      fun type kind f => State.onLog_intact runs up hearing kind ok inSeq (State.mirrors_iff.2 (.inr behind)) f
    refine ⟨fun kind => ?_, fun kind more o here => ?_, fun kind later => ?_⟩
    · intro h n free room
      obtain ⟨seed, first, made, named⟩ := State.takeSnapobj_makes (s := s.hear bs) (b := b) behind free room
      exact ⟨_, _, congrArg Host.Outcome.next (takes _ kind _), made, rfl, rfl, rfl, rfl, rfl, rfl, asActive_tilesHeld b seed first, rfl, rfl, named⟩
    · have snap : (s.hear bs).takeSnap (recLast bs) b = (s.hear bs).setObj (o.withBytes (leAt b 4 4) (b.drop 8)) := by
        rw [more]
        exact State.takeSnap_more (s := s.hear bs) behind here
      refine ⟨_, congrArg Host.Outcome.next ((takes _ kind _).trans (congrArg (fun t : State => t.appliedUpTo bs) snap)), ?_,
        s.setObj_taken bs _⟩
      have named : o.handle = leAt b 0 4 := State.objOf_handle here
      exact State.objOf_setObj_named (s.hear bs) (o := o.withBytes _ _) named
    · have took := State.takeSnapstate_last (s := s.hear bs) behind later b
      refine ⟨_, congrArg Host.Outcome.next (takes _ kind _), took.finals, took.role, took.next, took.ledger, fun r low => ?_⟩
      exact (congrArg (tabFind · r) took.points).trans (tabFind_snapPoints b low)

end Sys2Proof.Machine
